-- ==== Sys2Proof/Word.lean ====
section
/-! DEFINITION. The word types of the Octun T1 and the plainest arithmetic on them (R5 to R9). -/

namespace Sys2Proof

/-- A device register or a scalar register, R10 and Table 0-4. -/
abbrev Word := BitVec 64

/-- One byte of memory. -/
abbrev Byte := BitVec 8

/-- One vector register or one Vat row: 512 lanes of 32 bits (Table 0-4, R117). -/
abbrev VReg := BitVec 16384

/-- Bits [hi:lo] of a word as a natural number (R7). -/
def bits {n : Nat} (w : BitVec n) (hi lo : Nat) : Nat :=
  (w.toNat >>> lo) % 2 ^ (hi + 1 - lo)

/-- One bit of a word. -/
def bit {n : Nat} (w : BitVec n) (i : Nat) : Bool := w.toNat.testBit i

/-- A Boolean as a field of one bit. -/
def b1 (b : Bool) : Nat := if b then 1 else 0

/-- The word whose fields are given as (lowest bit, value) pairs; the fields do not overlap. -/
def mkWord (fields : List (Nat × Nat)) : Word :=
  BitVec.ofNat 64 (fields.foldl (fun acc f => acc + f.2 <<< f.1) 0)

/-- The signed value of the low `n` bits of a number. -/
def signedOf (n v : Nat) : Int :=
  let u := v % 2 ^ n
  if u < 2 ^ (n - 1) then (u : Int) else (u : Int) - (2 ^ n : Nat)

/-- The low `n` bits of an integer in two's complement. -/
def unsignedOf (n : Nat) (v : Int) : Nat := (v % (2 ^ n : Nat)).toNat

/-- The little-endian value of a list of bytes (R8): the first byte is the least significant. -/
def leNat : List Byte → Nat
  | [] => 0
  | b :: bs => b.toNat + 256 * leNat bs

/-- The `n` little-endian bytes of a number (R8). -/
def leBytes : Nat → Nat → List Byte
  | 0, _ => []
  | n + 1, v => BitVec.ofNat 8 (v % 256) :: leBytes n (v / 256)

end Sys2Proof
end

