-- ==== Sys2Proof/Syntax.lean ====
section
/-! DEFINITION. The commands of the Octun T1: one constructor of `Instr` for every row of
spec/opcode_table.json, with the operands of its encoding (Table 2-8) or of the happening it names. The
errors that a command meets are operands too; none is met where they are left out. -/

namespace Sys2Proof

/-- What executes a Seisk instruction: a core's sequencer (R22) or one of the Curator's four management cores (R51). -/
inductive Hart where
  | core (n : Fin 128)
  | mgmt (k : Fin 4)
  deriving DecidableEq, Repr

/-- A scalar register number, a tile register number, a queue handle register number, a predicate number. -/
abbrev SReg := Fin 32
abbrev VNum := Fin 32
abbrev TReg := Fin 16
abbrev QReg := Fin 8
abbrev PReg := Fin 8
abbrev CoreId := Fin 128
abbrev Gal := Fin 8
abbrev PortId := Fin 12

/-- Relations of cset and cseti (Table 3-2). -/
inductive Rel where
  | eq | ne | lt | le | ltu | leu
  deriving DecidableEq, Repr

/-- Relations of fcmp (Table 3-3). -/
inductive FRel where
  | eq | lt | le | un
  deriving DecidableEq, Repr

/-- Relations of vcmp (Table 3-7). -/
inductive VRel where
  | eq | ne | lt | le | gt | ge
  deriving DecidableEq, Repr

/-- Branch conditions (Table 3-6). -/
inductive Cond where
  | eq | ne | lt | ge | ltu | geu | always
  deriving DecidableEq, Repr

/-- Predicate branch conditions (Table 3-6). -/
inductive PCond where
  | any | all | none
  deriving DecidableEq, Repr

/-- Access sizes of ld and st (Table 3-5). -/
inductive Size where
  | byte | half | word | double
  deriving DecidableEq, Repr

/-- Combining operations of amo (R82). -/
inductive AmoOp where
  | add | swap | maxs | mins | or | and
  deriving DecidableEq, Repr

/-- Element formats (Table 2-3). -/
inductive Fmt where
  | f32 | bf16 | f16 | e4m3 | e5m2 | e2m3 | e3m2 | e2m1 | i8 | i32 | e8m0 | sf16
  deriving DecidableEq, Repr

/-- The RM field of format V (R49): the mode of fpctl, or an explicit mode. -/
inductive RmField where
  | dyn | rn | rz | ru | rd
  deriving DecidableEq, Repr

/-- What the SEC-DED check meets in the storage that a vector instruction reads (R90, R134, R192): nothing, a corrected
error of a vector register, an uncorrectable one in a 64-byte segment of a register, or either in the Vat row that a
vrdvat reads. -/
inductive RegErr where
  | none | ce | ue (r : VNum) (seg : Fin 32) | rowCe | rowUe
  deriving DecidableEq, Repr

/-- The PG and PGN fields: a guard predicate and its negation (Table 2-8); and, no part of the word, what the
instruction's read of its registers meets. -/
structure Guard where
  p : PReg
  neg : Bool
  err : RegErr := .none
  deriving DecidableEq, Repr

/-- fcvt kinds (Table 3-3). -/
inductive FcvtKind where
  | toInt | toFp
  deriving DecidableEq, Repr

/-- Activation functions (Table 6-3). -/
inductive ActFn where
  | relu | leaky | sigmoid | tanh | exp | gelu | silu | ln
  deriving DecidableEq, Repr

/-- vred functions (Table 3-7). -/
inductive RedFn where
  | sum | max | min
  deriving DecidableEq, Repr

/-- vcred operations (Table 6-2); top-k carries k, which is legal from 1 to 8. -/
inductive CredOp where
  | sum | max | topk (k : Fin 16)
  deriving DecidableEq, Repr

/-- plog operations (R88). -/
inductive PlogFn where
  | and | or | xor | andc | not
  deriving DecidableEq, Repr

/-- Group sizes of MODE.GS (R92). -/
inductive GroupSize where
  | g4 | g8 | g16
  deriving DecidableEq, Repr

/-- The MODE field of mmul and mgemm (R92). -/
structure MMode where
  acc : Bool
  gs : GroupSize
  trans : Bool
  deriving DecidableEq, Repr

/-- Collective OP and AXIS fields (R101). -/
inductive ColOp where
  | sum | max | min
  deriving DecidableEq, Repr

abbrev Axis := Fin 4

/-- The FN field of a collective instruction (R101), but for DIR. -/
structure ColFn where
  op : ColOp
  axis : Axis
  codec : Bool
  bidir : Bool
  ragged : Bool
  deriving DecidableEq, Repr

/-- Fence kinds (Table 2-11). -/
inductive FenceKind where
  | s | m | d | c | a
  deriving DecidableEq, Repr

/-- waitm conditions (R105). -/
inductive WCond where
  | eq | ne | geu | ltu
  deriving DecidableEq, Repr

/-- csrw forms (Table 3-15). -/
inductive CsrOp where
  | write | set | clear
  deriving DecidableEq, Repr

/-- Optimizer algorithms (R185). -/
inductive OptAlg where
  | adamw | sgd | lion
  deriving DecidableEq, Repr

/-- The physical errors the engine meets while a slab runs (R134): counts of corrected single-bit
errors, and the rows of the named buffer or of the Vat that meet an uncorrectable error. -/
structure EngErrors where
  stbCe : Nat
  vatCe : Nat
  stbUe : List (Fin 128)
  vatUe : List (Fin 128)
  deriving DecidableEq, Repr

/-- A fabric packet: the four header words of Table 9-6 and its payload bytes. -/
structure Packet where
  w0 : Word
  w1 : Word
  w2 : Word
  w3 : Word
  payload : List Byte
  deriving DecidableEq, Repr

/-- A link frame: eight 32-byte slots and the trailer of Table 9-3 (R272). -/
structure Frame where
  slots : List (BitVec 256)
  trailer : Word
  deriving DecidableEq, Repr

/-- One UDP datagram for an SHT endpoint: source address (IPv4 in IPv4-mapped IPv6 form), UDP port, body (R356). -/
structure Datagram where
  src : BitVec 128
  port : BitVec 16
  body : List Byte
  deriving DecidableEq, Repr

/-- Who accesses a device register (R46): a context on its core, or the Curator. -/
inductive Accessor where
  | ctx (c : CoreId)
  | curator
  deriving DecidableEq, Repr

/-- The agents of the Trellis stops (Table 9-1). -/
inductive Agent where
  | cluster (n : Fin 16) | cellar (g : Fin 16) | port (p : PortId) | slice (i : Fin 4)
  | ethernet | curator | provenance | timebase | conditionReport | frameMap | rackingSched | debug
  | host (g : Gal)
  deriving DecidableEq, Repr

/-- The error that an access meets in a Cask or Reserve line: none, one that SEC-DED corrects, or one that it
detects (Table 13-2, KINDs 0x06 and 0x07). -/
inductive SramErr where
  | none | ce | ue
  deriving DecidableEq, Repr

/-- The error that a unit meets in one Cask or Reserve line, at an effective address. -/
structure LineErr where
  ea : BitVec 64 := 0
  err : SramErr := .none
  deriving DecidableEq, Repr

/-- The errors that a slice meets as it takes a packet: in its buffer (R332), and in a Reserve line of the operation's
cluster that it reads (R389). -/
structure SliceErr where
  buf : SramErr := .none
  line : LineErr := {}
  deriving DecidableEq, Repr

/-- The errors that a Trellis transfer meets (R266): corrected ones, uncorrectable ones in its data and in its header,
and the line of memory that it carries, if any. -/
structure TrellisErr where
  ce : Nat := 0
  dataUe : Nat := 0
  headerUe : Bool := false
  line : Option Nat := none
  deriving DecidableEq, Repr

/-- One on-die request (R265 to R267): its number, its two stops, its Gallery tag, and the errors its transfer meets. -/
structure TrellisReq where
  id : Nat
  src : Agent
  dst : Agent
  gallery : Option Gal
  err : TrellisErr
  deriving DecidableEq, Repr

/-- What asks the walker for a translation (Table 13-4, KIND 0x03). -/
inductive WalkReq where
  | core (c : CoreId) | racking (c : CoreId) (q : Fin 2) | slice (i : Fin 4) | ethernet
  deriving DecidableEq, Repr

/-- The errors of structure lines that a walk, or a Frame Map command, meets (R252): corrected ones, and the line whose
copy A, or copy B, is found uncorrectable. Lines are numbered as Frames.lean does. -/
structure FmapErr where
  ce : Nat := 0
  line : Nat := 0
  ueA : Bool := false
  ueB : Bool := false
  deriving DecidableEq, Repr

/-- The line that a patrol read takes (R242): the next of data space; or the next of system space, in a spare row of a
channel or a line of a Frame Map structure, with the symbols in error that the re-read after a correctable error meets. -/
inductive ScrubLine where
  | data
  | spare (ch : Fin 16) (again : Nat)
  | struct (line : Nat) (again : Nat)
  deriving DecidableEq, Repr

/-- The SHT endpoints (R353): the device management endpoint and the host endpoint of each Gallery. -/
inductive Ep where
  | mgmt | host (g : Gal)
  deriving DecidableEq, Repr

/-- What a DHCP server sends: an offer and a lease of DHCPv4, with gateway and prefix length, and a DHCPv6 reply. -/
inductive DhcpMsg where
  | offer (addr : BitVec 32) | ack (addr gateway : BitVec 32) (pfx : BitVec 6) | reply6 (addr : BitVec 128)
  deriving DecidableEq, Repr

/-- What an IP packet carries; a UDP datagram with its destination port and whether its checksum is right. -/
inductive IpBody where
  | echo (data : List Byte) | udp (port : BitVec 16) (sumOk : Bool) | dhcp (m : DhcpMsg) | other
  deriving DecidableEq, Repr

/-- What a frame carries (Table 12-1): ARP and Neighbour Discovery requests, IP packets with the destination, whether they
have header options or extension headers, and whether they are fragments; a PFC frame with its priorities and quanta. -/
inductive EthBody where
  | arpRequest (target : BitVec 32) | ndSolicit (target : BitVec 128)
  | ip4 (dst : BitVec 32) (options fragment : Bool) (p : IpBody)
  | ip6 (dst : BitVec 128) (extension fragment : Bool) (p : IpBody)
  | pfc (prios : BitVec 8) (quanta : BitVec 16)
  | other
  deriving DecidableEq, Repr

/-- A frame that the Ethernet port receives below SHT and PTP: its length, the control information of its 802.1Q tags, its
destination address, whether that is a group address of ARP or Neighbour Discovery, and what it carries. -/
structure EthFrame where
  len : Nat
  tags : List (BitVec 16)
  dst : BitVec 48
  body : EthBody
  deriving DecidableEq, Repr

/-- A PTP message (R343): Sync of a one-step or two-step master, Follow_Up, Delay_Resp, with the sequence number and the
origin or receive timestamp in TAI nanoseconds. -/
inductive PtpMsg where
  | sync (twoStep : Bool) (seq : BitVec 16) (origin : BitVec 64)
  | followUp (seq : BitVec 16) (origin : BitVec 64)
  | delayResp (seq : BitVec 16) (receive : BitVec 64)
  | other
  deriving DecidableEq, Repr

/-- PLLs (Table 15-5, KIND 0x27). -/
inductive Pll where
  | core | memory | ethernet | port (p : PortId)
  deriving DecidableEq, Repr

/-- IEEE 1149.1 instructions (R422): the ones always accepted, EXTEST, and those that reach device state. -/
inductive JtagInstr where
  | bypass | idcode | samplePreload | extest | internal
  deriving DecidableEq, Repr

/-- The commands, one constructor a row of spec/opcode_table.json. -/
inductive Instr where
  -- Seisk: scalar (R76 to R80)
  | illegal (h : Hart) (w : Word)
  | add (h : Hart) (sd sa sb : SReg)
  | sub (h : Hart) (sd sa sb : SReg)
  | mullo (h : Hart) (sd sa sb : SReg)
  | mulhss (h : Hart) (sd sa sb : SReg)
  | mulhuu (h : Hart) (sd sa sb : SReg)
  | mulhsu (h : Hart) (sd sa sb : SReg)
  | quos (h : Hart) (sd sa sb : SReg)
  | quou (h : Hart) (sd sa sb : SReg)
  | rmds (h : Hart) (sd sa sb : SReg)
  | rmdu (h : Hart) (sd sa sb : SReg)
  | and (h : Hart) (sd sa sb : SReg)
  | or (h : Hart) (sd sa sb : SReg)
  | xor (h : Hart) (sd sa sb : SReg)
  | andc (h : Hart) (sd sa sb : SReg)
  | shl (h : Hart) (sd sa sb : SReg)
  | shr (h : Hart) (sd sa sb : SReg)
  | shra (h : Hart) (sd sa sb : SReg)
  | ror (h : Hart) (sd sa sb : SReg)
  | cset (h : Hart) (cc : Rel) (sd sa sb : SReg)
  | mins (h : Hart) (sd sa sb : SReg)
  | maxs (h : Hart) (sd sa sb : SReg)
  | minu (h : Hart) (sd sa sb : SReg)
  | maxu (h : Hart) (sd sa sb : SReg)
  | sel (h : Hart) (sd sa sb sc : SReg)
  | madd (h : Hart) (sd sa sb sc : SReg)
  | zlead (h : Hart) (sd sa : SReg)
  | ztrail (h : Hart) (sd sa : SReg)
  | ones (h : Hart) (sd sa : SReg)
  | fadd (h : Hart) (sd sa sb : SReg)
  | fsub (h : Hart) (sd sa sb : SReg)
  | fmul (h : Hart) (sd sa sb : SReg)
  | ffma (h : Hart) (sd sa sb sc : SReg)
  | fcmp (h : Hart) (cc : FRel) (sd sa sb : SReg)
  | fcvt (h : Hart) (k : FcvtKind) (sd sa : SReg)
  | fmin (h : Hart) (sd sa sb : SReg)
  | fmax (h : Hart) (sd sa sb : SReg)
  | tset (h : Hart) (tn : TReg) (sa : SReg) (w : Fin 4)
  | tget (h : Hart) (sd : SReg) (tn : TReg) (w : Fin 4)
  | addi (h : Hart) (sd sa : SReg) (imm : BitVec 40)
  | andi (h : Hart) (sd sa : SReg) (imm : BitVec 40)
  | ori (h : Hart) (sd sa : SReg) (imm : BitVec 40)
  | xori (h : Hart) (sd sa : SReg) (imm : BitVec 40)
  | shli (h : Hart) (sd sa : SReg) (cnt : BitVec 6)
  | shri (h : Hart) (sd sa : SReg) (cnt : BitVec 6)
  | shrai (h : Hart) (sd sa : SReg) (cnt : BitVec 6)
  | lih (h : Hart) (sd sa : SReg) (imm : BitVec 40)
  -- Seisk: loads, stores, branches (R81 to R84)
  | ld (h : Hart) (size : Size) (signed : Bool) (err : SramErr) (sd sa : SReg) (imm : BitVec 40)
  | st (h : Hart) (size : Size) (sd sa : SReg) (imm : BitVec 40)
  | amo (h : Hart) (op : AmoOp) (sd sa : SReg) (imm : BitVec 40)
  | cseti (h : Hart) (cc : Rel) (sd sa : SReg) (imm : BitVec 40)
  | tld (h : Hart) (tn : TReg) (sa : SReg) (imm : BitVec 40)
  | tst (h : Hart) (tn : TReg) (sa : SReg) (imm : BitVec 40)
  | br (h : Hart) (cc : Cond) (sa sb : SReg) (disp : BitVec 40)
  | call (h : Hart) (sa : SReg) (disp : BitVec 40)
  | callr (h : Hart) (sb sa : SReg) (disp : BitVec 40)
  | bp (h : Hart) (cc : PCond) (pn : PReg) (disp : BitVec 40)
  | loop (h : Hart) (sa : SReg) (disp : BitVec 40)
  -- Seisk: vector (R85 to R90)
  | vadd (h : Hart) (g : Guard) (fmt : Fmt) (rm : RmField) (vd va vb : VNum)
  | vsub (h : Hart) (g : Guard) (fmt : Fmt) (rm : RmField) (vd va vb : VNum)
  | vmul (h : Hart) (g : Guard) (fmt : Fmt) (rm : RmField) (vd va vb : VNum)
  | vfma (h : Hart) (g : Guard) (fmt : Fmt) (rm : RmField) (vd va vb : VNum)
  | vmin (h : Hart) (g : Guard) (fmt : Fmt) (vd va vb : VNum)
  | vmax (h : Hart) (g : Guard) (fmt : Fmt) (vd va vb : VNum)
  | vrcp (h : Hart) (g : Guard) (fmt : Fmt) (vd va : VNum)
  | vrsqrt (h : Hart) (g : Guard) (fmt : Fmt) (vd va : VNum)
  | vsqrt (h : Hart) (g : Guard) (fmt : Fmt) (rm : RmField) (vd va : VNum)
  | vact (h : Hart) (g : Guard) (fmt : Fmt) (rm : RmField) (fn : ActFn) (vd va : VNum)
  | vactd (h : Hart) (g : Guard) (fmt : Fmt) (rm : RmField) (fn : ActFn) (input : Bool) (vd va vb : VNum)
  | vcmp (h : Hart) (g : Guard) (fmt : Fmt) (cc : VRel) (pd : PReg) (va vb : VNum)
  | vsel (h : Hart) (g : Guard) (fmt : Fmt) (vd va vb : VNum) (pn : PReg)
  | vcvt (h : Hart) (g : Guard) (dst src : Fmt) (rm : RmField) (sat mx : Bool) (vd va vc : VNum)
  | vand (h : Hart) (g : Guard) (fmt : Fmt) (vd va vb : VNum)
  | vor (h : Hart) (g : Guard) (fmt : Fmt) (vd va vb : VNum)
  | vxor (h : Hart) (g : Guard) (fmt : Fmt) (vd va vb : VNum)
  | vshl (h : Hart) (g : Guard) (fmt : Fmt) (vd va vb : VNum)
  | vshr (h : Hart) (g : Guard) (fmt : Fmt) (arith : Bool) (vd va vb : VNum)
  | viadd (h : Hart) (g : Guard) (fmt : Fmt) (vd va vb : VNum)
  | vbcast (h : Hart) (g : Guard) (fmt : Fmt) (vd : VNum) (sa : SReg)
  | vext (h : Hart) (g : Guard) (fmt : Fmt) (sa : SReg) (va : VNum) (idx : BitVec 12)
  | vperm (h : Hart) (g : Guard) (fmt : Fmt) (vd va vb : VNum)
  | vred (h : Hart) (g : Guard) (fmt : Fmt) (rm : RmField) (fn : RedFn) (vd va : VNum)
  | vcred (h : Hart) (g : Guard) (fmt : Fmt) (op : CredOp) (operandUe : Bool) (vd vc va : VNum)
  | vld (h : Hart) (g : Guard) (fmt : Fmt) (err : SramErr) (vd : VNum) (sa : SReg) (off : BitVec 12)
  | vst (h : Hart) (g : Guard) (fmt : Fmt) (vd : VNum) (sa : SReg) (off : BitVec 12)
  | vrdvat (h : Hart) (g : Guard) (fmt : Fmt) (vd : VNum) (row : Fin 128)
  | vwrvat (h : Hart) (g : Guard) (fmt : Fmt) (vd : VNum) (row : Fin 128)
  | plog (h : Hart) (g : Guard) (fn : PlogFn) (pd pa pb : PReg)
  | pset (h : Hart) (g : Guard) (pd : PReg) (sa : SReg)
  | vidx (h : Hart) (g : Guard) (fmt : Fmt) (vd : VNum)
  | vmuls (h : Hart) (g : Guard) (fmt : Fmt) (rm : RmField) (vd va : VNum) (sa : SReg)
  -- Seisk: matrix, and the engine's own events (R91 to R98, R117 to R137)
  | mload (h : Hart) (ts : TReg) (buf : Fin 2)
  | mmul (h : Hart) (tw : TReg) (buf : Fin 2) (mode : MMode) (sa sb : SReg)
  | mgemm (h : Hart) (ts tw : TReg) (buf : Fin 2) (mode : MMode) (sa sb : SReg)
  | mzero (h : Hart)
  | slabComplete (c : CoreId) (errs : EngErrors)
  | matrixInstrComplete (c : CoreId)
  | engineRampStep (c : CoreId)
  | dummySlabRunLimit (c : CoreId)
  -- Racking (R99, R100, R208 to R230)
  | rcopy (h : Hart) (qh : QReg) (tb ta : TReg) (add : Bool) (tag : BitVec 24)
  | rgather (h : Hart) (qh : QReg) (tb ta : TReg) (sa sb : SReg) (tag : BitVec 24)
  | rscatter (h : Hart) (qh : QReg) (tb ta : TReg) (add : Bool) (sa sb : SReg) (tag : BitVec 24)
  | rfill (h : Hart) (qh : QReg) (tb : TReg) (sa : SReg) (tag : BitVec 24)
  | descriptorStart (c : CoreId) (q : Fin 2)
  | rackingPiece (c : CoreId) (q : Fin 2) (line : LineErr := {})
  | descriptorComplete (c : CoreId) (q : Fin 2)
  | rkgResume (c : CoreId) (q : Fin 2)
  | rkgFail (c : CoreId) (q : Fin 2)
  | rkgKill (c : CoreId) (q : Fin 2)
  | rkgRingWrite (c : CoreId) (q : Fin 2) (v : Word)
  -- Collectives (R101 to R103, R306 to R324)
  | callreduce (h : Hart) (qh : QReg) (tb ta : TReg) (fn : ColFn) (sa : SReg) (tag : BitVec 24) (err : SramErr := .none)
  | creducescatter (h : Hart) (qh : QReg) (tb ta : TReg) (fn : ColFn) (sa : SReg) (tag : BitVec 24) (err : SramErr := .none)
  | callgather (h : Hart) (qh : QReg) (tb ta : TReg) (axis : Axis) (bidir ragged : Bool) (sa : SReg) (tag : BitVec 24) (err : SramErr := .none)
  | cbcast (h : Hart) (qh : QReg) (tb ta : TReg) (axis : Axis) (sb : SReg) (tag : BitVec 24)
  | calltoall (h : Hart) (qh : QReg) (tb ta : TReg) (axis : Axis) (ragged : Bool) (sa : SReg) (tag : BitVec 24) (err : SramErr := .none)
  | csend (h : Hart) (qh : QReg) (ta : TReg) (axis : Axis) (minus : Bool) (tag : BitVec 24)
  | crecv (h : Hart) (qh : QReg) (tb : TReg) (axis : Axis) (minus : Bool) (tag : BitVec 24)
  | cbarrier (h : Hart) (qh : QReg) (axis : Axis) (tag : BitVec 24)
  | collDataReceive (p : PortId) (pkt : Packet) (err : SliceErr := {})
  | collAckReceive (p : PortId) (pkt : Packet)
  | collReadyReceive (p : PortId) (pkt : Packet)
  | collAbortReceive (p : PortId) (pkt : Packet)
  | collLossReceive (p : PortId) (pkt : Packet)
  | collRetransmit (g : Gal) (q : Fin 16) (dst : BitVec 16) (type0 : BitVec 32) (type1 : Word)
  | collOperationComplete (g : Gal) (q : Fin 16)
  | colSliceResume (i : Fin 4)
  | colSliceFail (i : Fin 4)
  | colQueueKill (g : Gal) (mask : BitVec 16)
  -- Synchronisation (R57 to R60, R104 to R106)
  | fence (h : Hart) (k : FenceKind)
  | wait (h : Hart) (sd : SReg) (qn : QReg) (sb : SReg)
  | launch (h : Hart) (sa : SReg)
  | launchTargetReached (h : Hart)
  | waitm (h : Hart) (cc : WCond) (sd sa sb : SReg) (imm : BitVec 24)
  | waitmReread (h : Hart)
  | waitTimeout (h : Hart)
  | qcopy (h : Hart) (qd qn : QReg)
  | qread (h : Hart) (sd : SReg) (qn : QReg)
  -- Step Seal, optimizer, mirror (R107 to R112, R325 to R330)
  | sopen (h : Hart) (sd sa : SReg)
  | sclose (h : Hart) (sd : SReg)
  | sstat (h : Hart) (sd : SReg)
  | ostep (h : Hart) (g : Guard) (fmt : Fmt) (alg : OptAlg) (sa : SReg) (va : VNum)
  | sadv (h : Hart) (sd : SReg)
  | smark (h : Hart) (sa : SReg)
  | sealPacketReceive (p : PortId) (pkt : Packet)
  | sealResend (g : Gal)
  | sealTeffReached (g : Gal)
  | sealLossTimeout (g : Gal)
  | sealAbandon (g : Gal)
  | mirrorWriteReceive (p : PortId) (pkt : Packet)
  | mirrorAckReceive (p : PortId) (pkt : Packet)
  -- System and context control (R113, R114, R66 to R70, R168)
  | csrr (h : Hart) (sd : SReg) (csr : BitVec 12)
  | csrw (h : Hart) (op : CsrOp) (csr : BitVec 12) (sa : SReg)
  | halt (h : Hart)
  | brk (h : Hart)
  | nop (h : Hart)
  | cinv (h : Hart)
  | tinv (h : Hart) (every : Bool) (sa sb : SReg)
  | nanTrapArbitrate (g : Gal)
  | ctxPreempt (c : CoreId)
  | contextSaveComplete (c : CoreId) (ue : BitVec 5)
  | ctxRestore (c : CoreId)
  | contextRestoreComplete (c : CoreId)
  | ctxResume (c : CoreId)
  | ctxKill (c : CoreId)
  | registerWrite (by_ : Accessor) (off : BitVec 32) (v : Word)
  | rcRegisterRead (by_ : Accessor) (off : BitVec 32)
  | chkReset (c : CoreId) (ch : Fin 4)
  | chkFinish (c : CoreId) (ch : Fin 4)
  -- Frame Map (R250 to R259)
  | translationWalk (r : WalkReq) (g : Gal) (addr : BitVec 48) (write : Bool) (err : FmapErr := {})
  | walkOutcome (id ce : Nat) (ueA ueB : Bool) (line : Nat := 0)
  | migrationStallTimeout (id : Nat)
  | fmpMap (err : FmapErr := {})
  | fmpUnmap (err : FmapErr := {})
  | fmpProtect (err : FmapErr := {})
  | fmpMigrate (err : FmapErr := {})
  | migrationComplete (slot : Fin 16)
  | fmpZero (err : FmapErr := {})
  | zeroComplete (group : Fin 16)
  | fmpRetire (err : FmapErr := {})
  | fmpRead (err : FmapErr := {})
  | fmpLookup (err : FmapErr := {})
  -- Cellar (R231 to R249)
  | cellarRead (addr : BitVec 41) (errors : Nat)
  | cellarWrite (addr : BitVec 41) (data : List Byte) (poisoned : Bool) (errors : Nat)
  | cellarCeReread (addr : BitVec 41) (errors : Nat)
  | threshWindowExpire (group : Fin 16)
  | refresh (group ch : Fin 16) (bank : Fin 16) (temp : BitVec 16) (rate : Fin 3)
  | channelRetrain (group ch : Fin 16) (ok : Bool)
  | channelTrainingDone (group ch : Fin 16) (ok : Bool)
  | patrolScrub (group : Fin 16) (errors : Nat) (line : ScrubLine := .data)
  | celFailCh (group ch : Fin 16)
  | celRebuild (group : Fin 16)
  | rebuildComplete (group : Fin 16)
  | celOffline (group : Fin 16)
  | celRetrainCh (group ch : Fin 16) (ok : Bool)
  | celRemapWrite (group : Fin 16) (i : Fin 1024) (v : Word)
  | selfRefreshEnter (group : Fin 16)
  | selfRefreshExitDone (group : Fin 16) (failed : BitVec 16 := 0)
  -- Trellis, links, packets, Catalogue (R264 to R305)
  | trellisRequest (r : TrellisReq)
  | trellisReply (id : Nat) (err : TrellisErr := {})
  | trellisReplyTimeout (id : Nat)
  | linkFrameSend (p : PortId)
  | linkFrameReceive (p : PortId) (f : Frame) (corrected : Nat) (hit : Bool) (bad : Nat := 0)
  | linkLockLoss (p : PortId)
  | linkRetrainEnd (p : PortId) (ok : Bool) (failed : BitVec 16)
  | linkSignalDetect (p : PortId)
  | linkTrainResult (p : PortId) (locked : BitVec 16)
  | linkFrameAlign (p : PortId)
  | lightLoss (p : PortId) (total : Bool := true)
  | identNonceReceive (p : PortId) (n : BitVec 128)
  | identReceive (p : PortId) (part : Fin 4) (data : List Byte)
  | peerStateReceive (p : PortId) (type1 : Word)
  | frameLockLoss (p : PortId)
  | transmitStop (p : PortId)
  | packetReceive (p : PortId) (vc : Fin 13) (pkt : Packet)
  | packetRouteGrant (p : Option PortId)
  | lnkEnable (p : PortId)
  | lnkDisable (p : PortId)
  | lnkRetrain (p : PortId)
  | lnkFulltrain (p : PortId)
  | lnkRetire (p : PortId)
  | catalogueCommit
  -- Timebase (R333 to R346)
  | timebaseExchangePeriod
  | timebaseReqReceive (p : PortId) (seq : BitVec 16) (type1 : Word) (t2 : BitVec 80)
  | timebaseRspReceive (p : PortId) (seq : BitVec 16) (type1 : Word) (t2 t3 t4 : BitVec 80)
  | holdoverExpire
  | ptpMessage (m : PtpMsg) (domain : BitVec 8 := 0) (v6 : Bool := false)
  | launchArm (i : Fin 8) (v : Word)
  | launchSlotSend (i : Fin 8)
  | launchWriteApply (i : Fin 8)
  -- Ethernet, SHT and storage (R351 to R373)
  | ethernetFrameReceive (f : EthFrame)
  | hello (d : Datagram)
  | shtAck (d : Datagram)
  | shtCmd (d : Datagram)
  | shtWindowWrite (d : Datagram)
  | shtWindowRead (d : Datagram)
  | doorbell (d : Datagram)
  | shtRetransmit (e : Ep) (seq : BitVec 32)
  | shtCommandTimeout (e : Ep) (tag : BitVec 32)
  | shtNop (e : Ep) (tag : BitVec 32)
  | info (e : Ep) (tag : BitVec 32)
  | windowSet (e : Ep) (tag : BitVec 32)
  | ctxStart (e : Ep) (tag : BitVec 32)
  | ctxCtl (e : Ep) (tag : BitVec 32)
  | ctxRead (e : Ep) (tag : BitVec 32)
  | memMap (e : Ep) (tag : BitVec 32)
  | memUnmap (e : Ep) (tag : BitVec 32)
  | memProtect (e : Ep) (tag : BitVec 32)
  | nanRearm (e : Ep) (tag : BitVec 32)
  | shtComputeReset (e : Ep) (tag : BitVec 32)
  | shtGalleryReset (e : Ep) (tag : BitVec 32)
  | targetSet (e : Ep) (tag : BitVec 32)
  | ckptWrite (e : Ep) (tag : BitVec 32)
  | shardRead (e : Ep) (tag : BitVec 32)
  | streamAbort (e : Ep) (tag : BitVec 32)
  | streamProgress (i : Fin 16)
  | nvmeTcpPduReceive (conn : Nat) (pdu : List Byte)
  | tcpDeliveryTimeout (conn : Nat) (reset : Bool := false)
  -- Management commands (R361, R399 to R407, R420 to R428)
  | compose (e : Ep) (tag : BitVec 32)
  | bind (e : Ep) (tag : BitVec 32)
  | open (e : Ep) (tag : BitVec 32)
  | regRead (e : Ep) (tag : BitVec 32)
  | regWrite (e : Ep) (tag : BitVec 32)
  | retireApply (e : Ep) (tag : BitVec 32)
  | crRead (e : Ep) (tag : BitVec 32)
  | crClear (e : Ep) (tag : BitVec 32)
  | appraiseRead (e : Ep) (tag : BitVec 32)
  | appraisePeer (e : Ep) (tag : BitVec 32)
  | mirrorSend (e : Ep) (tag : BitVec 32)
  | mirrorAccept (e : Ep) (tag : BitVec 32)
  | mirrorAcceptTimeout (g : Gal)
  | shtChipReset (e : Ep) (tag : BitVec 32)
  | netbootBegin (e : Ep) (tag : BitVec 32)
  | netbootGo (e : Ep) (tag : BitVec 32)
  | quote (e : Ep) (tag : BitVec 32)
  | quoteSigned
  | measlogRead (e : Ep) (tag : BitVec 32)
  | flashBegin (e : Ep) (tag : BitVec 32)
  | flashCommit (e : Ep) (tag : BitVec 32)
  -- Gallery and reset control (R349, R393 to R396)
  | glyCtlOpen (g : Gal)
  | glyCtlRearm (g : Gal)
  | glyCtlNextgen (g : Gal)
  | teardownRackingKill (g : Gal)
  | glyCtlComputeReset (g : Gal)
  | glyCtlGalleryReset (g : Gal)
  | computeResetComplete (g : Gal)
  | genrefDrainZero (g : Gal)
  | galleryResetComplete (g : Gal)
  | curCtlChipReset
  | chipResetHoldEnd
  -- Reliability (R380 to R408)
  | frqPop (q : Fin 9)
  | frqResolve (q : Fin 9)
  | replayRerun (reproduced : Bool)
  | replayRerunTimeout
  | appraisalHalve
  | advisoryDeferredIssue
  | crpClear
  | crpUnpin
  -- Provenance, management interfaces, power and pins (R409 to R466)
  | prvExtend (index : Fin 8)
  | mboxWrite (off : BitVec 24) (data : List Byte) (pecOk : Bool)
  | mboxDone (value : Byte) (pecOk : Bool)
  | mboxStatusRead
  | manifestTimeout
  | qspiImageLoad
  | smbRegSelect (off : BitVec 32) (pecOk : Bool)
  | smbRegRead
  | smbRegWrite (v : Word) (pecOk : Bool)
  | jtagInstruction (i : JtagInstr)
  | sensorSample (readings : List (BitVec 16))
  | thermalLoop (est : BitVec 16)
  | avsPeriod (margin low high : BitVec 16)
  | slewWindow (requests : BitVec 128)
  | pllLockLoss (p : Pll)
  | pwrgoodAssert
  | pwrgoodDeassert (ns : Nat)
  | resetNAssert (ns : Nat)
  | resetNRelease (straps : BitVec 4)
  | ethernetLinkChange (aligned : Bool) (corr uncorr : BitVec 32)
  | pllLockAcquired (p : Pll)
  | refclkLoss
  | tcpRetransmissionTimeout (conn : Nat)
  | flashEraseComplete
  | rowRetirementCopyDone (group ch : Fin 16)
  | trstNAssert
  deriving DecidableEq, Repr

end Sys2Proof
end

