-- ==== Sys2Proof/Decode.lean ====
section
/-! DEFINITION. The words of the Seisk instructions (Tables 2-8 and 3-1 to 3-15): encoder and decoder. No
row of spec/opcode_table.json gives bits, so no word spells a command by the table. -/

namespace Sys2Proof

/-- The command that a word spells by the table's bits: none, since no row gives any. -/
def decodeTableWord (_nbits _w : Nat) : Option Instr := none

/-! ### Fields -/

/-- A number whose fields are given as (width, value) pairs, lowest bits first. -/
def packFields : List (Nat × Nat) → Nat
  | [] => 0
  | (w, v) :: r => v + 2 ^ w * packFields r

/-- The fields of a number, lowest bits first. -/
def splitFields : List Nat → Nat → List Nat
  | [], _ => []
  | w :: r, n => n % 2 ^ w :: splitFields r (n / 2 ^ w)

/-- Field widths of each format, lowest bits first (Table 2-8). -/
def srWidths : List Nat := [8, 5, 5, 5, 5, 12, 24]
def siWidths : List Nat := [8, 5, 5, 6, 40]
def bWidths : List Nat := [8, 5, 5, 4, 2, 40]
def vWidths : List Nat := [8, 5, 5, 5, 5, 3, 1, 4, 4, 12, 5, 7]
def mWidths : List Nat := [8, 4, 4, 4, 1, 17, 5, 5, 16]
def qWidths : List Nat := [8, 3, 4, 4, 5, 5, 11, 24]
def yWidths : List Nat := [8, 5, 5, 5, 12, 5, 24]

/-- The word of a format with its field values in the order of its widths. -/
def packWord (widths vals : List Nat) : Word := BitVec.ofNat 64 (packFields (widths.zip vals))

/-! ### Codes of the fields -/

def relCode : Rel → Nat
  | .eq => 0
  | .ne => 1
  | .lt => 2
  | .le => 3
  | .ltu => 4
  | .leu => 5
def relOf : Nat → Option Rel
  | 0 => some .eq
  | 1 => some .ne
  | 2 => some .lt
  | 3 => some .le
  | 4 => some .ltu
  | 5 => some .leu
  | _ => none
def frelCode : FRel → Nat
  | .eq => 0
  | .lt => 1
  | .le => 2
  | .un => 3
def frelOf : Nat → Option FRel
  | 0 => some .eq
  | 1 => some .lt
  | 2 => some .le
  | 3 => some .un
  | _ => none
def vrelCode : VRel → Nat
  | .eq => 0
  | .ne => 1
  | .lt => 2
  | .le => 3
  | .gt => 4
  | .ge => 5
def vrelOf : Nat → Option VRel
  | 0 => some .eq
  | 1 => some .ne
  | 2 => some .lt
  | 3 => some .le
  | 4 => some .gt
  | 5 => some .ge
  | _ => none
def condCode : Cond → Nat
  | .eq => 0
  | .ne => 1
  | .lt => 2
  | .ge => 3
  | .ltu => 4
  | .geu => 5
  | .always => 6
def condOf : Nat → Option Cond
  | 0 => some .eq
  | 1 => some .ne
  | 2 => some .lt
  | 3 => some .ge
  | 4 => some .ltu
  | 5 => some .geu
  | 6 => some .always
  | _ => none
def pcondCode : PCond → Nat
  | .any => 0
  | .all => 1
  | .none => 2
def pcondOf : Nat → Option PCond
  | 0 => some .any
  | 1 => some .all
  | 2 => some .none
  | _ => none
def amoCode : AmoOp → Nat
  | .add => 0
  | .swap => 1
  | .maxs => 2
  | .mins => 3
  | .or => 4
  | .and => 5
def amoOf : Nat → Option AmoOp
  | 0 => some .add
  | 1 => some .swap
  | 2 => some .maxs
  | 3 => some .mins
  | 4 => some .or
  | 5 => some .and
  | _ => none
def rmCode : RmField → Nat
  | .dyn => 0
  | .rn => 1
  | .rz => 2
  | .ru => 3
  | .rd => 4
def rmOf : Nat → Option RmField
  | 0 => some .dyn
  | 1 => some .rn
  | 2 => some .rz
  | 3 => some .ru
  | 4 => some .rd
  | _ => none
def fmtCode : Fmt → Nat
  | .f32 => 0
  | .bf16 => 1
  | .f16 => 2
  | .e4m3 => 3
  | .e5m2 => 4
  | .e2m3 => 5
  | .e3m2 => 6
  | .e2m1 => 7
  | .i8 => 8
  | .i32 => 9
  | .e8m0 => 10
  | .sf16 => 11
def fmtOf : Nat → Option Fmt
  | 0 => some .f32
  | 1 => some .bf16
  | 2 => some .f16
  | 3 => some .e4m3
  | 4 => some .e5m2
  | 5 => some .e2m3
  | 6 => some .e3m2
  | 7 => some .e2m1
  | 8 => some .i8
  | 9 => some .i32
  | 10 => some .e8m0
  | 11 => some .sf16
  | _ => none
def redCode : RedFn → Nat
  | .sum => 0
  | .max => 1
  | .min => 2
def redOf : Nat → Option RedFn
  | 0 => some .sum
  | 1 => some .max
  | 2 => some .min
  | _ => none
def plogCode : PlogFn → Nat
  | .and => 0
  | .or => 1
  | .xor => 2
  | .andc => 3
  | .not => 4
def plogOf : Nat → Option PlogFn
  | 0 => some .and
  | 1 => some .or
  | 2 => some .xor
  | 3 => some .andc
  | 4 => some .not
  | _ => none
def algCode : OptAlg → Nat
  | .adamw => 0
  | .sgd => 1
  | .lion => 2
def algOf : Nat → Option OptAlg
  | 0 => some .adamw
  | 1 => some .sgd
  | 2 => some .lion
  | _ => none
def fenceCode : FenceKind → Nat
  | .s => 0
  | .m => 1
  | .d => 2
  | .c => 3
  | .a => 4
def fenceOf : Nat → Option FenceKind
  | 0 => some .s
  | 1 => some .m
  | 2 => some .d
  | 3 => some .c
  | 4 => some .a
  | _ => none
def wcondCode : WCond → Nat
  | .eq => 0
  | .ne => 1
  | .geu => 2
  | .ltu => 3
def wcondOf : Nat → Option WCond
  | 0 => some .eq
  | 1 => some .ne
  | 2 => some .geu
  | 3 => some .ltu
  | _ => none
def csrCode : CsrOp → Nat
  | .write => 0
  | .set => 1
  | .clear => 2
def csrOf : Nat → Option CsrOp
  | 0 => some .write
  | 1 => some .set
  | 2 => some .clear
  | _ => none
def sizeCode : Size → Nat
  | .byte => 0 | .half => 1 | .word => 2 | .double => 3
def sizeOf (fn : Nat) : Size :=
  match fn % 4 with
  | 0 => .byte | 1 => .half | 2 => .word | _ => .double
def actCode : ActFn → Nat
  | .relu => 0 | .leaky => 1 | .sigmoid => 2 | .tanh => 3 | .exp => 4 | .gelu => 5 | .silu => 6 | .ln => 7
def actOf : Nat → ActFn
  | 0 => .relu | 1 => .leaky | 2 => .sigmoid | 3 => .tanh | 4 => .exp | 5 => .gelu | 6 => .silu | _ => .ln

/-- FN of vcred (Table 6-2). -/
def credCode : CredOp → Nat
  | .sum => 0
  | .max => 1
  | .topk k => 4 * k.val + 2
def credOf (fn : Nat) : Option CredOp :=
  if fn = 0 then some .sum else if fn = 1 then some .max
  else if fn % 4 = 2 ∧ fn < 64 then some (.topk (Fin.ofNat 16 (fn / 4))) else none

/-- MODE of mmul and mgemm (R92). -/
def modeCode (m : MMode) : Nat :=
  8192 * b1 m.trans + 16384 * (match m.gs with
    | .g4 => 0
    | .g8 => 1
    | .g16 => 2) + 65536 * b1 m.acc
def modeOf (v : Nat) : Option MMode :=
  if v % 8192 ≠ 0 then none
  else
    match v / 16384 % 4 with
    | 0 => some ⟨decide (v / 65536 = 1), .g4, decide (v / 8192 % 2 = 1)⟩
    | 1 => some ⟨decide (v / 65536 = 1), .g8, decide (v / 8192 % 2 = 1)⟩
    | 2 => some ⟨decide (v / 65536 = 1), .g16, decide (v / 8192 % 2 = 1)⟩
    | _ => none

/-- FN of callreduce and creducescatter (R101). -/
def colCode (f : ColFn) : Nat :=
  (match f.op with
    | .sum => 0
    | .max => 1
    | .min => 2) + 8 * f.axis.val + 32 * b1 f.codec + 64 * b1 f.bidir + 128 * b1 f.ragged
def colOf (v : Nat) : Option ColFn :=
  let mk (o : ColOp) : Option ColFn :=
    some ⟨o, Fin.ofNat 4 (v / 8), decide (v / 32 % 2 = 1), decide (v / 64 % 2 = 1), decide (v / 128 = 1)⟩
  if 256 ≤ v then none
  else
    match v % 8 with
    | 0 => mk .sum
    | 1 => mk .max
    | 2 => mk .min
    | _ => none

/-! ### Encoder -/

def wSR (opc sd sa sb sc fn : Nat) : Word := packWord srWidths [opc, sd, sa, sb, sc, fn, 0]
def wSI (opc sd sa fn imm : Nat) : Word := packWord siWidths [opc, sd, sa, fn, imm]
def wB (opc sa sb cond disp : Nat) : Word := packWord bWidths [opc, sa, sb, cond, 0, disp]
def wV (opc vd va vb vc : Nat) (g : Guard) (fmt : Fmt) (rm fn sa : Nat) : Word :=
  packWord vWidths [opc, vd, va, vb, vc, g.p.val, b1 g.neg, fmtCode fmt, rm, fn, sa, 0]
def wM (opc ts tw : Nat) (buf : Fin 2) (mode sa sb : Nat) : Word :=
  packWord mWidths [opc, ts, tw, 0, buf.val, mode, sa, sb, 0]
def wQ (opc qh ta tb sa sb fn : Nat) (tag : BitVec 24) : Word :=
  packWord qWidths [opc, qh, ta, tb, sa, sb, fn, tag.toNat]
def wY (opc sd sa sb csr fn imm : Nat) : Word := packWord yWidths [opc, sd, sa, sb, csr, fn, imm]

/-- The word of a Seisk instruction; any other command has none, written 0. -/
def encodeSeisk (i : Instr) : Word :=
  match i with
  | .illegal _ w => w
  | .add _ sd sa sb => wSR 0x1 sd.val sa.val sb.val 0 0
  | .sub _ sd sa sb => wSR 0x2 sd.val sa.val sb.val 0 0
  | .mullo _ sd sa sb => wSR 0x3 sd.val sa.val sb.val 0 0
  | .mulhss _ sd sa sb => wSR 0x4 sd.val sa.val sb.val 0 0
  | .mulhuu _ sd sa sb => wSR 0x5 sd.val sa.val sb.val 0 0
  | .mulhsu _ sd sa sb => wSR 0x6 sd.val sa.val sb.val 0 0
  | .quos _ sd sa sb => wSR 0x7 sd.val sa.val sb.val 0 0
  | .quou _ sd sa sb => wSR 0x8 sd.val sa.val sb.val 0 0
  | .rmds _ sd sa sb => wSR 0x9 sd.val sa.val sb.val 0 0
  | .rmdu _ sd sa sb => wSR 0xa sd.val sa.val sb.val 0 0
  | .and _ sd sa sb => wSR 0xb sd.val sa.val sb.val 0 0
  | .or _ sd sa sb => wSR 0xc sd.val sa.val sb.val 0 0
  | .xor _ sd sa sb => wSR 0xd sd.val sa.val sb.val 0 0
  | .andc _ sd sa sb => wSR 0xe sd.val sa.val sb.val 0 0
  | .shl _ sd sa sb => wSR 0xf sd.val sa.val sb.val 0 0
  | .shr _ sd sa sb => wSR 0x10 sd.val sa.val sb.val 0 0
  | .shra _ sd sa sb => wSR 0x11 sd.val sa.val sb.val 0 0
  | .ror _ sd sa sb => wSR 0x12 sd.val sa.val sb.val 0 0
  | .mins _ sd sa sb => wSR 0x14 sd.val sa.val sb.val 0 0
  | .maxs _ sd sa sb => wSR 0x15 sd.val sa.val sb.val 0 0
  | .minu _ sd sa sb => wSR 0x16 sd.val sa.val sb.val 0 0
  | .maxu _ sd sa sb => wSR 0x17 sd.val sa.val sb.val 0 0
  | .fadd _ sd sa sb => wSR 0x20 sd.val sa.val sb.val 0 0
  | .fsub _ sd sa sb => wSR 0x21 sd.val sa.val sb.val 0 0
  | .fmul _ sd sa sb => wSR 0x22 sd.val sa.val sb.val 0 0
  | .fmin _ sd sa sb => wSR 0x26 sd.val sa.val sb.val 0 0
  | .fmax _ sd sa sb => wSR 0x27 sd.val sa.val sb.val 0 0
  | .cset _ cc sd sa sb => wSR 0x13 sd.val sa.val sb.val 0 (relCode cc)
  | .sel _ sd sa sb sc => wSR 0x18 sd.val sa.val sb.val sc.val 0
  | .madd _ sd sa sb sc => wSR 0x19 sd.val sa.val sb.val sc.val 0
  | .ffma _ sd sa sb sc => wSR 0x23 sd.val sa.val sb.val sc.val 0
  | .zlead _ sd sa => wSR 0x1a sd.val sa.val 0 0 0
  | .ztrail _ sd sa => wSR 0x1b sd.val sa.val 0 0 0
  | .ones _ sd sa => wSR 0x1c sd.val sa.val 0 0 0
  | .fcmp _ cc sd sa sb => wSR 0x24 sd.val sa.val sb.val 0 (frelCode cc)
  | .fcvt _ k sd sa => wSR 0x25 sd.val sa.val 0 0 (if k = .toInt then 0 else 1)
  | .tset _ tn sa w => wSR 0x28 tn.val sa.val 0 0 w.val
  | .tget _ sd tn w => wSR 0x29 sd.val tn.val 0 0 w.val
  | .addi _ sd sa imm => wSI 0x30 sd.val sa.val 0 imm.toNat
  | .andi _ sd sa imm => wSI 0x31 sd.val sa.val 0 imm.toNat
  | .ori _ sd sa imm => wSI 0x32 sd.val sa.val 0 imm.toNat
  | .xori _ sd sa imm => wSI 0x33 sd.val sa.val 0 imm.toNat
  | .lih _ sd sa imm => wSI 0x37 sd.val sa.val 0 imm.toNat
  | .shli _ sd sa cnt => wSI 0x34 sd.val sa.val 0 cnt.toNat
  | .shri _ sd sa cnt => wSI 0x35 sd.val sa.val 0 cnt.toNat
  | .shrai _ sd sa cnt => wSI 0x36 sd.val sa.val 0 cnt.toNat
  | .ld _ size signed _ sd sa imm => wSI 0x38 sd.val sa.val (sizeCode size + 4 * b1 signed) imm.toNat
  | .st _ size sd sa imm => wSI 0x39 sd.val sa.val (sizeCode size) imm.toNat
  | .amo _ op sd sa imm => wSI 0x3A sd.val sa.val (amoCode op) imm.toNat
  | .cseti _ cc sd sa imm => wSI 0x3B sd.val sa.val (relCode cc) imm.toNat
  | .tld _ tn sa imm => wSI 0x3c tn.val sa.val 0 imm.toNat
  | .tst _ tn sa imm => wSI 0x3d tn.val sa.val 0 imm.toNat
  | .br _ cc sa sb disp => wB 0x40 sa.val sb.val (condCode cc) disp.toNat
  | .call _ sa disp => wB 0x41 sa.val 0 0 disp.toNat
  | .callr _ sb sa disp => wB 0x42 sa.val sb.val 0 disp.toNat
  | .bp _ cc pn disp => wB 0x43 pn.val 0 (pcondCode cc) disp.toNat
  | .loop _ sa disp => wB 0x44 sa.val 0 0 disp.toNat
  | .vadd _ g fmt rm vd va vb => wV 0x60 vd.val va.val vb.val 0 g fmt (rmCode rm) 0 0
  | .vsub _ g fmt rm vd va vb => wV 0x61 vd.val va.val vb.val 0 g fmt (rmCode rm) 0 0
  | .vmul _ g fmt rm vd va vb => wV 0x62 vd.val va.val vb.val 0 g fmt (rmCode rm) 0 0
  | .vfma _ g fmt rm vd va vb => wV 0x63 vd.val va.val vb.val 0 g fmt (rmCode rm) 0 0
  | .vmin _ g fmt vd va vb => wV 0x64 vd.val va.val vb.val 0 g fmt 0 0 0
  | .vmax _ g fmt vd va vb => wV 0x65 vd.val va.val vb.val 0 g fmt 0 0 0
  | .vand _ g fmt vd va vb => wV 0x6e vd.val va.val vb.val 0 g fmt 0 0 0
  | .vor _ g fmt vd va vb => wV 0x6f vd.val va.val vb.val 0 g fmt 0 0 0
  | .vxor _ g fmt vd va vb => wV 0x70 vd.val va.val vb.val 0 g fmt 0 0 0
  | .vshl _ g fmt vd va vb => wV 0x71 vd.val va.val vb.val 0 g fmt 0 0 0
  | .viadd _ g fmt vd va vb => wV 0x73 vd.val va.val vb.val 0 g fmt 0 0 0
  | .vperm _ g fmt vd va vb => wV 0x76 vd.val va.val vb.val 0 g fmt 0 0 0
  | .vrcp _ g fmt vd va => wV 0x66 vd.val va.val 0 0 g fmt 0 0 0
  | .vrsqrt _ g fmt vd va => wV 0x67 vd.val va.val 0 0 g fmt 0 0 0
  | .vsqrt _ g fmt rm vd va => wV 0x68 vd.val va.val 0 0 g fmt (rmCode rm) 0 0
  | .vact _ g fmt rm fn vd va => wV 0x69 vd.val va.val 0 0 g fmt (rmCode rm) (actCode fn) 0
  | .vactd _ g fmt rm fn input vd va vb => wV 0x6A vd.val va.val vb.val 0 g fmt (rmCode rm) (actCode fn + 16 * b1 input) 0
  | .vcmp _ g fmt cc pd va vb => wV 0x6B pd.val va.val vb.val 0 g fmt 0 (vrelCode cc) 0
  | .vsel _ g fmt vd va vb pn => wV 0x6C vd.val va.val vb.val 0 g fmt 0 pn.val 0
  | .vcvt _ g dst src rm sat mx vd va vc => wV 0x6D vd.val va.val 0 vc.val g dst (rmCode rm) (fmtCode src + 16 * b1 sat + 32 * b1 mx) 0
  | .vshr _ g fmt arith vd va vb => wV 0x72 vd.val va.val vb.val 0 g fmt 0 (b1 arith) 0
  | .vbcast _ g fmt vd sa => wV 0x74 vd.val 0 0 0 g fmt 0 0 sa.val
  | .vext _ g fmt sa va idx => wV 0x75 0 va.val 0 0 g fmt 0 idx.toNat sa.val
  | .vred _ g fmt rm fn vd va => wV 0x77 vd.val va.val 0 0 g fmt (rmCode rm) (redCode fn) 0
  | .vcred _ g fmt op _ vd vc va => wV 0x78 vd.val va.val 0 vc.val g fmt 0 (credCode op) 0
  | .vld _ g fmt _ vd sa off => wV 0x79 vd.val 0 0 0 g fmt 0 off.toNat sa.val
  | .vst _ g fmt vd sa off => wV 0x7a vd.val 0 0 0 g fmt 0 off.toNat sa.val
  | .vrdvat _ g fmt vd row => wV 0x7b vd.val 0 0 0 g fmt 0 row.val 0
  | .vwrvat _ g fmt vd row => wV 0x7c vd.val 0 0 0 g fmt 0 row.val 0
  | .plog _ g fn pd pa pb => wV 0x7D pd.val pa.val pb.val 0 g .f32 0 (plogCode fn) 0
  | .pset _ g pd sa => wV 0x7E pd.val 0 0 0 g .f32 0 0 sa.val
  | .vidx _ g fmt vd => wV 0x7F vd.val 0 0 0 g fmt 0 0 0
  | .vmuls _ g fmt rm vd va sa => wV 0x80 vd.val va.val 0 0 g fmt (rmCode rm) 0 sa.val
  | .ostep _ g fmt alg sa va => wV 0xF3 0 va.val 0 0 g fmt 0 (algCode alg) sa.val
  | .mload _ ts buf => wM 0xA0 ts.val 0 buf 0 0 0
  | .mmul _ tw buf mode sa sb => wM 0xA1 0 tw.val buf (modeCode mode) sa.val sb.val
  | .mgemm _ ts tw buf mode sa sb => wM 0xA2 ts.val tw.val buf (modeCode mode) sa.val sb.val
  | .mzero _ => wM 0xA3 0 0 0 0 0 0
  | .rcopy _ qh tb ta add tag => wQ 0xC0 qh.val ta.val tb.val 0 0 (b1 add) tag
  | .rgather _ qh tb ta sa sb tag => wQ 0xC1 qh.val ta.val tb.val sa.val sb.val 0 tag
  | .rscatter _ qh tb ta add sa sb tag => wQ 0xC2 qh.val ta.val tb.val sa.val sb.val (b1 add) tag
  | .rfill _ qh tb sa tag => wQ 0xC3 qh.val 0 tb.val sa.val 0 0 tag
  | .callreduce _ qh tb ta fn sa tag _ => wQ 0xD0 qh.val ta.val tb.val sa.val 0 (colCode fn) tag
  | .creducescatter _ qh tb ta fn sa tag _ => wQ 0xD1 qh.val ta.val tb.val sa.val 0 (colCode fn) tag
  | .callgather _ qh tb ta axis bidir ragged sa tag _ => wQ 0xD2 qh.val ta.val tb.val sa.val 0 (8 * axis.val + 64 * b1 bidir + 128 * b1 ragged) tag
  | .cbcast _ qh tb ta axis sb tag => wQ 0xD3 qh.val ta.val tb.val 0 sb.val (8 * axis.val) tag
  | .calltoall _ qh tb ta axis ragged sa tag _ => wQ 0xD4 qh.val ta.val tb.val sa.val 0 (8 * axis.val + 128 * b1 ragged) tag
  | .csend _ qh ta axis minus tag => wQ 0xD5 qh.val ta.val 0 0 0 (8 * axis.val + 256 * b1 minus) tag
  | .crecv _ qh tb axis minus tag => wQ 0xD6 qh.val 0 tb.val 0 0 (8 * axis.val + 256 * b1 minus) tag
  | .cbarrier _ qh axis tag => wQ 0xD7 qh.val 0 0 0 0 (8 * axis.val) tag
  | .fence _ k => wY 0xE0 0 0 0 0 (fenceCode k) 0
  | .wait _ sd qn sb => wY 0xE1 sd.val qn.val sb.val 0 0 0
  | .launch _ sa => wY 0xE2 0 sa.val 0 0 0 0
  | .waitm _ cc sd sa sb imm => wY 0xE3 sd.val sa.val sb.val 0 (wcondCode cc) imm.toNat
  | .qcopy _ qd qn => wY 0xE4 qd.val qn.val 0 0 0 0
  | .qread _ sd qn => wY 0xE5 sd.val qn.val 0 0 0 0
  | .sopen _ sd sa => wY 0xF0 sd.val sa.val 0 0 0 0
  | .sclose _ sd => wY 0xF1 sd.val 0 0 0 0 0
  | .sstat _ sd => wY 0xF2 sd.val 0 0 0 0 0
  | .sadv _ sd => wY 0xF4 sd.val 0 0 0 0 0
  | .smark _ sa => wY 0xF5 0 sa.val 0 0 0 0
  | .csrr _ sd csr => wY 0xF8 sd.val 0 0 csr.toNat 0 0
  | .csrw _ op csr sa => wY 0xF9 0 sa.val 0 csr.toNat (csrCode op) 0
  | .halt _ => wY 0xFA 0 0 0 0 0 0
  | .brk _ => wY 0xFB 0 0 0 0 0 0
  | .nop _ => wY 0xFC 0 0 0 0 0 0
  | .cinv _ => wY 0xFD 0 0 0 0 0 0
  | .tinv _ every sa sb => wY 0xFE 0 sa.val sb.val 0 (b1 every) 0
  | _ => 0

/-! ### Decoder -/

/-- An instruction whose remaining fields meet a condition. -/
def req (b : Bool) (i : Instr) : Option Instr := if b then some i else none

def f1 (n : Nat) : Fin 2 := Fin.ofNat 2 n
def f2 (n : Nat) : Fin 4 := Fin.ofNat 4 n
def f3 (n : Nat) : Fin 8 := Fin.ofNat 8 n
def f4 (n : Nat) : Fin 16 := Fin.ofNat 16 n
def f5 (n : Nat) : Fin 32 := Fin.ofNat 32 n
def f7 (n : Nat) : Fin 128 := Fin.ofNat 128 n

/-- Format SR. -/
def decodeSR (h : Hart) (opc sd sa sb sc fn : Nat) : Option Instr :=
  match opc with
  | 0x1 => req (sc = 0 && fn = 0) (.add h (f5 sd) (f5 sa) (f5 sb))
  | 0x2 => req (sc = 0 && fn = 0) (.sub h (f5 sd) (f5 sa) (f5 sb))
  | 0x3 => req (sc = 0 && fn = 0) (.mullo h (f5 sd) (f5 sa) (f5 sb))
  | 0x4 => req (sc = 0 && fn = 0) (.mulhss h (f5 sd) (f5 sa) (f5 sb))
  | 0x5 => req (sc = 0 && fn = 0) (.mulhuu h (f5 sd) (f5 sa) (f5 sb))
  | 0x6 => req (sc = 0 && fn = 0) (.mulhsu h (f5 sd) (f5 sa) (f5 sb))
  | 0x7 => req (sc = 0 && fn = 0) (.quos h (f5 sd) (f5 sa) (f5 sb))
  | 0x8 => req (sc = 0 && fn = 0) (.quou h (f5 sd) (f5 sa) (f5 sb))
  | 0x9 => req (sc = 0 && fn = 0) (.rmds h (f5 sd) (f5 sa) (f5 sb))
  | 0xa => req (sc = 0 && fn = 0) (.rmdu h (f5 sd) (f5 sa) (f5 sb))
  | 0xb => req (sc = 0 && fn = 0) (.and h (f5 sd) (f5 sa) (f5 sb))
  | 0xc => req (sc = 0 && fn = 0) (.or h (f5 sd) (f5 sa) (f5 sb))
  | 0xd => req (sc = 0 && fn = 0) (.xor h (f5 sd) (f5 sa) (f5 sb))
  | 0xe => req (sc = 0 && fn = 0) (.andc h (f5 sd) (f5 sa) (f5 sb))
  | 0xf => req (sc = 0 && fn = 0) (.shl h (f5 sd) (f5 sa) (f5 sb))
  | 0x10 => req (sc = 0 && fn = 0) (.shr h (f5 sd) (f5 sa) (f5 sb))
  | 0x11 => req (sc = 0 && fn = 0) (.shra h (f5 sd) (f5 sa) (f5 sb))
  | 0x12 => req (sc = 0 && fn = 0) (.ror h (f5 sd) (f5 sa) (f5 sb))
  | 0x14 => req (sc = 0 && fn = 0) (.mins h (f5 sd) (f5 sa) (f5 sb))
  | 0x15 => req (sc = 0 && fn = 0) (.maxs h (f5 sd) (f5 sa) (f5 sb))
  | 0x16 => req (sc = 0 && fn = 0) (.minu h (f5 sd) (f5 sa) (f5 sb))
  | 0x17 => req (sc = 0 && fn = 0) (.maxu h (f5 sd) (f5 sa) (f5 sb))
  | 0x20 => req (sc = 0 && fn = 0) (.fadd h (f5 sd) (f5 sa) (f5 sb))
  | 0x21 => req (sc = 0 && fn = 0) (.fsub h (f5 sd) (f5 sa) (f5 sb))
  | 0x22 => req (sc = 0 && fn = 0) (.fmul h (f5 sd) (f5 sa) (f5 sb))
  | 0x26 => req (sc = 0 && fn = 0) (.fmin h (f5 sd) (f5 sa) (f5 sb))
  | 0x27 => req (sc = 0 && fn = 0) (.fmax h (f5 sd) (f5 sa) (f5 sb))
  | 0x13 => (relOf fn).bind (fun cc => req (sc = 0) (.cset h cc (f5 sd) (f5 sa) (f5 sb)))
  | 0x18 => req (fn = 0) (.sel h (f5 sd) (f5 sa) (f5 sb) (f5 sc))
  | 0x19 => req (fn = 0) (.madd h (f5 sd) (f5 sa) (f5 sb) (f5 sc))
  | 0x23 => req (fn = 0) (.ffma h (f5 sd) (f5 sa) (f5 sb) (f5 sc))
  | 0x1a => req (sb = 0 && sc = 0 && fn = 0) (.zlead h (f5 sd) (f5 sa))
  | 0x1b => req (sb = 0 && sc = 0 && fn = 0) (.ztrail h (f5 sd) (f5 sa))
  | 0x1c => req (sb = 0 && sc = 0 && fn = 0) (.ones h (f5 sd) (f5 sa))
  | 0x24 => (frelOf fn).bind (fun cc => req (sc = 0) (.fcmp h cc (f5 sd) (f5 sa) (f5 sb)))
  | 0x25 => req (sb = 0 && sc = 0 && fn < 2) (.fcvt h (if fn = 0 then .toInt else .toFp) (f5 sd) (f5 sa))
  | 0x28 => req (sd < 16 && sb = 0 && sc = 0 && fn < 4) (.tset h (f4 sd) (f5 sa) (f2 fn))
  | 0x29 => req (sa < 16 && sb = 0 && sc = 0 && fn < 4) (.tget h (f5 sd) (f4 sa) (f2 fn))
  | _ => none

/-- Format SI. -/
def decodeSI (h : Hart) (opc sd sa fn imm : Nat) : Option Instr :=
  match opc with
  | 0x30 => req (fn = 0) (.addi h (f5 sd) (f5 sa) (BitVec.ofNat 40 imm))
  | 0x31 => req (fn = 0) (.andi h (f5 sd) (f5 sa) (BitVec.ofNat 40 imm))
  | 0x32 => req (fn = 0) (.ori h (f5 sd) (f5 sa) (BitVec.ofNat 40 imm))
  | 0x33 => req (fn = 0) (.xori h (f5 sd) (f5 sa) (BitVec.ofNat 40 imm))
  | 0x37 => req (fn = 0) (.lih h (f5 sd) (f5 sa) (BitVec.ofNat 40 imm))
  | 0x34 => req (fn = 0 && imm < 64) (.shli h (f5 sd) (f5 sa) (BitVec.ofNat 6 imm))
  | 0x35 => req (fn = 0 && imm < 64) (.shri h (f5 sd) (f5 sa) (BitVec.ofNat 6 imm))
  | 0x36 => req (fn = 0 && imm < 64) (.shrai h (f5 sd) (f5 sa) (BitVec.ofNat 6 imm))
  | 0x38 => req (fn < 8) (.ld h (sizeOf fn) (fn / 4 = 1) .none (f5 sd) (f5 sa) (BitVec.ofNat 40 imm))
  | 0x39 => req (fn < 4) (.st h (sizeOf fn) (f5 sd) (f5 sa) (BitVec.ofNat 40 imm))
  | 0x3a => (amoOf fn).bind (fun op => some (.amo h op (f5 sd) (f5 sa) (BitVec.ofNat 40 imm)))
  | 0x3b => (relOf fn).bind (fun cc => some (.cseti h cc (f5 sd) (f5 sa) (BitVec.ofNat 40 imm)))
  | 0x3c => req (sd < 16 && fn = 0) (.tld h (f4 sd) (f5 sa) (BitVec.ofNat 40 imm))
  | 0x3d => req (sd < 16 && fn = 0) (.tst h (f4 sd) (f5 sa) (BitVec.ofNat 40 imm))
  | _ => none

/-- Format B. -/
def decodeB (h : Hart) (opc sa sb cond disp : Nat) : Option Instr :=
  match opc with
  | 0x40 => (condOf cond).bind (fun cc => some (.br h cc (f5 sa) (f5 sb) (BitVec.ofNat 40 disp)))
  | 0x41 => req (sb = 0 && cond = 0) (.call h (f5 sa) (BitVec.ofNat 40 disp))
  | 0x42 => req (cond = 0) (.callr h (f5 sb) (f5 sa) (BitVec.ofNat 40 disp))
  | 0x43 => (pcondOf cond).bind (fun cc => req (sa < 8 && sb = 0) (.bp h cc (f3 sa) (BitVec.ofNat 40 disp)))
  | 0x44 => req (sb = 0 && cond = 0) (.loop h (f5 sa) (BitVec.ofNat 40 disp))
  | _ => none

/-- Format V, with its guard, format and rounding mode read. -/
def decodeVWith (h : Hart) (G : Guard) (F : Fmt) (M : RmField) (opc vd va vb vc fmt rm fn sa : Nat) : Option Instr :=
  match opc with
  | 0x60 => req (vc = 0 && fn = 0 && sa = 0) (.vadd h G F M (f5 vd) (f5 va) (f5 vb))
  | 0x61 => req (vc = 0 && fn = 0 && sa = 0) (.vsub h G F M (f5 vd) (f5 va) (f5 vb))
  | 0x62 => req (vc = 0 && fn = 0 && sa = 0) (.vmul h G F M (f5 vd) (f5 va) (f5 vb))
  | 0x63 => req (vc = 0 && fn = 0 && sa = 0) (.vfma h G F M (f5 vd) (f5 va) (f5 vb))
  | 0x64 => req (rm = 0 && vc = 0 && fn = 0 && sa = 0) (.vmin h G F (f5 vd) (f5 va) (f5 vb))
  | 0x65 => req (rm = 0 && vc = 0 && fn = 0 && sa = 0) (.vmax h G F (f5 vd) (f5 va) (f5 vb))
  | 0x6e => req (rm = 0 && vc = 0 && fn = 0 && sa = 0) (.vand h G F (f5 vd) (f5 va) (f5 vb))
  | 0x6f => req (rm = 0 && vc = 0 && fn = 0 && sa = 0) (.vor h G F (f5 vd) (f5 va) (f5 vb))
  | 0x70 => req (rm = 0 && vc = 0 && fn = 0 && sa = 0) (.vxor h G F (f5 vd) (f5 va) (f5 vb))
  | 0x71 => req (rm = 0 && vc = 0 && fn = 0 && sa = 0) (.vshl h G F (f5 vd) (f5 va) (f5 vb))
  | 0x73 => req (rm = 0 && vc = 0 && fn = 0 && sa = 0) (.viadd h G F (f5 vd) (f5 va) (f5 vb))
  | 0x76 => req (rm = 0 && vc = 0 && fn = 0 && sa = 0) (.vperm h G F (f5 vd) (f5 va) (f5 vb))
  | 0x66 => req (rm = 0 && vb = 0 && vc = 0 && fn = 0 && sa = 0) (.vrcp h G F (f5 vd) (f5 va))
  | 0x67 => req (rm = 0 && vb = 0 && vc = 0 && fn = 0 && sa = 0) (.vrsqrt h G F (f5 vd) (f5 va))
  | 0x68 => req (vb = 0 && vc = 0 && fn = 0 && sa = 0) (.vsqrt h G F M (f5 vd) (f5 va))
  | 0x69 => req (vb = 0 && vc = 0 && fn < 8 && sa = 0) (.vact h G F M (actOf fn) (f5 vd) (f5 va))
  | 0x6a => req (vc = 0 && fn < 32 && fn % 16 < 8 && sa = 0) (.vactd h G F M (actOf (fn % 16)) (fn / 16 = 1) (f5 vd) (f5 va) (f5 vb))
  | 0x6b => (vrelOf fn).bind (fun cc => req (rm = 0 && vd < 8 && vc = 0 && sa = 0) (.vcmp h G F cc (f3 vd) (f5 va) (f5 vb)))
  | 0x6c => req (rm = 0 && vc = 0 && fn < 8 && sa = 0) (.vsel h G F (f5 vd) (f5 va) (f5 vb) (f3 fn))
  | 0x6d => (fmtOf (fn % 16)).bind (fun src => req (vb = 0 && fn < 64 && sa = 0) (.vcvt h G F src M (fn / 16 % 2 = 1) (fn / 32 = 1) (f5 vd) (f5 va) (f5 vc)))
  | 0x72 => req (rm = 0 && vc = 0 && fn < 2 && sa = 0) (.vshr h G F (fn = 1) (f5 vd) (f5 va) (f5 vb))
  | 0x74 => req (rm = 0 && va = 0 && vb = 0 && vc = 0 && fn = 0) (.vbcast h G F (f5 vd) (f5 sa))
  | 0x75 => req (rm = 0 && vd = 0 && vb = 0 && vc = 0) (.vext h G F (f5 sa) (f5 va) (BitVec.ofNat 12 fn))
  | 0x77 => (redOf fn).bind (fun k => req (vb = 0 && vc = 0 && sa = 0) (.vred h G F M k (f5 vd) (f5 va)))
  | 0x78 => (credOf fn).bind (fun op => req (rm = 0 && vb = 0 && sa = 0) (.vcred h G F op false (f5 vd) (f5 vc) (f5 va)))
  | 0x79 => req (rm = 0 && va = 0 && vb = 0 && vc = 0) (.vld h G F .none (f5 vd) (f5 sa) (BitVec.ofNat 12 fn))
  | 0x7a => req (rm = 0 && va = 0 && vb = 0 && vc = 0) (.vst h G F (f5 vd) (f5 sa) (BitVec.ofNat 12 fn))
  | 0x7b => req (rm = 0 && va = 0 && vb = 0 && vc = 0 && fn < 128 && sa = 0) (.vrdvat h G F (f5 vd) (f7 fn))
  | 0x7c => req (rm = 0 && va = 0 && vb = 0 && vc = 0 && fn < 128 && sa = 0) (.vwrvat h G F (f5 vd) (f7 fn))
  | 0x7d => (plogOf fn).bind (fun k => req (fmt = 0 && rm = 0 && vd < 8 && va < 8 && vb < 8 && vc = 0 && sa = 0) (.plog h G k (f3 vd) (f3 va) (f3 vb)))
  | 0x7e => req (fmt = 0 && rm = 0 && vd < 8 && va = 0 && vb = 0 && vc = 0 && fn = 0) (.pset h G (f3 vd) (f5 sa))
  | 0x7f => req (rm = 0 && va = 0 && vb = 0 && vc = 0 && fn = 0 && sa = 0) (.vidx h G F (f5 vd))
  | 0x80 => req (vb = 0 && vc = 0 && fn = 0) (.vmuls h G F M (f5 vd) (f5 va) (f5 sa))
  | 0xf3 => (algOf fn).bind (fun k => req (rm = 0 && vd = 0 && vb = 0 && vc = 0) (.ostep h G F k (f5 sa) (f5 va)))
  | _ => none

/-- Format V. -/
def decodeV (h : Hart) (opc vd va vb vc pg pgn fmt rm fn sa : Nat) : Option Instr :=
  (fmtOf fmt).bind (fun f => (rmOf rm).bind (fun m =>
    decodeVWith h { p := f3 pg, neg := decide (pgn = 1) } f m opc vd va vb vc fmt rm fn sa))

/-- Format M. -/
def decodeM (h : Hart) (opc ts tw buf mode sa sb : Nat) : Option Instr :=
  match opc with
  | 0xa0 => req (tw = 0 && mode = 0 && sa = 0 && sb = 0) (.mload h (f4 ts) (f1 buf))
  | 0xa1 => (modeOf mode).bind (fun m => req (ts = 0) (.mmul h (f4 tw) (f1 buf) m (f5 sa) (f5 sb)))
  | 0xa2 => (modeOf mode).bind (fun m => some (.mgemm h (f4 ts) (f4 tw) (f1 buf) m (f5 sa) (f5 sb)))
  | 0xa3 => req (ts = 0 && tw = 0 && buf = 0 && mode = 0 && sa = 0 && sb = 0) (.mzero h)
  | _ => none

/-- Format Q. -/
def decodeQ (h : Hart) (opc qh ta tb sa sb fn tag : Nat) : Option Instr :=
  match opc with
  | 0xc0 => req (sa = 0 && sb = 0 && fn < 2) (.rcopy h (f3 qh) (f4 tb) (f4 ta) (fn = 1) (BitVec.ofNat 24 tag))
  | 0xc1 => req (fn = 0) (.rgather h (f3 qh) (f4 tb) (f4 ta) (f5 sa) (f5 sb) (BitVec.ofNat 24 tag))
  | 0xc2 => req (fn < 2) (.rscatter h (f3 qh) (f4 tb) (f4 ta) (fn = 1) (f5 sa) (f5 sb) (BitVec.ofNat 24 tag))
  | 0xc3 => req (ta = 0 && sb = 0 && fn = 0) (.rfill h (f3 qh) (f4 tb) (f5 sa) (BitVec.ofNat 24 tag))
  | 0xd0 => (colOf fn).bind (fun k => req (sb = 0) (.callreduce h (f3 qh) (f4 tb) (f4 ta) k (f5 sa) (BitVec.ofNat 24 tag) .none))
  | 0xd1 => (colOf fn).bind (fun k => req (sb = 0) (.creducescatter h (f3 qh) (f4 tb) (f4 ta) k (f5 sa) (BitVec.ofNat 24 tag) .none))
  | 0xd2 => req (sb = 0 && fn < 256 && fn % 8 = 0 && fn / 32 % 2 = 0) (.callgather h (f3 qh) (f4 tb) (f4 ta) (f2 (fn / 8)) (fn / 64 % 2 = 1) (fn / 128 = 1) (f5 sa) (BitVec.ofNat 24 tag) .none)
  | 0xd3 => req (sa = 0 && fn < 32 && fn % 8 = 0) (.cbcast h (f3 qh) (f4 tb) (f4 ta) (f2 (fn / 8)) (f5 sb) (BitVec.ofNat 24 tag))
  | 0xd4 => req (sb = 0 && fn < 256 && fn % 8 = 0 && fn / 32 % 4 = 0) (.calltoall h (f3 qh) (f4 tb) (f4 ta) (f2 (fn / 8)) (fn / 128 = 1) (f5 sa) (BitVec.ofNat 24 tag) .none)
  | 0xd5 => req (tb = 0 && sa = 0 && sb = 0 && fn < 512 && fn % 8 = 0 && fn / 32 % 8 = 0) (.csend h (f3 qh) (f4 ta) (f2 (fn / 8)) (fn / 256 = 1) (BitVec.ofNat 24 tag))
  | 0xd6 => req (ta = 0 && sa = 0 && sb = 0 && fn < 512 && fn % 8 = 0 && fn / 32 % 8 = 0) (.crecv h (f3 qh) (f4 tb) (f2 (fn / 8)) (fn / 256 = 1) (BitVec.ofNat 24 tag))
  | 0xd7 => req (ta = 0 && tb = 0 && sa = 0 && sb = 0 && fn < 32 && fn % 8 = 0) (.cbarrier h (f3 qh) (f2 (fn / 8)) (BitVec.ofNat 24 tag))
  | _ => none

/-- Format Y. -/
def decodeY (h : Hart) (opc sd sa sb csr fn imm : Nat) : Option Instr :=
  match opc with
  | 0xe0 => (fenceOf fn).bind (fun k => req (sd = 0 && sa = 0 && sb = 0 && csr = 0 && imm = 0) (.fence h k))
  | 0xe1 => req (sa < 8 && csr = 0 && fn = 0 && imm = 0) (.wait h (f5 sd) (f3 sa) (f5 sb))
  | 0xe2 => req (sd = 0 && sb = 0 && csr = 0 && fn = 0 && imm = 0) (.launch h (f5 sa))
  | 0xe3 => (wcondOf fn).bind (fun cc => req (csr = 0) (.waitm h cc (f5 sd) (f5 sa) (f5 sb) (BitVec.ofNat 24 imm)))
  | 0xe4 => req (sd < 8 && sa < 8 && sb = 0 && csr = 0 && fn = 0 && imm = 0) (.qcopy h (f3 sd) (f3 sa))
  | 0xe5 => req (sa < 8 && sb = 0 && csr = 0 && fn = 0 && imm = 0) (.qread h (f5 sd) (f3 sa))
  | 0xf0 => req (sb = 0 && csr = 0 && fn = 0 && imm = 0) (.sopen h (f5 sd) (f5 sa))
  | 0xf1 => req (sa = 0 && sb = 0 && csr = 0 && fn = 0 && imm = 0) (.sclose h (f5 sd))
  | 0xf2 => req (sa = 0 && sb = 0 && csr = 0 && fn = 0 && imm = 0) (.sstat h (f5 sd))
  | 0xf4 => req (sa = 0 && sb = 0 && csr = 0 && fn = 0 && imm = 0) (.sadv h (f5 sd))
  | 0xf5 => req (sd = 0 && sb = 0 && csr = 0 && fn = 0 && imm = 0) (.smark h (f5 sa))
  | 0xf8 => req (sa = 0 && sb = 0 && fn = 0 && imm = 0) (.csrr h (f5 sd) (BitVec.ofNat 12 csr))
  | 0xf9 => (csrOf fn).bind (fun k => req (sd = 0 && sb = 0 && imm = 0) (.csrw h k (BitVec.ofNat 12 csr) (f5 sa)))
  | 0xfa => req (sd = 0 && sa = 0 && sb = 0 && csr = 0 && fn = 0 && imm = 0) (.halt h)
  | 0xfb => req (sd = 0 && sa = 0 && sb = 0 && csr = 0 && fn = 0 && imm = 0) (.brk h)
  | 0xfc => req (sd = 0 && sa = 0 && sb = 0 && csr = 0 && fn = 0 && imm = 0) (.nop h)
  | 0xfd => req (sd = 0 && sa = 0 && sb = 0 && csr = 0 && fn = 0 && imm = 0) (.cinv h)
  | 0xfe => req (sd = 0 && csr = 0 && fn < 2 && imm = 0) (.tinv h (fn = 1) (f5 sa) (f5 sb))
  | _ => none

/-- The instruction that a word spells for a core, or none: a reserved opcode, a non-zero Reserved field
or a reserved field value (R48). The opcode alone selects the format (Table 2-9). -/
def decodeSeisk (h : Hart) (w : Word) : Option Instr :=
  let n := w.toNat
  let opc := n % 256
  if opc < 0x30 then
    match splitFields srWidths n with
    | [_, sd, sa, sb, sc, fn, 0] => decodeSR h opc sd sa sb sc fn
    | _ => none
  else if opc < 0x40 then
    match splitFields siWidths n with
    | [_, sd, sa, fn, imm] => decodeSI h opc sd sa fn imm
    | _ => none
  else if opc < 0x50 then
    match splitFields bWidths n with
    | [_, sa, sb, cond, 0, disp] => decodeB h opc sa sb cond disp
    | _ => none
  else if (0x60 ≤ opc ∧ opc < 0xA0) ∨ opc = 0xF3 then
    match splitFields vWidths n with
    | [_, vd, va, vb, vc, pg, pgn, fmt, rm, fn, sa, 0] => decodeV h opc vd va vb vc pg pgn fmt rm fn sa
    | _ => none
  else if 0xA0 ≤ opc ∧ opc < 0xC0 then
    match splitFields mWidths n with
    | [_, ts, tw, 0, buf, mode, sa, sb, 0] => decodeM h opc ts tw buf mode sa sb
    | _ => none
  else if 0xC0 ≤ opc ∧ opc < 0xE0 then
    match splitFields qWidths n with
    | [_, qh, ta, tb, sa, sb, fn, tag] => decodeQ h opc qh ta tb sa sb fn tag
    | _ => none
  else if 0xE0 ≤ opc then
    match splitFields yWidths n with
    | [_, sd, sa, sb, csr, fn, imm] => decodeY h opc sd sa sb csr fn imm
    | _ => none
  else none

/-! ### Legal encodings (R35, R48, R71, R85, R86, R113, R158, R176, R177, R183) -/

/-- FP32, BF16 and FP16; FP32 and INT32. -/
def Fmt.isFp (f : Fmt) : Bool := decide (f = .f32 ∨ f = .bf16 ∨ f = .f16)
def Fmt.isLane (f : Fmt) : Bool := decide (f = .f32 ∨ f = .i32)

/-- A guard of p0 with negation is reserved (R35). -/
def Guard.ok (g : Guard) : Bool := !(decide (g.p = 0) && g.neg)
/-- PG and PGN both zero. -/
def Guard.none (g : Guard) : Bool := decide (g.p = 0) && !g.neg

/-- The formats a microscaling conversion may write (R158). -/
def Fmt.isMx (f : Fmt) : Bool := [Fmt.e4m3, .e5m2, .e2m3, .e3m2, .e2m1].contains f

/-- Elements of a vector register in a format. -/
def Fmt.elements : Fmt → Nat
  | .f32 | .i32 => 512
  | .bf16 | .f16 | .sf16 => 1024
  | .e2m1 => 4096
  | _ => 2048

/-- Is the encoding of a Seisk instruction legal? Any other command is. -/
def Instr.legal (i : Instr) : Bool :=
  match i with
  | .illegal _ _ => false
  | .ld _ size signed _ _ _ _ => !(decide (size = .double) && signed)
  | .br _ cc sa sb _ => !decide (cc = .always) || (decide (sa = 0) && decide (sb = 0))
  | .vadd _ g f _ _ _ _ | .vsub _ g f _ _ _ _ | .vmul _ g f _ _ _ _ | .vfma _ g f _ _ _ _ => g.ok && f.isFp
  | .vmin _ g f _ _ _ | .vmax _ g f _ _ _ => g.ok && f.isFp
  | .vrcp _ g f _ _ | .vrsqrt _ g f _ _ => g.ok && decide (f = .f32)
  | .vsqrt _ g f _ _ _ | .vact _ g f _ _ _ _ => g.ok && f.isFp
  | .vactd _ g f _ fn input _ _ _ =>
    g.ok && f.isFp && (input || !decide (fn = .gelu ∨ fn = .silu ∨ fn = .ln))
  | .vcmp _ g f _ _ _ _ => g.ok && (f.isFp || decide (f = .i32))
  | .vsel _ g f _ _ _ _ => g.ok && !decide (f = .sf16)
  | .vcvt _ g d src _ _ mx _ _ vc =>
    g.none && !decide (d = .sf16) && !decide (src = .sf16) && (if mx then d.isMx else decide (vc = 0))
  | .vand _ g f _ _ _ | .vor _ g f _ _ _ | .vxor _ g f _ _ _ => g.ok && decide (f = .i32)
  | .vshl _ g f _ _ _ | .vshr _ g f _ _ _ _ | .viadd _ g f _ _ _ => g.ok && decide (f = .i32)
  | .vbcast _ g f _ _ => g.ok && !decide (f = .sf16)
  | .vext _ g f _ _ idx => g.ok && !decide (f = .sf16) && decide (idx.toNat < f.elements)
  | .vperm _ g f _ _ _ => g.ok && f.isLane
  -- Of vred only an FP32 sum rounds: an RM other than 0x0 on another form is illegal (R85; log entry 14).
  | .vred _ g f rm fn _ _ => g.none && f.isLane && (decide (rm = .dyn) || (decide (f = .f32) && decide (fn = .sum)))
  | .vcred _ g f op _ _ vc _ =>
    g.none && decide (f = .f32) && (match op with
      | .sum => decide (vc = 0)
      | .max => true
      | .topk k => decide (1 ≤ k.val ∧ k.val ≤ 8))
  | .vld _ g f _ _ _ _ | .vst _ g f _ _ _ => g.ok && !decide (f = .sf16)
  | .vrdvat _ g f _ _ | .vwrvat _ g f _ _ => g.ok && decide (f = .f32)
  | .plog _ g _ _ _ _ | .pset _ g _ _ => g.ok
  | .vidx _ g f _ => g.ok && decide (f = .i32)
  | .vmuls _ g f _ _ _ _ => g.ok && decide (f = .f32)
  | .ostep _ g f _ _ _ => g.ok && decide (f = .f32 ∨ f = .bf16)
  | .callreduce _ _ _ _ fn sa _ _ | .creducescatter _ _ _ _ fn sa _ _ => fn.ragged || decide (sa = 0)
  | .callgather _ _ _ _ _ _ ragged sa _ _ | .calltoall _ _ _ _ _ ragged sa _ _ => ragged || decide (sa = 0)
  | _ => true

/-- Does a word hold no legal instruction (R48)? -/
def illegalWord (h : Hart) (w : Word) : Bool :=
  match decodeSeisk h w with
  | none => true
  | some i => !i.legal

end Sys2Proof
end

