-- ==== Sys2Proof/Machine/Float.lean ====
section
/-! DEFINITION. Floating point: exact values, one rounding, the formats of Table 5-1 and the conversions of
R152 to R157. A finite value is m × 2^e with its sign; every operation is exact and is rounded once. -/

namespace Sys2Proof.Machine

/-- Rounding modes (R152). -/
inductive Rm where
  | rn | rz | ru | rd
  deriving DecidableEq, Repr

/-- A floating-point value: a finite one is ±m × 2^e. -/
inductive Val where
  | nan
  | inf (neg : Bool)
  | fin (neg : Bool) (m : Nat) (e : Int)
  deriving DecidableEq, Repr

/-- Flags of one operation (Table 2-17) and its NaN event cause, lowest first (Table 5-6). -/
structure Fl where
  nx : Bool := false
  uf : Bool := false
  of : Bool := false
  nv : Bool := false
  cause : Option Nat := none
  deriving DecidableEq, Repr

/-- The lower of two causes. -/
def minCause : Option Nat → Option Nat → Option Nat
  | some a, some b => some (min a b)
  | some a, none => some a
  | none, b => b

def Fl.or (a b : Fl) : Fl := ⟨a.nx || b.nx, a.uf || b.uf, a.of || b.of, a.nv || b.nv, minCause a.cause b.cause⟩

/-- An invalid operation: NV and cause 0x2. A NaN operand: NV and cause 0x1. -/
def flInvalid : Fl := { nv := true, cause := some 2 }
def flNan : Fl := { nv := true, cause := some 1 }

/-- A format of Table 5-1: exponent bits, mantissa bits, bias, and which special codes it has. -/
structure FpSpec where
  eb : Nat
  mb : Nat
  bias : Nat
  /-- 0 IEEE infinities and NaNs; 1 E4M3; 2 finite only. -/
  kind : Nat
  deriving DecidableEq, Repr

def spec32 : FpSpec := ⟨8, 23, 127, 0⟩
def specOf : Fmt → FpSpec
  | .f32 => spec32
  | .bf16 => ⟨8, 7, 127, 0⟩
  | .f16 | .sf16 => ⟨5, 10, 15, 0⟩
  | .e4m3 => ⟨4, 3, 7, 1⟩
  | .e5m2 => ⟨5, 2, 15, 0⟩
  | .e2m3 => ⟨2, 3, 1, 2⟩
  | .e3m2 => ⟨3, 2, 3, 2⟩
  | .e2m1 => ⟨2, 1, 1, 2⟩
  | .i8 | .i32 | .e8m0 => spec32

/-- Bits of an element of a format (R148): FP6 takes a byte, FP4 half a byte. -/
def fmtBits : Fmt → Nat
  | .f32 | .i32 => 32
  | .bf16 | .f16 | .sf16 => 16
  | .e2m1 => 4
  | _ => 8

/-- The value of a code of a floating-point format (R146). -/
def fpDecode (f : FpSpec) (code : Nat) : Val :=
  let neg := code.testBit (f.eb + f.mb)
  let e := code / 2 ^ f.mb % 2 ^ f.eb
  let m := code % 2 ^ f.mb
  if f.kind = 0 ∧ e = 2 ^ f.eb - 1 then (if m = 0 then .inf neg else .nan)
  else if f.kind = 1 ∧ e = 15 ∧ m = 7 then .nan
  else if e = 0 then .fin neg m (1 - (f.bias : Int) - f.mb)
  else .fin neg (m + 2 ^ f.mb) ((e : Int) - f.bias - f.mb)

/-- The value of an element code of any format (R146, R147). E8M0 0xFF is NaN. -/
def decodeElem (f : Fmt) (code : Nat) : Val :=
  match f with
  | .i8 => let v := signedOf 8 code; .fin (decide (v < 0)) v.natAbs 0
  | .i32 => let v := signedOf 32 code; .fin (decide (v < 0)) v.natAbs 0
  | .e8m0 => if code % 256 = 255 then .nan else .fin false 1 ((code % 256 : Nat) - 127)
  | .e2m3 | .e3m2 => fpDecode (specOf f) (code % 64)
  | _ => fpDecode (specOf f) code

/-- The sign bit of a format's codes, its infinity, its canonical NaN (Table 5-1). -/
def signBit (f : FpSpec) (neg : Bool) : Nat := if neg then 2 ^ (f.eb + f.mb) else 0
def infCode (f : FpSpec) (neg : Bool) : Nat := signBit f neg + (2 ^ f.eb - 1) * 2 ^ f.mb
def nanCode (f : FpSpec) : Nat :=
  if f.kind = 1 then 0x7F else if f.kind = 2 then 0 else (2 ^ f.eb - 1) * 2 ^ f.mb + 2 ^ (f.mb - 1)

/-- The largest finite value of a format, as significand and exponent, and its code without sign. -/
def maxFin (f : FpSpec) : Nat × Int :=
  if f.kind = 1 then (2 ^ (f.mb + 1) - 2, 15 - (f.bias : Int) - f.mb)
  else if f.kind = 2 then (2 ^ (f.mb + 1) - 1, (2 ^ f.eb - 1 : Nat) - (f.bias : Int) - f.mb)
  else (2 ^ (f.mb + 1) - 1, (2 ^ f.eb - 2 : Nat) - (f.bias : Int) - f.mb)
def maxCode (f : FpSpec) : Nat :=
  if f.kind = 1 then 0x7E else if f.kind = 2 then 2 ^ (f.eb + f.mb) - 1
  else (2 ^ f.eb - 2) * 2 ^ f.mb + (2 ^ f.mb - 1)

/-! ### Exact arithmetic -/

/-- The integer m × 2^(e − q) for q ≤ e. -/
def scaleTo (m : Nat) (e q : Int) : Nat := m * 2 ^ (e - q).toNat

/-- The signed integer of a finite value on the grid 2^q. -/
def gridInt (neg : Bool) (m : Nat) (e q : Int) : Int :=
  if neg then -(scaleTo m e q : Int) else (scaleTo m e q : Int)

/-- The sign of a zero sum (IEEE 754): −0 only for two −0, or under RD where the signs differ. -/
def zeroSign (rm : Rm) (a b : Bool) : Bool := (a && b) || (decide (rm = .rd) && (a || b))

/-- The exact sum. -/
def addVal (rm : Rm) (x y : Val) : Val :=
  match x, y with
  | .nan, _ | _, .nan => .nan
  | .inf a, .inf b => if a = b then .inf a else .nan
  | .inf a, _ => .inf a
  | _, .inf b => .inf b
  | .fin a m e, .fin b n k =>
    let q := min e k
    let v := gridInt a m e q + gridInt b n k q
    if v = 0 then
      -- Two zeros keep the IEEE sign; opposite values give −0 under RD only.
      .fin (if m = 0 ∧ n = 0 then zeroSign rm a b else decide (rm = .rd)) 0 0
    else .fin (decide (v < 0)) v.natAbs q

def negVal : Val → Val
  | .nan => .nan
  | .inf a => .inf (!a)
  | .fin a m e => .fin (!a) m e

def isZero : Val → Bool
  | .fin _ m _ => decide (m = 0)
  | _ => false

/-- The exact product; 0 × ∞ is NaN. -/
def mulVal (x y : Val) : Val :=
  match x, y with
  | .nan, _ | _, .nan => .nan
  | .inf a, .inf b => .inf (a != b)
  | .inf a, .fin b m _ => if m = 0 then .nan else .inf (a != b)
  | .fin a m _, .inf b => if m = 0 then .nan else .inf (a != b)
  | .fin a m e, .fin b n k => .fin (a != b) (m * n) (e + k)

def isNanV : Val → Bool
  | .nan => true
  | _ => false

/-- Is the first finite or infinite value less than the second? False for a NaN. −0 equals +0. -/
def ltVal (x y : Val) : Bool :=
  match x, y with
  | .nan, _ | _, .nan => false
  | .inf a, .inf b => a && !b
  | .inf a, _ => a
  | _, .inf b => !b
  | .fin a m e, .fin b n k =>
    let q := min e k
    decide (gridInt a m e q < gridInt b n k q)

def eqVal (x y : Val) : Bool := !isNanV x && !isNanV y && !ltVal x y && !ltVal y x

/-- The flags of an operation on two or three values: a NaN input is consumed; a NaN from none is invalid. -/
def opFlags (ins : List Val) (r : Val) : Fl :=
  if ins.any isNanV then flNan else if isNanV r then flInvalid else {}

/-! ### Rounding (R152, R153, R155) -/

/-- Floor of the base-2 logarithm of a positive number. -/
def log2 (m : Nat) : Nat := Nat.log2 m

/-- m × 2^e rounded to a multiple of 2^q: the integer count of 2^q, and whether it is inexact. -/
def roundGrid (rm : Rm) (neg : Bool) (m : Nat) (e q : Int) : Nat × Bool :=
  if q ≤ e then (m * 2 ^ (e - q).toNat, false)
  else
    let d := 2 ^ (q - e).toNat
    let n := m / d
    let r := m % d
    let up : Bool := match rm with
      | .rn => decide (d < 2 * r ∨ (2 * r = d ∧ n % 2 = 1))
      | .rz => false
      | .ru => decide (0 < r) && !neg
      | .rd => decide (0 < r) && neg
    (if up then n + 1 else n, decide (0 < r))

/-- Does a × 2^i exceed b × 2^j? -/
def dyGt (a : Nat) (i : Int) (b : Nat) (j : Int) : Bool :=
  let q := min i j
  decide (scaleTo b j q < scaleTo a i q)

/-- Does the IEEE 754 overflow result of a sign under a mode stay finite? -/
def ovfFinite (rm : Rm) (neg : Bool) : Bool :=
  match rm with
  | .rn => false
  | .rz => true
  | .ru => neg
  | .rd => !neg

/-- A finite non-zero value rounded once into a format, with its flags (R153, R155, Table 5-3). -/
def roundFin (f : FpSpec) (rm : Rm) (sat : Bool) (neg : Bool) (m : Nat) (e : Int) : Nat × Fl :=
  let top : Int := e + log2 m
  let emin : Int := 1 - (f.bias : Int)
  let q := max (top - f.mb) (emin - f.mb)
  let r := roundGrid rm neg m e q
  let u := roundGrid rm neg m e (top - f.mb)
  let tiny := !dyGt u.1 (top - f.mb) 1 emin && !decide (u.1 = 2 ^ f.mb ∧ top = emin)
    && !decide (u.1 = 2 ^ (f.mb + 1) ∧ top + 1 = emin)
  let mx := maxFin f
  if dyGt r.1 q mx.1 mx.2 then
    if f.kind = 2 ∨ sat ∨ ovfFinite rm neg then (signBit f neg + maxCode f, { nx := true, of := true })
    else if f.kind = 1 then (0x7F, { nx := true, of := true, cause := some 5 })
    else (infCode f neg, { nx := true, of := true })
  else
    let fl : Fl := { nx := r.2, uf := r.2 && tiny }
    if r.1 < 2 ^ f.mb then (signBit f neg + r.1, fl)
    else
      let c := if r.1 = 2 ^ (f.mb + 1) then (2 ^ f.mb, q + 1) else (r.1, q)
      (signBit f neg + ((c.2 + f.mb + f.bias).toNat * 2 ^ f.mb + (c.1 - 2 ^ f.mb)), fl)

/-- A value written in a floating-point format (R155). -/
def roundFp (f : FpSpec) (rm : Rm) (sat : Bool) (v : Val) : Nat × Fl :=
  match v with
  | .nan => if f.kind = 2 then (0, { nv := true }) else (nanCode f, {})
  | .inf neg =>
    if f.kind = 2 then (signBit f neg + maxCode f, { nv := true })
    else if f.kind = 1 then (0x7F, { cause := some 4 })
    else (infCode f neg, {})
  | .fin neg m e => if m = 0 then (signBit f neg, {}) else roundFin f rm sat neg m e

/-- FP32 rounding of a value, code alone. -/
def round32 (rm : Rm) (v : Val) : Nat := (roundFp spec32 rm false v).1
def val32 (c : Nat) : Val := fpDecode spec32 (c % 2 ^ 32)

/-- A value rounded to an integer under a mode, then held to `n`-bit signed limits (R155): NV alone where
it falls outside, NX where it is inexact. -/
def roundInt (n : Nat) (rm : Rm) (v : Val) : Int × Fl :=
  let lo : Int := -(2 ^ (n - 1) : Nat)
  let hi : Int := (2 ^ (n - 1) : Nat) - 1
  match v with
  | .nan => (0, flNan)
  | .inf neg => (if neg then lo else hi, { nv := true })
  | .fin neg m e =>
    let r := roundGrid rm neg m e 0
    let i : Int := if neg then -(r.1 : Int) else r.1
    if i < lo then (lo, { nv := true }) else if hi < i then (hi, { nv := true }) else (i, { nx := r.2 })

/-- A value converted to E8M0 (R157). -/
def toE8m0 (v : Val) : Nat × Fl :=
  match v with
  | .nan => (0xFF, flNan)
  | .inf _ => (0xFE, { nv := true })
  | .fin _ m e =>
    if m = 0 then (0, { nx := true })
    else
      let k := e + log2 m + 127
      let c := if k < 0 then 0 else if k > 254 then 254 else k.toNat
      (c, { nx := decide (m ≠ 2 ^ log2 m ∨ (c : Int) ≠ k) })

/-- A value converted to a format with one rounding (R154 to R157). A NaN source sets NV and is consumed:
with cause 0x3 where it is the E8M0 code 0xFF. -/
def convVal (d : Fmt) (rm : Rm) (sat : Bool) (src : Fmt) (v : Val) : Nat × Fl :=
  let r : Nat × Fl := match d with
    | .i8 => let t := roundInt 8 rm v; (unsignedOf 8 t.1, t.2)
    | .i32 => let t := roundInt 32 rm v; (unsignedOf 32 t.1, t.2)
    | .e8m0 => toE8m0 v
    | _ => roundFp (specOf d) rm sat v
  if isNanV v then (r.1, { r.2 with nv := true, cause := some (if src = .e8m0 then 3 else 1) }) else r

/-- A zero code written as +0 (R151). -/
def plusZero (f : Fmt) (c : Nat) : Nat :=
  match f with
  | .i8 | .i32 | .e8m0 => c
  | _ => if c = signBit (specOf f) true then 0 else c

/-! ### Square root -/

/-- The largest r below 2^(k+1) with (acc + r)² ≤ n, found bit by bit. -/
def isqrtBits (n : Nat) : Nat → Nat → Nat
  | 0, acc => acc
  | k + 1, acc => if (acc + 2 ^ k) * (acc + 2 ^ k) ≤ n then isqrtBits n k (acc + 2 ^ k) else isqrtBits n k acc

/-- Floor of the square root. -/
def isqrt (n : Nat) : Nat := isqrtBits n (log2 n / 2 + 1) 0

/-- The square root of a value, exact or with a sticky bit far below any rounding point. -/
def sqrtVal (v : Val) : Val :=
  match v with
  | .nan => .nan
  | .inf neg => if neg then .nan else .inf false
  | .fin neg m e =>
    if m = 0 then .fin neg 0 0
    else if neg then .nan
    else
      let m2 := if e % 2 = 0 then m else 2 * m
      let e2 := if e % 2 = 0 then e else e - 1
      let big := m2 * 2 ^ 128
      let r := isqrt big
      let h := (e2 - 128) / 2
      if r * r = big then .fin false r h else .fin false (4 * r + 1) (h - 2)

/-- The quotient of two values, exact or with a sticky bit far below any rounding point; x / 0 for a
non-zero x is ±∞. -/
def divVal (x y : Val) : Val :=
  match x, y with
  | .nan, _ | _, .nan => .nan
  | .inf _, .inf _ => .nan
  | .inf a, .fin b _ _ => .inf (a != b)
  | .fin a _ _, .inf b => .fin (a != b) 0 0
  | .fin a m e, .fin b n k =>
    if n = 0 then (if m = 0 then .nan else .inf (a != b))
    else if m = 0 then .fin (a != b) 0 0
    else
      let big := m * 2 ^ (128 + log2 n)
      let q := big / n
      let h := e - k - (128 + log2 n : Nat)
      if big % n = 0 then .fin (a != b) q h else .fin (a != b) (4 * q + 1) (h - 2)

/-! ### Minimum and maximum with the sign of zero (R78) -/

/-- Does x rank below y, −0 below +0? -/
def rankLt (x y : Val) : Bool :=
  ltVal x y || (isZero x && isZero y && (match x, y with
    | .fin a _ _, .fin b _ _ => a && !b
    | _, _ => false))

def minVal (x y : Val) : Val := if isNanV x || isNanV y then .nan else if rankLt y x then y else x
def maxVal (x y : Val) : Val := if isNanV x || isNanV y then .nan else if rankLt x y then y else x

end Sys2Proof.Machine
end

