-- ==== Sys2Proof/Config.lean ====
section
/-! DEFINITION. What one device fixes and what the spec leaves free. Every constant of this file is
opaque: no proof can see its value, so every claim holds for all values. -/

namespace Sys2Proof

/-- Free value number `n` of 64 bits, for a value the spec leaves open (log entry 3). -/
opaque Config.freeWord : Nat → BitVec 64

/-- Free choice number `n`, where the spec allows old or new contents (R56, R219, R227, R307; log entry 3). -/
opaque Config.freeBit : Nat → Bool

/-- Which of its two results a vcred or vcvt leaves in a register that is both vd and vc: a function of the instruction
word and the source register, since R174 makes results depend on nothing else (log entry 3). -/
opaque Config.sameDest : BitVec 64 → BitVec 16384 → Bool

/-- Does descriptor number `d` read line `l`, which it also writes, after its own write (R219)? The line it then reads
where the walk has not come to that write. Does a KILL leave line `l` wholly new (R227)? (log entry 3) -/
opaque Config.readsNew : Nat → Nat → Bool
opaque Config.newLine : Nat → Nat → BitVec 512
opaque Config.killLine : Nat → Nat → Bool

/-- Does core `n` run a dummy slab at device cycle `c` because its next slab was not delivered in time (R122, R141)?
(log entry 3) -/
opaque Config.lateSlab : Nat → Nat → Bool

/-- Does the Condition Report entry with a SEQ, read at device cycle `c`, show an uncorrectable error (R406; log
entry 3)? -/
opaque Config.entryLost : Nat → Nat → Bool

/-- The 16 random bytes of nonce number `n` (R280, R357; log entry 3). -/
opaque Config.nonce : Nat → BitVec 128

/-- The mask ROM revision, PRV_STATUS.ROMREV (Table 14-10 gives no number; log entry 4). -/
opaque Config.romRev : BitVec 16

/-- ROMDIGEST0 and ROMDIGEST1 of R409: SHA-512 digests of Waleac's root public keys (log entry 4). -/
opaque Config.romDigest0 : List Byte
opaque Config.romDigest1 : List Byte

/-- Pure Ed25519 verification under RFC 8032: public key, message, signature (R409; log entry 5). -/
opaque Config.ed25519Verify : List Byte → List Byte → List Byte → Bool

/-- ML-DSA-65 verification under FIPS 204 with the empty context: public key, message, signature (R409; log entry 5). -/
opaque Config.mldsaVerify : List Byte → List Byte → List Byte → Bool

/-- Ed25519 and ML-DSA-65 key generation from a 32-byte seed: the public key (R416; log entry 5). -/
opaque Config.ed25519Public : List Byte → List Byte
opaque Config.mldsaPublic : List Byte → List Byte

/-- Ed25519 and ML-DSA-65 signing: the seed and the message give the signature (R416, R417; log entry 5). -/
opaque Config.ed25519Sign : List Byte → List Byte → List Byte
opaque Config.mldsaSign : List Byte → List Byte → List Byte

/-- The PUF reconstruction of R416: the helper data gives the 256-bit secret, or fails its check.
The power-on count stands for the pattern that power-on gave the PUF SRAM (log entry 5). -/
opaque Config.pufSecret : Nat → List Byte → Option (List Byte)

/-- Is a temperature reading out of range (R440 gives no range; log entry 3)? -/
opaque Config.sensorOutOfRange : BitVec 16 → Bool

end Sys2Proof
end

