-- ==== Sys2Proof/Machine/State.lean ====
section
/-! DEFINITION. The state of the Octun T1: plain data, one structure per unit, and the state after reset.
Device registers whose fields are only stored stand in `State.dev`, at the bit positions of their tables;
everything else a unit holds stands in that unit's structure. A field's default is its reset value. -/

namespace Sys2Proof.Machine

/-- Why a step stops with a fault: no command of the table does (every happening has a next state). -/
inductive Fault where
  /-- Raised by no meaning; safe, since it stops where the device goes on. -/
  | none
  deriving DecidableEq, Repr

/-- Why a step has no meaning. -/
inductive Refusal where
  /-- Raised by a dispatch arm whose command is not modelled; safe. -/
  | notModelled (mnemonic : String)
  /-- Raised by JTAG_INSTRUCTION for a debug register the spec does not describe (R422, R459); safe. -/
  | jtagDeviceState
  deriving DecidableEq, Repr

/-- A memory: (address, byte) cells, addresses strictly rising, no byte zero, and the numbers of
the 64-byte lines marked poisoned, strictly rising (R38, R43). An unlisted byte reads as zero. -/
structure Memory where
  cells : List Host.Cell := []
  poison : List Nat := []
  /-- Cellar channels that failed training: group and channel. Their lines read poisoned and take no write (R241). -/
  dead : List (Nat × Nat) := []
  /-- Groups that run fifteen-way, with their retired channel (R236). -/
  ways : List (Nat × Nat) := []
  deriving DecidableEq, Repr

/-- A table of values by number, numbers strictly rising, without the values an unlisted number has. -/
abbrev Tbl (α : Type) := List (Nat × α)

/-- cstat.STATE (Table 2-16). -/
inductive RunState where
  | empty | run | wait | stopped | halted | saving | restoring | saved
  deriving DecidableEq, Repr

/-- One matrix queue entry (R97, Table 2-13): the word, its pc, the progress register, the row drop
mask, the stationary record of an mmul and the four descriptor slots; `core` fields of R388 aside. -/
structure MEntry where
  word : Word
  pc : Word
  progress : Word := 0
  drop : BitVec 128 := 0
  stat : Word := 0
  ts : BitVec 256 := 0
  tsScale : BitVec 256 := 0
  tw : BitVec 256 := 0
  twScale : BitVec 256 := 0
  deriving DecidableEq, Repr

/-- What R139 records of a stationary buffer: its format and shape. -/
structure BufRec where
  fmt : BitVec 4 := 0
  mx : Bool := false
  valid : Bool := false
  rows : BitVec 8 := 0
  cols : BitVec 8 := 0
  deriving DecidableEq, Repr

/-- A held instruction and the Timebase moment its hold began (R58, R60, R104, R109). -/
structure Hold where
  instr : Instr
  since : Nat
  deriving DecidableEq, Repr

/-- One Racking descriptor as its ring entry reads when it starts (R209, R211, Table 7-4). -/
structure RDesc where
  kind : Nat
  add : Bool
  tag : BitVec 24
  pc : Word
  ta : BitVec 256
  taScale : BitVec 256
  tb : BitVec 256
  tbScale : BitVec 256
  list : Word
  count : Nat
  fill : Word
  deriving DecidableEq, Repr

/-- One Racking queue (R209 to R230): the descriptor that has started and not ended, the row and element
of its next piece, and what it has gathered. Waiting descriptors stand in the ring in memory. -/
structure RQueue where
  cur : Option RDesc := none
  row : Nat := 0
  elem : Nat := 0
  reject : Nat := 0
  poisoned : Bool := false
  held : Bool := false
  tfault : Bool := false
  mstall : Bool := false
  /-- The fault of a stopped piece: class, write, address (R224). -/
  fault : Option (Nat × Bool × Word) := none
  /-- The index of the present list position, once its entry has been read (R216). -/
  idx : Option Nat := none
  /-- A restored descriptor, to be read from its ring entry again at RESUME (R226, R230). -/
  reload : Bool := false
  /-- Lines that a descriptor with overlapping operands has written, as they stood before (R219), and the number of
  its free choices. -/
  snap : Tbl (BitVec 512) := []
  seed : Nat := 0
  /-- Poisoned lines partly rewritten from clean data: the half bytes written so far (R220). -/
  clean : Tbl (BitVec 128) := []
  deriving DecidableEq, Repr

/-- One snoop tap channel (R374 to R379): latched controls, running values and the pending part block. -/
structure ChkCh where
  ctl : Word := 0
  poly : Word := 0
  init : Word := 0
  xorout : Word := 0
  started : Bool := false
  state : List Word := []
  part : List Byte := []
  deriving DecidableEq, Repr

/-- One core: the architectural state of its context (Table 2-1), its engine, vector unit and queue pair. -/
structure Core where
  s : Vector Word 32 := Vector.replicate 32 0
  v : Vector VReg 32 := Vector.replicate 32 0
  vpsn : Vector (BitVec 32) 32 := Vector.replicate 32 0
  p : Vector (BitVec 1024) 8 := Vector.replicate 8 0
  t : Vector (BitVec 256) 16 := Vector.replicate 16 0
  q : Vector Word 8 := Vector.replicate 8 0
  pc : Word := 0
  state : RunState := .empty
  ctxerr : Bool := false
  badcmd : Bool := false
  dz : Bool := false
  preq : Bool := false
  late : Bool := false
  /-- fpctl: NX [11], UF [10], OF [9], NV [8], RM [1:0] (Table 2-17). -/
  fpctl : Word := 0
  ecause : Word := 0
  epc : Word := 0
  eaddr : Word := 0
  einfo : Word := 0
  resumepc : Word := 0
  waitlim : BitVec 40 := 0x3B9ACA00
  launchat : Word := 0
  launchPend : Bool := false
  retired : Word := 0
  /-- The device cycle at the last compute reset: cycles counts from it (Table 2-15). -/
  cycleBase : Nat := 0
  ctxpa : Word := 0
  /-- The state that the core reached when a pre-emption stopped its issue (R66). -/
  atStop : RunState := .stopped
  hold : Option Hold := none
  /-- The Gallery NaN arbiter has not answered an event of this core yet (R168). -/
  nanWait : Bool := false
  mq : List MEntry := []
  stb : Vector (Vector (BitVec 4096) 128) 2 := Vector.replicate 2 (Vector.replicate 128 0)
  stbRec : Vector BufRec 2 := Vector.replicate 2 {}
  stbPsn : Vector (BitVec 128) 2 := Vector.replicate 2 0
  vat : Vector VReg 128 := Vector.replicate 128 0
  vatPsn : BitVec 128 := 0
  /-- Activity step, ramp credit and the run of dummy slabs (R135, R122): implementation state. -/
  actStep : Nat := 0
  actSlabs : Nat := 0
  dummyRun : Nat := 0
  rq : Vector RQueue 2 := Vector.replicate 2 {}
  chk : Vector ChkCh 4 := Vector.replicate 4 {}
  deriving DecidableEq, Repr

/-- One management core of the Curator (R51): s registers and pc, a hold in progress, and whether a halt has stopped it
until firmware starts again (log entry 8). -/
structure Mgmt where
  s : Vector Word 32 := Vector.replicate 32 0
  pc : Word := 0
  launchat : Word := 0
  launchPend : Bool := false
  hold : Option Hold := none
  halted : Bool := false
  deriving DecidableEq, Repr

/-- One entry of an attribution log (R388). -/
structure LogEnt where
  gallery : Nat
  core : Nat
  gen : Word
  word : Word
  pc : Word
  descs : List (BitVec 256)
  deriving DecidableEq, Repr

/-- Words 0 to 5 of a fault entry (Table 13-3). -/
structure FEntry where
  w0 : Word
  w1 : Word
  w2 : Word
  w3 : Word
  w4 : Word
  w5 : Word
  deriving DecidableEq, Repr

/-- A Condition Report record: words 0 to 6, word 7 being zero (Table 13-3). -/
structure CrRec where
  ent : FEntry
  w6 : Word
  deriving DecidableEq, Repr

/-- A Fault Record Queue (R383). `cause` is the SEQ of the fatal entry in handling. -/
structure Frq where
  ents : List FEntry := []
  ovf : Nat := 0
  handling : Bool := false
  cause : Nat := 0
  /-- The contexts that an entry charges together (R389). -/
  charged : List CoreId := []
  deriving DecidableEq, Repr

/-- The Condition Report (R406, Table 13-15). Pinned and general records, oldest first. -/
structure Report where
  head : Nat := 0
  pinned : List CrRec := []
  general : List CrRec := []
  overwritten : Nat := 0
  boots : Nat := 0
  cause : Nat := 0
  rdsel : BitVec 32 := 0
  badcmd : Bool := false
  deriving DecidableEq, Repr

/-- The states of a Step Seal (Table 3-14). -/
inductive SealSt where
  | idle | open | closing | clean | dirty
  deriving DecidableEq, Repr

/-- A received SEAL packet: phase, sender, REASON and T_c (Table 10-7). -/
structure SealPkt where
  phase : Nat
  src : BitVec 16
  reason : BitVec 8
  tc : Nat
  deriving DecidableEq, Repr

/-- The Step Seal of a Gallery on this device (R107 to R111, R325 to R327). -/
structure Seal where
  st : SealSt := .idle
  step : BitVec 32 := 0
  reason : BitVec 8 := 0
  sw : Option (BitVec 8) := none
  advanced : Bool := false
  parts : List CoreId := []
  /-- Contexts whose sclose has ended their part in the present step: core, and pc of that sclose (R109, R111). -/
  gone : List (CoreId × Word) := []
  pendReason : BitVec 8 := 0
  pendSw : Option (BitVec 8) := none
  phase : Nat := 0
  /-- All phases of the close are complete. -/
  gathered : Bool := false
  tc : Nat := 0
  /-- REASON and T_c as they stood on entry to each phase, for resending (R326). -/
  sent : List (Nat × BitVec 8 × Nat) := []
  cur : List SealPkt := []
  otherStep : Option (BitVec 32) := none
  other : List SealPkt := []
  lastDecided : Option (BitVec 32) := none
  /-- Every step whose close this device has decided. -/
  decided : List (BitVec 32) := []
  /-- LOSS notices not used up: detection time and arrival time (R327). -/
  losses : List (Nat × Nat) := []
  /-- A clean outcome waits for the mirror pass (R327). -/
  cleanWait : Bool := false
  /-- A teardown came while CLOSING (Table 13-7, step 5). -/
  torn : Bool := false
  /-- A reset came while CLOSING: the seal becomes IDLE when the close ends (Table 13-8, step 4). -/
  idleAfter : Bool := false
  deriving DecidableEq, Repr

/-- The collective instructions (Table 3-11). -/
inductive CollKind where
  | allreduce | reducescatter | allgather | bcast | alltoall | send | recv | barrier
  deriving DecidableEq, Repr

/-- A packet the sender keeps until its acknowledgement, with the retransmissions made (R319). -/
structure Unacked where
  pkt : Packet
  tries : Nat
  deriving DecidableEq, Repr

/-- One accepted collective operation (R306 to R324). `fmt` codes stand in the descriptors; `counts` are the
element counts n_j of the segments (R102, R312). -/
structure CollOp where
  kind : CollKind
  fn : ColFn
  minus : Bool
  root : Nat
  core : CoreId
  /-- The cluster whose Reserve the operands name (R308). -/
  cluster : Nat
  pc : Word
  ta : BitVec 256
  tb : BitVec 256
  counts : List Nat
  n : Nat
  /-- Ring length, this member's ring coordinate, record number. -/
  lr : Nat
  c : Nat
  num : Nat
  opseq : BitVec 16
  tag : BitVec 24
  sig : BitVec 32
  /-- Members whose READY has arrived. -/
  ready : List Nat := []
  /-- Received flags: sender, PHASE, STEP, SEG, CHUNK, PART (R319). -/
  recv : List (List Nat) := []
  /-- Packets not combined or written yet. -/
  early : List (PortId × Packet) := []
  /-- Tasks done, by number. -/
  done : List Nat := []
  /-- Packets that wait for a member's READY. -/
  held : List (Nat × Packet) := []
  unacked : List Unacked := []
  started : Bool := false
  stalled : Bool := false
  poisoned : Bool := false
  deriving DecidableEq, Repr

/-- An operation of a slice stalled on a translation fault (R320): Gallery, queue, class, write, address. -/
structure SliceStall where
  gal : Gal
  q : Fin 16
  cls : Nat
  write : Bool
  addr : Nat
  deriving DecidableEq, Repr

/-- A collective queue of a Gallery (R306, R307). -/
structure CQueue where
  ops : List CollOp := []
  accepted : Nat := 0
  count : Nat := 0
  records : Vector Word 32 := Vector.replicate 32 0
  /-- READY packets for operations not issued yet: axis, OPSEQ, sender, SIG, N. -/
  readys : List (Nat × BitVec 16 × BitVec 16 × BitVec 32 × BitVec 32) := []
  opseq : Vector (BitVec 16) 4 := Vector.replicate 4 0
  deriving DecidableEq, Repr

/-- A mirror transfer being sent or received (R328 to R330, R399, R400). -/
structure MirrorTx where
  running : Bool := false
  /-- The command that a copy into a spare answers (R399). -/
  tag : BitVec 32 := 0
  step : BitVec 32 := 0
  /-- The half being sent, and the half of the last committed pass. -/
  half : Bool := false
  last : Option Bool := none
  /-- Next offset to send; the pass size. -/
  next : Nat := 0
  size : Nat := 0
  unacked : List Unacked := []
  commitSent : Bool := false
  deriving DecidableEq, Repr

structure MirrorRx where
  /-- The step held in each half, where one is committed. -/
  half0 : Option (BitVec 32) := none
  half1 : Option (BitVec 32) := none
  /-- A MIRROR_ACCEPT in progress: command tag, step, moment of the last MIRROR_WRITE (R400). -/
  accept : Option (BitVec 32 × BitVec 32 × Nat) := none
  /-- MIRROR_WRITE packets that wait on a migrating frame, oldest first (R256). -/
  waiting : List Packet := []
  deriving DecidableEq, Repr

/-- A NaN event waiting for the Gallery's arbiter: cycle, core, UNIT and the trap record (R168, Table 5-7). -/
structure NanEvent where
  cycle : Nat
  core : Nat
  unit : Nat
  /-- The event came from an instruction of a core, which stops when the trap fires for it (R169). -/
  seisk : Bool
  w0 : Word
  w1 : Word
  w2 : Word
  w3 : Word
  pc : Word
  cls : Nat
  deriving DecidableEq, Repr

/-- Where a teardown or reset of a Gallery stands (Tables 13-7, 13-8). -/
inductive TearPhase where
  | none
  /-- Steps 1 and 3 are done; started descriptors may run on (step 2). -/
  | draining
  /-- The teardown is done; the clusters are being cleared. -/
  | clearing
  /-- A Gallery reset waits for CUR_GENREF and the ZERO of its groups. -/
  | zeroing
  deriving DecidableEq, Repr

/-- Reset scopes (Table 13-6). -/
inductive Scope where
  | compute | gallery
  deriving DecidableEq, Repr

/-- A memory window of a Gallery (R362). -/
structure Window where
  base : Nat := 0
  frames : Nat := 0
  read : Bool := false
  write : Bool := false
  deriving DecidableEq, Repr

/-- A storage target slot (R370): open, or being opened for a TARGET_SET. -/
structure Target where
  set : Bool := false
  opening : Option (Ep × BitVec 32) := none
  addr : BitVec 128 := 0
  port : BitVec 16 := 0
  nsid : BitVec 32 := 0
  subnqn : List Byte := []
  hostnqn : List Byte := []
  cntlid : Nat := 0
  lbas : Nat := 0
  lbaSize : Nat := 512
  deriving DecidableEq, Repr

/-- What the device holds of one Gallery beside its registers. -/
structure Gallery where
  stepSeal : Seal := {}
  cq : Vector CQueue 16 := Vector.replicate 16 {}
  /-- The pass in W+, and the copy into a spare in W− (R329, R399). -/
  mtx : MirrorTx := {}
  mcp : MirrorTx := {}
  mrx : MirrorRx := {}
  /-- NaN trap (R168): ARMED unless a record is held in GLY[g]_NANREC. -/
  fired : Bool := false
  nanQ : List NanEvent := []
  tear : TearPhase := .none
  /-- The reset running, with its cause and the SEQ of its cause (R392, R395, Table 13-4). -/
  reset : Option (Scope × Nat × Nat) := none
  /-- SHT commands that complete when the reset ends (R392): endpoint and tag. -/
  resetCmds : List (Ep × BitVec 32) := []
  /-- LOSS notices taken within the last 1 ms: coordinate and moment (R322). -/
  lossSeen : List (BitVec 16 × Nat) := []
  windows : Vector Window 16 := Vector.replicate 16 {}
  targets : Vector Target 4 := Vector.replicate 4 {}
  deriving DecidableEq, Repr

/-- One direction pair of a link port (R271 to R291). -/
structure Port where
  /-- Transmitter: next SEQ, frames not acknowledged (oldest first), frames to replay, recovery XOR. -/
  txSeq : Nat := 0
  retry : List Frame := []
  replay : List Frame := []
  group : List (BitVec 256) := []
  groupCount : Nat := 0
  /-- Slots still to send of the packet being sent, and whether it is a routed packet. -/
  txSlots : List (BitVec 256) := []
  txRouted : Bool := false
  /-- Routed packets sent and not acknowledged: the SEQ of the frame that carries each one's last slot. -/
  sentPkts : List Nat := []
  /-- Lanes in service (R277). -/
  lanes : BitVec 16 := 0xFFFF
  /-- Granted packets in the output queue: virtual channel and packet (R293). -/
  outq : List (Nat × Packet) := []
  mgmtq : List Packet := []
  /-- Slots that must pass before link management takes another while other traffic waits (R291). -/
  mgmtDebt : Nat := 0
  deficit : Vector Nat 9 := Vector.replicate 9 0
  turn : Nat := 0
  /-- U(v): slots in use on each channel of the partner (R289). -/
  used : Vector Nat 13 := Vector.replicate 13 0
  /-- Receiver: next SEQ expected, NAK owed, held frames of a recovery group, slots gathered. -/
  rxSeq : Nat := 0
  nak : Bool := false
  ackOwed : Nat := 4095
  failedSeq : Option Nat := none
  rxGroup : List Frame := []
  rxSlots : List (BitVec 256) := []
  /-- Packets that arrived whole and wait to be taken (PACKET_RECEIVE, IDENT_RECEIVE ...). -/
  arrived : List Packet := []
  inbuf : List (Nat × Packet) := []
  /-- Packets of `arrived` and `inbuf` that were there as the link started anew: they return no credit. -/
  old : List Packet := []
  freed : Vector Nat 13 := Vector.replicate 13 0
  nakTimes : List Nat := []
  retrainTimes : List Nat := []
  /-- The state a retrain returns to. -/
  before : Nat := 0
  /-- A commit during the retrain asks for a new exchange of identity (R297). -/
  reident : Bool := false
  nonceTx : BitVec 128 := 0
  nonceRx : Option (BitVec 128) := none
  ident : List (Nat × List Byte) := []
  peerGtags : List (BitVec 16) := []
  /-- An ENABLE that waits for step 4 of bring-up (R347). -/
  enableWait : Bool := false
  /-- DISABLE or RETIRE: PEER_STATE sent and not acknowledged yet (R282). -/
  stopping : Bool := false
  /-- Timebase: last announcement, REQ sent and not answered (SEQ, t1), last SEQ, and the last θ and δ measured,
  in thousandths of 2^-16 ns (R336 to R338). -/
  announce : Option Word := none
  tbReq : Option (BitVec 16 × Nat) := none
  tbSeq : BitVec 16 := 0
  tbMeas : Option (Int × Int) := none
  deriving DecidableEq, Repr

/-- A Catalogue (R297, Table 9-11). -/
structure Catalogue where
  hdr0 : Word := 0
  hdr1 : Word := 0xFFFF0000
  gal : Vector Word 8 := Vector.replicate 8 0
  nbr : Vector Word 12 := Vector.replicate 12 0
  deriving DecidableEq, Repr

/-- A walk that has not answered: its number, request, Gallery, address, write (R253). -/
structure Walk where
  id : Nat
  req : WalkReq
  gal : Gal
  addr : BitVec 48
  write : Bool
  started : Bool
  deriving DecidableEq, Repr

/-- An access waiting on a migration (R256): its request and the moment of its first MIGRATING reply. -/
structure Stall where
  id : Nat
  req : WalkReq
  gal : Gal
  addr : BitVec 48
  write : Bool
  since : Nat
  /-- The access is an instruction fetch; the collective queue of a slice's access. -/
  fetch : Bool := false
  q : Nat := 0
  deriving DecidableEq, Repr

/-- A ZERO range running in a group (R259). -/
structure ZeroRun where
  first : Nat
  count : Nat
  deriving DecidableEq, Repr

/-- The Frame Map walker (ch. 8). -/
structure Walker where
  /-- Entries that differ from what an unlisted frame of their group reads as. -/
  entries : Tbl Word := []
  /-- Groups whose unlisted frames are ZEROED. -/
  zeroed : BitVec 16 := 0
  anchors : Tbl (BitVec 32) := []
  walks : List Walk := []
  stalls : List Stall := []
  nextId : Nat := 0
  zeros : Tbl ZeroRun := []
  /-- Structure lines whose copy A, or whose copy B, holds an uncorrectable error (R252). -/
  badA : List Nat := []
  badB : List Nat := []
  /-- The device cycle at which the running command is complete: FMP_STATUS.BUSY reads 1 until then (R257). -/
  cmdEnd : Nat := 0
  /-- The first frames of save images that the device has written and that no ZERO has cleared since (R259). -/
  images : List Nat := []
  /-- Popped MIGRATE_TIMEOUT entries whose service waits for the migration to end (Table 8-4). -/
  timeouts : List FEntry := []
  deriving DecidableEq, Repr

/-- What a Cellar channel holds beside its registers (R241 to R246). -/
structure Channel where
  /-- The temperature that the channel's package reported at its last refresh (R240). -/
  temp : Option (BitVec 16) := none
  winUe : Nat := 0
  winRows : Nat := 0
  /-- Rows whose copy to a spare is in progress: bank, row, spare (R245). -/
  copying : List (Nat × Nat × Nat) := []
  deriving DecidableEq, Repr

/-- A Cellar controller group (ch. 8). -/
structure Group where
  ch : Vector Channel 16 := Vector.replicate 16 {}
  /-- The next line of data space, and of system space, that the patrol reads (R242). -/
  patrol : Nat := 0
  sysPatrol : Nat := 0
  /-- The ZERO of step 7 of bring-up has ended (R249, R347). -/
  zeroDone : Bool := false
  winStart : Nat := 0
  /-- A line whose CE waits for its re-read (R243), by device physical address. -/
  reread : List Nat := []
  /-- Leaving self-refresh, and the commands that wait for the exit: kind, number, value (R249). -/
  exiting : Bool := false
  waiting : List (Nat × Nat × Word) := []
  deriving DecidableEq, Repr

/-- An SHT message held out of order, or not acknowledged (R358): SEQ, kind, body, tries. -/
structure ShtMsg where
  seq : BitVec 32
  kind : Nat
  body : List Byte
  tries : Nat
  deriving DecidableEq, Repr

/-- A command accepted and not completed (R359 to R361): its record, the SEQ and the arrival of its message. -/
structure ShtCmdRec where
  tag : BitVec 32
  op : Nat
  args : List Word
  since : Nat
  seq : BitVec 32 := 0
  started : Bool := false
  pendingSent : Bool := false
  /-- Accepted under a session that has ended: it runs on, and its records go nowhere (R357). -/
  live : Bool := true
  deriving DecidableEq, Repr

/-- A window access that waits on a migrating frame (R363). -/
structure WinWait where
  seq : BitVec 32
  write : Bool
  body : List Byte
  live : Bool := true
  deriving DecidableEq, Repr

/-- An SHT endpoint (R353 to R361, R366). -/
structure Endpoint where
  session : Option (BitVec 64) := none
  key : List Byte := []
  peer : BitVec 128 := 0
  port : BitVec 16 := 0
  maxlen : Nat := 0
  txSeq : BitVec 32 := 0
  rxSeq : BitVec 32 := 0
  /-- Messages received out of order. -/
  hold : List ShtMsg := []
  /-- Messages received in order that wait behind a window access. -/
  todo : List ShtMsg := []
  winWait : List WinWait := []
  unacked : List ShtMsg := []
  cmds : List ShtCmdRec := []
  /-- The CPL messages sent for the commands of each CMD message, to resend when it comes again (R358). -/
  answered : List (BitVec 32 × ShtMsg) := []
  /-- A Gallery reset ends this session once RESET_DONE, of this SEQ, is acknowledged (R354, R366). -/
  ending : Option (BitVec 32) := none
  deriving DecidableEq, Repr

/-- A storage stream (R371 to R373). `late` holds read data whose turn in the digest has not come, `wait` read
data whose destination is migrating, both by offset. -/
structure Stream where
  active : Bool := false
  gal : Nat := 0
  /-- A checkpoint (KIND 0, its reset value), not a shard load. -/
  write : Bool := true
  ep : Ep := .mgmt
  tag : BitVec 32 := 0
  slot : Fin 4 := 0
  lba : Nat := 0
  step : BitVec 32 := 0
  extents : List (Nat × Nat) := []
  total : Nat := 0
  /-- Bytes whose NVMe command has been sent; bytes completed. -/
  issued : Nat := 0
  done : Nat := 0
  hash : List Word := []
  hashed : Nat := 0
  late : List (Nat × List Byte) := []
  wait : List (Nat × List Byte) := []
  expect : List Byte := []
  /-- 0 data, 1 first Flush, 2 trailer, 3 second Flush. -/
  phase : Nat := 0
  startAt : Nat := 0
  flushAt : Nat := 0
  deriving DecidableEq, Repr

/-- What an NVMe command outstanding on a connection is for. -/
inductive NvmeUse where
  | connect | propGet | propSet | identCtrl | identNs
  | data (i : Fin 16) (off : Nat) | flush (i : Fin 16) | trailer (i : Fin 16)
  /-- Of a stream that has ended: its data is discarded (R373). -/
  | dropped
  deriving DecidableEq, Repr

/-- An NVMe command outstanding on a connection (R367): its data to send, or what has been received of `need` bytes. -/
structure NvmeCmd where
  cid : Nat
  use : NvmeUse
  lba : Nat := 0
  data : List Byte := []
  need : Nat := 0
  deriving DecidableEq, Repr

/-- A TCP connection to a target (R368, R370): queue 0 is the admin queue. -/
structure Conn where
  id : Nat
  gal : Nat
  slot : Fin 4
  qid : Nat
  lport : BitVec 16
  /-- ICResp has come; the queue is connected. -/
  up : Bool := false
  ready : Bool := false
  maxH2c : Nat := 0
  nextCid : Nat := 0
  cmds : List NvmeCmd := []
  /-- TCP: segments that wait for the congestion window, segments sent since the target last answered, the window and its
  threshold in bytes (RFC 5681), the smoothed round trip, its variation and the timeout in ns (RFC 6298), the moment of the
  oldest segment sent, and whether it has been sent again. -/
  sendq : List (List Byte) := []
  unacked : List (List Byte) := []
  cwnd : Nat := 18276
  ssthresh : Nat := 2 ^ 30
  rtt : Option (Nat × Nat) := none
  rto : Nat := 1000000000
  sentAt : Nat := 0
  again : Bool := false
  /-- The slot is closed: the commands outstanding are allowed to complete (R373). -/
  closing : Bool := false
  deriving DecidableEq, Repr

/-- A launch slot held until its moment, or a held timed write (R345, R346). -/
structure TimedWrite where
  slot : Nat
  at_ : Nat
  addr : Word
  data : Word
  deriving DecidableEq, Repr

/-- The Timebase beside its registers (ch. 11). The counter is in units of 2^-32 ns. -/
structure Timebase where
  count : Nat := 0
  /-- Periods for which the device has been its own root in ELECT; the moment HOLDOVER began (Table 11-2). -/
  rootPeriods : Nat := 0
  holdSince : Nat := 0
  /-- θ of the consecutive periods in ACQUIRE, at most four; the roots declined (R340). -/
  thetas : List Int := []
  declined : List Nat := []
  /-- TAI minus Timebase at the last eight PTP exchanges (R344). -/
  ptp : List Int := []
  /-- The PTP exchange under way: a two-step Sync's number and receipt; a Delay_Req's number, t1, t2 and t3 (R343). -/
  ptpSync : Option (BitVec 16 × Nat) := none
  ptpReq : Option (BitVec 16 × Nat × Nat × Nat) := none
  held : List TimedWrite := []
  deriving DecidableEq, Repr

/-- An advisory as its component reached ADVISE: the moment, and detail words 0 to 3 of its record (R403, R405). -/
structure Advice where
  comp : Nat
  time : Nat
  d0 : Word
  d1 : Word
  d2 : Word
  d3 : Word
  deriving DecidableEq, Repr

/-- Appraisal of one component (R402 to R405). -/
structure Score where
  score : Nat := 0
  advn : Nat := 0
  advised : Bool := false
  warned : Bool := false
  peer : Nat := 0
  peerAt : Option Nat := none
  /-- Corrected codewords of a port not scored yet (Table 13-12). -/
  frac : Nat := 0
  deriving DecidableEq, Repr

/-- A replay under R389: the fault's Gallery, entry and line, its unit (a core's engine, or a cluster's Reserve),
the suspects, the runs made and the cores stopped for it. -/
structure Replay where
  active : Bool := false
  gallery : Gal := 0
  seq : Nat := 0
  reserve : Bool := false
  unit : Nat := 0
  line : Nat := 0
  suspects : List LogEnt := []
  runs : Nat := 0
  stopped : List CoreId := []
  deriving DecidableEq, Repr

/-- A quote being formed or waiting: endpoint, tag, and bytes 0 to 639 (R425, R426). -/
structure QuoteJob where
  ep : Ep
  tag : BitVec 32
  body : List Byte
  deriving DecidableEq, Repr

/-- A firmware update in progress: its slot and size, the header held and whether the erase is over (R428). -/
structure Update where
  slot : Fin 2
  size : Nat
  header : Tbl Byte := []
  erased : Bool := false
  deriving DecidableEq, Repr

/-- Provenance (ch. 14). -/
structure Prov where
  meas : Vector (List Byte) 8 := Vector.replicate 8 (List.replicate 64 0)
  log : List (List Byte) := []
  /-- Mailbox: the bytes written, by offset; COMPLETE and OVERFLOW of its status (R456). -/
  mbox : Tbl (Option Byte) := []
  mboxComplete : Bool := false
  mboxOverflow : Bool := false
  /-- The manifest body of an accepted bundle. -/
  manifest : List Byte := []
  /-- Keys derived at this boot: the Ed25519 and ML-DSA-65 seeds (R416). -/
  seeds : Option (List Byte × List Byte) := none
  /-- When the built-in self-test ended and links could be enabled (Table 11-3, steps 3 and 4). -/
  selfTest : Option Nat := none
  /-- Power-ons so far: each gives the PUF SRAM its pattern. -/
  pufCount : Nat := 0
  manifestSince : Nat := 0
  /-- The netboot image delivered: its size, once begun, and its bytes (R420). -/
  netSize : Option Nat := none
  netImage : Tbl Byte := []
  /-- Flash slots A and B, by offset; an erased byte is 0xFF (R419, R428). -/
  flash : Vector (Tbl Byte) 2 := Vector.replicate 2 []
  update : Option Update := none
  quotes : List QuoteJob := []
  deriving DecidableEq, Repr

/-- Pins and power beside the registers (ch. 15, 16). -/
structure Pins where
  pwrgood : Bool := true
  resetN : Bool := true
  /-- Straps as last sampled at a release of RESET_N (R466). -/
  strap : BitVec 4 := 0
  refclk : Bool := true
  /-- No bring-up since power-on yet. -/
  powerOn : Bool := true
  /-- THERMTRIP_N is latched; held by the thermal trip until power-on (R442). -/
  tripped : Bool := false
  /-- The instruction of the test access port; none in Test-Logic-Reset. -/
  jtag : Option JtagInstr := none
  /-- SMBus: the register selected, its own copy of CRP_RDSEL, PECERR (R455, R457). -/
  smbSel : BitVec 32 := 0
  smbRdsel : BitVec 32 := 0
  pecErr : Bool := false
  /-- Samples for which each sensor has repeated its reading while others changed (R440). -/
  sameRuns : Vector Nat 40 := Vector.replicate 40 0
  /-- The ceiling of the loop of R443, and the moments of the last raise and lowering of TARGET. -/
  loopCeil : Nat := 8
  avsRaised : Option Nat := none
  avsLowered : Option Nat := none
  slewRefused : BitVec 128 := 0
  slewLast : Nat := 127
  deriving DecidableEq, Repr

/-- What leaves the device on a pin, link, the Ethernet port or the SMBus, oldest last. -/
inductive Out where
  | frame (p : PortId) (f : Frame)
  | udp (dst : BitVec 128) (port : BitVec 16) (body : List Byte)
  | eth (kind : Nat) (data : List Byte)
  | tcp (conn : Nat) (data : List Byte)
  | smbus (data : List Byte) (ack : Bool)
  | jtag (idcode : BitVec 32)
  deriving DecidableEq, Repr

/-- The Ethernet port beside its registers: the moment, in ns, until which a PFC frame stops it, and the frames that wait,
oldest first (R351, R352). -/
structure EthPort where
  until_ : Nat := 0
  waiting : List Out := []
  deriving DecidableEq, Repr

/-- An on-die request that waits for its reply (R265, R267): its moment and its Gallery's generation (CUR_GENREF), whether
it has surely reached its target, and whether its transfer, or its reply's, was lost to a header error. -/
structure TrlEnt where
  req : TrellisReq
  since : Nat
  gen : Word
  arrived : Bool := false
  lost : Bool := false
  deriving DecidableEq, Repr

/-- The Trellis: the requests that wait, oldest first, and the last answer that each requester had: the request's number,
and whether the answer was the timeout reply (R267). -/
structure Trellis where
  sent : List TrlEnt := []
  answered : List (Agent × Nat × Bool) := []
  deriving DecidableEq, Repr

/-- The encoding of a home member's chunk (R316): counted, and its NaN event raised, at the Codec of the port on which
the packet leaves. -/
structure CodecNote where
  gal : Gal
  core : CoreId
  pc : Word
  chunk : Nat
  flush : Nat
  nanBlk : Nat
  events : List (Nat × Nat)
  deriving DecidableEq, Repr

/-- The device. -/
structure State where
  pending : List Instr
  cores : Vector Core 128
  mgmt : Vector Mgmt 4
  mem : Memory
  dev : Tbl Word
  clk : Nat
  free : Nat
  regOut : Word
  frq : Vector Frq 9
  cr : Report
  gal : Vector Gallery 8
  ports : Vector Port 12
  /-- Packets delivered to the device's units, with the port they came by, that the unit has not taken yet. -/
  inbox : List (PortId × Packet)
  /-- Routed packets of the device's own units, waiting for a grant (R293, R300), with the encoding a Codec owes. -/
  injectq : List (Packet × Option CodecNote)
  catActive : Catalogue
  catShadow : Catalogue
  trellis : Trellis
  eth : EthPort
  walker : Walker
  slices : Vector (List SliceStall) 4
  group : Vector Group 16
  tb : Timebase
  eps : Vector Endpoint 9
  streams : Vector Stream 16
  conns : List Conn
  scores : Tbl Score
  deferred : List Advice
  advTimes : List (Nat × Nat)
  lastHalve : Nat
  replay : Replay
  engLog : Vector (List LogEnt) 128
  resLog : Vector (List LogEnt) 16
  cruLog : Vector (List LogEnt) 16
  prov : Prov
  pins : Pins
  /-- Chip reset held since (R396), or none; bring-up steps of Table 11-3 done by firmware. -/
  chipHold : Option Nat
  /-- Retirement records to apply again after a chip reset (R248): argument 1 and argument 2. -/
  retire : List (Word × Word)
  out : List Out
  deriving DecidableEq, Repr

/-- The device right after power-on reset. -/
def State.reset : State where
  pending := []
  cores := Vector.replicate 128 {}
  mgmt := Vector.replicate 4 {}
  mem := {}
  dev := []
  clk := 0
  free := 0
  regOut := 0
  frq := Vector.replicate 9 {}
  cr := {}
  gal := Vector.replicate 8 {}
  ports := Vector.replicate 12 {}
  inbox := []
  injectq := []
  catActive := {}
  catShadow := {}
  trellis := {}
  eth := {}
  walker := {}
  slices := Vector.replicate 4 []
  group := Vector.replicate 16 {}
  tb := {}
  eps := Vector.replicate 9 {}
  streams := Vector.replicate 16 {}
  conns := []
  scores := []
  deferred := []
  advTimes := []
  lastHalve := 0
  replay := {}
  engLog := Vector.replicate 128 []
  resLog := Vector.replicate 16 []
  cruLog := Vector.replicate 16 []
  prov := {}
  pins := {}
  chipHold := none
  retire := []
  out := []

end Sys2Proof.Machine
end

