-- ==== Sys2Proof/Machine/Ops.lean ====
section
/-! DEFINITION. The named operations over tables, memory, device registers and cores that every meaning uses. -/

namespace Sys2Proof.Machine

/-! ### Tables -/

/-- The value of number `i` in a table whose unlisted numbers have value `d`. -/
def look {α : Type} (d : α) : Tbl α → Nat → α
  | [], _ => d
  | (k, v) :: r, i => if k = i then v else look d r i

/-- The table with number `i` set to `v`; a value equal to `d` is not listed. -/
def put {α : Type} [DecidableEq α] (d : α) (i : Nat) (v : α) : Tbl α → Tbl α
  | [] => if v = d then [] else [(i, v)]
  | (k, w) :: r =>
    if k < i then (k, w) :: put d i v r
    else if k = i then (if v = d then r else (i, v) :: r)
    else (if v = d then (k, w) :: r else (i, v) :: (k, w) :: r)

/-! ### Memory (R38, R43, R239) -/

/-- The byte at an address; an unlisted byte is zero. -/
def Memory.byte (m : Memory) (a : Nat) : Byte := look 0 m.cells a

/-- The `n` bytes from an address, lowest address first. -/
def Memory.bytes (m : Memory) (a : Nat) : Nat → List Byte
  | 0 => []
  | n + 1 => m.byte a :: m.bytes (a + 1) n

/-- The cells of a run of bytes that starts at `a`, zero bytes left out. -/
def liveCells (a : Nat) : List Byte → List Host.Cell
  | [] => []
  | b :: bs => if b = 0 then liveCells (a + 1) bs else (a, b) :: liveCells (a + 1) bs

/-- The bytes from `a` replaced. -/
def Memory.patch (m : Memory) (a : Nat) (bs : List Byte) : Memory :=
  { m with cells := m.cells.filter (fun c => decide (c.1 < a)) ++ liveCells a bs
      ++ m.cells.filter (fun c => decide (a + bs.length ≤ c.1)) }

/-! The interleave of a Cellar group (R235, R236). -/

/-- The surviving channels of a group whose channel `r` is retired. -/
def survivors (r : Nat) : List Nat := (List.range 16).filter (fun c => decide (c ≠ r))

/-- Channel and chunk within the channel of group offset `o`; `r` is the retired channel, if any. -/
def interleave (r : Option Nat) (o : Nat) : Nat × Nat :=
  let x := o / 256
  match r with
  | none => (x % 16 ^^^ (x / 16 % 16) ^^^ (x / 256 % 16) ^^^ (x / 4096 % 16), x / 16)
  | some r => ((survivors r).getD (x % 15) 0, x / 15)

/-- Column, bank and row of a chunk within its channel. -/
def chunkPlace (y : Nat) : Nat × Nat × Nat := (y % 16, y / 16 % 16 ^^^ (y / 256 % 16), y / 256 % 2 ^ 17)

/-- Does the Cellar byte at an address lie in a channel that failed training? -/
def Memory.deadAt (m : Memory) (a : Nat) : Bool :=
  if 2 ^ 41 ≤ a then false
  else
    let g := a / 2 ^ 37
    let r := (m.ways.find? (fun w => decide (w.1 = g))).map Prod.snd
    m.dead.contains (g, (interleave r (a % 2 ^ 37)).1)

/-- A write of bytes that leaves the bytes of failed channels alone. -/
def Memory.writeAlive (m : Memory) (a : Nat) : List Byte → Memory
  | [] => m
  | b :: bs => Memory.writeAlive (if m.deadAt a then m else m.patch a [b]) (a + 1) bs

/-- The memory with the bytes from `a` replaced; poison marks are untouched. A write to a channel that failed
training is discarded (R241). -/
def Memory.write (m : Memory) (a : Nat) (bs : List Byte) : Memory :=
  if m.dead = [] then m.patch a bs else m.writeAlive a bs

/-- Is the 64-byte line with this number marked poisoned, or read as poisoned (R241)? -/
def Memory.isPoisoned (m : Memory) (line : Nat) : Bool := m.poison.contains line || m.deadAt (64 * line)

/-- A strictly rising list with a number added. -/
def insertNat (x : Nat) : List Nat → List Nat
  | [] => [x]
  | y :: ys => if x < y then x :: y :: ys else if x = y then y :: ys else y :: insertNat x ys

/-- Mark or clear the poison of one line. -/
def Memory.setPoison (m : Memory) (line : Nat) (b : Bool) : Memory :=
  if b then { m with poison := insertNat line m.poison }
  else { m with poison := m.poison.filter (fun x => decide (x ≠ line)) }

/-- The lines a run of `n` bytes from `a` touches. -/
def linesOf (a n : Nat) : List Nat :=
  if n = 0 then [] else (List.range ((a + n - 1) / 64 + 1 - a / 64)).map (fun i => a / 64 + i)

/-- Does any line of the run hold poison? -/
def Memory.anyPoison (m : Memory) (a n : Nat) : Bool := (linesOf a n).any m.isPoisoned

/-- The poison of one line after a write of `n` bytes from `a` (R239): a write of poisoned data marks
it, a write of the whole line clears it, a write of part leaves it. -/
def Memory.linePoison (m : Memory) (a n : Nat) (psn : Bool) (line : Nat) : Memory :=
  if psn then m.setPoison line true
  else if a ≤ 64 * line ∧ 64 * line + 64 ≤ a + n then m.setPoison line false
  else m

/-- A store: the bytes replaced and the poison of every line touched brought up to date (R239). -/
def Memory.store (m : Memory) (a : Nat) (bs : List Byte) (psn : Bool) : Memory :=
  (linesOf a bs.length).foldl (fun m l => m.linePoison a bs.length psn l) (m.write a bs)

/-- The memory with every byte and mark of the range zero (R259, R391). -/
def Memory.clear (m : Memory) (a n : Nat) : Memory :=
  { m with
    cells := m.cells.filter (fun c => decide (c.1 < a ∨ a + n ≤ c.1))
    poison := m.poison.filter (fun l => decide (l < a / 64 ∨ (a + n) / 64 ≤ l)) }

/-- Are the numbers strictly rising? -/
def rising : List Nat → Bool
  | [] => true
  | [_] => true
  | x :: y :: r => decide (x < y) && rising (y :: r)

/-- The canonical form of a memory: addresses strictly rising, no zero byte listed, poisoned line
numbers strictly rising. -/
def Memory.wf (m : Memory) : Bool :=
  rising (m.cells.map Prod.fst) && m.cells.all (fun c => decide (c.2 ≠ 0)) && rising m.poison

/-- Where the model keeps each memory: Cellar bytes at their device physical address (R234), Casks,
Reserves and the Curator's memory above them. -/
def caskBase (n : Nat) : Nat := 2 ^ 44 + n * 2 ^ 23
def reserveBase (c : Nat) : Nat := 2 ^ 45 + c * 2 ^ 24
def curatorBase : Nat := 2 ^ 46
def caskSize : Nat := 6 * 2 ^ 20
def reserveSize : Nat := 2 ^ 24
/-- The end of Cellar data space (R234): 2 TiB. -/
def cellarEnd : Nat := 2 ^ 41

/-! ### Device registers held in `State.dev` -/

/-- Offsets of the registers (Tables 2-7, 4-6, 6-5, 7-10, 8-7, 9-10, 10-9, 11-4, 12-8 to 12-10, 13-14, 14-10, 15-6, 15-7). -/
def engReg (n o : Nat) : Nat := 0x02000000 + n * 0x1000 + o
def vecReg (n o : Nat) : Nat := 0x03000000 + n * 0x1000 + o
def cruReg (c : Nat) : Nat := 0x03800000 + c * 0x1000
def rkgReg (n o : Nat) : Nat := 0x04000000 + n * 0x1000 + o
def rkgSched : Nat := 0x04800000
def chkReg (n c o : Nat) : Nat := 0x05000000 + n * 0x1000 + c * 0x80 + o
def fmpReg (o : Nat) : Nat := 0x06000000 + o
def celReg (g o : Nat) : Nat := 0x07000000 + g * 0x10000 + o
def trlReg (o : Nat) : Nat := 0x08000000 + o
def lnkReg (p o : Nat) : Nat := 0x09000000 + p * 0x10000 + o
def colSlice (i o : Nat) : Nat := 0x0A000000 + i * 0x10000 + o
def colDev (o : Nat) : Nat := 0x0A080000 + o
def colGal (g o : Nat) : Nat := 0x0A100000 + g * 0x1000 + o
def tmbReg (o : Nat) : Nat := 0x0B000000 + o
def prvReg (o : Nat) : Nat := 0x0D000000 + o
def ethReg (o : Nat) : Nat := 0x0E000000 + o
def glyReg (g o : Nat) : Nat := 0x0F000000 + g * 0x1000 + o
def pwrReg (o : Nat) : Nat := 0x10000000 + o
def clkReg (o : Nat) : Nat := 0x11000000 + o

/-- The Reset column of the registers kept in `State.dev`; zero where a table gives zero. -/
def regReset (off : Nat) : Word :=
  let b := off / 0x1000000
  let o := off % 0x1000
  if b = 0x02 then
    if o = 0x20 then 8 else 0
  else if b = 0x03 then
    if off < 0x03800000 then
      if o = 0x20 then 0x3F666666 else if o = 0x28 then 0x3F7FBE77
      else if o = 0x30 then 0x322BCC77 else if o = 0x40 then 0x3F800000
      else if o = 0x48 then 0x3F800000 else if o = 0x58 then 0x3C23D70A else 0
    else 0
  else if b = 0x07 then
    let o := off % 0x10000
    if o = 0x000 then 0x800
    else if o = 0x010 then mkWord [(32, 0x5A0), (16, 4), (0, 0x20)]
    else if o = 0x018 then mkWord [(8, 1), (0, 0x18)]
    else if 0x100 ≤ o ∧ o < 0x180 then 0x300 else 0
  else if b = 0x09 then
    let o := off % 0x10000
    if o = 0x000 then 0xB
    else if o = 0x010 then mkWord [(40, 4), (32, 1), (16, 0x3E8), (0, 0x40)]
    else if o = 0x040 then 0x1010101010101010
    else if o = 0x048 then 0x10 else 0
  else if b = 0x0A then
    if off = colDev 0 then mkWord [(16, 4), (0, 0x32)]
    else if off < 0x0A100000 then 0
    else if o = 0x018 then 0xC8 else if o = 0x030 then 1 else 0
  else if b = 0x0B then
    if o = 0x008 then mkWord [(16, 0xFF)]
    else if o = 0x020 then 4569114145
    else if o = 0x030 then mkWord [(24, 0xFF), (0, 0xF)] else 0
  else if b = 0x0E then
    if o = 0x008 then mkWord [(30, 64), (24, 24)]
    else if o = 0x040 then mkWord [(32, 8), (16, 100), (0, 24200)] else 0
  else if b = 0x0D then
    if o = 0x000 then mkWord [(48, Config.romRev.toNat)] else 0
  else if b = 0x10 then
    if o = 0x008 then 2 else if o = 0x010 then 0x640 else if o = 0x018 then 3200
    else if o = 0x028 then 1024 else if o = 0x030 then 820 else 0
  else if b = 0x00 then
    if o = 0x480 then mkWord [(56, 4), (48, 24), (32, 16384), (16, 4096)] else 0
  else 0

/-- The stored value of a register. -/
def rget (s : State) (off : Nat) : Word := look (regReset off) s.dev off

/-- The state with a register's stored value replaced. -/
def rset (s : State) (off : Nat) (w : Word) : State := { s with dev := put (regReset off) off w s.dev }

/-- A field of a word replaced. -/
def setBits (w : Word) (hi lo v : Nat) : Word :=
  let m := (2 ^ (hi + 1 - lo) - 1) <<< lo
  (w &&& ~~~(BitVec.ofNat 64 m)) ||| BitVec.ofNat 64 ((v % 2 ^ (hi + 1 - lo)) <<< lo)

/-- A field of a register, and the state with it replaced. -/
def fget (s : State) (off hi lo : Nat) : Nat := bits (rget s off) hi lo
def fset (s : State) (off hi lo v : Nat) : State := rset s off (setBits (rget s off) hi lo v)

/-- A counter field raised by `n`, saturating (R142, R192, R260, R303, R331). -/
def fincr (s : State) (off hi lo n : Nat) : State :=
  fset s off hi lo (min (fget s off hi lo + n) (2 ^ (hi + 1 - lo) - 1))

/-- A sticky bit set. -/
def fbit (s : State) (off i : Nat) : State := fset s off i i 1

/-- Every register of a range at its reset value. -/
def rclear (s : State) (lo hi : Nat) : State :=
  { s with dev := s.dev.filter (fun e => decide (e.1 < lo ∨ hi ≤ e.1)) }

/-! ### Time -/

/-- Timebase, whole nanoseconds (R333). -/
def now (s : State) : Nat := s.tb.count / 2 ^ 32 % 2 ^ 64

/-- One 940 MHz cycle: the counter rises by TMB_RATE (R333). -/
def tick (s : State) : State :=
  { s with clk := s.clk + 1
           tb := { s.tb with count := (s.tb.count + fget s (tmbReg 0x20) 39 0) % 2 ^ 96 } }

/-- Does the whole device run: no reset held, no trip, a reference clock? -/
def deviceRuns (s : State) : Bool :=
  s.chipHold.isNone && !s.pins.tripped && s.pins.refclk && s.pins.pwrgood && s.pins.resetN

/-- Whole cycles pass until the Timebase is at or beyond the moment, where it is not yet. -/
def advanceTo (s : State) (ns : Nat) : State :=
  let rate := max 1 (fget s (tmbReg 0x20) 39 0)
  let gap := ns * 2 ^ 32 - s.tb.count
  let k := (gap + rate - 1) / rate
  { s with clk := s.clk + k, tb := { s.tb with count := (s.tb.count + k * rate) % 2 ^ 96 } }

/-- Whole cycles pass until `ns` nanoseconds are over. -/
def advanceBy (s : State) (ns : Nat) : State := advanceTo s (now s + ns)

/-! ### Free values -/

/-- The next free word, and the counter read (log entry 3). -/
def freeWord (s : State) : Word × State := (Config.freeWord s.free, { s with free := s.free + 1 })
def freeBit (s : State) : Bool × State := (Config.freeBit s.free, { s with free := s.free + 1 })

/-! ### Parts of the state -/

/-- A core of the device, and the device with it replaced or changed. -/
def coreAt (s : State) (n : CoreId) : Core := s.cores[n]
def setCore (s : State) (n : CoreId) (c : Core) : State := { s with cores := s.cores.set n c }
def modCore (s : State) (n : CoreId) (f : Core → Core) : State := setCore s n (f (coreAt s n))
def setMgmt (s : State) (k : Fin 4) (m : Mgmt) : State := { s with mgmt := s.mgmt.set k m }

def setGal (s : State) (g : Gal) (x : Gallery) : State := { s with gal := s.gal.set g x }
def modGal (s : State) (g : Gal) (f : Gallery → Gallery) : State := setGal s g (f s.gal[g])
def modSeal (s : State) (g : Gal) (f : Seal → Seal) : State :=
  modGal s g (fun x => { x with stepSeal := f x.stepSeal })
def setPort (s : State) (p : PortId) (x : Port) : State := { s with ports := s.ports.set p x }
def modPort (s : State) (p : PortId) (f : Port → Port) : State := setPort s p (f s.ports[p])
def emit (s : State) (o : Out) : State := { s with out := s.out ++ [o] }

/-- Endpoint number: 0 to 7 the Galleries' host endpoints, 8 the management endpoint (R353). -/
def Ep.idx : Ep → Fin 9
  | .mgmt => 8
  | .host g => g.castLE (by decide)

def endpoint (s : State) (e : Ep) : Endpoint := s.eps[Ep.idx e]
def setEp (s : State) (e : Ep) (x : Endpoint) : State := { s with eps := s.eps.set (Ep.idx e) x }

def allGals : List Gal := [0, 1, 2, 3, 4, 5, 6, 7]
def allPorts : List PortId := [0, 1, 2, 3, 4, 5, 6, 7, 8, 9, 10, 11]
def allCores : List CoreId := (List.range 128).map (fun i => BitVec.toFin (BitVec.ofNat 7 i))

/-- The cluster of a core (R22). -/
def clusterOf (n : CoreId) : Nat := n.val / 8

/-! ### Galleries (R25 to R29, Table 12-9) -/

/-- Does Gallery `g` hold cluster `c` in its composition? -/
def ownsCluster (s : State) (g : Gal) (c : Nat) : Bool := (fget s (glyReg g 0x10) 15 0).testBit c
def ownsGroup (s : State) (g : Gal) (c : Nat) : Bool := (fget s (glyReg g 0x18) 15 0).testBit c

/-- The Gallery of a cluster, a core, a Cellar group. -/
def clusterOwner (s : State) (c : Nat) : Option Gal := allGals.find? (fun g => ownsCluster s g c)
def coreOwner (s : State) (n : CoreId) : Option Gal := clusterOwner s (clusterOf n)
def groupOwner (s : State) (c : Nat) : Option Gal := allGals.find? (fun g => ownsGroup s g c)

/-- The cores of a Gallery. -/
def galCores (s : State) (g : Gal) : List CoreId := allCores.filter (fun n => ownsCluster s g (clusterOf n))

def isOpen (s : State) (g : Gal) : Bool := bit (rget s (glyReg g 0)) 0
def isLocked (s : State) (g : Gal) : Bool := bit (rget s (glyReg g 0)) 1

/-- The Gallery's context generation (GLY_GEN). -/
def gen (s : State) (g : Gal) : Word := rget s (glyReg g 0x60)
def genLow (s : State) (g : Gal) : Nat := (gen s g).toNat % 256

/-- PRV_STATUS.BOOT: 0 RESET, 1 WAITMAN, 2 LOADING, 3 WAITNET, 4 RUNNING, 5 FAILED (Table 14-10). -/
def bootState (s : State) : Nat := fget s (prvReg 0) 2 0

/-- Running firmware Vintage and device coordinate (COORD of the active Catalogue). -/
def vintage (s : State) : Nat := fget s (prvReg 0x08) 15 0
def catValid (s : State) : Bool := bit (rget s (trlReg 0)) 0
def coord (s : State) : Nat := bits s.catActive.hdr0 63 48

/-- The four axes of a COORD, SHAPE, ORIGIN or EXTENT layout: x, y, z, w from the low nibble (Table 5-7). -/
def nib (v a : Nat) : Nat := v / 16 ^ a % 16

/-! ### Scalar registers and pc of a core or a management core -/

/-- A scalar register; s0 reads as zero (R35). -/
def getS (h : Hart) (r : SReg) (s : State) : Word :=
  if r = 0 then 0 else
    match h with
    | .core n => (coreAt s n).s[r]
    | .mgmt k => s.mgmt[k].s[r]

/-- A scalar register written; a write to s0 is discarded (R35). -/
def setS (h : Hart) (r : SReg) (v : Word) (s : State) : State :=
  if r = 0 then s else
    match h with
    | .core n => modCore s n (fun c => { c with s := c.s.set r v })
    | .mgmt k => setMgmt s k { s.mgmt[k] with s := s.mgmt[k].s.set r v }

def getPc (h : Hart) (s : State) : Word :=
  match h with
  | .core n => (coreAt s n).pc
  | .mgmt k => s.mgmt[k].pc

def setPc (h : Hart) (v : Word) (s : State) : State :=
  match h with
  | .core n => modCore s n (fun c => { c with pc := v })
  | .mgmt k => setMgmt s k { s.mgmt[k] with pc := v }

/-- A predicate register; p0 reads as all ones (R35). -/
def getP (n : CoreId) (r : PReg) (s : State) : BitVec 1024 := if r = 0 then -1 else (coreAt s n).p[r]

/-- A predicate register written; a write to p0 is discarded (R35). -/
def setP (n : CoreId) (r : PReg) (v : BitVec 1024) (s : State) : State :=
  if r = 0 then s else modCore s n (fun c => { c with p := c.p.set r v })

/-- A vector register with its poison bits. -/
def setV (n : CoreId) (r : VNum) (v : VReg) (psn : BitVec 32) (s : State) : State :=
  modCore s n (fun c => { c with v := c.v.set r v, vpsn := c.vpsn.set r psn })

def setT (n : CoreId) (r : TReg) (v : BitVec 256) (s : State) : State :=
  modCore s n (fun c => { c with t := c.t.set r v })
def setQ (n : CoreId) (r : QReg) (v : Word) (s : State) : State :=
  modCore s n (fun c => { c with q := c.q.set r v })

end Sys2Proof.Machine
end

