-- ==== Sys2Proof/Machine/Frames.lean ====
section
/-! DEFINITION. The Frame Map walk and the windows of a core (R43 to R45, R250, R251, R253). -/

namespace Sys2Proof.Machine

/-! ### The Frame Map walk (R250, R251, R253) -/

/-- Fields of a Frame Map entry (Table 8-3). -/
def feValid (e : Word) : Bool := bit e 63
def feMigrating (e : Word) : Bool := bit e 62
def feWrite (e : Word) : Bool := bit e 61
def feRetired (e : Word) : Bool := bit e 60
def feZeroed (e : Word) : Bool := bit e 59
def feGallery (e : Word) : Nat := bits e 58 56
def feVfn (e : Word) : Nat := bits e 55 25
def feNextV (e : Word) : Bool := bit e 24
def feNext (e : Word) : Nat := bits e 23 0

/-- MODE of a Cellar group: 0 16WAY, 1 15WAY, 2 OFFLINE (Table 8-8). -/
def celMode (s : State) (g : Nat) : Nat := fget s (celReg g 0) 31 30

/-- Frames of a group that are backed (R236, R247). -/
def backedFrames (s : State) (g : Nat) : Nat := if celMode s g = 2 then 0 else if celMode s g = 1 then 983040 else 2 ^ 20

/-- What an unlisted frame reads as: RETIRED where it is unbacked, ZEROED after a ZERO of its group, else free. -/
def frameDefault (s : State) (pfn : Nat) : Word :=
  let g := pfn / 2 ^ 20
  if backedFrames s g ≤ pfn % 2 ^ 20 then 1 <<< 60 else if s.walker.zeroed.toNat.testBit g then 1 <<< 59 else 0

/-- Is a frame in a ZERO range that runs (R259)? -/
def zeroing (s : State) (pfn : Nat) : Bool :=
  s.walker.zeros.any (fun z => decide (z.2.first ≤ pfn ∧ pfn < z.2.first + z.2.count))

/-- Is a frame in a group that is being rebuilt (R247)? -/
def rebuilding (s : State) (pfn : Nat) : Bool := bit (rget s (celReg (pfn / 2 ^ 20) 0)) 13

/-- The entry of a physical frame; a frame being zeroed, by ZERO or by a rebuild, is not ZEROED yet. -/
def frameEntry (s : State) (pfn : Nat) : Word :=
  let e := look (frameDefault s pfn) s.walker.entries pfn
  if zeroing s pfn || rebuilding s pfn then e &&& ~~~((1 : Word) <<< 59) else e

/-- The anchor of an index. -/
def anchor (s : State) (h : Nat) : BitVec 32 := look 0 s.walker.anchors h

/-- The anchor index of (Gallery, VFN) (R251). -/
def anchorIndex (g v : Nat) : Nat := (v % 2 ^ 24) ^^^ (v / 2 ^ 24 * 2 ^ 8) ^^^ (g * 2 ^ 21)

/-- Follow a chain from an index; a chain holds at most 16 entries. -/
def walkChain (s : State) (g v : Nat) : Nat → Nat → Option Nat
  | 0, _ => none
  | fuel + 1, i =>
    let e := frameEntry s i
    if feValid e ∧ feGallery e = g ∧ feVfn e = v then some i
    else if feNextV e then walkChain s g v fuel (feNext e) else none

/-- The frame that a walk of (Gallery, VFN) finds. -/
def walkFrame (s : State) (g v : Nat) : Option Nat :=
  let a := anchor s (anchorIndex g v)
  if bit a 31 then walkChain s g v 16 (bits a 23 0) else none

/-! ### Structure lines and their two copies (R252) -/

/-- The 64-byte line of the entry array that holds a frame's entry; the anchor table's lines are numbered after it. -/
def entryLine (pfn : Nat) : Nat := pfn / 8
def anchorLine (h : Nat) : Nat := 2 ^ 21 + h / 16

/-- The entries that a walk of a chain reads, from an index on. -/
def chainReads (s : State) (g v : Nat) : Nat → Nat → List Nat
  | 0, _ => []
  | fuel + 1, i =>
    let e := frameEntry s i
    entryLine i :: (if feValid e ∧ feGallery e = g ∧ feVfn e = v then []
      else if feNextV e then chainReads s g v fuel (feNext e) else [])

/-- Does a walk of (Gallery, VFN) read a structure line? -/
def walkReads (s : State) (g v l : Nat) : Bool :=
  let a := anchor s (anchorIndex g v)
  decide (l = anchorLine (anchorIndex g v)) || (bit a 31 && (chainReads s g v 16 (bits a 23 0)).contains l)

/-- Is a line that is read lost: uncorrectable in both copies? -/
def structLost (s : State) (reads : Nat → Bool) : Bool :=
  s.walker.badA.any (fun l => reads l && s.walker.badB.contains l)

/-- The outcome of a translation (R45, Table 8-4). -/
inductive Xlate where
  | ok (pa : Nat)
  | unmapped
  | migrating
  | readOnly
  | fmapUe
  deriving DecidableEq, Repr

def Xlate.isOk : Xlate → Bool
  | .ok _ => true
  | _ => false

/-- Translate a Gallery virtual address. -/
def translate (s : State) (g : Gal) (va : Nat) (write : Bool) : Xlate :=
  if structLost s (walkReads s g.val (va / 2 ^ 17 % 2 ^ 31)) then .fmapUe
  else match walkFrame s g.val (va / 2 ^ 17 % 2 ^ 31) with
  | none => .unmapped
  | some f =>
    let e := frameEntry s f
    if feMigrating e then .migrating
    else if write && !feWrite e then .readOnly
    else .ok (f * 2 ^ 17 + va % 2 ^ 17)

/-! ### Windows of a core (R43, R44, Tables 2-5, 2-6) -/

/-- The windows of Table 2-5. -/
inductive Win where
  | gallery | cask | reserve | register | none
  deriving DecidableEq, Repr

/-- The window that holds the whole of an access of `n` bytes at an effective address. -/
def winOf (ea n : Nat) : Win :=
  if ea + n ≤ 0x1000000000000 then .gallery
  else if 0x1000000000000 ≤ ea ∧ ea + n ≤ 0x1000000600000 then .cask
  else if 0x2000000000000 ≤ ea ∧ ea + n ≤ 0x2000001000000 then .reserve
  else if 0x3000000000000 ≤ ea ∧ ea + n ≤ 0x3000100000000 then .register
  else .none

/-- Where a Cask or Reserve access of core `n` lies in memory. -/
def localAddr (n : CoreId) (w : Win) (ea : Nat) : Nat :=
  match w with
  | .cask => caskBase n.val + ea % 2 ^ 48
  | _ => reserveBase (clusterOf n) + ea % 2 ^ 48

end Sys2Proof.Machine
end

