-- ==== Sys2Proof/Machine/Tile.lean ====
section
/-! DEFINITION. Tile descriptors: their fields, their element addresses, and the checks at acceptance
(R39 to R41, R195 to R201, R206, R222). -/

namespace Sys2Proof.Machine

/-- A tile descriptor's fields (Table 2-2). -/
structure Tile where
  base : Nat
  n0 : Nat
  n1 : Nat
  n2 : Nat
  n3 : Nat
  s0 : Int
  s1 : Int
  s2 : Int
  s3 : Int
  fmt : Nat
  layout : Nat
  pad : Nat
  mx : Bool
  reserved : Nat
  valid : Bool
  deriving DecidableEq, Repr

/-- The fields of a descriptor. -/
def tileOf (d : BitVec 256) : Tile where
  base := bits d 63 0
  n0 := bits d 79 64
  n1 := bits d 95 80
  n2 := bits d 111 96
  n3 := bits d 127 112
  s0 := signedOf 8 (bits d 135 128)
  s1 := signedOf 28 (bits d 163 136)
  s2 := signedOf 28 (bits d 191 164)
  s3 := signedOf 28 (bits d 219 192)
  fmt := bits d 223 220
  layout := bits d 225 224
  pad := bits d 227 226
  mx := bit d 228
  reserved := bits d 254 229
  valid := bit d 255

def Tile.format (t : Tile) : Fmt := (fmtOf t.fmt).getD .i8
/-- Bits of an element. -/
def Tile.ebits (t : Tile) : Nat := fmtBits t.format
/-- Tile bytes and quad width of Blocked-128 (Table 7-2). -/
def Tile.tbytes (t : Tile) : Nat := 2048 * t.ebits
def Tile.quad (t : Tile) : Nat := 32 / t.ebits
def cdiv (a b : Nat) : Nat := (a + b - 1) / b
def Tile.rowsT (t : Tile) : Nat := cdiv t.n1 128
def Tile.colsT (t : Tile) : Nat := cdiv t.n0 128

/-- The bit address of an element: linear (R195) or Blocked-128 (R200). -/
def Tile.bitAddr (t : Tile) (i0 i1 i2 i3 : Nat) : Int :=
  if t.layout = 0 then
    8 * (t.base : Int) + i0 * t.s0 * t.ebits + 512 * (i1 * t.s1 + i2 * t.s2 + i3 * t.s3)
  else
    let idx := if t.layout = 1 then i1 / 128 * t.colsT + i0 / 128 else i0 / 128 * t.rowsT + i1 / 128
    let off := t.tbytes * idx + 4 * (128 * (i0 % 128 / t.quad) + i1 % 128)
    8 * ((t.base + off : Nat) : Int) + (i0 % 128 % t.quad * t.ebits : Nat) + 512 * (i2 * t.s2 + i3 * t.s3)

/-- Extremes of one dimension's contribution. -/
def spanLo (n : Nat) (s : Int) : Int := min 0 (((n : Int) - 1) * s)
def spanHi (n : Nat) (s : Int) : Int := max 0 (((n : Int) - 1) * s)

/-- The lowest and highest byte address a descriptor can touch (R196, R200, R213). -/
def Tile.range (t : Tile) : Int × Int :=
  if t.format = .sf16 then ((t.base : Int), (t.base : Int) + cdiv t.n0 1024 * 2112 - 1)
  else if t.layout = 0 then
    ((8 * (t.base : Int) + spanLo t.n0 t.s0 * t.ebits
        + 512 * (spanLo t.n1 t.s1 + spanLo t.n2 t.s2 + spanLo t.n3 t.s3)) / 8,
     (8 * (t.base : Int) + spanHi t.n0 t.s0 * t.ebits + t.ebits - 1
        + 512 * (spanHi t.n1 t.s1 + spanHi t.n2 t.s2 + spanHi t.n3 t.s3)) / 8)
  else
    ((t.base : Int) + 64 * (spanLo t.n2 t.s2 + spanLo t.n3 t.s3),
     (t.base : Int) + t.tbytes * t.rowsT * t.colsT - 1 + 64 * (spanHi t.n2 t.s2 + spanHi t.n3 t.s3))

/-- The codes of the checks 0x0 to 0x5 that a descriptor fails (Table 7-8). `one` says that STRIDE0 must be
1; `ok` is the window rule on the lowest and highest byte. -/
def basicChecks (t : Tile) (one : Bool) (ok : Int → Int → Bool) : List Nat :=
  (if !t.valid || decide (t.reserved ≠ 0) then [0] else [])
  ++ (if 12 ≤ t.fmt ∨ 2 ≤ t.pad ∨ t.layout = 3 then [1] else [])
  ++ (if t.n0 = 0 ∨ t.n1 = 0 ∨ t.n2 = 0 ∨ t.n3 = 0 then [2] else [])
  ++ (if ok t.range.1 t.range.2 then [] else [3])
  ++ (if t.base % 64 ≠ 0 ∨ (t.layout ≠ 0 ∧ t.base % t.tbytes ≠ 0) then [4] else [])
  ++ (if (if t.layout = 0 then (one || decide (t.format = .e2m1)) && decide (t.s0 ≠ 1)
        else decide (t.s0 ≠ 1 ∨ t.s1 ≠ 0 ∨ t.s2 % ((t.tbytes / 64 : Nat) : Int) ≠ 0
          ∨ t.s3 % ((t.tbytes / 64 : Nat) : Int) ≠ 0 ∨ t.format = .e8m0 ∨ t.format = .sf16))
      then [5] else [])

/-- The block dimension of an MX pair: 0, 1, or none where neither reading fits the sizes (R206). -/
def blockDim (t sc : Tile) : Option Nat :=
  if sc.n2 = t.n2 ∧ sc.n3 = t.n3 then
    if sc.n0 = cdiv t.n0 32 ∧ sc.n1 = t.n1 then some 0
    else if sc.n0 = t.n0 ∧ sc.n1 = cdiv t.n1 32 then some 1 else none
  else none

/-- The checks a descriptor and its partner fail, as (code, t register) pairs. -/
def operandChecks (reg : Nat) (d sc : BitVec 256) (one : Bool) (ok : Int → Int → Bool) : List (Nat × Nat) :=
  let t := tileOf d
  let u := tileOf sc
  (basicChecks t one ok).map (fun c => (c, reg))
  ++ (if !t.mx then []
      else if reg % 2 = 1 then [(6, reg)]
      else
        (basicChecks u true ok).map (fun c => (c, reg + 1))
        ++ (if t.format.isMx then [] else [(6, reg)])
        ++ (if u.mx || decide (u.fmt ≠ 10 ∨ u.layout ≠ 0) || (blockDim t u).isNone then [(6, reg + 1)] else []))

/-- The lowest code among the failures. -/
def lowestCode : List (Nat × Nat) → Option Nat
  | [] => none
  | (c, _) :: r =>
    match lowestCode r with
    | none => some c
    | some d => some (min c d)

/-- A descriptor register and its scale partner, zero where it has none or the register is odd. -/
def partner (n : CoreId) (r : TReg) (s : State) : BitVec 256 :=
  if (tileOf (coreAt s n).t[r]).mx && decide (r.val % 2 = 0) then (coreAt s n).t[f4 (r.val + 1)] else 0

/-! ### Windows of operands (Table 2-6) -/

/-- Does a byte range lie in the Cask, the Reserve, the Gallery virtual window? -/
def inCask (lo hi : Int) : Bool := decide (0x1000000000000 ≤ lo ∧ hi < 0x1000000600000)
def inReserve (lo hi : Int) : Bool := decide (0x2000000000000 ≤ lo ∧ hi < 0x2000001000000)
def inVirt (lo hi : Int) : Bool := decide (0 ≤ lo ∧ hi < 0x1000000000000)
def inCaskOrReserve (lo hi : Int) : Bool := inCask lo hi || inReserve lo hi
def inVirtOrReserve (lo hi : Int) : Bool := inVirt lo hi || inReserve lo hi

/-! ### Elements in memory -/

/-- The `n` bits of memory from a bit address, under a map from addresses to memory. -/
def readBits (m : Memory) (at_ : Nat → Nat) (ba : Int) (n : Nat) : Nat :=
  let a := (ba / 8).toNat
  if n < 8 then (m.byte (at_ a)).toNat / 2 ^ (ba % 8).toNat % 2 ^ n
  else leNat ((List.range (n / 8)).map (fun i => m.byte (at_ (a + i))))

/-- Is the line that holds a bit address poisoned? -/
def bitPoison (m : Memory) (at_ : Nat → Nat) (ba : Int) : Bool := m.isPoisoned (at_ (ba / 8).toNat / 64)

/-- Where a core's Cask or Reserve address lies in memory. -/
def sramAt (n : CoreId) (ea : Nat) : Nat :=
  if ea < 0x2000000000000 then localAddr n .cask ea else localAddr n .reserve ea

/-! ### Stores against the matrix queue (R55) -/

/-- Does a queued matrix instruction read a Cask range that bytes [a, a + k) overlap? -/
def entryReads (e : MEntry) (a k : Nat) : Bool :=
  [e.ts, e.tsScale, e.tw, e.twScale].any (fun d =>
    let r := (tileOf d).range
    (tileOf d).valid && inCask r.1 r.2 && decide (r.1 < a + k ∧ (a : Int) ≤ r.2))

def queueReads (c : Core) (a k : Nat) : Bool :=
  decide (0x1000000000000 ≤ a ∧ a < 0x2000000000000) && c.mq.any (fun e => entryReads e a k)

end Sys2Proof.Machine
end

