-- ==== Sys2Proof/Machine/Walk.lean ====
section
/-! DEFINITION. What a Racking descriptor moves: its addresses, its entry in the ring, its walk, and the moving of
elements with conversion, padding and poison (R198, R199, R206 to R220, R223). -/

namespace Sys2Proof.Machine

/-! ### Address forms (Table 7-1) -/

/-- The TARGET of a Racking SRAM address, and its offset. -/
def target (a : Nat) : Nat := a / 2 ^ 32 % 2 ^ 16
def offset (a : Nat) : Nat := a % 2 ^ 32

/-- The core whose Cask an address galReaches, the cluster whose Reserve. -/
def caskOf (n : CoreId) (a : Nat) : Nat := if target a = 0 then n.val else target a - 0x8000
def reserveOf (n : CoreId) (a : Nat) : Nat := if target a = 0 then clusterOf n else target a - 0x8000

/-- Is a TARGET listed, and in core `n`'s Gallery? `lim` is the count of cores or clusters, `per` cores each. -/
def targetOk (s : State) (n : CoreId) (t lim per : Nat) : Bool :=
  decide (t = 0) || (decide (0x8000 ≤ t ∧ t < 0x8000 + lim) &&
    decide ((clusterOwner s ((t - 0x8000) / per)).isSome ∧ clusterOwner s ((t - 0x8000) / per) = coreOwner s n))

/-- The window rule of Racking operands (R196, R199). -/
def rackWin (s : State) (n : CoreId) (lo hi : Int) : Bool :=
  if lo < 0 then false
  else
    let a := lo.toNat
    let b := hi.toNat
    inVirt lo hi ||
      (decide (a / 2 ^ 32 = b / 2 ^ 32) &&
        ((decide (a / 2 ^ 48 = 1 ∧ offset b < 0x600000) && targetOk s n (target a) 128 8) ||
         (decide (a / 2 ^ 48 = 2 ∧ offset b < 0x1000000) && targetOk s n (target a) 16 1)))

/-- Where an address of a descriptor run on core `n` lies in memory. -/
def place (s : State) (g : Option Gal) (n : CoreId) (a : Nat) (write : Bool) : Xlate :=
  if a < 2 ^ 48 then
    match g with
    | none => .unmapped
    | some g => translate s g a write
  else if a / 2 ^ 48 = 1 then .ok (caskBase (caskOf n a) + offset a)
  else .ok (reserveBase (reserveOf n a) + offset a)

/-- The address in memory of a byte that `place` has found. -/
def placeAt (s : State) (g : Option Gal) (n : CoreId) (a : Nat) : Nat :=
  match place s g n a false with
  | .ok pa => pa
  | _ => 0

/-! ### Ring entries (Table 7-4) -/

/-- The bytes of an entry with record number `seq`. -/
def entryBytes (d : RDesc) (seq : Nat) : List Byte :=
  leBytes 8 (mkWord [(40, d.tag.toNat), (16, seq % 2 ^ 24), (8, b1 d.add), (7, 1), (0, d.kind)]).toNat
  ++ leBytes 8 (if d.kind = 3 then d.fill else d.list).toNat
  ++ leBytes 8 (mkWord [(48, d.count), (0, bits d.pc 47 0)]).toNat ++ leBytes 8 0
  ++ leBytes 32 d.ta.toNat ++ leBytes 32 d.taScale.toNat ++ leBytes 32 d.tb.toNat
  ++ leBytes 32 d.tbScale.toNat ++ leBytes 96 0

/-- A 256-bit value in memory. -/
def mem256 (m : Memory) (a : Nat) : BitVec 256 := BitVec.ofNat 256 (leNat (m.bytes a 32))
def mem64 (m : Memory) (a : Nat) : Word := BitVec.ofNat 64 (leNat (m.bytes a 8))

/-- An entry as the ring now reads; none where OP is not one of the four. -/
def parseEntry (m : Memory) (a : Nat) : Option RDesc :=
  let h := mem64 m a
  let w := mem64 m (a + 16)
  let kind := bits h 6 0
  if 3 < kind then none
  else some
    { kind := kind, add := bit h 8 && decide (kind = 0 ∨ kind = 2), tag := BitVec.ofNat 24 (bits h 63 40)
      pc := BitVec.ofNat 64 (bits w 47 0), ta := mem256 m (a + 32), taScale := mem256 m (a + 64)
      tb := mem256 m (a + 96), tbScale := mem256 m (a + 128)
      list := if kind = 1 ∨ kind = 2 then mem64 m (a + 8) else 0, count := bits w 63 48
      fill := if kind = 3 then mem64 m (a + 8) else 0 }

/-! ### The walk (R212, R215 to R217, R223) -/

/-- Extents of dimensions 0 and 1, rounded up in Blocked-128. -/
def Tile.ext0 (t : Tile) : Nat := if t.layout = 0 then t.n0 else 128 * cdiv t.n0 128
def Tile.ext1 (t : Tile) : Nat := if t.layout = 0 then t.n1 else 128 * cdiv t.n1 128

/-- Does the entry move SF16 super-blocks (R213, Table 5-5)? -/
def RDesc.raw (d : RDesc) : Bool := decide ((tileOf d.tb).format = .sf16)
def RDesc.fills (d : RDesc) : Bool := decide ((tileOf d.tb).pad = 1)
/-- The tile whose sizes bound the data elements of rcopy and rfill. -/
def RDesc.box (d : RDesc) : Tile := if d.kind = 3 then tileOf d.tb else tileOf d.ta

/-- Elements of a row, and rows of the walk. -/
def RDesc.width (d : RDesc) : Nat :=
  if d.fills then (tileOf d.tb).ext0 else d.box.n0
def RDesc.rows1 (d : RDesc) : Nat := if d.fills then (tileOf d.tb).ext1 else d.box.n1
def RDesc.rows (d : RDesc) : Nat :=
  if d.raw then 1
  else if d.kind = 1 then (if d.fills then (tileOf d.tb).ext1 else d.count)
  else if d.kind = 2 then d.count
  else
    let b := tileOf d.tb
    if d.fills then b.ext1 * b.n2 * b.n3 else d.box.n1 * d.box.n2 * d.box.n3

/-- One element of the walk: its destination, its source where it takes one, whether it is a data element,
and its scale bytes in an MX operand. -/
structure El where
  dst : Int
  src : Option Int
  data : Bool
  dscale : Option Int
  sscale : Option Int
  /-- The last element of a row of an odd count of FP4 elements, whose byte has bits [7:4] as padding (R148). -/
  odd : Bool := false
  /-- Its place in the walk. -/
  row : Nat := 0
  col : Nat := 0

/-- The scale element of an element's indices (R206); none beyond the scale descriptor. -/
def scaleAddr (t u : Tile) (i0 i1 i2 i3 : Nat) : Option Int :=
  if !t.mx then none
  else
    let j0 := if blockDim t u = some 0 then i0 / 32 else i0
    let j1 := if blockDim t u = some 0 then i1 else i1 / 32
    if j0 < u.n0 ∧ j1 < u.n1 then some (u.bitAddr j0 j1 i2 i3) else none

/-- An element of an entry at source indices (p, r…) and destination indices (p, t…). -/
def elOf (d : RDesc) (data : Bool) (p s1 s2 s3 d1 d2 d3 : Nat) : El :=
  let a := tileOf d.ta
  let b := tileOf d.tb
  let bd := blockDim b (tileOf d.tbScale)
  -- The destination block holds a data element when its first element is one.
  let blockData := if bd = some 0 then
      decide (d.kind ≠ 0 ∨ (s1 < a.n1 ∧ s2 < a.n2 ∧ s3 < a.n3)) && decide (p / 32 * 32 < a.n0)
    else decide (p < a.n0 ∧ s1 / 32 * 32 < a.n1 ∧ s2 < a.n2 ∧ s3 < a.n3)
  { dst := b.bitAddr p d1 d2 d3
    src := if data && decide (d.kind ≠ 3) then some (a.bitAddr p s1 s2 s3) else none
    data := data
    dscale := if data || !blockData then scaleAddr b (tileOf d.tbScale) p d1 d2 d3 else none
    sscale := if data then scaleAddr a (tileOf d.taScale) p s1 s2 s3 else none
    odd := decide (b.format = .e2m1 ∧ b.layout = 0 ∧ p % 2 = 0 ∧ p + 1 = b.n0) }

/-- Bit addresses of SF16 element `p` and of its block's scale code (Table 5-5). -/
def sfAddr (t : Tile) (p : Nat) : Int := 8 * ((t.base : Int) + (2112 * (p / 1024) + 2 * (p % 1024) : Nat))
def sfScale (t : Tile) (p : Nat) : Int := 8 * ((t.base : Int) + (2112 * (p / 1024) + 2048 + p % 1024 / 32 : Nat))

/-- Element `p` of an SF16 copy. The first element of a block takes the block's scale code with it, and the reserved
byte 32 beyond; a pad element is zero with them. -/
def sfEl (d : RDesc) (p : Nat) : El :=
  let data := decide (p < (tileOf d.ta).n0)
  { dst := sfAddr (tileOf d.tb) p, src := if data then some (sfAddr (tileOf d.ta) p) else none, data := data
    dscale := if p % 32 = 0 then some (sfScale (tileOf d.tb) p) else none
    sscale := if data ∧ p % 32 = 0 then some (sfScale (tileOf d.ta) p) else none }

/-- Element `p` of walk row `r`; `idx` is the index of a list position. -/
def RDesc.elAt (d : RDesc) (idx r p : Nat) : El :=
  let b := tileOf d.tb
  if d.raw then sfEl d p
  else if d.kind = 1 then
    if r < d.count then elOf d (decide (p < (tileOf d.ta).n0)) p idx 0 0 r 0 0
    else { elOf d false p 0 0 0 r 0 0 with dscale := scaleAddr b (tileOf d.tbScale) p r 0 0 }
  else if d.kind = 2 then elOf d (decide (p < (tileOf d.ta).n0)) p r 0 0 idx 0 0
  else
    let w1 := d.rows1
    let w2 := if d.fills then b.n2 else d.box.n2
    let i1 := r % w1
    let i2 := r / w1 % w2
    let i3 := r / (w1 * w2)
    elOf d (decide (p < d.box.n0 ∧ i1 < d.box.n1 ∧ i2 < d.box.n2 ∧ i3 < d.box.n3)) p i1 i2 i3 i1 i2 i3

def RDesc.el (d : RDesc) (idx r p : Nat) : El := { d.elAt idx r p with row := r, col := p }

/-- The 128 KiB region of a bit address. -/
def region (b : Int) : Int := b / (8 * 131072)

/-- Do two neighbouring elements lie in one piece? -/
def samePiece (x y : El) : Bool :=
  decide (region x.dst = region y.dst) && (match x.src, y.src with
    | some a, some b => decide (region a = region b)
    | _, _ => true)

/-- Elements of the piece that starts at element `p`, at most `k` more after the first. -/
def pieceEls (f : Nat → El) : Nat → Nat → List El
  | 0, p => [f p]
  | k + 1, p => f p :: (if samePiece (f p) (f (p + 1)) then pieceEls f k (p + 1) else [])

/-- The row of the piece, walked to its end. -/
def RDesc.piece (d : RDesc) (idx r p : Nat) : List El := pieceEls (d.el idx r) (d.width - 1 - p) p

/-! ### Moving a piece (R213 to R220) -/

/-- The bits of memory at a bit address of a descriptor. -/
def readAt (s : State) (g : Option Gal) (n : CoreId) (m : Memory) (b : Int) (w : Nat) : Nat :=
  readBits m (fun a => placeAt s g n a) b w
def lineAt (s : State) (g : Option Gal) (n : CoreId) (b : Int) : Nat := placeAt s g n (b / 8).toNat / 64

/-- Bits of memory replaced: half a byte, or whole bytes. -/
def writeBits (m : Memory) (a : Nat) (b : Int) (w v : Nat) : Memory :=
  if w < 8 then
    let old := (m.byte a).toNat
    let sh := (b % 8).toNat
    let clear := old - old / 2 ^ sh % 16 * 2 ^ sh
    m.write a [BitVec.ofNat 8 (clear + v % 16 * 2 ^ sh)]
  else m.write a (leBytes (w / 8) v)

/-- Bits of an element that the walk moves at once. -/
def RDesc.ew (d : RDesc) : Nat := (tileOf d.tb).ebits
def RDesc.sw (d : RDesc) : Nat := (tileOf d.ta).ebits

/-- Is the source element of an entry copied as bits? -/
def RDesc.same (d : RDesc) : Bool :=
  !d.add && (d.raw || decide ((tileOf d.ta).format = (tileOf d.tb).format ∧ (tileOf d.ta).mx = (tileOf d.tb).mx))

/-- The value of a source element with its scale (R160). -/
def srcVal (d : RDesc) (code scale : Nat) : Val :=
  let v := decodeElem (tileOf d.ta).format code
  if (tileOf d.ta).mx then mulVal v (decodeElem .e8m0 scale) else v

/-- The new code of a data element (R213, R214). -/
def newCode (d : RDesc) (code scale old : Nat) : Nat :=
  let f := (tileOf d.tb).format
  if d.kind = 3 then d.fill.toNat
  else if d.same then code
  else
    let v := srcVal d code scale
    let v := if d.add then addVal .rn (decodeElem f old) v else v
    plusZero f (convVal f .rn true (tileOf d.ta).format v).1

/-- What the moving of elements gathers: memory, bits written with their poison, the bytes for the snoop taps, and the
lines written as they stood before. -/
structure Moved where
  mem : Memory
  written : List (Nat × Nat × Bool) := []
  fed : List Byte := []
  out : List Byte := []
  bits : Nat := 0
  snap : Tbl (BitVec 512) := []

/-- A list entry read: its index, or none where it is rejected, and whether it is poisoned (R216). -/
def listEntry (s : State) (n : CoreId) (d : RDesc) (r : Nat) : Option Nat × Bool :=
  let a := sramAt n (d.list.toNat + 4 * r)
  let v := signedOf 32 (leNat (s.mem.bytes a 4))
  let lim := if d.kind = 1 then (tileOf d.ta).n1 else (tileOf d.tb).n1
  let p := s.mem.isPoisoned (a / 64)
  (if p || decide (v < 0 ∨ (lim : Int) ≤ v) then none else some v.toNat, p)

/-- The line of a bit address: by its virtual address, or by where it lies in SRAM. -/
def lineKey (s : State) (g : Option Gal) (n : CoreId) (b : Int) : Int :=
  if b / 8 < 2 ^ 48 then b / 512 else 2 ^ 48 + (lineAt s g n b : Int)

/-- Do the operands of a descriptor overlap in any line (R219)? -/
def overlaps (s : State) (g : Option Gal) (n : CoreId) (d : RDesc) : Bool :=
  let key := lineKey s g n
  let meets (x y : BitVec 256) : Bool :=
    let r := (tileOf x).range
    let q := (tileOf y).range
    decide (key (8 * r.1) ≤ key (8 * q.2) ∧ key (8 * q.1) ≤ key (8 * r.2))
  decide (d.kind ≠ 3) && (meets d.ta d.tb || ((tileOf d.ta).mx && meets d.taScale d.tb))

/-- Does the walk write a line at or after element (`row`, `col`)? -/
def writesFrom (s : State) (g : Option Gal) (n : CoreId) (d : RDesc) (k : Int) (row col : Nat) : Bool :=
  (List.range d.rows).any (fun r => decide (row ≤ r) &&
    (let idx := ((listEntry s n d r).1).getD 0
     (List.range d.width).any (fun p => decide ((row < r ∨ col ≤ p) ∧ lineKey s g n (d.el idx r p).dst = k))))

/-- Bits of a line's value. -/
def lineBits (v : BitVec 512) (b : Int) (w : Nat) : Nat := v.toNat / 2 ^ (b % 512).toNat % 2 ^ w

/-- The bits of a source. A line that the descriptor itself writes is read wholly as it stood before or wholly as it
stands after, freely; where the walk has not written it yet, what it will hold is free (R219, log entry 35). -/
def srcBits (s : State) (g : Option Gal) (n : CoreId) (d : RDesc) (x : RQueue) (m : Moved) (e : El) (b : Int)
    (w : Nat) : Nat :=
  let now := readAt s g n m.mem b w
  let k := lineKey s g n b
  if overlaps s g n d && writesFrom s g n d k 0 0 then
    let l := lineAt s g n b
    if Config.readsNew x.seed l then
      (if writesFrom s g n d k e.row e.col then lineBits (Config.newLine x.seed l) b w else now)
    else
      match m.snap.find? (fun y => decide (y.1 = l)) with
      | some y => lineBits y.2 b w
      | none => now
  else now

/-- The lines of the addresses about to be written, kept as they stand. -/
def keepLines (m : Memory) (snap : Tbl (BitVec 512)) (as : List Nat) : Tbl (BitVec 512) :=
  as.foldl (fun t a =>
    if t.any (fun y => decide (y.1 = a / 64)) then t
    else t ++ [(a / 64, BitVec.ofNat 512 (leNat (m.bytes (a / 64 * 64) 64)))]) snap

/-- Move one element; a write to a line where `on` is false is left out. -/
def moveEl (s : State) (g : Option Gal) (n : CoreId) (d : RDesc) (x : RQueue) (on : Nat → Bool) (m : Moved) (e : El) :
    Moved :=
  let w := d.ew
  let scale := match e.sscale with
    | some b => srcBits s g n d x m e b 8
    | none => 127
  let code := match e.src with
    | some b => srcBits s g n d x m e b d.sw
    | none => 0
  let old := readAt s g n m.mem e.dst w
  let v := if e.data then newCode d code scale old else 0
  let a := placeAt s g n (e.dst / 8).toNat
  let bad (o : Option Int) : Bool := match o with
    | some b => m.mem.isPoisoned (lineAt s g n b)
    | none => false
  -- An SF16 copy is byte for byte: its code lines and scale lines carry poison each for itself.
  let psn := e.data && (bad e.src || (!d.raw && bad e.sscale) || (d.add && m.mem.isPoisoned (a / 64)))
  let spsn := if d.raw then bad e.sscale else psn
  let odd := e.odd && on (a / 64)
  let mem := if on (a / 64) then writeBits m.mem a e.dst w v else m.mem
  -- Row padding is written as zero, or carried from a source row of the same length (R148).
  let mem := if !odd then mem
    else writeBits mem a (e.dst + 4) 4 (match e.src with
      | some b => if d.same && decide ((tileOf d.ta).n0 = (tileOf d.tb).n0) then srcBits s g n d x m e (b + 4) 4 else 0
      | none => 0)
  -- The scale is copied with its elements; a pad block takes 0x00.
  let sc : List (Nat × Nat) := match e.dscale with
    | none => []
    | some b =>
      let sa := placeAt s g n (b / 8).toNat
      if !on (sa / 64) then []
      else (sa, if e.data then scale else 0) :: (if d.raw then
          [(sa + 32, match e.sscale with
            | some q => srcBits s g n d x m e (q + 256) 8
            | none => 0)] else [])
  let put := on (a / 64)
  { mem := sc.foldl (fun k y => k.write y.1 [BitVec.ofNat 8 y.2]) mem
    written := m.written ++ (if put then [(8 * a + (e.dst % 8).toNat, if odd then 8 else w, psn)] else [])
      ++ sc.map (fun y => (8 * y.1, 8, spsn))
    fed := if e.src.isSome then m.fed ++ leBytes (d.sw / 8) code else m.fed
    out := if e.data then m.out ++ leBytes (w / 8) v else m.out
    bits := m.bits + (if put then (if odd then 8 else w) else 0) + 8 * sc.length
    snap := if overlaps s g n d then keepLines m.mem m.snap ((if put then [a] else []) ++ sc.map Prod.fst) else m.snap }

/-- The half bytes of a line that a list of writes covers. -/
def coverOf (ws : List (Nat × Nat × Bool)) (line : Nat) : BitVec 128 :=
  BitVec.ofNat 128 (((List.range 128).map (fun k => b1 (ws.any (fun w =>
    decide (w.1 ≤ 512 * line + 4 * k ∧ 512 * line + 4 * k + 4 ≤ w.1 + w.2.1))) * 2 ^ k)).sum)

/-- The poison of a line after elements are moved: marked where poison was written into it, cleared once the
descriptor has written it whole from clean data (R220). -/
def poisonAfter (written : List (Nat × Nat × Bool)) (p : Memory × Tbl (BitVec 128)) (line : Nat) :
    Memory × Tbl (BitVec 128) :=
  let ws := written.filter (fun w => decide (w.1 / 512 = line))
  let rest := p.2.filter (fun y => decide (y.1 ≠ line))
  if ws.any (fun w => w.2.2) then (p.1.setPoison line true, rest)
  else if !p.1.poison.contains line then p
  else
    let c := ((p.2.find? (fun y => decide (y.1 = line))).map Prod.snd).getD 0 ||| coverOf ws line
    if c = -1 then (p.1.setPoison line false, rest) else (p.1, rest ++ [(line, c)])

/-- Memory, and the lines partly rewritten, after elements are moved. -/
def settlePoison (m : Moved) (x : RQueue) : Memory × Tbl (BitVec 128) :=
  ((m.written.map (fun w => w.1 / 512)).eraseDups).foldl (poisonAfter m.written) (m.mem, x.clean)

/-! ### What a KILL leaves of a descriptor (R227) -/

/-- The elements at and beyond the progress point, but for rejected list rows. -/
def restEls (s : State) (n : CoreId) (d : RDesc) (x : RQueue) : List El :=
  ((List.range d.rows).filter (fun r => decide (x.row ≤ r))).flatMap (fun r =>
    let from_ := if r = x.row then x.elem else 0
    let cols := (List.range d.width).filter (fun p => decide (from_ ≤ p))
    if (d.kind = 1 ∨ d.kind = 2) ∧ r < d.count then
      match (listEntry s n d r).1 with
      | none => []
      | some i => cols.map (d.el i r)
    else cols.map (d.el 0 r))

/-- Can every address of an element be reached? -/
def galReaches (s : State) (g : Option Gal) (n : CoreId) (e : El) : Bool :=
  let ok (w : Bool) (b : Int) : Bool := match place s g n (b / 8).toNat w with
    | .ok _ => true
    | _ => false
  (e.src.toList ++ e.sscale.toList).all (ok false) && (e.dst :: e.dscale.toList).all (ok true)

/-- The lines at and beyond the progress point as a KILL leaves them, each wholly old or wholly new, freely; and the
count of elements not written. -/
def killMoves (s : State) (n : CoreId) (d : RDesc) (x : RQueue) : Moved × Nat :=
  let g := coreOwner s n
  let els := (restEls s n d x).filter (galReaches s g n)
  let m := els.foldl (moveEl s g n d x (Config.killLine s.free)) { mem := s.mem, snap := x.snap }
  (m, els.length - m.written.length)

end Sys2Proof.Machine
end

