-- ==== Sys2Proof/Machine/CollPlan.lean ====
section
/-! DEFINITION. The plan of a collective operation at one ring member: segments, chunks, tasks, payload formats and the
places of elements (R308, R312 to R315, R317, R318). -/

namespace Sys2Proof.Machine

/-! ### Segments, chunks and tasks (R312, R313, Table 10-4) -/

/-- A chunk: its segment, number, first element, element count, half, and its segment's first element. -/
structure Chunk where
  seg : Nat
  idx : Nat
  e0 : Nat
  cnt : Nat
  minus : Bool
  off : Nat
  deriving DecidableEq, Repr

/-- The chunks of segment `seg` of `n` elements from `off`, numbered from `base`. -/
def segChunks (bidir : Bool) (seg off base n : Nat) : List Chunk :=
  let k := cdiv n 1024
  (List.range k).map (fun i =>
    ⟨seg, base + i, off + 1024 * i, min 1024 (n - 1024 * i), bidir && decide ((k + 1) / 2 ≤ i), off⟩)

/-- The chunks of all segments, numbered in one sequence. -/
def allChunks (bidir : Bool) : Nat → Nat → Nat → List Nat → List Chunk
  | _, _, _, [] => []
  | seg, off, base, n :: r =>
    segChunks bidir seg off base n ++ allChunks bidir (seg + 1) (off + n) (base + cdiv n 1024) r

def CollOp.chunks (o : CollOp) : List Chunk := allChunks o.fn.bidir 0 0 0 o.counts

/-- What a member does with a chunk. -/
inductive TaskKind where
  /-- The home member sends its own values. -/
  | contrib
  /-- A reduce step: combine what arrives with the member's own values. -/
  | combine
  /-- A gather, forward or direct step: write what arrives. -/
  | take
  /-- A direct send. -/
  | push
  /-- The member's own data goes to its own destination. -/
  | copy
  deriving DecidableEq, Repr

/-- A task: the member data comes from or goes to, the ring step, the phase, and the member and step it is
passed on to. Steps count on through the gather phase. -/
structure Task where
  kind : TaskKind
  ch : Chunk
  peer : Nat := 0
  step : Nat := 0
  phase : Nat := 0
  fwd : Option (Nat × Nat) := none
  deriving DecidableEq, Repr

/-- The next member in a direction, and the distance from a member in it. -/
def ringNext (lr c : Nat) (minus : Bool) : Nat := (c + (if minus then lr - 1 else 1)) % lr
def ringDist (lr a c : Nat) (minus : Bool) : Nat := if minus then (a + lr - c) % lr else (c + lr - a) % lr

/-- The tasks of a reduction's chunk. The chunk's home is its segment's member. -/
def reduceTasks (scatter : Bool) (lr c : Nat) (ch : Chunk) : List Task :=
  let k := ringDist lr ch.seg c ch.minus
  let nx := ringNext lr c ch.minus
  let pv := ringNext lr c (!ch.minus)
  (if k = 0 then [{ kind := .contrib, ch := ch, peer := nx, fwd := some (nx, 1) }]
    else [{ kind := .combine, ch := ch, peer := pv, step := k, fwd := some (nx, k + 1) }])
  ++ (if scatter then
      (if k = 0 then [{ kind := .take, ch := ch, peer := pv, step := lr, phase := 1 }] else [])
    else if k + 1 < lr then
      [{ kind := .take, ch := ch, peer := pv, step := lr + k, phase := 1
         fwd := if k + 2 < lr then some (nx, lr + k + 1) else none }]
    else [])

/-- The tasks of a chunk that member `a` gives to every member. -/
def spreadTasks (lr c a : Nat) (ch : Chunk) : List Task :=
  let t := ringDist lr a c ch.minus
  let nx := ringNext lr c ch.minus
  if t = 0 then [{ kind := .copy, ch := ch, phase := 1, fwd := if 2 ≤ lr then some (nx, 1) else none }]
  else [{ kind := .take, ch := ch, peer := ringNext lr c (!ch.minus), step := t, phase := 1
          fwd := if t + 1 < lr then some (nx, t + 1) else none }]

/-- The tasks of an operation at this member. A csend or crecv on a ring of length 1 moves nothing (R101, log entry
106). -/
def CollOp.tasks (o : CollOp) : List Task :=
  match o.kind with
  | .allreduce | .reducescatter =>
    if o.lr ≤ 1 then o.chunks.map (fun ch => { kind := .copy, ch := ch })
    else o.chunks.flatMap (reduceTasks (decide (o.kind = .reducescatter)) o.lr o.c)
  | .allgather => o.chunks.flatMap (fun ch => spreadTasks o.lr o.c ch.seg ch)
  | .bcast => o.chunks.flatMap (fun ch => spreadTasks o.lr o.c o.root ch)
  | .alltoall =>
    o.chunks.map (fun ch =>
      if ch.seg = o.c then { kind := .copy, ch := ch, phase := 2 }
      else { kind := .push, ch := ch, peer := ch.seg, step := 1, phase := 2 })
    ++ ((List.range o.lr).filter (fun i => decide (i ≠ o.c))).flatMap (fun i =>
      (o.chunks.filter (fun ch => decide (ch.seg = o.c))).map (fun ch =>
        { kind := .take, ch := ch, peer := i, step := 1, phase := 2 }))
  | .send =>
    if o.lr ≤ 1 then []
    else o.chunks.map (fun ch =>
      { kind := .push, ch := ch, peer := ringNext o.lr o.c o.minus, step := 1, phase := 2 })
  | .recv =>
    if o.lr ≤ 1 then []
    else o.chunks.map (fun ch =>
      { kind := .take, ch := ch, peer := ringNext o.lr o.c o.minus, step := 1, phase := 2 })
  | .barrier => []

/-- The members that will send this member data; for cbarrier every other member (R311). -/
def CollOp.senders (o : CollOp) : List Nat :=
  match o.kind with
  | .barrier => (List.range o.lr).filter (fun k => decide (k ≠ o.c))
  | _ => ((o.tasks.filter (fun t => decide (t.kind = .combine ∨ t.kind = .take))).map Task.peer).eraseDups

/-! ### Payload formats (Table 10-7, R317, R318) -/

def pfmtOf : Fmt → Nat
  | .f32 => 0
  | .bf16 => 1
  | .f16 => 2
  | .i32 => 3
  | .sf16 => 4
  | .e2m1 => 6
  | _ => 5

/-- Payload bytes of `n` elements. -/
def pfmtBytes (p n : Nat) : Nat :=
  if p = 0 ∨ p = 3 then 4 * n else if p = 1 ∨ p = 2 then 2 * n else if p = 4 then 2112
  else if p = 5 then n else n / 2

def CollOp.src (o : CollOp) : Tile := tileOf o.ta
def CollOp.dst (o : CollOp) : Tile := tileOf o.tb
def CollOp.isReduce (o : CollOp) : Bool := decide (o.kind = .allreduce ∨ o.kind = .reducescatter)
def CollOp.int (o : CollOp) : Bool := decide (o.src.format = .i32)

/-- The payload format of a task's packets. -/
def CollOp.pfmt (o : CollOp) (phase : Nat) : Nat :=
  if o.isReduce then
    if o.fn.codec then 4
    else if phase = 0 then (if o.int then 3 else 0)
    else pfmtOf o.dst.format
  else if o.kind = .recv then pfmtOf o.dst.format
  else pfmtOf o.src.format

/-- The element of the destination that a task's chunk begins at, and of the source (R315, Table 10-6). -/
def CollOp.dstAt (o : CollOp) (t : Task) : Nat :=
  match o.kind with
  | .reducescatter => t.ch.e0 - t.ch.off
  | .alltoall => (if t.kind = .copy then o.c else t.peer) * o.counts.getD o.c 0 + (t.ch.e0 - t.ch.off)
  | _ => t.ch.e0
def CollOp.srcAt (o : CollOp) (t : Task) : Nat :=
  match o.kind with
  | .allgather => t.ch.e0 - t.ch.off
  | _ => t.ch.e0

/-! ### Element access (R308) -/

/-- Elements a descriptor describes; the bit address of element `e` in index order. -/
def Tile.count (t : Tile) : Nat := t.n0 * t.n1 * t.n2 * t.n3
def Tile.elem (t : Tile) (e : Nat) : Int :=
  t.bitAddr (e % t.n0) (e / t.n0 % t.n1) (e / (t.n0 * t.n1) % t.n2) (e / (t.n0 * t.n1 * t.n2))

/-- The units that elements e0 to e0 + n − 1 are read and written in: bit addresses, and the bits of one.
SF16 goes as the 33 lines of each super-block. -/
def Tile.units (t : Tile) (e0 n : Nat) : List Int :=
  if t.format = .sf16 then
    (List.range (cdiv n 1024 * 33)).map (fun i => 8 * ((t.base : Int) + (e0 / 1024 * 2112 + 64 * i : Nat)))
  else (List.range n).map (fun j => t.elem (e0 + j))
def Tile.unitBits (t : Tile) : Nat := if t.format = .sf16 then 512 else t.ebits

/-- Where a collective operand lies in memory: Gallery virtual, or the Reserve of the cluster resolved at
acceptance. -/
def collPlace (s : State) (g : Gal) (cl a : Nat) (write : Bool) : Xlate :=
  if a < 2 ^ 48 then translate s g a write else .ok (reserveBase cl + a % 2 ^ 48)
def collAt (s : State) (g : Gal) (cl a : Nat) : Nat :=
  match collPlace s g cl a false with
  | .ok pa => pa
  | _ => 0

/-- The first failing translation of the units. -/
def collBad (s : State) (g : Gal) (cl : Nat) (write : Bool) : List Int → Option (Xlate × Nat × Bool)
  | [] => none
  | b :: r =>
    match collPlace s g cl (b / 8).toNat write with
    | .ok _ => collBad s g cl write r
    | x => some (x, (b / 8).toNat, write)

/-! ### What a failed operation leaves (R307) -/

/-- Does a task write the member's own destination? -/
def CollOp.taskWrites (o : CollOp) (t : Task) : Bool :=
  match t.kind with
  | .take | .copy => true
  | .combine => decide (t.step + 1 = o.lr ∧ o.kind = .allreduce)
  | _ => false

/-- The lines of memory of the chunks that the operation has not written. -/
def CollOp.restLines (s : State) (g : Gal) (o : CollOp) : List Nat :=
  let ts := ((List.range o.tasks.length).zip o.tasks).filter (fun x => !o.done.contains x.1 && o.taskWrites x.2)
  (ts.flatMap (fun x => (o.dst.units (o.dstAt x.2) x.2.ch.cnt).filterMap (fun b =>
    match collPlace s g o.cluster (b / 8).toNat true with
    | .ok pa => some (pa / 64)
    | _ => none))).eraseDups

/-- An operation that has failed leaves each line of the chunks it had not written old, or new: what the new contents
would have been is free (log entry 39). -/
def spoilDest (s : State) (g : Gal) (o : CollOp) : State :=
  { s with
    mem := (o.restLines s g).foldl (fun m l =>
      if Config.killLine s.free l then m.write (64 * l) (leBytes 64 (Config.newLine s.free l).toNat) else m) s.mem
    free := s.free + 1 }

end Sys2Proof.Machine
end

