-- ==== Sys2Proof/Machine/Crypto.lean ====
section
/-! DEFINITION. SHA-512 (FIPS 180-4), HMAC-SHA-512 (FIPS 198-1) and the CRC models the spec names
(R272, R311, R356, R369, R375, R423). -/

namespace Sys2Proof.Machine

/-! ### SHA-512 -/

/-- The eighty round constants of FIPS 180-4. -/
def shaK : List (BitVec 64) :=
  [0x428A2F98D728AE22, 0x7137449123EF65CD, 0xB5C0FBCFEC4D3B2F, 0xE9B5DBA58189DBBC,
   0x3956C25BF348B538, 0x59F111F1B605D019, 0x923F82A4AF194F9B, 0xAB1C5ED5DA6D8118,
   0xD807AA98A3030242, 0x12835B0145706FBE, 0x243185BE4EE4B28C, 0x550C7DC3D5FFB4E2,
   0x72BE5D74F27B896F, 0x80DEB1FE3B1696B1, 0x9BDC06A725C71235, 0xC19BF174CF692694,
   0xE49B69C19EF14AD2, 0xEFBE4786384F25E3, 0x0FC19DC68B8CD5B5, 0x240CA1CC77AC9C65] ++
  [0x2DE92C6F592B0275, 0x4A7484AA6EA6E483, 0x5CB0A9DCBD41FBD4, 0x76F988DA831153B5,
   0x983E5152EE66DFAB, 0xA831C66D2DB43210, 0xB00327C898FB213F, 0xBF597FC7BEEF0EE4,
   0xC6E00BF33DA88FC2, 0xD5A79147930AA725, 0x06CA6351E003826F, 0x142929670A0E6E70,
   0x27B70A8546D22FFC, 0x2E1B21385C26C926, 0x4D2C6DFC5AC42AED, 0x53380D139D95B3DF,
   0x650A73548BAF63DE, 0x766A0ABB3C77B2A8, 0x81C2C92E47EDAEE6, 0x92722C851482353B] ++
  [0xA2BFE8A14CF10364, 0xA81A664BBC423001, 0xC24B8B70D0F89791, 0xC76C51A30654BE30,
   0xD192E819D6EF5218, 0xD69906245565A910, 0xF40E35855771202A, 0x106AA07032BBD1B8,
   0x19A4C116B8D2D0C8, 0x1E376C085141AB53, 0x2748774CDF8EEB99, 0x34B0BCB5E19B48A8,
   0x391C0CB3C5C95A63, 0x4ED8AA4AE3418ACB, 0x5B9CCA4F7763E373, 0x682E6FF3D6B2B8A3,
   0x748F82EE5DEFB2FC, 0x78A5636F43172F60, 0x84C87814A1F0AB72, 0x8CC702081A6439EC] ++
  [0x90BEFFFA23631E28, 0xA4506CEBDE82BDE9, 0xBEF9A3F7B2C67915, 0xC67178F2E372532B,
   0xCA273ECEEA26619C, 0xD186B8C721C0C207, 0xEADA7DD6CDE0EB1E, 0xF57D4F7FEE6ED178,
   0x06F067AA72176FBA, 0x0A637DC5A2C898A6, 0x113F9804BEF90DAE, 0x1B710B35131C471B,
   0x28DB77F523047D84, 0x32CAAB7B40C72493, 0x3C9EBE0A15C9BEBC, 0x431D67C49C100D4C,
   0x4CC5D4BECB3E42B6, 0x597F299CFC657E2A, 0x5FCB6FAB3AD6FAEC, 0x6C44198C4A475817]

/-- The initial hash value of FIPS 180-4. -/
def shaInit : List (BitVec 64) :=
  [0x6A09E667F3BCC908, 0xBB67AE8584CAA73B, 0x3C6EF372FE94F82B, 0xA54FF53A5F1D36F1,
   0x510E527FADE682D1, 0x9B05688C2B3E6C1F, 0x1F83D9ABFB41BD6B, 0x5BE0CD19137E2179]

def shaRotr (x : BitVec 64) (n : Nat) : BitVec 64 := x >>> n ||| x <<< (64 - n)

/-- The big-endian 64-bit words of a list of bytes. -/
def beWords : List Byte → List (BitVec 64)
  | a :: b :: c :: d :: e :: f :: g :: h :: r =>
    BitVec.ofNat 64 (leNat [h, g, f, e, d, c, b, a]) :: beWords r
  | _ => []

/-- The big-endian bytes of words. -/
def beBytes (ws : List (BitVec 64)) : List Byte := ws.flatMap (fun w => (leBytes 8 w.toNat).reverse)

/-- One more word of the message schedule; the words so far, newest first. -/
def shaNext (ws : List (BitVec 64)) : BitVec 64 :=
  let w2 := ws.getD 1 0
  let w15 := ws.getD 14 0
  let s1 := shaRotr w2 19 ^^^ shaRotr w2 61 ^^^ (w2 >>> 6)
  let s0 := shaRotr w15 1 ^^^ shaRotr w15 8 ^^^ (w15 >>> 7)
  s1 + ws.getD 6 0 + s0 + ws.getD 15 0

/-- The schedule with `n` words more, newest first. -/
def shaExtend : Nat → List (BitVec 64) → List (BitVec 64)
  | 0, ws => ws
  | n + 1, ws => shaExtend n (shaNext ws :: ws)

/-- One round of the compression function on the eight working variables. -/
def shaRound (v : List (BitVec 64)) (k w : BitVec 64) : List (BitVec 64) :=
  let a := v.getD 0 0
  let b := v.getD 1 0
  let c := v.getD 2 0
  let d := v.getD 3 0
  let e := v.getD 4 0
  let f := v.getD 5 0
  let g := v.getD 6 0
  let h := v.getD 7 0
  let t1 := h + (shaRotr e 14 ^^^ shaRotr e 18 ^^^ shaRotr e 41) + ((e &&& f) ^^^ (~~~e &&& g)) + k + w
  let t2 := (shaRotr a 28 ^^^ shaRotr a 34 ^^^ shaRotr a 39) + ((a &&& b) ^^^ (a &&& c) ^^^ (b &&& c))
  [t1 + t2, a, b, c, d + t1, e, f, g]

/-- The hash value after one 128-byte block. -/
def shaBlock (h : List (BitVec 64)) (block : List Byte) : List (BitVec 64) :=
  let ws := (shaExtend 64 (beWords block).reverse).reverse
  let v := (shaK.zip ws).foldl (fun v kw => shaRound v kw.1 kw.2) h
  (h.zip v).map (fun p => p.1 + p.2)

/-- The hash value after `n` whole blocks of a list of bytes. -/
def shaBlocks : Nat → List (BitVec 64) → List Byte → List (BitVec 64)
  | 0, h, _ => h
  | n + 1, h, bs => shaBlocks n (shaBlock h (bs.take 128)) (bs.drop 128)

/-- The padding of a message of `n` bytes. -/
def shaPad (n : Nat) : List Byte :=
  0x80 :: List.replicate ((111 + 128 - n % 128) % 128) 0 ++ (leBytes 16 (8 * n)).reverse

/-- The digest that continues hash value `h` (after whole blocks, of `total` bytes in all) over the
last part block. -/
def shaFinish (h : List (BitVec 64)) (part : List Byte) (total : Nat) : List (BitVec 64) :=
  let m := part ++ shaPad total
  shaBlocks (m.length / 128) h m

/-- SHA-512 of a message: 64 bytes. -/
def sha512 (m : List Byte) : List Byte :=
  let n := m.length / 128
  beBytes (shaFinish (shaBlocks n shaInit m) (m.drop (128 * n)) m.length)

/-- HMAC-SHA-512: 64 bytes. -/
def hmac512 (key m : List Byte) : List Byte :=
  let k0 := if key.length > 128 then sha512 key else key
  let k := k0 ++ List.replicate (128 - k0.length) 0
  sha512 (k.map (· ^^^ 0x5C) ++ sha512 (k.map (· ^^^ 0x36) ++ m))

/-! ### CRC -/

/-- The low `n` bits of a number in reverse order. -/
def revBits : Nat → Nat → Nat
  | 0, _ => 0
  | n + 1, v => (v % 2) * 2 ^ n + revBits n (v / 2)

/-- `n` shift steps of a CRC register of the given width. -/
def crcShift (width poly : Nat) : Nat → Nat → Nat
  | 0, r => r
  | n + 1, r =>
    let t := 2 * r % 2 ^ width
    crcShift width poly n (if r.testBit (width - 1) then t ^^^ poly else t)

/-- The register after one byte: parametric CRC model, `refin` reflects the input byte. -/
def crcByte (width poly : Nat) (refin : Bool) (r : Nat) (b : Byte) : Nat :=
  let v := if refin then revBits 8 b.toNat else b.toNat
  crcShift width poly 8 (if width < 8 then r else r ^^^ v <<< (width - 8))

/-- The register after a list of bytes. -/
def crcBytes (width poly : Nat) (refin : Bool) (r : Nat) (bs : List Byte) : Nat :=
  bs.foldl (crcByte width poly refin) r

/-- The value of a register at the end: output reflection, then the final XOR. -/
def crcEnd (width : Nat) (refout : Bool) (xorout r : Nat) : Nat :=
  (if refout then revBits width r else r) ^^^ xorout

/-- CRC-32 of R311: IEEE 802.3, initial value all ones, result inverted. -/
def crc32 (bs : List Byte) : BitVec 32 :=
  BitVec.ofNat 32 (crcEnd 32 true 0xFFFFFFFF (crcBytes 32 0x04C11DB7 true 0xFFFFFFFF bs))

/-- CRC-32C of R369 and R375. -/
def crc32c (bs : List Byte) : BitVec 32 :=
  BitVec.ofNat 32 (crcEnd 32 true 0xFFFFFFFF (crcBytes 32 0x1EDC6F41 true 0xFFFFFFFF bs))

/-- CRC-24 of the link frame trailer (Table 9-3): polynomial 0x86_4CFB, initial value all ones. -/
def crc24 (bs : List Byte) : BitVec 24 :=
  BitVec.ofNat 24 (crcBytes 24 0x864CFB false 0xFFFFFF bs)

/-- CRC-8 of the SMBus packet error code: polynomial 0x07. -/
def crc8 (bs : List Byte) : Byte := BitVec.ofNat 8 (crcBytes 8 0x07 false 0 bs)

end Sys2Proof.Machine
end

