-- ==== Sys2Proof/Machine/Messages.lean ====
section
/-! DEFINITION. What the device sends to hosts over SHT: messages, completion records and event records
(R356 to R361, R366). -/

namespace Sys2Proof.Machine

/-- The ENDPT byte of an endpoint (Table 12-2). -/
def endptByte : Ep → Nat
  | .mgmt => 0xFF
  | .host g => g.val

/-- The key an endpoint authenticates HELLO with (R353): GLY[g]_HOSTKEY, or the manifest's management
key, MGMTKEY of the manifest (Table 14-3). -/
def endpointKey (s : State) : Ep → List Byte
  | .host g => (List.range 4).flatMap (fun i => leBytes 8 (rget s (glyReg g (0x38 + 8 * i))).toNat)
  | .mgmt => (s.prov.manifest.drop 64).take 32

/-- The UDP port of an endpoint (R353). -/
def endpointPort (s : State) : Ep → Nat
  | .mgmt => fget s (ethReg 0x40) 15 0
  | .host g => fget s (ethReg 0x40) 15 0 + 1 + g.val

/-- The bytes of a message before its MAC (Table 12-2). -/
def shtBytes (e : Ep) (kind : Nat) (session : Nat) (seq ackseq : Nat) (body : List Byte) : List Byte :=
  leBytes 8 (mkWord [(56, 1), (48, kind), (40, endptByte e), (0, session)]).toNat
    ++ leBytes 8 (mkWord [(32, seq), (0, ackseq)]).toNat
    ++ leBytes 8 (mkWord [(32, body.length)]).toNat ++ leBytes 8 0 ++ body

/-- The message with its MAC (R356). -/
def shtSeal (key : List Byte) (m : List Byte) : List Byte := m ++ (hmac512 key m).take 16

/-- The place of a frame in the order of R352: PTP; ARP, Neighbour Discovery, echo replies and DHCP; SHT; NVMe/TCP. -/
def sendClass : Out → Nat
  | .eth k _ => if k = 7 then 0 else 1
  | .udp .. => 2
  | _ => 3

/-- Do PFC frames hold the port's priority (R351)? -/
def ethPaused (s : State) : Bool := bit (rget s (ethReg 8)) 3 && decide (now s < s.eth.until_)

/-- The frames that wait leave, counted, in the order of R352, oldest first in each class, unless PFC holds them. -/
def ethFlush (s : State) : State :=
  if ethPaused s then s
  else
    ([0, 1, 2, 3].flatMap (fun k => s.eth.waiting.filter (fun o => decide (sendClass o = k)))).foldl
      (fun s o => emit (fincr s (ethReg 0x48) 31 0 1) o) { s with eth := { s.eth with waiting := [] } }

/-- A frame is to leave the Ethernet port. -/
def ethSend (s : State) (o : Out) : State := ethFlush { s with eth := { s.eth with waiting := s.eth.waiting ++ [o] } }

/-- What an idle step does: one cycle passes while the device runs (R334, R439), and frames that PFC held may leave. -/
def idle (s : State) : State := if deviceRuns s then ethFlush (tick s) else s

/-- Send one message of the current session. -/
def shtEmit (s : State) (e : Ep) (m : ShtMsg) : State :=
  let x := endpoint s e
  match x.session with
  | none => s
  | some n => ethSend s (.udp x.peer x.port
      (shtSeal x.key (shtBytes e m.kind n.toNat m.seq.toNat x.rxSeq.toNat m.body)))

/-- Mark the first 64 unacknowledged messages as sent once; the new ones are answered second (R358). -/
def markSent : Nat → List ShtMsg → List ShtMsg × List ShtMsg
  | 0, l => (l, [])
  | _, [] => ([], [])
  | n + 1, m :: r =>
    let t := markSent n r
    if m.tries = 0 then ({ m with tries := 1 } :: t.1, m :: t.2) else (m :: t.1, t.2)

/-- Send what the window of 64 messages allows. -/
def shtFlush (s : State) (e : Ep) : State :=
  let x := endpoint s e
  let t := markSent 64 x.unacked
  t.2.foldl (fun s m => shtEmit s e m) (setEp s e { x with unacked := t.1 })

/-- Send a message of the current session, numbered and kept until acknowledged (R358). -/
def shtSend (s : State) (e : Ep) (kind : Nat) (body : List Byte) : State :=
  let x := endpoint s e
  match x.session with
  | none => s
  | some _ =>
    shtFlush (setEp s e { x with txSeq := x.txSeq + 1
                                 unacked := x.unacked ++ [⟨x.txSeq + 1, kind, body, 0⟩] }) e

/-- Completion statuses (Table 12-5). -/
inductive Status where
  | ok | pending | timeout | timeoutDone | invalid | notPermitted | galleryOpen | notreadyTb
  | notreadyCat | notreadyRetire | badState | range | fault | permission | poison | noResource
  | aborted | storage | digest | progress
  deriving DecidableEq, Repr

def Status.code : Status → Nat
  | .ok => 0x00 | .pending => 0x01 | .timeout => 0x02 | .timeoutDone => 0x03 | .invalid => 0x04
  | .notPermitted => 0x05 | .galleryOpen => 0x06 | .notreadyTb => 0x07 | .notreadyCat => 0x08
  | .notreadyRetire => 0x09 | .badState => 0x0A | .range => 0x0B | .fault => 0x0C
  | .permission => 0x0D | .poison => 0x0E | .noResource => 0x0F | .aborted => 0x10
  | .storage => 0x11 | .digest => 0x12 | .progress => 0x13

/-- The bytes of a completion record (R359). -/
def cplBytes (tag : BitVec 32) (op : Nat) (st : Status) (r1 r2 r3 : Word) : List Byte :=
  leBytes 8 (mkWord [(32, tag.toNat), (8, st.code), (0, op)]).toNat
    ++ leBytes 8 r1.toNat ++ leBytes 8 r2.toNat ++ leBytes 8 r3.toNat

/-- A record no session can receive: counted for a host endpoint (R358, R366). -/
def recordLost (s : State) : Ep → State
  | .mgmt => s
  | .host g => fincr s (glyReg g 0x90) 63 32 1

/-- Send one completion record (CPL, Table 12-3). -/
def sendCpl (s : State) (e : Ep) (tag : BitVec 32) (op : Nat) (st : Status) (r1 r2 r3 : Word) : State :=
  if (endpoint s e).session.isSome then shtSend s e 0x11 (cplBytes tag op st r1 r2 r3) else recordLost s e

/-- Commands of the host class (Tables 12-4, 13-13, 14-9). -/
def hostClass (op : Nat) : Bool :=
  [0x01, 0x02, 0x03, 0x04, 0x05, 0x06, 0x07, 0x08, 0x09, 0x0A, 0x13, 0x20, 0x21, 0x23, 0x24, 0x25, 0x31, 0x32, 0x33,
   0x36, 0x40].contains op

/-- The bound of the host command class, in ns (Table 1-4). -/
def hostBound : Nat := 50000

/-- The record a command's final completion answers. -/
def findCmd (x : Endpoint) (tag : BitVec 32) (op : Nat) : Option ShtCmdRec :=
  x.cmds.find? (fun c => decide (c.tag = tag ∧ c.op = op))

/-- A host-class command that made its effect after the bound completes with TIMEOUT_DONE (R361); one that
answered PENDING under R32 is not late. -/
def lateStatus (s : State) (c : ShtCmdRec) (st : Status) : Status :=
  if hostClass c.op && !c.pendingSent && decide (c.since + hostBound < now s) && decide (st = .ok) then .timeoutDone else st

/-- TIMEOUT and TIMEOUT_DONE are counted (R361). -/
def countTimeout (s : State) (e : Ep) (st : Status) : State :=
  if st = .timeout ∨ st = .timeoutDone then
    match e with
    | .mgmt => fincr s (ethReg 0x58) 31 24 1
    | .host g => fincr s (glyReg g 0x90) 31 0 1
  else s

/-- Send a completion record of a command; it is kept, to be sent again when the CMD message comes again (R358).
Of a command whose session has ended nothing is sent (R357, R358). -/
def sendFor (s : State) (e : Ep) (c : ShtCmdRec) (st : Status) (r1 r2 r3 : Word) : State :=
  if c.live then
    let s := sendCpl s e c.tag c.op st r1 r2 r3
    let y := endpoint s e
    setEp s e { y with answered := y.answered ++ [(c.seq, ⟨y.txSeq, 0x11, cplBytes c.tag c.op st r1 r2 r3, 0⟩)] }
  else if (endpoint s e).session.isNone then recordLost s e else s

/-- A final completion: the command record is done (R361). Of a command whose session has ended nothing is sent. -/
def complete (s : State) (e : Ep) (tag : BitVec 32) (op : Nat) (st : Status) (r1 r2 r3 : Word) : State :=
  let x := endpoint s e
  match findCmd x tag op with
  | none => sendCpl s e tag op st r1 r2 r3
  | some c =>
    let st := lateStatus s c st
    let s := setEp s e { x with cmds := x.cmds.eraseP (fun c => decide (c.tag = tag ∧ c.op = op)) }
    let s := countTimeout s e st
    sendFor s e c st r1 r2 r3

/-- Send one event record (R366, Table 12-6). -/
def sendEvent (s : State) (e : Ep) (kind gal core part : Nat) (words : List Word) : State :=
  if (endpoint s e).session.isSome then
    shtSend s e 0x40 (leBytes 8 (mkWord [(0, kind), (8, gal), (16, core), (32, part)]).toNat
      ++ (words ++ List.replicate (7 - words.length) 0).flatMap (fun (w : Word) => leBytes 8 w.toNat))
  else recordLost s e

/-- An event of a Gallery, to its host endpoint. -/
def galEvent (s : State) (g : Gal) (kind core : Nat) (words : List Word) : State :=
  sendEvent s (.host g) kind g.val core 0 words

end Sys2Proof.Machine
end

