-- ==== Sys2Proof/Machine/Packets.lean ====
section
/-! DEFINITION. Fabric packets: header fields, building, injection, and the PEER_STATE notice
(R282 to R286, R300, R310, Tables 9-6, 9-7, 9-12). -/

namespace Sys2Proof

/-! ### Header fields (Table 9-6) -/

def Packet.gtag (p : Packet) : Nat := bits p.w0 63 48
def Packet.gallery (p : Packet) : Gal := ⟨bits p.w0 47 45 % 8, by omega⟩
def Packet.cls (p : Packet) : Bool := bit p.w0 44
def Packet.epoch (p : Packet) : Nat := bits p.w0 43 40
def Packet.gen (p : Packet) : Nat := bits p.w0 39 32
def Packet.hops (p : Packet) : Nat := bits p.w0 21 16
def Packet.len (p : Packet) : Nat := bits p.w0 15 8
def Packet.type (p : Packet) : Nat := bits p.w0 7 0
def Packet.dst (p : Packet) : Nat := bits p.w1 63 48
def Packet.src (p : Packet) : Nat := bits p.w1 47 32
def Packet.type0 (p : Packet) : Nat := bits p.w1 31 0
def Packet.poison (p : Packet) : Nat := bits p.w2 32 0

end Sys2Proof

namespace Sys2Proof.Machine

/-- The payload as whole 32-byte slots. -/
def padSlots (bs : List Byte) : List Byte := bs ++ List.replicate ((32 - bs.length % 32) % 32) 0

/-- Is a TYPE of the reply class? (Table 9-7) -/
def replyType (t : Nat) : Bool := decide (t = 3 ∨ t = 6)

/-- A routed packet of Gallery `g` as its device injects it (R286, Table 9-6). -/
def mkPacket (s : State) (g : Gal) (type dst type0 : Nat) (type1 : Word) (payload : List Byte)
    (poison : Nat) : Packet :=
  let body := padSlots payload
  { w0 := mkWord [(48, bits s.catActive.gal[g] 15 0), (45, g.val), (44, b1 (replyType type)),
      (40, bits s.catActive.hdr0 3 0), (32, genLow s g), (8, body.length / 32), (0, type)]
    w1 := mkWord [(48, dst), (32, coord s), (0, type0)]
    w2 := mkWord [(0, poison)]
    w3 := type1
    payload := body }

/-- Hand a routed packet to the fabric. None is injected for a Gallery whose Catalogue entry is not
valid; it counts as NOROUTE (R296). -/
def injectNoted (s : State) (p : Packet) (c : Option CodecNote) : State :=
  if bit s.catActive.gal[Packet.gallery p] 63 then { s with injectq := s.injectq ++ [(p, c)] }
  else fincr s (trlReg 0x108) 47 32 1
def inject (s : State) (p : Packet) : State := injectNoted s p none

/-- A unit takes a packet delivered to it: it waits no longer among those that arrived. -/
def dropInbox (s : State) (p : PortId) (pkt : Packet) : State := { s with inbox := s.inbox.erase (p, pkt) }

/-! ### Axes, boxes and rings (R269, R292, R310) -/

/-- The axis of a port: 0 X, 1 Y, 2 Z, 3 W; and whether it faces the lower neighbour (Table 9-2). -/
def portAxis (p : PortId) : Nat := if p.val < 4 then 0 else if p.val < 8 then 1 else if p.val < 10 then 2 else 3
def portMinus (p : PortId) : Bool := [2, 3, 6, 7, 9, 11].contains p.val
/-- The ports of an axis and direction. -/
def portsOf (a : Nat) (minus : Bool) : List PortId :=
  allPorts.filter (fun p => portAxis p = a ∧ portMinus p = minus)
/-- Optical ports are 8 to 11 (Table 9-2). -/
def optical (p : PortId) : Bool := decide (8 ≤ p.val)

/-- Ring length of an axis of the machine (SHAPE plus one), box extent, box origin. -/
def ringLen (s : State) (a : Nat) : Nat := nib (bits s.catActive.hdr0 47 32) a + 1
def extent (s : State) (g : Gal) (a : Nat) : Nat := nib (bits s.catActive.gal[g] 47 32) a + 1
def origin (s : State) (g : Gal) (a : Nat) : Nat := nib (bits s.catActive.gal[g] 31 16) a
def galValid (s : State) (g : Gal) : Bool := bit s.catActive.gal[g] 63

/-- Does the box of Gallery `g` contain a coordinate? -/
def inBox (s : State) (g : Gal) (c : Nat) : Bool :=
  (List.range 4).all (fun a => decide ((nib c a + ringLen s a - origin s g a) % ringLen s a < extent s g a))

/-- Ring length Lr of axis `a` for Gallery `g` on this device, and this device's ring coordinate (R310).
A Gallery without a valid Catalogue entry is of this device alone. -/
def galRing (s : State) (g : Gal) (a : Nat) : Nat := if galValid s g then extent s g a else 1
def ringCoord (s : State) (g : Gal) (a : Nat) : Nat :=
  if galValid s g then (nib (coord s) a + ringLen s a - origin s g a) % ringLen s a else 0

/-- A coordinate with the nibble of one axis replaced. -/
def withNib (c a v : Nat) : Nat := c - nib c a * 16 ^ a + v * 16 ^ a

/-- The coordinate of ring member `k` on axis `a` through this device. -/
def member (s : State) (g : Gal) (a k : Nat) : Nat :=
  withNib (coord s) a ((origin s g a + k) % ringLen s a)

/-- The other members of the ring. -/
def otherMembers (s : State) (g : Gal) (a : Nat) : List Nat :=
  (List.range (galRing s g a)).filter (fun k => decide (k ≠ ringCoord s g a))

/-- Is a coordinate on this device's ring of axis `a` in Gallery `g`, other than this device? -/
def onRing (s : State) (g : Gal) (a c : Nat) : Bool :=
  galValid s g && inBox s g c && decide (c ≠ coord s)
    && (List.range 4).all (fun b => decide (b = a ∨ nib c b = nib (coord s) b))

/-- Is a TYPE one of the routed types (Table 9-7)? -/
def routedType (t : Nat) : Bool := decide (1 ≤ t ∧ t ≤ 6)

/-! ### Link state (Table 9-4, Table 9-12) -/

def linkState (s : State) (p : PortId) : Nat := fget s (lnkReg p.val 0) 3 0
def partnerState (s : State) (p : PortId) : Nat := fget s (lnkReg p.val 0) 39 36
/-- Routed packets flow only when both ends report ACTIVE and the neighbour entry allows use (R278, R281). -/
def portUsable (s : State) (p : PortId) : Bool :=
  decide (linkState s p = 5 ∧ partnerState s p = 5) && bit s.catActive.nbr[p] 62

/-- A link-management packet: class 0, no Gallery, one link only (R285, Table 9-7). -/
def mkMgmt (type type0 : Nat) (type1 : Word) (payload : List Byte) : Packet :=
  let body := padSlots payload
  ⟨mkWord [(8, body.length / 32), (0, type)], mkWord [(0, type0)], 0, type1, body⟩

def sendMgmt (s : State) (p : PortId) (pkt : Packet) : State :=
  modPort s p (fun x => { x with mgmtq := x.mgmtq ++ [pkt] })

/-- A port that sends link-management packets: IDENT, UNVERIFIED, ACTIVE, MGMT_ONLY, QUARANTINE (Table 9-4). -/
def portWorks (s : State) (p : PortId) : Bool := [3, 4, 5, 6, 7].contains (linkState s p)

/-- PEER_STATE with the port's state, GRESET bits and CHIPRST (R282, R283). -/
def peerState (s : State) (p : PortId) (greset : Nat) (chiprst : Bool) : State :=
  sendMgmt s p (mkMgmt 0x12 0 (mkWord [(16, linkState s p), (8, greset), (0, b1 chiprst)]) [])

/-! ### Timebase announcements (R335 to R340, Tables 11-1, 11-4) -/

/-- The states in which a port exchanges TIMEBASE packets (R335). -/
def tbEligible (st : Nat) : Bool := decide (st = 4 ∨ st = 5 ∨ st = 6)

def tmbState (s : State) : Nat := fget s (tmbReg 0) 2 0
def tmbParent (s : State) : Nat := fget s (tmbReg 0x30) 3 0

/-- The device's own KEYID, from its public keys (R280); zero while Provenance holds no keys. -/
def ownKeyId (s : State) : Nat :=
  match s.prov.seeds with
  | none => 0
  | some (e, m) => leNat ((sha512 (Config.ed25519Public e ++ Config.mldsaPublic m)).take 4)

/-- An announcement (TYPE1 of a TIMEBASE packet). -/
def announcement (locked : Bool) (hops prio key : Nat) : Word :=
  mkWord [(63, b1 locked), (50, hops), (40, prio), (8, key)]

/-- The device's own announcement, and the present one, of the root it follows (R338). -/
def ownAnn (s : State) : Word := announcement (tmbState s = 3) 0 (fget s (tmbReg 8) 23 16) (ownKeyId s)
def curAnn (s : State) : Word :=
  announcement (tmbState s = 3) (fget s (tmbReg 0x30) 21 16) (fget s (tmbReg 0x30) 31 24) (fget s (tmbReg 0x30) 63 32)

/-- TMB_ROOT for a parent port, or 0xF, and its announcement. -/
def setRoot (s : State) (parent hops prio key : Nat) : State :=
  rset s (tmbReg 0x30) (mkWord [(32, key), (24, prio), (16, hops), (0, parent)])

/-- The device becomes its own root; its counter is unchanged (R340). -/
def rootSelf (s : State) : State :=
  let s := setRoot s 0xF 0 (fget s (tmbReg 8) 23 16) (ownKeyId s)
  { s with tb := { s.tb with rootPeriods := 0, thetas := [] } }

/-- The Timebase as 64 bits of nanoseconds above a 16-bit fraction (R333). -/
def tbStamp (s : State) : Nat := s.tb.count / 2 ^ 16 % 2 ^ 80

/-- What a port's change of state is to the Timebase: FREE ends when a port becomes eligible; LOCKED becomes
HOLDOVER when the parent port leaves an eligible state (Table 11-2). -/
def tbPort (s : State) (p : PortId) (st : Nat) : State :=
  if tbEligible st then
    if tmbState s = 0 then fset (rootSelf s) (tmbReg 0) 2 0 1 else s
  else
    let s := modPort s p (fun x => { x with announce := none, tbReq := none, tbMeas := none
                                            mgmtq := x.mgmtq.filter (fun k => decide (k.type ≠ 0x13)) })
    if tmbState s = 3 ∧ tmbParent s = p.val then
      fset { s with tb := { s.tb with holdSince := now s } } (tmbReg 0) 2 0 4
    else s

/-- A TIMEBASE packet as it departs: the present announcement, and t3 in an RSP; a REQ's t1 is recorded (R336). -/
def tbDepart (s : State) (k : Packet) : Packet :=
  if k.type = 0x13 then
    { k with w3 := curAnn s
             payload := if k.type0 / 2 ^ 28 = 2 then k.payload.take 10 ++ leBytes 10 (tbStamp s) ++ List.replicate 12 0
                        else k.payload }
  else k

/-- A port passes to a state with a REASON, and tells its partner (R282). -/
def enterState (s : State) (p : PortId) (st reason : Nat) : State :=
  let s := fset (fset s (lnkReg p.val 0) 3 0 st) (lnkReg p.val 0) 43 40 reason
  peerState (tbPort s p st) p 0 false

end Sys2Proof.Machine
end

