-- ==== Sys2Proof/Machine/Faults.lean ====
section
/-! DEFINITION. Error records and Fault Record Queues, the Step Seal's marks and close, teardown, the
resets and their escalation (R108, R325 to R327, R380 to R396). -/

namespace Sys2Proof.Machine

/-! ### Records (R381, R382, R384, R406) -/

/-- A detected error or event: KIND, class, UNIT, owner, core and detail words (Tables 13-2 to 13-4). -/
structure Err where
  kind : Nat
  cls : Nat
  unit : Nat
  gal : Option Gal := none
  core : Option CoreId := none
  d0 : Word := 0
  d1 : Word := 0
  d2 : Word := 0
  d3 : Word := 0

/-- A translation fault of class FMAP_UE is of KIND 0x0E, class 5, and keeps the detail of KIND 0x03 (R255, Table 13-2; log
entry 97). -/
def Err.ofWalk (e : Err) (cls : Nat) : Err := if cls = 4 then { e with kind := 0x0E, cls := 5 } else e

/-- The KINDs that Table 13-2 reports to a Fault Record Queue, and to the Condition Report. -/
def toFrq (k : Nat) : Bool := [1, 2, 3, 4, 5, 6, 8, 0x0B, 0x13, 0x14, 0x16, 0x17, 0x18].contains k
def toCr (k : Nat) : Bool :=
  [1, 4, 5, 6, 8, 0x0A, 0x0B, 0x0C, 0x0D, 0x0E, 0x10, 0x11, 0x12, 0x13, 0x14, 0x17, 0x18, 0x19, 0x1A, 0x1B,
    0x1C, 0x1D, 0x1E, 0x20, 0x21, 0x22, 0x23, 0x24, 0x25, 0x26, 0x27].contains k

/-- Word 0 of an entry (Table 13-3). -/
def entryW0 (e : Err) (nest cls seq : Nat) : Word :=
  mkWord [(63, 1), (60, nest), (56, cls), (48, e.kind), (44, e.unit),
    (43, b1 e.gal.isSome), (40, (e.gal.map (fun g => g.val)).getD 0),
    (39, b1 e.core.isSome), (32, (e.core.map (fun c => c.val)).getD 0), (0, seq % 2 ^ 32)]

def mkEntry (s : State) (e : Err) (nest cls seq : Nat) : FEntry :=
  ⟨entryW0 e nest cls seq, BitVec.ofNat 64 (now s), e.d0, e.d1, e.d2, e.d3⟩

/-- Word 6 of a Condition Report record (Table 13-3). -/
def crWord6 (s : State) : Word :=
  mkWord [(48, if catValid s then coord s else 0), (32, vintage s), (0, s.cr.boots % 2 ^ 32)]

/-- Write a record; the general ring holds 6,144 and overwrites its oldest (R406). -/
def crWrite (s : State) (kind : Nat) (e : FEntry) : State :=
  let r : CrRec := ⟨e, crWord6 s⟩
  if kind = 0x0A ∨ kind = 0x0D then { s with cr := { s.cr with pinned := s.cr.pinned ++ [r] } }
  else
    let g := s.cr.general ++ [r]
    if g.length > 6144 then
      { s with cr := { s.cr with general := g.drop 1
                                 overwritten := min (s.cr.overwritten + 1) (2 ^ 32 - 1) } }
    else { s with cr := { s.cr with general := g } }

/-- The queue of an owner: Gallery g's queue g, or the device queue 8 (R383). -/
def frqOf : Option Gal → Fin 9
  | none => 8
  | some g => g.castLE (by decide)

def setFrq (s : State) (q : Fin 9) (f : Frq) : State := { s with frq := s.frq.set q f }

/-- Assign the next SEQ (R382). -/
def takeSeq (s : State) : Nat × State := (s.cr.head + 1, { s with cr := { s.cr with head := s.cr.head + 1 } })

/-- Errors that Table 13-2 reports only to counters take a SEQ each as well (R382). -/
def countedN (s : State) (n : Nat) : State := { s with cr := { s.cr with head := s.cr.head + n } }
def counted (s : State) : State := countedN s 1

/-- Put an entry into its queue; a full queue counts it and writes KIND 0x1B (R384). -/
def frqPush (s : State) (q : Fin 9) (e : FEntry) (cls : Nat) (g : Option Gal) : State :=
  let f := s.frq[q]
  if f.ents.length < 8 then setFrq s q { f with ents := f.ents ++ [e] }
  else
    let s := setFrq s q { f with ovf := min (f.ovf + 1) 255 }
    let t := takeSeq s
    let x : Err := { kind := 0x1B, cls := cls, unit := 13, gal := g }
    crWrite t.2 0x1B (mkEntry t.2 x 0 cls t.1)

/-- Record an error with the given NEST and class in the places Table 13-2 names. -/
def record (s : State) (e : Err) (nest cls : Nat) : Nat × State :=
  let t := takeSeq s
  let x := mkEntry t.2 e nest cls t.1
  let s := if toFrq e.kind then frqPush t.2 (frqOf e.gal) x cls e.gal else t.2
  (t.1, if toCr e.kind then crWrite s e.kind x else s)

/-- Record an error that is not fatal. -/
def note (s : State) (e : Err) : State := (record s e 0 e.cls).2

/-- Record and tell the Gallery's host with an EVENT FAULT carrying entry words 0 to 5 (R382). -/
def noteFault (s : State) (e : Err) : State :=
  let t := record s e 0 e.cls
  match e.gal with
  | none => t.2
  | some g =>
    galEvent t.2 g 0x04 ((e.core.map (fun c => c.val)).getD 0) [entryW0 e 0 e.cls t.1, BitVec.ofNat 64 (now s), e.d0, e.d1, e.d2, e.d3]

/-! ### Appraisal points (R402, R403) -/

def score (s : State) (c : Nat) : Score := look {} s.scores c
def setScore (s : State) (c : Nat) (x : Score) : State := { s with scores := put {} c x s.scores }

/-- The verdict of a component's advisory (R403, R404): 0 COMPONENT, 1 LINK, 2 DEVICE. A port that is
LOCAL, or not, follows R404. -/
def isLocal (s : State) (c : Nat) : Bool :=
  let x := score s c
  decide (fget s 0x480 47 32 ≤ x.score) &&
    (match x.peerAt with
     | some t => decide (now s ≤ t + 3600000000000) && decide (x.peer < fget s 0x480 31 16)
     | none => false)

/-- The LOCAL ports, by distinct partner coordinate (R404). -/
def localPartners (s : State) : List Nat :=
  ((allPorts.filter (fun p => isLocal s (0x100 + p.val))).map
    (fun p => fget s (lnkReg p.val 0x18) 47 32)).eraseDups

def verdict (s : State) (c : Nat) : Nat :=
  if 0x100 ≤ c ∧ c ≤ 0x10B then
    if !isLocal s c then 1 else if 2 ≤ (localPartners s).length then 2 else 0
  else if (0x110 ≤ c ∧ c ≤ 0x11F) ∨ c = 0x124 then 2
  -- A channel of a group that went OFFLINE (R403); MODE 2 is OFFLINE (Table 8-8).
  else if c < 0x100 ∧ fget s (celReg (c / 16) 0) 31 30 = 2 then 2 else 0

def adviceErr (s : State) (c : Nat) : Err :=
  let p := c - 0x100
  let x := score s c
  { kind := 0x1E, cls := 0, unit := 13
    d0 := mkWord [(0, c), (16, verdict s c)]
    d1 := BitVec.ofNat 64 x.score
    d2 := if 0x100 ≤ c ∧ c ≤ 0x10B then
        mkWord [(0, fget s (lnkReg p 0x18) 47 32), (16, fget s (lnkReg p 0x18) 63 60)] else 0
    d3 := BitVec.ofNat 64 x.peer }

/-- The advisory that a component reaches now. -/
def adviceNow (s : State) (c : Nat) : Advice :=
  let e := adviceErr s c
  ⟨c, now s, e.d0, e.d1, e.d2, e.d3⟩

/-- Write the record of an advisory and send EVENT ADVISORY: what both say is as it was when the component reached
ADVISE (R405). -/
def issueAdvisory (s : State) (a : Advice) : State :=
  let t := takeSeq s
  let e : FEntry := ⟨entryW0 { kind := 0x1E, cls := 0, unit := 13 } 0 0 t.1, BitVec.ofNat 64 a.time, a.d0, a.d1, a.d2, a.d3⟩
  let s := crWrite t.2 0x1E e
  let s := sendEvent s .mgmt 0x11 0 0 0 [e.w0, e.w1, e.w2, e.w3, e.w4, e.w5, crWord6 t.2]
  let x := score s a.comp
  let s := setScore s a.comp { x with advn := min (x.advn + 1) 65535 }
  fincr s 0x498 63 32 1

/-- Against whom an advisory counts: every open Gallery, or the device (number 8) while none is (R405). -/
def advHolders (s : State) : List Nat :=
  let o := (allGals.filter (isOpen s)).map (fun g => g.val)
  if o = [] then [8] else o

/-- Is an advisory allowed now: fewer than RATE in the last 60 minutes for each holder? -/
def advAllowed (s : State) : Bool :=
  (advHolders s).all (fun h =>
    decide ((s.advTimes.filter (fun t => t.1 = h ∧ now s < t.2 + 3600000000000)).length < fget s 0x480 63 56))

/-- Issue an advisory, or defer it; one deferred already for its component is replaced in its place (R405). -/
def advise (s : State) (c : Nat) : State :=
  let a := adviceNow s c
  if advAllowed s then
    issueAdvisory { s with advTimes := s.advTimes ++ (advHolders s).map (fun h => (h, now s)) } a
  else if s.deferred.any (fun d => decide (d.comp = c)) then
    { s with deferred := s.deferred.map (fun d => if d.comp = c then a else d) }
  else { s with deferred := s.deferred ++ [a] }

/-- Add points to a component: the score saturates, and WARN and ADVISE act when reached (R402, R403). -/
def appraise (s : State) (c n : Nat) : State :=
  let x := score s c
  let v := min (x.score + n) 65535
  let warn := fget s 0x480 31 16
  let adv := fget s 0x480 47 32
  let newWarn := decide (x.score < warn ∧ warn ≤ v)
  let newAdv := decide (x.score < adv ∧ adv ≤ v) && !x.advised
  let s := setScore s c { x with score := v, advised := x.advised || newAdv }
  let s := if newWarn then note s (adviceErr s c) else s
  if newAdv then advise s c else s

/-! ### Step Seal (R108 to R111, R325 to R327) -/

/-- REASON bits (Table 3-14). -/
def rsnNan : BitVec 8 := 1
def rsnPoison : BitVec 8 := 2
def rsnSram : BitVec 8 := 4
def rsnPeer : BitVec 8 := 8
def rsnSmark : BitVec 8 := 16
def rsnMismatch : BitVec 8 := 32

def SealSt.code : SealSt → Nat
  | .idle => 0 | .open => 1 | .closing => 2 | .clean => 3 | .dirty => 4

/-- The result word (Table 3-14). -/
def sealWord (x : Seal) : Word :=
  mkWord [(48, (x.sw.getD 0).toNat), (16, x.step.toNat), (8, x.reason.toNat), (3, b1 x.advanced),
    (0, x.st.code)]

/-- A report against the Gallery on this device: it marks the open step, or the next one opened (R108).
The first smark of a step gives its SWREASON. -/
def sealMark (s : State) (g : Gal) (r : BitVec 8) (sw : Option (BitVec 8)) : State :=
  modSeal s g (fun x =>
    if x.st = .open then { x with reason := x.reason ||| r, sw := x.sw <|> sw }
    else { x with pendReason := x.pendReason ||| r, pendSw := x.pendSw <|> sw })

/-- Open a step: pending marks and kept packets of that step become its own (R108, R326). -/
def sealOpen (x : Seal) (step : BitVec 32) (c : CoreId) : Seal :=
  let kept := decide (x.otherStep = some step)
  { x with st := .open, step := step, reason := x.pendReason, sw := x.pendSw, advanced := false
           parts := [c], gone := [], pendReason := 0, pendSw := none, phase := 0, gathered := false, tc := 0, sent := []
           cur := if kept then x.other else []
           otherStep := if kept then none else x.otherStep
           other := if kept then [] else x.other
           cleanWait := false, torn := false }

/-- The SEAL packets of one phase to every other member of its ring (R326). -/
def sendPhase (s : State) (g : Gal) (ph : Nat) (r : BitVec 8) (tc : Nat) : State :=
  (otherMembers s g ph).foldl (fun s k =>
    inject s (mkPacket s g 0x04 (member s g ph k) s.gal[g].stepSeal.step.toNat
      (mkWord [(16, ph), (8, r.toNat)]) (leBytes 8 tc) 0)) s

/-- The seal IDLE, with no mark, no notice and a result word of zero; the steps decided stay known (Table 13-8,
step 4, Table 3-14). -/
def sealReset (x : Seal) : Seal :=
  { decided := x.decided, lastDecided := x.lastDecided, otherStep := x.otherStep, other := x.other }

/-- A close decided: the outcome, its REASON, and what it writes (R327, Table 10-10). With a T_eff, a
LOSS notice detected after T_eff − 100 µs is kept for the next close; every other one is used up. -/
def sealDecide (s : State) (g : Gal) (clean : Bool) (r : BitVec 8) (teff : Option Nat) : State :=
  let x := s.gal[g].stepSeal
  let y : Seal := { x with
    st := if clean then .clean else .dirty, reason := r, parts := [], advanced := false
    lastDecided := some x.step, decided := x.decided ++ [x.step]
    cur := [], sent := [], gathered := false, cleanWait := false
    losses := match teff with
      | some t => x.losses.filter (fun l => decide (t < l.1 + 100000))
      | none => [] }
  let s := modSeal s g (fun _ => y)
  let st := colGal g.val 0x20
  let s := fset (fset (fset s st 63 32 x.step.toNat) st 15 8 r.toNat) st 27 20 (y.sw.getD 0).toNat
  let s := if clean then s
    else galEvent s g 0x03 0 [sealWord y, rget s (colGal g.val 0x28)]
  let s := if clean && x.torn then
      noteFault s { kind := 0x17, cls := 2, unit := 4, gal := some g
                    d0 := BitVec.ofNat 64 x.step.toNat, d1 := rget s st }
    else s
  if x.idleAfter then modSeal s g sealReset else modSeal s g (fun z => { z with torn := false })

/-- The losses a close at T_eff counts: detection at or before T_eff − 100 µs (R327). -/
def countedLoss (x : Seal) (teff : Nat) : Bool := x.losses.any (fun l => decide (l.1 + 100000 ≤ teff))

/-- The phases complete: T_eff, and a close that is already late (R327). -/
def sealGathered (s : State) (g : Gal) : State :=
  let x := s.gal[g].stepSeal
  let teff := x.tc + fget s (colGal g.val 0x18) 13 0 * 1000
  let s := rset s (colGal g.val 0x28) (BitVec.ofNat 64 teff)
  if teff < now s then
    let s := fbit s (colGal g.val 0x20) 19
    let s := sealDecide s g false (x.reason ||| rsnPeer) (some teff)
    noteFault s { kind := 0x18, cls := 2, unit := 4, gal := some g
                  d0 := BitVec.ofNat 64 x.step.toNat, d1 := rget s (colGal g.val 0x20) }
  else modSeal s g (fun y => { y with gathered := true })

/-- Enter phases as far as the packets allow; axes of ring length 1 are skipped (R326). -/
def sealAdvance : Nat → State → Gal → State
  | 0, s, _ => s
  | fuel + 1, s, g =>
    let x := s.gal[g].stepSeal
    if x.st ≠ .closing ∨ x.gathered then s
    else if 4 ≤ x.phase then sealGathered s g
    else if galRing s g x.phase ≤ 1 then
      sealAdvance fuel (modSeal s g (fun y => { y with phase := y.phase + 1 })) g
    else
      let entered := x.sent.any (fun e => decide (e.1 = x.phase))
      let s := if entered then s else
        sendPhase (modSeal s g (fun y => { y with sent := y.sent ++ [(y.phase, y.reason, y.tc)] }))
          g x.phase x.reason x.tc
      let need := (otherMembers s g x.phase).map (member s g x.phase)
      let got := x.cur.filter (fun p => decide (p.phase = x.phase))
      if need.all (fun c => got.any (fun p => decide (p.src.toNat = c))) then
        let ins := got.filter (fun p => need.contains p.src.toNat)
        sealAdvance fuel (modSeal s g (fun y =>
          { y with phase := y.phase + 1
                   reason := ins.foldl (fun r p => r ||| p.reason) y.reason
                   tc := ins.foldl (fun t p => max t p.tc) y.tc })) g
      else s

/-- The device forms and sends its contribution; the seal enters CLOSING (R325). -/
def sealContribute (s : State) (g : Gal) : State :=
  let s := modSeal s g (fun x => { x with st := .closing, tc := now s, phase := 0, gathered := false, sent := [] })
  sealAdvance 6 s g

/-! ### Collective queues and Racking queues killed (R227, R323) -/

/-- A COLL_CTRL packet (Table 10-7): KIND 1 READY, 2 ABORT, 3 LOSS. -/
def ctrlPacket (s : State) (g : Gal) (dst : Nat) (opseq q axis kind : Nat) (type1 : Word)
    (payload : List Byte) : Packet :=
  mkPacket s g 0x02 dst (opseq * 65536 + q * 4096 + axis * 1024 + kind * 16) type1 payload 0

/-- ABORT with a STATUS to every other member of an operation's ring. -/
def abortOp (s : State) (g : Gal) (q : Nat) (o : CollOp) (st : Nat) : State :=
  (otherMembers s g o.fn.axis.val).foldl (fun s k =>
    inject s (ctrlPacket s g (member s g o.fn.axis.val k) o.opseq.toNat q o.fn.axis.val 2
      (BitVec.ofNat 64 st) [])) s

def setCq (s : State) (g : Gal) (q : Fin 16) (x : CQueue) : State :=
  modGal s g (fun y => { y with cq := y.cq.set q x })

/-- Statuses of Table 10-1. -/
def stDone : Nat := 0x00
def stPeerLost : Nat := 0x01
def stKilled : Nat := 0x02
def stTranslation : Nat := 0x03
def stPermission : Nat := 0x04
def stMismatch : Nat := 0x05
def stDropped : Nat := 0x06

/-- What an operation's status reports to the Step Seal (R324). -/
def collSeal (s : State) (g : Gal) (st : Nat) : State :=
  if st = stPeerLost ∨ st = stDropped then sealMark s g rsnPeer none
  else if st = stMismatch ∨ st = stTranslation ∨ st = stPermission then sealMark s g rsnMismatch none
  else s

/-- An operation ends (R307): its record, the completion count, COL_G_OPS, and for a status other than DONE
the Step Seal's report and the KIND 0x16 entry. -/
def collEnd (s : State) (g : Gal) (q : Fin 16) (o : CollOp) (st : Nat) : State :=
  let x := s.gal[g].cq[q]
  let w := mkWord [(40, o.tag.toNat), (16, o.num % 2 ^ 24), (15, b1 o.poisoned), (0, st)]
  let s := setCq s g q { x with
    ops := x.ops.filter (fun p => decide (p.num ≠ o.num))
    count := x.count + 1
    records := x.records.set ((o.num + 31) % 32) w (Nat.mod_lt _ (by decide)) }
  let s := { s with slices := s.slices.map (fun l => l.filter (fun k => decide (¬(k.gal = g ∧ k.q = q ∧ o.stalled = true))))
                    walker := { s.walker with stalls := s.walker.stalls.filter (fun k =>
                      decide (¬(k.req = .slice (Fin.ofNat 4 q.val) ∧ k.gal = g ∧ k.q = q.val ∧ o.started = true))) } }
  if st = stDone then fincr s (colGal g.val 0x10) 31 0 1
  else
    let s := spoilDest s g o
    let s := collSeal (fincr s (colGal g.val 0x10) 63 32 1) g st
    note s { kind := 0x16, cls := 0, unit := 4, gal := some g, core := some o.core
             d0 := BitVec.ofNat 64 q.val, d1 := w }

/-- End every operation of a queue with KILLED (R323). -/
def killQueue (s : State) (g : Gal) (q : Fin 16) : State :=
  (s.gal[g].cq[q].ops).foldl (fun s o => collEnd (abortOp s g q.val o stKilled) g q o stKilled) s

def allQueues : List (Fin 16) := (List.range 16).map (fun i => BitVec.toFin (BitVec.ofNat 4 i))

def killQueues (s : State) (g : Gal) (mask : Nat) : State :=
  (allQueues.filter (fun q => mask.testBit q.val)).foldl (fun s q => killQueue s g q) s

/-- The address of a slot of a core's ring (R208, Table 7-11). -/
def ringSlot (s : State) (n : CoreId) (q : Fin 2) (i : Nat) : Nat :=
  let r := rget s (rkgReg n.val (0x008 + 8 * q.val))
  let base := if bits r 31 30 = 1 then caskBase n.val else reserveBase (clusterOf n)
  base + bits r 23 8 * 256 + 256 * (i % 2 ^ bits r 3 0)

/-- ENQ and DONE of a queue (Table 7-10). -/
def enqOff (n : CoreId) (q : Fin 2) : Nat := rkgReg n.val (0x018 + 8 * q.val)
def doneOff (n : CoreId) (q : Fin 2) : Nat := rkgReg n.val (0x028 + 8 * q.val)
def enqCount (s : State) (n : CoreId) (q : Fin 2) : Nat := fget s (enqOff n q) 47 0
def doneCount (s : State) (n : CoreId) (q : Fin 2) : Nat := fget s (doneOff n q) 47 0

def setRq (s : State) (n : CoreId) (q : Fin 2) (x : RQueue) : State :=
  modCore s n (fun c => { c with rq := c.rq.set q x })

/-- Does a snoop tap channel take the bytes of a descriptor of queue `q` with this TAG? (R374) -/
def chkMatches (c : ChkCh) (q : Fin 2) (tag : Nat) : Bool :=
  c.started && decide (bits c.ctl 3 2 ≠ 0 ∧ bits c.ctl 4 4 = q.val
    ∧ tag &&& bits c.ctl 39 16 = bits c.ctl 63 40 &&& bits c.ctl 39 16)

/-- Does the descriptor feed a channel: its elements on the channel's side exist and are not FP4? -/
def chkFeeds (c : ChkCh) (d : RDesc) : Bool :=
  if bit c.ctl 5 then decide (bits d.tb 223 220 ≠ 7) else decide (d.kind ≠ 3 ∧ bits d.ta 223 220 ≠ 7)

/-- A channel consumes bytes while a descriptor that feeds it is being walked: started, not stopped (R379, log
entry 96). -/
def chkBusy (s : State) (n : CoreId) (ch : Fin 4) : Bool :=
  let c := (coreAt s n).chk[ch]
  ([0, 1] : List (Fin 2)).any (fun q =>
    let x := (coreAt s n).rq[q]
    match x.cur with
    | some d => !x.held && !x.tfault && !x.mstall && chkMatches c q d.tag.toNat && chkFeeds c d
    | none => false) && !bit (rget s (chkReg n.val ch.val 8)) 3

/-- A fed descriptor ends with KILLED or a FAILED status: its channels are INCOMPLETE (R376). -/
def chkIncomplete (s : State) (n : CoreId) (q : Fin 2) (d : RDesc) : State :=
  ([0, 1, 2, 3] : List (Fin 4)).foldl (fun s ch =>
    let c := (coreAt s n).chk[ch]
    let st := chkReg n.val ch.val 8
    if chkMatches c q d.tag.toNat && chkFeeds c d && !bit (rget s st) 3 then fbit s st 5 else s) s

/-- The oldest incomplete descriptor of a queue that has started, a restored one being read from its ring entry. -/
def startedDesc (s : State) (n : CoreId) (q : Fin 2) : Option RDesc :=
  let x := (coreAt s n).rq[q]
  if x.reload then parseEntry s.mem (ringSlot s n q (doneCount s n q)) else x.cur

/-- Write the record of the oldest incomplete descriptor over its header, free the slot (R221, Table 7-7).
RKG_PROGRESS keeps the point reached until the next descriptor starts. -/
def writeRecord (s : State) (n : CoreId) (q : Fin 2) (status : Nat) : State :=
  let x := (coreAt s n).rq[q]
  let d := doneCount s n q
  let a := ringSlot s n q d
  let tag := match x.cur with
    | some r => r.tag.toNat
    | none => leNat (s.mem.bytes a 8) / 2 ^ 40
  let w := mkWord [(40, tag), (16, (d + 1) % 2 ^ 24), (15, b1 x.poisoned), (8, min x.reject 127), (0, status)]
  let s := match startedDesc s n q with
    | some r => if 2 ≤ status ∧ (x.row ≠ 0 ∨ x.elem ≠ 0) then chkIncomplete s n q r else s
    | none => s
  let s := { s with mem := s.mem.store a (leBytes 8 w.toNat) false
                    walker := { s.walker with stalls := s.walker.stalls.filter (fun x => decide (x.req ≠ .racking n q)) } }
  let s := setRq s n q { row := x.row, elem := x.elem }
  fincr s (doneOff n q) 47 0 1

/-- The active descriptor of a queue stops: its lines beyond RKG_PROGRESS are each old or new. Where the Gallery is
being torn down its generation rises next, and a free number of its late writes is discarded and counted (R227). -/
def stopActive (s : State) (n : CoreId) (q : Fin 2) : State :=
  let x := (coreAt s n).rq[q]
  match x.cur with
  | none => s
  | some d =>
    if x.held || x.tfault || x.mstall then s
    else
      let k := killMoves s n d x
      let psn := k.1.written.any (fun w => w.2.2)
      let late := match coreOwner s n with
        | some g => if s.gal[g].tear = .none then 0 else (Config.freeWord s.free).toNat % (k.2 + 1)
        | none => 0
      let s := setRq { s with mem := (settlePoison k.1 x).1, free := s.free + 1 } n q
        { x with poisoned := x.poisoned || psn }
      let s := if psn then fbit s (rkgReg n.val 0) 14 else s
      fincr (fincr s (rkgReg n.val 0x68) 63 0 (cdiv k.1.bits 8)) rkgSched 31 0 late

/-- KILLED records for the active descriptor and all behind it. -/
def killRecords : Nat → State → CoreId → Fin 2 → State
  | 0, s, _, _ => s
  | fuel + 1, s, n, q =>
    if doneCount s n q < enqCount s n q then killRecords fuel (writeRecord s n q 0x02) n q
    else s

/-- KILL of a queue (R227). -/
def killRacking (fuel : Nat) (s : State) (n : CoreId) (q : Fin 2) : State :=
  killRecords fuel (stopActive s n q) n q

/-- The two queues of a core killed. -/
def killPair (s : State) (n : CoreId) : State := killRacking 257 (killRacking 257 s n 0) n 1

/-! ### A core emptied or cleared -/

/-- KILL of a context, and step 5 of a teardown: the context is discarded (R70). -/
def emptyCore (s : State) (n : CoreId) : State :=
  modCore s n (fun c =>
    { c with mq := [], state := .empty, hold := none, launchat := 0, launchPend := false, nanWait := false, preq := false
             rq := c.rq.map (fun x => { x with held := false }) })

/-- Step 1 of a teardown: issue stops and the matrix queue is discarded. -/
def stopCore (s : State) (n : CoreId) : State :=
  modCore s n (fun c =>
    { c with mq := [], hold := none
             state := if c.state = .run ∨ c.state = .wait then .stopped else c.state
             resumepc := if c.state = .run ∨ c.state = .wait then c.pc else c.resumepc })

/-- Every register, buffer and queue of a core at its reset value (Table 13-6); its cycle count restarts. -/
def clearCore (s : State) (n : CoreId) : State :=
  let s := setCore s n { cycleBase := s.clk }
  let s := rclear s (engReg n.val 0) (engReg n.val 0x1000)
  let s := rclear s (vecReg n.val 0) (vecReg n.val 0x1000)
  let s := rclear s (rkgReg n.val 0) (rkgReg n.val 0x1000)
  let s := rclear s (chkReg n.val 0 0) (chkReg n.val 0 0x1000)
  { s with mem := s.mem.clear (caskBase n.val) (2 ^ 23), engLog := s.engLog.set n []
           pins := { s.pins with slewRefused := s.pins.slewRefused &&& ~~~((1 : BitVec 128) <<< n.val) } }

/-- The clusters of a Gallery cleared: cores, Reserve, reduction unit (Table 13-8, step 3). -/
def clearClusters (s : State) (g : Gal) : State :=
  let s := (galCores s g).foldl clearCore s
  (List.range 16).foldl (fun s c =>
    if ownsCluster s g c then
      { rset s (cruReg c) 0 with
        mem := s.mem.clear (reserveBase c) (2 ^ 24)
        resLog := s.resLog.set (BitVec.toFin (BitVec.ofNat 4 c)) []
        cruLog := s.cruLog.set (BitVec.toFin (BitVec.ofNat 4 c)) [] }
    else s) s

/-! ### Streams ended by a teardown or reset (R373) -/

/-- A stream stops: its outstanding NVMe commands go on, and their data is discarded. -/
def endStream (s : State) (k : Fin 16) : State :=
  let drop (u : NvmeUse) : NvmeUse := match u with
    | .data i o => if i = k then .dropped else .data i o
    | .flush i => if i = k then .dropped else .flush i
    | .trailer i => if i = k then .dropped else .trailer i
    | u => u
  { s with
    streams := s.streams.set k { s.streams[k] with active := false, late := [], wait := [] }
    -- A trailer not taken yet is sent as zeros: the stream never writes a valid one (R371).
    conns := s.conns.map (fun c => { c with cmds := c.cmds.map (fun m =>
      { m with use := drop m.use, data := if m.use = .trailer k then List.replicate m.data.length 0 else m.data }) })
    walker := { s.walker with stalls := s.walker.stalls.filter (fun x => decide (¬ (x.req = .ethernet ∧ x.q = 16 + k.val))) } }

/-- Connections are closed: the commands that are outstanding are allowed to complete, and nothing comes of them (R373). -/
def closeConns (s : State) (f : Conn → Bool) : State :=
  { s with conns := (s.conns.filter (fun c => !f c || decide (c.cmds ≠ []))).map (fun c =>
      if f c then { c with closing := true, ready := false, cmds := c.cmds.map (fun m => { m with use := .dropped }) } else c) }

/-- End the streams of a Gallery with ABORTED. -/
def abortStreams (s : State) (g : Gal) : State :=
  (List.range 16).foldl (fun s i =>
    let k : Fin 16 := BitVec.toFin (BitVec.ofNat 4 i)
    let x := s.streams[k]
    if x.active ∧ x.gal = g.val then
      let s := endStream s k
      complete s x.ep x.tag (if x.write then 0x11 else 0x12) .aborted (BitVec.ofNat 64 x.done) 0 0
    else s) s

/-! ### Teardown (R393, Table 13-7) -/

/-- Has any core of the Gallery a descriptor started and not ended? -/
def rackingBusy (s : State) (g : Gal) : Bool :=
  (galCores s g).any (fun n => ((coreAt s n).rq[0].cur.isSome && !(coreAt s n).rq[0].held) || ((coreAt s n).rq[1].cur.isSome && !(coreAt s n).rq[1].held))

/-- Steps 4 and 5: the generation rises, queues restart, every core is EMPTY, the seal loses its participants. -/
def teardownEnd (s : State) (g : Gal) : State :=
  let s := (galCores s g).foldl (fun s n => emptyCore (killPair s n) n) s
  let s := rset s (glyReg g.val 0x60) (gen s g + 1)
  let s := modGal s g (fun x => { x with cq := Vector.replicate 16 {}, tear := .none })
  let s := abortStreams s g
  let x := s.gal[g].stepSeal
  if x.st = .open then
    sealContribute (modSeal s g (fun y => { y with parts := [], reason := y.reason ||| rsnSmark, sw := y.sw <|> some 0 })) g
  else if x.st = .closing then modSeal s g (fun y => { y with parts := [], torn := true })
  else modSeal s g (fun y => { y with parts := [] })

/-- Steps 1 to 3: issue stops, matrix queues go, collective queues are killed; started descriptors may
run on until they end or TEARDOWN_RACKING_KILL comes. -/
def teardownBegin (s : State) (g : Gal) : State :=
  if s.gal[g].tear ≠ .none then s
  else
    let s := (galCores s g).foldl stopCore s
    let s := killQueues s g 0xFFFF
    let s := modGal s g (fun x => { x with tear := .draining })
    -- No replay outlives the contexts of its Gallery.
    if s.replay.active ∧ s.replay.gallery = g then { s with replay := {} } else s

/-! ### Resets (R391 to R396) -/

/-- A link frame that carries one packet and nothing else (R272). -/
def slotBytes (p : Packet) : List Byte :=
  leBytes 8 p.w0.toNat ++ leBytes 8 p.w1.toNat ++ leBytes 8 p.w2.toNat ++ leBytes 8 p.w3.toNat ++ p.payload

/-- The 32-byte slots of a run of bytes. -/
def toSlots : Nat → List Byte → List (BitVec 256)
  | 0, _ => []
  | n + 1, bs => BitVec.ofNat 256 (leNat (bs.take 32)) :: toSlots n (bs.drop 32)

/-- A frame's trailer with its CRC (Table 9-3). -/
def mkFrame (slots : List (BitVec 256)) (seq ack : Nat) (nak recov : Bool) (cvc cred : Nat) : Frame :=
  let t := mkWord [(52, seq), (40, ack), (39, b1 nak), (38, b1 recov), (34, cvc), (24, cred)]
  let bs := slots.flatMap (fun w => leBytes 32 w.toNat)
  -- The CRC runs over the slot bytes and trailer bits [63:24], lowest byte first.
  let c := crc24 (bs ++ (leBytes 8 t.toNat).drop 3)
  ⟨slots, t ||| BitVec.ofNat 64 c.toNat⟩

/-- PEER_STATE with CHIPRST on every working port, then transmission stops (R283). -/
def announceChipReset (s : State) : State :=
  allPorts.foldl (fun s p =>
    if portWorks s p then
      let x := s.ports[p]
      let pkt := mkMgmt 0x12 0 (mkWord [(16, linkState s p), (0, 1)]) []
      emit s (.frame p (mkFrame (toSlots 8 (slotBytes pkt)) x.txSeq x.ackOwed false false 0 0))
    else s) s

/-- The device as a chip reset leaves it: everything but the Condition Report, the Cellar's data bytes,
the PUF pattern, the flash, the pins and PWR_STATUS.TRIPPED (R391, R396, R416, R447). -/
def chipCleared (s : State) : State :=
  { State.reset with
    pending := s.pending
    mem := { cells := s.mem.cells.filter (fun c => decide (c.1 < cellarEnd))
             poison := s.mem.poison.filter (fun l => decide (l < cellarEnd / 64)) }
    dev := put (regReset (pwrReg 0)) (pwrReg 0) (rget s (pwrReg 0) &&& 0x4000) []
    cores := Vector.replicate 128 { cycleBase := s.clk }
    clk := s.clk, free := s.free, regOut := s.regOut, cr := s.cr, out := s.out
    prov := { flash := s.prov.flash, pufCount := s.prov.pufCount }
    pins := { s.pins with jtag := none, sameRuns := Vector.replicate 40 0, loopCeil := 8
                          avsRaised := none, avsLowered := none, slewRefused := 0, slewLast := 127 } }

/-- The retirement records of the Condition Report, to be applied again (R248). -/
def pinnedRetirements (s : State) : List (Word × Word) := s.cr.pinned.map (fun r => (r.ent.w2, r.ent.w3))

/-- A chip reset begins (Table 13-9): CAUSE and the KIND 0x1D record, CHIPRST to the neighbours, every
block held in reset. -/
def chipReset (s : State) (cause seq : Nat) : State :=
  let s := { s with cr := { s.cr with cause := cause } }
  let s := note s { kind := 0x1D, cls := 0, unit := 13
                    d0 := mkWord [(0, 2), (8, cause)], d1 := BitVec.ofNat 64 seq }
  let s := announceChipReset s
  let t := chipCleared s
  { t with chipHold := some 0, retire := pinnedRetirements s }

/-- Does a running reset cover a requested scope (R392)? -/
def resetCovers : Option (Scope × Nat × Nat) → Scope → Bool
  | some (.gallery, _, _), _ => true
  | some (.compute, _, _), .compute => true
  | _, _ => false

/-- A reset of a Gallery begins (Table 13-8, steps 1 and 2). A reset whose scope covers the request is
left to run; a larger one supersedes a smaller one (R392). -/
def galReset (s : State) (g : Gal) (sc : Scope) (cause seq : Nat) : State :=
  if resetCovers s.gal[g].reset sc then s
  else
    let s := if sc = .gallery then
        allPorts.foldl (fun s p => if portWorks s p then peerState s p (2 ^ g.val) false else s) s
      else s
    let s := fbit s (glyReg g.val 0) 5
    -- One that supersedes a compute reset past its teardown performs the teardown and steps 3 and 4 anew.
    let s := modGal s g (fun x => { x with reset := some (sc, cause, seq)
                                           tear := if x.tear = .clearing then .none else x.tear })
    let s := teardownBegin s g
    note s { kind := 0x1D, cls := 0, unit := 13, gal := some g
             d0 := mkWord [(0, if sc = .gallery then 1 else 0), (8, cause)], d1 := BitVec.ofNat 64 seq }

/-- The clusters cleared once a reset's teardown has ended (Table 13-8, steps 3 and 4). -/
def resetClear (s : State) (g : Gal) : State :=
  let s := clearClusters s g
  let s := modGal s g (fun x => { x with fired := false, nanQ := [], tear := .clearing })
  let s := fset s (glyReg g.val 0) 4 4 0
  let s := rclear s (glyReg g.val 0x70) (glyReg g.val 0x90)
  let s := setFrq s (frqOf (some g)) {}
  modSeal s g (fun x => if x.st = .closing then { x with idleAfter := true, pendReason := 0, pendSw := none }
    else sealReset x)

/-- Step 2 ended: the descriptors are done or killed, the teardown finishes; a reset goes on to clear. -/
def teardownFinish (s : State) (g : Gal) : State :=
  let s := teardownEnd s g
  if s.gal[g].reset.isSome then resetClear s g else s

/-- Start a teardown, and end it at once when no descriptor runs. -/
def teardown (s : State) (g : Gal) : State :=
  let s := teardownBegin s g
  if s.gal[g].tear = .draining ∧ rackingBusy s g = false then teardownFinish s g else s

/-- Start a reset of a Gallery, and go on as far as no descriptor delays it. -/
def startReset (s : State) (g : Gal) (sc : Scope) (cause seq : Nat) : State :=
  let s := galReset s g sc cause seq
  if s.gal[g].tear = .draining ∧ rackingBusy s g = false then teardownFinish s g else s

/-! ### Reports and escalation (R383 to R386) -/

/-- Has the Curator begun a teardown or a reset for the Gallery? -/
def tearing (s : State) (g : Gal) : Bool := decide (s.gal[g].tear ≠ .none) || s.gal[g].reset.isSome

/-- Is a Gallery reset of the Gallery running? -/
def galResetting (s : State) (g : Gal) : Bool :=
  match s.gal[g].reset with
  | some (.gallery, _, _) => true
  | _ => false

/-- The class an error is recorded with: an entry of a context being torn down is no second fault (R386). -/
def effClass (s : State) (e : Err) : Nat :=
  match e.gal with
  | some g => if tearing s g ∧ [1, 2, 3, 0x16].contains e.kind then 0 else e.cls
  | none => e.cls

/-- The KIND 0x1C record of an escalation. -/
def escRecord (s : State) (g : Option Gal) (nest scope seq handling : Nat) : State :=
  (record s { kind := 0x1C, cls := 0, unit := 13, gal := g, d0 := BitVec.ofNat 64 scope
              d1 := BitVec.ofNat 64 seq, d2 := BitVec.ofNat 64 handling } nest 0).2

/-- Record an error, and let a fatal one set HANDLING, start its reset or escalate (R383 to R385). -/
def report (s : State) (e : Err) : State :=
  let cls := effClass s e
  if cls < 3 ∨ e.kind = 0x23 then (record s e 0 cls).2
  else
    let q := frqOf e.gal
    let f := s.frq[q]
    let busy := f.handling || decide (8 ≤ f.ents.length)
    match e.gal with
    | some g =>
      if galResetting s g then
        let t := record s e 2 cls
        chipReset (escRecord t.2 (some g) 2 2 t.1 f.cause) 3 t.1
      else if cls = 5 then
        let t := record s e 0 cls
        chipReset t.2 4 t.1
      else if busy then
        let t := record s e 1 cls
        startReset (escRecord t.2 (some g) 1 1 t.1 f.cause) g .gallery 3 t.1
      else
        let t := record s e 0 cls
        let s := setFrq t.2 q { t.2.frq[q] with handling := true, cause := t.1 }
        if cls = 4 then startReset s g .gallery 4 t.1 else s
    | none =>
      if cls = 5 ∨ cls = 4 then
        if busy then
          let t := record s e 1 cls
          chipReset (escRecord t.2 none 1 2 t.1 f.cause) 3 t.1
        else
          let t := record s e 0 cls
          chipReset t.2 4 t.1
      else if busy then
        let t := record s e 1 cls
        chipReset (escRecord t.2 none 1 2 t.1 f.cause) 3 t.1
      else
        let t := record s e 0 cls
        setFrq t.2 q { t.2.frq[q] with handling := true, cause := t.1 }

end Sys2Proof.Machine
end

