-- ==== Sys2Proof/Machine/Issue.lean ====
section
/-! DEFINITION. Translation, memory windows, taking an exception and issuing an instruction
(R43 to R46, R61 to R65, R73, R116, R250 to R256). -/

namespace Sys2Proof.Machine

/-! ### Accesses that wait on a migration (R256) -/

/-- An access begins to wait on a migrating frame (R256); one that waits already is not listed twice. -/
def addStall (s : State) (r : WalkReq) (g : Gal) (a : Nat) (write fetch : Bool) (q : Nat) : State :=
  let w := s.walker
  if w.stalls.any (fun x => decide (x.req = r ∧ x.gal = g ∧ x.addr = BitVec.ofNat 48 a ∧ x.q = q)) then s
  else
    { s with walker := { w with
        stalls := w.stalls ++ [{ id := w.nextId, req := r, gal := g, addr := BitVec.ofNat 48 a, write := write
                                 since := now s, fetch := fetch, q := q }]
        nextId := w.nextId + 1 } }

/-- The stalls of a requester end: its access went on or was abandoned. -/
def dropStalls (s : State) (r : WalkReq) : State :=
  { s with walker := { s.walker with stalls := s.walker.stalls.filter (fun x => decide (x.req ≠ r)) } }

/-! ### Exceptions (R61 to R63, Table 2-12) -/

/-- An exception: code, ecause.SRC, eaddr, einfo, and the fault class of a translation fault (Table 8-4). -/
structure Exc where
  code : Nat
  src : Nat := 0
  eaddr : Word := 0
  einfo : Word := 0
  fclass : Nat := 0
  deriving DecidableEq, Repr

def excIllegal : Exc := { code := 0x01 }
def excPrivilege : Exc := { code := 0x02 }
def excAccess (ea : Nat) : Exc := { code := 0x03, eaddr := BitVec.ofNat 64 ea }
def excAddress (ea : Nat) : Exc := { code := 0x04, eaddr := BitVec.ofNat 64 ea }
def excTranslation (ea cls : Nat) : Exc := { code := 0x05, eaddr := BitVec.ofNat 64 ea, fclass := cls }
def excPermission (ea : Nat) : Exc := { code := 0x06, eaddr := BitVec.ofNat 64 ea, fclass := 3 }
/-- DESCRIPTOR with the t register and the failing check (Table 2-15, einfo). -/
def excDescriptor (t chk : Nat) : Exc := { code := 0x07, einfo := mkWord [(0, t), (8, chk)] }
def excQueue : Exc := { code := 0x08 }
def excPoison (ea : Nat) : Exc := { code := 0x0A, eaddr := BitVec.ofNat 64 ea }
def excTimeout : Exc := { code := 0x0C, src := 5 }
def excBreak : Exc := { code := 0x0D }

/-- The DESCRIPTOR exception of a list of failures: the lowest code is recorded (R222). Where several t
registers fail it, the spec does not say which is named (log entry 3). -/
def descFault (s : State) (fails : List (Nat × Nat)) : Option Exc :=
  (lowestCode fails).map (fun c =>
    let regs := (fails.filter (fun f => decide (f.1 = c))).map Prod.snd
    excDescriptor (regs.getD ((Config.freeWord s.free).toNat % regs.length) 0) c)

/-- The KIND of an exception (Table 13-2). -/
def excKind (code : Nat) : Nat :=
  if code = 0x03 ∨ code = 0x0C ∨ code = 0x0D then 0x02
  else if code = 0x05 then 0x03
  else if code = 0x09 then 0x04
  else if code = 0x0B then 0x05 else 0x01

/-- The class of an exception's KIND (Table 13-2). -/
def excClass (code : Nat) : Nat :=
  let k := excKind code
  if k = 0x02 ∨ k = 0x03 then 0 else if k = 0x04 then 2 else 3

/-- The UNIT of an exception's source (Tables 2-18, 13-3). -/
def srcUnit (src : Nat) : Nat := if src = 1 then 1 else if src = 2 then 2 else if src = 3 then 6 else if src = 4 then 4 else 0

/-- The ecause word (Table 2-18). -/
def causeWord (x : Exc) (cls : Nat) (restart : Bool) : Word :=
  mkWord [(16, cls), (9, x.src), (8, b1 restart), (0, x.code)]

/-- The entry of an exception for the Fault Record Queue (Table 13-4). -/
def excErr (s : State) (n : CoreId) (x : Exc) (cause epc : Word) : Err :=
  let k := excKind x.code
  Err.ofWalk (cls := if k = 0x03 then x.fclass else 0)
  { kind := k, cls := excClass x.code, unit := srcUnit x.src, gal := coreOwner s n, core := some n
    d0 := if k = 0x03 then mkWord [(0, x.fclass), (8, if x.src = 3 then 1 else 0), (16, bits x.einfo 3 0)] else cause
    d1 := if k = 0x03 then x.eaddr else epc
    d2 := if k = 0x03 then epc else x.eaddr
    d3 := if k = 0x03 then (if x.src = 3 then 1 else 0) else x.einfo }

/-- POISON and SRAM_UE are reported to the Gallery's Step Seal (R108). -/
def excSeal (s : State) (n : CoreId) (x : Exc) : State :=
  match coreOwner s n with
  | none => s
  | some g =>
    if x.code = 0x0A then sealMark s g rsnPoison none
    else if x.code = 0x0B then sealMark s g rsnSram none
    else s

/-- Is the core running or waiting: can it stop? -/
def live (c : Core) : Bool := decide (c.state = .run ∨ c.state = .wait)

/-- The core stops issue and records the exception, `epc` naming the originating instruction and `resume` the
next to issue; a core already stopped keeps its ecause (R61 to R63). Both keep all 64 bits of the pc (log entry 105). -/
def stopAt (s : State) (n : CoreId) (x : Exc) (cls : Nat) (restart : Bool) (epc resume : Word) : State :=
  if live (coreAt s n) then
    modCore s n (fun c =>
      { c with state := .stopped, hold := none, ecause := causeWord x cls restart, epc := epc, eaddr := x.eaddr
               einfo := if x.code = 0x07 ∨ x.code = 0x09 then x.einfo else 0
               resumepc := resume, pc := resume })
  else s

/-- TAKING AN EXCEPTION: the core stops, and either way the entry goes to the Fault Record Queue (R61 to R63).
The free value that may have chosen the register einfo names is used up (log entry 3). -/
def takeExc (s : State) (n : CoreId) (x : Exc) (cls : Nat) (restart : Bool) (epc resume : Word) : State :=
  let s := { s with free := s.free + 1 }
  let s := stopAt (dropStalls s (.core n)) n x cls restart epc resume
  report (excSeal s n x) (excErr s n x (causeWord x cls restart) epc)

/-- The return from a stop: RESUME restarts issue at resumepc; it refuses while an exception stands (R68).
A launch that still pends is armed again (log entry 103). -/
def resumeCore (s : State) (n : CoreId) : State :=
  let c := coreAt s n
  if (c.state = .stopped ∨ c.state = .halted) ∧ bits c.ecause 7 0 = 0 then
    modCore s n (fun c =>
      let c := { c with pc := c.resumepc, state := .run, hold := none }
      -- A pending timed launch is armed again (R60).
      if c.launchPend then
        if c.launchat.toNat ≤ now s then { c with launchPend := false, launchat := 0, late := true }
        else { c with state := .wait }
      else c)
  else modCore s n (fun c => { c with badcmd := true })

/-! ### Issue (R52, R61, R73) -/

/-- What an instruction does at issue. -/
inductive Eff where
  /-- It completes or is accepted; the pc advances. -/
  | done (s : State)
  /-- A taken branch. -/
  | jump (s : State) (pc : Word)
  /-- A fault: the instruction has no effect. -/
  | fault (x : Exc)
  /-- A completing trap: the instruction has taken effect. -/
  | trap (s : State) (x : Exc)
  /-- Issue holds. -/
  | hold (s : State)
  /-- The core stops without an exception after the instruction (halt). -/
  | halt (s : State)
  /-- A unit exception has stopped the core at this instruction, which has not issued (R224). -/
  | stop (s : State)

/-- May core `n` issue instruction `i` now? A held instruction issues again; a launch has been reached. -/
def canIssue (s : State) (n : CoreId) (i : Instr) : Bool :=
  let c := coreAt s n
  deviceRuns s && live c && !c.nanWait && (!c.launchPend || decide (c.launchat.toNat ≤ now s)) &&
    (match c.hold with
     | none => true
     | some h => decide (h.instr = i))

/-- The fault of fetching at a core's pc, if any (R43, R44, R73); `some none` is a stall on a migrating frame. -/
def fetchFault (s : State) (n : CoreId) : Option (Option Exc) :=
  let pc := (coreAt s n).pc.toNat
  if pc % 8 ≠ 0 ∨ winOf pc 8 ≠ .gallery then some (some { excAddress pc with src := 6 })
  else
    match coreOwner s n with
    | none => some (some { excTranslation pc 1 with src := 6 })
    | some g =>
      match translate s g pc false with
      | .ok pa =>
        if s.mem.isPoisoned (pa / 64) then some (some { excPoison pc with src := 6 }) else none
      | .migrating => some none
      | .fmapUe => some (some { excTranslation pc 4 with src := 6 })
      | _ => some (some { excTranslation pc 1 with src := 6 })

/-- The fetch at the pc waits on a migrating frame. -/
def stallFetch (s : State) (n : CoreId) : State :=
  match coreOwner s n with
  | none => s
  | some g => addStall s (.core n) g (coreAt s n).pc.toNat false true 0

/-- A launch whose moment has come is disarmed as the next instruction issues (R60). -/
def disarm (s : State) (n : CoreId) : State :=
  modCore s n (fun c => if c.launchPend then { c with launchPend := false, launchat := 0 } else c)

/-- A hold ends as its instruction completes; a core with a launch pending waits (R60). -/
def settle (s : State) (n : CoreId) : State :=
  modCore (dropStalls s (.core n)) n (fun c => { c with hold := none, state := if c.launchPend then .wait else .run })

/-- The instruction retires and the pc moves to `pc`. -/
def retireTo (s : State) (n : CoreId) (pc : Word) : State :=
  modCore s n (fun c => { c with pc := pc, retired := c.retired + 1 })

/-- The hold of core `n` begins, or goes on, for instruction `i`. -/
def holdFor (s : State) (n : CoreId) (i : Instr) : State :=
  modCore s n (fun c =>
    { c with state := .wait
             hold := match c.hold with
               | some h => some h
               | none => some { instr := i, since := now s } })

/-- The issue class recorded where the fetch itself fails, so that no word is known: free (R62, R73,
log entry 16). -/
def freeClass (s : State) : Nat := (Config.freeWord s.free).toNat % 8

/-- Issue instruction `i` of class `cls` on core `n`, with effect `f`. A core that cannot issue it now
does nothing. The class of a failed fetch is free (log entry 16). -/
def issueCore (n : CoreId) (i : Instr) (cls : Nat) (f : State → Eff) (s : State) : State :=
  if canIssue s n i then
    let s := disarm s n
    let pc := (coreAt s n).pc
    match fetchFault s n with
    | some (some x) => takeExc s n x (freeClass s) true pc pc
    | some none => holdFor (stallFetch s n) n i
    | none =>
      if !i.legal then takeExc s n excIllegal cls true pc pc
      else
      match f s with
      | .done t => retireTo (settle t n) n (pc + 8)
      | .jump t a => retireTo (settle t n) n a
      | .fault x => takeExc s n x cls true pc pc
      | .trap t x => takeExc (retireTo (settle t n) n (pc + 8)) n x cls false pc (pc + 8)
      | .hold t => holdFor t n i
      | .halt t =>
        let t := retireTo (settle t n) n (pc + 8)
        modCore t n (fun c => { c with state := .halted, resumepc := pc + 8 })
      | .stop t => t
  else s

/-- An exception on a management core is a Curator fault: chip reset (Table 13-2, KIND 0x1A). -/
def mgmtExc (s : State) : State := report s { kind := 0x1A, cls := 5, unit := 13 }

/-- May management core `k` issue `i` now? It runs once firmware runs (R418, R421). -/
def mgmtCanIssue (s : State) (k : Fin 4) (i : Instr) : Bool :=
  deviceRuns s && decide (bootState s = 4) && !s.mgmt[k].halted && (!s.mgmt[k].launchPend || decide (s.mgmt[k].launchat.toNat ≤ now s)) &&
    (match s.mgmt[k].hold with
     | none => true
     | some h => decide (h.instr = i))

/-- Issue an instruction on a management core (R51). Its fetch meets no alignment or poison fault, and halt stops it until
the firmware starts again (log entry 8). -/
def issueMgmt (k : Fin 4) (i : Instr) (f : State → Eff) (s : State) : State :=
  if mgmtCanIssue s k i then
    let pc := s.mgmt[k].pc
    let fin (t : State) (a : Word) : State := setMgmt t k { t.mgmt[k] with pc := a, hold := none }
    let s := if s.mgmt[k].launchPend then setMgmt s k { s.mgmt[k] with launchPend := false, launchat := 0 } else s
    if !i.legal then mgmtExc s
    else
    match f s with
    | .done t => fin t (pc + 8)
    | .jump t a => fin t a
    | .fault _ => mgmtExc s
    | .trap t _ => mgmtExc t
    | .hold t => setMgmt t k { t.mgmt[k] with hold := match t.mgmt[k].hold with
        | some h => some h
        | none => some { instr := i, since := now s } }
    | .halt t =>
      let t := fin t (pc + 8)
      setMgmt t k { t.mgmt[k] with halted := true }
    | .stop t => t
  else s

/-- Issue on either kind of core. -/
def issue (h : Hart) (i : Instr) (cls : Nat) (f : State → Eff) (s : State) : State :=
  match h with
  | .core n => issueCore n i cls f s
  | .mgmt k => issueMgmt k i f s

/-- The effect of an instruction that only a context has: on a management core it is ILLEGAL (R51). -/
def ctxOnly (h : Hart) (f : CoreId → State → Eff) (s : State) : Eff :=
  match h with
  | .core n => f n s
  | .mgmt _ => .fault excIllegal

/-- The outcome type of every meaning. -/
abbrev Outc := Host.Outcome State Fault Refusal

end Sys2Proof.Machine
end

