-- ==== Sys2Proof/Machine/Flags.lean ====
section
/-! DEFINITION. Rounding modes, the sticky flags of fpctl, and NaN events (R49, R78, R152, R153, R167 to R172). -/

namespace Sys2Proof.Machine

/-- The rounding mode of fpctl.RM (Table 2-17). -/
def ctlRm (w : Word) : Rm :=
  match bits w 1 0 with
  | 0 => .rn
  | 1 => .rz
  | 2 => .ru
  | _ => .rd

/-- The rounding mode of an RM field (R49). -/
def fieldRm (f : RmField) (n : CoreId) (s : State) : Rm :=
  match f with
  | .dyn => ctlRm (coreAt s n).fpctl
  | .rn => .rn
  | .rz => .rz
  | .ru => .ru
  | .rd => .rd

/-- A management core rounds to nearest even (R78). -/
def scalarRm (h : Hart) (s : State) : Rm :=
  match h with
  | .core n => ctlRm (coreAt s n).fpctl
  | .mgmt _ => .rn

/-- The flag bits of fpctl (Table 2-17). -/
def flWord (f : Fl) : Word := mkWord [(11, b1 f.nx), (10, b1 f.uf), (9, b1 f.of), (8, b1 f.nv)]

/-- Sticky flags set (R153). -/
def setFlags (n : CoreId) (f : Fl) (s : State) : State :=
  modCore s n (fun c => { c with fpctl := c.fpctl ||| flWord f })

/-- The words of a NaN trap record (Table 5-7). `col` is the element index, lane or column. -/
def nanW0 (s : State) (g : Gal) (unit cls cause : Nat) (n : CoreId) : Word :=
  mkWord [(63, 1), (56, g.val), (52, unit), (48, cls), (44, cause),
    (16, if catValid s then coord s else 0), (0, n.val)]
def nanW2 (kstep port col row : Nat) : Word :=
  mkWord [(48, kstep % 65536), (44, port), (16, col % 65536), (0, row % 65536)]

/-- A NaN event of Gallery `g` on core `n` (R167 to R170): it is reported to the Step Seal, and while the
trap is ARMED it goes to the arbiter, the core issuing nothing until the arbiter answers. -/
def nanMeet (s : State) (g : Gal) (n : CoreId) (unit cls cause kstep port col row : Nat) (pc : Word) : State :=
  let s := sealMark s g rsnNan none
  if s.gal[g].fired then s
  else
    let e : NanEvent :=
      { cycle := s.clk / 2, core := n.val, unit := unit, seisk := decide (unit ≤ 3)
        w0 := nanW0 s g unit cls cause n, w1 := BitVec.ofNat 64 (pc.toNat % 2 ^ 48)
        w2 := nanW2 kstep port col row, w3 := BitVec.ofNat 64 (now s), pc := pc, cls := cls }
    let s := modGal s g (fun x => { x with nanQ := x.nanQ ++ [e] })
    modCore s n (fun c => { c with nanWait := true })

/-- The event of a context's instruction, to its own Gallery. -/
def nanEvent (s : State) (n : CoreId) (unit cls cause kstep col row : Nat) (pc : Word) : State :=
  match coreOwner s n with
  | none => s
  | some g => nanMeet s g n unit cls cause kstep 0xF col row pc

/-- Flags and NaN event of a scalar floating-point instruction (R78, R153). -/
def scalarFlags (h : Hart) (f : Fl) (pc : Word) (s : State) : State :=
  match h with
  | .mgmt _ => s
  | .core n =>
    let s := setFlags n f s
    match f.cause with
    | none => s
    | some c => nanEvent s n 0 0 c 0 0 0 pc

end Sys2Proof.Machine
end

