-- ==== Sys2Proof/Machine/Attribution.lean ====
section
/-! DEFINITION. Errors of Cask and Reserve lines, and whom they are charged to (R387 to R390). -/

namespace Sys2Proof.Machine

/-! ### Attribution logs (R388) -/

/-- A use recorded: the context's entry is replaced, the least recently used is displaced beyond 16. -/
def logPut (l : List LogEnt) (e : LogEnt) : List LogEnt :=
  let r := l.filter (fun x => decide (¬(x.gallery = e.gallery ∧ x.core = e.core ∧ x.gen = e.gen))) ++ [e]
  r.drop (r.length - 16)

/-- The log entry of an instruction that core `n` issues at its pc. -/
def useOf (s : State) (n : CoreId) (i : Instr) (ds : List (BitVec 256)) : Option LogEnt :=
  (coreOwner s n).map (fun g => ⟨g.val, n.val, gen s g, encodeSeisk i, (coreAt s n).pc, ds⟩)

def cluster16 (n : CoreId) : Fin 16 := Fin.ofNat 16 (clusterOf n)

def logEngine (s : State) (n : CoreId) (i : Instr) (ds : List (BitVec 256)) : State :=
  match useOf s n i ds with
  | none => s
  | some e => { s with engLog := s.engLog.set n (logPut s.engLog[n] e) }
def logReserveOf (s : State) (c : Fin 16) (n : CoreId) (i : Instr) (ds : List (BitVec 256)) : State :=
  match useOf s n i ds with
  | none => s
  | some e => { s with resLog := s.resLog.set c (logPut s.resLog[c] e) }
def logReserve (s : State) (n : CoreId) (i : Instr) (ds : List (BitVec 256)) : State := logReserveOf s (cluster16 n) n i ds
def logCru (s : State) (n : CoreId) (i : Instr) : State :=
  match useOf s n i [] with
  | none => s
  | some e => { s with cruLog := s.cruLog.set (cluster16 n) (logPut s.cruLog[cluster16 n] e) }

/-- A use of the Reserve where the address lies in its window. -/
def logSram (s : State) (n : CoreId) (i : Instr) (ea : Nat) : State :=
  if 0x2000000000000 ≤ ea ∧ ea < 0x2000001000000 then logReserve s n i [] else s

/-! ### Errors of a line -/

/-- CUR_CLU[n]_ERR (Table 13-14). -/
def cluErr (c : Nat) : Nat := 0x400 + 8 * c

/-- Does an address lie in the Reserve window? -/
def eaReserve (ea : Nat) : Bool := decide (0x2000000000000 ≤ ea)

/-- The suspects of a line's error: the contexts of the present generation in the log of the unit that met it. -/
def suspectsOf (s : State) (n : CoreId) (ea : Nat) : List LogEnt :=
  let l := if eaReserve ea then s.resLog[cluster16 n] else s.engLog[n]
  l.filter (fun e => decide (e.gallery = (((coreOwner s n).map (fun g => g.val)).getD 8) ∧
    (((coreOwner s n).map (gen s)).getD 0) = e.gen))

/-- GLY[g]_FAULT_MODE.MODE is REPLAY (R390). -/
def replayMode (s : State) (n : CoreId) : Bool :=
  match coreOwner s n with
  | none => false
  | some g => bit (rget s (glyReg g.val 0x98)) 0

/-- The KIND 0x06 entry (Table 13-4). -/
def lineErr (s : State) (n : CoreId) (ea cls : Nat) (byReplay : Bool) : Err :=
  { kind := 6, cls := cls, unit := 7, gal := coreOwner s n, core := some n
    d0 := mkWord [(0, clusterOf n), (4, b1 (eaReserve ea)), (8, if eaReserve ea then 0 else n.val)]
    d1 := BitVec.ofNat 64 (ea % 2 ^ 48 / 64 * 64)
    d2 := BitVec.ofNat 64 (suspectsOf s n ea).length
    d3 := BitVec.ofNat 64 (b1 byReplay) }

/-- An access of core `n` meets an error in the line of an address: it is counted and scored; a detected one
marks the line poisoned and is recorded (KINDs 0x06 and 0x07). -/
def lineMet (s : State) (n : CoreId) (ea : Nat) (err : SramErr) : State :=
  let c := cluErr (clusterOf n)
  match err with
  | .none => s
  | .ce => appraise (counted (if eaReserve ea then fincr s c 31 16 1 else fincr s c 15 0 1)) (0x110 + clusterOf n) 1
  | .ue =>
    let s := appraise (if eaReserve ea then fincr s c 63 48 1 else fincr s c 47 32 1) (0x110 + clusterOf n) 1024
    let s := { s with mem := s.mem.setPoison (sramAt n ea / 64) true }
    report s (lineErr s n ea 2 false)

/-- A core stops issue with no exception (R61). -/
def haltIssue (s : State) (n : CoreId) : State :=
  modCore s n (fun c => if live c then { c with state := .stopped, hold := none, resumepc := c.pc } else c)

/-- Contexts charged: they stop, and one entry of class 3 charges them (R389). -/
def charge (s : State) (e : Err) (ns : List CoreId) : State :=
  let t := report (ns.foldl haltIssue s) { e with cls := 3, core := match ns with | [n] => some n | _ => none }
  let q := frqOf e.gal
  if 2 ≤ ns.length ∧ t.frq[q].handling = true then setFrq t q { t.frq[q] with charged := ns } else t

/-- The contexts of log entries. -/
def logCores (l : List LogEnt) : List CoreId :=
  (l.filterMap (fun e => allCores.find? (fun k => decide (k.val = e.core)))).eraseDups

/-- The contexts that an error charges by name: the one whose access met it, or, of a unit that acts for no context,
every suspect (R389). -/
def namedCores (s : State) (n : CoreId) (ea : Nat) (met : Bool) : List CoreId :=
  if met then [n] else logCores (suspectsOf s n ea)
def chargeNamed (s : State) (n : CoreId) (ea : Nat) (met : Bool) : State :=
  if namedCores s n ea met = [] then s else charge s (lineErr s n ea 3 false) (namedCores s n ea met)

/-- A replay begins: every suspect is stopped, and the entry stays in handling. A second one escalates (R389). -/
def startReplay (s : State) (n : CoreId) (ea : Nat) (met : Bool) : State :=
  match coreOwner s n with
  | none => s
  | some g =>
    if s.replay.active then chargeNamed s n ea met
    else
      let l := suspectsOf s n ea
      let q := frqOf (some g)
      let cs := ((if met then [n] else []) ++ logCores l).eraseDups
      let ls := cs.filter (fun k => live (coreAt s k))
      let s := setFrq s q { s.frq[q] with handling := true, cause := s.cr.head }
      { ls.foldl haltIssue s with
        replay := { active := true, gallery := g, seq := s.cr.head, reserve := eaReserve ea
                    unit := if eaReserve ea then clusterOf n else n.val, line := ea
                    suspects := l, stopped := ls } }

/-- An uncorrectable error is attributed in the mode of its Gallery. -/
def blame (s : State) (n : CoreId) (ea : Nat) (met : Bool) : State :=
  if replayMode s n then startReplay s n ea met else chargeNamed s n ea met

/-- The detected error of a load that has completed is attributed: NAMED charges its context. -/
def lineCharge (t s : State) (n : CoreId) (ea : Nat) : Eff :=
  let pc := (coreAt s n).pc
  .stop (blame (retireTo (settle t n) n (pc + 8)) n ea true)

/-- A unit reads a line of the Cask of core `n`, or of its cluster's Reserve, and meets an error (R387 to R389). -/
def unitMet (s : State) (n : CoreId) (e : LineErr) (met : Bool) : State :=
  let ea := e.ea.toNat
  if winOf ea 1 ≠ .cask ∧ winOf ea 1 ≠ .reserve then s
  else if e.err = .ue then blame (lineMet s n ea .ue) n ea met
  else lineMet s n ea e.err

end Sys2Proof.Machine
end

