-- ==== Sys2Proof/Machine/FrameMap.lean ====
section
/-! DEFINITION. The Frame Map: walks, and the walker's commands but for the end of a migration
(R250 to R259, R263). -/

namespace Sys2Proof.Machine

/-! ### Entries and chains -/

/-- An update writes both copies of its line, so that an error of one copy is gone; a line lost in both stays so (R252). -/
def healLine (w : Walker) (l : Nat) : Walker :=
  if w.badA.contains l && w.badB.contains l then w
  else { w with badA := w.badA.filter (fun x => decide (x ≠ l)), badB := w.badB.filter (fun x => decide (x ≠ l)) }

/-- The state with one entry, or one anchor, replaced. -/
def setFrame (s : State) (pfn : Nat) (e : Word) : State :=
  { s with walker := healLine { s.walker with entries := put (frameDefault s pfn) pfn e s.walker.entries } (entryLine pfn) }
def setAnchor (s : State) (h : Nat) (a : BitVec 32) : State :=
  { s with walker := healLine { s.walker with anchors := put 0 h a s.walker.anchors } (anchorLine h) }

/-- The entries that a chain links from an index, at most `fuel`. -/
def chainFrom (s : State) : Nat → Nat → List Nat
  | 0, _ => []
  | fuel + 1, i => i :: (if feNextV (frameEntry s i) then chainFrom s fuel (feNext (frameEntry s i)) else [])

def chainOf (s : State) (h : Nat) : List Nat :=
  if bit (anchor s h) 31 then chainFrom s 16 (bits (anchor s h) 23 0) else []

/-- An entry's link replaced, or taken over from another entry. -/
def withLink (e link : Word) : Word := (e &&& ~~~(0x1FFFFFF : Word)) ||| (link &&& 0x1FFFFFF)

/-- The anchor word of a link. -/
def anchorOf (link : Word) : BitVec 32 := if bit link 24 then BitVec.ofNat 32 (2 ^ 31 + bits link 23 0) else 0

/-- What points at frame `f` in chain `h` is made to carry `link` in its place. -/
def relink (s : State) (h f : Nat) (link : Word) : State :=
  if decide (bits (anchor s h) 23 0 = f) && bit (anchor s h) 31 then setAnchor s h (anchorOf link)
  else
    match (chainOf s h).find? (fun i => feNextV (frameEntry s i) && decide (feNext (frameEntry s i) = f)) with
    | none => s
    | some p => setFrame s p (withLink (frameEntry s p) link)

/-- The anchor index of a mapped entry. -/
def entryHash (e : Word) : Nat := anchorIndex (feGallery e) (feVfn e)

/-- A mapped frame unlinked and made free; it is not ZEROED (R257, R258). -/
def unmapFrame (s : State) (f : Nat) : State :=
  let e := frameEntry s f
  setFrame (relink s (entryHash e) f e) f (e &&& ~~~(0xC000000001FFFFFF : Word))

/-- The owner of a frame's group. -/
def frameOwner (s : State) (f : Nat) : Option Gal := groupOwner s (f / 2 ^ 20)

/-! ### Reading structure lines (R252) -/

/-- The walker reads structure lines: corrected errors count, an uncorrectable copy A is rewritten from a good copy B, and
a line bad in both sets STRUCTUE. An error shows where its line is read. -/
def readStruct (s : State) (reads : Nat → Bool) (e : FmapErr) : State :=
  let w := s.walker
  let add (b : Bool) (l : List Nat) : List Nat := if b && reads e.line && !l.contains e.line then l ++ [e.line] else l
  let a := add e.ueA w.badA
  let b := add e.ueB w.badB
  let fixed (l : Nat) : Bool := reads l && !b.contains l
  let s := { s with walker := { w with badA := a.filter (fun l => !fixed l), badB := b } }
  let s := fincr (fincr s (fmpReg 0x38) 31 0 e.ce) (fmpReg 0x38) 63 32 (a.countP fixed)
  if structLost s reads then fbit s (fmpReg 0) 13 else s

/-! ### Walks (R252, R253, R256) -/

/-- How a walk ends: found, or the class of Table 8-4; MIGRATING is none of them. -/
def walkClass (x : Xlate) : Nat :=
  match x with
  | .unmapped => 1
  | .readOnly => 3
  | .fmapUe => 4
  | _ => 0

/-- The requester of a walk as Table 13-4 numbers it, its queue, and its core and unit. -/
def reqErr (k : Walk) : Err :=
  let d (r q : Nat) : Word := mkWord [(0, 4), (8, r), (16, q)]
  let e : Err := { kind := 3, cls := 0, unit := 9, gal := some k.gal, d1 := BitVec.ofNat 64 k.addr.toNat }
  match k.req with
  | .core n => { e with unit := 0, core := some n, d0 := d 0 0 }
  | .racking n q => { e with unit := 6, core := some n, d0 := d 1 q.val }
  | .slice i => { e with unit := 4, d0 := d 2 i.val }
  | .ethernet => { e with unit := 12, d0 := d 3 0 }

/-- A walk reads its lines and ends: FMAP_UE escalates at once (Table 8-4). -/
def endWalk (s : State) (k : Walk) (e : FmapErr) : State :=
  let s := readStruct s (walkReads s k.gal.val (k.addr.toNat / 2 ^ 17 % 2 ^ 31)) e
  let x := translate s k.gal k.addr.toNat k.write
  let s := fincr s (fmpReg 0x28) 63 0 1
  if walkClass x ≠ 0 then
    let s := fincr s (fmpReg 0x30) 63 0 1
    if x = .fmapUe then report s (Err.ofWalk (reqErr k) 4) else s
  else if x = .migrating then addStall s k.req k.gal k.addr.toNat k.write false 0 else s

/-- Walks that run at once (R253): held requests start in order of arrival as slots free. -/
def startWalks (l : List Walk) : List Walk :=
  match l.countP (fun w => w.started), l.find? (fun w => !w.started) with
  | n, some w => if n < 64 then l.map (fun x => if x.id = w.id then { x with started := true } else x) else l
  | _, none => l

/-- TRANSLATION_WALK: a request is answered with the walk's outcome if the walk ends in time, else deferred.
Which of the two is open while a slot is free. -/
def execTranslationWalk (r : WalkReq) (g : Gal) (addr : BitVec 48) (write : Bool) (s : State) (err : FmapErr := {}) : Outc :=
  let w := s.walker
  let free := decide (w.walks.countP (fun x => x.started) < 64)
  let k : Walk := { id := w.nextId, req := r, gal := g, addr := addr, write := write, started := free }
  let s := { s with walker := { w with nextId := w.nextId + 1 } }
  let defer (s : State) : State := { s with walker := { s.walker with walks := s.walker.walks ++ [k] } }
  .next (if free then
      let t := freeBit s
      if t.1 then endWalk t.2 k err else defer t.2
    else defer s)

/-- WALK_OUTCOME: a deferred walk ends, with the errors that its lines met. -/
def execWalkOutcome (id ce : Nat) (ueA ueB : Bool) (s : State) (line : Nat := 0) : Outc :=
  .next (match s.walker.walks.find? (fun x => decide (x.id = id) && x.started) with
    | none => s
    | some k =>
      let rest := s.walker.walks.filter (fun x => decide (x.id ≠ id))
      endWalk { s with walker := { s.walker with walks := startWalks rest } } k ⟨ce, line, ueA, ueB⟩)

/-! ### Commands (Table 8-5) -/

/-- Reasons of Table 8-9. -/
inductive FmpStat where
  | ok | notzero | retired | duplicate | owner | chainfull | notvalid | busy | notfree | range | fmapUe
  deriving DecidableEq, Repr

def FmpStat.code : FmpStat → Nat
  | .ok => 0 | .notzero => 1 | .retired => 2 | .duplicate => 3 | .owner => 4 | .chainfull => 5 | .notvalid => 6
  | .busy => 7 | .notfree => 8 | .range => 9
  | .fmapUe => 10

/-- The first reason of a list of conditions that holds. -/
def firstStat : List (Bool × FmpStat) → FmpStat
  | [] => .ok
  | (b, r) :: l => if b then r else firstStat l

/-- FMP_STATUS.BUSY: a command is executing (R257). -/
def fmpBusy (s : State) : Bool := decide (s.clk < s.walker.cmdEnd)

/-- A command: while BUSY it is ignored with BADCMD. Its operands' RANGE comes first, then the structure lines that it
reads, then its reasons in order; accepted, it does `f`. A refused command changes nothing but CMDSTAT. How long it keeps
BUSY, at most 2 µs, is free (log entry 98). -/
def fmpRun (s : State) (range : Bool) (reads : Nat → Bool) (e : FmapErr) (rs : List (Bool × FmpStat)) (f : State → State) :
    State :=
  if fmpBusy s then fbit s (fmpReg 0) 15
  else
    let t := freeWord s
    let s := { t.2 with walker := { t.2.walker with cmdEnd := s.clk + t.1.toNat % 1881 } }
    let s := if range then s else readStruct s reads e
    let r := if range then .range else if structLost s reads then .fmapUe else firstStat rs
    fset (if r = .ok then f s else s) (fmpReg 0) 31 24 r.code

/-- The structure lines of the entries that a chain links. -/
def chainLines (s : State) (h l : Nat) : Bool :=
  decide (l = anchorLine h) || (chainOf s h).any (fun i => decide (l = entryLine i))

def fmpArg0 (s : State) : Word := rget s (fmpReg 0x10)
def fmpArg1 (s : State) : Word := rget s (fmpReg 0x18)

/-- Bits of an operand that its command does not use. -/
def unusedBits (w mask : Word) : Bool := decide (w &&& ~~~mask ≠ 0)

/-- The reasons of MAP. A retired frame is not ZEROED either: RETIRED is the reason given. -/
def mapReasons (s : State) (f : Nat) (g : Gal) (v : Nat) : List (Bool × FmpStat) :=
  let e := frameEntry s f
  [(feRetired e, .retired), (!feZeroed e, .notzero), ((walkFrame s g.val v).isSome, .duplicate),
   (decide (frameOwner s f ≠ some g), .owner), (decide (16 ≤ (chainOf s (anchorIndex g.val v)).length), .chainfull)]

/-- A zeroed frame mapped at the head of its chain. -/
def mapFrame (s : State) (f : Nat) (g : Gal) (v : Nat) (write : Bool) : State :=
  let h := anchorIndex g.val v
  let a := anchor s h
  let e := mkWord [(63, 1), (61, b1 write), (56, g.val), (25, v), (24, b1 (bit a 31)), (0, if bit a 31 then bits a 23 0 else 0)]
  setAnchor (setFrame s f e) h (BitVec.ofNat 32 (2 ^ 31 + f))

def execFmpMap (s : State) (err : FmapErr := {}) : Outc :=
  let a := fmpArg0 s
  let b := fmpArg1 s
  let f := bits a 23 0
  let g : Gal := Fin.ofNat 8 (bits b 33 31)
  let v := bits b 30 0
  .next (fmpRun s (unusedBits a 0x1FFFFFF || unusedBits b 0x3FFFFFFFF)
    (fun l => decide (l = entryLine f) || chainLines s (anchorIndex g.val v) l) err (mapReasons s f g v)
    (fun s => mapFrame s f g v (bit a 24)))

def execFmpUnmap (s : State) (err : FmapErr := {}) : Outc :=
  let a := fmpArg0 s
  let f := bits a 23 0
  let e := frameEntry s f
  .next (fmpRun s (unusedBits a 0xFFFFFF || decide (fmpArg1 s ≠ 0))
    (fun l => decide (l = entryLine f) || (feValid e && chainLines s (entryHash e) l)) err
    [(!feValid e, .notvalid), (feMigrating e, .busy)] (fun s => unmapFrame s f))

def execFmpProtect (s : State) (err : FmapErr := {}) : Outc :=
  let a := fmpArg0 s
  let f := bits a 23 0
  let e := frameEntry s f
  .next (fmpRun s (unusedBits a 0x1FFFFFF || decide (fmpArg1 s ≠ 0)) (fun l => decide (l = entryLine f)) err
    [(!feValid e, .notvalid), (feMigrating e, .busy)] (fun s => setFrame s f (setBits e 61 61 (b1 (bit a 24)))))

/-- The registers of migration slots. -/
def migReg (i : Nat) : Nat := fmpReg (0x80 + 8 * i)
def migActive (s : State) (i : Nat) : Bool := bit (rget s (migReg i)) 63
def freeSlot (s : State) : Option Nat := (List.range 16).find? (fun i => !migActive s i)

/-- FMP_MIGRATE: the source is marked MIGRATING in a free slot and the copy begins; the destination is
ZEROED no more (R258). -/
def execFmpMigrate (s : State) (err : FmapErr := {}) : Outc :=
  let a := fmpArg0 s
  let b := fmpArg1 s
  let f := bits a 23 0
  let d := bits b 23 0
  let e := frameEntry s f
  let x := frameEntry s d
  .next (fmpRun s (unusedBits a 0xFFFFFF || unusedBits b 0xFFFFFF)
    (fun l => decide (l = entryLine f) || decide (l = entryLine d)) err [(!feValid e, .notvalid),
      ((freeSlot s).isNone || feMigrating e, .busy), (feRetired x, .retired), (!feZeroed x, .notzero),
      (decide ((frameOwner s d).map (fun g => g.val) ≠ some (feGallery e)), .owner)]
    (fun s =>
      let i := (freeSlot s).getD 0
      let s := setFrame (setFrame s f (setBits e 62 62 1)) d (setBits x 59 59 0)
      let s := rset s (migReg i) (mkWord [(63, 1), (24, d), (0, f)])
      fset s (fmpReg 0) 4 0 (fget s (fmpReg 0) 4 0 + 1)))

/-- Start leaving self-refresh, where a group is in it (R249); an OFFLINE group stays in it. -/
def wakeGroup (s : State) (g : Fin 16) : State :=
  if bit (rget s (celReg g.val 0)) 11 && decide (celMode s g.val ≠ 2) then
    { s with group := s.group.set g { s.group[g] with exiting := true } }
  else s

/-- Is a frame of a range VALID or RETIRED? -/
def rangeBusy (s : State) (first count : Nat) : Bool :=
  let g := first / 2 ^ 20
  s.walker.entries.any (fun e => decide (first ≤ e.1 ∧ e.1 < first + count) && (feValid e.2 || feRetired e.2))
    || decide (backedFrames s g < first % 2 ^ 20 + count)

/-- A ZERO range starts (R259). -/
def zeroStart (s : State) (first count : Nat) : State :=
  let g := first / 2 ^ 20
  let s := { s with walker := { s.walker with zeros := put ⟨0, 0⟩ g ⟨first, count⟩ s.walker.zeros } }
  wakeGroup (fbit s (celReg g 0) 14) (Fin.ofNat 16 g)

/-- FMP_ZERO: zeroing of a range of free frames of one group starts. -/
def execFmpZero (s : State) (err : FmapErr := {}) : Outc :=
  let a := fmpArg0 s
  let b := fmpArg1 s
  let f := bits a 23 0
  let n := bits b 20 0
  .next (fmpRun s (unusedBits a 0xFFFFFF || unusedBits b 0x1FFFFF
        || decide (n = 0 ∨ 2 ^ 20 < n ∨ 2 ^ 20 < f % 2 ^ 20 + n))
      (fun l => decide (entryLine f ≤ l ∧ l ≤ entryLine (f + n - 1))) err
      [(bit (rget s (celReg (f / 2 ^ 20) 0)) 14, .busy), (rangeBusy s f n, .notfree)]
    (fun s => zeroStart s f n))

/-- The frames of a range become ZEROED. A whole group is noted as such. -/
def markZeroed (s : State) (first count : Nat) : State :=
  let g := first / 2 ^ 20
  let free (e : Nat × Word) : Bool := decide (first ≤ e.1 ∧ e.1 < first + count) && !feValid e.2 && !feRetired e.2
  if first % 2 ^ 20 = 0 ∧ backedFrames s g ≤ count then
    { s with walker := { s.walker with entries := s.walker.entries.filter (fun e => !free e)
                                       zeroed := s.walker.zeroed ||| BitVec.ofNat 16 (2 ^ g) } }
  else (List.range count).foldl (fun s i =>
    let e := frameEntry s (first + i)
    if feValid e || feRetired e then s else setFrame s (first + i) (1 <<< 59)) s

def execFmpRetire (s : State) (err : FmapErr := {}) : Outc :=
  let a := fmpArg0 s
  let f := bits a 23 0
  let e := frameEntry s f
  .next (fmpRun s (unusedBits a 0xFFFFFF || decide (fmpArg1 s ≠ 0)) (fun l => decide (l = entryLine f)) err
    [(feValid e || feRetired e, .notfree)]
    (fun s => setFrame s f (setBits (setBits e 60 60 1) 59 59 0)))

def execFmpRead (s : State) (err : FmapErr := {}) : Outc :=
  let a := fmpArg0 s
  .next (fmpRun s (unusedBits a 0xFFFFFF || decide (fmpArg1 s ≠ 0)) (fun l => decide (l = entryLine (bits a 23 0))) err []
    (fun s => rset s (fmpReg 0x20) (frameEntry s (bits a 23 0))))

def execFmpLookup (s : State) (err : FmapErr := {}) : Outc :=
  let b := fmpArg1 s
  .next (fmpRun s (decide (fmpArg0 s ≠ 0) || unusedBits b 0x3FFFFFFFF) (walkReads s (bits b 33 31) (bits b 30 0)) err []
    (fun s => rset s (fmpReg 0x20) (match walkFrame s (bits b 33 31) (bits b 30 0) with
      | none => 0
      | some f => mkWord [(63, 1), (0, f)])))

/-- Every frame of a Gallery unmapped (Table 13-8, step 6). -/
def unmapGallery (s : State) (g : Gal) : State :=
  (s.walker.entries.filter (fun e => feValid e.2 && decide (feGallery e.2 = g.val))).foldl
    (fun s e => unmapFrame s e.1) s

/-- A zeroed free frame of the Gallery's groups: any, at the Curator's choice (R255). Frames of save images are
off the free list (R259). -/
def imageFrame (s : State) (f : Nat) : Bool :=
  allCores.any (fun n =>
    let a := (coreAt s n).ctxpa.toNat / 2 ^ 17
    decide ((coreAt s n).ctxpa ≠ 0 ∧ a ≤ f ∧ f < a + 4))
  || s.walker.images.any (fun a => decide (a ≤ f ∧ f < a + 4))

def pickFrom (s : State) (g : Nat) : Nat → Nat → Option Nat
  | 0, _ => none
  | fuel + 1, i =>
    let f := g * 2 ^ 20 + i % 2 ^ 20
    let e := frameEntry s f
    if feZeroed e && !feValid e && !feRetired e && !imageFrame s f then some f else pickFrom s g fuel (i + 1)

/-- The Curator maps a frame that it chooses: the choice is free. The result says whether one was found. -/
def mapFree (s : State) (g : Gal) (v : Nat) (write : Bool) : Option State :=
  let t := freeWord s
  let k := t.1.toNat
  let gs := (List.range 16).filter (fun c => ownsGroup s g c)
  let gs := gs.drop (k % max 1 gs.length) ++ gs.take (k % max 1 gs.length)
  match gs.findSome? (fun c => pickFrom s c (2 ^ 20) (k / 16 % 2 ^ 20)) with
  | none => none
  | some f => if firstStat (mapReasons s f g v) = .ok then some (mapFrame t.2 f g v write) else none

end Sys2Proof.Machine
end

