-- ==== Sys2Proof/Machine/Cellar.lean ====
section
/-! DEFINITION. The Cellar: reads and writes with their errors, row retirement, failing channels, rebuild,
training, scrubbing and self-refresh (R237 to R249, R262). -/

namespace Sys2Proof.Machine

/-! ### Where an address lies -/

def groupOf (a : Nat) : Nat := a / 2 ^ 37
def fg (a : Nat) : Fin 16 := Fin.ofNat 16 a

/-- The retired channel of a fifteen-way group. -/
def retiredCh (s : State) (g : Nat) : Option Nat := (s.mem.ways.find? (fun w => decide (w.1 = g))).map Prod.snd

/-- Channel, bank and row of a Cellar address. -/
def cellOf (s : State) (a : Nat) : Nat × Nat × Nat :=
  let (c, y) := interleave (retiredCh s (groupOf a)) (a % 2 ^ 37)
  let (_, b, r) := chunkPlace y
  (c, b, r)

/-- Addresses of the registers of a channel, and of remap entry `i` of channel `c`. -/
def chReg (g c : Nat) : Nat := celReg g (0x100 + 8 * c)
def cherrReg (g c : Nat) : Nat := celReg g (0x180 + 8 * c)
def remapReg (g i : Nat) : Nat := celReg g (0x1000 + 8 * i)

/-- STATE of a channel: 0 ACTIVE, 1 FAILING, 2 RETIRED, 3 TRAINING. -/
def chState (s : State) (g c : Nat) : Nat := fget s (chReg g c) 9 8

def modGroup (s : State) (g : Nat) (f : Group → Group) : State :=
  { s with group := s.group.set (fg g) (f s.group[fg g]) }
def modChan (s : State) (g c : Nat) (f : Channel → Channel) : State :=
  modGroup s g (fun x => { x with ch := x.ch.set (fg c) (f x.ch[fg c]) })

/-- Does a group serve accesses: not in self-refresh, not OFFLINE? -/
def groupServes (s : State) (g : Nat) : Bool := !bit (rget s (celReg g 0)) 11 && decide (celMode s g ≠ 2)

def celBad (s : State) (g : Nat) : State := fbit s (celReg g 0) 15

/-! ### Logs and failing channels -/

/-- CEL[g]_ERRLOG holds the latest error: KIND 0 transient CE, 1 persistent CE, 2 UE, 3 training failure. -/
def errLog (s : State) (kind g c off : Nat) : State :=
  rset s (celReg g 0x20) (mkWord [(63, 1), (61, kind), (56, c), (0, off / 64 % 2 ^ 31 * 64)])

/-- A channel becomes FAILING: reason 0 UELIM, 1 ROWLIM, 2 training, 3 FAIL_CH (R246). -/
def chanFailing (s : State) (g c reason : Nat) : State :=
  if chState s g c = 1 ∨ chState s g c = 2 then s
  else
    let s := fbit (fset s (chReg g c) 9 8 1) (celReg g 0) 12
    noteFault s { kind := 0x0C, cls := 0, unit := 8, gal := groupOwner s g
                  d0 := mkWord [(0, g), (4, c), (8, reason)] }

/-- A channel fails training: it becomes FAILING, reads as poison and takes no write (R241). -/
def trainFail (s : State) (g c : Nat) : State :=
  let s := appraise (errLog s 3 g c 0) (16 * g + c) 65535
  let s := { s with mem := { s.mem with dead := (g, c) :: s.mem.dead.filter (fun d => decide (d ≠ (g, c))) } }
  chanFailing s g c 2

/-! ### Row retirement (R245, R406) -/

/-- Remap entries of a channel: number and value. -/
def remapsOf (s : State) (g c : Nat) : List (Nat × Word) :=
  (List.range 64).map (fun i => (64 * c + i, rget s (remapReg g (64 * c + i))))
def remapsUsed (s : State) (g c : Nat) : Nat := (remapsOf s g c).countP (fun e => bit e.2 63)

/-- Fields of a remap entry (Table 8-8). -/
def remapWord (bank row spare : Nat) : Word := mkWord [(63, 1), (26, bank), (9, row), (0, spare)]

/-- Is a spare row of a bank free: in no entry and in no copy under way? -/
def spareFree (s : State) (g c bank spare : Nat) : Bool :=
  !(remapsOf s g c).any (fun e => bit e.2 63 && decide (bits e.2 29 26 = bank ∧ bits e.2 7 0 = spare))
    && !s.group[fg g].ch[fg c].copying.any (fun x => decide (x.1 = bank ∧ x.2.2 = spare))

/-- The first number from a free starting point, cyclic below `n`, that passes. -/
def pickCyclic (n start : Nat) (p : Nat → Bool) : Option Nat :=
  ((List.range n).map (fun i => (start + i) % n)).find? p

/-- Row records that the pinned region holds; and with those of the copies under way (R406). -/
def pinnedRows (s : State) : Nat := s.cr.pinned.countP (fun r => decide (bits r.ent.w0 55 48 = 0x0A))
def rowsTaken (s : State) : Nat :=
  pinnedRows s + (s.group.toList.flatMap (fun x => x.ch.toList.map (fun c => c.copying.length))).foldl (· + ·) 0

/-- A row retirement counts toward the channel's row limit (R245, R246). -/
def rowCounted (s : State) (g c : Nat) : State :=
  let s := modChan s g c (fun x => { x with winRows := x.winRows + 1 })
  if fget s (celReg g 0x10) 7 0 ≤ s.group[fg g].ch[fg c].winRows then chanFailing s g c 1 else s

/-- A row retirement: the copy to a spare begins, where an entry and a spare are free; either way it counts
toward the row limit. The controller's choice of spare is free. -/
def retireRow (s : State) (g c bank row : Nat) : State :=
  let s := appraise s (16 * g + c) 64
  let x := s.group[fg g].ch[fg c]
  rowCounted (
    if 2032 ≤ rowsTaken s then chanFailing s g c 1
    else if x.copying.any (fun y => decide (y.1 = bank ∧ y.2.1 = row)) then s
    else
      let t := freeWord s
      match pickCyclic 232 (t.1.toNat % 232) (spareFree s g c bank) with
      | some sp =>
        if remapsUsed s g c + x.copying.length < 64 then
          modChan t.2 g c (fun y => { y with copying := y.copying ++ [(bank, row, sp)] })
        else s
      | none => s) g c

/-- Arguments of RETIRE_APPLY for a row (Table 12-4). -/
def rowArg1 (g c : Nat) : Word := mkWord [(0, g), (4, c)]
def rowArg2 (bank row spare : Nat) : Word := mkWord [(0, bank), (8, row), (32, spare)]
def chArg1 (g c : Nat) : Word := mkWord [(0, g), (4, c), (8, 1)]

/-- A pinned record, unless the Condition Report holds it already (R248, R406). -/
def pinRecord (s : State) (kind : Nat) (a b : Word) : State :=
  if s.cr.pinned.any (fun r => decide (bits r.ent.w0 55 48 = kind ∧ r.ent.w2 = a ∧ r.ent.w3 = b)) then s
  else note s { kind := kind, cls := 0, unit := 8, d0 := a, d1 := b }

/-- A retirement waiting to be applied has been applied. -/
def applied (s : State) (a b : Word) : State := { s with retire := s.retire.filter (fun r => decide (r ≠ (a, b))) }

/-- REMAPS brought up to date. -/
def countRemaps (s : State) (g c : Nat) : State := fset s (chReg g c) 6 0 (remapsUsed s g c)

/-- ROW_RETIREMENT_COPY_DONE: the oldest copy of a channel ends and the remap takes effect. A row that is
remapped already keeps its entry; another takes a free one, at the controller's choice. -/
def execRowRetirementCopyDone (group ch : Fin 16) (s : State) : Outc :=
  let g := group.val
  let c := ch.val
  .next (match s.group[group].ch[ch].copying with
    | [] => s
    | (bank, row, sp) :: rest =>
      let s := modChan s g c (fun x => { x with copying := rest })
      let t := freeWord s
      let isRow (e : Nat × Word) : Bool := bit e.2 63 && decide (bits e.2 29 26 = bank ∧ bits e.2 25 9 = row)
      let slot := match (remapsOf s g c).find? isRow with
        | some e => some e.1
        | none => (pickCyclic 64 (t.1.toNat % 64) (fun i => !bit (rget s (remapReg g (64 * c + i))) 63)).map
            (fun i => 64 * c + i)
      match slot with
      | none => s
      | some i =>
        let s := countRemaps (rset t.2 (remapReg g i) (remapWord bank row sp)) g c
        note s { kind := 0x0A, cls := 0, unit := 8, d0 := rowArg1 g c, d1 := rowArg2 bank row sp })

/-! ### Errors of one line (R243, R244) -/

/-- The Gallery that maps a frame. -/
def frameGallery (s : State) (f : Nat) : Option Gal :=
  let e := frameEntry s f
  if feValid e then some (Fin.ofNat 8 (feGallery e)) else none

/-- An uncorrectable error of a channel is counted and reported, and counts toward its limit (R244, R246). -/
def ueCounted (s : State) (g c off : Nat) (owner : Option Gal) : State :=
  let s := appraise (errLog (fincr s (cherrReg g c) 63 48 1) 2 g c off) (16 * g + c) 512
  let s := report s { kind := 0x0B, cls := 2, unit := 8, gal := owner
                      d0 := BitVec.ofNat 64 g, d1 := rget s (celReg g 0x20) }
  let s := modChan s g c (fun x => { x with winUe := x.winUe + 1 })
  if fget s (celReg g 0x10) 23 16 ≤ s.group[fg g].ch[fg c].winUe then chanFailing s g c 0 else s

/-- A transient or a persistent correctable error of a channel is counted (R243, R382). -/
def ceCounted (s : State) (g c off : Nat) (persistent : Bool) : State :=
  if persistent then appraise (errLog (fincr s (cherrReg g c) 47 32 1) 1 g c off) (16 * g + c) 16
  else counted (appraise (errLog (fincr s (cherrReg g c) 31 0 1) 0 g c off) (16 * g + c) 1)

/-- An uncorrectable read: the line is poisoned, counted and reported, and its row is retired. -/
def cellarUe (s : State) (a : Nat) : State :=
  let (c, bank, row) := cellOf s a
  let s := { s with mem := s.mem.setPoison (a / 64) true }
  retireRow (ueCounted s (groupOf a) c (a % 2 ^ 37) (frameGallery s (a / 2 ^ 17))) (groupOf a) c bank row

/-- A correctable error: the data goes out at once, and the line waits for its one re-read. -/
def cellarCe (s : State) (a : Nat) : State :=
  modGroup s (groupOf a) (fun x => { x with reread := insertNat (a / 64) x.reread })

/-- The lines of a row hold unspecified data and marks: another row now stands for it. -/
def scramble (s : State) (ls : List Nat) : State :=
  ls.foldl (fun s a =>
    { s with mem := (s.mem.write a ((List.range 8).flatMap (fun i => leBytes 8 (Config.freeWord (s.free + i)).toNat))).setPoison
               (a / 64) (Config.freeBit s.free)
             free := s.free + 8 }) s

/-- A miscorrected line: what is delivered, merged and written back is some other line (Table 8-2, log entry 3). -/
def miscorrect (s : State) (a : Nat) : State :=
  { s with mem := s.mem.write a ((List.range 8).flatMap (fun i => leBytes 8 (Config.freeWord (s.free + i)).toNat))
           free := s.free + 8 }

/-- A line read that meets `errors` symbols in error (Table 8-2). Six or more are an uncorrectable error, or, openly,
a pattern that is miscorrected: a correctable error with the wrong data. A poisoned line is never an uncorrectable
error (R238). -/
def lineRead (s : State) (a errors : Nat) : State :=
  if s.mem.deadAt a || decide (errors = 0) then s
  else if errors ≤ 3 then cellarCe s a
  else if s.mem.isPoisoned (a / 64) then s
  else if errors ≤ 5 then cellarUe s a
  else
    let t := freeBit s
    if t.1 then cellarCe (miscorrect t.2 a) a else cellarUe t.2 a

/-- CELLAR_READ. -/
def execCellarRead (addr : BitVec 41) (errors : Nat) (s : State) : Outc :=
  let a := addr.toNat / 64 * 64
  .next (if groupServes s (groupOf a) then lineRead s a errors else s)

/-- CELLAR_WRITE: bytes of one line from `addr`. A part of a line is merged: the line read meets `errors`, and a
read that is poisoned or uncorrectable leaves the merged line poisoned (R239). -/
def execCellarWrite (addr : BitVec 41) (data : List Byte) (poisoned : Bool) (errors : Nat) (s : State) : Outc :=
  let a := addr.toNat
  let bs := data.take (64 - a % 64)
  .next (if groupServes s (groupOf a) then
      let s := if bs.length < 64 then lineRead s (a / 64 * 64) errors else s
      { s with mem := s.mem.store a bs poisoned }
    else s)

/-- CELLAR_CE_REREAD: an error-free re-read is a transient error; a correctable one is persistent and retires
the row. -/
def execCellarCeReread (addr : BitVec 41) (errors : Nat) (s : State) : Outc :=
  let a := addr.toNat / 64 * 64
  let g := groupOf a
  .next (if s.group[fg g].reread.contains (a / 64) then
      let s := modGroup s g (fun x => { x with reread := x.reread.filter (fun l => decide (l ≠ a / 64)) })
      let (c, bank, row) := cellOf s a
      if errors = 0 then ceCounted s g c (a % 2 ^ 37) false
      else if errors ≤ 3 then retireRow (ceCounted s g c (a % 2 ^ 37) true) g c bank row
      else lineRead s a errors
    else s)

/-- THRESH_WINDOW_EXPIRE: the counts of a group's channels restart (R246). -/
def execThreshWindowExpire (group : Fin 16) (s : State) : Outc :=
  let w := fget s (celReg group.val 0x10) 47 32 * 60000000000
  let s := advanceTo s (s.group[group].winStart + w)
  .next (modGroup s group.val (fun x =>
    { x with winStart := now s, ch := x.ch.map (fun c => { c with winUe := 0, winRows := 0 }) }))

/-- Does a migration move a frame, or write it? -/
def frameMigrating (s : State) (f : Nat) : Bool :=
  (List.range 16).any (fun i => migActive s i &&
    decide (bits (rget s (migReg i)) 23 0 = f ∨ bits (rget s (migReg i)) 47 24 = f))

/-- Where the patrol's line of system space lies: its channel, and the Frame Map structure line of which it holds copy A
(true) or copy B, if any (R252). -/
def scrubPlace (line : ScrubLine) (g : Nat) : Option (Nat × Option (Nat × Bool)) :=
  match line with
  | .spare ch _ => some (ch.val, none)
  | .struct l _ =>
    if l % 256 / 16 = g then some (l % 16, some (l, true))
    else if (l + 128) % 256 / 16 = g then some (l % 16, some (l, false))
    else none
  | .data => none

/-- A copy of a structure line is found uncorrectable: it stays marked until it is written again. -/
def copyBad (s : State) : Option (Nat × Bool) → State
  | none => s
  | some (l, true) => { s with walker := { s.walker with badA := insertNat l s.walker.badA } }
  | some (l, false) => { s with walker := { s.walker with badB := insertNat l s.walker.badB } }

/-- A line of system space read by the patrol, and after a correctable error read again at once: `errors` and `again`
symbols in error. A row of system space has no remap entry: its retirement counts toward the row limit. Its ERRLOG
offset is open. -/
def sysRead (s : State) (g c : Nat) (at_ : Option (Nat × Bool)) (errors again : Nat) : State :=
  let t := freeWord s
  let off := t.1.toNat % 2 ^ 37
  let met := if 1 ≤ errors ∧ errors ≤ 3 ∧ 1 ≤ again then again else errors
  if errors = 0 then s
  else if 4 ≤ met then rowCounted (ueCounted (copyBad t.2 at_) g c off none) g c
  else if again = 0 then ceCounted t.2 g c off false
  else rowCounted (ceCounted t.2 g c off true) g c

/-- PATROL_SCRUB: the next line of data space, or of system space, is read. A line under migration waits until the
frame has moved (R242). -/
def execPatrolScrub (group : Fin 16) (errors : Nat) (s : State) (line : ScrubLine := .data) : Outc :=
  let g := group.val
  .next (if groupServes s g && bit (rget s (celReg g 0x18)) 8 then
      let k := s.group[group].patrol
      match line with
      | .data =>
        if frameMigrating s (g * 2 ^ 20 + k / 2048) then s
        else
          lineRead (modGroup s g (fun x => { x with patrol := (k + 1) % max 1 (backedFrames s g * 2048) }))
            (g * 2 ^ 37 + 64 * k) errors
      | .spare _ again | .struct _ again =>
        match scrubPlace line g with
        | none => s
        | some (c, at_) =>
          sysRead (modGroup s g (fun x => { x with sysPatrol := (x.sysPatrol + 1) % 2 ^ 22 })) g c at_ errors again
    else s)

/-! ### Refresh and training (R240, R241) -/

/-- The highest temperature that the packages' last reports give, beside one just reported (Table 15-6). -/
def hottestPackage (s : State) (temp : BitVec 16) : BitVec 16 :=
  (s.group.toList.flatMap (fun x => x.ch.toList.filterMap (fun c => c.temp))).foldl
    (fun b x => if b.toInt < x.toInt then x else b) temp

/-- REFRESH: the bank is refreshed; the package reports its temperature, and `rate` is the multiplier that the
standard asks for there (log entry 49). -/
def execRefresh (group ch : Fin 16) (_bank : Fin 16) (temp : BitVec 16) (rate : Fin 3) (s : State) : Outc :=
  .next (if groupServes s group.val then
      let s := modChan s group.val ch.val (fun x => { x with temp := some temp })
      fset (fset s (chReg group.val ch.val) 11 10 rate.val) (pwrReg 0x48) 15 0 (hottestPackage s temp).toNat
    else s)

/-- CHANNEL_RETRAIN: the periodic retraining of a channel that works. -/
def execChannelRetrain (group ch : Fin 16) (ok : Bool) (s : State) : Outc :=
  .next (if groupServes s group.val && decide (chState s group.val ch.val ≤ 1) && !ok
    then trainFail s group.val ch.val else s)

/-- CEL_RETRAIN_CH: legal for an ACTIVE channel only. -/
def execCelRetrainCh (group ch : Fin 16) (ok : Bool) (s : State) : Outc :=
  let g := group.val
  let c := ch.val
  .next (if chState s g c ≠ 0 then celBad s g else if ok then s else trainFail s g c)

/-! ### Commands that a group in self-refresh holds until it has left it (R249) -/

/-- FAIL_CH, in any state. -/
def failCh (s : State) (g c : Nat) : State := chanFailing s g c 3

/-- Is a frame of the group mapped? -/
def groupMapped (s : State) (g : Nat) : Bool :=
  s.walker.entries.any (fun e => decide (e.1 / 2 ^ 20 = g) && feValid e.2)

/-- Does a migration read or write a frame of the group? -/
def groupMigrating (s : State) (g : Nat) : Bool :=
  (List.range 16).any (fun i => migActive s i &&
    decide (bits (rget s (migReg i)) 23 20 = g ∨ bits (rget s (migReg i)) 47 44 = g))

/-- The channels of a group in a state. -/
def chansIn (s : State) (g st : Nat) : List Nat := (List.range 16).filter (fun c => decide (chState s g c = st))

/-- REBUILD: refused while a frame is mapped or migrating or a second channel is FAILING or RETIRED, and of a group taken
OFFLINE, which leaves self-refresh only at the next reset (R249, log entry 27); accepted, the
channel is RETIRED, none is FAILING, and the mapping is fifteen-way (R247). -/
def rebuild (s : State) (g : Nat) : State :=
  match chansIn s g 1, chansIn s g 2 with
  | [c], [] =>
    if groupMapped s g || groupMigrating s g || bit (rget s (celReg g 0)) 13 || decide (celMode s g = 2) then celBad s g
    else
      let s := fset (fbit (fset s (chReg g c) 9 8 2) (celReg g 0) 13) (celReg g 0) 12 12 0
      { s with mem := { s.mem with dead := s.mem.dead.filter (fun d => decide (d ≠ (g, c)))
                                   ways := (g, c) :: s.mem.ways } }
  | _, _ => celBad s g

/-- A row of a channel: the addresses of its 64-byte lines. -/
def rowLines (s : State) (g c bank row : Nat) : List Nat :=
  (List.range 16).flatMap (fun col =>
    let y := row * 256 + (bank ^^^ (row % 16)) * 16 + col
    let x := match retiredCh s g with
      | none => y * 16 + (c ^^^ (y % 16) ^^^ (y / 16 % 16) ^^^ (y / 256 % 16))
      | some r => 15 * y + (survivors r).findIdx (fun k => decide (k = c))
    (List.range 4).map (fun l => g * 2 ^ 37 + x * 256 + 64 * l))

/-- A remap entry written by the Curator. The rows that it takes from and gives back to their places change
their contents. -/
def remapWrite (s : State) (g i : Nat) (v : Word) : State :=
  let c := i / 64
  let w := v &&& 0x800000003FFFFEFF
  let old := rget s (remapReg g i)
  let rows := (if bit old 63 then rowLines s g c (bits old 29 26) (bits old 25 9) else [])
    ++ (if bit w 63 then rowLines s g c (bits w 29 26) (bits w 25 9) else [])
  let s := if old = w then s else scramble s rows
  applied (countRemaps (rset s (remapReg g i) w) g c) (rowArg1 g c)
    (rowArg2 (bits w 29 26) (bits w 25 9) (bits w 7 0))

/-- A command run now, or held until the group has left self-refresh. -/
def celRun (s : State) (g kind i : Nat) (v : Word) (f : State → State) : State :=
  if bit (rget s (celReg g 0)) 11 && decide (celMode s g ≠ 2) then
    modGroup (wakeGroup s (fg g)) g (fun x => { x with waiting := x.waiting ++ [(kind, i, v)] })
  else f s

/-- CEL_FAIL_CH. -/
def execCelFailCh (group ch : Fin 16) (s : State) : Outc :=
  .next (celRun s group.val 1 ch.val 0 (fun s => failCh s group.val ch.val))

/-- CEL_REBUILD. -/
def execCelRebuild (group : Fin 16) (s : State) : Outc :=
  .next (celRun s group.val 2 0 0 (fun s => rebuild s group.val))

/-- A remap-table write whose SPARE is above 231 leaves that field unchanged (R260). -/
def remapValue (s : State) (g i : Nat) (v : Word) : Word :=
  if 231 < bits v 7 0 then (v &&& ~~~(0xFF : Word)) ||| (rget s (remapReg g i) &&& 0xFF) else v

/-- CEL_REMAP_WRITE: legal only while the group belongs to no open Gallery, with a SPARE of 0 to 231. -/
def execCelRemapWrite (group : Fin 16) (i : Fin 1024) (v : Word) (s : State) : Outc :=
  let g := group.val
  .next (if (groupOwner s g).any (fun o => isOpen s o) then celBad s g
    else
      let s := if 231 < bits v 7 0 then celBad s g else s
      celRun s g 3 i.val v (fun s => remapWrite s g i.val (remapValue s g i.val v)))

/-- REBUILD_COMPLETE: frames from index 983,040 are retired, the backed frames are zero, and the channel's record
is pinned. -/
def execRebuildComplete (group : Fin 16) (s : State) : Outc :=
  let g := group.val
  .next (if bit (rget s (celReg g 0)) 13 then
      let c := (retiredCh s g).getD 0
      let s := fset (fset (fset s (celReg g 0) 13 13 0) (celReg g 0) 31 30 1) (celReg g 0) 29 26 c
      let s := fset s (celReg g 0) 12 12 (b1 (decide (chansIn s g 1 ≠ [])))
      let keep (e : Nat × Word) : Bool :=
        decide (e.1 / 2 ^ 20 ≠ g) || (feRetired e.2 && decide (e.1 % 2 ^ 20 < 983040))
      let s := { s with mem := s.mem.clear (g * 2 ^ 37) (2 ^ 37)
                        walker := { s.walker with entries := s.walker.entries.filter keep
                                                  zeroed := s.walker.zeroed ||| BitVec.ofNat 16 (2 ^ g) } }
      applied (pinRecord s 0x0D (chArg1 g c) 0) (chArg1 g c) 0
    else s)

/-- CEL_OFFLINE: legal while no frame is mapped; every frame is retired and the channels enter self-refresh. -/
def execCelOffline (group : Fin 16) (s : State) : Outc :=
  let g := group.val
  .next (if groupMapped s g then celBad s g
    else
      let s := fset (fbit s (celReg g 0) 11) (celReg g 0) 31 30 2
      modGroup { s with walker := { s.walker with
          entries := s.walker.entries.filter (fun e => decide (e.1 / 2 ^ 20 ≠ g)) } } g
        (fun x => { x with exiting := false, waiting := [], patrol := 0, sysPatrol := 0 }))

/-- Does the Condition Report hold a pinned record? -/
def hasRecord (s : State) (kind : Nat) (a b : Word) : Bool :=
  s.cr.pinned.any (fun r => decide (bits r.ent.w0 55 48 = kind ∧ r.ent.w2 = a ∧ r.ent.w3 = b))

/-- A row retirement supplied (R248): a remap entry for it, in any entry free, and its pinned record. A row remapped
already is applied; without a free entry it stays to be applied. One that finds the row records full makes its channel
FAILING instead (R406). -/
def applyRow (s : State) (g c : Nat) (a : Word) : State :=
  let bank := bits a 3 0
  let row := bits a 24 8
  let spare := bits a 39 32
  if !hasRecord s 0x0A (rowArg1 g c) (rowArg2 bank row spare) && decide (2032 ≤ rowsTaken s) then
    applied (chanFailing s g c 1) (rowArg1 g c) (rowArg2 bank row spare)
  else
    let s := pinRecord s 0x0A (rowArg1 g c) (rowArg2 bank row spare)
    if (remapsOf s g c).any (fun e => decide (e.2 = remapWord bank row spare)) then
      applied s (rowArg1 g c) (rowArg2 bank row spare)
    else
      let t := freeWord s
      match pickCyclic 64 (t.1.toNat % 64) (fun k => !bit (rget s (remapReg g (64 * c + k))) 63) with
      | some k => remapWrite t.2 g (64 * c + k) (remapWord bank row spare)
      | none => s

/-- The retirements of a group that the Curator applies again after its ZERO (Table 11-3, step 9). -/
def reapply (s : State) (g : Nat) : State :=
  (s.retire.filter (fun r => decide (bits r.1 3 0 = g))).foldl (fun s r =>
    let c := bits r.1 7 4
    if !bit r.1 8 then applyRow s g c r.2
    else if retiredCh s g = some c then applied s r.1 r.2
    else rebuild (failCh s g c) g) s

/-- ZERO_COMPLETE: every line of the range is zero and its frames are ZEROED. A group in self-refresh has not
started yet. With the ZERO of bring-up the group's retirements are applied again. -/
def execZeroComplete (group : Fin 16) (s : State) : Outc :=
  let z := look ⟨0, 0⟩ s.walker.zeros group.val
  .next (if z.count = 0 ∨ bit (rget s (celReg group.val 0)) 11 = true then s
    else
      let first := !s.group[group].zeroDone
      let s := { s with mem := s.mem.clear (z.first * 2 ^ 17) (z.count * 2 ^ 17)
                        walker := { s.walker with zeros := put ⟨0, 0⟩ group.val ⟨0, 0⟩ s.walker.zeros } }
      let s := fset (markZeroed s z.first z.count) (celReg group.val 0) 14 14 0
      let s := { s with walker := { s.walker with images := s.walker.images.filter (fun a =>
          !decide (z.first ≤ a ∧ a + 4 ≤ z.first + z.count)) } }
      if first && s.prov.selfTest.isSome then
        reapply (modGroup s group.val (fun x => { x with zeroDone := true })) group.val
      else s)

/-- A held command starts (R249): 1 FAIL_CH, 2 REBUILD, 3 a remap-table write, 4 a RETIRE_APPLY of a row. -/
def celHeld (g : Nat) (s : State) (w : Nat × Nat × Word) : State :=
  if w.1 = 1 then failCh s g w.2.1
  else if w.1 = 2 then rebuild s g
  else if w.1 = 4 then applyRow s g w.2.1 w.2.2
  else remapWrite s g w.2.1 (remapValue s g w.2.1 w.2.2)

/-- SELF_REFRESH_ENTER: a group of no Gallery with nothing under way on it, once it is trained and the ZERO of bring-up
has ended. -/
def execSelfRefreshEnter (group : Fin 16) (s : State) : Outc :=
  let g := group.val
  let st := rget s (celReg g 0)
  .next (if (groupOwner s g).isNone && !bit st 14 && !bit st 13 && !bit st 11 && !s.group[group].exiting
      && !groupMigrating s g && (chansIn s g 3).isEmpty && s.group[group].zeroDone
      && !(bit (rget s (celReg g 0x18)) 8 && decide (s.group[group].patrol ≠ 0 ∨ s.group[group].sysPatrol ≠ 0)) then
      modGroup (fbit s (celReg g 0) 11) g (fun x => { x with patrol := 0, sysPatrol := 0 })
    else s)

/-- SELF_REFRESH_EXIT_DONE: every channel has been retrained, some perhaps without success; the group serves accesses
again, and waiting commands start. -/
def execSelfRefreshExitDone (group : Fin 16) (s : State) (failed : BitVec 16 := 0) : Outc :=
  let g := group.val
  .next (if s.group[group].exiting then
      let ws := s.group[group].waiting
      let s := modGroup (fset s (celReg g 0) 11 11 0) g
        (fun x => { x with exiting := false, waiting := [], patrol := 0, sysPatrol := 0 })
      let s := (List.range 16).foldl (fun s c =>
        if failed.toNat.testBit c && decide (chState s g c ≤ 1) then trainFail s g c else s) s
      ws.foldl (celHeld g) s
    else s)

end Sys2Proof.Machine
end

