-- ==== Sys2Proof/Machine/Operands.lean ====
section
/-! DEFINITION. Operand forms and integer arithmetic of the scalar instructions (R76, R77, R80, R83). -/

namespace Sys2Proof.Machine

/-- A 40-bit immediate, sign-extended to 64 bits (R80). -/
def imm64 (i : BitVec 40) : Word := i.signExtend 64

/-- A branch displacement counts instructions (R83). -/
def dispBytes (d : BitVec 40) : Word := d.signExtend 64 <<< 3

/-- The effective address sa + imm of a load or store. -/
def ea (h : Hart) (sa : SReg) (imm : BitVec 40) (s : State) : Nat := (getS h sa s + imm64 imm).toNat

/-- Relations of cset and cseti (Table 3-2). -/
def relHolds (r : Rel) (a b : Word) : Bool :=
  match r with
  | .eq => decide (a = b)
  | .ne => decide (a ≠ b)
  | .lt => a.slt b
  | .le => a.sle b
  | .ltu => a.ult b
  | .leu => a.ule b

/-- Branch conditions (Table 3-6). -/
def condHolds (c : Cond) (a b : Word) : Bool :=
  match c with
  | .eq => decide (a = b)
  | .ne => decide (a ≠ b)
  | .lt => a.slt b
  | .ge => !a.slt b
  | .ltu => a.ult b
  | .geu => !a.ult b
  | .always => true

/-- A Boolean as a 64-bit 0 or 1. -/
def boolWord (b : Bool) : Word := if b then 1 else 0

/-- The low 64 bits of a product, and the high 64 bits for each signedness (Table 3-2). -/
def mulLo (a b : Word) : Word := a * b
def mulHss (a b : Word) : Word := BitVec.ofInt 64 (a.toInt * b.toInt / (2 ^ 64 : Nat))
def mulHuu (a b : Word) : Word := BitVec.ofNat 64 (a.toNat * b.toNat / 2 ^ 64)
def mulHsu (a b : Word) : Word := BitVec.ofInt 64 (a.toInt * (b.toNat : Int) / (2 ^ 64 : Nat))

/-- Signed quotient toward zero, saturating; division by zero gives the limit of sa's sign (R77). -/
def quoS (a b : Word) : Word :=
  if b = 0 then (if a.slt 0 then BitVec.ofNat 64 (2 ^ 63) else BitVec.ofNat 64 (2 ^ 63 - 1))
  else if a.toInt = -(2 ^ 63 : Nat) ∧ b.toInt = -1 then BitVec.ofNat 64 (2 ^ 63 - 1)
  else BitVec.ofInt 64 (a.toInt.tdiv b.toInt)

def quoU (a b : Word) : Word := if b = 0 then -1 else BitVec.ofNat 64 (a.toNat / b.toNat)

/-- Signed remainder with the sign of sa; zero by zero and for −2⁶³ by −1 (R77). -/
def rmdS (a b : Word) : Word := if b = 0 then 0 else BitVec.ofInt 64 (a.toInt.tmod b.toInt)
def rmdU (a b : Word) : Word := if b = 0 then 0 else BitVec.ofNat 64 (a.toNat % b.toNat)

/-- Shifts and the rotate take bits [5:0] of the count (R76). -/
def shCount (b : Word) : Nat := b.toNat % 64
def shlW (a : Word) (n : Nat) : Word := a <<< n
def shrW (a : Word) (n : Nat) : Word := a >>> n
def shraW (a : Word) (n : Nat) : Word := a.sshiftRight n
def rorW (a : Word) (n : Nat) : Word := a.rotateRight n

def minS (a b : Word) : Word := if a.slt b then a else b
def maxS (a b : Word) : Word := if a.slt b then b else a
def minU (a b : Word) : Word := if a.ult b then a else b
def maxU (a b : Word) : Word := if a.ult b then b else a

/-- Leading zeros, trailing zeros and one bits among the low `n` bits. -/
def leadZeros : Nat → Nat → Nat
  | 0, _ => 0
  | n + 1, v => if v.testBit n then 0 else leadZeros n v + 1
def trailZeros : Nat → Nat → Nat
  | 0, _ => 0
  | n + 1, v => if v % 2 = 1 then 0 else trailZeros n (v / 2) + 1
def popCount : Nat → Nat → Nat
  | 0, _ => 0
  | n + 1, v => v % 2 + popCount n (v / 2)

/-- lih: bits [63:24] from the immediate, bits [23:0] from sa (Table 3-5). -/
def lihWord (a : Word) (i : BitVec 40) : Word := (a &&& 0xFFFFFF) ||| (i.setWidth 64 <<< 24)

/-- Bytes of an access size (Table 3-5). -/
def Size.bytes : Size → Nat
  | .byte => 1
  | .half => 2
  | .word => 4
  | .double => 8

/-- A loaded value extended to 64 bits. -/
def extendLoad (n : Nat) (signed : Bool) (v : Nat) : Word :=
  if signed then BitVec.ofInt 64 (signedOf (8 * n) v) else BitVec.ofNat 64 v

/-- The combining operation of amo (R82). -/
def amoOp (op : AmoOp) (old new : Word) : Word :=
  match op with
  | .add => old + new
  | .swap => new
  | .maxs => maxS old new
  | .mins => minS old new
  | .or => old ||| new
  | .and => old &&& new

/-- waitm conditions between the observed word and sb (R105). -/
def wcondHolds (c : WCond) (a b : Word) : Bool :=
  match c with
  | .eq => decide (a = b)
  | .ne => decide (a ≠ b)
  | .geu => !a.ult b
  | .ltu => a.ult b

/-- Word `w` of a tile descriptor, and the descriptor with it replaced (R79). -/
def descWord (d : BitVec 256) (w : Fin 4) : Word := d.extractLsb' (64 * w.val) 64
def setDescWord (d : BitVec 256) (w : Fin 4) (v : Word) : BitVec 256 :=
  (d &&& ~~~(BitVec.ofNat 256 ((2 ^ 64 - 1) <<< (64 * w.val)))) ||| (v.setWidth 256 <<< (64 * w.val))

end Sys2Proof.Machine
end

