-- ==== Sys2Proof/Machine/Real.lean ====
section
/-! DEFINITION. The activation functions and their derivatives (R182 to R184, Tables 6-3 and 6-4).
Transcendental values are computed to 2^-900 in units of 2^-1024 and carry a sticky bit, so that one
rounding of the result is the rounding of the exact value (log entry 6). -/

namespace Sys2Proof.Machine

/-- The unit of fixed-point values: 2^-1024. -/
def fxOne : Nat := 2 ^ 1024

/-- A value in fixed point, rounded down. -/
def toFx : Val → Int
  | .fin neg m e =>
    let k := e + 1024
    let u : Nat := if 0 ≤ k then m * 2 ^ k.toNat else m / 2 ^ (-k).toNat
    if neg then -(u : Int) else u
  | _ => 0

/-- A fixed-point approximation as a value with a sticky bit. -/
def ofFx (i : Int) : Val := .fin (decide (i < 0)) (2 * i.natAbs + 1) (-1025)

def fxMul (a b : Int) : Int := a * b / fxOne
def fxDiv (a b : Int) : Int := if b = 0 then 0 else a * fxOne / b

/-- A value held to the limits ±n: beyond them every function here rounds as at the limit. -/
def clampVal (n : Nat) (v : Val) : Val :=
  if ltVal (.fin false n 0) v then .fin false n 0
  else if ltVal v (.fin true n 0) then .fin true n 0 else v

/-- The sum of terms t, t·z/k, … of the exponential series. -/
def expSeries (z : Int) : Nat → Nat → Int → Int
  | 0, _, _ => 0
  | fuel + 1, k, t => t + expSeries z fuel (k + 1) (fxMul t z / (k : Int))

/-- Squaring, `n` times. -/
def squareTimes : Nat → Int → Int
  | 0, t => t
  | n + 1, t => squareTimes n (fxMul t t)

/-- e^y for a fixed-point y between −600 and 600. -/
def fxExp (y : Int) : Int := squareTimes 12 (expSeries (y / 4096) 170 1 fxOne)

/-- The sum of u^(2k+1)/(2k+1), or of its alternating form. -/
def oddSeries (alt : Bool) (u2 : Int) : Nat → Nat → Int → Int
  | 0, _, _ => 0
  | fuel + 1, k, t =>
    t / (2 * k + 1 : Nat) + oddSeries alt u2 fuel (k + 1) (if alt then -(fxMul t u2) else fxMul t u2)

/-- ln of a fixed-point number from 1 to 2. -/
def fxLn1 (v : Int) : Int :=
  let u := fxDiv (v - fxOne) (v + fxOne)
  2 * oddSeries false (fxMul u u) 340 0 u

def fxLn2 : Int := fxLn1 (2 * fxOne)

/-- ln(m × 2^e). -/
def fxLn (m : Nat) (e : Int) : Int :=
  let k := log2 m
  fxLn1 ((m * 2 ^ (1024 - k) : Nat) : Int) + (e + k) * fxLn2

/-- arctan(1/n) and π by Machin's formula. -/
def fxAtanInv (n : Nat) : Int :=
  let u : Int := fxOne / n
  oddSeries true (fxMul u u) 240 0 u
def fxPi : Int := 16 * fxAtanInv 5 - 4 * fxAtanInv 239

/-- √(2π). -/
def fxSqrt2Pi : Int := (isqrt (2 * fxPi.toNat * fxOne) : Nat)

/-- The terms x^(2k+1)/(1·3·…·(2k+1)). -/
def phiSeries (x2 : Int) : Nat → Nat → Int → Int
  | 0, _, _ => 0
  | fuel + 1, k, t => t + phiSeries x2 fuel (k + 1) (fxMul t x2 / (2 * k + 3 : Nat))

/-- The normal density φ(x) and distribution Φ(x) for |x| ≤ 30. -/
def fxDensity (x : Int) : Int := fxDiv (fxExp (-(fxMul x x) / 2)) fxSqrt2Pi
/-- The density is carried times e^450, so that the product keeps its precision where φ(x) is small. -/
def fxPhi (x : Int) : Int :=
  let d := fxDiv (fxExp (450 * fxOne - fxMul x x / 2)) fxSqrt2Pi
  (fxOne : Int) / 2 + d * phiSeries (fxMul x x) 2600 0 x / fxExp (450 * fxOne)

/-- 1 / (1 + e^(−x)). -/
def fxSigmoid (x : Int) : Int := fxDiv fxOne (fxOne + fxExp (-x))

def oneVal : Val := .fin false 1 0
def zeroVal : Val := .fin false 0 0

/-- Is the value above zero? -/
def isPos (v : Val) : Bool := ltVal zeroVal v

/-- f(x) of Table 6-3, exact or with a sticky bit. -/
def actVal (fn : ActFn) (alpha x : Val) : Val :=
  match x with
  | .nan => .nan
  | .inf neg =>
    match fn with
    | .relu => if neg then zeroVal else .inf false
    | .leaky => .inf neg
    | .sigmoid => if neg then zeroVal else oneVal
    | .tanh => .fin neg 1 0
    | .exp => if neg then zeroVal else .inf false
    | .gelu | .silu => if neg then .fin true 0 0 else .inf false
    | .ln => if neg then .nan else .inf false
  | .fin neg m e =>
    if m = 0 then
      match fn with
      | .relu => zeroVal
      | .leaky | .tanh | .gelu | .silu => .fin neg 0 0
      | .sigmoid => .fin false 1 (-1)
      | .exp => oneVal
      | .ln => .inf true
    else
      match fn with
      | .relu => if neg then zeroVal else x
      | .leaky => if neg then mulVal alpha x else x
      | .sigmoid => ofFx (fxSigmoid (toFx (clampVal 256 x)))
      | .tanh =>
        let t := fxExp (2 * toFx (clampVal 256 x))
        ofFx (fxDiv (t - fxOne) (t + fxOne))
      | .exp => ofFx (fxExp (toFx (clampVal 256 x)))
      | .gelu => mulVal x (ofFx (fxPhi (toFx (clampVal 30 x))))
      | .silu => mulVal x (ofFx (fxSigmoid (toFx (clampVal 256 x))))
      | .ln => if neg then .nan else if eqVal x oneVal then zeroVal else ofFx (fxLn m e)

/-- g of the output form (Table 6-4): every value is exact. -/
def derivOut (fn : ActFn) (alpha y : Val) : Val :=
  match fn with
  | .relu => if isNanV y then .nan else if isPos y then oneVal else zeroVal
  | .leaky => if isNanV y then .nan else if isPos y then oneVal else alpha
  | .sigmoid => mulVal y (addVal .rn oneVal (negVal y))
  | .tanh => addVal .rn oneVal (negVal (mulVal y y))
  | .exp => y
  | .gelu | .silu | .ln => .nan

/-- d = g × vb of the input form (Table 6-4, R184). -/
def derivIn (fn : ActFn) (alpha x vb : Val) : Val :=
  match x with
  | .nan => .nan
  | .inf neg =>
    match fn with
    | .relu => mulVal (if neg then zeroVal else oneVal) vb
    | .leaky => mulVal (if neg then alpha else oneVal) vb
    | .sigmoid | .tanh => mulVal zeroVal vb
    | .exp => mulVal (if neg then zeroVal else .inf false) vb
    | .gelu | .silu => mulVal (if neg then zeroVal else oneVal) vb
    | .ln => if neg then .nan else mulVal zeroVal vb
  | .fin neg m _ =>
    match fn with
    | .relu => mulVal (if isPos x then oneVal else zeroVal) vb
    | .leaky => mulVal (if isPos x then oneVal else alpha) vb
    | .sigmoid =>
      if m = 0 then mulVal (.fin false 1 (-2)) vb
      else
        let t := fxExp (-((toFx (clampVal 256 x)).natAbs : Int))
        mulVal (ofFx (fxDiv (fxDiv t (fxOne + t)) (fxOne + t))) vb
    | .tanh =>
      if m = 0 then mulVal oneVal vb
      else
        let t := fxExp (-(2 * ((toFx (clampVal 256 x)).natAbs : Int)))
        mulVal (ofFx (fxDiv (fxDiv (4 * t) (fxOne + t)) (fxOne + t))) vb
    | .exp => mulVal (if m = 0 then oneVal else ofFx (fxExp (toFx (clampVal 256 x)))) vb
    | .gelu =>
      if m = 0 then mulVal (.fin false 1 (-1)) vb
      else
        let y := toFx (clampVal 30 x)
        mulVal (ofFx (fxPhi y + fxMul y (fxDensity y))) vb
    | .silu =>
      if m = 0 then mulVal (.fin false 1 (-1)) vb
      else
        let y := toFx (clampVal 256 x)
        let g := fxSigmoid y
        mulVal (ofFx (fxMul g (fxOne + fxMul y (fxOne - g)))) vb
    | .ln =>
      if m = 0 then mulVal (.inf neg) vb
      else if neg then .nan
      else divVal vb x

/-- 1/√x of a positive finite value, exact or with a sticky bit (R181). -/
def rsqrtFin (m : Nat) (e : Int) : Val :=
  let m2 := if e % 2 = 0 then m else 2 * m
  let e2 := if e % 2 = 0 then e else e - 1
  let k := 128 + log2 m2
  let r := isqrt (2 ^ (2 * k) / m2)
  let h := -(k : Int) - e2 / 2
  if r * r * m2 = 2 ^ (2 * k) then .fin false r h else .fin false (4 * r + 1) (h - 2)

/-- A truncated approximation: the value rounded toward zero to FP32, mantissa bits [11:0] cleared, with
NX and UF for the value written (R180). -/
def truncApprox (v : Val) : Nat × Fl :=
  let r := roundFp spec32 .rz false v
  let c := r.1 / 4096 * 4096
  let c := if isNanV v then r.1 else c
  let nx := r.2.nx || decide (c ≠ r.1)
  (c, { r.2 with nx := nx, uf := nx && decide (r.1 % 2 ^ 31 < 0x800000) })

/-- vrcp of one element (R180). -/
def rcpElem (x : Val) : Nat × Fl :=
  match x with
  | .nan => (0x7FC00000, flNan)
  | .inf neg => (signBit spec32 neg, {})
  | .fin neg m _ => if m = 0 then (infCode spec32 neg, {}) else truncApprox (divVal oneVal x)

/-- vrsqrt of one element (R181). -/
def rsqrtElem (x : Val) : Nat × Fl :=
  match x with
  | .nan => (0x7FC00000, flNan)
  | .inf neg => if neg then (0x7FC00000, flInvalid) else (0, {})
  | .fin neg m e =>
    if m = 0 then (infCode spec32 neg, {})
    else if neg then (0x7FC00000, flInvalid) else truncApprox (rsqrtFin m e)

end Sys2Proof.Machine
end

