-- ==== Sys2Proof/Machine/Vector.lean ====
section
/-! DEFINITION. The vector instructions (R36 to R38, R85 to R90, R158 to R163, R173 to R184). -/

namespace Sys2Proof.Machine

/-! ### Elements, guards and segments -/

/-- Element `i` of a vector register in elements of `w` bits (R9, R36). -/
def elemOf (w : Nat) (v : VReg) (i : Nat) : Nat := v.toNat / 2 ^ (w * i) % 2 ^ w

/-- The number whose elements of `w` bits are given, element 0 lowest. -/
def packElems (w : Nat) : List Nat → Nat
  | [] => 0
  | c :: r => c % 2 ^ w + 2 ^ w * packElems w r

/-- The register of the elements `f 0`, `f 1`, … -/
def vecOf (w : Nat) (f : Nat → Nat) : VReg := BitVec.ofNat 16384 (packElems w ((List.range (16384 / w)).map f))

def getV (n : CoreId) (r : VNum) (s : State) : VReg := (coreAt s n).v[r]
def getPsn (n : CoreId) (r : VNum) (s : State) : BitVec 32 := (coreAt s n).vpsn[r]

/-- Does the guard govern 16-bit unit `j`, and element `i` of `w` bits (R36)? -/
def unitOn (n : CoreId) (g : Guard) (s : State) (j : Nat) : Bool := (getP n g.p s).toNat.testBit j != g.neg
def guardOn (n : CoreId) (g : Guard) (s : State) (w i : Nat) : Bool := unitOn n g s (i * w / 16)

/-- The segment of element `i`, and the elements of a segment. -/
def segOf (w i : Nat) : Nat := i * w / 512
def segElems (w k : Nat) : List Nat := (List.range (512 / w)).map (fun i => k * (512 / w) + i)

/-- Is the segment that holds element `i` of a register poisoned? -/
def elemPsn (n : CoreId) (r : VNum) (s : State) (w i : Nat) : Bool := (getPsn n r s).toNat.testBit (segOf w i)

/-- The poison bits after the governed elements are written (R37, R38): a segment computed from poison is
poisoned, one fully written from unpoisoned sources is cleared. -/
def psnAfter (w : Nat) (old : BitVec 32) (on src : Nat → Bool) : BitVec 32 :=
  BitVec.ofNat 32 (packElems 1 ((List.range 32).map (fun k =>
    b1 (if (segElems w k).any (fun i => on i && src i) then true
      else if (segElems w k).all on then false else old.toNat.testBit k))))

/-- Write the governed elements of vd with `f`, `src` telling which come from poisoned segments. -/
def commitV (n : CoreId) (vd : VNum) (w : Nat) (on : Nat → Bool) (f : Nat → Nat) (src : Nat → Bool)
    (s : State) : State :=
  setV n vd (vecOf w (fun i => if on i then f i else elemOf w (getV n vd s) i))
    (psnAfter w (getPsn n vd s) on src) s

/-! ### Errors of the register file and the Vat (R90, R134, R192, R387) -/

/-- SRAM_UE of the vector unit. -/
def vecUe : Exc := { code := 0x0B, src := 1 }

/-- Mark one segment of a vector register poisoned. -/
def poisonSeg (n : CoreId) (r : VNum) (k : Fin 32) (s : State) : State :=
  modCore s n (fun c => { c with vpsn := c.vpsn.set r (c.vpsn[r] ||| (1 : BitVec 32) <<< k.val) })

/-- One row's poison bit replaced. -/
def setRow (p : BitVec 128) (row : Fin 128) (b : Bool) : BitVec 128 :=
  let m : BitVec 128 := (1 : BitVec 128) <<< row.val
  if b then p ||| m else p &&& ~~~m

/-- An instruction reads the registers `rs` and perhaps a Vat row, and meets `e`: a corrected error is counted, an
uncorrectable one poisons its segment or its row; both are scored. An error of storage that it does not read is not met. -/
def meetErr (n : CoreId) (e : RegErr) (rs : List VNum) (row : Option (Fin 128)) (s : State) : State :=
  match e, row with
  | .ce, _ => if rs = [] then s else appraise (counted (fincr s (vecReg n.val 0x60) 31 0 1)) (0x110 + clusterOf n) 1
  | .ue r k, _ => if rs.contains r then appraise (poisonSeg n r k s) (0x110 + clusterOf n) 1024 else s
  | .rowCe, some _ => appraise (counted (fincr s (engReg n.val 0x18) 31 16 1)) (0x110 + clusterOf n) 1
  | .rowUe, some r =>
    appraise (modCore s n (fun c => { c with vatPsn := setRow c.vatPsn r true })) (0x110 + clusterOf n) 1024
  | _, _ => s

/-- Is the error met one that raises SRAM_UE? -/
def ueMet (e : RegErr) (rs : List VNum) (row : Option (Fin 128)) : Bool :=
  match e with
  | .ue r _ => rs.contains r
  | .rowUe => row.isSome
  | _ => false

/-- The effect of a vector instruction whose read of its registers may meet an error. An uncorrectable one does not
stop the instruction: it writes its destination and raises SRAM_UE as a unit exception, ahead of a trap of its own,
whose entry is still reported (R63). A POISON fault that the marked segment causes comes first (R116), the segment
staying marked (log entry 95). -/
def withErr (n : CoreId) (e : RegErr) (rs : List VNum) (row : Option (Fin 128)) (f : State → Eff) (s : State) : Eff :=
  let pc := (coreAt s n).pc
  match f (meetErr n e rs row s) with
  | .done t => if ueMet e rs row then .trap t vecUe else .done t
  | .trap t x =>
    if ueMet e rs row ∧ x ≠ vecUe then .trap (report (excSeal t n x) (excErr t n x (causeWord x 2 false) pc)) vecUe
    else .trap t x
  | .hold _ => .hold s
  | .fault x =>
    if x.code = 0x0A ∧ ueMet e rs row then .stop (takeExc (meetErr n e rs row s) n x 2 true pc pc) else .fault x
  | r => r

/-- Issue a vector instruction that reads the registers `rs` and perhaps a Vat row. -/
def issueV (h : Hart) (i : Instr) (g : Guard) (rs : List VNum) (row : Option (Fin 128)) (f : CoreId → State → Eff)
    (s : State) : State :=
  issue h i 2 (ctxOnly h (fun n => withErr n g.err rs row (f n))) s

/-- An instruction of the vector unit that moves or computes bits without floating point. -/
def bitsOp (h : Hart) (i : Instr) (g : Guard) (rs : List VNum) (fmt : Fmt) (vd : VNum) (f : CoreId → State → Nat → Nat)
    (src : CoreId → State → Nat → Bool) (s : State) : State :=
  issueV h i g rs none (fun n s =>
    .done (commitV n vd (fmtBits fmt) (guardOn n g s (fmtBits fmt)) (f n s) (src n s) s)) s

/-! ### Floating-point results -/

/-- Flags of the results together, and the first element that met a NaN event with its lowest cause (R167, R172). -/
def allFlags (rs : List (Nat × Fl)) : Fl := rs.foldl (fun a r => a.or r.2) {}
def firstEvent : List (Nat × Fl) → Option (Nat × Nat)
  | [] => none
  | (i, fl) :: r =>
    match fl.cause with
    | some c => some (i, c)
    | none => firstEvent r

/-- VEC_STATUS.NANOUT and INFOUT for the values written (Table 6-6). -/
def noteOut (n : CoreId) (vs : List Val) (s : State) : State :=
  let r := vecReg n.val 0
  let s := if vs.any isNanV then fbit s r 6 else s
  if vs.any (fun v => match v with
    | .inf _ => true
    | _ => false) then fbit s r 5 else s

/-- VEC_STATUS as it reads: VPSN says that a segment is poisoned (Table 6-6). -/
def vecStatus (s : State) (n : CoreId) : Word :=
  setBits (rget s (vecReg n.val 0)) 7 7 (b1 ((coreAt s n).vpsn.toList.any (fun p => decide (p ≠ 0))))

/-- Flags set, results noted, and the NaN event raised (R90, R153). -/
def vecEvents (n : CoreId) (unit : Nat) (fl : Fl) (ev : Option (Nat × Nat)) (vs : List Val) (pc : Word)
    (s : State) : State :=
  let s := noteOut n vs (setFlags n fl s)
  match ev with
  | none => s
  | some (i, c) => nanEvent s n unit 2 c 0 i 0 pc

/-- An element-wise floating-point instruction: `f` gives an element's code and flags. -/
def fpOp (h : Hart) (i : Instr) (g : Guard) (rs : List VNum) (fmt : Fmt) (vd : VNum)
    (f : CoreId → State → Nat → Nat × Fl) (src : CoreId → State → Nat → Bool) (s : State) : State :=
  issueV h i g rs none (fun n s =>
    let w := fmtBits fmt
    let on := guardOn n g s w
    let res := ((List.range (16384 / w)).filter on).map (fun k => (k, f n s k))
    let fls := res.map (fun r => (r.1, r.2.2))
    let t := commitV n vd w on (fun k => (f n s k).1) (src n s) s
    .done (vecEvents n 1 (allFlags fls) (firstEvent fls) (res.map (fun r => decodeElem fmt r.2.1))
      (coreAt s n).pc t)) s

/-- The value of element `i` of a register. -/
def elemVal (n : CoreId) (fmt : Fmt) (r : VNum) (s : State) (i : Nat) : Val :=
  decodeElem fmt (elemOf (fmtBits fmt) (getV n r s) i)

/-- A result rounded once into the format, with the flags of its inputs. -/
def fpElem (fmt : Fmt) (rm : Rm) (ins : List Val) (v : Val) : Nat × Fl :=
  let r := roundFp (specOf fmt) rm false v
  (r.1, r.2.or (opFlags ins v))

/-- Poison of one and of two source registers at an element. -/
def psn1 (w : Nat) (va : VNum) (n : CoreId) (s : State) (i : Nat) : Bool := elemPsn n va s w i
def psn2 (w : Nat) (va vb : VNum) (n : CoreId) (s : State) (i : Nat) : Bool :=
  elemPsn n va s w i || elemPsn n vb s w i

/-- va + vb. -/
def execVadd (h : Hart) (g : Guard) (fmt : Fmt) (rm : RmField) (vd va vb : VNum) (s : State) : Outc :=
  .next (fpOp h (.vadd h g fmt rm vd va vb) g [va, vb] fmt vd (fun n s i =>
    let r := fieldRm rm n s
    fpElem fmt r [elemVal n fmt va s i, elemVal n fmt vb s i]
      (addVal r (elemVal n fmt va s i) (elemVal n fmt vb s i))) (psn2 (fmtBits fmt) va vb) s)

/-- va − vb. -/
def execVsub (h : Hart) (g : Guard) (fmt : Fmt) (rm : RmField) (vd va vb : VNum) (s : State) : Outc :=
  .next (fpOp h (.vsub h g fmt rm vd va vb) g [va, vb] fmt vd (fun n s i =>
    let r := fieldRm rm n s
    fpElem fmt r [elemVal n fmt va s i, elemVal n fmt vb s i]
      (addVal r (elemVal n fmt va s i) (negVal (elemVal n fmt vb s i)))) (psn2 (fmtBits fmt) va vb) s)

/-- va × vb. -/
def execVmul (h : Hart) (g : Guard) (fmt : Fmt) (rm : RmField) (vd va vb : VNum) (s : State) : Outc :=
  .next (fpOp h (.vmul h g fmt rm vd va vb) g [va, vb] fmt vd (fun n s i =>
    fpElem fmt (fieldRm rm n s) [elemVal n fmt va s i, elemVal n fmt vb s i]
      (mulVal (elemVal n fmt va s i) (elemVal n fmt vb s i))) (psn2 (fmtBits fmt) va vb) s)

/-- va × vb + vd, rounded once. -/
def execVfma (h : Hart) (g : Guard) (fmt : Fmt) (rm : RmField) (vd va vb : VNum) (s : State) : Outc :=
  .next (fpOp h (.vfma h g fmt rm vd va vb) g [va, vb, vd] fmt vd (fun n s i =>
    let r := fieldRm rm n s
    fpElem fmt r [elemVal n fmt va s i, elemVal n fmt vb s i, elemVal n fmt vd s i]
      (addVal r (mulVal (elemVal n fmt va s i) (elemVal n fmt vb s i)) (elemVal n fmt vd s i)))
    (fun n s i => psn2 (fmtBits fmt) va vb n s i || psn1 (fmtBits fmt) vd n s i) s)

/-- The lesser element; any NaN gives the canonical NaN (R85). -/
def execVmin (h : Hart) (g : Guard) (fmt : Fmt) (vd va vb : VNum) (s : State) : Outc :=
  .next (fpOp h (.vmin h g fmt vd va vb) g [va, vb] fmt vd (fun n s i =>
    fpElem fmt .rn [elemVal n fmt va s i, elemVal n fmt vb s i]
      (minVal (elemVal n fmt va s i) (elemVal n fmt vb s i))) (psn2 (fmtBits fmt) va vb) s)

/-- The greater element; any NaN gives the canonical NaN (R85). -/
def execVmax (h : Hart) (g : Guard) (fmt : Fmt) (vd va vb : VNum) (s : State) : Outc :=
  .next (fpOp h (.vmax h g fmt vd va vb) g [va, vb] fmt vd (fun n s i =>
    fpElem fmt .rn [elemVal n fmt va s i, elemVal n fmt vb s i]
      (maxVal (elemVal n fmt va s i) (elemVal n fmt vb s i))) (psn2 (fmtBits fmt) va vb) s)

/-- Reciprocal approximation (R180). -/
def execVrcp (h : Hart) (g : Guard) (fmt : Fmt) (vd va : VNum) (s : State) : Outc :=
  .next (fpOp h (.vrcp h g fmt vd va) g [va] fmt vd (fun n s i => rcpElem (elemVal n fmt va s i))
    (psn1 (fmtBits fmt) va) s)

/-- Reciprocal square root approximation (R181). -/
def execVrsqrt (h : Hart) (g : Guard) (fmt : Fmt) (vd va : VNum) (s : State) : Outc :=
  .next (fpOp h (.vrsqrt h g fmt vd va) g [va] fmt vd (fun n s i => rsqrtElem (elemVal n fmt va s i))
    (psn1 (fmtBits fmt) va) s)

/-- Correctly rounded square root. -/
def execVsqrt (h : Hart) (g : Guard) (fmt : Fmt) (rm : RmField) (vd va : VNum) (s : State) : Outc :=
  .next (fpOp h (.vsqrt h g fmt rm vd va) g [va] fmt vd (fun n s i =>
    fpElem fmt (fieldRm rm n s) [elemVal n fmt va s i] (sqrtVal (elemVal n fmt va s i)))
    (psn1 (fmtBits fmt) va) s)

/-- The leaky slope α (Table 6-6). -/
def alphaVal (n : CoreId) (s : State) : Val := val32 (fget s (vecReg n.val 0x58) 31 0)

/-- Activation function (R182). -/
def execVact (h : Hart) (g : Guard) (fmt : Fmt) (rm : RmField) (fn : ActFn) (vd va : VNum) (s : State) : Outc :=
  .next (fpOp h (.vact h g fmt rm fn vd va) g [va] fmt vd (fun n s i =>
    fpElem fmt (fieldRm rm n s) [elemVal n fmt va s i] (actVal fn (alphaVal n s) (elemVal n fmt va s i)))
    (psn1 (fmtBits fmt) va) s)

/-- Derivative times upstream gradient (R183, R184). -/
def execVactd (h : Hart) (g : Guard) (fmt : Fmt) (rm : RmField) (fn : ActFn) (input : Bool) (vd va vb : VNum)
    (s : State) : Outc :=
  .next (fpOp h (.vactd h g fmt rm fn input vd va vb) g [va, vb] fmt vd (fun n s i =>
    let x := elemVal n fmt va s i
    let b := elemVal n fmt vb s i
    fpElem fmt (fieldRm rm n s) [x, b]
      (if input then derivIn fn (alphaVal n s) x b else mulVal (derivOut fn (alphaVal n s) x) b))
    (psn2 (fmtBits fmt) va vb) s)

/-- va × the FP32 in bits [31:0] of sa. -/
def execVmuls (h : Hart) (g : Guard) (fmt : Fmt) (rm : RmField) (vd va : VNum) (sa : SReg) (s : State) : Outc :=
  .next (fpOp h (.vmuls h g fmt rm vd va sa) g [va] fmt vd (fun n s i =>
    let b := val32 (getS h sa s).toNat
    fpElem fmt (fieldRm rm n s) [elemVal n fmt va s i, b] (mulVal (elemVal n fmt va s i) b))
    (psn1 (fmtBits fmt) va) s)

/-! ### Compare and select -/

/-- A relation of vcmp on two values; a NaN makes ne true and every other false (Table 3-7). -/
def vrelHolds (cc : VRel) (x y : Val) : Bool :=
  match cc with
  | .eq => eqVal x y
  | .ne => !eqVal x y
  | .lt => ltVal x y
  | .le => ltVal x y || eqVal x y
  | .gt => ltVal y x
  | .ge => ltVal y x || eqVal x y

/-- vcmp.cc: a relation per element into a predicate. A governed element of a poisoned segment raises
POISON as a fault, since poison would reach a predicate (R38). -/
def execVcmp (h : Hart) (g : Guard) (fmt : Fmt) (cc : VRel) (pd : PReg) (va vb : VNum) (s : State) : Outc :=
  .next (issueV h (.vcmp h g fmt cc pd va vb) g [va, vb] none (fun n s =>
    let w := fmtBits fmt
    let on := guardOn n g s w
    let els := (List.range (16384 / w)).filter on
    if els.any (psn2 w va vb n s) then .fault { excPoison 0 with src := 1 }
    else
      let hold (i : Nat) : Bool := vrelHolds cc (elemVal n fmt va s i) (elemVal n fmt vb s i)
      let p := BitVec.ofNat 1024 (packElems 1 ((List.range 1024).map (fun j =>
        let i := j * 16 / w
        b1 (if on i then hold i else (getP n pd s).toNat.testBit j))))
      let fls := els.map (fun i => (i, opFlags [elemVal n fmt va s i, elemVal n fmt vb s i] zeroVal))
      .done (vecEvents n 1 (allFlags fls) (firstEvent fls) [] (coreAt s n).pc (setP n pd p s))) s)

/-- vsel: va where pn governs a 1, else vb. -/
def execVsel (h : Hart) (g : Guard) (fmt : Fmt) (vd va vb : VNum) (pn : PReg) (s : State) : Outc :=
  let w := fmtBits fmt
  let pick (n : CoreId) (s : State) (i : Nat) : VNum :=
    if (getP n pn s).toNat.testBit (i * w / 16) then va else vb
  .next (bitsOp h (.vsel h g fmt vd va vb pn) g [va, vb] fmt vd (fun n s i => elemOf w (getV n (pick n s i) s) i)
    (fun n s i => elemPsn n (pick n s i) s w i) s)

/-! ### Integer and bitwise -/

/-- A 32-bit element-wise operation on two registers. -/
def laneOp (h : Hart) (i : Instr) (g : Guard) (fmt : Fmt) (vd va vb : VNum) (f : Nat → Nat → Nat) (s : State) : State :=
  bitsOp h i g [va, vb] fmt vd (fun n s k => f (elemOf 32 (getV n va s) k) (elemOf 32 (getV n vb s) k)) (psn2 32 va vb) s

/-- Bitwise AND. -/
def execVand (h : Hart) (g : Guard) (fmt : Fmt) (vd va vb : VNum) (s : State) : Outc :=
  .next (laneOp h (.vand h g fmt vd va vb) g fmt vd va vb (fun a b => a &&& b) s)

/-- Bitwise OR. -/
def execVor (h : Hart) (g : Guard) (fmt : Fmt) (vd va vb : VNum) (s : State) : Outc :=
  .next (laneOp h (.vor h g fmt vd va vb) g fmt vd va vb (fun a b => a ||| b) s)

/-- Bitwise exclusive OR. -/
def execVxor (h : Hart) (g : Guard) (fmt : Fmt) (vd va vb : VNum) (s : State) : Outc :=
  .next (laneOp h (.vxor h g fmt vd va vb) g fmt vd va vb (fun a b => a ^^^ b) s)

/-- Shift left by bits [4:0] of vb. -/
def execVshl (h : Hart) (g : Guard) (fmt : Fmt) (vd va vb : VNum) (s : State) : Outc :=
  .next (laneOp h (.vshl h g fmt vd va vb) g fmt vd va vb (fun a b => a * 2 ^ (b % 32)) s)

/-- Shift right by bits [4:0] of vb, arithmetic where FN[0] = 1. -/
def execVshr (h : Hart) (g : Guard) (fmt : Fmt) (arith : Bool) (vd va vb : VNum) (s : State) : Outc :=
  .next (laneOp h (.vshr h g fmt arith vd va vb) g fmt vd va vb (fun a b =>
    if arith then unsignedOf 32 (signedOf 32 a / (2 ^ (b % 32) : Nat)) else a / 2 ^ (b % 32)) s)

/-- Sum modulo 2³². -/
def execViadd (h : Hart) (g : Guard) (fmt : Fmt) (vd va vb : VNum) (s : State) : Outc :=
  .next (laneOp h (.viadd h g fmt vd va vb) g fmt vd va vb (fun a b => a + b) s)

/-- Every element = the low bits of sa. -/
def execVbcast (h : Hart) (g : Guard) (fmt : Fmt) (vd : VNum) (sa : SReg) (s : State) : Outc :=
  .next (bitsOp h (.vbcast h g fmt vd sa) g [] fmt vd (fun _ s _ => (getS h sa s).toNat) (fun _ _ _ => false) s)

/-- vd[i] = i. -/
def execVidx (h : Hart) (g : Guard) (fmt : Fmt) (vd : VNum) (s : State) : Outc :=
  .next (bitsOp h (.vidx h g fmt vd) g [] fmt vd (fun _ _ i => i) (fun _ _ _ => false) s)

/-- va[vb[i] mod 512]. -/
def execVperm (h : Hart) (g : Guard) (fmt : Fmt) (vd va vb : VNum) (s : State) : Outc :=
  let idx (n : CoreId) (s : State) (i : Nat) : Nat := elemOf 32 (getV n vb s) i % 512
  .next (bitsOp h (.vperm h g fmt vd va vb) g [va, vb] fmt vd (fun n s i => elemOf 32 (getV n va s) (idx n s i))
    (fun n s i => elemPsn n vb s 32 i || elemPsn n va s 32 (idx n s i)) s)

/-- SA = element FN of va, zero-extended. An element that the guard leaves out changes nothing; one of a
poisoned segment raises POISON as a fault (R90). -/
def execVext (h : Hart) (g : Guard) (fmt : Fmt) (sa : SReg) (va : VNum) (idx : BitVec 12) (s : State) : Outc :=
  .next (issueV h (.vext h g fmt sa va idx) g [va] none (fun n s =>
    let w := fmtBits fmt
    if !guardOn n g s w idx.toNat then .done s
    else if elemPsn n va s w idx.toNat then .fault { excPoison 0 with src := 1 }
    else .done (setS h sa (BitVec.ofNat 64 (elemOf w (getV n va s) idx.toNat)) s)) s)

/-! ### Conversion (R86, R154 to R163) -/

/-- The elements that vcvt converts: 512 when either format is 32 bits wide, else 1,024. -/
def cvtCount (d src : Fmt) : Nat := if fmtBits d = 32 ∨ fmtBits src = 32 then 512 else 1024

/-- EMAX of an MX element format (Table 5-4). -/
def emaxOf : Fmt → Int
  | .e4m3 => 8
  | .e5m2 | .sf16 => 15
  | .e3m2 => 4
  | _ => 2

/-- The exponent ⌊log₂ |x|⌋ of a finite non-zero value. -/
def expOf : Val → Option Int
  | .fin _ m e => if m = 0 then none else some (e + log2 m)
  | _ => none

/-- The greatest exponent among finite non-zero values. -/
def maxExp : List Val → Option Int
  | [] => none
  | v :: r =>
    match expOf v, maxExp r with
    | some a, some b => some (max a b)
    | some a, none => some a
    | none, b => b

def isInfV : Val → Bool
  | .inf _ => true
  | _ => false

/-- An encoded block: its scale code, and each element's code, flags and whether it was flushed. -/
structure Block where
  scale : Nat
  codes : List (Nat × Fl × Bool)

/-- A value times 2^−X. -/
def unscale (x : Int) : Val → Val
  | .fin neg m e => .fin neg m (e - x)
  | v => v

/-- One block of values encoded into MX (R161 to R163). -/
def mxBlock (d src : Fmt) (rm : Rm) (vs : List Val) : Block :=
  if vs.any isNanV then
    -- A NaN in the block: every NaN element is consumed (R162).
    ⟨0xFF, vs.map (fun v => (0, if isNanV v then { flNan with cause := some (if src = .e8m0 then 3 else 1) } else {}, false))⟩
  else if vs.any isInfV then
    ⟨0xFF, vs.map (fun v => (0, if isInfV v then { nv := true, cause := some 6 } else {}, false))⟩
  else
    match maxExp vs with
    | none => ⟨0, vs.map (fun _ => (0, {}, false))⟩
    | some a =>
      let x := max (a - emaxOf d) (-127)
      ⟨(x + 127).toNat, vs.map (fun v =>
        let r := roundFp (specOf d) rm true (unscale x v)
        let c := plusZero d r.1
        (c, r.2, !isZero v && decide (c = 0)))⟩

/-- The 32 values of block `b`. -/
def blockVals (f : Nat → Val) (b : Nat) : List Val := (List.range 32).map (fun j => f (32 * b + j))

/-- The results of a vcvt: codes and flags by element, scale codes by block, and the flush count. -/
structure Cvt where
  codes : List (Nat × Fl)
  scales : List Nat
  flushed : Nat

def cvtElems (d src : Fmt) (rm : Rm) (sat mx : Bool) (f : Nat → Val) : Cvt :=
  let k := cvtCount d src
  if mx then
    let bs := (List.range (k / 32)).map (fun b => mxBlock d src rm (blockVals f b))
    ⟨bs.flatMap (fun b => b.codes.map (fun c => (c.1, c.2.1))), bs.map Block.scale,
      (bs.flatMap Block.codes).countP (fun c => c.2.2)⟩
  else
    ⟨(List.range k).map (fun i =>
      let r := convVal d rm sat src (f i)
      (plusZero d r.1, r.2)), [], 0⟩

/-- Is destination element `i` of vcvt computed from a poisoned segment? An element of an MX block takes
its scale from the whole block. -/
def cvtPsn (n : CoreId) (src : Fmt) (mx : Bool) (va : VNum) (s : State) (k i : Nat) : Bool :=
  decide (i < k) &&
    (if mx then (List.range 32).any (fun j => elemPsn n va s (fmtBits src) (i / 32 * 32 + j))
     else elemPsn n va s (fmtBits src) i)

/-- vcvt: convert, or encode microscaling blocks; bytes above the last element are zeroed. Where vd and vc
are one register the spec does not say which result stands (log entry 3). -/
def execVcvt (h : Hart) (g : Guard) (d src : Fmt) (rm : RmField) (sat mx : Bool) (vd va vc : VNum)
    (s : State) : Outc :=
  let i : Instr := .vcvt h g d src rm sat mx vd va vc
  .next (issueV h i g [va] none (fun n s =>
    let k := cvtCount d src
    let r := cvtElems d src (fieldRm rm n s) sat mx (fun i => elemVal n src va s i)
    let w := fmtBits d
    let all : Nat → Bool := fun _ => true
    let any := (List.range k).any (fun i => elemPsn n va s (fmtBits src) i)
    let putD (t : State) : State :=
      commitV n vd w all (fun i => (r.codes.getD i (0, {})).1) (cvtPsn n src mx va s k) t
    let putC (t : State) : State :=
      commitV n vc 8 all (fun i => r.scales.getD i 0) (fun i => any && decide (i < r.scales.length)) t
    let t := if !mx then putD s
      else if vd = vc ∧ Config.sameDest (encodeSeisk i) (getV n va s) then putD (putC s)
      else putC (putD s)
    let t := fincr t (engReg n.val 0x10) 31 0 r.flushed
    let fls := (List.range k).map (fun i => (i, (r.codes.getD i (0, {})).2))
    .done (vecEvents n 1 (allFlags fls) (firstEvent fls)
      (r.codes.map (fun c => decodeElem d c.1) ++ r.scales.map (decodeElem .e8m0))
      (coreAt s n).pc t)) s)

/-! ### Reductions (R175 to R179) -/

/-- A node of the tree: its code, its lowest lane, and the events met, by lane. -/
structure Node where
  code : Nat
  lane : Nat

/-- One level of the tree: nodes 2j and 2j + 1 combine, and the flags met name the lowest lane. -/
def treeLevel (f : Nat → Nat → Nat × Fl) : List Node → List Node × List (Nat × Fl)
  | a :: b :: r =>
    let t := treeLevel f r
    let x := f a.code b.code
    (⟨x.1, a.lane⟩ :: t.1, (a.lane, x.2) :: t.2)
  | l => (l, [])

/-- The tree of nine levels. -/
def treeRun (f : Nat → Nat → Nat × Fl) : Nat → List Node → List Node × List (Nat × Fl)
  | 0, l => (l, [])
  | k + 1, l =>
    let t := treeLevel f l
    let u := treeRun f k t.1
    (u.1, t.2 ++ u.2)

/-- FP32 combination under a mode: a NaN of an operand was met before, only a NaN from none is an event. -/
def treeFp (fn : RedFn) (rm : Rm) (a b : Nat) : Nat × Fl :=
  let x := val32 a
  let y := val32 b
  match fn with
  | .sum =>
    let v := addVal rm x y
    let r := roundFp spec32 rm false v
    (r.1, if isNanV x || isNanV y then {} else r.2.or (opFlags [] v))
  | .max => ((roundFp spec32 rm false (maxVal x y)).1, {})
  | .min => ((roundFp spec32 rm false (minVal x y)).1, {})

/-- INT32 combination: a sum wraps. -/
def treeInt (fn : RedFn) (a b : Nat) : Nat × Fl :=
  match fn with
  | .sum => ((a + b) % 2 ^ 32, {})
  | .max => (if signedOf 32 a < signedOf 32 b then b else a, {})
  | .min => (if signedOf 32 b < signedOf 32 a then b else a, {})

/-- The least lane with an event, and the lowest cause there. -/
def leastEvent (es : List (Nat × Fl)) : Option (Nat × Nat) :=
  es.foldl (fun best e =>
    match e.2.cause, best with
    | none, b => b
    | some c, none => some (e.1, c)
    | some c, some (i, d) =>
      if e.1 < i then some (e.1, c) else if e.1 = i then some (i, min c d) else some (i, d)) none

/-- The lanes of a register as leaves. -/
def lanesOf (v : VReg) : List Node := (List.range 512).map (fun i => ⟨elemOf 32 v i, i⟩)

/-- The NaN events of the lanes themselves. -/
def laneNans (v : VReg) : List (Nat × Fl) :=
  ((List.range 512).filter (fun i => isNanV (val32 (elemOf 32 v i)))).map (fun i => (i, flNan))

/-- A reduction of a register: element 0, and the flags met. -/
def reduce (f : Nat → Nat → Nat × Fl) (v : VReg) : Nat × List (Nat × Fl) :=
  let t := treeRun f 9 (lanesOf v)
  ((t.1.headD ⟨0, 0⟩).code, t.2)

/-- Write element 0 and zero elsewhere, every segment poisoned where any source segment is (R176). -/
def putReduced (n : CoreId) (vd : VNum) (f : Nat → Nat) (psn : Bool) (s : State) : State :=
  commitV n vd 32 (fun _ => true) f (fun _ => psn) s

/-- vred: the reduction of all lanes on the fixed tree (R175). -/
def execVred (h : Hart) (g : Guard) (fmt : Fmt) (rm : RmField) (fn : RedFn) (vd va : VNum) (s : State) : Outc :=
  .next (issueV h (.vred h g fmt rm fn vd va) g [va] none (fun n s =>
    let v := getV n va s
    let psn := decide (getPsn n va s ≠ 0)
    if fmt = .i32 then
      let r := reduce (treeInt fn) v
      .done (putReduced n vd (fun i => if i = 0 then r.1 else 0) psn s)
    else
      let r := reduce (treeFp fn (fieldRm rm n s)) v
      let c := plusZero .f32 r.1
      let es := laneNans v ++ r.2
      let t := putReduced n vd (fun i => if i = 0 then c else 0) psn s
      .done (vecEvents n 1 (allFlags es) (leastEvent es) [val32 c] (coreAt s n).pc t)) s)

/-- Does lane x rank above lane y (R178)? -/
def ranksAbove (x y : Nat × Nat) : Bool :=
  let a := val32 x.2
  let b := val32 y.2
  if isNanV a then (if isNanV b then decide (x.1 < y.1) else true)
  else if isNanV b then false
  else ltVal b a || (!ltVal a b && decide (x.1 < y.1))

/-- The highest-ranked of a list of (lane, code) pairs. -/
def topOf : List (Nat × Nat) → Option (Nat × Nat)
  | [] => none
  | x :: r =>
    match topOf r with
    | none => some x
    | some y => if ranksAbove x y then some x else some y

/-- The k highest-ranked lanes, highest first. -/
def topK : Nat → List (Nat × Nat) → List (Nat × Nat)
  | 0, _ => []
  | k + 1, l =>
    match topOf l with
    | none => []
    | some x => x :: topK k (l.filter (fun y => decide (y.1 ≠ x.1)))

/-- A ranked value as it is written: NaN canonical, −0 as +0. -/
def rankCode (c : Nat) : Nat := if isNanV (val32 c) then 0x7FC00000 else plusZero .f32 c

/-- vcred in the cluster reduction unit (R177 to R179). An uncorrectable error in its operand path poisons
both destinations and raises SRAM_UE as a unit exception. -/
def execVcred (h : Hart) (g : Guard) (fmt : Fmt) (op : CredOp) (operandUe : Bool) (vd vc va : VNum)
    (s : State) : Outc :=
  let i : Instr := .vcred h g fmt op operandUe vd vc va
  .next (issueV h i g [va] none (fun n s =>
    let v := getV n va s
    let psn := decide (getPsn n va s ≠ 0) || operandUe
    let pc := (coreAt s n).pc
    let lanes := (List.range 512).map (fun i => (i, elemOf 32 v i))
    let t := logCru s n (.vcred h g fmt op false vd vc va)
    let ran (k : Nat) (t : State) : State × List Nat :=
      let top := topK k lanes
      let putD (t : State) := putReduced n vd (fun i => ((top.map (fun x => rankCode x.2))).getD i 0) psn t
      let putC (t : State) := putReduced n vc (fun i => (top.map Prod.fst).getD i 0) psn t
      (if vd = vc ∧ Config.sameDest (encodeSeisk i) v then putD (putC t) else putC (putD t), top.map (fun x => rankCode x.2))
    let r : State × List Nat × List (Nat × Fl) := match op with
      | .sum =>
        let x := reduce (treeFp .sum .rn) v
        let c := plusZero .f32 x.1
        (putReduced n vd (fun i => if i = 0 then c else 0) psn t, [c], laneNans v ++ x.2)
      | .max => ((ran 1 t).1, (ran 1 t).2, laneNans v)
      | .topk k => ((ran k.val t).1, (ran k.val t).2, laneNans v)
    let t := fincr r.1 (cruReg (clusterOf n)) 31 0 1
    -- The cluster reduction unit sets no fpctl flag (R153).
    let t := noteOut n (r.2.1.map val32) t
    let t := match leastEvent r.2.2 with
      | none => t
      | some (l, c) => nanEvent t n 3 2 c 0 l 0 pc
    if operandUe then .trap (appraise t (0x110 + clusterOf n) 1024) { code := 0x0B, src := 1 } else .done t) s)

/-! ### Loads and stores (R87) -/

/-- The address sa + 64 × off. -/
def vaddr (h : Hart) (sa : SReg) (off : BitVec 12) (s : State) : Nat :=
  (getS h sa s + off.signExtend 64 <<< 6).toNat

/-- Is the address 64-byte aligned with `k` bytes wholly in the Cask or the Reserve? -/
def vecAddrOk (a k : Nat) : Bool :=
  decide (a % 64 = 0 ∧ (winOf a k = .cask ∨ winOf a k = .reserve))

/-- The 2,048 bytes at a place as a register, and its poison bits. -/
def memVec (m : Memory) (pa : Nat) : VReg := BitVec.ofNat 16384 (leNat (m.bytes pa 2048))

/-- vld: load 2,048 bytes; poisoned lines set the poison bits and raise nothing. An error is met in its first line. -/
def execVld (h : Hart) (g : Guard) (fmt : Fmt) (err : SramErr) (vd : VNum) (sa : SReg) (off : BitVec 12) (s : State) :
    Outc :=
  let i : Instr := .vld h g fmt err vd sa off
  .next (issueV h i g [] none (fun n s =>
    let a := vaddr h sa off s
    if !vecAddrOk a 2048 then .fault (excAddress a)
    else
      let w := fmtBits fmt
      let pa := sramAt n a
      let v := memVec s.mem pa
      let t := lineMet (logSram s n i a) n a err
      let r := commitV n vd w (guardOn n g s w) (fun k => elemOf w v k)
        (fun k => t.mem.isPoisoned (pa / 64 + segOf w k)) t
      if err = .ue then lineCharge r s n a else .done r) s)

/-- One 64-byte line of a vst: the bytes of its governed elements, and its poison (R87, R239). -/
def storeLine (n : CoreId) (g : Guard) (w : Nat) (vd : VNum) (pa k : Nat) (s : State) (m : Memory) : Memory :=
  let on := guardOn n g s w
  let bs := (List.range 64).map (fun j =>
    let b := 64 * k + j
    if on (8 * b / w) then BitVec.ofNat 8 (elemOf 8 (getV n vd s) b) else m.byte (pa + b))
  let m1 := m.write (pa + 64 * k) bs
  if (segElems w k).all (fun i => !on i) then m
  else if (getPsn n vd s).toNat.testBit k then m1.setPoison (pa / 64 + k) true
  else if (segElems w k).all on then m1.setPoison (pa / 64 + k) false
  else m1

/-- vst: store the governed elements of 2,048 bytes; it holds while a queued matrix instruction reads the
range (R55). -/
def execVst (h : Hart) (g : Guard) (fmt : Fmt) (vd : VNum) (sa : SReg) (off : BitVec 12) (s : State) : Outc :=
  let i : Instr := .vst h g fmt vd sa off
  .next (issueV h i g [vd] none (fun n s =>
    let a := vaddr h sa off s
    if !vecAddrOk a 2048 then .fault (excAddress a)
    else if queueReads (coreAt s n) a 2048 then .hold s
    else
      let pa := sramAt n a
      let t := logSram s n i a
      .done { t with mem := (List.range 32).foldl (fun m k => storeLine n g (fmtBits fmt) vd pa k s m) s.mem }) s)

/-! ### The Vat (R89, R133) -/

/-- vd = Vat row; it holds while the matrix queue is not empty. A poisoned row poisons the destination. -/
def execVrdvat (h : Hart) (g : Guard) (fmt : Fmt) (vd : VNum) (row : Fin 128) (s : State) : Outc :=
  .next (issueV h (.vrdvat h g fmt vd row) g [] (some row) (fun n s =>
    let c := coreAt s n
    if c.mq ≠ [] then .hold s
    else .done (commitV n vd 32 (guardOn n g s 32) (elemOf 32 c.vat[row])
      (fun _ => c.vatPsn.toNat.testBit row.val) s)) s)

/-- Vat row = vd; its poison bit follows the governed segments of vd. -/
def execVwrvat (h : Hart) (g : Guard) (fmt : Fmt) (vd : VNum) (row : Fin 128) (s : State) : Outc :=
  .next (issueV h (.vwrvat h g fmt vd row) g [vd] none (fun n s =>
    let c := coreAt s n
    if c.mq ≠ [] then .hold s
    else
      let on := guardOn n g s 32
      let els := List.range 512
      let psn := if els.any (fun i => on i && elemPsn n vd s 32 i) then true
        else if els.all on then false else c.vatPsn.toNat.testBit row.val
      .done (modCore s n (fun c =>
        { c with vat := c.vat.set row (vecOf 32 (fun i => if on i then elemOf 32 (getV n vd s) i
                   else elemOf 32 c.vat[row] i))
                 vatPsn := setRow c.vatPsn row psn }))) s)

/-! ### Predicates (R88) -/

/-- Write the governed bits of a predicate. -/
def putPred (n : CoreId) (g : Guard) (pd : PReg) (v : BitVec 1024) (s : State) : State :=
  let m := if g.neg then ~~~getP n g.p s else getP n g.p s
  setP n pd ((v &&& m) ||| (getP n pd s &&& ~~~m)) s

def plogVal (fn : PlogFn) (a b : BitVec 1024) : BitVec 1024 :=
  match fn with
  | .and => a &&& b
  | .or => a ||| b
  | .xor => a ^^^ b
  | .andc => a &&& ~~~b
  | .not => ~~~a

/-- plog: a logical operation on predicates. -/
def execPlog (h : Hart) (g : Guard) (fn : PlogFn) (pd pa pb : PReg) (s : State) : Outc :=
  .next (issue h (.plog h g fn pd pa pb) 2 (ctxOnly h (fun n s =>
    .done (putPred n g pd (plogVal fn (getP n pa s) (getP n pb s)) s))) s)

/-- pset: bits below min(sa, 1,024) set, the rest cleared. -/
def execPset (h : Hart) (g : Guard) (pd : PReg) (sa : SReg) (s : State) : Outc :=
  .next (issue h (.pset h g pd sa) 2 (ctxOnly h (fun n s =>
    .done (putPred n g pd (BitVec.ofNat 1024 (2 ^ min (getS h sa s).toNat 1024 - 1)) s))) s)

end Sys2Proof.Machine
end

