-- ==== Sys2Proof/Machine/Matrix.lean ====
section
/-! DEFINITION. The matrix instructions and the engine (R91 to R98, R117 to R137). -/

namespace Sys2Proof.Machine

/-! ### Acceptance checks (R92, R93, R118, R204, R207) -/

/-- The class of an engine operand format (Table 4-1). -/
def engClass : Fmt → Option Nat
  | .e2m1 => some 0
  | .e2m3 | .e3m2 => some 1
  | .e4m3 | .e5m2 => some 2
  | .i8 => some 3
  | .bf16 => some 4
  | .f16 => some 5
  | .f32 => some 6
  | _ => none

/-- Columns of a slab, and slabs of a k-block (Table 4-1). -/
def slabWidth : Nat → Nat
  | 0 => 8
  | 1 | 2 | 3 => 4
  | 4 | 5 => 2
  | _ => 1
def slabsOf (cls : Nat) : Nat := 512 / slabWidth cls

/-- Do two engine operands form a pair of Table 4-1? -/
def pairOk (a : Fmt) (amx : Bool) (b : Fmt) (bmx : Bool) : Bool :=
  match engClass a, engClass b with
  | some x, some y => decide (x = y) && decide (amx = bmx) && (!amx || decide (x ≤ 2))
  | _, _ => false

/-- An operand alone: a format of Table 4-1, MX only where its class allows it. -/
def operandOk (a : Fmt) (mx : Bool) : Bool := pairOk a mx a mx

/-- The block dimension of an MX operand is `d` (R207). -/
def dimOk (t sc : Tile) (d : Nat) : Bool := !t.mx || decide (blockDim t sc = some d)

/-- Shape of a stationary operand: at most 128 rows, at most `k` elements, for mgemm a multiple of 128. -/
def stationaryOk (t : Tile) (gemm : Bool) : Bool :=
  decide (t.n1 ≤ 128 ∧ t.n2 = 1 ∧ t.n3 = 1) && (if gemm then decide (t.n0 % 128 = 0) else decide (t.n0 ≤ 128))

/-- K and N of a streamed operand (R204). -/
def tileK (trans : Bool) (t : Tile) : Nat := if trans then t.n0 else t.n1
def tileN (trans : Bool) (t : Tile) : Nat := if trans then t.n1 else t.n0

/-- Failures of a stationary operand by itself. -/
def statChecks (reg : Nat) (d sc : BitVec 256) (gemm : Bool) : List (Nat × Nat) :=
  let t := tileOf d
  operandChecks reg d sc true inCask
  ++ (if stationaryOk t gemm && operandOk t.format t.mx && dimOk t (tileOf sc) 0 then [] else [(9, reg)])

/-- Failures of a streamed operand by itself. -/
def streamChecks (reg : Nat) (d sc : BitVec 256) (trans : Bool) : List (Nat × Nat) :=
  let t := tileOf d
  operandChecks reg d sc true inCaskOrReserve
  ++ (if decide (tileN trans t ≤ 512 ∧ t.n2 = 1 ∧ t.n3 = 1) && operandOk t.format t.mx
        && dimOk t (tileOf sc) (if trans then 0 else 1) then [] else [(9, reg)])
  ++ (if !trans || (decide (t.layout ≠ 0) && inCask t.range.1 t.range.2) then [] else [(10, reg)])

/-- Format and shape from a stationary record word. -/
def statFmt (w : Word) : Fmt := (fmtOf (bits w 3 0)).getD .i8
def statMx (w : Word) : Bool := bit w 4
def statValid (w : Word) : Bool := bit w 7
def statRows (w : Word) : Nat := bits w 23 16
def statCols (w : Word) : Nat := bits w 31 24

/-! ### The entry's fields -/

def MEntry.opc (e : MEntry) : Nat := bits e.word 7 0
def MEntry.buf (e : MEntry) : Fin 2 := f1 (bits e.word 20 20)
def MEntry.trans (e : MEntry) : Bool := bit e.word 34
def MEntry.group (e : MEntry) : Nat :=
  match bits e.word 36 35 with
  | 0 => 4
  | 1 => 8
  | _ => 16
def MEntry.acc (e : MEntry) : Bool := bit e.word 37
def MEntry.isGemm (e : MEntry) : Bool := decide (e.opc = 0xA2)
def MEntry.runs (e : MEntry) : Bool := decide (e.opc = 0xA1 ∨ e.opc = 0xA2)

/-- The progress register (Table 3-9). -/
def progressWord (kblk : Nat) (loaded : Bool) (slab : Nat) : Word := mkWord [(32, kblk), (16, b1 loaded), (0, slab)]
def MEntry.kblk (e : MEntry) : Nat := bits e.progress 47 32
def MEntry.loaded (e : MEntry) : Bool := bit e.progress 16
def MEntry.slab (e : MEntry) : Nat := bits e.progress 15 0

/-- K-blocks of the instruction, the rows it writes, its stationary and streamed formats. -/
def MEntry.kblks (e : MEntry) : Nat := if e.isGemm then (tileOf e.ts).n0 / 128 else 1
def MEntry.rows (e : MEntry) : Nat := if e.isGemm then (tileOf e.ts).n1 else statRows e.stat
def MEntry.cols (e : MEntry) : Nat := if e.isGemm then 128 else statCols e.stat
def MEntry.sfmt (e : MEntry) : Fmt := if e.isGemm then (tileOf e.ts).format else statFmt e.stat
def MEntry.cls (e : MEntry) : Nat := (engClass (tileOf e.tw).format).getD 2
def MEntry.mx (e : MEntry) : Bool := (tileOf e.tw).mx

/-- The buffer of the present k-block (R121). -/
def MEntry.curBuf (e : MEntry) : Fin 2 := if e.isGemm then f1 (e.buf.val + e.kblk) else e.buf

/-- Are all slabs summed? mload and mzero have none. -/
def MEntry.finished (e : MEntry) : Bool := !e.runs || decide (e.kblks ≤ e.kblk)

/-- Does an older entry keep a load of buffer `b` waiting, reading or loading it (R95, R121)? -/
def MEntry.keeps (b : Fin 2) (e : MEntry) : Bool :=
  e.isGemm || (decide (e.opc = 0xA1) && decide (e.buf = b)) || (decide (e.opc = 0xA0) && !e.loaded && decide (e.buf = b))

/-- Is a block for buffer `b` still to come from an older entry? -/
def MEntry.fills (b : Fin 2) (e : MEntry) : Bool :=
  e.isGemm || (decide (e.opc = 0xA0) && !e.loaded && decide (e.buf = b))

/-- The entry with its stationary block in place. -/
def MEntry.withLoad (e : MEntry) : MEntry := { e with progress := progressWord e.kblk true e.slab }

/-! ### Acceptance -/

/-- The queue with an entry added; it holds while the queue has four entries (R52), checks first. -/
def acceptM (h : Hart) (i : Instr) (checks : CoreId → State → List (Nat × Nat))
    (entry : CoreId → State → MEntry) (after : CoreId → State → State) (s : State) : State :=
  issue h i 3 (ctxOnly h (fun n s =>
    if 4 ≤ (coreAt s n).mq.length then .hold s
    else
      match descFault s (checks n s) with
      | some x => .fault x
      | none =>
        let e := entry n s
        let t := modCore s n (fun c => { c with mq := c.mq ++ [e] })
        let t := logEngine t n i ([e.ts, e.tsScale, e.tw, e.twScale].filter (fun d => decide (d ≠ 0)))
        let t := if inReserve (tileOf e.tw).range.1 (tileOf e.tw).range.2 ∧ e.tw ≠ 0 then
            logReserve t n i [e.tw, e.twScale] else t
        .done (after n t))) s

/-- The stationary record of a buffer (Table 2-13), and a buffer's record from a descriptor. -/
def recWord (r : BufRec) : Word :=
  mkWord [(0, r.fmt.toNat), (4, b1 r.mx), (7, b1 r.valid), (16, r.rows.toNat), (24, r.cols.toNat)]
def recOf (t : Tile) (gemm : Bool) : BufRec :=
  { fmt := BitVec.ofNat 4 t.fmt, mx := t.mx, valid := true, rows := BitVec.ofNat 8 t.n1
    cols := BitVec.ofNat 8 (if gemm then 128 else t.n0) }

def setRec (n : CoreId) (b : Fin 2) (r : BufRec) (s : State) : State :=
  modCore s n (fun c => { c with stbRec := c.stbRec.set b r })

/-- The row drop mask in sa and sb (R94). -/
def dropMask (h : Hart) (sa sb : SReg) (s : State) : BitVec 128 := getS h sb s ++ getS h sa s

/-- mload: load a stationary block into a buffer. -/
def execMload (h : Hart) (ts : TReg) (buf : Fin 2) (s : State) : Outc :=
  let i : Instr := .mload h ts buf
  .next (acceptM h i
    (fun n s => statChecks ts.val (coreAt s n).t[ts] (partner n ts s) false)
    (fun n s => { word := encodeSeisk i, pc := (coreAt s n).pc, ts := (coreAt s n).t[ts], tsScale := partner n ts s })
    (fun n s => setRec n buf (recOf (tileOf (coreAt s n).t[ts]) false) s) s)

/-- mmul: stream one k-block of weights against a buffer, whose format and shape it keeps (R118). -/
def execMmul (h : Hart) (tw : TReg) (buf : Fin 2) (mode : MMode) (sa sb : SReg) (s : State) : Outc :=
  let i : Instr := .mmul h tw buf mode sa sb
  .next (acceptM h i
    (fun n s =>
      let t := tileOf (coreAt s n).t[tw]
      let w := recWord (coreAt s n).stbRec[buf]
      streamChecks tw.val (coreAt s n).t[tw] (partner n tw s) mode.trans
      ++ (if tileK mode.trans t ≤ 128 ∧ statValid w ∧ pairOk (statFmt w) (statMx w) t.format t.mx then []
        else [(9, tw.val)]))
    (fun n s => { word := encodeSeisk i, pc := (coreAt s n).pc, drop := dropMask h sa sb s
                  stat := recWord (coreAt s n).stbRec[buf], tw := (coreAt s n).t[tw], twScale := partner n tw s
                  progress := progressWord 0 (!(coreAt s n).mq.any (MEntry.fills buf)) 0 })
    (fun _ s => s) s)

/-- mgemm: all k-blocks of ts against tw; its last two blocks stay in the buffers (R95). -/
def execMgemm (h : Hart) (ts tw : TReg) (buf : Fin 2) (mode : MMode) (sa sb : SReg) (s : State) : Outc :=
  let i : Instr := .mgemm h ts tw buf mode sa sb
  .next (acceptM h i
    (fun n s =>
      let a := tileOf (coreAt s n).t[ts]
      let t := tileOf (coreAt s n).t[tw]
      statChecks ts.val (coreAt s n).t[ts] (partner n ts s) true
      ++ streamChecks tw.val (coreAt s n).t[tw] (partner n tw s) mode.trans
      ++ (if tileK mode.trans t = a.n0 ∧ pairOk a.format a.mx t.format t.mx then []
        else [(9, ts.val), (9, tw.val)]))
    (fun n s => { word := encodeSeisk i, pc := (coreAt s n).pc, drop := dropMask h sa sb s
                  ts := (coreAt s n).t[ts], tsScale := partner n ts s
                  tw := (coreAt s n).t[tw], twScale := partner n tw s })
    (fun n s =>
      let a := tileOf (coreAt s n).t[ts]
      let s := setRec n buf (recOf a true) s
      if 256 ≤ a.n0 then setRec n (f1 (buf.val + 1)) (recOf a true) s else s) s)

/-- mzero: every Vat element +0, in queue order. -/
def execMzero (h : Hart) (s : State) : Outc :=
  let i : Instr := .mzero h
  .next (acceptM h i (fun _ _ => []) (fun n s => { word := encodeSeisk i, pc := (coreAt s n).pc })
    (fun _ s => s) s)

/-! ### Stationary blocks (R119, R121, R133) -/

/-- One row slot: 128 elements from column `c0` on, zero beyond `cols`, and four scale bytes for MX. -/
def slotOf (m : Memory) (n : CoreId) (t sc : Tile) (r c0 cols : Nat) : BitVec 4096 :=
  let els := packElems t.ebits ((List.range 128).map (fun k =>
    if k < cols then readBits m (sramAt n) (t.bitAddr (c0 + k) r 0 0) t.ebits else 0))
  let scs := if t.mx then
      packElems 8 ((List.range 4).map (fun b =>
        if 32 * b < cols then readBits m (sramAt n) (sc.bitAddr (c0 / 32 + b) r 0 0) 8 else 0))
    else 0
  BitVec.ofNat 4096 (els + 2 ^ 2048 * scs)

/-- Does a row slot's load read a poisoned line? -/
def slotPoison (m : Memory) (n : CoreId) (t sc : Tile) (r c0 cols : Nat) : Bool :=
  (List.range cols).any (fun k => bitPoison m (sramAt n) (t.bitAddr (c0 + k) r 0 0))
  || (t.mx && (List.range (cdiv cols 32)).any (fun b => bitPoison m (sramAt n) (sc.bitAddr (c0 / 32 + b) r 0 0)))

/-- Load the block whose columns start at `c0` into a buffer. -/
def loadBlock (n : CoreId) (b : Fin 2) (d dsc : BitVec 256) (c0 cols : Nat) (s : State) : State :=
  let t := tileOf d
  let sc := tileOf dsc
  let slots := Vector.ofFn (fun r : Fin 128 => if r.val < t.n1 then slotOf s.mem n t sc r.val c0 cols else 0)
  let psn := BitVec.ofNat 128 (packElems 1 ((List.range 128).map (fun r =>
    b1 (decide (r < t.n1) && slotPoison s.mem n t sc r c0 cols))))
  modCore s n (fun c => { c with stb := c.stb.set b slots, stbPsn := c.stbPsn.set b psn })

/-! ### Products and sums (R123 to R127) -/

/-- A product or partial sum: an FP32 or INT32 code, the lowest NaN cause met, and the INT32 wrap. -/
structure Term where
  code : Nat := 0
  cause : Option Nat := none
  wrap : Bool := false

/-- An FP32 addition under Table 4-2. -/
def addTerm (x y : Term) : Term :=
  let a := val32 x.code
  let b := val32 y.code
  let v := addVal .rn a b
  { code := round32 .rn v
    cause := minCause (minCause x.cause y.cause)
      (if isNanV v && !isNanV a && !isNanV b then some 2 else none) }

/-- An INT32 addition modulo 2³². -/
def addInt (x y : Term) : Term :=
  let v := signedOf 32 x.code + signedOf 32 y.code
  { code := unsignedOf 32 v, wrap := x.wrap || y.wrap || decide (v < -(2 ^ 31 : Nat) ∨ (2 ^ 31 : Nat) ≤ v) }

/-- The fixed tree of one group: neighbours combine level by level. -/
def pairUp (f : Term → Term → Term) : List Term → List Term
  | a :: b :: r => f a b :: pairUp f r
  | l => l
def groupSum (f : Term → Term → Term) : Nat → List Term → Term
  | 0, l => l.headD {}
  | k + 1, l => groupSum f k (pairUp f l)

/-- Groups added to the accumulator in index order. -/
def sumGroups (f : Term → Term → Term) (g lv : Nat) : Nat → List Term → Term → Term
  | 0, _, acc => acc
  | k + 1, l, acc => sumGroups f g lv k (l.drop g) (f acc (groupSum f lv (l.take g)))

/-- The product of two described elements with their scales (R123). -/
def fpProduct (a b : Val) (sa sb : Option Nat) : Term :=
  let bad (x : Option Nat) : Bool := decide (x = some 255)
  let cause : Option Nat :=
    if isNanV a || isNanV b then some 1 else if bad sa || bad sb then some 3 else none
  if cause.isSome then { code := 0x7FC00000, cause := minCause cause (if bad sa || bad sb then some 3 else none) }
  else
    let p := mulVal a b
    let q := match p, sa, sb with
      | .fin neg m e, some x, some y => Val.fin neg m (e + x + y - 254)
      | v, _, _ => v
    { code := round32 .rn q, cause := if isNanV q then some 2 else none }

def intProduct (a b : Nat) : Term := { code := unsignedOf 32 (signedOf 8 a * signedOf 8 b) }

/-- Element `k` of a row slot, and its scale code. -/
def slotElem (eb : Nat) (w : BitVec 4096) (k : Nat) : Nat := w.toNat / 2 ^ (eb * k) % 2 ^ eb
def slotScale (w : BitVec 4096) (k : Nat) : Nat := w.toNat / 2 ^ (2048 + 8 * (k / 32)) % 256

/-- The code and scale of the weight at reduction index `k` of the present k-block and column `c`. -/
def weightAt (s : State) (n : CoreId) (e : MEntry) (k c : Nat) : Nat × Option Nat :=
  let t := tileOf e.tw
  let sc := tileOf e.twScale
  let kk := 128 * e.kblk + k
  let el := if e.trans then t.bitAddr kk c 0 0 else t.bitAddr c kk 0 0
  let sl := if e.trans then sc.bitAddr (kk / 32) c 0 0 else sc.bitAddr c (kk / 32) 0 0
  (readBits s.mem (sramAt n) el t.ebits,
    if t.mx then some (readBits s.mem (sramAt n) sl 8) else none)

/-- Does the slab read a poisoned line? -/
def slabPoison (s : State) (n : CoreId) (e : MEntry) (k c : Nat) : Bool :=
  let t := tileOf e.tw
  let sc := tileOf e.twScale
  let kk := 128 * e.kblk + k
  bitPoison s.mem (sramAt n) (if e.trans then t.bitAddr kk c 0 0 else t.bitAddr c kk 0 0)
  || (t.mx && bitPoison s.mem (sramAt n)
      (if e.trans then sc.bitAddr (kk / 32) c 0 0 else sc.bitAddr c (kk / 32) 0 0))

/-- The 128 products of one output position: a padding factor makes +0 (R120). -/
def products (e : MEntry) (slot : BitVec 4096) (row : Nat) (ws : List (Option (Nat × Option Nat))) : List Term :=
  let eb := fmtBits e.sfmt
  let wf := (tileOf e.tw).format
  (ws.zip (List.range 128)).map (fun x =>
    match x.1 with
    | none => {}
    | some w =>
      if e.rows ≤ row ∨ e.cols ≤ x.2 then {}
      else if e.sfmt = .i8 then intProduct (slotElem eb slot x.2) w.1
      else fpProduct (decodeElem e.sfmt (slotElem eb slot x.2)) (decodeElem wf w.1)
        (if e.mx then some (slotScale slot x.2) else none) w.2)

/-- The new value of one Vat position from its start (R124, R126). -/
def positionSum (e : MEntry) (slot : BitVec 4096) (row : Nat) (ws : List (Option (Nat × Option Nat)))
    (start : Nat) : Term :=
  let g := e.group
  let lv := log2 g
  let ps := products e slot row ws
  if e.sfmt = .i8 then sumGroups addInt g lv (128 / g) ps { code := start }
  else
    let t := sumGroups addTerm g lv (128 / g) ps
      { code := start, cause := if isNanV (val32 start) then some 1 else none }
    { t with code := plusZero .f32 t.code }

/-! ### A slab (R120, R131 to R134) -/

/-- The written rows of an instruction: below M and not dropped. -/
def MEntry.writtenRows (e : MEntry) : List (Fin 128) :=
  (List.range 128).filterMap (fun r => if r < e.rows ∧ !e.drop.toNat.testBit r then some (f7 r) else none)

/-- The columns of the present slab that the instruction writes. -/
def MEntry.slabCols (e : MEntry) : List Nat :=
  let w := slabWidth e.cls
  ((List.range w).map (fun j => e.slab * w + j)).filter (fun c => decide (c < tileN e.trans (tileOf e.tw)))

/-- The weights of one column: none beyond the described rows. -/
def columnOf (s : State) (n : CoreId) (e : MEntry) (c : Nat) : List (Option (Nat × Option Nat)) :=
  (List.range 128).map (fun k =>
    if 128 * e.kblk + k < tileK e.trans (tileOf e.tw) then some (weightAt s n e k c) else none)

/-- The first k-block's block, where it is not loaded yet. -/
def ensureBlock (n : CoreId) (e : MEntry) (s : State) : State :=
  if e.isGemm && !e.loaded then loadBlock n e.curBuf e.ts e.tsScale (128 * e.kblk) 128 s else s

/-- What an instruction does as it begins: ACC = 0 restarts the run length and clears its rows' poison
(R128, R133). -/
def beginRun (n : CoreId) (e : MEntry) (s : State) : State :=
  if e.kblk = 0 ∧ e.slab = 0 ∧ !e.acc then
    let s := rset s (engReg n.val 8) 0
    modCore s n (fun c => { c with vatPsn := e.writtenRows.foldl (fun p r => setRow p r false) c.vatPsn })
  else s

/-- The rows of a slab poisoned by their stationary row, the weights or their start. -/
def slabRows (e : MEntry) (spsn vpsn : BitVec 128) (wpsn : Bool) : List (Fin 128) :=
  e.writtenRows.filter (fun r => wpsn || spsn.toNat.testBit r.val
    || ((e.acc || decide (0 < e.kblk)) && vpsn.toNat.testBit r.val))

/-- The values a slab writes: row, column, result. -/
def slabResults (s : State) (n : CoreId) (e : MEntry) : List (Fin 128 × Nat × Term) :=
  let c := coreAt s n
  let cols := e.slabCols.map (fun k => (k, columnOf s n e k))
  e.writtenRows.flatMap (fun r => cols.map (fun k =>
    let start := if e.kblk = 0 ∧ !e.acc then 0 else elemOf 32 c.vat[r] k.1
    (r, k.1, positionSum e c.stb[e.curBuf][r] r.val k.2 start)))

/-- A Vat row with one element replaced. -/
def setElem32 (v : VReg) (i c : Nat) : VReg :=
  (v &&& ~~~(BitVec.ofNat 16384 ((2 ^ 32 - 1) <<< (32 * i)))) ||| BitVec.ofNat 16384 ((c % 2 ^ 32) <<< (32 * i))

/-- The loads of one entry that no older one keeps waiting: the block of an mload, of the present k-block of an
mgemm, and, once a slab of that k-block has run, of the next (R95, R121); an mmul finds its block in place. -/
def loadEntry (n : CoreId) (older : List MEntry) (e : MEntry) (s : State) : MEntry × State :=
  let free (b : Fin 2) : Bool := !older.any (MEntry.keeps b)
  if e.opc = 0xA0 then
    if !e.loaded && free e.buf then (e.withLoad, loadBlock n e.buf e.ts e.tsScale 0 (tileOf e.ts).n0 s) else (e, s)
  else if e.finished then (e, s)
  else if e.isGemm then
    if !e.loaded then
      (if free e.curBuf then (e.withLoad, loadBlock n e.curBuf e.ts e.tsScale (128 * e.kblk) 128 s) else (e, s))
    else if e.slab = 1 ∧ e.kblk + 1 < e.kblks then
      (e, loadBlock n (f1 (e.curBuf.val + 1)) e.ts e.tsScale (128 * (e.kblk + 1)) 128 s)
    else (e, s)
  else if !e.loaded && !older.any (MEntry.fills e.buf) then (e.withLoad, s) else (e, s)

/-- The loads of the queue, oldest first. -/
def loadAll (n : CoreId) : List MEntry → List MEntry → State → List MEntry × State
  | older, [], s => (older, s)
  | older, e :: r, s =>
    let x := loadEntry n older e s
    loadAll n (older ++ [x.1]) r x.2

/-- The engine's loads go on while it runs. -/
def engineLoads (n : CoreId) (s : State) : State :=
  let x := loadAll n [] (coreAt s n).mq s
  modCore x.2 n (fun c => { c with mq := x.1 })

/-- The next progress after a slab; the next k-block's stationary block is in place by then. -/
def advanceSlab (n : CoreId) (e : MEntry) (s : State) : MEntry × State :=
  if e.slab + 1 < slabsOf e.cls then ({ e with progress := progressWord e.kblk true (e.slab + 1) }, s)
  else
    let len := min (fget s (engReg n.val 8) 31 0 + 128) (2 ^ 32 - 1)
    let s := fset s (engReg n.val 8) 31 0 len
    let s := if 16384 < len then fbit s (engReg n.val 0) 3 else s
    let more := decide (e.kblk + 1 < e.kblks)
    let e2 := { e with progress := progressWord (e.kblk + 1) more 0 }
    (e2, if more && e.isGemm then loadBlock n e2.curBuf e.ts e.tsScale (128 * (e.kblk + 1)) 128 s else s)

def setHead (n : CoreId) (e : MEntry) (s : State) : State :=
  modCore s n (fun c => { c with mq := e :: c.mq.drop 1 })

/-- May the engine of core `n` run: the core is not stopped and no NaN event waits for the arbiter? -/
def engineRuns (s : State) (n : CoreId) : Bool := deviceRuns s && live (coreAt s n) && !(coreAt s n).nanWait

/-- SRAM_UE against a matrix instruction (R134). -/
def engineUe (n : CoreId) (pc : Word) (s : State) : State :=
  takeExc s n { code := 0x0B, src := 2 } 3 false pc (coreAt s n).pc

/-- One slab of the oldest instruction: sums, Vat writes, flags, poison, progress and events. -/
def runSlab (n : CoreId) (e : MEntry) (errs : EngErrors) (s : State) : State :=
  let s := beginRun n e (ensureBlock n e s)
  let s := countedN (fincr (fincr s (engReg n.val 0x18) 15 0 errs.stbCe) (engReg n.val 0x18) 31 16 errs.vatCe) (errs.stbCe + errs.vatCe)
  let s := appraise s (0x110 + clusterOf n)
    (errs.stbCe + errs.vatCe + 1024 * (errs.stbUe.length + errs.vatUe.length))
  let b := e.curBuf
  let s := modCore s n (fun c =>
    { c with stbPsn := c.stbPsn.set b (errs.stbUe.foldl (fun p r => setRow p r true) c.stbPsn[b])
             vatPsn := errs.vatUe.foldl (fun p r => setRow p r true) c.vatPsn, dummyRun := 0 })
  let res := slabResults s n e
  let kEnd := tileK e.trans (tileOf e.tw) - 128 * e.kblk
  let wpsn := e.slabCols.any (fun k => (List.range (min 128 kEnd)).any (fun j => slabPoison s n e j k))
  let c := coreAt s n
  let psn := if e.slabCols = [] then [] else slabRows e c.stbPsn[b] c.vatPsn wpsn
  let s := modCore s n (fun c =>
    { c with vat := res.foldl (fun v x => v.set x.1 (setElem32 v[x.1] x.2.1 x.2.2.code)) c.vat
             vatPsn := psn.foldl (fun p r => setRow p r true) c.vatPsn })
  let st := engReg n.val 0
  let fp := decide (e.sfmt ≠ .i8)
  let s := if fp && res.any (fun x => isNanV (val32 x.2.2.code)) then fbit s st 6 else s
  let s := if fp && res.any (fun x => isInfV (val32 x.2.2.code)) then fbit s st 5 else s
  let s := if res.any (fun x => x.2.2.wrap) then fbit s st 4 else s
  let nx := advanceSlab n e s
  let s := setHead n nx.1 nx.2
  let s := match res.find? (fun x => x.2.2.cause.isSome) with
    | some x => nanEvent s n 2 3 (x.2.2.cause.getD 1) e.kblk x.2.1 x.1.val e.pc
    | none => s
  if errs.stbUe = [] ∧ errs.vatUe = [] then s else engineUe n e.pc s

/-- SLAB_COMPLETE: the engine finishes a slab of its oldest instruction. -/
def execSlabComplete (c : CoreId) (errs : EngErrors) (s : State) : Outc :=
  .next (if engineRuns s c then
      match (coreAt s c).mq with
      | e :: _ =>
        if e.finished then s
        else
          let t := runSlab c e errs s
          if engineRuns t c then engineLoads c t else t
      | [] => s
    else s)

/-- What the completion of an entry does beside freeing it: mload has filled its buffer, mzero clears the Vat. -/
def finishEntry (n : CoreId) (e : MEntry) (s : State) : State :=
  if e.opc = 0xA0 ∧ !e.loaded then loadBlock n e.buf e.ts e.tsScale 0 (tileOf e.ts).n0 s
  else if e.opc = 0xA3 then
    modCore (rset s (engReg n.val 8) 0) n (fun c => { c with vat := Vector.replicate 128 0, vatPsn := 0 })
  else s

/-- MATRIX_INSTR_COMPLETE: the oldest instruction, its slabs all summed, frees its entry (R52); loads that waited
for it go on (R95). -/
def execMatrixInstrComplete (c : CoreId) (s : State) : Outc :=
  .next (if engineRuns s c then
      match (coreAt s c).mq with
      | e :: _ => if e.finished then engineLoads c (modCore (finishEntry c e s) c (fun x => { x with mq := x.mq.drop 1 })) else s
      | [] => s
    else s)

/-! ### Activity (R122, R135, R136) -/

/-- Has the engine a slab to run, its run of dummy slabs not at its limit? -/
def hasWork (s : State) (n : CoreId) : Bool :=
  engineRuns s n && (coreAt s n).mq.any (fun e => !e.finished) && decide ((coreAt s n).dummyRun < 32)

/-- The ceiling in force: the least of ENG_ACT_CEIL, 2 while HOT holds, and the present step of an engine whose
rise is refused (R441, R444). -/
def ceilInForce (s : State) (n : CoreId) : Nat :=
  min (fget s (engReg n.val 0x20) 3 0) (min (if bit (rget s (pwrReg 0)) 13 then 2 else 8)
    (if bit s.pins.slewRefused n.val then (coreAt s n).actStep else 8))

/-- ENGINE_RAMP_STEP: four cycles pass and the step moves by one toward the ceiling or to 0. A rise
refused by the slew limiter holds (R444). The engine's loads go on meanwhile. -/
def execEngineRampStep (c : CoreId) (s : State) : Outc :=
  let ceil := ceilInForce s c
  let next (a : Nat) : Nat :=
    if hasWork s c then (if a < ceil then a + 1 else if ceil < a then a - 1 else a) else a - 1
  let t := modCore s c (fun x =>
    { x with actStep := next x.actStep, actSlabs := (x.actSlabs + 4 * x.actStep) % 8 })
  .next (if engineRuns s c then engineLoads c t else t)

/-- DUMMY_SLAB_RUN_LIMIT: 32 consecutive dummy slabs; the engine begins its ramp-down. -/
def execDummySlabRunLimit (c : CoreId) (s : State) : Outc :=
  .next (if engineRuns s c && (coreAt s c).mq.any (fun e => !e.finished) then
      modCore s c (fun x => { x with dummyRun := 32, actStep := x.actStep - 1 })
    else s)

end Sys2Proof.Machine
end

