-- ==== Sys2Proof/Machine/Chk.lean ====
section
/-! DEFINITION. The snoop taps: channels that compute a CRC or SHA-512 over the bytes Racking moves
(R374 to R376, R379, Table 12-10). -/

namespace Sys2Proof.Machine

/-- Fields of a latched CHK_CTL (Table 12-10). -/
def ChkCh.alg (c : ChkCh) : Nat := bits c.ctl 3 2
def ChkCh.width (c : ChkCh) : Nat := bits c.ctl 11 6 + 1
def ChkCh.dstSide (c : ChkCh) : Bool := bit c.ctl 5

/-- A channel of a core replaced. -/
def setChk (s : State) (n : CoreId) (ch : Fin 4) (x : ChkCh) : State :=
  modCore s n (fun c => { c with chk := c.chk.set ch x })

/-- CRC parameters of a channel: width, polynomial, initial register, REFIN, REFOUT, final XOR (R375). -/
def ChkCh.crc (c : ChkCh) : Nat × Nat × Nat × Bool × Bool × Nat :=
  if c.alg = 1 then (32, 0x1EDC6F41, 0xFFFFFFFF, true, true, 0xFFFFFFFF)
  else (c.width, c.poly.toNat, c.init.toNat, bit c.ctl 12, bit c.ctl 13, c.xorout.toNat)

/-- A channel after RESET: its starting state. -/
def ChkCh.fresh (c : ChkCh) : ChkCh :=
  { c with started := true, part := []
           state := if c.alg = 0 then [] else if c.alg = 2 then shaInit else [BitVec.ofNat 64 c.crc.2.2.1] }

/-- A channel after more bytes. -/
def ChkCh.feed (c : ChkCh) (bs : List Byte) : ChkCh :=
  if c.alg = 0 then c
  else if c.alg = 2 then
    let a := c.part ++ bs
    let n := a.length / 128
    { c with state := shaBlocks n c.state a, part := a.drop (128 * n) }
  else
    let (w, poly, _, refin, _, _) := c.crc
    { c with state := [BitVec.ofNat 64 (crcBytes w poly refin (c.state.getD 0 0).toNat bs)] }

/-- A channel after FINISH; `total` is the count of bytes fed. -/
def ChkCh.finish (c : ChkCh) (total : Nat) : ChkCh :=
  if c.alg = 0 then c
  else if c.alg = 2 then { c with state := shaFinish c.state c.part total, part := [] }
  else
    let (w, _, _, _, refout, xorout) := c.crc
    { c with state := [BitVec.ofNat 64 (crcEnd w refout xorout (c.state.getD 0 0).toNat)] }

/-- Feed one channel with the source and destination bytes of a piece of a descriptor (R374). `fp4` says
whether the element of each side is FP4. -/
def chkFeedOne (s : State) (n : CoreId) (q : Fin 2) (tag : Nat) (src dst : List Byte) (fp4s fp4d : Bool)
    (ch : Fin 4) : State :=
  let c := (coreAt s n).chk[ch]
  let st := chkReg n.val ch.val 8
  let bs := if c.dstSide then dst else src
  if !chkMatches c q tag then s
  else if (if c.dstSide then fp4d else fp4s) then fbit s st 6
  else if bs = [] then s
  else if bit (rget s st) 3 then fbit s st 7
  else fincr (setChk s n ch (c.feed bs)) (chkReg n.val ch.val 0x10) 63 0 bs.length

/-- Feed the four channels. -/
def chkFeed (s : State) (n : CoreId) (q : Fin 2) (tag : Nat) (src dst : List Byte) (fp4s fp4d : Bool) : State :=
  ([0, 1, 2, 3] : List (Fin 4)).foldl (fun s ch => chkFeedOne s n q tag src dst fp4s fp4d ch) s

/-- The registers of a channel. -/
def chkField (s : State) (n : CoreId) (ch : Fin 4) (o : Nat) : Word := rget s (chkReg n.val ch.val o)

/-- Has a word bits at or above a width? -/
def above (w : Word) (width : Nat) : Bool := decide (2 ^ width ≤ w.toNat)

/-- CHK_RESET: latch the controls and load the starting state (R374, R379). -/
def execChkReset (n : CoreId) (ch : Fin 4) (s : State) : Outc :=
  let st := chkReg n.val ch.val 8
  let c : ChkCh := { ctl := chkField s n ch 0, poly := chkField s n ch 0x18, init := chkField s n ch 0x20
                     xorout := chkField s n ch 0x28 }
  .next (if chkBusy s n ch ∨ (c.alg = 3 ∧ c.width < 8) ∨ above c.poly c.width ∨ above c.init c.width ∨ above c.xorout c.width then
      fbit s st 4
    else rset (fset (setChk s n ch c.fresh) st 3 3 0) (chkReg n.val ch.val 0x10) 0)

/-- CHK_FINISH: the result is left in STATE and DONE is set (R375). -/
def execChkFinish (n : CoreId) (ch : Fin 4) (s : State) : Outc :=
  let st := chkReg n.val ch.val 8
  .next (if bit (rget s st) 3 then s
    else if chkBusy s n ch then fbit s st 4
    else fbit (setChk s n ch ((coreAt s n).chk[ch].finish (chkField s n ch 0x10).toNat)) st 3)

end Sys2Proof.Machine
end

