-- ==== Sys2Proof/Machine/Racking.lean ====
section
/-! DEFINITION. Racking: acceptance, the walk in pieces, conversion, padding, gather, scatter and fill, poison,
faults, records and kills (R99, R100, R198, R199, R206 to R230). -/

namespace Sys2Proof.Machine

/-! ### Acceptance checks (R40, R100, R212, R213, R216, R217) -/

/-- Rows 2 and 3 of Table 7-5, its ADD row, and SF16's rule. -/
def convFmt (f : Fmt) : Bool := decide (f ≠ .e8m0 ∧ f ≠ .sf16)
def addFmt (f : Fmt) : Bool := decide (f = .f32 ∨ f = .bf16 ∨ f = .f16 ∨ f = .i32)
def sfTile (t : Tile) : Bool :=
  decide (t.layout = 0 ∧ t.n1 = 1 ∧ t.n2 = 1 ∧ t.n3 = 1 ∧ t.s0 = 1 ∧ t.n0 % 1024 = 0)

/-- Is the format pair accepted? -/
def rackPair (copy add : Bool) (a asc b bsc : Tile) : Bool :=
  if a.format = .sf16 ∨ b.format = .sf16 then
    copy && !add && decide (a.format = b.format) && sfTile a && sfTile b
  else if add then addFmt b.format && !b.mx
  else if b.mx then decide (a.mx = true ∧ a.format = b.format ∧ blockDim a asc = blockDim b bsc)
  else if a.mx then convFmt b.format
  else decide (a.format = b.format) || (convFmt a.format && convFmt b.format)

/-- An MX operand whose blocks are not along dimension 0 (R216). -/
def notDim0 (t u : Tile) : Bool := t.mx && decide (blockDim t u ≠ some 0)

/-- The checks that an entry fails; `ra` and `rb` are the registers of its descriptors. -/
def rackChecks (s : State) (n : CoreId) (d : RDesc) (ra rb : Nat) : List (Nat × Nat) :=
  let ok := rackWin s n
  let a := tileOf d.ta
  let asc := tileOf d.taScale
  let b := tileOf d.tb
  let bsc := tileOf d.tbScale
  let dst := operandChecks rb d.tb d.tbScale false ok
  if d.kind = 3 then dst ++ (if b.mx || decide (b.format = .sf16) then [(8, rb)] else [])
  else
    let idx := if d.kind = 1 then b.n1 else a.n1
    let l := d.list.toNat
    let hi := (l : Int) + 4 * d.count - 1
    operandChecks ra d.ta d.taScale false ok ++ dst
    ++ (if d.kind = 0 then
          (if a.n0 ≤ b.n0 ∧ a.n1 ≤ b.n1 ∧ a.n2 ≤ b.n2 ∧ a.n3 ≤ b.n3 then [] else [(7, ra)])
        else
          (if a.n2 = 1 ∧ a.n3 = 1 then [] else [(7, ra)])
          ++ (if b.n2 = 1 ∧ b.n3 = 1 then [] else [(7, rb)])
          ++ (if a.n0 ≤ b.n0 then [] else [(7, ra), (7, rb)])
          ++ (if d.count ≤ idx then [] else [(7, if d.kind = 1 then rb else ra)])
          ++ (if notDim0 a asc then [(6, ra)] else [])
          ++ (if notDim0 b bsc then [(6, rb)] else [])
          ++ (if 1 ≤ d.count ∧ d.count ≤ 65535 ∧ l % 4 = 0 ∧ inCaskOrReserve l hi = true then [] else [(15, 0)]))
    ++ (if rackPair (decide (d.kind = 0)) d.add a asc b bsc then [] else [(8, ra), (8, rb)])

/-- The core of a context needs the completion of a queue stopped on a translation fault: it takes
TRANSLATION as a unit exception (R224). -/
def needFault (n : CoreId) (q : Fin 2) (s : State) : Option State :=
  let x := (coreAt s n).rq[q]
  match x.tfault, x.fault with
  | true, some (cls, _, addr) =>
    let pc := (coreAt s n).pc
    let epc := (x.cur.map (fun d => d.pc)).getD 0
    some (takeExc s n { code := 5, src := 3, eaddr := addr, einfo := BitVec.ofNat 64 q.val, fclass := cls } 4
      false epc pc)
  | _, _ => none

/-- The Racking queue a handle names; none where it raises QUEUE (R42, R99, R208). -/
def rackHandle (n : CoreId) (w : Word) (s : State) : Option (Fin 2) :=
  match coreOwner s n with
  | none => none
  | some g =>
    if bit w 63 && decide (bits w 23 16 = genLow s g ∧ bits w 34 32 = 0 ∧ bits w 15 0 ≤ 1) then
      let q : Fin 2 := f1 (bits w 15 0)
      if fget s (rkgReg n.val (8 + 8 * q.val)) 31 30 = 0 then none else some q
    else none

/-- Entries of a queue's ring. -/
def ringSize (s : State) (n : CoreId) (q : Fin 2) : Nat := 2 ^ fget s (rkgReg n.val (8 + 8 * q.val)) 3 0

/-- The Reserves that a Racking instruction's operands lie in log its use, each once (R388). -/
def logRack (s : State) (n : CoreId) (i : Instr) (ds : List (BitVec 256)) : State :=
  let ds := ds.filter (fun w => decide (w ≠ 0))
  let cs := (ds.filter (fun w => decide ((tileOf w).base / 2 ^ 48 = 2))).map (fun w => reserveOf n (tileOf w).base)
  cs.eraseDups.foldl (fun s c => logReserveOf s (Fin.ofNat 16 c) n i ds) s

/-- Acceptance of a Racking instruction: QUEUE, the full queue's hold, DESCRIPTOR, then the entry in its slot. -/
def acceptR (h : Hart) (i : Instr) (qh : QReg) (ra rb : Nat) (desc : CoreId → State → RDesc) (s : State) : State :=
  issue h i 4 (ctxOnly h (fun n s =>
    match rackHandle n (coreAt s n).q[qh] s with
    | none => .fault excQueue
    | some q =>
      if ringSize s n q ≤ enqCount s n q - doneCount s n q then
        match needFault n q s with
        | some t => .stop t
        | none => .hold s
      else
        let d := desc n s
        match descFault s (rackChecks s n d ra rb) with
        | some x => .fault x
        | none =>
          let e := enqCount s n q
          let s := logRack s n i [d.ta, d.taScale, d.tb, d.tbScale]
          let s := { s with mem := s.mem.store (ringSlot s n q e) (entryBytes d (e + 1)) false }
          .done (fincr s (enqOff n q) 47 0 1))) s

/-- A t register of a core. -/
def getT (n : CoreId) (r : TReg) (s : State) : BitVec 256 := (coreAt s n).t[r]

/-- rcopy[.add]: copy, convert or add one tensor into another. -/
def execRcopy (h : Hart) (qh : QReg) (tb ta : TReg) (add : Bool) (tag : BitVec 24) (s : State) : Outc :=
  .next (acceptR h (.rcopy h qh tb ta add tag) qh ta.val tb.val (fun n s =>
    { kind := 0, add := add, tag := tag, pc := (coreAt s n).pc, ta := getT n ta s, taScale := partner n ta s
      tb := getT n tb s, tbScale := partner n tb s, list := 0, count := 0, fill := 0 }) s)

/-- rgather: indexed rows of ta into consecutive rows of tb. -/
def execRgather (h : Hart) (qh : QReg) (tb ta : TReg) (sa sb : SReg) (tag : BitVec 24) (s : State) : Outc :=
  .next (acceptR h (.rgather h qh tb ta sa sb tag) qh ta.val tb.val (fun n s =>
    { kind := 1, add := false, tag := tag, pc := (coreAt s n).pc, ta := getT n ta s, taScale := partner n ta s
      tb := getT n tb s, tbScale := partner n tb s, list := getS h sa s, count := (getS h sb s).toNat, fill := 0 }) s)

/-- rscatter[.add]: consecutive rows of ta to indexed rows of tb. -/
def execRscatter (h : Hart) (qh : QReg) (tb ta : TReg) (add : Bool) (sa sb : SReg) (tag : BitVec 24) (s : State) : Outc :=
  .next (acceptR h (.rscatter h qh tb ta add sa sb tag) qh ta.val tb.val (fun n s =>
    { kind := 2, add := add, tag := tag, pc := (coreAt s n).pc, ta := getT n ta s, taScale := partner n ta s
      tb := getT n tb s, tbScale := partner n tb s, list := getS h sa s, count := (getS h sb s).toNat, fill := 0 }) s)

/-- rfill: the low bits of sa into every element of tb. -/
def execRfill (h : Hart) (qh : QReg) (tb : TReg) (sa : SReg) (tag : BitVec 24) (s : State) : Outc :=
  .next (acceptR h (.rfill h qh tb sa tag) qh 0 tb.val (fun n s =>
    { kind := 3, add := false, tag := tag, pc := (coreAt s n).pc, ta := 0, taScale := 0
      tb := getT n tb s, tbScale := partner n tb s, list := 0, count := 0
      fill := BitVec.ofNat 64 ((getS h sa s).toNat % 2 ^ (tileOf (getT n tb s)).ebits) }) s)

/-! ### Translation of a piece (R224, R225) -/

/-- The first failing translation among byte addresses: its outcome and address. -/
def firstBad (s : State) (g : Option Gal) (n : CoreId) (write : Bool) : List Int → Option (Xlate × Nat)
  | [] => none
  | b :: r =>
    match place s g n (b / 8).toNat write with
    | .ok _ => firstBad s g n write r
    | x => some (x, (b / 8).toNat)

/-- Source frames before destination frames. -/
def pieceBad (s : State) (g : Option Gal) (n : CoreId) (els : List El) : Option (Xlate × Nat × Bool) :=
  match firstBad s g n false (els.filterMap El.src ++ els.filterMap El.sscale) with
  | some (x, a) => some (x, a, false)
  | none =>
    (firstBad s g n true (els.map El.dst ++ els.filterMap El.dscale)).map (fun y => (y.1, y.2, true))

/-- RKG_FADDR. -/
def faddrOff (n : CoreId) (q : Fin 2) : Nat := rkgReg n.val (0x48 + 8 * q.val)
def setFaddr (s : State) (n : CoreId) (q : Fin 2) (a : Nat) (write : Bool) : State :=
  rset s (faddrOff n q) (mkWord [(63, b1 write), (0, a % 2 ^ 48)])

/-- The information entry of a Racking translation fault (R224, R225, Table 13-4). -/
def rackErr (s : State) (n : CoreId) (q : Fin 2) (cls a : Nat) (pc : Word) : Err :=
  let e : Err := { kind := 3, cls := 0, unit := 6, gal := coreOwner s n, core := some n
                   d0 := mkWord [(0, cls), (8, 1), (16, q.val)], d1 := BitVec.ofNat 64 a, d2 := pc }
  e.ofWalk cls

/-- The descriptor stops on a translation fault before its piece (R224). -/
def rackingStop (s : State) (n : CoreId) (q : Fin 2) (cls a : Nat) (write : Bool) : State :=
  let x := (coreAt s n).rq[q]
  let s := setRq s n q { x with tfault := true, mstall := false, fault := some (cls, write, BitVec.ofNat 64 a) }
  report (setFaddr s n q a write) (rackErr s n q cls a ((x.cur.map (fun d => d.pc)).getD 0))

/-- The piece would write a read-only frame: the descriptor ends with FAILED_PERMISSION (R225). -/
def rackingDenied (s : State) (n : CoreId) (q : Fin 2) (a : Nat) : State :=
  let x := (coreAt s n).rq[q]
  let s := report (setFaddr s n q a true) (rackErr s n q 3 a ((x.cur.map (fun d => d.pc)).getD 0))
  writeRecord s n q 0x04

/-- The piece stalls on a migrating frame (R224, R256). -/
def rackingStall (s : State) (n : CoreId) (q : Fin 2) (a : Nat) (write : Bool) : State :=
  let x := (coreAt s n).rq[q]
  if x.mstall then s
  else
    match coreOwner s n with
    | none => s
    | some g => setRq (addStall s (.racking n q) g a write false 0) n q { x with mstall := true }

/-! ### Moving a piece (R213 to R220) -/

/-- Move a piece: elements in ascending order, then poison, counters and snoop taps. -/
def movePiece (s : State) (n : CoreId) (q : Fin 2) (d : RDesc) (els : List El) : State :=
  let x := (coreAt s n).rq[q]
  let m := els.foldl (moveEl s (coreOwner s n) n d x (fun _ => true)) { mem := s.mem, snap := x.snap }
  let p := settlePoison m x
  let psn := m.written.any (fun w => w.2.2)
  let s := dropStalls { s with mem := p.1 } (.racking n q)
  let s := setRq s n q { x with poisoned := x.poisoned || psn, mstall := false, snap := m.snap, clean := p.2 }
  let s := if psn then fbit s (rkgReg n.val 0) 14 else s
  let s := fincr s (rkgReg n.val 0x68) 63 0 (cdiv m.bits 8)
  chkFeed s n q d.tag.toNat m.fed m.out (decide (d.kind ≠ 3 ∧ (tileOf d.ta).format = .e2m1))
    (decide ((tileOf d.tb).format = .e2m1))

/-! ### What a queue does (R210, R211, R216, R221 to R227) -/

/-- May the queues of a core start or go on? A pre-emption stops them until the context is restored. -/
def rackingRuns (s : State) (n : CoreId) (q : Fin 2) : Bool :=
  deviceRuns s && !(coreAt s n).rq[q].held && (match (coreAt s n).state with
    | .run | .wait | .stopped | .halted => true
    | _ => false)

/-- Is the core's Gallery being torn down? Nothing starts then. -/
def tornDown (s : State) (n : CoreId) : Bool :=
  match coreOwner s n with
  | none => true
  | some g => decide (s.gal[g].tear ≠ .none)

/-- DESCRIPTOR_START: the next entry is read and checked as it now stands (R210, R211). -/
def execDescriptorStart (n : CoreId) (q : Fin 2) (s : State) : Outc :=
  let x := (coreAt s n).rq[q]
  .next (if rackingRuns s n q && !tornDown s n && x.cur.isNone && !x.reload && decide (doneCount s n q < enqCount s n q) then
      match parseEntry s.mem (ringSlot s n q (doneCount s n q)) with
      | none => writeRecord s n q 0x05
      | some d =>
        if rackChecks s n d 0 0 = [] then setRq { s with free := s.free + 1 } n q { cur := some d, seed := s.free }
        else writeRecord s n q 0x05
    else s)

/-- Progress moves past `k` elements of the row. -/
def progressBy (s : State) (n : CoreId) (q : Fin 2) (d : RDesc) (k : Nat) : State :=
  let x := (coreAt s n).rq[q]
  if d.width ≤ x.elem + k then setRq s n q { x with row := x.row + 1, elem := 0, idx := none }
  else setRq s n q { x with elem := x.elem + k }

/-- The piece at the progress point, for index `idx`. -/
def runPiece (s : State) (n : CoreId) (q : Fin 2) (d : RDesc) (idx : Nat) : State :=
  let x := (coreAt s n).rq[q]
  let els := d.piece idx x.row x.elem
  match pieceBad s (coreOwner s n) n els with
  | some (.readOnly, a, _) => rackingDenied s n q a
  | some (.migrating, a, w) => rackingStall s n q a w
  | some (.fmapUe, a, w) => rackingStop s n q 4 a w
  | some (_, a, w) => rackingStop s n q 1 a w
  | none => progressBy (movePiece s n q d els) n q d els.length

/-- Is the list entry of this row still to be read? -/
def needsIndex (d : RDesc) (x : RQueue) : Bool :=
  (decide (d.kind = 1) || decide (d.kind = 2)) && decide (x.row < d.count) && x.idx.isNone

/-- RACKING_PIECE: the next piece is translated and moved, or a rejected list position is passed (R216, R223). The
queue pair acts for its context in the Cask and Reserve lines that it reads, and may meet an error in one (R387, R389). -/
def execRackingPiece (n : CoreId) (q : Fin 2) (s : State) (line : LineErr := {}) : Outc :=
  .next (match (coreAt s n).rq[q].cur with
    | none => s
    | some d =>
      if rackingRuns s n q && !(coreAt s n).rq[q].tfault && decide ((coreAt s n).rq[q].row < d.rows) then
        let s := unitMet s n line true
        let x := (coreAt s n).rq[q]
        if needsIndex d x then
          match listEntry s n d x.row with
          | (none, p) =>
            setRq s n q { x with row := x.row + 1, elem := 0, reject := x.reject + 1, poisoned := x.poisoned || p }
          | (some i, _) => runPiece (setRq s n q { x with idx := some i }) n q d i
        else runPiece s n q d (x.idx.getD 0)
      else s)

/-- A core whose Gallery waits for its descriptors goes on with the teardown (Table 13-7). -/
def afterRecord (s : State) (n : CoreId) : State :=
  match coreOwner s n with
  | none => s
  | some g => if s.gal[g].tear = .draining ∧ rackingBusy s g = false then teardownFinish s g else s

/-- DESCRIPTOR_COMPLETE: every piece is done; the record is written (R221). -/
def execDescriptorComplete (n : CoreId) (q : Fin 2) (s : State) : Outc :=
  let x := (coreAt s n).rq[q]
  .next (match x.cur with
    | none => s
    | some d =>
      if rackingRuns s n q && !x.tfault && decide (d.rows ≤ x.row) then
        afterRecord (writeRecord s n q (if x.reject = 0 then 0x00 else 0x01)) n
      else s)

/-- A refused write or command (R229). -/
def rkgBad (s : State) (n : CoreId) : State := fbit s (rkgReg n.val 0) 15

/-- RKG_RESUME: a stopped descriptor goes on from its progress (R224). -/
def execRkgResume (n : CoreId) (q : Fin 2) (s : State) : Outc :=
  let x := (coreAt s n).rq[q]
  .next (if x.tfault then setRq s n q { x with tfault := false, fault := none } else rkgBad s n)

/-- RKG_FAIL: a stopped descriptor ends with FAILED_TRANSLATION (R224). -/
def execRkgFail (n : CoreId) (q : Fin 2) (s : State) : Outc :=
  .next (if (coreAt s n).rq[q].tfault then afterRecord (writeRecord s n q 0x03) n else rkgBad s n)

/-- RKG_KILL: KILLED records for the active descriptor and all behind it (R227). -/
def execRkgKill (n : CoreId) (q : Fin 2) (s : State) : Outc :=
  .next (afterRecord (killRacking 257 s n q) n)

/-- Is a value of RKG_RING legal (Table 7-11)? -/
def ringLegal (v : Word) : Bool :=
  decide (v = 0) ||
    (let win := bits v 31 30
     let base := bits v 23 8 * 256
     let size := 256 * 2 ^ bits v 3 0
     decide ((win = 1 ∨ win = 2) ∧ 2 ≤ bits v 3 0 ∧ bits v 3 0 ≤ 8 ∧ base % size = 0
       ∧ base + size ≤ (if win = 1 then 0x600000 else 0x1000000)))

/-- RKG_RING_WRITE: the ring is placed and its counts restart, if the queue is idle (R229). Reserved bits are
not written. -/
def execRkgRingWrite (n : CoreId) (q : Fin 2) (v : Word) (s : State) : Outc :=
  let w := v &&& 0xC0FFFF0F
  .next (if ringLegal w && decide (enqCount s n q = doneCount s n q) && !(coreAt s n).rq[q].tfault then
      let s := rset s (rkgReg n.val (8 + 8 * q.val)) w
      let s := rset (rset (rset s (enqOff n q) 0) (doneOff n q) 0) (faddrOff n q) 0
      setRq s n q { (coreAt s n).rq[q] with row := 0, elem := 0 }
    else rkgBad s n)

/-- RKG_STATUS as it reads (Table 7-11). -/
def rkgQ (x : RQueue) : Nat :=
  let act := x.cur.isSome || x.reload
  8 * b1 x.tfault + 4 * b1 x.mstall + 2 * b1 (x.held && act) + b1 act
def rkgStatus (s : State) (n : CoreId) : Word :=
  rget s (rkgReg n.val 0) ||| mkWord [(8, rkgQ (coreAt s n).rq[1]), (0, rkgQ (coreAt s n).rq[0])]

/-- RKG_SCHED_STATUS.ACTIVE. -/
def rkgActive (s : State) : Nat :=
  (allCores.flatMap (fun n => [(coreAt s n).rq[0], (coreAt s n).rq[1]])).countP (fun x => x.cur.isSome || x.reload)

end Sys2Proof.Machine
end

