-- ==== Sys2Proof/Machine/Sync.lean ====
section
/-! DEFINITION. Fences, waits, the timed launch and the handle copies (R57 to R60, R104 to R106). -/

namespace Sys2Proof.Machine

/-! ### Fences (Table 2-11) -/

/-- Are both Racking queues of a core complete? -/
def rackingIdle (s : State) (n : CoreId) : Bool :=
  decide (doneCount s n 0 = enqCount s n 0 ∧ doneCount s n 1 = enqCount s n 1)

/-- Has a core a collective operation of its Gallery that is not complete? -/
def collBusy (s : State) (n : CoreId) : Bool :=
  match coreOwner s n with
  | none => false
  | some g => allQueues.any (fun q => s.gal[g].cq[q].ops.any (fun o => decide (o.core = n)))

/-- Does a fence kind wait for the matrix queue, for Racking, for collectives? Stores are visible at once. -/
def fenceM (k : FenceKind) : Bool := decide (k = .m ∨ k = .a)
def fenceD (k : FenceKind) : Bool := decide (k = .d ∨ k = .a)
def fenceC (k : FenceKind) : Bool := decide (k = .c ∨ k = .a)

/-- Is a fence's condition met? -/
def fenceMet (k : FenceKind) (n : CoreId) (s : State) : Bool :=
  (!fenceM k || decide ((coreAt s n).mq = [])) && (!fenceD k || rackingIdle s n) && (!fenceC k || !collBusy s n)

/-- The unit exception of a fence.d on a queue stopped on a translation fault (R224). -/
def fenceFault (k : FenceKind) (n : CoreId) (s : State) : Option State :=
  if fenceD k then (needFault n 0 s) <|> (needFault n 1 s) else none

/-- fence.k: younger instructions issue once its condition is met. A management core has no queue to wait for. -/
def execFence (h : Hart) (k : FenceKind) (s : State) : Outc :=
  .next (issue h (.fence h k) 6 (fun s =>
    match h with
    | .mgmt _ => .done s
    | .core n =>
      match fenceFault k n s with
      | some t => .stop t
      | none => if fenceMet k n s then .done s else .hold s) s)

/-! ### wait (R58, R221, R307) -/

/-- The word of a record that is no longer held: STATUS EXPIRED. -/
def expired (n : Nat) : Word := mkWord [(16, n % 2 ^ 24), (0, 0x0F)]

/-- What a handle of class Y names. -/
inductive QName where
  | racking (q : Fin 2)
  | coll (q : Fin 16)
  | bad
  deriving DecidableEq, Repr

/-- The queue of a handle in Gallery `g` (R42, R208, R306). -/
def queueOf (s : State) (g : Gal) (w : Word) : QName :=
  if bit w 63 && decide (bits w 23 16 = genLow s g) then
    if bits w 34 32 = 0 ∧ bits w 15 0 ≤ 1 then .racking (f1 (bits w 15 0))
    else if bits w 34 32 = 1 ∧ bits w 15 0 ≤ 15 then .coll (f4 (bits w 15 0))
    else .bad
  else .bad

/-- Record `n` of a core's Racking queue. -/
def rackRecord (s : State) (c : CoreId) (q : Fin 2) (n : Nat) : Word :=
  if n + ringSize s c q ≤ enqCount s c q then expired n else mem64 s.mem (ringSlot s c q (n - 1))

/-- Record `n` of a collective queue; an entry that does not hold record `n` reads as EXPIRED (R307). -/
def collRecord (x : CQueue) (n : Nat) : Word :=
  let w := x.records[f5 ((n - 1) % 32)]
  if n ≤ x.accepted ∧ x.accepted < n + 2 ^ 24 ∧ bits w 39 16 = n % 2 ^ 24 then w else expired n

/-- wait: hold until the queue has written `n` records, then sd = record `n`. -/
def execWait (h : Hart) (sd : SReg) (qn : QReg) (sb : SReg) (s : State) : Outc :=
  .next (issue h (.wait h sd qn sb) 6 (ctxOnly h (fun c s =>
    match coreOwner s c with
    | none => .fault excQueue
    | some g =>
      let n := (getS h sb s).toNat
      match queueOf s g (coreAt s c).q[qn] with
      | .bad => .fault excQueue
      | .racking q =>
        if n = 0 then .done (setS h sd 0x0F s)
        else if n ≤ doneCount s c q then .done (setS h sd (rackRecord s c q n) s)
        else
          match needFault c q s with
          | some t => .stop t
          | none => .hold s
      | .coll q =>
        if n = 0 then .done (setS h sd 0x0F s)
        else if n ≤ s.gal[g].cq[q].count then .done (setS h sd (collRecord s.gal[g].cq[q] n) s)
        else .hold s)) s)

/-! ### launch (R60) -/

/-- The timed launch armed on a core or a management core. A target that equals the present whole nanoseconds has passed
(R60, log entry 102). -/
def armLaunch (h : Hart) (v : Word) (s : State) : State :=
  match h with
  | .core n =>
    if v.toNat ≤ now s then modCore s n (fun c => { c with late := true })
    else modCore s n (fun c => { c with launchat := v, launchPend := true })
  | .mgmt k => if v.toNat ≤ now s then s else setMgmt s k { s.mgmt[k] with launchat := v, launchPend := true }

/-- launch: the next instruction issues at the Timebase value in sa; a value already passed sets LATE. -/
def execLaunch (h : Hart) (sa : SReg) (s : State) : Outc :=
  .next (issue h (.launch h sa) 6 (fun s => .done (armLaunch h (getS h sa s) s)) s)

/-- LAUNCH_TARGET_REACHED: the Timebase comes to the pending value; issue goes on. -/
def execLaunchTargetReached (h : Hart) (s : State) : Outc :=
  .next (match h with
    | .core n =>
      let c := coreAt s n
      if deviceRuns s && c.launchPend && live c then
        let s := advanceTo s c.launchat.toNat
        modCore s n (fun c => { c with launchPend := false, launchat := 0, state := .run })
      else s
    | .mgmt k =>
      let c := s.mgmt[k]
      if deviceRuns s && c.launchPend then
        setMgmt (advanceTo s c.launchat.toNat) k { c with launchPend := false, launchat := 0 }
      else s)

/-! ### waitm (R105) -/

/-- The effect of waitm: the word at sa + IMM is compared with sb. -/
def waitmEff (h : Hart) (cc : WCond) (sd sa sb : SReg) (imm : BitVec 24) (s : State) : Eff :=
  let a := (getS h sa s + imm.setWidth 64).toNat
  match h with
  | .mgmt _ => .fault (excAddress a)
  | .core n =>
    if a % 8 ≠ 0 ∨ inCaskOrReserve a (a + 7) = false then .fault (excAddress a)
    else
      let pa := sramAt n a
      if s.mem.isPoisoned (pa / 64) then .fault (excPoison a)
      else
        let v := mem64 s.mem pa
        if wcondHolds cc v (getS h sb s) then .done (setS h sd v s) else .hold s

/-- waitm.cc: hold until the word satisfies the condition, then sd = the word. -/
def execWaitm (h : Hart) (cc : WCond) (sd sa sb : SReg) (imm : BitVec 24) (s : State) : Outc :=
  .next (issue h (.waitm h cc sd sa sb imm) 6 (waitmEff h cc sd sa sb imm) s)

/-- The hold of a core or management core. -/
def holdOf (h : Hart) (s : State) : Option Hold :=
  match h with
  | .core n => (coreAt s n).hold
  | .mgmt k => s.mgmt[k].hold

/-- WAITM_REREAD: the held waitm reads its word again. -/
def execWaitmReread (h : Hart) (s : State) : Outc :=
  .next (match holdOf h s with
    | some { instr := .waitm h' cc sd sa sb imm, .. } =>
      if h' = h then issue h (.waitm h cc sd sa sb imm) 6 (waitmEff h cc sd sa sb imm) s else s
    | _ => s)

/-- The instructions whose hold waitlim bounds (R58, R105, R109). -/
def waitLimited : Instr → Bool
  | .wait .. => true
  | .waitm .. => true
  | .sclose .. => true
  | _ => false

/-- WAIT_TIMEOUT: the hold outlasts waitlim, and the instruction takes WAIT_TIMEOUT as a fault (R58). A limit of 0 is no limit
(Table 2-19). A management core has no waitlim. -/
def execWaitTimeout (h : Hart) (s : State) : Outc :=
  .next (match h with
    | .mgmt _ => s
    | .core n =>
      let c := coreAt s n
      match c.hold with
      | some k =>
        if deviceRuns s && live c && waitLimited k.instr && decide (c.waitlim ≠ 0) then
          let s := advanceTo s (k.since + c.waitlim.toNat + 1)
          takeExc s n excTimeout 6 true c.pc c.pc
        else s
      | none => s)

/-! ### Handle copies (R106) -/

/-- qcopy: qd = qn, unchecked. -/
def execQcopy (h : Hart) (qd qn : QReg) (s : State) : Outc :=
  .next (issue h (.qcopy h qd qn) 6 (ctxOnly h (fun n s => .done (setQ n qd (coreAt s n).q[qn] s))) s)

/-- qread: sd = the handle, unchecked. -/
def execQread (h : Hart) (sd : SReg) (qn : QReg) (s : State) : Outc :=
  .next (issue h (.qread h sd qn) 6 (ctxOnly h (fun n s => .done (setS h sd (coreAt s n).q[qn] s))) s)

end Sys2Proof.Machine
end

