-- ==== Sys2Proof/Machine/Context.lean ====
section
/-! DEFINITION. Context control: PREEMPT, the save image, RESTORE, RESUME and KILL
(R66 to R70, R139, R193, R226, R230, R377). -/

namespace Sys2Proof.Machine

/-- ENG_STATUS as it reads (Table 4-7): a work cycle without a slab to run, or whose slab is late, is a dummy. CEIL
reads at least 1, also where a refused rise holds step 0. -/
def engStatus (s : State) (n : CoreId) : Word :=
  let c := coreAt s n
  (rget s (engReg n.val 0) &&& 0x878) ||| mkWord [(20, max 1 (ceilInForce s n)), (16, c.actStep),
    (10, b1 (decide (c.actStep ≠ 0) && (!hasWork s n || Config.lateSlab n.val s.clk))), (9, b1 (decide (c.mq ≠ []))), (7, b1 (decide (c.vatPsn ≠ 0)))]

/-! ### Control registers read whole (Tables 2-16 to 2-19) -/

def RunState.code : RunState → Nat
  | .empty => 0 | .run => 1 | .wait => 2 | .stopped => 3 | .halted => 4 | .saving => 5 | .restoring => 6 | .saved => 7

/-- cstat. -/
def cstatWord (c : Core) : Word :=
  mkWord [(12, b1 c.ctxerr), (11, b1 c.badcmd), (8, c.mq.length), (6, b1 c.dz), (5, b1 c.preq), (4, b1 c.late),
    (0, c.state.code)]

/-! ### The address of a save image (R67) -/

/-- Does ctxpa meet R67 for the core's Gallery? -/
def ctxpaOk (s : State) (n : CoreId) : Bool :=
  let a := (coreAt s n).ctxpa.toNat
  decide (a % 0x80000 = 0 ∧ a < cellarEnd) &&
    decide ((groupOwner s (a / 2 ^ 37)).isSome ∧ groupOwner s (a / 2 ^ 37) = coreOwner s n)

def setBadcmd (s : State) (n : CoreId) : State := modCore s n (fun c => { c with badcmd := true })
def setCtxerr (s : State) (n : CoreId) : State := modCore s n (fun c => { c with ctxerr := true })

/-- A core whose cluster no Gallery owns is held in compute reset: no command of ctxctl changes it (R25). -/
def ctxDo (s : State) (n : CoreId) (t : State) : Outc := .next (if (coreOwner s n).isNone then s else t)

/-- CTX_PREEMPT: issue, engine and Racking stop, and the save begins (R65, R66). -/
def execCtxPreempt (n : CoreId) (s : State) : Outc :=
  let c := coreAt s n
  ctxDo s n (if !(live c || decide (c.state = .stopped ∨ c.state = .halted)) then setBadcmd s n
    else if !ctxpaOk s n then setCtxerr s n
    else
      modCore (dropStalls s (.core n)) n (fun c =>
        { c with atStop := if c.state = .halted then .halted else .stopped
                 resumepc := if live c then c.pc else c.resumepc
                 state := .saving, preq := true, hold := none
                 rq := c.rq.map (fun x => { x with held := true }) }))

/-! ### The image (Table 2-13) -/

/-- Unspecified bytes: what a section that met an uncorrectable error holds (R69, log entry 3). -/
def freeBytes (k len : Nat) : List Byte :=
  ((List.range (cdiv len 8)).flatMap (fun i => leBytes 8 (Config.freeWord (k + i)).toNat)).take len

def wordsOf (ws : List Word) : List Byte := ws.flatMap (fun w => leBytes 8 w.toNat)

/-- RKG_PROGRESS. -/
def rkgProgress (x : RQueue) : Word := mkWord [(16, x.row), (0, x.elem)]

/-- The Racking section (R230). -/
def rackSection (s : State) (n : CoreId) : List Byte :=
  let c := coreAt s n
  wordsOf ([rkgStatus s n] ++ ([8, 16, 24, 32, 40, 48]).map (fun o => rget s (rkgReg n.val o))
    ++ [rkgProgress c.rq[0], rkgProgress c.rq[1], rget s (faddrOff n 0), rget s (faddrOff n 1)]
    ++ ([c.rq[0], c.rq[1]]).map (fun x => mkWord [(15, b1 x.poisoned), (8, min x.reject 127)]))

/-- The engine section (Table 4-5). -/
def bufWord (a b : BufRec) : Word :=
  mkWord [(0, a.fmt.toNat), (4, b1 a.mx), (7, b1 a.valid), (8, b.fmt.toNat), (12, b1 b.mx), (15, b1 b.valid),
    (16, a.rows.toNat), (24, a.cols.toNat), (32, b.rows.toNat), (40, b.cols.toNat)]

def engSection (s : State) (n : CoreId) : List Byte :=
  let c := coreAt s n
  wordsOf [engStatus s n, rget s (engReg n.val 8), rget s (engReg n.val 0x10), bufWord c.stbRec[0] c.stbRec[1]]
    ++ leBytes 16 c.vatPsn.toNat ++ leBytes 16 c.stbPsn[0].toNat ++ leBytes 16 c.stbPsn[1].toNat

/-- The vector section (Table 6-7). -/
def vecSection (s : State) (n : CoreId) : List Byte :=
  wordsOf ([vecStatus s n] ++ ([0x18, 0x20, 0x28, 0x30, 0x38, 0x40, 0x48, 0x50, 0x58, 0x08, 0x10]).map
    (fun o => rget s (vecReg n.val o)))

/-- The snoop tap section of one channel (R377). -/
def chkSection (s : State) (n : CoreId) (ch : Fin 4) : List Byte :=
  let c := (coreAt s n).chk[ch]
  let r (o : Nat) : Word := rget s (chkReg n.val ch.val o)
  wordsOf ([c.ctl, r 8, r 0x10, c.poly, c.init, c.xorout]
      ++ (List.range 8).map (fun i => c.state.getD i 0))
    ++ c.part ++ List.replicate (128 - c.part.length) 0

/-- One matrix queue entry, and an empty one. -/
def mqSection (e : MEntry) : List Byte :=
  wordsOf [e.word, e.pc, e.progress, 1] ++ leBytes 16 e.drop.toNat ++ wordsOf [e.stat, 0]
    ++ leBytes 32 e.ts.toNat ++ leBytes 32 e.tsScale.toNat ++ leBytes 32 e.tw.toNat ++ leBytes 32 e.twScale.toNat

def allChans : List (Fin 4) := [0, 1, 2, 3]

/-- The control section: every part with its offset. -/
def controlParts (s : State) (n : CoreId) : List (Nat × List Byte) :=
  let c := coreAt s n
  [(0x100, wordsOf ((0 : Word) :: c.s.toList.drop 1)),
   (0x200, wordsOf [c.pc, c.resumepc, cstatWord c, c.fpctl, c.ecause, c.epc, c.eaddr, c.einfo,
      BitVec.ofNat 64 c.waitlim.toNat, c.launchat, c.retired]),
   (0x300, leBytes 128 ((-1 : BitVec 1024).toNat) ++ (c.p.toList.drop 1).flatMap (fun (p : BitVec 1024) => leBytes 128 p.toNat)),
   (0x700, wordsOf c.q.toList),
   (0x800, c.t.toList.flatMap (fun (t : BitVec 256) => leBytes 32 t.toNat)),
   (0xC00, rackSection s n), (0xD00, engSection s n), (0xD80, vecSection s n),
   (0xE00, c.vpsn.toList.flatMap (fun (p : BitVec 32) => leBytes 4 p.toNat)),
   (0xE80, List.replicate 16 0 ++ allChans.flatMap (chkSection s n)),
   (0x1300, c.mq.flatMap mqSection ++ List.replicate (192 * (4 - c.mq.length)) 0)]

/-- A buffer as it lies in the image. -/
def rowsBytes {w : Nat} (k : Nat) (l : List (BitVec w)) : List Byte := l.flatMap (fun (r : BitVec w) => leBytes k r.toNat)

/-- The image. A section whose bit of `ue` is set met an uncorrectable error: it holds free bytes. -/
def imageParts (s : State) (n : CoreId) (ue : BitVec 5) : List (Nat × List Byte) :=
  let c := coreAt s n
  let sec (i : Nat) (p : Nat × List Byte) : Nat × List Byte :=
    if bit ue i then (p.1, freeBytes (s.free + p.1 / 8) p.2.length) else p
  [(0, wordsOf [mkWord [(0, 1), (16, n.val), (24, ((coreOwner s n).map (fun g => g.val)).getD 0)],
      ((coreOwner s n).map (gen s)).getD 0,
      mkWord [(0, c.atStop.code), (8, b1 c.launchPend), (16, ue.toNat)], BitVec.ofNat 64 (now s)])]
  ++ (controlParts s n).map (sec 0)
  ++ [sec 1 (0x10000, rowsBytes 2048 c.v.toList), sec 2 (0x20000, rowsBytes 512 c.stb[0].toList),
      sec 3 (0x30000, rowsBytes 512 c.stb[1].toList), sec 4 (0x40000, rowsBytes 2048 c.vat.toList)]

/-- The unit whose storage an image's errors lie in: vector unit, else engine, else sequencer (Table 5-7). -/
def ueUnit (ue : BitVec 5) : Nat := if bit ue 1 then 1 else if ue = 1 then 0 else 2

/-- The error of a save that met an uncorrectable error: SRAM_UE, KIND 0x08 (R69, Table 13-2). -/
def saveErr (s : State) (n : CoreId) (ue : BitVec 5) : Err :=
  { kind := 8, cls := 3, unit := ueUnit ue, gal := coreOwner s n, core := some n
    d0 := causeWord { code := 0x0B, src := ueUnit ue } 0 false }

/-- CONTEXT_SAVE_COMPLETE: the image is written and the core is SAVED; `ue` names the sections in which reading
the state met an uncorrectable error (R66, R69). -/
def execContextSaveComplete (n : CoreId) (ue : BitVec 5) (s : State) : Outc :=
  let c := coreAt s n
  .next (if c.state = .saving then
      let mem := (imageParts s n ue).foldl (fun m p => m.store (c.ctxpa.toNat + p.1) p.2 false) s.mem
      let i := c.ctxpa.toNat / 2 ^ 17
      let w := { s.walker with images := if s.walker.images.contains i then s.walker.images else s.walker.images ++ [i] }
      let t := modCore { s with mem := mem, walker := w } n (fun c => { c with state := .saved, preq := false })
      if ue = 0 then t
      else
        let t := appraise { t with free := t.free + 0x10000 } (0x110 + clusterOf n) 1024
        let t := match coreOwner t n with
          | some g => sealMark t g rsnSram none
          | none => t
        report t (saveErr t n ue)
    else s)

/-! ### RESTORE (R68) -/

/-- A word and a run of bytes of the image. -/
def imgWord (m : Memory) (a o : Nat) : Word := mem64 m (a + o)

/-- The checks of R68. -/
def restoreOk (s : State) (n : CoreId) : Bool :=
  let a := (coreAt s n).ctxpa.toNat
  let h := imgWord s.mem a 0
  ctxpaOk s n && decide (bits h 15 0 = 1 ∧ some (bits h 26 24) = (coreOwner s n).map (fun g => g.val))
    && decide (some (imgWord s.mem a 8) = (coreOwner s n).map (gen s))
    && decide (bits (imgWord s.mem a 0x10) 20 16 = 0) && !s.mem.anyPoison a 0x10000

/-- CTX_RESTORE: the image is checked, and its loading begins. A Gallery being torn down takes no context. -/
def execCtxRestore (n : CoreId) (s : State) : Outc :=
  ctxDo s n (if (coreAt s n).state ≠ .empty then setBadcmd s n
    else if !restoreOk s n then setCtxerr s n
    else modCore s n (fun c => { c with state := .restoring }))

/-- Values of fixed width from the image. -/
def imgVals (m : Memory) (w a k cnt : Nat) : List (BitVec w) :=
  (List.range cnt).map (fun i => BitVec.ofNat w (leNat (m.bytes (a + k * i) k)))

def vecOfList {α : Type} (n : Nat) (d : α) (l : List α) : Vector α n := Vector.ofFn (fun i => l.getD i.val d)

/-- Poison bits of `cnt` rows of `k` bytes: a poisoned line poisons its row. -/
def imgPoison (m : Memory) (w a k cnt : Nat) : BitVec w :=
  BitVec.ofNat w ((List.range cnt).foldl (fun x i => x + b1 (m.anyPoison (a + k * i) k) * 2 ^ i) 0)

def bufOf (w : Word) (lo rl : Nat) : BufRec :=
  { fmt := BitVec.ofNat 4 (bits w (lo + 3) lo), mx := bit w (lo + 4), valid := bit w (lo + 7)
    rows := BitVec.ofNat 8 (bits w (rl + 7) rl), cols := BitVec.ofNat 8 (bits w (rl + 15) (rl + 8)) }

/-- The matrix queue of an image. -/
def imgQueue (m : Memory) (a : Nat) : List MEntry :=
  ((List.range 4).map (fun i => a + 0x1300 + 192 * i)).filterMap (fun b =>
    if bit (mem64 m (b + 24)) 0 then
      some { word := mem64 m b, pc := mem64 m (b + 8), progress := mem64 m (b + 16)
             drop := BitVec.ofNat 128 (leNat (m.bytes (b + 32) 16)), stat := mem64 m (b + 48)
             ts := mem256 m (b + 64), tsScale := mem256 m (b + 96), tw := mem256 m (b + 128)
             twScale := mem256 m (b + 160) }
    else none)

/-- A snoop tap channel of an image. -/
def imgChk (m : Memory) (b : Nat) : ChkCh :=
  let ctl := mem64 m b &&& 0xFFFFFFFFFFFF3FFC
  let alg := bits ctl 3 2
  let n := if alg = 2 then 8 else 1
  { ctl := ctl, poly := mem64 m (b + 24), init := mem64 m (b + 32), xorout := mem64 m (b + 40)
    started := decide (alg ≠ 0), state := imgVals m 64 (b + 48) 8 n
    part := if alg = 2 ∧ !bit (mem64 m (b + 8)) 3 then m.bytes (b + 112) ((mem64 m (b + 16)).toNat % 128) else [] }

/-- A Racking queue of an image. The fault class of a stopped descriptor is not in the image: it is UNMAPPED,
MIGRATE_TIMEOUT or FMAP_UE, freely (Table 8-4, log entry 3). -/
def imgRq (s : State) (a : Nat) (q : Fin 2) : RQueue :=
  let st := bits (imgWord s.mem a 0xC00) (8 * q.val + 3) (8 * q.val)
  let pr := imgWord s.mem a (0xC38 + 8 * q.val)
  let fa := imgWord s.mem a (0xC48 + 8 * q.val)
  let w := imgWord s.mem a (0xC58 + 8 * q.val)
  let cls := [1, 2, 4].getD ((Config.freeWord (s.free + q.val)).toNat % 3) 1
  { row := bits pr 63 16, elem := bits pr 15 0, reject := bits w 14 8, poisoned := bit w 15, held := true
    mstall := st.testBit 2, tfault := st.testBit 3, reload := st.testBit 0
    fault := if st.testBit 3 then some (cls, bit fa 63, BitVec.ofNat 64 (bits fa 47 0)) else none }

/-- The core as an image gives it. A state-at-stop other than HALTED restores as STOPPED (R68, log entry 104). -/
def imgCore (s : State) (n : CoreId) : Core :=
  let c := coreAt s n
  let a := c.ctxpa.toNat
  let m := s.mem
  let st := imgWord m a 0x10
  let cs := imgWord m a 0x210
  let b := imgWord m a 0xD18
  { c with
    s := (vecOfList 32 0 (imgVals m 64 (a + 0x100) 8 32)).set 0 0
    v := vecOfList 32 0 (imgVals m 16384 (a + 0x10000) 2048 32)
    vpsn := Vector.ofFn (fun i => BitVec.ofNat 32 (leNat (m.bytes (a + 0xE00 + 4 * i.val) 4))
      ||| imgPoison m 32 (a + 0x10000 + 2048 * i.val) 64 32)
    p := (vecOfList 8 0 (imgVals m 1024 (a + 0x300) 128 8)).set 0 0
    t := vecOfList 16 0 (imgVals m 256 (a + 0x800) 32 16)
    q := vecOfList 8 0 ((imgVals m 64 (a + 0x700) 8 8).map (fun w => w &&& 0x80000007_07FFFFFF))
    pc := imgWord m a 0x200, resumepc := imgWord m a 0x208
    ctxerr := bit cs 12, badcmd := bit cs 11, dz := bit cs 6, late := bit cs 4, preq := false
    fpctl := imgWord m a 0x218 &&& 0xF03, ecause := imgWord m a 0x220 &&& 0xF0FFF, epc := imgWord m a 0x228
    eaddr := imgWord m a 0x230, einfo := imgWord m a 0x238
    waitlim := BitVec.ofNat 40 (bits (imgWord m a 0x240) 39 0)
    launchat := imgWord m a 0x248, launchPend := bit st 8, retired := imgWord m a 0x250
    state := if bits st 3 0 = 4 then .halted else .stopped
    hold := none, nanWait := false, mq := imgQueue m a, actStep := 0, actSlabs := 0, dummyRun := 0
    stb := Vector.ofFn (fun i => vecOfList 128 0 (imgVals m 4096 (a + 0x20000 + 0x10000 * i.val) 512 128))
    stbRec := #v[bufOf b 0 16, bufOf b 8 32]
    stbPsn := Vector.ofFn (fun i => BitVec.ofNat 128 (leNat (m.bytes (a + 0xD30 + 16 * i.val) 16))
      ||| imgPoison m 128 (a + 0x20000 + 0x10000 * i.val) 512 128)
    vat := vecOfList 128 0 (imgVals m 16384 (a + 0x40000) 2048 128)
    vatPsn := BitVec.ofNat 128 (leNat (m.bytes (a + 0xD20) 16)) ||| imgPoison m 128 (a + 0x40000) 2048 128
    rq := #v[imgRq s a 0, imgRq s a 1]
    chk := Vector.ofFn (fun i => imgChk m (a + 0xE90 + 240 * i.val)) }

/-- The device registers that an image gives: offset in the image, register, and the bits it holds. -/
def imgRegs (n : CoreId) : List (Nat × Nat × Word) :=
  [(0xD00, engReg n.val 0, 0x878), (0xD08, engReg n.val 8, 0xFFFFFFFF), (0xD10, engReg n.val 0x10, 0xFFFFFFFF),
   (0xD80, vecReg n.val 0, 0xC060), (0xDD0, vecReg n.val 8, 0xFFFFFFFF), (0xDD8, vecReg n.val 0x10, 0xFFFFFFFF),
   (0xDC0, vecReg n.val 0x50, 0xFF), (0xDC8, vecReg n.val 0x58, 0xFFFFFFFF)]
  ++ (List.range 7).map (fun i => (0xD88 + 8 * i, vecReg n.val (0x18 + 8 * i), (0xFFFFFFFF : Word)))
  ++ [(0xC00, rkgReg n.val 0, 0xC000), (0xC08, rkgReg n.val 8, 0xC0FFFF0F), (0xC10, rkgReg n.val 16, 0xC0FFFF0F)]
  ++ ([24, 32, 40, 48]).map (fun o => (0xC00 + o, rkgReg n.val o, (0xFFFFFFFFFFFF : Word)))
  ++ ([72, 80]).map (fun o => (0xC00 + o, rkgReg n.val o, (0x8000FFFFFFFFFFFF : Word)))
  ++ (List.range 4).flatMap (fun ch =>
    let b := 0xE90 + 240 * ch
    [(b, chkReg n.val ch 0, (0xFFFFFFFFFFFF3FFC : Word)), (b + 8, chkReg n.val ch 8, 0xF8), (b + 16, chkReg n.val ch 0x10, -1),
     (b + 24, chkReg n.val ch 0x18, -1), (b + 32, chkReg n.val ch 0x20, -1), (b + 40, chkReg n.val ch 0x28, -1)])

/-- CONTEXT_RESTORE_COMPLETE: the image is loaded; the core takes the state recorded in it (R68). A line of the control
section that has come to read as poisoned since the command, as one found uncorrectable does (R244), still refuses it. -/
def execContextRestoreComplete (n : CoreId) (s : State) : Outc :=
  let a := (coreAt s n).ctxpa.toNat
  .next (if (coreAt s n).state = .restoring then
      if !restoreOk s n then modCore s n (fun c => { c with state := .empty, ctxerr := true })
      else
      let t := setCore s n (imgCore s n)
      let t := (imgRegs n).foldl (fun t r => rset t r.2.1 (imgWord s.mem a r.1 &&& r.2.2)) t
      { t with free := t.free + 2 }
    else s)

/-! ### RESUME and KILL -/

/-- A restored descriptor is read from its entry again; one that no longer passes the checks fails (R211, R226). -/
def reloadQueue (s : State) (n : CoreId) (q : Fin 2) : State :=
  let x := (coreAt s n).rq[q]
  if x.reload then
    match parseEntry s.mem (ringSlot s n q (doneCount s n q)) with
    | none => writeRecord s n q 0x05
    | some d =>
      if rackChecks s n d 0 0 = [] then setRq s n q { x with reload := false, held := false, cur := some d }
      else writeRecord s n q 0x05
  else setRq s n q { x with held := false }

/-- CTX_RESUME: issue restarts at resumepc, with unfinished matrix and Racking work (R60, R68). -/
def execCtxResume (n : CoreId) (s : State) : Outc :=
  let t := resumeCore s n
  ctxDo s n (if live (coreAt t n) && !live (coreAt s n) then reloadQueue (reloadQueue t n 0) n 1 else t)

/-- CTX_KILL: the context is discarded, its descriptors are killed and the core is EMPTY (R70, R227). -/
def execCtxKill (n : CoreId) (s : State) : Outc :=
  ctxDo s n (if (coreAt s n).state = .empty then setBadcmd s n
    else afterRecord (emptyCore (killPair (dropStalls s (.core n)) n) n) n)

end Sys2Proof.Machine
end

