-- ==== Sys2Proof/Machine/Route.lean ====
section
/-! DEFINITION. The routing decision of a device: productive directions, candidate ports, the port chosen, the
detour and the escape path (R289, R292 to R296). -/

namespace Sys2Proof.Machine

/-- Coordinates and Catalogue fields of an axis: WRAP, the box of the packet's Gallery and its MODE (Table 9-11). -/
def wraps (s : State) (a : Nat) : Bool := (bits s.catActive.hdr0 19 16).testBit a
def ringMode (s : State) (g : Gal) (a : Nat) : Bool := (bits s.catActive.gal[g] 51 48).testBit a

/-- Directions: + and −. -/
structure Dirs where
  plus : Bool
  minus : Bool
  deriving DecidableEq, Repr

def noDir : Dirs := ⟨false, false⟩
def oneDir (minus : Bool) : Dirs := ⟨!minus, minus⟩

/-- The productive directions of a packet on axis `a` (R292). -/
def productive (s : State) (p : Packet) (a : Nat) : Dirs :=
  let c := nib (coord s) a
  let d := nib p.dst a
  let l := ringLen s a
  let o := origin s p.gallery a
  if c = d then noDir
  else if bit p.w0 (28 + a) then oneDir (bit p.w0 (24 + a))
  else if !wraps s a then oneDir (decide (d < c))
  else if extent s p.gallery a < l ∧ ringMode s p.gallery a = false then
    oneDir (decide ((d + l - o) % l < (c + l - o) % l))
  else
    let f := (d + l - c) % l
    let m := l - f
    ⟨decide (f ≤ m), decide (m ≤ f)⟩

/-- Usable ports of an axis and direction. -/
def usablePorts (s : State) (a : Nat) (minus : Bool) : List PortId := (portsOf a minus).filter (portUsable s)
def dirPorts (s : State) (a : Nat) (d : Dirs) : List PortId :=
  (if d.plus then usablePorts s a false else []) ++ (if d.minus then usablePorts s a true else [])

/-- The candidates (R293). -/
def candidates (s : State) (p : Packet) : List PortId :=
  [0, 1, 2, 3].flatMap (fun a => dirPorts s a (productive s p a))

/-- Is this device a member of the packet's Gallery for routing: does it hold the open Gallery with the GTAG,
or lie inside its box (R295)? -/
def holdsGtag (s : State) (p : Packet) : Bool :=
  allGals.any (fun g => isOpen s g && galValid s g && decide (bits s.catActive.gal[g] 15 0 = p.gtag))
def insideBox (s : State) (p : Packet) : Bool :=
  galValid s p.gallery && decide (bits s.catActive.gal[p.gallery] 15 0 = p.gtag) && inBox s p.gallery (coord s)
def isTransit (s : State) (p : Packet) : Bool := !holdsGtag s p && !insideBox s p

/-- The coordinate of the device that a port reaches. -/
def partnerCoord (s : State) (p : PortId) : Nat := bits s.catActive.nbr[p] 47 32

/-- Does a packet travel in the transit classes on a port: its receiver lies outside the box (R295)? A packet
of a Gallery this device does not hold is judged by the Gallery tags that the partner told in IDENT. -/
def transitOn (s : State) (p : Packet) (port : PortId) : Bool :=
  if galValid s p.gallery ∧ bits s.catActive.gal[p.gallery] 15 0 = p.gtag then
    !inBox s p.gallery (partnerCoord s port)
  else !s.ports[port].peerGtags.contains (BitVec.ofNat 16 p.gtag)

/-- The class of a packet on a port: 0 REQ, 1 RSP, 2 TREQ, 3 TRSP; virtual channels 3k to 3k + 2 (Table 9-8). -/
def classOn (s : State) (p : Packet) (port : PortId) : Nat := b1 p.cls + 2 * b1 (transitOn s p port)

/-- Slots of a packet. -/
def pktSlots (p : Packet) : Nat := 1 + p.len

/-- Slots queued on a port for a class. -/
def queuedSlots (s : State) (port : PortId) (k : Nat) : Nat :=
  (s.ports[port].outq.filter (fun e => decide (e.1 / 3 = k))).foldl (fun a e => a + pktSlots e.2) 0

/-- The candidate whose queue for the packet's class holds the fewest slots; the lower number wins a tie. -/
def bestPort (s : State) (p : Packet) : List PortId → Option PortId
  | [] => none
  | q :: r =>
    match bestPort s p r with
    | none => some q
    | some b =>
      let x := queuedSlots s q (classOn s p q)
      let y := queuedSlots s b (classOn s p b)
      if x < y ∨ (x = y ∧ q.val < b.val) then some q else some b

/-- The output port that R293 chooses for a packet that this device injects. -/
def choosePort (s : State) (p : Packet) : Option PortId := bestPort s p (candidates s p)

/-- POOL of a port's partner, by the kind of port (R288). -/
def pool (p : PortId) : Nat := if optical p then 15513 else 3225

/-- May a packet of `n` slots go on virtual channel `v` (R289)? -/
def overPool (u : Vector Nat 13) (v : Fin 13) : Nat := u[v] - 67
def credit (s : State) (p : PortId) (v : Fin 13) (n : Nat) : Bool :=
  let u := s.ports[p].used
  let need := (u[v] + n - 67) - overPool u v
  let poolUse := u.toList.foldl (fun a x => a + (x - 67)) 0
  decide (need ≤ pool p - poolUse)

end Sys2Proof.Machine
end

