-- ==== Sys2Proof/Machine/CollData.lean ====
section
/-! DEFINITION. What collective operations do with data: segments and chunks, the tasks of a ring member, element
access, the canonical combination and the Gradient Codec (R164 to R166, R308, R312 to R318). -/

namespace Sys2Proof.Machine

/-! ### Elements in memory (R308) -/

/-- Codes of units as bytes: whole bytes, or two FP4 codes to a byte. -/
def packUnits (w : Nat) : List Nat → List Byte
  | [] => []
  | [c] => if w < 8 then [BitVec.ofNat 8 c] else leBytes (w / 8) c
  | c :: d :: r =>
    if w < 8 then BitVec.ofNat 8 (c % 16 + 16 * d) :: packUnits w r
    else leBytes (w / 8) c ++ packUnits w (d :: r)

/-- Unit `i` of a run of bytes. -/
def unitOf (w : Nat) (bs : List Byte) (i : Nat) : Nat :=
  if w < 8 then (bs.getD (i / 2) 0).toNat / 16 ^ (i % 2) % 16
  else leNat ((bs.drop (w / 8 * i)).take (w / 8))

/-- The bytes of a chunk of an operand, and whether a line of them is poisoned. -/
def readChunk (s : State) (g : Gal) (cl : Nat) (t : Tile) (e0 n : Nat) : List Byte × Bool :=
  let us := t.units e0 n
  let w := t.unitBits
  (packUnits w (us.map (fun b => readBits s.mem (collAt s g cl) b w)),
    us.any (fun b => bitPoison s.mem (collAt s g cl) b))

/-- Do elements of a chunk end rows of an odd count of FP4 elements, whose last byte has padding (R148)? -/
def Tile.padAt (t : Tile) (e : Nat) : Bool := decide (t.format = .e2m1 ∧ t.n0 % 2 = 1 ∧ e % t.n0 + 1 = t.n0)

/-- A chunk written, every line of it poisoned or clean (R324); the padding of an odd FP4 row is written as zero. -/
def writeChunk (s : State) (g : Gal) (cl : Nat) (t : Tile) (e0 n : Nat) (bs : List Byte) (psn : Bool) : State :=
  let us := t.units e0 n
  let w := t.unitBits
  let ix := us.zip (List.range us.length)
  let ws := ix.map (fun u => (8 * collAt s g cl (u.1 / 8).toNat + (u.1 % 8).toNat, if t.padAt (e0 + u.2) then 8 else w, psn))
  let m := ix.foldl (fun m u =>
    let pa := collAt s g cl (u.1 / 8).toNat
    let m := writeBits m pa u.1 w (unitOf w bs u.2)
    if t.padAt (e0 + u.2) then writeBits m pa (u.1 + 4) 4 0 else m) s.mem
  { s with mem := (((ws.map (fun x => x.1 / 512)).eraseDups).foldl (poisonAfter ws) (m, [])).1 }

/-! ### Values and the combine step (R313) -/

/-- Element codes with the NaN events met: element and cause. -/
structure Vals where
  codes : List Nat
  events : List (Nat × Nat) := []

/-- The FP32 code of one SF16 element of a block with this scale (R166), and the lowest cause met (R167). -/
def sfDecode (code scale : Nat) : Nat × Option Nat :=
  let v := fpDecode (specOf .f16) code
  if isNanV v then (nanCode spec32, some 1)
  else if scale = 255 then (nanCode spec32, some 3)
  else (plusZero .f32 (round32 .rn (mulVal v (decodeElem .e8m0 scale))), none)

/-- The first `n` elements of a super-block. -/
def sfDecodeAll (bs : List Byte) (n : Nat) : Vals :=
  let rs := (List.range n).map (fun j =>
    (j, sfDecode (leNat ((bs.drop (2 * j)).take 2)) (bs.getD (2048 + j / 32) 0).toNat))
  ⟨rs.map (fun r => r.2.1), rs.filterMap (fun r => r.2.2.map (fun c => (r.1, c)))⟩

/-- One block of 32 FP32 values encoded by a Gradient Codec (R165): scale, codes, flushes. -/
def sfBlock (vs : List Val) : Nat × List Nat × Nat :=
  if vs.any isNanV then (255, vs.map (fun _ => 0), 0)
  else
    let x := match maxExp vs with
      | some a => max (a - 15) (-127)
      | none => -127
    let cs := vs.map (fun v => plusZero .f16 (roundFp (specOf .f16) .rn true (unscale x v)).1)
    ((x + 127).toNat, cs, (vs.zip cs).countP (fun p => !isZero p.1 && decide (p.2 = 0)))

/-- A super-block encoded from FP32 codes, completed with +0: its bytes, the flushes, the NaN blocks and events. -/
structure Enc where
  bytes : List Byte
  flush : Nat
  nanBlk : Nat
  events : List (Nat × Nat)

def sfEncode (cs : List Nat) : Enc :=
  let vs := (cs ++ List.replicate (1024 - cs.length) 0).map val32
  let bs := (List.range 32).map (fun b => sfBlock ((vs.drop (32 * b)).take 32))
  { bytes := bs.flatMap (fun b => b.2.1.flatMap (leBytes 2)) ++ bs.map (fun b => BitVec.ofNat 8 b.1)
      ++ List.replicate 32 0
    flush := bs.foldl (fun a b => a + b.2.2) 0
    nanBlk := bs.countP (fun b => decide (b.1 = 255))
    events := ((List.range 1024).zip vs).filterMap (fun p => if isNanV p.2 then some (p.1, 1) else none) }

/-- A member's own values of a chunk: FP32 codes, or INT32 words. -/
def contribution (s : State) (g : Gal) (o : CollOp) (t : Task) : Vals × Bool :=
  let (bs, psn) := readChunk s g o.cluster o.src (o.srcAt t) t.ch.cnt
  if o.src.format = .sf16 then (sfDecodeAll bs t.ch.cnt, psn)
  else
    let w := o.src.ebits
    (⟨(List.range t.ch.cnt).map (fun i =>
      let c := unitOf w bs i
      if o.int then c else round32 .rn (decodeElem o.src.format c)), []⟩, psn)

/-- The combination of two codes (R313), and its cause. -/
def combineOne (op : ColOp) (int : Bool) (a x : Nat) : Nat × Option Nat :=
  if int then
    let p := signedOf 32 a
    let q := signedOf 32 x
    (match op with
      | .sum => (a + x) % 2 ^ 32
      | .max => if p < q then x else a
      | .min => if q < p then x else a, none)
  else
    let u := val32 a
    let v := val32 x
    let r := match op with
      | .sum => addVal .rn u v
      | .max => maxVal u v
      | .min => minVal u v
    (plusZero .f32 (round32 .rn r), (opFlags [u, v] r).cause)

def combineAll (op : ColOp) (int : Bool) (a x : List Nat) : Vals :=
  let rs := (a.zip x).map (fun p => combineOne op int p.1 p.2)
  ⟨rs.map Prod.fst, ((List.range rs.length).zip rs).filterMap (fun r => r.2.2.map (fun c => (r.1, c)))⟩

/-- The complete values rounded once to the destination format (R313). -/
def finalBytes (o : CollOp) (cs : List Nat) : List Byte :=
  let d := o.dst.format
  packUnits (fmtBits d) (cs.map (fun c =>
    if o.int then c else plusZero d (roundFp (specOf d) .rn false (val32 c)).1))

/-- The codes carried in a reduce packet without Codec. -/
def codesOf (n : Nat) (bs : List Byte) : List Nat := (List.range n).map (unitOf 32 bs)

/-- The first event: lowest element, lowest cause there (R172). -/
def lowestEvent (evs : List (Nat × Nat)) : Option (Nat × Nat) :=
  evs.foldl (fun b e =>
    match b with
    | none => some e
    | some x => if e.1 < x.1 ∨ (e.1 = x.1 ∧ e.2 < x.2) then some e else some x) none

end Sys2Proof.Machine
end

