-- ==== Sys2Proof/Machine/Mirror.lean ====
section
/-! DEFINITION. Buddy Mirroring: passes, the copy into a spare, and what a buddy does with the packets
(R328 to R330, R399, R400). One packet is in flight at a time (log entry 7). -/

namespace Sys2Proof.Machine

/-- The bytes of a run inside one frame of a Gallery, with a poison bit for each 64-byte line (Table 9-6). -/
def virtRead (s : State) (g : Gal) (va n : Nat) : Option (List Byte × Nat) :=
  match translate s g va false with
  | .ok pa =>
    some (s.mem.bytes pa n, ((linesOf pa n).zip (List.range 33)).foldl (fun acc x =>
      acc + (if s.mem.isPoisoned x.1 then 2 ^ x.2 else 0)) 0)
  | _ => none

/-- Mark lines of a run poisoned as a packet's POISON bits say; other lines are clean. -/
def storeLines (m : Memory) (pa : Nat) (bs : List Byte) (psn : Nat) : Memory :=
  (List.range ((bs.length + 63) / 64)).foldl (fun m i =>
    m.store (pa + 64 * i) ((bs.drop (64 * i)).take 64) (psn.testBit i)) m

/-- Write a run inside one frame of a Gallery; none where the frame refuses it. -/
def virtWrite (s : State) (g : Gal) (va : Nat) (bs : List Byte) (psn : Nat) : Option State :=
  match translate s g va true with
  | .ok pa => some { s with mem := storeLines s.mem pa bs psn }
  | _ => none

/-- Shard size S, mirror source and receive area, the W ring neighbours (R328). -/
def shardSize (s : State) (g : Gal) : Nat := fget s (colGal g.val 0x30) 39 17 * 131072
def mirrorSrc (s : State) (g : Gal) : Nat := fget s (colGal g.val 0x38) 47 0
def mirrorRx (s : State) (g : Gal) : Nat := fget s (colGal g.val 0x40) 47 0
def wPlus (s : State) (g : Gal) : Nat := member s g 3 ((ringCoord s g 3 + 1) % galRing s g 3)
def wMinus (s : State) (g : Gal) : Nat := member s g 3 ((ringCoord s g 3 + galRing s g 3 - 1) % galRing s g 3)

/-- The sender of a pass, or of a copy into a spare. -/
def txOf (s : State) (g : Gal) (spare : Bool) : MirrorTx := if spare then s.gal[g].mcp else s.gal[g].mtx
def modTx (s : State) (g : Gal) (spare : Bool) (f : MirrorTx → MirrorTx) : State :=
  modGal s g (fun x => if spare then { x with mcp := f x.mcp } else { x with mtx := f x.mtx })

/-- A clean outcome that waited for a pass takes effect (R327). -/
def cleanAfterPass (s : State) (g : Gal) : State :=
  if s.gal[g].stepSeal.cleanWait then
    sealDecide s g true 0 (some (rget s (colGal g.val 0x28)).toNat)
  else s

/-- The pass or copy fails: nothing is committed (R330). A failed copy into a spare ends its command with
BADSTATE and result 1 (log entry 7). -/
def mirrorFail (s : State) (g : Gal) (spare : Bool) : State :=
  let x := txOf s g spare
  let s := modTx s g spare (fun x => { x with running := false, unacked := [], commitSent := false })
  let s := note s { kind := 0x19, cls := 0, unit := 4, gal := some g }
  if spare then complete s .mgmt x.tag 0x34 .badState 1 0 0
  else cleanAfterPass (fbit s (colGal g.val 0x48) 2) g

/-- The pass or copy is committed. -/
def mirrorDone (s : State) (g : Gal) (spare : Bool) : State :=
  let x := txOf s g spare
  let s := modTx s g spare (fun x => { x with running := false, unacked := [], commitSent := false
                                              last := if spare then x.last else some x.half })
  if spare then complete s .mgmt x.tag 0x34 .ok 0 0 0
  else cleanAfterPass (fset s (colGal g.val 0x48) 63 32 x.step.toNat) g

/-- An access of the mirror waits on a migrating frame (R256): of a pass (16), of a copy (17), of a packet received
(18). -/
def mirrorStall (s : State) (g : Gal) (va q : Nat) (write : Bool) : State := addStall s (.slice 0) g va write false q

/-- Send the next packet of a pass, or its COMMIT, when none is unacknowledged. -/
def mirrorPump (s : State) (g : Gal) (spare : Bool) : State :=
  let x := txOf s g spare
  if !x.running || decide (x.unacked ≠ []) then s
  else
    let dst := if spare then wMinus s g else wPlus s g
    let hb := b1 x.half
    if x.next < x.size then
      let n := min 2048 (x.size - x.next)
      let src := (if spare then mirrorRx s g + hb * x.size else mirrorSrc s g) + x.next
      match virtRead s g src n with
      | none => if translate s g src false = .migrating then mirrorStall s g src (16 + b1 spare) false else mirrorFail s g spare
      | some (bs, psn) =>
        let p := mkPacket s g 5 dst x.step.toNat (mkWord [(62, hb), (0, x.next)]) bs psn
        inject (modTx s g spare (fun y => { y with next := y.next + n, unacked := [⟨p, 0⟩] })) p
    else if x.commitSent then mirrorDone s g spare
    else
      let p := mkPacket s g 5 dst x.step.toNat (mkWord [(63, 1), (62, hb), (0, x.size)]) [] 0
      inject (modTx s g spare (fun y => { y with commitSent := true, unacked := [⟨p, 0⟩] })) p

/-- A pass starts when the step counter reaches a multiple of EVERY with mirroring enabled (R329). -/
def mirrorStart (s : State) (g : Gal) (step : Nat) : State :=
  let ctl := colGal g.val 0x30
  let every := fget s ctl 7 0
  let x := s.gal[g].mtx
  if bit (rget s ctl) 63 && decide (2 ≤ galRing s g 3) && decide (step % every = 0) && !x.running then
    mirrorPump (modTx s g false (fun y =>
      { y with running := true, step := BitVec.ofNat 32 step, half := !(y.last.getD true)
               next := 0, size := shardSize s g, unacked := [], commitSent := false })) g false
  else s

/-- MIRROR_ACCEPT ends with MIRROR_LOST and a KIND 0x19 record (R400). -/
def mirrorLost (s : State) (g : Gal) : State :=
  match s.gal[g].mrx.accept with
  | none => s
  | some (tag, _, _) =>
    let s := modGal s g (fun x => { x with mrx := { x.mrx with accept := none } })
    complete (note s { kind := 0x19, cls := 0, unit := 4, gal := some g }) .mgmt tag 0x35 .badState 1 0 0

/-- The sender's partner is lost: a running pass fails; a copy expected from it is lost. -/
def mirrorPeerLost (s : State) (g : Gal) (lost : Nat) : State :=
  let s := if s.gal[g].mtx.running && decide (lost = wPlus s g) then mirrorFail s g false else s
  let s := if s.gal[g].mcp.running && decide (lost = wMinus s g) then mirrorFail s g true else s
  if lost = wPlus s g then mirrorLost s g else s

/-- Is a packet part of a copy that MIRROR_ACCEPT waits for? -/
def isCopy (s : State) (g : Gal) (p : Packet) : Bool :=
  match s.gal[g].mrx.accept with
  | some (_, step, _) => decide (p.src = wPlus s g ∧ p.type0 = step.toNat)
  | none => false

/-- MIRROR_ACK echoes the packet with FAIL (Table 10-7). -/
def mirrorAck (s : State) (g : Gal) (p : Packet) (fail : Bool) : State :=
  inject s (mkPacket s g 6 p.src p.type0 (if fail then p.w3 ||| (1 <<< 61) else p.w3) [] 0)

/-- The step held in a half replaced. -/
def setHalf (s : State) (g : Gal) (half : Bool) (v : Option (BitVec 32)) : State :=
  modGal s g (fun x => { x with mrx := if half then { x.mrx with half1 := v } else { x.mrx with half0 := v } })

/-- A COMMIT received: a copy is taken as whole, or the half becomes the committed mirror. -/
def mirrorCommit (s : State) (g : Gal) (p : Packet) : State :=
  if isCopy s g p then
    match s.gal[g].mrx.accept with
    | some (tag, step, _) =>
      let s := modGal s g (fun x => { x with mrx := { x.mrx with accept := none } })
      complete s .mgmt tag 0x35 .ok (step.setWidth 64) 0 0
    | none => s
  else
    let half := bit p.w3 62
    let s := setHalf s g half (some (BitVec.ofNat 32 p.type0))
    rset s (colGal g.val 0x50) (mkWord [(32, p.type0), (1, b1 half), (0, 1)])

/-- Where a packet's data goes: into the shard of a copy, or into its half; none where it does not lie in the shard. -/
def mirrorDest (s : State) (g : Gal) (p : Packet) : Option Nat :=
  let off := bits p.w3 47 0
  let size := shardSize s g
  if size < off + p.payload.length ∨ size ≤ off ∨ off % 64 ≠ 0 then none
  else if isCopy s g p then some (mirrorSrc s g + off)
  else some (mirrorRx s g + b1 (bit p.w3 62) * size + off)

/-- Data received: written where it belongs; none where it is refused. -/
def mirrorData (s : State) (g : Gal) (p : Packet) : Option State :=
  match mirrorDest s g p with
  | none => none
  | some va =>
    if isCopy s g p then
      let t := now s
      virtWrite (modGal s g (fun x =>
        { x with mrx := { x.mrx with accept := x.mrx.accept.map (fun a => (a.1, a.2.1, t)) } })) g va p.payload p.poison
    else virtWrite (setHalf s g (bit p.w3 62) none) g va p.payload p.poison

/-- One packet received: write or commit, and answer with MIRROR_ACK (R329, R399). -/
def mirrorTake (s : State) (g : Gal) (p : Packet) : State :=
  if bit p.w3 63 then mirrorAck (mirrorCommit s g p) g p false
  else
    match mirrorData s g p with
    | some t => mirrorAck t g p false
    | none => mirrorAck s g p true

/-- Does a packet's data wait on a migrating frame? -/
def mirrorWaits (s : State) (g : Gal) (p : Packet) : Option Nat :=
  if bit p.w3 63 then none
  else (mirrorDest s g p).filter (fun va => decide (translate s g va true = .migrating))

/-- Take packets in order until one waits on a migrating frame. -/
def mirrorDrain (s : State) (g : Gal) : List Packet → State
  | [] => modGal s g (fun x => { x with mrx := { x.mrx with waiting := [] } })
  | p :: l =>
    match mirrorWaits s g p with
    | none => mirrorDrain (mirrorTake s g p) g l
    | some va => mirrorStall (modGal s g (fun x => { x with mrx := { x.mrx with waiting := p :: l } })) g va 18 true

/-- MIRROR_WRITE_RECEIVE: taken after those that wait. -/
def execMirrorWriteReceive (p : PortId) (pkt : Packet) (s : State) : Outc :=
  let s := dropInbox s p pkt
  let g := pkt.gallery
  .next (if !isOpen s g then s else mirrorDrain s g (s.gal[g].mrx.waiting ++ [pkt]))

/-- The mirror access with a stall's number goes on, or has waited 200 µs and fails (R256, R329). -/
def mirrorRetry (s : State) (g : Gal) (q : Nat) : State :=
  if q = 18 then mirrorDrain s g s.gal[g].mrx.waiting else mirrorPump s g (decide (q = 17))
def mirrorTimeout (s : State) (g : Gal) (q : Nat) : State :=
  if q = 18 then
    match s.gal[g].mrx.waiting with
    | [] => s
    | p :: l => mirrorDrain (mirrorAck s g p true) g l
  else if (txOf s g (decide (q = 17))).running then mirrorFail s g (decide (q = 17)) else s

/-- Does an acknowledgement answer the packet that a sender keeps? -/
def mirrorAcked (x : MirrorTx) (pkt : Packet) : Bool :=
  x.running && x.unacked.any (fun u => decide (u.pkt.type0 = pkt.type0 ∧ u.pkt.w3 = pkt.w3 &&& ~~~((1 : Word) <<< 61)))

/-- MIRROR_ACK_RECEIVE: the packet is acknowledged, the next one or COMMIT goes out, or the pass fails (R329, R330). -/
def execMirrorAckReceive (p : PortId) (pkt : Packet) (s : State) : Outc :=
  let s := dropInbox s p pkt
  let g := pkt.gallery
  let sp := !mirrorAcked s.gal[g].mtx pkt
  .next (if mirrorAcked (txOf s g sp) pkt then
      if bit pkt.w3 61 then mirrorFail s g sp
      else mirrorPump (modTx s g sp (fun y => { y with unacked := [] })) g sp
    else s)

end Sys2Proof.Machine
end

