-- ==== Sys2Proof/Machine/Collective.lean ====
section
/-! DEFINITION. The Collective Engine: acceptance, OPSEQ and READY, the ring tasks, packets and their
acknowledgements, loss, kills and translation faults (R101 to R103, R306 to R324). -/

namespace Sys2Proof.Machine

/-! ### Operations of a queue -/

/-- Change the operation with number `num` of a queue. -/
def modOp (s : State) (g : Gal) (q : Fin 16) (num : Nat) (f : CollOp → CollOp) : State :=
  let x := s.gal[g].cq[q]
  setCq s g q { x with ops := x.ops.map (fun o => if o.num = num then f o else o) }

/-- The operation with a number, where the queue still holds it. -/
def opOf (s : State) (g : Gal) (q : Fin 16) (num : Nat) : Option CollOp :=
  s.gal[g].cq[q].ops.find? (fun o => decide (o.num = num))

/-- The operation with an axis and OPSEQ. -/
def opSeq (s : State) (g : Gal) (q : Fin 16) (axis opseq : Nat) : Option CollOp :=
  s.gal[g].cq[q].ops.find? (fun o => decide (o.fn.axis.val = axis ∧ o.opseq.toNat = opseq))

/-- The slice that serves a queue (R306). -/
def sliceOf (q : Fin 16) : Fin 4 := Fin.ofNat 4 q.val

/-- An operation ends with a status that the ring is told (R311, R319, R320). -/
def collFail (s : State) (g : Gal) (q : Fin 16) (o : CollOp) (st : Nat) : State :=
  collEnd (abortOp s g q.val o st) g q o st

/-! ### Packets (Table 10-7) -/

/-- The COLL_DATA packets of a chunk: one, or two of at most 2,048 bytes. -/
def dataPackets (s : State) (g : Gal) (q : Fin 16) (o : CollOp) (ch : Chunk) (to_ step phase pfmt : Nat)
    (bs : List Byte) (psn : Bool) : List Packet :=
  let mk (part : Nat) (body : List Byte) (count : Nat) : Packet :=
    mkPacket s g 0x01 (member s g o.fn.axis.val to_)
      (o.opseq.toNat * 65536 + q.val * 4096 + phase * 1024 + b1 (ch.minus || o.minus) * 512 + part * 256 + pfmt * 32 + step)
      (mkWord [(32, ch.idx), (24, ch.seg), (11, o.fn.axis.val), (0, count)]) body
      (if psn then 2 ^ cdiv body.length 64 - 1 else 0)
  if bs.length ≤ 2112 then [mk 0 bs ch.cnt]
  else [mk 0 (bs.take 2048) 512, mk 1 (bs.drop 2048) (ch.cnt - 512)]

/-- Send packets, kept until acknowledged; `c` is the encoding that the first one's port owes. -/
def sendNoted (s : State) (g : Gal) (q : Fin 16) (num : Nat) (ps : List Packet) (c : Option CodecNote) : State :=
  ps.foldl (fun s p => injectNoted (modOp s g q num (fun o => { o with unacked := o.unacked ++ [⟨p, 0⟩] })) p c) s
def sendData (s : State) (g : Gal) (q : Fin 16) (num : Nat) (ps : List Packet) : State := sendNoted s g q num ps none

/-- Fields of a COLL_DATA packet. -/
def dOpseq (p : Packet) : Nat := p.type0 / 65536
def dQueue (p : Packet) : Fin 16 := f4 (p.type0 / 4096 % 16)
def dPhase (p : Packet) : Nat := p.type0 / 1024 % 4
def dPart (p : Packet) : Nat := p.type0 / 256 % 2
def dStep (p : Packet) : Nat := p.type0 % 32
def dChunk (p : Packet) : Nat := bits p.w3 63 32
def dSeg (p : Packet) : Nat := bits p.w3 31 24
def dAxis (p : Packet) : Nat := bits p.w3 12 11

/-- The received flag of a packet. -/
def recvKey (p : Packet) : List Nat := [p.src, dPhase p, dStep p, dSeg p, dChunk p, dPart p]

/-- COLL_ACK echoes the packet, with LEN 0. -/
def ackData (s : State) (g : Gal) (p : Packet) : State := inject s (mkPacket s g 0x03 p.src p.type0 p.w3 [] 0)

/-- The packets of a task that have arrived, all parts of the chunk; none while a part is missing. -/
def arrived (s : State) (g : Gal) (o : CollOp) (t : Task) : Option (List (PortId × Packet)) :=
  let src := member s g o.fn.axis.val t.peer
  let ps := o.early.filter (fun e => decide (e.2.src = src ∧ dPhase e.2 = t.phase ∧ dStep e.2 = t.step
    ∧ dSeg e.2 = t.ch.seg ∧ dChunk e.2 = t.ch.idx))
  let size := pfmtBytes (o.pfmt t.phase) t.ch.cnt
  let parts := if size ≤ 2112 then [0] else [0, 1]
  let l := parts.filterMap (fun k => ps.find? (fun e => decide (dPart e.2 = k)))
  if l.length = parts.length then some l else none

/-- The payload of arrived packets, cut to the chunk's size, and whether a line of it is poisoned. -/
def payloadOf (o : CollOp) (t : Task) (ps : List (PortId × Packet)) : List Byte × Bool :=
  ((ps.flatMap (fun e => if ps.length = 2 ∧ dPart e.2 = 0 then e.2.payload.take 2048 else e.2.payload)).take
    (pfmtBytes (o.pfmt t.phase) t.ch.cnt), ps.any (fun e => decide (e.2.poison ≠ 0)))

/-- The packets are used: flags set, acknowledged (R319). -/
def usePackets (s : State) (g : Gal) (q : Fin 16) (num : Nat) (ps : List (PortId × Packet)) : State :=
  ps.foldl (fun s e =>
    ackData (modOp s g q num (fun o =>
      { o with recv := o.recv ++ [recvKey e.2], early := o.early.filter (fun x => decide (x ≠ e)) })) g e.2) s

/-! ### NaN events, poison, Codec counters -/

/-- A packet leaves on a port whose Codec has encoded it: the encoding is counted there, and its NaN event is raised
with that PORT (R316). -/
def codecSend (s : State) (port : Nat) (c : CodecNote) : State :=
  let s := fincr (fincr s (lnkReg port 0x50) 31 0 c.flush) (lnkReg port 0x50) 63 32 c.nanBlk
  match lowestEvent c.events with
  | none => s
  | some (j, k) => nanMeet s c.gal c.core 5 5 k 0 port j c.chunk c.pc

/-- A NaN event of the Collective Engine (unit 4) or a Codec (unit 5) at a port. -/
def collNan (s : State) (g : Gal) (o : CollOp) (unit step port : Nat) (ch : Chunk) (evs : List (Nat × Nat)) : State :=
  match lowestEvent evs with
  | none => s
  | some (j, c) => nanMeet s g o.core unit 5 c step port j ch.idx o.pc

/-- Poison sent or written: the record's POISON and the Step Seal's report (R324). -/
def collPoison (s : State) (g : Gal) (q : Fin 16) (num : Nat) (psn : Bool) : State :=
  if psn then sealMark (modOp s g q num (fun o => { o with poisoned := true })) g rsnPoison none else s

/-- LNK_CODEC of the encoding port (Table 9-12). -/
def codecCount (s : State) (port : Nat) (e : Enc) : State :=
  if 12 ≤ port then s
  else fincr (fincr s (lnkReg port 0x50) 31 0 e.flush) (lnkReg port 0x50) 63 32 e.nanBlk

/-- Does a NaN event of an operation belong to a Codec? -/
def CollOp.unit (o : CollOp) : Nat := if o.fn.codec then 5 else 4

/-! ### Translation of a task (R320) -/

/-- The access that stalls, or ends, a task. -/
def taskBad (s : State) (g : Gal) (o : CollOp) (t : Task) (reads writes : Bool) : Option (Xlate × Nat × Bool) :=
  (if reads then collBad s g o.cluster false (o.src.units (o.srcAt t) t.ch.cnt) else none)
  <|> (if writes then collBad s g o.cluster true (o.dst.units (o.dstAt t) t.ch.cnt) else none)

/-- COL_SLICE_FAULT shows the first stalled operation of a slice. -/
def showStall (s : State) (i : Fin 4) : State :=
  match s.slices[i] with
  | [] => s
  | k :: _ =>
    rset s (colSlice i.val 8) (mkWord [(63, b1 k.write), (60, k.gal.val), (56, k.q.val), (52, k.cls), (0, k.addr % 2 ^ 48)])

/-- The operation stalls on a translation fault: TFAULT, the register, and the queue's entry (Table 13-4). -/
def sliceFault (s : State) (g : Gal) (q : Fin 16) (o : CollOp) (cls a : Nat) (write : Bool) : State :=
  let i := sliceOf q
  let s := modOp s g q o.num (fun x => { x with stalled := true })
  let s := showStall { s with slices := s.slices.set i (s.slices[i] ++ [⟨g, q, cls, write, a⟩]) } i
  report s { kind := 3, cls := 0, unit := 4, gal := some g, core := some o.core
             d0 := mkWord [(0, cls), (8, 2), (16, q.val)], d1 := BitVec.ofNat 64 a, d2 := o.pc }

/-- FMAP_UE of a slice's access: the error escalates (R255, R320). -/
def fmapLost (s : State) (g : Gal) (q : Fin 16) (o : CollOp) (a : Nat) : State :=
  let e : Err := { kind := 3, cls := 0, unit := 4, gal := some g, core := some o.core
                   d0 := mkWord [(0, 4), (8, 2), (16, q.val)], d1 := BitVec.ofNat 64 a, d2 := o.pc }
  report s (e.ofWalk 4)

/-- A failing access of a task (R320). -/
def taskStop (s : State) (g : Gal) (q : Fin 16) (o : CollOp) (x : Xlate × Nat × Bool) : State :=
  match x with
  | (.readOnly, _, _) => collFail s g q o stPermission
  | (.fmapUe, a, _) => fmapLost (collFail s g q o stTranslation) g q o a
  | (.migrating, a, w) => addStall s (.slice (sliceOf q)) g a w false q.val
  | (_, a, w) => sliceFault s g q o 1 a w

/-! ### Tasks -/

/-- The task is done. -/
def taskDone (s : State) (g : Gal) (q : Fin 16) (num i : Nat) : State :=
  modOp s g q num (fun o => { o with done := o.done ++ [i] })

/-- Packets passed on: kept until the member's READY has arrived. -/
def passOn (s : State) (g : Gal) (q : Fin 16) (o : CollOp) (t : Task) (phase : Nat) (bs : List Byte) (psn : Bool) : State :=
  match t.fwd with
  | none => s
  | some (k, step) =>
    let ps := dataPackets s g q o t.ch k step phase (o.pfmt phase) bs psn
    modOp s g q o.num (fun x => { x with held := x.held ++ ps.map (fun p => (k, p)) })

/-- The payload written at the destination: bytes unchanged, or SF16 decoded into an FP32 tensor (R316). -/
def writePayload (s : State) (g : Gal) (o : CollOp) (t : Task) (port : Nat) (bs : List Byte) (psn : Bool) : State :=
  if o.isReduce && o.fn.codec && decide (o.dst.format = .f32) then
    let v := sfDecodeAll bs t.ch.cnt
    collNan (writeChunk s g o.cluster o.dst (o.dstAt t) t.ch.cnt (packUnits 32 v.codes) psn) g o 5 t.step port t.ch v.events
  else writeChunk s g o.cluster o.dst (o.dstAt t) t.ch.cnt bs psn

/-- The home member's contribution goes out once the next member is ready (R313, R316). -/
def doContrib (s : State) (g : Gal) (q : Fin 16) (o : CollOp) (i : Nat) (t : Task) : State :=
  if !o.ready.contains t.peer then s
  else
    match taskBad s g o t true false with
    | some x => taskStop s g q o x
    | none =>
      let (v, psn) := contribution s g o t
      let e := sfEncode v.codes
      let bs := if o.fn.codec then e.bytes else packUnits 32 v.codes
      let c : Option CodecNote := if o.fn.codec then
          some { gal := g, core := o.core, pc := o.pc, chunk := t.ch.idx, flush := e.flush, nanBlk := e.nanBlk
                 events := v.events ++ e.events } else none
      let s := collPoison s g q o.num psn
      taskDone (sendNoted s g q o.num (dataPackets s g q o t.ch t.peer 1 0 (o.pfmt 0) bs psn) c) g q o.num i

/-- A reduce step: combine, then pass on; the last step completes the values (R313, R316). -/
def doCombine (s : State) (g : Gal) (q : Fin 16) (o : CollOp) (i : Nat) (t : Task) : State :=
  match arrived s g o t with
  | none => s
  | some ps =>
    let last := decide (t.step + 1 = o.lr)
    let writes := last && decide (o.kind = .allreduce)
    match taskBad s g o t true writes with
    | some x => taskStop s g q o x
    | none =>
      let port := (ps.head?.map (fun e => e.1.val)).getD 0xF
      let (bs, p1) := payloadOf o t ps
      let inn : Vals := if o.fn.codec then sfDecodeAll bs t.ch.cnt else ⟨codesOf t.ch.cnt bs, []⟩
      let (own, p2) := contribution s g o t
      let r := combineAll o.fn.op o.int inn.codes own.codes
      let psn := p1 || p2
      let e := sfEncode r.codes
      let out := if o.fn.codec then e.bytes else if last then finalBytes o r.codes else packUnits 32 r.codes
      let evs := inn.events ++ own.events ++ r.events ++ (if o.fn.codec then e.events else [])
      let s := if o.fn.codec then codecCount s port e else s
      let s := collNan s g o o.unit t.step (if o.fn.codec then port else 0xF) t.ch evs
      let s := if writes then writePayload s g o t port out psn else s
      let s := passOn s g q o t (b1 last) out psn
      taskDone (usePackets (collPoison s g q o.num psn) g q o.num ps) g q o.num i

/-- What arrives is written and passed on unchanged (R314). -/
def doTake (s : State) (g : Gal) (q : Fin 16) (o : CollOp) (i : Nat) (t : Task) : State :=
  match arrived s g o t with
  | none => s
  | some ps =>
    match taskBad s g o t false true with
    | some x => taskStop s g q o x
    | none =>
      let port := (ps.head?.map (fun e => e.1.val)).getD 0xF
      let (bs, psn) := payloadOf o t ps
      let s := writePayload s g o t port bs psn
      let s := passOn s g q o t t.phase bs psn
      taskDone (usePackets (collPoison s g q o.num psn) g q o.num ps) g q o.num i

/-- A direct send (R313). -/
def doPush (s : State) (g : Gal) (q : Fin 16) (o : CollOp) (i : Nat) (t : Task) : State :=
  if !o.ready.contains t.peer then s
  else
    match taskBad s g o t true false with
    | some x => taskStop s g q o x
    | none =>
      let (bs, psn) := readChunk s g o.cluster o.src (o.srcAt t) t.ch.cnt
      let s := collPoison s g q o.num psn
      taskDone (sendData s g q o.num (dataPackets s g q o t.ch t.peer t.step 2 (o.pfmt 2) bs psn)) g q o.num i

/-- The converted bytes of a reduction alone on its ring (R310), and the events met. -/
def aloneBytes (s : State) (g : Gal) (o : CollOp) (t : Task) (bs : List Byte) : List Byte × List (Nat × Nat) :=
  if o.src.format = o.dst.format then (bs, [])
  else
    let (v, _) := contribution s g o t
    if o.fn.codec then
      if o.dst.format = .sf16 then ((sfEncode v.codes).bytes, v.events ++ (sfEncode v.codes).events)
      else (packUnits 32 v.codes, v.events)
    else
      (finalBytes o v.codes, ((List.range v.codes.length).zip v.codes).filterMap (fun p =>
        if isNanV (val32 p.2) then some (p.1, 1) else none))

/-- The member's own data goes to its own destination, and on to the ring. -/
def doCopy (s : State) (g : Gal) (q : Fin 16) (o : CollOp) (i : Nat) (t : Task) : State :=
  match taskBad s g o t true true with
  | some x => taskStop s g q o x
  | none =>
    let (bs, psn) := readChunk s g o.cluster o.src (o.srcAt t) t.ch.cnt
    let (out, evs) := if o.isReduce then aloneBytes s g o t bs else (bs, [])
    let s := collNan s g o o.unit 0 0xF t.ch evs
    let s := writeChunk s g o.cluster o.dst (o.dstAt t) t.ch.cnt out psn
    let s := passOn s g q o t t.phase out psn
    taskDone (collPoison s g q o.num psn) g q o.num i

/-- Attempt one task of an operation that runs and has not done it. -/
def attempt (g : Gal) (q : Fin 16) (num : Nat) (s : State) (it : Nat × Task) : State :=
  match opOf s g q num with
  | none => s
  | some o =>
    if o.stalled || o.done.contains it.1 then s
    else
      match it.2.kind with
      | .contrib => doContrib s g q o it.1 it.2
      | .combine => doCombine s g q o it.1 it.2
      | .take => doTake s g q o it.1 it.2
      | .push => doPush s g q o it.1 it.2
      | .copy => doCopy s g q o it.1 it.2

/-- Send the held packets whose member is ready. -/
def flushHeld (s : State) (g : Gal) (q : Fin 16) (num : Nat) : State :=
  match opOf s g q num with
  | none => s
  | some o =>
    let go := o.held.filter (fun h => o.ready.contains h.1)
    let s := modOp s g q num (fun x => { x with held := x.held.filter (fun h => !x.ready.contains h.1) })
    sendData s g q num (go.map Prod.snd)

/-- Run the operation at the head of a queue as far as it goes. -/
def runHead (s : State) (g : Gal) (q : Fin 16) (o : CollOp) : State :=
  let s := modOp s g q o.num (fun x => { x with started := true })
  let ts := o.tasks
  flushHeld (((List.range ts.length).zip ts).foldl (attempt g q o.num) s) g q o.num

/-- Run a queue: where its head ends, the next operation starts (R306). -/
def pump : Nat → State → Gal → Fin 16 → State
  | 0, s, _, _ => s
  | fuel + 1, s, g, q =>
    match s.gal[g].cq[q].ops.head? with
    | none => s
    | some o =>
      let s := runHead s g q o
      if (opOf s g q o.num).isSome then s else pump fuel s g q

/-- At most 32 operations stand in a queue. -/
def pumpQ (s : State) (g : Gal) (q : Fin 16) : State := pump 33 s g q

/-- Is everything written, sent and acknowledged (R319)? -/
def opFinished (o : CollOp) : Bool :=
  o.started && !o.stalled && decide (o.held = [] ∧ o.unacked = [])
  && (List.range o.tasks.length).all (fun i => o.done.contains i)
  && (decide (o.kind ≠ .barrier) || o.senders.all (fun k => o.ready.contains k))

/-! ### Acceptance (R101 to R103, R308 to R311, R315, R316, R318) -/

/-- The checks of one operand (R308). -/
def collChecks (reg : Nat) (d : BitVec 256) : List (Nat × Nat) :=
  let t := tileOf d
  ((basicChecks t true inVirtOrReserve)
    ++ (if t.layout ≠ 0 ∨ (t.format = Fmt.sf16 ∧ ¬(t.n1 = 1 ∧ t.n2 = 1 ∧ t.n3 = 1 ∧ t.n0 % 1024 = 0)) then [5] else [])
    ++ (if t.mx then [6] else [])
    ++ (if 2 ^ 32 ≤ t.count then [7] else [])).map (fun c => (c, reg))

/-- The format pairs of Table 10-2. -/
def collPair (reduce : Bool) (fn : ColFn) (a b : Fmt) : Bool :=
  let fp (f : Fmt) : Bool := decide (f = .f32 ∨ f = .bf16 ∨ f = .f16)
  let sf (f : Fmt) : Bool := decide (f = .f32 ∨ f = .sf16)
  if reduce then
    if fn.codec then decide (fn.op = .sum) && sf a && sf b
    else (fp a && fp b) || decide (a = .i32 ∧ b = .i32)
  else decide (a = b ∧ a ≠ .e8m0)

/-- Equal shares of `n` elements over `lr` ranks, rounded down to multiples of `u` (R102, R316, R318). -/
def shares (n lr u : Nat) : List Nat :=
  let k := n / lr / u * u
  List.replicate (lr - 1) k ++ [n - k * (lr - 1)]

/-- What the read of a count vector gives. -/
inductive Counts where
  | ok (l : List Nat)
  | bad
  | fault (x : Exc)
  | stall (a : Nat)

/-- The count vector at an address (R102, R103). -/
def readCounts (s : State) (g : Gal) (cl a lr : Nat) : Counts :=
  if a % 4 ≠ 0 ∨ inVirtOrReserve a (a + 4 * lr - 1) = false then .bad
  else
    let bs := (List.range lr).map (fun i => a + 4 * i)
    -- The translation of every word comes before the poison of any (R116).
    match bs.find? (fun b => !(collPlace s g cl b false).isOk) with
    | some b =>
      (match collPlace s g cl b false with
       | .migrating => .stall b
       | .fmapUe => .fault (excTranslation b 4)
       | _ => .fault (excTranslation b 1))
    | none =>
      match bs.find? (fun b => s.mem.isPoisoned (collAt s g cl b / 64)) with
      | some b => .fault (excPoison b)
      | none => .ok (bs.map (fun b => leNat (s.mem.bytes (collAt s g cl b) 4)))

/-- What an instruction names. -/
structure CollReq where
  kind : CollKind
  opc : Nat
  fn : ColFn
  fnWord : Nat
  minus : Bool := false
  ta : Option TReg := none
  tb : Option TReg := none
  sa : SReg := 0
  sb : SReg := 0
  tag : BitVec 24

/-- Is every n_j an even count? -/
def evens (l : List Nat) : Bool := l.all (fun x => decide (x % 2 = 0))

/-- The checks on counts and placement (R102, R315, R316, R318), with codes 0x7 and 0xE. -/
def countChecks (r : CollReq) (a b : Tile) (na nb c lr : Nat) (counts : List Nat) : List (Nat × Nat) :=
  let sum := counts.foldl (· + ·) 0
  let ra := (r.ta.map (fun x => x.val)).getD 0
  let rb := (r.tb.map (fun x => x.val)).getD 0
  let sf := (r.ta.isSome && decide (a.format = Fmt.sf16)) || (r.tb.isSome && decide (b.format = Fmt.sf16))
  let fp4 := if r.ta.isSome then decide (a.format = Fmt.e2m1) else r.tb.isSome && decide (b.format = Fmt.e2m1)
  let own := counts.getD c 0
  let red := decide (r.kind = .allreduce ∨ r.kind = .reducescatter)
  (if r.fn.ragged && (decide (((red = true ∨ r.kind = .alltoall) ∧ na < sum)
        ∨ ((r.kind = .allreduce ∨ r.kind = .allgather) ∧ nb < sum))
      || (sf && counts.any (fun x => decide (x % 1024 ≠ 0)))) then [(0xE, 0)] else [])
  ++ (if (match r.kind with
        | .allreduce => decide (r.fn.ragged = false ∧ nb < na)
        | .reducescatter => decide (nb < own)
        | .allgather => decide (r.fn.ragged = false ∧ nb < lr * na)
        | .bcast => decide (nb < na)
        | .alltoall => decide (nb < lr * own)
        | _ => false) then [(7, rb)] else [])
  ++ (if r.kind = .allgather ∧ na < own then [(7, ra)] else [])
  ++ (if !red && fp4 && !evens counts then [(7, if r.ta.isSome then ra else rb)] else [])

/-- The check on N of a packed FP4 operand, which needs no count (R318). -/
def evenCheck (r : CollReq) (a b : Tile) (na nb : Nat) : List (Nat × Nat) :=
  let ra := (r.ta.map (fun x => x.val)).getD 0
  let rb := (r.tb.map (fun x => x.val)).getD 0
  let fp4 := if r.ta.isSome then decide (a.format = Fmt.e2m1) else r.tb.isSome && decide (b.format = Fmt.e2m1)
  if fp4 && decide (r.kind ≠ .allreduce ∧ r.kind ≠ .reducescatter ∧ (if r.ta.isSome then na else nb) % 2 ≠ 0) then
    [(7, if r.ta.isSome then ra else rb)] else []

/-- The counts n_j of an operation without RAGGED. -/
def plainCounts (r : CollReq) (a b : Tile) (na nb lr : Nat) : List Nat :=
  let u := if a.format = .sf16 ∨ b.format = .sf16 then 1024 else if a.format = .e2m1 then 2 else 1
  match r.kind with
  | .allreduce | .reducescatter | .alltoall => shares na lr u
  | .allgather => List.replicate lr na
  | .bcast | .send => [na]
  | .recv => [nb]
  | .barrier => []

/-- SIG of R311 over the parameter block of Table 10-3. -/
def sigOf (r : CollReq) (a b : Tile) (n root lr : Nat) (counts : List Nat) : BitVec 32 :=
  let fa := if r.ta.isSome then a.fmt else b.fmt
  let fb := if r.tb.isSome then b.fmt else a.fmt
  let fm := if r.kind = .barrier then 0 else fa + 16 * fb
  crc32 ([BitVec.ofNat 8 (if r.kind = .recv then 0xD5 else r.opc)] ++ leBytes 2 (r.fnWord % 256)
    ++ [BitVec.ofNat 8 fm] ++ leBytes 4 n ++ [BitVec.ofNat 8 root, BitVec.ofNat 8 lr] ++ List.replicate 6 0
    ++ (if r.fn.ragged then counts.flatMap (leBytes 4) else []))

/-- READY for an operation to every member that will send to it (R311). -/
def sendReady (s : State) (g : Gal) (q : Fin 16) (o : CollOp) : State :=
  o.senders.foldl (fun s k =>
    inject s (ctrlPacket s g (member s g o.fn.axis.val k) o.opseq.toNat q.val o.fn.axis.val 1
      (mkWord [(32, o.sig.toNat), (0, o.n)]) [])) s

/-- A READY applied to an accepted operation: a differing SIG ends it with MISMATCH. -/
def applyReady (s : State) (g : Gal) (q : Fin 16) (num from_ : Nat) (sig : BitVec 32) : State :=
  match opOf s g q num with
  | none => s
  | some o =>
    if sig = o.sig then
      modOp s g q num (fun x => { x with ready := if x.ready.contains from_ then x.ready else x.ready ++ [from_] })
    else collFail s g q o stMismatch

/-- The ring member of a source coordinate. -/
def memberOf (s : State) (g : Gal) (axis src : Nat) : Nat :=
  (nib src axis + ringLen s axis - origin s g axis) % ringLen s axis

/-- An operation accepted on a queue: its number, OPSEQ, READY packets, and the kept READYs matched. -/
def collAccept (s : State) (g : Gal) (q : Fin 16) (o : CollOp) : State :=
  let x := s.gal[g].cq[q]
  let ax := o.fn.axis
  let seq := x.opseq[ax]
  let o := { o with num := x.accepted + 1, opseq := seq }
  let kept := x.readys.filter (fun r => decide (r.1 = ax.val ∧ r.2.1 = seq))
  let s := setCq s g q { x with
    ops := x.ops ++ [o], accepted := x.accepted + 1, opseq := x.opseq.set ax (seq + 1)
    readys := x.readys.filter (fun r => decide (¬(r.1 = ax.val ∧ r.2.1 = seq))) }
  let s := sendReady s g q o
  let s := kept.foldl (fun s r => applyReady s g q o.num (memberOf s g ax.val r.2.2.1.toNat) r.2.2.2.1) s
  pumpQ s g q

/-- The descriptor of an operand the instruction names. -/
def reqDesc (n : CoreId) (s : State) : Option TReg → BitVec 256
  | some r => getT n r s
  | none => 0

/-- The cluster's Reserve logs a collective whose operand lies in it (R388). -/
def logColl (s : State) (n : CoreId) (i : Instr) (ds : List (BitVec 256)) : State :=
  let ds := ds.filter (fun w => decide (w ≠ 0))
  if ds.any (fun w => inReserve (tileOf w).range.1 (tileOf w).range.2) then logReserve s n i ds else s

/-- Acceptance of a collective instruction. -/
def acceptColl (h : Hart) (i : Instr) (qh : QReg) (r : CollReq) (err : SramErr) (s : State) : State :=
  issue h i 5 (ctxOnly h (fun n s =>
    match coreOwner s n with
    | none => .fault excQueue
    | some g =>
      match queueOf s g (coreAt s n).q[qh] with
      | .coll q =>
        if 32 ≤ s.gal[g].cq[q].ops.length then .hold s
        else
          let da := reqDesc n s r.ta
          let db := reqDesc n s r.tb
          let a := tileOf da
          let b := tileOf db
          let na := if r.ta.isSome then a.count else 0
          let nb := if r.tb.isSome then b.count else 0
          let ra := (r.ta.map (fun x => x.val)).getD 0
          let rb := (r.tb.map (fun x => x.val)).getD 0
          let lr := galRing s g r.fn.axis.val
          let c := ringCoord s g r.fn.axis.val
          let root := (getS h r.sb s).toNat
          let red := decide (r.kind = .allreduce ∨ r.kind = .reducescatter)
          let fa := if r.ta.isSome then a.format else b.format
          let fb := if r.tb.isSome then b.format else a.format
          let fails := (if r.ta.isSome then collChecks ra da else []) ++ (if r.tb.isSome then collChecks rb db else [])
            ++ (if r.kind = .barrier ∨ collPair red r.fn fa fb = true then []
              else (if r.ta.isSome then [(8, ra)] else []) ++ (if r.tb.isSome then [(8, rb)] else []))
            ++ (if r.kind = .bcast ∧ lr ≤ root then [(0xB, 0)] else []) ++ evenCheck r a b na nb
          let va := (getS h r.sa s).toNat
          let vec := if r.fn.ragged then readCounts s g (clusterOf n) va lr
            else .ok (plainCounts r a b na nb lr)
          match vec with
          | .bad => .fault ((descFault s (fails ++ [(0xE, 0)])).getD (excDescriptor 0 0xE))
          | .fault x => .fault ((descFault s fails).getD x)
          | .stall va =>
            match descFault s fails with
            | some x => .fault x
            | none => .hold (addStall s (.core n) g va false false 0)
          | .ok counts =>
            -- An error that the read of the counts meets in a line of the Reserve (R103).
            let met := r.fn.ragged && inReserve va (va + 4 * lr - 1) && decide (0 < lr)
            let t := if met then lineMet (logSram s n i va) n va err else s
            match descFault s (fails ++ countChecks r a b na nb c lr counts) with
            | some x => .fault x
            | none =>
              if met ∧ err = .ue then .stop (takeExc t n (excPoison va) 5 true (coreAt s n).pc (coreAt s n).pc)
              else
              let nn := if r.kind = .recv then nb else na
              .done (collAccept (logColl t n i [da, db]) g q
                { kind := r.kind, fn := r.fn, minus := r.minus, root := root, core := n, cluster := clusterOf n
                  pc := (coreAt s n).pc, ta := da, tb := db, counts := counts, n := nn, lr := lr, c := c
                  num := 0, opseq := 0, tag := r.tag
                  sig := sigOf r a b nn (if r.kind = .bcast then root else 0) lr counts })
      | _ => .fault excQueue)) s

/-- FN of an instruction that gives no OP and no CODEC. -/
def plainFn (axis : Axis) (bidir ragged : Bool) : ColFn := ⟨.sum, axis, false, bidir, ragged⟩

/-- callreduce: every member receives the reduction. -/
def execCallreduce (h : Hart) (qh : QReg) (tb ta : TReg) (fn : ColFn) (sa : SReg) (tag : BitVec 24) (s : State) (err : SramErr := .none) : Outc :=
  .next (acceptColl h (.callreduce h qh tb ta fn sa tag err) qh
    { kind := .allreduce, opc := 0xD0, fn := fn, fnWord := colCode fn, ta := some ta, tb := some tb, sa := sa, tag := tag } err s)

/-- creducescatter: the member at ring coordinate c receives segment c. -/
def execCreducescatter (h : Hart) (qh : QReg) (tb ta : TReg) (fn : ColFn) (sa : SReg) (tag : BitVec 24) (s : State) (err : SramErr := .none) : Outc :=
  .next (acceptColl h (.creducescatter h qh tb ta fn sa tag err) qh
    { kind := .reducescatter, opc := 0xD1, fn := fn, fnWord := colCode fn, ta := some ta, tb := some tb, sa := sa
      tag := tag } err s)

/-- callgather: every member receives every member's data, in ring order. -/
def execCallgather (h : Hart) (qh : QReg) (tb ta : TReg) (axis : Axis) (bidir ragged : Bool) (sa : SReg)
    (tag : BitVec 24) (s : State) (err : SramErr := .none) : Outc :=
  let fn := plainFn axis bidir ragged
  .next (acceptColl h (.callgather h qh tb ta axis bidir ragged sa tag err) qh
    { kind := .allgather, opc := 0xD2, fn := fn, fnWord := colCode fn, ta := some ta, tb := some tb, sa := sa, tag := tag } err s)

/-- cbcast: the root's data goes to every member. -/
def execCbcast (h : Hart) (qh : QReg) (tb ta : TReg) (axis : Axis) (sb : SReg) (tag : BitVec 24) (s : State) : Outc :=
  let fn := plainFn axis false false
  .next (acceptColl h (.cbcast h qh tb ta axis sb tag) qh
    { kind := .bcast, opc := 0xD3, fn := fn, fnWord := colCode fn, ta := some ta, tb := some tb, sb := sb, tag := tag } .none s)

/-- calltoall: segment j of each member goes to member j. -/
def execCalltoall (h : Hart) (qh : QReg) (tb ta : TReg) (axis : Axis) (ragged : Bool) (sa : SReg) (tag : BitVec 24) (s : State)
    (err : SramErr := .none) : Outc :=
  let fn := plainFn axis false ragged
  .next (acceptColl h (.calltoall h qh tb ta axis ragged sa tag err) qh
    { kind := .alltoall, opc := 0xD4, fn := fn, fnWord := colCode fn, ta := some ta, tb := some tb, sa := sa, tag := tag } err s)

/-- csend: to the neighbour. -/
def execCsend (h : Hart) (qh : QReg) (ta : TReg) (axis : Axis) (minus : Bool) (tag : BitVec 24) (s : State) : Outc :=
  let fn := plainFn axis false false
  .next (acceptColl h (.csend h qh ta axis minus tag) qh
    { kind := .send, opc := 0xD5, fn := fn, fnWord := colCode fn, minus := minus, ta := some ta, tag := tag } .none s)

/-- crecv: from the neighbour. -/
def execCrecv (h : Hart) (qh : QReg) (tb : TReg) (axis : Axis) (minus : Bool) (tag : BitVec 24) (s : State) : Outc :=
  let fn := plainFn axis false false
  .next (acceptColl h (.crecv h qh tb axis minus tag) qh
    { kind := .recv, opc := 0xD5, fn := fn, fnWord := colCode fn, minus := minus, tb := some tb, tag := tag } .none s)

/-- cbarrier: completes when every member has issued it. -/
def execCbarrier (h : Hart) (qh : QReg) (axis : Axis) (tag : BitVec 24) (s : State) : Outc :=
  let fn := plainFn axis false false
  .next (acceptColl h (.cbarrier h qh axis tag) qh
    { kind := .barrier, opc := 0xD7, fn := fn, fnWord := colCode fn, tag := tag } .none s)

/-! ### Packets received (R311, R319, R321, R322) -/

/-- COL_DROP.UNMATCHED. -/
def unmatched (s : State) : State := fincr s (colDev 8) 31 0 1

/-- A slice's buffer meets an error as it takes a packet: counted and scored (R332, R402, KIND 0x07). -/
def sliceMet (s : State) (q : Fin 16) (err : SramErr) : State :=
  let i := sliceOf q
  match err with
  | .none => s
  | .ce => appraise (counted (fincr s (colSlice i.val 0x18) 31 0 1)) (0x120 + i.val) 1
  | .ue => appraise (fincr s (colSlice i.val 0x18) 63 32 1) (0x120 + i.val) 1024

/-- A packet whose data an uncorrectable error poisons: the POISON bits of every line that it carries (R332, Table 9-6). -/
def poisonPacket (p : Packet) : Packet := { p with w2 := setBits p.w2 32 0 (2 ^ ((p.payload.length + 63) / 64) - 1) }

/-- COLL_DATA_RECEIVE: a duplicate is acknowledged and counted, any other packet waits for its turn (R319). -/
def execCollDataReceive (p : PortId) (pkt : Packet) (s : State) (err : SliceErr := {}) : Outc :=
  let s := sliceMet (dropInbox s p pkt) (dQueue pkt) err.buf
  let pkt := if err.buf = .ue then poisonPacket pkt else pkt
  let g := pkt.gallery
  let q := dQueue pkt
  .next (match opSeq s g q (dAxis pkt) (dOpseq pkt) with
    | none => unmatched s
    | some o =>
      if o.recv.contains (recvKey pkt) then ackData (fincr s (colDev 8) 63 32 1) g pkt
      else if o.early.any (fun e => decide (recvKey e.2 = recvKey pkt)) then ackData (fincr s (colDev 8) 63 32 1) g pkt
      else
        -- The slice acts for no context: an error of the Reserve line that it reads charges every suspect (R389).
        let s := if eaReserve err.line.ea.toNat then unitMet s o.core err.line false else s
        pumpQ (modOp s g q o.num (fun x => { x with early := x.early ++ [(p, pkt)] })) g q)

/-- COLL_ACK_RECEIVE: the packet it echoes is no longer kept (R319). -/
def execCollAckReceive (p : PortId) (pkt : Packet) (s : State) : Outc :=
  let s := dropInbox s p pkt
  let g := pkt.gallery
  let q := dQueue pkt
  .next (match opSeq s g q (dAxis pkt) (dOpseq pkt) with
    | none => unmatched s
    | some o => modOp s g q o.num (fun x =>
        { x with unacked := x.unacked.filter (fun u =>
            decide (¬(u.pkt.type0 = pkt.type0 ∧ u.pkt.w3 = pkt.w3 ∧ u.pkt.dst = pkt.src))) }))

/-- Fields of a COLL_CTRL packet. -/
def cAxis (p : Packet) : Nat := p.type0 / 1024 % 4

/-- COLL_READY_RECEIVE: matched to its operation, or kept until the operation is issued (R311). -/
def execCollReadyReceive (p : PortId) (pkt : Packet) (s : State) : Outc :=
  let s := dropInbox s p pkt
  let g := pkt.gallery
  let q := dQueue pkt
  let ax : Axis := f2 (cAxis pkt)
  let seq := BitVec.ofNat 16 (dOpseq pkt)
  let sig := BitVec.ofNat 32 (bits pkt.w3 63 32)
  .next (match opSeq s g q ax.val seq.toNat with
    | some o => pumpQ (applyReady s g q o.num (memberOf s g ax.val pkt.src) sig) g q
    | none =>
      let x := s.gal[g].cq[q]
      -- A number this device has passed matches no operation any more.
      if !isOpen s g || decide ((seq - x.opseq[ax]).toNat ≥ 32768) then unmatched s
      else setCq s g q { x with
        readys := x.readys ++ [(ax.val, seq, BitVec.ofNat 16 pkt.src, sig, BitVec.ofNat 32 (bits pkt.w3 31 0))] })

/-- COLL_ABORT_RECEIVE: the operation ends with the status carried; KILLED is received as PEER_LOST (R321). A
MISMATCH from a member whose READY differed is answered with this member's own ABORT (R311). -/
def execCollAbortReceive (p : PortId) (pkt : Packet) (s : State) : Outc :=
  let s := dropInbox s p pkt
  let g := pkt.gallery
  let q := dQueue pkt
  let st := bits pkt.w3 6 0
  .next (match opSeq s g q (cAxis pkt) (dOpseq pkt) with
    | none => unmatched s
    | some o =>
      let s := if st = stMismatch ∧ o.senders.contains (memberOf s g (cAxis pkt) pkt.src) = true then
          abortOp s g q.val o stMismatch else s
      pumpQ (collEnd s g q o (if st = stKilled then stPeerLost else st)) g q)

/-- The neighbours that a LOSS notice goes to: ± on every axis of two members or more. -/
def lossTargets (s : State) (g : Gal) : List Nat :=
  ([0, 1, 2, 3].flatMap (fun a =>
    let l := galRing s g a
    let c := ringCoord s g a
    if l < 2 then [] else [member s g a (ringNext l c false), member s g a (ringNext l c true)])).eraseDups

/-- End with PEER_LOST every operation whose ring contains a device (R322). -/
def endLost (s : State) (g : Gal) (lost : Nat) : State :=
  allQueues.foldl (fun s q =>
    let s := (s.gal[g].cq[q].ops.filter (fun o => onRing s g o.fn.axis.val lost)).foldl
      (fun s o => collEnd s g q o stPeerLost) s
    pumpQ s g q) s

/-- A device is lost to Gallery `g` (R322): `port` detected it, or `via` sent the notice; a notice taken within
the last 1 ms is not repeated. -/
def peerLost (s : State) (g : Gal) (lost cause detect : Nat) (port via : Option Nat) : State :=
  let k := BitVec.ofNat 16 lost
  if s.gal[g].lossSeen.any (fun e => decide (e.1 = k ∧ now s < e.2 + 1000000)) then s
  else
    let t := now s
    let s := modGal s g (fun x => { x with lossSeen := x.lossSeen.filter (fun e => decide (e.1 ≠ k)) ++ [(k, t)] })
    let s := endLost s g lost
    let s := modSeal (sealMark s g rsnPeer none) g (fun x => { x with losses := x.losses ++ [(detect, t)] })
    let s := fset (fbit s (colGal g.val 0) 14) (colGal g.val 0) 47 32 lost
    let s := note s { kind := 0x13, cls := 2, unit := if port.isSome then 10 else 4, gal := some g
                      d0 := mkWord [(8, cause), (0, port.getD 0xF)], d1 := BitVec.ofNat 64 lost
                      d2 := BitVec.ofNat 64 detect }
    let s := mirrorPeerLost s g lost
    ((lossTargets s g).filter (fun d => decide (some d ≠ via))).foldl (fun s d =>
      inject s (ctrlPacket s g d 0 0 0 3 (mkWord [(16, cause), (0, lost)]) (leBytes 8 detect))) s

/-- COLL_LOSS_RECEIVE: a notice taken for the first time does what its origin did, and is passed on (R322). -/
def execCollLossReceive (p : PortId) (pkt : Packet) (s : State) : Outc :=
  let s := dropInbox s p pkt
  let g := pkt.gallery
  .next (if isOpen s g then
      peerLost s g (bits pkt.w3 15 0) (bits pkt.w3 23 16) (leNat (pkt.payload.take 8)) none (some pkt.src)
    else s)

/-! ### Retransmission, completion, slices and kills -/

/-- A packet sent again, under the present epoch. -/
def reinject (s : State) (p : Packet) : State :=
  inject s { p with w0 := setBits p.w0 43 40 (bits s.catActive.hdr0 3 0) }

/-- RETXLIM (Table 10-10). -/
def retxLim (s : State) : Nat := fget s (colDev 0) 23 16

/-- Does a kept packet have this destination and these fields? -/
def isKept (dst : BitVec 16) (type0 : BitVec 32) (type1 : Word) (u : Unacked) : Bool :=
  decide (u.pkt.dst = dst.toNat ∧ u.pkt.type0 = type0.toNat ∧ u.pkt.w3 = type1)

/-- One more retransmission counted for a kept packet. -/
def retried (dst : BitVec 16) (type0 : BitVec 32) (type1 : Word) (l : List Unacked) : List Unacked :=
  l.map (fun u => if isKept dst type0 type1 u then { u with tries := u.tries + 1 } else u)

/-- COLL_RETRANSMIT: RETX passes without an acknowledgement; the packet goes again, or after RETXLIM the
operation ends with DROPPED (R319). A mirror pass fails in the same way (R330). -/
def execCollRetransmit (g : Gal) (q : Fin 16) (dst : BitVec 16) (type0 : BitVec 32) (type1 : Word) (s : State) : Outc :=
  .next (match s.gal[g].cq[q].ops.find? (fun o => o.unacked.any (isKept dst type0 type1)) with
    | some o =>
      match o.unacked.find? (isKept dst type0 type1) with
      | none => s
      | some u =>
        if retxLim s ≤ u.tries then pumpQ (collFail s g q o stDropped) g q
        else reinject (modOp s g q o.num (fun x => { x with unacked := retried dst type0 type1 x.unacked })) u.pkt
    | none =>
      let sp := !s.gal[g].mtx.unacked.any (isKept dst type0 type1)
      match (txOf s g sp).unacked.find? (isKept dst type0 type1) with
      | none => s
      | some u =>
        if retxLim s ≤ u.tries then mirrorFail s g sp
        else reinject (modTx s g sp (fun x => { x with unacked := retried dst type0 type1 x.unacked })) u.pkt)

/-- COLL_OPERATION_COMPLETE: the head operation ends DONE, and the next one starts (R307, R319). -/
def execCollOperationComplete (g : Gal) (q : Fin 16) (s : State) : Outc :=
  .next (match s.gal[g].cq[q].ops.head? with
    | none => s
    | some o => if opFinished o then pumpQ (collEnd s g q o stDone) g q else pumpQ s g q)

/-- The first stall of a slice ends; the register shows the next one. -/
def popStall (s : State) (i : Fin 4) : State := showStall { s with slices := s.slices.set i (s.slices[i].drop 1) } i

/-- The head operation of a stalled queue. -/
def stalledOp (s : State) (k : SliceStall) : Option CollOp :=
  s.gal[k.gal].cq[k.q].ops.find? (fun o => o.stalled)

/-- COL_SLICE_RESUME: the stalled access is tried again (R320). -/
def execColSliceResume (i : Fin 4) (s : State) : Outc :=
  .next (match s.slices[i].head? with
    | none => fbit s (colSlice i.val 0) 15
    | some k =>
      match stalledOp s k with
      | none => popStall s i
      | some o => pumpQ (modOp (popStall s i) k.gal k.q o.num (fun x => { x with stalled := false })) k.gal k.q)

/-- COL_SLICE_FAIL: the stalled operation ends with FAILED_TRANSLATION (R320). -/
def execColSliceFail (i : Fin 4) (s : State) : Outc :=
  .next (match s.slices[i].head? with
    | none => fbit s (colSlice i.val 0) 15
    | some k =>
      match stalledOp s k with
      | none => popStall s i
      | some o => pumpQ (showStall (collFail s k.gal k.q o stTranslation) i) k.gal k.q)

/-- COL_QUEUE_KILL: the operations of the named queues end with KILLED (R323). -/
def execColQueueKill (g : Gal) (mask : BitVec 16) (s : State) : Outc := .next (killQueues s g mask.toNat)

/-- Queues with an operation running: QBUSY of a Gallery, ACTIVE of a slice (Table 10-10). -/
def queueBusy (s : State) (g : Gal) (q : Fin 16) : Bool :=
  match s.gal[g].cq[q].ops.head? with
  | some o => o.started
  | none => false
def qBusy (s : State) (g : Gal) : Nat := allQueues.foldl (fun a q => a + b1 (queueBusy s g q) * 2 ^ q.val) 0
def sliceActive (s : State) (i : Fin 4) : Nat :=
  (allGals.flatMap (fun g => allQueues.filter (fun q => decide (sliceOf q = i) && queueBusy s g q))).length

end Sys2Proof.Machine
end

