-- ==== Sys2Proof/Machine/Link.lean ====
section
/-! DEFINITION. Link ports: frames, retry, recovery, retraining, lanes, link states, identity and peer resets
(R269 to R283, R288 to R291, R305). -/

namespace Sys2Proof.Machine

/-! ### States (Table 9-4) -/

def lnkSt (p : PortId) : Nat := lnkReg p.val 0

/-- A port passes to a state, its REASON kept, and tells its partner (R282). -/
def setLink (s : State) (p : PortId) (st : Nat) : State :=
  peerState (tbPort (fset s (lnkSt p) 3 0 st) p st) p 0 false

/-- A refused write or command (R303). -/
def lnkBad (s : State) (p : PortId) : State := fbit s (lnkSt p) 16

/-- The record of a port's change: KIND 0x10, 0x11 or 0x12 (Table 13-4). -/
def portNote (s : State) (p : PortId) (kind cls : Nat) : State :=
  note s { kind := kind, cls := cls, unit := 10, d0 := BitVec.ofNat 64 p.val, d1 := rget s (lnkSt p)
           d2 := rget s (lnkReg p.val 0x18), d3 := rget s (lnkReg p.val 0x20) }

/-- The link layer of a port at its start; what the port keeps of lanes, partner and Timebase stays. Both ends begin with
U(v) = 0, so that what is still in the input buffer returns no credit (log entry 99). -/
def freshLink (x : Port) : Port :=
  { x with old := x.arrived ++ x.inbuf.map Prod.snd, reident := false
           txSeq := 0, retry := [], replay := [], group := [], groupCount := 0, txSlots := [], txRouted := false
           sentPkts := [], outq := [], used := Vector.replicate 13 0, rxSeq := 0, nak := false, ackOwed := 4095
           failedSeq := none, rxGroup := [], rxSlots := [], freed := Vector.replicate 13 0, nakTimes := [], mgmtDebt := 0 }

/-- Routed packets that a port holds or has sent without acknowledgement. -/
def heldPkts (x : Port) : Nat := x.outq.length + x.sentPkts.length + b1 (x.txRouted && decide (x.txSlots ≠ []))

/-- A packet leaves an input buffer: its slots are freed (R289). -/
def giveBack (s : State) (p : PortId) (vc : Fin 13) (k : Packet) : State :=
  modPort s p (fun x =>
    if x.old.contains k then { x with old := x.old.erase k }
    else { x with freed := x.freed.set vc (x.freed[vc] + pktSlots k) })

/-- Does a port leave ACTIVE, be it from a retrain that was to end there? -/
def wasActive (s : State) (p : PortId) : Bool :=
  decide (linkState s p = 5) || (decide (linkState s p = 8) && decide (s.ports[p].before = 5))

/-- No lane works any more: LANES and WIDTH read zero. -/
def noLanes (s : State) (p : PortId) : State := fset (fset s (lnkSt p) 63 48 0) (lnkSt p) 8 4 0

/-- A port that goes out of service drops its packets (R277); its next frame numbers go on. -/
def dropPackets (s : State) (p : PortId) : State :=
  let s := fincr s (lnkReg p.val 0x60) 31 0 (heldPkts s.ports[p])
  modPort s p (fun x => { x with outq := [], retry := [], replay := [], txSlots := [], txRouted := false, sentPkts := []
                                 mgmtq := [], used := Vector.replicate 13 0, rxSlots := [], failedSeq := none, rxGroup := [] })

/-- A port goes DOWN with a REASON; leaving ACTIVE is recorded. -/
def linkDown (s : State) (p : PortId) (reason : Nat) : State :=
  let act := wasActive s p
  let s := enterState (noLanes (dropPackets s p) p) p 0 reason
  if act then portNote s p 0x11 2 else s

/-- A port is RETIRED (R277, R305): it tells its partner and stops transmitting (R282). -/
def linkRetire (s : State) (p : PortId) : State :=
  let s := enterState (noLanes (dropPackets s p) p) p 0xA 7
  let s := modPort s p (fun x => { x with stopping := true })
  appraise (portNote s p 0x11 2) (0x100 + p.val) 65535

/-- A retrain begins: the port carries no frames and keeps its buffers (R276). -/
def startRetrain (s : State) (p : PortId) : State :=
  let st := linkState s p
  let s := appraise (setLink s p 8) (0x100 + p.val) 256
  modPort s p (fun x => { x with before := if st = 8 then x.before else st, nakTimes := [] })

/-! ### Lanes (R277) -/

/-- Lane groups in service that a set of failed lanes touches. -/
def failedGroups (lanes failed : BitVec 16) : List Nat :=
  (List.range 4).filter (fun g => decide ((lanes &&& failed).toNat / 16 ^ g % 16 ≠ 0))

/-- Lane groups in service. -/
def groupsOf (lanes : BitVec 16) : List Nat := (List.range 4).filter (fun g => decide (lanes.toNat / 16 ^ g % 16 ≠ 0))

/-- A failed retrain: the failed groups are dropped and the port retrains at the next width, or it is RETIRED.
Where a retrain counts as failed and no lane did, the group dropped is open. -/
def laneDegrade (s : State) (p : PortId) (failed : BitVec 16) : State :=
  let x := s.ports[p]
  let gs := failedGroups x.lanes failed
  let t := freeWord s
  let (gs, s) := if gs = [] then ((groupsOf x.lanes).drop (t.1.toNat % max 1 (groupsOf x.lanes).length) |>.take 1, t.2)
    else (gs, s)
  let left := (groupsOf x.lanes).filter (fun g => !gs.contains g)
  if left.length < 2 then linkRetire s p
  else
    let lanes := BitVec.ofNat 16 (left.foldl (fun a g => a + 15 * 16 ^ g) 0)
    let s := modPort s p (fun y => { y with lanes := lanes })
    let s := fset (fset s (lnkSt p) 63 48 lanes.toNat) (lnkSt p) 8 4 (4 * left.length)
    let s := appraise (fincr s (lnkReg p.val 0x38) 15 8 1) (0x100 + p.val) 4096
    startRetrain (portNote s p 0x10 0) p

/-- Retrains within RTWIN seconds, with this one. -/
def recentRetrains (s : State) (p : PortId) : List Nat :=
  (s.ports[p].retrainTimes ++ [now s]).filter (fun t => decide (now s < t + fget s (lnkReg p.val 0x10) 39 32 * 1000000000))

/-- LINK_LOCK_LOSS: codeword lock is lost for 1 µs while the partner still sends. -/
def execLinkLockLoss (p : PortId) (s : State) : Outc :=
  .next (if portWorks s p then startRetrain s p else s)

/-! ### Signal, training, light -/

/-- LINK_SIGNAL_DETECT: signal, and light on an optical port, on a port that is DOWN or in PEER_RESET: TRAIN. -/
def execLinkSignalDetect (p : PortId) (s : State) : Outc :=
  let s := if optical p then fset (fbit s (lnkReg p.val 0x68) 0) (lnkReg p.val 0x68) 1 1 0 else s
  .next (if linkState s p = 0 ∨ linkState s p = 9 then
      modPort (enterState s p 1 0) p (fun x => { freshLink x with nonceRx := none, ident := [], mgmtq := [], stopping := false })
    else s)

/-- LINK_TRAIN_RESULT: lock on every lane in service enters FRAME; otherwise training has failed. -/
def execLinkTrainResult (p : PortId) (locked : BitVec 16) (s : State) : Outc :=
  let ln := s.ports[p].lanes
  .next (if linkState s p = 1 then
      if ln &&& locked = ln then
        setLink (fset (fset s (lnkSt p) 63 48 ln.toNat) (lnkSt p) 8 4 (4 * (groupsOf ln).length)) p 2
      else enterState (noLanes s p) p 0 2
    else s)

/-- LIGHT_LOSS: light falls below an engine's working level; where it is lost in full, the port goes DOWN with NOLIGHT
(R270). -/
def execLightLoss (p : PortId) (s : State) (total : Bool := true) : Outc :=
  .next (if optical p then
      let s := fbit s (lnkReg p.val 0x68) 1
      if !total then s
      else
        let s := fset s (lnkReg p.val 0x68) 0 0 0
        if [0, 1, 2, 3, 4, 5, 6, 7, 8].contains (linkState s p) then linkDown s p 1 else s
    else s)

/-- The REASON of a port that stands DOWN: NOLIGHT while an optical port has no light (R270). -/
def downReason (s : State) (p : PortId) : Nat := b1 (optical p && !bit (rget s (lnkReg p.val 0x68)) 0)

/-! ### Identity (R280, R281, Table 9-5) -/

/-- The device's public keys and its signatures of a message, once Provenance holds the keys. -/
def identBytes (s : State) (p : PortId) : List Byte :=
  match s.prov.seeds with
  | none => []
  | some (e, m) =>
    let x := s.ports[p]
    let head := leBytes 2 1 ++ leBytes 2 p.val ++ leBytes 2 (vintage s)
      ++ leBytes 2 (if catValid s then coord s else 0xFFFF)
      ++ leBytes 2 (if catValid s then bits s.catActive.hdr0 15 0 else 0) ++ leBytes 6 0
      ++ allGals.flatMap (fun g => leBytes 2 (if galValid s g then bits s.catActive.gal[g] 15 0 else 0))
      ++ leBytes 16 (x.nonceRx.getD 0).toNat ++ leBytes 16 x.nonceTx.toNat
      ++ Config.ed25519Public e ++ Config.mldsaPublic m
    let msg := head.take 2048
    msg ++ Config.ed25519Sign e msg ++ Config.mldsaSign m msg ++ List.replicate 19 0

/-- KEYID of the public keys of a block (R280). -/
def keyId (block : List Byte) : Nat := leNat ((sha512 ((block.drop 64).take 1984)).take 4)

/-- Send the identity block, in three parts, once the partner's nonce is known. -/
def sendIdent (s : State) (p : PortId) : State :=
  let b := identBytes s p
  if s.ports[p].nonceRx.isNone ∨ b = [] then s
  else
    let part (i : Nat) (bs : List Byte) : Packet := mkMgmt 0x11 i 0 bs
    sendMgmt (sendMgmt (sendMgmt s p (part 0 (b.take 2112))) p (part 1 ((b.drop 2112).take 2112))) p
      (part 2 ((b.drop 4224).take 1216))

/-- A port enters IDENT: a fresh nonce, then its identity block. -/
def enterIdent (s : State) (p : PortId) : State :=
  let n := Config.nonce s.free
  let s := enterState { s with free := s.free + 1 } p 3 0
  let s := modPort s p (fun x => { x with nonceTx := n, ident := [] })
  sendIdent (sendMgmt s p (mkMgmt 0x10 0 0 (leBytes 16 n.toNat))) p

/-- A port exchanges identity again. -/
def reIdent (s : State) (p : PortId) : State := enterIdent (modPort s p (fun x => { x with nonceRx := none })) p

/-- LINK_FRAME_ALIGN: FRAME passes to IDENT. -/
def execLinkFrameAlign (p : PortId) (s : State) : Outc := .next (if linkState s p = 2 then enterIdent s p else s)

/-- Take from the packets that arrived on a port the first that fits; its slots are free again (R289). -/
def takeInbox (s : State) (p : PortId) (vc : Fin 13) (f : Packet → Bool) : State :=
  match s.ports[p].arrived.find? f with
  | none => s
  | some k => giveBack (modPort s p (fun x => { x with arrived := x.arrived.erase k })) p vc k

/-- IDENT_NONCE_RECEIVE: the partner's nonce. -/
def execIdentNonceReceive (p : PortId) (n : BitVec 128) (s : State) : Outc :=
  let s := takeInbox s p 12 (fun k => decide (k.type = 0x10))
  .next (if [2, 3, 7].contains (linkState s p) then
      let s := modPort s p (fun x => { x with nonceRx := some n })
      if linkState s p = 3 then sendIdent s p else s
    else s)

/-- REASON values of R281. -/
def quarantine (s : State) (p : PortId) (reason : Nat) : State := portNote (enterState s p 7 reason) p 0x12 0

/-- Does the box of Gallery `g` in a Catalogue hold both this device and the partner of port `p`? -/
def catBox (c : Catalogue) (g : Gal) (d : Nat) : Bool :=
  (List.range 4).all (fun a =>
    let l := nib (bits c.hdr0 47 32) a + 1
    decide ((nib d a + l - nib (bits c.gal[g] 31 16) a) % l < nib (bits c.gal[g] 47 32) a + 1))
def sharedBox (c : Catalogue) (g : Gal) (p : PortId) : Bool :=
  bit c.gal[g] 63 && catBox c g (bits c.hdr0 63 48) && catBox c g (bits c.nbr[p] 47 32)

/-- The outcome of R281 for a port with a verified identity. -/
def linkOutcome (s : State) (p : PortId) : State :=
  let n := s.catActive.nbr[p]
  let i0 := rget s (lnkReg p.val 0x18)
  let key := fget s (lnkReg p.val 0x20) 31 0
  if bits i0 47 32 ≠ bits n 47 32 ∨ bits i0 63 60 ≠ bits n 55 52 ∨ (bits n 31 0 ≠ 0 ∧ bits n 31 0 ≠ key) then
    quarantine s p 4
  else if allGals.any (fun g => sharedBox s.catActive g p &&
      decide (((s.ports[p].peerGtags).getD g.val 0).toNat ≠ bits s.catActive.gal[g] 15 0)) then quarantine s p 5
  else if bits i0 31 16 < bits s.catActive.hdr1 15 0 ∨ bits s.catActive.hdr1 31 16 < bits i0 31 16 then
    portNote (enterState s p 6 6) p 0x12 0
  else enterState s p 5 0

/-- LINK_RETRAIN_END: lock is regained and the stream resumes by replay, or the retrain has failed; so has the
RTLIM-th within RTWIN. `failed` are the lanes without lock. -/
def execLinkRetrainEnd (p : PortId) (ok : Bool) (failed : BitVec 16) (s : State) : Outc :=
  .next (if linkState s p = 8 then
      let s := counted (fincr s (lnkReg p.val 0x38) 31 16 1)
      let ts := recentRetrains s p
      let many := decide (fget s (lnkReg p.val 0x10) 47 40 ≤ ts.length)
      let s := modPort s p (fun x => { x with retrainTimes := if many then [] else ts })
      if ok && !many then
        let x := s.ports[p]
        let s := setLink s p x.before
        let s := modPort s p (fun x => { x with replay := x.retry, reident := false })
        -- What a commit asked for during the retrain (R281, R297).
        if x.reident then reIdent s p else if x.before = 4 ∧ catValid s then linkOutcome s p else s
      else laneDegrade s p failed
    else s)

/-- The identity block that the parts received make up, once whole. -/
def identWhole (x : Port) : Option (List Byte) :=
  match look [] x.ident 0, look [] x.ident 1, look [] x.ident 2 with
  | a@(_ :: _), b@(_ :: _), c@(_ :: _) => some (a.take 2112 ++ b.take 2112 ++ c.take 1216)
  | _, _, _ => none

/-- Do both signatures verify, and is NONCE_RX the nonce sent? -/
def identGood (x : Port) (b : List Byte) : Bool :=
  let msg := b.take 2048
  Config.ed25519Verify ((b.drop 64).take 32) msg ((b.drop 2048).take 64)
    && Config.mldsaVerify ((b.drop 96).take 1952) msg ((b.drop 2112).take 3309)
    && decide (leNat ((b.drop 32).take 16) = x.nonceTx.toNat)

/-- The partner's fields of a block held (Table 9-12). -/
def holdIdent (s : State) (p : PortId) (b : List Byte) : State :=
  let f (o n : Nat) : Nat := leNat ((b.drop o).take n)
  let s := rset s (lnkReg p.val 0x18) (mkWord [(60, f 2 1 % 16), (32, f 6 2), (16, f 4 2), (0, f 8 2)])
  let s := rset s (lnkReg p.val 0x20) (BitVec.ofNat 64 (keyId b))
  modPort s p (fun x => { x with peerGtags := (List.range 8).map (fun g => BitVec.ofNat 16 (f (16 + 2 * g) 2)) })

/-- IDENT_RECEIVE: a part of the partner's block; once whole, it is verified and the outcome decided. -/
def execIdentReceive (p : PortId) (part : Fin 4) (data : List Byte) (s : State) : Outc :=
  let s := takeInbox s p 12 (fun k => decide (k.type = 0x11 ∧ k.type0 % 4 = part.val))
  .next (if linkState s p = 3 ∧ part.val < 3 then
      let s := modPort s p (fun x => { x with ident := put [] part.val data x.ident })
      match identWhole s.ports[p] with
      | none => s
      | some b =>
        let ok := identGood s.ports[p] b
        let s := modPort s p (fun x => { x with ident := [] })
        if !ok then quarantine s p 3
        else
          let s := holdIdent s p b
          if catValid s then linkOutcome s p else enterState s p 4 0
    else s)

/-! ### The partner's state and resets (R282, R283, R322) -/

/-- The Galleries whose box contains the partner of a port. -/
def sharedGals (s : State) (p : PortId) : List Gal :=
  allGals.filter (fun g => isOpen s g && galValid s g && inBox s g (partnerCoord s p))

/-- The partner is lost to a Gallery: the Collective Engine is told (R322). -/
def portLost (s : State) (p : PortId) (cause : Nat) (g : Gal) : State :=
  peerLost s g (partnerCoord s p) cause (now s) (some p.val) none

/-- The partner entered chip reset. -/
def peerReset (s : State) (p : PortId) : State :=
  let gs := sharedGals s p
  let act := wasActive s p
  let s := fbit (enterState (noLanes (dropPackets s p) p) p 9 0) (lnkReg p.val 0x58) 8
  let s := if act then portNote s p 0x11 2 else s
  gs.foldl (fun s g => portLost s p 0 g) s

/-- The partner reset Galleries; the port stays as it is for the others. -/
def peerGreset (s : State) (p : PortId) (mask : Nat) : State :=
  let s := rset s (lnkReg p.val 0x58) (rget s (lnkReg p.val 0x58) ||| BitVec.ofNat 64 (mask % 256))
  ((sharedGals s p).filter (fun g => mask.testBit g.val)).foldl (fun s g => portLost s p 1 g) s

/-- PEER_STATE_RECEIVE. -/
def execPeerStateReceive (p : PortId) (type1 : Word) (s : State) : Outc :=
  let s := takeInbox s p 12 (fun k => decide (k.type = 0x12 ∧ k.w3 = type1))
  let st := bits type1 19 16
  .next (if portWorks s p then
      let s := fset s (lnkSt p) 39 36 st
      if bit type1 0 then peerReset s p
      else if st = 0xB then linkDown s p 8
      else if st = 0xA then linkDown s p 7
      else
        let s := peerGreset s p (bits type1 15 8)
        if st = 3 ∧ [4, 5, 6, 7].contains (linkState s p) then reIdent s p else s
    else s)

/-- FRAME_LOCK_LOSS: frame lock lost for 2 µs is a chip reset of the partner, unless it said it stops (R283). -/
def execFrameLockLoss (p : PortId) (s : State) : Outc :=
  .next (if portWorks s p ∧ partnerState s p ≠ 0xA ∧ partnerState s p ≠ 0xB then peerReset s p else s)

/-- TRANSMIT_STOP: a port taken out of service stops transmitting (R282). -/
def execTransmitStop (p : PortId) (s : State) : Outc :=
  .next (if s.ports[p].stopping then modPort s p (fun x => { freshLink x with stopping := false, mgmtq := [] }) else s)

/-! ### Commands (R305) -/

def neighbourValid (s : State) (p : PortId) : Bool := bit s.catActive.nbr[p] 63

/-- A DISABLED port may train, unless the Catalogue says that it is not cabled (R279). -/
def enablePort (s : State) (p : PortId) : State :=
  if catValid s && !neighbourValid s p then fset s (lnkSt p) 43 40 9
  else modPort (enterState s p 0 (downReason s p)) p
    (fun x => { freshLink x with stopping := false, mgmtq := [], enableWait := false })

/-- LNK_ENABLE of a DISABLED port; before step 4 of bring-up it waits (R347). -/
def execLnkEnable (p : PortId) (s : State) : Outc :=
  .next (if linkState s p ≠ 0xB then lnkBad s p
    else if s.prov.selfTest.isNone then modPort s p (fun x => { x with enableWait := true })
    else enablePort s p)

/-- A port taken to DISABLED: one that works, retrains or is still stopping tells its partner (R282). -/
def linkDisable (s : State) (p : PortId) (reason : Nat) : State :=
  let tell := portWorks s p || decide (linkState s p = 8) || s.ports[p].stopping
  let s := enterState (noLanes (dropPackets s p) p) p 0xB reason
  modPort s p (fun x => { x with stopping := tell, enableWait := false, mgmtq := if tell then x.mgmtq else [] })

/-- LNK_DISABLE: legal in every state; a port whose neighbour entry is not valid keeps NOTCABLED (R279). -/
def execLnkDisable (p : PortId) (s : State) : Outc :=
  .next (linkDisable s p (if catValid s && !neighbourValid s p then 9 else 8))

/-- LNK_RETRAIN: legal in ACTIVE, MGMT_ONLY and QUARANTINE. -/
def execLnkRetrain (p : PortId) (s : State) : Outc :=
  .next (if [5, 6, 7].contains (linkState s p) then startRetrain s p else lnkBad s p)

/-- LNK_FULLTRAIN: from DOWN at width 16, legal in every state except DISABLED. -/
def execLnkFulltrain (p : PortId) (s : State) : Outc :=
  .next (if linkState s p = 0xB then lnkBad s p
    else modPort (linkDown s p (downReason s p)) p (fun x => { freshLink x with lanes := 0xFFFF, stopping := false, mgmtq := [] }))

/-- LNK_RETIRE: legal in every state except DISABLED and RETIRED. -/
def execLnkRetire (p : PortId) (s : State) : Outc :=
  .next (if linkState s p = 0xB ∨ linkState s p = 0xA then lnkBad s p else linkRetire s p)

/-! ### Sending frames (R272, R274, R275, R291) -/

/-- The virtual channel of link management. -/
def vcMgmt : Fin 13 := 12

/-- The flow of a queued packet: its Gallery, or 8 for transit. -/
def flowOf (e : Nat × Packet) : Nat := if 6 ≤ e.1 then 8 else e.2.gallery.val

/-- The next packet of a flow: replies before requests. -/
def flowHead (x : Port) (f : Nat) : Option (Nat × Packet) :=
  match x.outq.find? (fun e => decide (flowOf e = f) && e.2.cls) with
  | some e => some e
  | none => x.outq.find? (fun e => decide (flowOf e = f))

/-- The weight of a flow. -/
def flowWeight (s : State) (p : PortId) (f : Nat) : Nat :=
  if f = 8 then fget s (lnkReg p.val 0x48) 7 0 else fget s (lnkReg p.val 0x40) (8 * f + 7) (8 * f)

/-- Deficit round robin: the flow at the turn sends while its deficit covers its next packet; else the turn
passes on and the next flow's weight is added. The quantum is the weight in slots. -/
def drr (s : State) (p : PortId) : Nat → Port → Option ((Nat × Packet) × Port)
  | 0, _ => none
  | fuel + 1, x =>
    let f := x.turn % 9
    let fi : Fin 9 := Fin.ofNat 9 f
    match flowHead x f with
    | some e =>
      if 0 < flowWeight s p f ∧ pktSlots e.2 ≤ x.deficit[fi] then
        some (e, { x with deficit := x.deficit.set fi (x.deficit[fi] - pktSlots e.2) })
      else
        let n : Fin 9 := Fin.ofNat 9 (f + 1)
        drr s p fuel { x with turn := n.val, deficit := x.deficit.set n (x.deficit[n] + flowWeight s p n.val) }
    | none =>
      let n : Fin 9 := Fin.ofNat 9 (f + 1)
      let x := { x with deficit := x.deficit.set fi 0 }
      drr s p fuel { x with turn := n.val, deficit := x.deficit.set n (x.deficit[n] + flowWeight s p n.val) }

/-- The routed packet to send next; a flow of weight 0 only when no other has one. -/
def nextRouted (s : State) (p : PortId) (x : Port) : Option ((Nat × Packet) × Port) :=
  match drr s p 700 x with
  | some r => some r
  | none => (x.outq.head?.bind (fun e => flowHead x (flowOf e))).map (fun e => (e, x))

/-- May a link-management packet go out in a state: IDENT and QUARANTINE carry no TIMEBASE (Table 9-4). -/
def mgmtOn (st : Nat) (k : Packet) : Bool := decide (k.type ≠ 0x13) || tbEligible st

/-- Begin the next packet: link management in strict priority, but 1 slot in 16 while other traffic waits. -/
def nextPacket (s : State) (p : PortId) (x : Port) : Port :=
  let routed := portUsable s p && decide (x.outq ≠ [])
  let m := match x.mgmtq.find? (mgmtOn (linkState s p)) with
    | some k => if (decide (x.mgmtDebt = 0) || !routed) && credit s p vcMgmt (pktSlots k) then some k else none
    | none => none
  match m with
  | some k =>
    { x with mgmtq := x.mgmtq.erase k, txSlots := toSlots (pktSlots k) (slotBytes (tbDepart s k)), txRouted := false
             tbReq := if k.type = 0x13 ∧ k.type0 / 2 ^ 28 = 1 then some (BitVec.ofNat 16 k.type0, tbStamp s) else x.tbReq
             used := x.used.set vcMgmt (x.used[vcMgmt] + pktSlots k)
             mgmtDebt := if routed then x.mgmtDebt + 16 * pktSlots k else 0 }
  | none =>
    if routed then
      match nextRouted s p x with
      | some (e, y) =>
        { y with outq := y.outq.erase e, txSlots := toSlots (pktSlots e.2) (slotBytes e.2), txRouted := true }
      | none => x
    else x

/-- Eight slots of the next frame; an empty slot is zero. -/
def fillSlots (s : State) (p : PortId) (seq : Nat) : Nat → Port → List (BitVec 256) × Port
  | 0, x => ([], x)
  | n + 1, x =>
    let y := if x.txSlots = [] then nextPacket s p x else x
    match y.txSlots with
    | w :: rest =>
      let z := { y with txSlots := rest, mgmtDebt := y.mgmtDebt - 1
                        sentPkts := if decide (rest = []) && y.txRouted then y.sentPkts ++ [seq] else y.sentPkts }
      let r := fillSlots s p seq n z
      (w :: r.1, r.2)
    | [] =>
      let r := fillSlots s p seq n y
      (0 :: r.1, r.2)

/-- The next credit return: the lowest channel that has slots to return. -/
def creditReturn (x : Port) : Nat × Nat :=
  match (List.range 13).find? (fun v => decide (x.freed[(Fin.ofNat 13 v)] ≠ 0)) with
  | some v => (v, min x.freed[(Fin.ofNat 13 v)] 1023)
  | none => (0, 0)

def retryMax (p : PortId) : Nat := if optical p then 2048 else 512

/-- Slots XORed together. -/
def xorSlots (a b : List (BitVec 256)) : List (BitVec 256) :=
  (List.range 8).map (fun i => a.getD i 0 ^^^ b.getD i 0)

/-- A frame goes out with the present ACK and NAK; a NAK sent counts toward a retrain (R276). -/
def sendFrame (s : State) (p : PortId) (slots : List (BitVec 256)) (seq : Nat) (recov : Bool) (cvc cred : Nat) : State :=
  let x := s.ports[p]
  let f := mkFrame slots seq x.ackOwed x.nak recov cvc cred
  let s := emit s (.frame p f)
  if x.nak then
    appraise (modPort s p (fun y => { y with nak := false, nakTimes := y.nakTimes ++ [now s] })) (0x100 + p.val) 1
  else s

/-- NAKs sent and received within NAKWIN reach NAKLIM: a retrain. -/
def nakLimit (s : State) (p : PortId) : State :=
  let ts := s.ports[p].nakTimes.filter (fun t => decide (now s < t + fget s (lnkReg p.val 0x10) 31 16 * 1000))
  let s := modPort s p (fun x => { x with nakTimes := ts })
  if fget s (lnkReg p.val 0x10) 15 0 ≤ ts.length ∧ portWorks s p then startRetrain s p else s

/-- The SEQ of an idle frame: the one before the oldest frame not acknowledged, which the partner has accepted, so that it
discards the idle frame as a repetition (R273, R274; log entry 50). -/
def idleSeq (x : Port) : Nat := ((match x.retry with
  | f :: _ => bits f.trailer 63 52
  | [] => x.txSeq) + 4095) % 4096

/-- Does a port have a slot to send? -/
def hasSlots (s : State) (p : PortId) (x : Port) : Bool := decide (x.txSlots ≠ [] ∨ (nextPacket s p x).txSlots ≠ [])

/-- LINK_FRAME_SEND: a replayed frame, a recovery frame after 31 frames of an optical port, a frame of slots, or an
idle frame, which returns no credit. In FRAME every frame is idle (Table 9-4). -/
def execLinkFrameSend (p : PortId) (s : State) : Outc :=
  let x := s.ports[p]
  let seq := x.txSeq
  let next := (seq + 1) % 4096
  .next (if deviceRuns s && (portWorks s p || x.stopping || decide (linkState s p = 2)) then
      let idle (s : State) : State := nakLimit (sendFrame s p (List.replicate 8 0) (idleSeq x) false 0 0) p
      if linkState s p = 2 && !x.stopping then idle s else
      match x.replay with
      | f :: rest =>
        nakLimit (sendFrame (modPort s p (fun y => { y with replay := rest })) p f.slots (bits f.trailer 63 52)
          (bit f.trailer 38) (bits f.trailer 37 34) (bits f.trailer 33 24)) p
      | [] =>
        if retryMax p ≤ x.retry.length then idle s
        else if optical p ∧ x.groupCount = 31 then
          let f := mkFrame x.group seq x.ackOwed false true 0 0
          let s := modPort s p (fun y => { y with txSeq := next, group := [], groupCount := 0, retry := y.retry ++ [f] })
          nakLimit (sendFrame s p x.group seq true 0 0) p
        else
          let r := fillSlots s p seq 8 x
          let c := creditReturn x
          if !hasSlots s p x && decide (c.2 = 0) then idle (setPort s p r.2)
          else
            let f := mkFrame r.1 seq x.ackOwed false false c.1 c.2
            let v : Fin 13 := Fin.ofNat 13 c.1
            let y := { r.2 with txSeq := next, retry := r.2.retry ++ [f], freed := r.2.freed.set v (r.2.freed[v] - c.2)
                                group := if optical p then xorSlots r.2.group r.1 else []
                                groupCount := if optical p then r.2.groupCount + 1 else 0 }
            nakLimit (sendFrame (setPort s p y) p r.1 seq false c.1 c.2) p
    else s)

/-! ### Receiving frames (R271 to R275) -/

/-- The packet of a run of slots: its header words and payload. -/
def slotPacket (ws : List (BitVec 256)) : Packet :=
  let h := ws.headD 0
  let w (i : Nat) : Word := BitVec.ofNat 64 (h.toNat / 2 ^ (64 * i) % 2 ^ 64)
  ⟨w 0, w 1, w 2, w 3, (ws.drop 1).flatMap (fun (x : BitVec 256) => leBytes 32 x.toNat)⟩

/-- Whole packets of the slots received, and the slots that remain. -/
def takePackets : Nat → List (BitVec 256) → List Packet × List (BitVec 256)
  | 0, ws => ([], ws)
  | _, [] => ([], [])
  | fuel + 1, w :: ws =>
    if w = 0 then takePackets fuel ws
    else
      let n := 1 + w.toNat / 256 % 256
      if ws.length + 1 < n then ([], w :: ws)
      else
        let r := takePackets fuel ((w :: ws).drop n)
        (slotPacket ((w :: ws).take n) :: r.1, r.2)

/-- A frame accepted in order: its slots join those received, whole packets come out. -/
def acceptFrame (s : State) (p : PortId) (f : Frame) : State :=
  let x := s.ports[p]
  let r := if bit f.trailer 38 then ([], x.rxSlots) else takePackets 300 (x.rxSlots ++ f.slots)
  -- Only a port that is ACTIVE with an ACTIVE partner carries routed packets (R278).
  let on := decide (linkState s p = 5 ∧ partnerState s p = 5)
  let s := modPort s p (fun y => { y with arrived := y.arrived ++ r.1.filter (fun k => on || !routedType k.type) })
  let v : Fin 13 := Fin.ofNat 13 (bits f.trailer 37 34)
  modPort s p (fun y =>
    { y with rxSlots := r.2, ackOwed := y.rxSeq, rxSeq := (y.rxSeq + 1) % 4096
             used := y.used.set v (y.used[v] - bits f.trailer 33 24)
             rxGroup := if optical p && !bit f.trailer 38 then y.rxGroup ++ [f] else [] })

/-- A frame has failed: a copper port asks for replay; an optical port waits for the recovery frame, unless a
second frame of the group, or the recovery frame, failed. -/
def frameFailed (s : State) (p : PortId) : State :=
  modPort s p (fun x =>
    if optical p && decide (x.failedSeq = none ∧ x.rxSeq % 32 ≠ 31) then { x with failedSeq := some x.rxSeq }
    else
      { x with nak := true, failedSeq := none
               rxGroup := match x.failedSeq with
                 | some q => x.rxGroup.take (q % 32)
                 | none => x.rxGroup })

/-- The failed frame rebuilt from the recovery frame and the other 30, then the held frames and the recovery frame
accepted in order (R275). -/
def rebuildFrame (s : State) (p : PortId) (recov : Frame) (q : Nat) : State :=
  let x := s.ports[p]
  let slots := x.rxGroup.foldl (fun a f => xorSlots a f.slots) recov.slots
  let before := x.rxGroup.take (q % 32)
  let after := x.rxGroup.drop (q % 32)
  let s := modPort s p (fun y => { y with rxGroup := before, failedSeq := none })
  let s := counted (fincr s (lnkReg p.val 0x30) 63 32 1)
  ([(⟨slots, 0⟩ : Frame)] ++ after ++ [recov]).foldl (fun s f => acceptFrame s p f) s

/-- ACK and NAK of a trailer: acknowledged frames leave the retry buffer; a NAK asks for replay. -/
def takeAck (s : State) (p : PortId) (t : Word) : State :=
  let ack := bits t 51 40
  let x := s.ports[p]
  let n := (x.retry.findIdx? (fun f => decide (bits f.trailer 63 52 = ack))).map (fun i => i + 1)
  let gone := (x.retry.take (n.getD 0)).map (fun f => bits f.trailer 63 52)
  let left := x.retry.drop (n.getD 0)
  let s := modPort s p (fun y =>
    { y with retry := left, sentPkts := y.sentPkts.filter (fun q => !gone.contains q)
             replay := if bit t 39 then left else y.replay.filter (fun f => !gone.contains (bits f.trailer 63 52))
             stopping := y.stopping && !(decide (gone ≠ []) && decide (left = []) && decide (y.mgmtq = [] ∧ y.txSlots = [])) })
  if bit t 39 then
    counted (fincr (modPort s p (fun y => { y with nakTimes := y.nakTimes ++ [now s] })) (lnkReg p.val 0x30) 31 0 1)
  else s

/-- Does the CRC of a frame match (R272)? -/
def frameCrc (f : Frame) : Bool :=
  decide ((crc24 (f.slots.flatMap (fun (w : BitVec 256) => leBytes 32 w.toNat) ++ (leBytes 8 f.trailer.toNat).drop 3)).toNat
    = bits f.trailer 23 0)

/-- The points of corrected codewords: one for each 65,536 (Table 13-12). -/
def correctedPoints (s : State) (p : PortId) (n : Nat) : State :=
  let c := 0x100 + p.val
  let k := (score s c).frac + n
  let s := setScore s c { score s c with frac := k % 65536 }
  if k < 65536 then s else appraise s c (k / 65536)

/-- A frame that passed. -/
def goodFrame (s : State) (p : PortId) (f : Frame) : State :=
  let seq := bits f.trailer 63 52
  let s := takeAck s p f.trailer
  let x := s.ports[p]
  match x.failedSeq with
  | some q =>
    if seq = x.rxSeq then acceptFrame (modPort s p (fun y => { y with failedSeq := none, rxGroup := y.rxGroup.take (q % 32) })) p f
    else if seq / 32 ≠ q / 32 ∨ seq % 32 ≤ q % 32 then s
    else if bit f.trailer 38 then
      if x.rxGroup.length = 30 then rebuildFrame s p f q else frameFailed s p
    else if x.rxGroup.any (fun g => decide (bits g.trailer 63 52 = seq)) then s
    else modPort s p (fun y => { y with rxGroup := y.rxGroup ++ [f] })
  | none => if seq = x.rxSeq then acceptFrame s p f else s

/-- LINK_FRAME_RECEIVE: `corrected` codewords were corrected and `bad` could not be, each counted with the first frame that
it touches; `hit`: a codeword that could not be corrected touches this frame (R271). A port that is stopping takes the ACK
of its PEER_STATE (R282). -/
def execLinkFrameReceive (p : PortId) (f : Frame) (corrected : Nat) (hit : Bool) (s : State) (bad : Nat := 0) : Outc :=
  .next (if deviceRuns s && (portWorks s p || decide (linkState s p = 2) || s.ports[p].stopping) then
      let s := correctedPoints (countedN (fincr s (lnkReg p.val 0x28) 31 0 corrected) corrected) p corrected
      let s := appraise (fincr s (lnkReg p.val 0x28) 63 32 bad) (0x100 + p.val) (4 * bad)
      let fail (s : State) : State := if s.ports[p].stopping then s else frameFailed s p
      if hit || decide (0 < bad) then fail s
      else if !frameCrc f then fail (appraise (fincr s (lnkReg p.val 0x38) 63 32 1) (0x100 + p.val) 16)
      else if s.ports[p].stopping then takeAck s p f.trailer
      else nakLimit (goodFrame s p f) p
    else s)

end Sys2Proof.Machine
end

