-- ==== Sys2Proof/Machine/Fabric.lean ====
section
/-! DEFINITION. On-die requests, routed packets, routing grants and the Catalogue's commit
(R264 to R268, R284 to R286, R292 to R302). -/

namespace Sys2Proof.Machine

/-! ### The Trellis (R265 to R267, R29) -/

/-- The Gallery that a request's target belongs to; none for a block that all Galleries share. -/
def agentOwner (s : State) (a : Agent) : Option (Option Gal) :=
  match a with
  | .cluster n => some (clusterOwner s n.val)
  | .cellar g => some (groupOwner s g.val)
  | .host g => some (some g)
  | _ => none

/-- Does a request's tag differ from the owner of its target (R29)? A request on no Gallery's behalf is not checked. -/
def tagMismatch (s : State) (r : TrellisReq) : Bool :=
  match r.gallery, agentOwner s r.dst with
  | some g, some o => decide (o ≠ some g)
  | _, _ => false

/-- Is a request discarded on its way: by a header error, or by the tag check? No reply comes. -/
def discarded (s : State) (r : TrellisReq) : Bool := r.err.headerUe || tagMismatch s r

/-- The generation that a request carries. -/
def reqGen (s : State) (r : TrellisReq) : Word := (r.gallery.map (gen s)).getD 0

/-- The errors of a transfer: counted and scored, and an error in data poisons its line (R266, KINDs 0x07 and 0x15). -/
def transferMet (s : State) (e : TrellisErr) : State :=
  let s := fincr (fincr s (trlReg 0x118) 31 0 e.ce) (trlReg 0x118) 63 32 (e.dataUe + b1 e.headerUe)
  let s := appraise (countedN s (e.ce + e.dataUe)) 0x124 (e.ce + (if e.headerUe then 4096 else 0))
  match e.line with
  | some l => if e.dataUe = 0 then s else { s with mem := s.mem.setPoison l true }
  | none => s

def modTrellis (s : State) (f : Trellis → Trellis) : State := { s with trellis := f s.trellis }

/-- The answer that a requester's stop gives it. -/
def answerReq (s : State) (r : TrellisReq) (timeout : Bool) : State :=
  modTrellis s (fun t => { sent := t.sent.filter (fun e => decide (e.req.id ≠ r.id))
                           answered := t.answered.filter (fun a => decide (a.1 ≠ r.src)) ++ [(r.src, r.id, timeout)] })

/-- TRELLIS_REQUEST: a request enters the request network. -/
def execTrellisRequest (r : TrellisReq) (s : State) : Outc :=
  let s := transferMet s r.err
  let s := if !r.err.headerUe && tagMismatch s r then counted (fincr s (trlReg 0x100) 31 0 1) else s
  .next (modTrellis s (fun t => { t with
    sent := t.sent.filter (fun e => decide (e.req.id ≠ r.id)) ++ [⟨r, now s, reqGen s r, false, r.err.headerUe⟩] }))

/-- Two transfers between the same stops arrive in the order in which they were sent: the requests that were sent before an
answered one between its stops have arrived, but for those that were discarded (R265). -/
def arrivedBefore (s : State) (r : TrellisReq) : List TrlEnt → List TrlEnt
  | [] => []
  | e :: l =>
    if e.req.id = r.id then e :: l
    else (if e.req.src = r.src ∧ e.req.dst = r.dst ∧ discarded s e.req = false then { e with arrived := true } else e)
      :: arrivedBefore s r l

/-- TRELLIS_REPLY: the reply to a request that waits, or, after the timeout, none that is still looked for. A header error
discards the reply. -/
def execTrellisReply (id : Nat) (s : State) (err : TrellisErr := {}) : Outc :=
  .next (match s.trellis.sent.find? (fun e => decide (e.req.id = id) && !discarded s e.req) with
    | none => transferMet s { err with line := none }
    | some e =>
      let s := modTrellis (transferMet s err) (fun t => { t with sent := arrivedBefore s e.req t.sent })
      if err.headerUe then
        modTrellis s (fun t => { t with sent := t.sent.map (fun x =>
          if x.req.id = id then { x with arrived := true, lost := true } else x) })
      else answerReq s e.req false)

/-- TRELLIS_REPLY_TIMEOUT: 2 µs pass without a reply; the stop answers for it and reports it (R267). A header error was
scored as it was met (Table 13-12). -/
def execTrellisReplyTimeout (id : Nat) (s : State) : Outc :=
  .next (match s.trellis.sent.find? (fun e => decide (e.req.id = id)) with
    | none => s
    | some e =>
      let s := answerReq (advanceTo s (e.since + 2000)) e.req true
      let s := fincr s (trlReg 0x110) 31 0 1
      let s := if e.lost then s else appraise s 0x124 4096
      report s { kind := 0x14, cls := if e.req.gallery.isSome then 4 else 5, unit := 11, gal := e.req.gallery })

/-- CUR_GENREF of a Gallery: requests in flight with an older generation, up to 255 (Table 13-14). -/
def genref (s : State) (g : Gal) : Nat :=
  min 255 (s.trellis.sent.countP (fun e => decide (e.req.gallery = some g ∧ e.gen ≠ gen s g)))

/-! ### Packets (R284 to R286, R299, R302) -/

/-- Does a coordinate lie in the machine's shape? -/
def inShape (s : State) (c : Nat) : Bool := (List.range 4).all (fun a => decide (nib c a < ringLen s a))

/-- Is a TYPE one of link management? A TIMEBASE packet is of KIND 1 or 2 (Tables 9-7 and 11-1). -/
def mgmtType (t : Nat) : Bool := decide (0x10 ≤ t ∧ t ≤ 0x13)
def kindOk (p : Packet) : Bool := decide (p.type = 0x13 → p.type0 / 2 ^ 28 = 1 ∨ p.type0 / 2 ^ 28 = 2)

/-- A malformed packet (R285, R335). -/
def malformed (s : State) (p : Packet) : Bool :=
  if mgmtType p.type then p.cls || decide (66 < p.len) || !kindOk p
  else !routedType p.type || (p.cls != replyType p.type) || decide (66 < p.len) || !inShape s p.dst

/-- Traffic dropped for its form, route, tag, epoch or generation is counted and takes a SEQ (KIND 0x1F, R382). -/
def dropMalformed (s : State) : State := counted (fincr s (trlReg 0x108) 63 48 1)
def dropNoroute (s : State) : State := counted (fincr s (trlReg 0x108) 47 32 1)

/-- Is a packet's EPOCH not the active one's low bits (R299)? -/
def stale (s : State) (p : Packet) : Bool := decide (p.epoch ≠ bits s.catActive.hdr0 3 0)

/-- Does the packet's GTAG name an open Gallery whose box contains this device? -/
def gtagHere (s : State) (p : Packet) : Bool :=
  allGals.any (fun g => isOpen s g && galValid s g && inBox s g (coord s)
    && decide (bits s.catActive.gal[g] 15 0 = p.gtag))

/-- The delivery check of R302. -/
def mayDeliver (s : State) (p : Packet) : Bool :=
  isOpen s p.gallery && galValid s p.gallery && decide (bits s.catActive.gal[p.gallery] 15 0 = p.gtag)
    && inBox s p.gallery (coord s)

/-- A packet at its destination: delivered to its unit, or dropped and counted. -/
def deliver (s : State) (port : PortId) (p : Packet) : State :=
  if stale s p && !gtagHere s p then counted (fincr s (trlReg 0x100) 63 32 1)
  else if !mayDeliver s p then counted (fincr s (trlReg 0x100) 31 0 1)
  else if p.gen ≠ genLow s p.gallery then counted (fincr s (trlReg 0x108) 31 0 1)
  else { s with inbox := s.inbox ++ [(port, p)] }

/-- PACKET_RECEIVE: a packet whole on virtual channel `vc`: malformed, at its destination, or to be routed on. A packet
that a port took while it carried routed packets stays through a retrain (R276); one that came otherwise is not carried
(R278). Link-management packets are taken by commands of their own. -/
def execPacketReceive (p : PortId) (vc : Fin 13) (pkt : Packet) (s : State) : Outc :=
  let kept := s.ports[p].arrived.contains pkt || decide (linkState s p = 5 ∧ partnerState s p = 5)
  let t := modPort s p (fun x => { x with arrived := x.arrived.erase pkt })
  .next (if malformed s pkt then giveBack (dropMalformed t) p vc pkt
    else if mgmtType pkt.type then s
    else if !kept then giveBack t p vc pkt
    else if pkt.dst = coord s then giveBack (deliver t p pkt) p vc pkt
    else modPort t p (fun x => { x with inbuf := x.inbuf ++ [(vc.val, pkt)] }))

/-! ### Route and grant (R289 to R296) -/

/-- A routed packet where it waits: the port it came by, with its channel; or none for the device's own. -/
abbrev From := Option (PortId × Nat)

/-- Is a packet already on an escape channel? -/
def onEscape (w : From) : Bool :=
  match w with
  | some (_, v) => decide (v % 3 ≠ 0)
  | none => false

/-- The lowest axis with a direction; a tie is taken as + (R294). -/
def escapeDir (s : State) (p : Packet) : Option (Nat × Bool) :=
  [0, 1, 2, 3].findSome? (fun a =>
    let d := productive s p a
    if d.plus then some (a, false) else if d.minus then some (a, true) else none)

/-- Does a hop on an axis cross its dateline? -/
def crosses (s : State) (a : Nat) (minus : Bool) : Bool :=
  if minus then decide (nib (coord s) a = 0) else decide (nib (coord s) a = ringLen s a - 1)

/-- The escape channel of a hop: 1 across the dateline and after it on the same axis, else 0. -/
def escapeNo (s : State) (w : From) (a : Nat) (minus : Bool) : Nat :=
  if crosses s a minus then 1
  else
    match w with
    | some (q, v) => if v % 3 = 2 ∧ portAxis q = a then 1 else 0
    | none => 0

/-- The virtual channel of a class and sub-channel. -/
def vcOf (k sub : Nat) : Fin 13 := Fin.ofNat 13 (3 * k + sub)

/-- The header after one more hop. -/
def hopped (p : Packet) : Packet := { p with w0 := setBits p.w0 21 16 (p.hops + 1) }

/-- What a routing decision gives. -/
inductive Route where
  | grant (port : PortId) (vc : Fin 13) (p : Packet)
  | wait
  | noroute
  | toolong

/-- A grant on a port and sub-channel, if its credit allows it. -/
def tryGrant (s : State) (p : Packet) (port : PortId) (sub : Nat) : Option Route :=
  let v := vcOf (classOn s p port) sub
  if credit s port v (pktSlots p) then some (.grant port v p) else none

/-- The escape path on an axis and direction. -/
def escapeOn (s : State) (w : From) (p : Packet) (a : Nat) (minus : Bool) : Option Route :=
  match bestPort s p (usablePorts s a minus) with
  | none => none
  | some port => tryGrant s p port (1 + escapeNo s w a minus)

/-- May a blocked axis detour: wrapped, whole or in RING mode, with a usable port the other way (R296)? -/
def mayDetour (s : State) (p : Packet) (a : Nat) (minus : Bool) : Bool :=
  wraps s a && (decide (extent s p.gallery a = ringLen s a) || ringMode s p.gallery a)
    && decide (usablePorts s a (!minus) ≠ [])

/-- The packet locked to a detour on axis `a`. -/
def detoured (p : Packet) (a : Nat) (minus : Bool) : Packet :=
  { p with w0 := setBits (setBits p.w0 (28 + a) (28 + a) 1) (24 + a) (24 + a) (b1 (!minus)) }

/-- A packet whose way is blocked on some of `axes`: the lowest one that may detour does so; else it is dropped (R296). -/
def blocked (s : State) (w : From) (p : Packet) (axes : List Nat) : Route :=
  match axes.findSome? (fun a =>
      let d := productive s p a
      if dirPorts s a d ≠ [] then none
      else if d.plus && mayDetour s p a false then some (a, false)
      else if d.minus && mayDetour s p a true then some (a, true) else none) with
  | none => .noroute
  | some (a, minus) =>
    let p := detoured p a minus
    let ports := usablePorts s a (!minus)
    let ad := if onEscape w then none else (bestPort s p ports).bind (fun port => tryGrant s p port 0)
    ((ad <|> escapeOn s w p a (!minus)).getD .wait)

/-- The escape path of a packet, on its lowest axis; a packet on an escape channel may detour there alone. -/
def escape (s : State) (w : From) (p : Packet) : Route :=
  match escapeDir s p with
  | none => .wait
  | some (a, minus) =>
    if usablePorts s a minus = [] then
      (if onEscape w && decide (dirPorts s a (productive s p a) = []) then blocked s w p [a] else .wait)
    else (escapeOn s w p a minus).getD .wait

/-- A transit packet goes straight on (R295). -/
def straight (s : State) (p : Packet) (q : PortId) (v : Nat) : Route :=
  let a := portAxis q
  let minus := !portMinus q
  match bestPort s p (usablePorts s a minus) with
  | none => .noroute
  | some port =>
    let ad := if v % 3 = 0 then tryGrant s p port 0 else none
    (ad <|> escapeOn s (some (q, v)) p a minus).getD .wait

/-- The routing decision for a packet. -/
def route (s : State) (w : From) (p : Packet) : Route :=
  if 63 ≤ p.hops then .toolong
  else
    match w, isTransit s p with
    | some (q, v), true => straight s p q v
    | _, _ =>
      if onEscape w then escape s w p
      else
        match choosePort s p with
        | none => blocked s w p [0, 1, 2, 3]
        | some port => (tryGrant s p port 0).getD (escape s w p)

/-- The packet leaves where it waits. -/
def leave (s : State) (w : From) (p : Packet) : State :=
  match w with
  | none => { s with injectq := s.injectq.eraseP (fun k => decide (k.1 = p)) }
  | some (q, v) => giveBack (modPort s q (fun x => { x with inbuf := x.inbuf.erase (v, p) })) q (Fin.ofNat 13 v) p

/-- Apply a routing decision. -/
def applyRoute (s : State) (w : From) (p : Packet) (r : Route) : State :=
  match r with
  | .wait => s
  | .noroute => dropNoroute (leave s w p)
  | .toolong => dropMalformed (leave s w p)
  | .grant port vc p' =>
    modPort (leave s w p) port (fun x =>
      { x with outq := x.outq ++ [(vc.val, hopped p')], used := x.used.set vc (x.used[vc] + pktSlots p') })

/-- Does a decision move its packet? -/
def moves : Route → Bool
  | .wait => false
  | _ => true

/-- The heads of the virtual channels of an input buffer, oldest first. -/
def heads : List Nat → List (Nat × Packet) → List (Nat × Packet)
  | _, [] => []
  | seen, e :: r => if seen.contains e.1 then heads seen r else e :: heads (e.1 :: seen) r

/-- The encoding that a packet's port owes is done as it is granted (R316). -/
def encodeOn (s : State) (port : Nat) : Option CodecNote → State
  | some c => if port < 12 then codecSend s port c else s
  | none => s

/-- PACKET_ROUTE_GRANT: a packet waiting at a port, or for `none` one of the device's own units, is granted an
output, or dropped where it has no route. HOLD stops injection (R300). -/
def execPacketRouteGrant (p : Option PortId) (s : State) : Outc :=
  .next (if !deviceRuns s then s
    else
      match p with
      | none =>
        if bit (rget s (trlReg 8)) 0 then s
        else
          match s.injectq with
          | [] => s
          | (k, c) :: _ =>
            if k.dst = coord s then encodeOn (deliver { s with injectq := s.injectq.drop 1 } 0 k) 0xF c
            else
              let r := route s none k
              encodeOn (applyRoute s none k r) (match r with
                | .grant port _ _ => port.val
                | _ => 0xF) (if moves r then c else none)
      | some q =>
        match (heads [] s.ports[q].inbuf).find? (fun e => moves (route s (some (q, e.1)) e.2)) with
        | none => s
        | some e => applyRoute s (some (q, e.1)) e.2 (route s (some (q, e.1)) e.2))

/-- Is a packet that has arrived in part a routed one? Its header slot stands first. -/
def partRouted (x : Port) : Bool :=
  match x.rxSlots.find? (fun w => decide (w ≠ 0)) with
  | some w => routedType (w.toNat % 256)
  | none => false

/-- Does the device hold no routed packet: TRL_STATUS.EMPTY (R300)? -/
def fabricEmpty (s : State) : Bool :=
  decide (s.injectq = []) && allPorts.all (fun p =>
    decide (s.ports[p].inbuf = []) && decide (heldPkts s.ports[p] = 0)
      && !s.ports[p].arrived.any (fun k => routedType k.type) && !partRouted s.ports[p])

/-! ### The Catalogue (R297, R298) -/

def anyOpen (s : State) : Bool := allGals.any (isOpen s)

/-- Does a coordinate lie in the shape of a Catalogue? -/
def catIn (c : Catalogue) (d : Nat) : Bool :=
  (List.range 4).all (fun a => decide (nib d a ≤ nib (bits c.hdr0 47 32) a))

/-- Sizes, coordinates, origins and extents that a Catalogue may have (R298, Table 0-2). -/
def shapeOk (c : Catalogue) : Bool :=
  let sh := bits c.hdr0 47 32
  decide (nib sh 0 ≤ 7 ∧ nib sh 1 ≤ 7) && catIn c (bits c.hdr0 63 48)
    && allPorts.all (fun p => !bit c.nbr[p] 63 || catIn c (bits c.nbr[p] 47 32))
    && allGals.all (fun g => !bit c.gal[g] 63 || (catIn c (bits c.gal[g] 31 16)
      && (List.range 4).all (fun a => decide (nib (bits c.gal[g] 47 32) a ≤ nib sh a))))

/-- Would a commit change what an open Gallery relies on? -/
def openChange (s : State) : Bool :=
  let a := s.catActive
  let b := s.catShadow
  allGals.any (fun g => isOpen s g && decide (a.gal[g] ≠ b.gal[g]))
    || (anyOpen s && decide (bits a.hdr0 63 32 ≠ bits b.hdr0 63 32 ∨ bits a.hdr0 19 16 ≠ bits b.hdr0 19 16))

/-- CATSTAT of a commit: 0 OK, 1 BUSY, 2 EPOCH, 3 SHAPE, 4 OPENCHG. -/
def commitStat (s : State) : Nat :=
  if catValid s ∧ bit (rget s (trlReg 8)) 0 = false then 1
  else if bits s.catShadow.hdr0 15 0 ≤ bits s.catActive.hdr0 15 0 then 2
  else if !shapeOk s.catShadow then 3
  else if openChange s then 4 else 0

/-- What R281 expects of a port's partner: its neighbour entry but for USE, and the Gallery tags that it shares. -/
def expectation (c : Catalogue) (p : PortId) : Word × List (Option Nat) :=
  (c.nbr[p] &&& ~~~((1 : Word) <<< 62),
   allGals.map (fun g => if sharedBox c g p then some (bits c.gal[g] 15 0) else none))

/-- A port after a commit. -/
def portAfterCommit (old : Catalogue) (s : State) (p : PortId) : State :=
  let st := linkState s p
  if !neighbourValid s p then
    (if st = 0xB then fset s (lnkSt p) 43 40 9 else linkDisable s p 9)
  else if [4, 5, 6, 7].contains st ∧ expectation old p ≠ expectation s.catActive p then reIdent s p
  else if st = 8 ∧ [4, 5, 6, 7].contains s.ports[p].before ∧ expectation old p ≠ expectation s.catActive p then
    modPort s p (fun x => { x with reident := true })
  else if st = 4 then linkOutcome s p else s

/-- Extend a measurement register by a digest, with its log entry (R423, R424). -/
def extendMeas (s : State) (i : Fin 8) (type : Nat) (d : List Byte) : State :=
  let p := s.prov
  let s := { s with prov := { p with meas := p.meas.set i (sha512 (p.meas[i] ++ d)) } }
  let n := p.log.length
  if n < 256 then
    let e : List Byte := [BitVec.ofNat 8 i.val, BitVec.ofNat 8 type, 0, 0] ++ leBytes 4 n ++ d
    { s with prov := { s.prov with log := s.prov.log ++ [e] } }
  else fincr s (prvReg 0x20) 63 32 1

/-- The registers of a Catalogue in offset order. -/
def catWords (c : Catalogue) : List Word := [c.hdr0, c.hdr1] ++ c.gal.toList ++ c.nbr.toList

/-- CATALOGUE_COMMIT: the shadow copy is checked and becomes active, and the Curator extends MEAS[4] with it. -/
def execCatalogueCommit (s : State) : Outc :=
  let r := commitStat s
  let s := fset s (trlReg 0) 11 8 r
  .next (if r ≠ 0 then fbit s (trlReg 0) 15
    else
      let old := s.catActive
      let s := { s with catActive := s.catShadow }
      let s := fbit (fset s (trlReg 0) 31 16 (bits s.catActive.hdr0 15 0)) (trlReg 0) 0
      let s := allPorts.foldl (portAfterCommit old) s
      extendMeas s 4 0x10 (sha512 ((catWords s.catActive).flatMap (fun (w : Word) => leBytes 8 w.toNat))))

end Sys2Proof.Machine
end

