-- ==== Sys2Proof/Machine/Timebase.lean ====
section
/-! DEFINITION. The Timebase: exchanges over the links, election and lock, correction, holdover and PTP
(R333 to R344). -/

namespace Sys2Proof.Machine

/-! ### Announcements (R338, Table 11-1) -/

def annLocked (w : Word) : Bool := bit w 63
def annHops (w : Word) : Nat := bits w 55 50
def annPrio (w : Word) : Nat := bits w 47 40
def annKey (w : Word) : Nat := bits w 39 8

/-- The rank of an announcement, the lower the better: LOCKED, PRIO, KEYID, HOPS. -/
def annRank (w : Word) : Nat :=
  b1 (!annLocked w) * 2 ^ 46 + annPrio w * 2 ^ 38 + annKey w * 2 ^ 6 + annHops w

def portEligible (s : State) (p : PortId) : Bool := tbEligible (linkState s p)

/-- The announcements that may be chosen, by port: HOPS = 63 is not, nor is a declined root (R338, R340). -/
def tbCandidates (s : State) : List (PortId × Word) :=
  allPorts.filterMap (fun p =>
    match s.ports[p].announce with
    | none => none
    | some w => if portEligible s p ∧ annHops w ≠ 63 ∧ s.tb.declined.contains (annKey w) = false then some (p, w) else none)

/-- The best of a list of announcements; a tie goes to the lower port. -/
def bestAnn (l : List (PortId × Word)) : Option (PortId × Word) :=
  l.foldl (fun b e =>
    match b with
    | none => some e
    | some x => if annRank e.2 < annRank x.2 then some e else b) none

/-- Thousandths of 2^-16 ns in 64 ns. -/
def far : Int := 64 * 65536 * 1000

/-- Follow a port's announcement. -/
def follow (s : State) (p : PortId) (w : Word) : State := setRoot s p.val (annHops w + 1) (annPrio w) (annKey w)

/-- The device has declined a root: it follows its present root while any port announces it, and else is in
HOLDOVER; a root of its own stays (R340). -/
def keepRoot (s : State) : State :=
  if tmbParent s = 0xF then s
  else
    match bestAnn ((tbCandidates s).filter (fun e => decide (annKey e.2 = fget s (tmbReg 0x30) 63 32))) with
    | some (p, w) => follow s p w
    | none =>
      if tmbState s = 4 then s
      else fset { s with tb := { s.tb with holdSince := now s } } (tmbReg 0) 2 0 4

/-- No port's announcement ranks better: the device is its own root. One that was LOCKED stays so. -/
def beRoot (s : State) : State :=
  if s.tb.declined ≠ [] then keepRoot s
  else if tmbParent s = 0xF then fset s (tmbReg 0x30) 31 24 (fget s (tmbReg 8) 23 16)
  else
    let s := rootSelf s
    if tmbState s = 2 then fset s (tmbReg 0) 2 0 1 else s

/-- The election (R338 to R340). With a Gallery open, a LOCKED root is taken once θ to it is measured, and
declined where θ exceeds 64 ns. -/
def elect : Nat → State → State
  | 0, s => s
  | fuel + 1, s =>
    let s := if anyOpen s then s else { s with tb := { s.tb with declined := [] } }
    if tmbState s = 0 then s
    else if tmbState s = 4 then
      match bestAnn ((tbCandidates s).filter (fun e => decide (annKey e.2 = fget s (tmbReg 0x30) 63 32))) with
      | some (p, w) => fset (follow s p w) (tmbReg 0) 2 0 3
      | none => s
    else
      match bestAnn (tbCandidates s) with
      | none => beRoot s
      | some (p, w) =>
        if annRank (ownAnn s) ≤ annRank w then beRoot s
        else if annKey w = fget s (tmbReg 0x30) 63 32 ∧ tmbState s ≠ 1 then follow s p w
        else
          let take : State := fset { follow s p w with tb := { s.tb with thetas := [] } } (tmbReg 0) 2 0 2
          if anyOpen s && annLocked w then
            match s.ports[p].tbMeas with
            | none => s
            | some (theta, _) =>
              if far < theta.natAbs then
                elect fuel (fbit { s with tb := { s.tb with declined := s.tb.declined ++ [annKey w] } } (tmbReg 0) 14)
              else take
          else take

/-! ### Exchanges (R335, R336) -/

/-- TIMEBASE_EXCHANGE_PERIOD: 250 µs are over. Every eligible port sends a REQ; a period of the parent without
its RSP is lost. A device that has been its own root for 64 periods is LOCKED. -/
def execTimebaseExchangePeriod (s : State) : Outc :=
  .next (if !deviceRuns s then s
    else
      let lost := allPorts.any (fun p => decide (tmbParent s = p.val) && s.ports[p].tbReq.isSome)
      let s := elect 13 (if lost then { s with tb := { s.tb with thetas := [] } } else s)
      let s := allPorts.foldl (fun s p =>
        if portEligible s p then
          let n := s.ports[p].tbSeq + 1
          sendMgmt (modPort s p (fun x => { x with tbSeq := n, tbReq := none })) p
            (mkMgmt 0x13 (2 ^ 28 + n.toNat) (curAnn s) (List.replicate 32 0))
        else s) s
      if tmbState s = 1 ∧ tmbParent s = 0xF then
        let n := s.tb.rootPeriods + 1
        let s := { s with tb := { s.tb with rootPeriods := n } }
        if 64 ≤ n then fset s (tmbReg 0) 2 0 3 else s
      else s)

/-- A port takes an announcement, and the device ranks anew. -/
def heard (s : State) (p : PortId) (type1 : Word) : State :=
  elect 13 (modPort s p (fun x => { x with announce := some type1 }))

/-- TIMEBASE_REQ_RECEIVE: an RSP with t2; t3 is set as it departs. -/
def execTimebaseReqReceive (p : PortId) (seq : BitVec 16) (type1 : Word) (t2 : BitVec 80) (s : State) : Outc :=
  let s := takeInbox s p 12 (fun k => decide (k.type = 0x13 ∧ k.type0 = 2 ^ 28 + seq.toNat ∧ k.w3 = type1))
  .next (if portEligible s p then
      let s := heard s p type1
      sendMgmt s p (mkMgmt 0x13 (2 * 2 ^ 28 + seq.toNat) (curAnn s) (leBytes 10 t2.toNat ++ List.replicate 22 0))
    else s)

/-- θ and δ of an exchange, in thousandths of 2^-16 ns; ASYM is in ps. -/
def thetaOf (s : State) (p : PortId) (t1 t2 t3 t4 : Nat) : Int × Int :=
  let asym : Int := (BitVec.ofNat 16 (fget s (tmbReg (0x80 + 8 * p.val)) 15 0)).toInt
  ((((t1 : Int) - t2) + ((t4 : Int) - t3)) * 500 + asym * 65536, (((t4 : Int) - t1) - ((t3 : Int) - t2)) * 500)

/-- θ in whole units of 2^-16 ns; which neighbour a value between two takes is open. -/
def thetaWord (s : State) (theta : Int) : Int × State :=
  if theta % 1000 = 0 then (theta / 1000, s)
  else
    let t := freeBit s
    (theta / 1000 + b1 t.1, t.2)

/-- The RATE for a correction is open within a bound around nominal (R340, R344). -/
def freeRate (s : State) (bound : Nat) : State :=
  let t := freeWord s
  fset t.2 (tmbReg 0x20) 39 0 (4569114145 - bound + t.1.toNat % (2 * bound + 1))

/-- Correct the counter by θ: a step beyond 64 ns where allowed, else a slew within 200 ppm (R340). -/
def correct (s : State) (theta word : Int) : State :=
  if far < theta.natAbs ∧ anyOpen s = false ∧ bit (rget s (tmbReg 8)) 0 = false then
    let c : Int := ((s.tb.count : Int) - word * 65536) % 2 ^ 96
    fbit { s with tb := { s.tb with count := c.toNat } } (tmbReg 0) 13
  else freeRate s 913822

/-- ACQUIRE: the parent reports LOCKED and the mean |θ| of 4 periods is at most 0.15 ns (Table 11-2). -/
def acquire (s : State) (theta : Int) (locked : Bool) : State :=
  let l := (s.tb.thetas ++ [theta]).drop (s.tb.thetas.length - 3)
  let s := { s with tb := { s.tb with thetas := l } }
  if locked && decide (l.length = 4) && decide ((l.map Int.natAbs).foldl (· + ·) 0 ≤ 39321600) then
    fset s (tmbReg 0) 2 0 3
  else s

/-- TIMEBASE_RSP_RECEIVE: an RSP within 50 µs with the SEQ of the REQ gives θ and δ; the parent's corrects. -/
def execTimebaseRspReceive (p : PortId) (seq : BitVec 16) (type1 : Word) (t2 t3 t4 : BitVec 80) (s : State) : Outc :=
  let s := takeInbox s p 12 (fun k => decide (k.type = 0x13 ∧ k.type0 = 2 * 2 ^ 28 + seq.toNat ∧ k.w3 = type1))
  .next (if !portEligible s p then s
    else
      match s.ports[p].tbReq with
      | none => s
      | some (n, t1) =>
        -- An RSP of another SEQ loses the period's measurement, like a late one.
        if n ≠ seq ∨ t1 + 50000 * 65536 < t4.toNat then
          let s := modPort s p (fun x => { x with tbReq := none })
          if tmbParent s = p.val then { s with tb := { s.tb with thetas := [] } } else s
        else
          let m := thetaOf s p t1 t2.toNat t3.toNat t4.toNat
          let s := modPort s p (fun x => { x with tbReq := none, tbMeas := some m })
          let s := heard s p type1
          if tmbParent s = p.val ∧ (tmbState s = 2 ∨ tmbState s = 3) then
            let t := thetaWord s m.1
            let s := correct (rset t.2 (tmbReg 0x28) (BitVec.ofInt 64 t.1)) m.1 t.1
            if tmbState s = 2 then acquire s m.1 (annLocked type1) else s
          else s)

/-- No port announces the root for 4 ms: ELECT, the counter unchanged. With a Gallery open, a LOCKED root that the
election would take is first measured, and declined where θ to it exceeds 64 ns; a device that has declined one stays in
HOLDOVER (R339, R340). -/
def leaveHoldover : Nat → State → State
  | 0, s => s
  | fuel + 1, s =>
    let e := fset (rootSelf s) (tmbReg 0) 2 0 1
    let go : State := if s.tb.declined ≠ [] ∧ anyOpen s then s else elect 13 e
    match bestAnn (tbCandidates s) with
    | none => go
    | some (p, w) =>
      if anyOpen s = false ∨ annLocked w = false ∨ annRank (ownAnn e) ≤ annRank w then go
      else
        match s.ports[p].tbMeas with
        | none => s
        | some (theta, _) =>
          if far < theta.natAbs then
            leaveHoldover fuel (fbit { s with tb := { s.tb with declined := s.tb.declined ++ [annKey w] } } (tmbReg 0) 14)
          else go

/-- HOLDOVER_EXPIRE: 4 ms of HOLDOVER are over. A port that announces the same root ends it in LOCKED under that
parent; without one the device leaves for ELECT where it may (R339, R340). -/
def execHoldoverExpire (s : State) : Outc :=
  .next (if tmbState s ≠ 4 then s
    else
      let s := elect 13 (advanceTo s (s.tb.holdSince + 4000000))
      if tmbState s ≠ 4 then s else leaveHoldover 13 s)

/-! ### PTP (R343, R344) -/

/-- Do eight offsets agree within 100 ns? -/
def agree (l : List Int) : Bool :=
  decide (l.length = 8) && l.all (fun x => l.all (fun y => decide (x ≤ y + 100)))

/-- A Delay_Req goes out: t1 and t2 of the Sync are kept with its departure t3. -/
def ptpAsk (s : State) (seq : BitVec 16) (t1 t2 : Nat) : State :=
  ethSend { s with tb := { s.tb with ptpSync := none, ptpReq := some (seq, t1, t2, now s) } }
    (.eth 7 ([1, BitVec.ofNat 8 (fget s (tmbReg 8) 15 8)] ++ (leBytes 2 seq.toNat).reverse))

/-- A whole exchange gives TAI minus Timebase; a root with PTPSTEER follows PTP within 50 ppm of nominal (R344). Which
nanosecond half an odd sum is taken to is open. -/
def ptpOffset (s : State) (t1 t2 t3 t4 : Nat) : State :=
  let sum : Int := ((t1 : Int) - t2) + ((t4 : Int) - t3)
  let t := freeBit s
  let off := sum / 2 + (if sum % 2 = 0 then 0 else b1 t.1)
  let s := if sum % 2 = 0 then s else t.2
  let l := (s.tb.ptp ++ [off]).drop (s.tb.ptp.length - 7)
  let s := rset { s with tb := { s.tb with ptp := l, ptpReq := none } } (tmbReg 0x38) (BitVec.ofInt 64 off)
  let s := fset s (tmbReg 0) 12 12 (b1 (agree l))
  if bit (rget s (tmbReg 8)) 2 ∧ tmbParent s = 0xF ∧ tmbState s ≠ 0 then freeRate s 228455 else s

/-- Does the Ethernet port run with its link up? -/
def ptpPort (s : State) : Bool := deviceRuns s && bit (rget s (ethReg 8)) 0 && bit (rget s (ethReg 0)) 3

/-- PTP_MESSAGE: the port takes a message of the end-to-end mechanism, over IPv4 or IPv6, from a one-step or a two-step
master; PTP runs while PTPEN is set, in the domain DOMAIN (R343). -/
def execPtpMessage (m : PtpMsg) (s : State) (domain : BitVec 8 := 0) (_v6 : Bool := false) : Outc :=
  .next (if !ptpPort s then s
    else
      let s := fincr s (ethReg 0x48) 63 32 1
      if !bit (rget s (tmbReg 8)) 1 || decide (domain.toNat ≠ fget s (tmbReg 8) 15 8) then s
      else
        match m with
        | .sync true seq _ => { s with tb := { s.tb with ptpSync := some (seq, now s) } }
        | .sync false seq t1 => ptpAsk s seq t1.toNat (now s)
        | .followUp seq t1 =>
          (match s.tb.ptpSync with
          | some (n, t2) => if n = seq then ptpAsk s seq t1.toNat t2 else s
          | none => s)
        | .delayResp seq t4 =>
          (match s.tb.ptpReq with
          | some (n, t1, t2, t3) => if n = seq then ptpOffset s t1 t2 t3 t4.toNat else s
          | none => s)
        | .other => s)

end Sys2Proof.Machine
end

