-- ==== Sys2Proof/Machine/Recover.lean ====
section
/-! DEFINITION. Opening a Gallery, teardown and resets, Fault Record Queues, the NaN trap's arbiter, replays,
Appraisal and the Condition Report's commands (R168 to R171, R349, R380 to R408). -/

namespace Sys2Proof.Machine

/-- The next state of a command that always has one. -/
def nextOf (s : State) : Outc → State
  | .next t => t
  | _ => s

/-- A refused command of a Gallery's registers (R378). -/
def glyBad (s : State) (g : Gal) : State := fbit s (glyReg g.val 0) 15

/-! ### Opening (R349) -/

/-- OPENSTAT of an open: 0 OK, 4 composition or binding empty, 1 no lock, 2 no Catalogue or outside the box,
3 a retirement record not applied; the first that holds in R349's order. -/
def openStat (s : State) (g : Gal) : Nat :=
  if fget s (glyReg g.val 0x10) 15 0 = 0 ∨ fget s (glyReg g.val 0x18) 15 0 = 0 ∨ fget s (glyReg g.val 0x30) 1 0 = 0 then 4
  else if tmbState s ≠ 3 then 1
  else if !catValid s || (galValid s g && !inBox s g (coord s)) then 2
  else if s.retire ≠ [] then 3 else 0

def openStatus : Nat → Status
  | 0 => .ok | 1 => .notreadyTb | 2 => .notreadyCat | 3 => .notreadyRetire | _ => .badState

/-- Open a closed Gallery, or refuse with the cause in OPENSTAT. Opening sets its lock (R27); its collective queues
start anew, and no LOSS notice counts from before (R306, R327). -/
def openGallery (s : State) (g : Gal) : State :=
  let r := openStat s g
  let s := fset s (glyReg g.val 0) 23 16 r
  if r = 0 then
    modSeal (modGal (fset s (glyReg g.val 0) 1 0 3) g (fun x => { x with cq := Vector.replicate 16 {} })) g
      (fun x => { x with losses := [] })
  else s

/-- GLY_CTL_OPEN: legal only while closed. -/
def execGlyCtlOpen (g : Gal) (s : State) : Outc := .next (if isOpen s g then glyBad s g else openGallery s g)

/-- The NaN trap is ARMED and its record zero (R168). -/
def rearm (s : State) (g : Gal) : State :=
  let s := modGal s g (fun x => { x with fired := false })
  let s := fset s (glyReg g.val 0) 4 4 0
  rclear s (glyReg g.val 0x70) (glyReg g.val 0x90)

/-- GLY_CTL_REARM. -/
def execGlyCtlRearm (g : Gal) (s : State) : Outc := .next (rearm s g)

/-! ### Teardown and resets (R391 to R396) -/

/-- GLY_CTL_NEXTGEN: teardown, legal only while open. -/
def execGlyCtlNextgen (g : Gal) (s : State) : Outc := .next (if isOpen s g then teardown s g else glyBad s g)

/-- TEARDOWN_RACKING_KILL: what still runs 50 µs into a teardown is killed (Table 13-7, step 2). -/
def execTeardownRackingKill (g : Gal) (s : State) : Outc :=
  .next (if s.gal[g].tear = .draining then teardownFinish s g else s)

def execGlyCtlComputeReset (g : Gal) (s : State) : Outc := .next (if deviceRuns s then startReset s g .compute 5 0 else s)
def execGlyCtlGalleryReset (g : Gal) (s : State) : Outc := .next (if deviceRuns s then startReset s g .gallery 5 0 else s)

/-- The SHT commands that waited for a reset complete (R392). -/
def resetDone (s : State) (g : Gal) (gallery : Bool) : State :=
  let cs := s.gal[g].resetCmds
  let s := modGal s g (fun x => { x with reset := none, tear := .none, resetCmds := [] })
  let s := fset s (glyReg g.val 0) 5 5 0
  let s := cs.foldl (fun s c =>
    let op := ((endpoint s c.1).cmds.find? (fun k => decide (k.tag = c.2))).map (fun k => k.op)
    complete s c.1 c.2 (op.getD (if gallery then 0x0C else 0x0B)) .ok 0 0 0) s
  galEvent s g 0x05 0 [BitVec.ofNat 64 (b1 gallery), gen s g]

/-- COMPUTE_RESET_COMPLETE: RESET is 0 and RESET_DONE is sent (Table 13-8, step 5). -/
def execComputeResetComplete (g : Gal) (s : State) : Outc :=
  .next (match s.gal[g].reset, s.gal[g].tear with
    | some (.compute, _, _), .clearing => resetDone s g false
    | _, _ => s)

/-- A held ZERO of free frames of one group that are not ZEROED: a run of them that the map lists. -/
def heldZero (s : State) (c : Nat) : Option (Nat × Nat) :=
  let ls := s.walker.entries.filter (fun e =>
    decide (e.1 / 2 ^ 20 = c) && !feValid e.2 && !feRetired e.2 && !feZeroed e.2)
  (ls.head?).map (fun e =>
    (e.1, 1 + ((List.range (ls.length - 1)).takeWhile (fun i => decide ((ls.map Prod.fst).getD (i + 1) 0 = e.1 + i + 1))).length))

/-- Start the ZERO of a group where none runs. -/
def zeroHeld (s : State) (c : Nat) : State :=
  if bit (rget s (celReg c 0)) 14 then s
  else
    match heldZero s c with
    | none => s
    | some (f, n) => zeroStart s f n

def groupsOfGal (s : State) (g : Gal) : List Nat := (List.range 16).filter (fun c => ownsGroup s g c)

/-- GENREF_DRAIN_ZERO: no request of an older generation is in flight, so zeroing starts. A Gallery reset unmaps
every frame and zeroes the Gallery's groups (Table 13-8, step 6); else the frames unmapped since a teardown are
zeroed (Table 13-7, step 6). An OFFLINE group has no frames. -/
def execGenrefDrainZero (g : Gal) (s : State) : Outc :=
  .next (if genref s g ≠ 0 then s
    else
      match s.gal[g].reset, s.gal[g].tear with
      | some (.gallery, _, _), .clearing =>
        let s := unmapGallery s g
        let s := (groupsOfGal s g).foldl (fun s c =>
          if celMode s c = 2 then s else zeroStart s (c * 2 ^ 20) (backedFrames s c)) s
        modGal s g (fun x => { x with tear := .zeroing })
      | none, .none => (groupsOfGal s g).foldl zeroHeld s
      | _, _ => s)

/-- A TARGET_SET that is still opening its slot ends with ABORTED (R361). -/
def abortTargets (s : State) (g : Gal) : State :=
  s.gal[g].targets.toList.foldl (fun s t =>
    match t.opening with
    | some (e, tag) => complete s e tag 0x10 .aborted 0 0 0
    | none => s) s

/-- COL_G of a Gallery and the mirror held for its neighbour at reset; a pass or copy under way fails. -/
def colReset (s : State) (g : Gal) : State :=
  let s := if s.gal[g].mtx.running then mirrorFail s g false else s
  let s := if s.gal[g].mcp.running then mirrorFail s g true else s
  let s := mirrorLost s g
  let s := rclear s (colGal g.val 0) (colGal g.val 0x1000)
  let s := abortTargets (closeConns s (fun c => decide (c.gal = g.val))) g
  let s := { s with slices := s.slices.map (fun l => l.filter (fun k => decide (k.gal ≠ g))) }
  let s := modSeal s g (fun x =>
    if x.st = .closing then { x with decided := [], lastDecided := none, otherStep := none, other := [] } else {})
  modGal s g (fun x => { x with mtx := {}, mcp := {}, mrx := {}, lossSeen := [], cq := Vector.replicate 16 {}
                                windows := Vector.replicate 16 {}, targets := Vector.replicate 4 {} })

/-- GALLERY_RESET_COMPLETE: zeroing has ended; COL_G, OPEN, LOCK, TRAP and STEP are cleared, RESET_DONE is sent and
the session ends once it is acknowledged (Table 13-8, steps 7 and 8). -/
def execGalleryResetComplete (g : Gal) (s : State) : Outc :=
  .next (match s.gal[g].reset, s.gal[g].tear with
    | some (.gallery, _, _), .zeroing =>
      if (groupsOfGal s g).any (fun c => bit (rget s (celReg c 0)) 14) then s
      else
        let s := colReset s g
        let s := fset (fset s (glyReg g.val 0) 1 0 0) (glyReg g.val 0) 4 4 0
        let s := resetDone (rset s (glyReg g.val 0x68) 0) g true
        let x := endpoint s (.host g)
        if x.session.isSome then setEp s (.host g) { x with ending := some x.txSeq } else s
    | _, _ => s)

/-- CUR_CTL_CHIP_RESET: a chip reset with CAUSE 5; one that runs covers it (R392). -/
def execCurCtlChipReset (s : State) : Outc := .next (if deviceRuns s then chipReset s 5 0 else s)

/-- Bring-up begins (Tables 11-3, 13-9): BOOTS rises after a chip reset, the core and memory PLLs lock, the straps
last sampled show, BOOT is WAITMAN and Cellar training starts (R249, R412, R437). -/
def bringUp (s : State) : State :=
  let s := { s with chipHold := none
                    cr := { s.cr with boots := s.cr.boots + b1 (!s.pins.powerOn) }
                    pins := { s.pins with powerOn := false } }
  let s := fset (fset s (prvReg 0) 11 8 s.pins.strap.toNat) (prvReg 0) 2 0 1
  let s := fset s (clkReg 0) 1 0 3
  let s := { s with prov := { s.prov with manifestSince := now s } }
  (List.range 16).foldl (fun s g => fset s (celReg g 0) 11 11 0) s

/-- CHIP_RESET_HOLD_END: 100 µs after a chip reset that no pin holds, bring-up proceeds as if RESET_N had been
released. The Timebase has stood at 0. -/
def execChipResetHoldEnd (s : State) : Outc :=
  .next (if s.chipHold.isSome && s.pins.resetN && s.pins.pwrgood && !s.pins.tripped then
      bringUp { s with clk := s.clk + 94000 }
    else s)

/-! ### Fault Record Queues (R383, Table 13-2) -/

def curBad (s : State) : State := fbit s 0 15

/-- EVENT CTX_STOP of a core (Table 12-6). -/
def ctxStop (s : State) (g : Gal) (n : CoreId) (d0 d1 d2 d3 : Word) : State :=
  let c := coreAt s n
  galEvent s g 0x01 n.val [d0, d1, d2, d3, c.resumepc, cstatWord c]
def ctxStopNow (s : State) (g : Gal) (n : CoreId) : State :=
  let c := coreAt s n
  ctxStop s g n c.ecause c.epc c.eaddr c.einfo

/-- The Curator clears the exception of a core and resumes it (R68). -/
def curatorResume (s : State) (n : CoreId) : State :=
  if (coreAt s n).state = .stopped then
    nextOf s (execCtxResume n (modCore s n (fun c => { c with ecause := 0 })))
  else s

/-- The Gallery and core that an entry names. -/
def FEntry.gal (e : FEntry) : Option Gal := if bit e.w0 43 then some (Fin.ofNat 8 (bits e.w0 42 40)) else none
def FEntry.core (e : FEntry) : Option CoreId := if bit e.w0 39 then some (Fin.ofNat 128 (bits e.w0 38 32)) else none

/-- The service of a translation fault: a frame is mapped where none is; without one, the access fails. The
answer says whether it may go on; none while a migration runs. -/
def serviceFault (s : State) (g : Gal) (cls va : Nat) : Option (Bool × State) :=
  match translate s g va false with
  | .unmapped =>
    if cls = 1 then
      match mapFree s g (va / 2 ^ 17 % 2 ^ 31) true with
      | some t => some (true, t)
      | none => some (false, s)
    else some (false, s)
  | .migrating => none
  | .fmapUe => some (false, s)
  | _ => some (true, s)

/-- A failed core access is handled as KIND 0x01. -/
def failAccess (s : State) (g : Gal) (n : CoreId) (e : FEntry) : State :=
  let c := coreAt s n
  report s { kind := 1, cls := 3, unit := bits e.w0 47 44, gal := some g, core := some n
             d0 := c.ecause, d1 := c.epc, d2 := c.eaddr, d3 := c.einfo }

/-- The Curator's action on a KIND 0x03 entry. -/
def popTranslation (s : State) (e : FEntry) : State :=
  match e.gal with
  | none => s
  | some g =>
    let cls := bits e.w2 3 0
    let req := bits e.w2 9 8
    let q := bits e.w2 19 16
    if cls = 3 ∨ req = 3 then s
    else
      match serviceFault s g cls e.w3.toNat, e.core with
      -- MIGRATE_TIMEOUT: the requester goes on once the migration ends.
      | none, _ => { s with walker := { s.walker with timeouts := s.walker.timeouts ++ [e] } }
      | some (ok, t), some n =>
        if req = 0 then
          (if (coreAt t n).state = .stopped ∧ bits (coreAt t n).ecause 7 0 = 5 then
            (if ok then curatorResume t n else failAccess t g n e) else t)
        else if req = 1 then
          let q : Fin 2 := Fin.ofNat 2 q
          let t := if (coreAt t n).rq[q].tfault then
              nextOf t (if ok then execRkgResume n q t else execRkgFail n q t) else t
          if bit e.w5 0 ∧ bits (coreAt t n).ecause 7 0 = 5 then curatorResume t n else t
        else
          let i : Fin 4 := Fin.ofNat 4 q
          if t.slices[i] = [] then t else nextOf t (if ok then execColSliceResume i t else execColSliceFail i t)
      | some (_, t), none => t

/-- The action that Table 13-2 gives for an entry's KIND, as far as it has not been taken, and the EVENT it calls for. -/
def popAction (s : State) (e : FEntry) : State :=
  let kind := bits e.w0 55 48
  let cls := bits e.w0 59 56
  match e.gal, e.core with
  | some g, some n =>
    if kind = 1 ∨ kind = 5 then
      let s := ctxStop s g n e.w2 e.w3 e.w4 e.w5
      if cls = 3 then teardown s g else s
    else if kind = 2 then
      (if bits e.w2 7 0 = 3 then
        (if (coreAt s n).ecause = e.w2 ∧ (coreAt s n).epc = e.w3 then curatorResume s n else s)
      else ctxStop s g n e.w2 e.w3 e.w4 e.w5)
    else if kind = 3 then popTranslation s e
    else if kind = 4 then (if bits (coreAt s n).ecause 7 0 = 9 then ctxStopNow s g n else s)
    else if kind = 6 ∧ cls = 3 then teardown (ctxStopNow s g n) g
    else if kind = 8 then teardown s g
    else s
  | some g, none =>
    if kind = 6 ∧ cls = 3 then teardown (s.frq[frqOf (some g)].charged.foldl (fun s n => ctxStopNow s g n) s) g else if kind = 3 then popTranslation s e else s
  | _, _ => s

/-- FRQ_POP: the Curator has acted on the oldest entry and removes it. -/
def execFrqPop (q : Fin 9) (s : State) : Outc :=
  .next (match s.frq[q].ents with
    | [] => curBad s
    | e :: rest => popAction (setFrq s q { s.frq[q] with ents := rest }) e)

/-- FRQ_RESOLVE: HANDLING ends. -/
def execFrqResolve (q : Fin 9) (s : State) : Outc :=
  .next (if s.frq[q].handling then setFrq s q { s.frq[q] with handling := false, cause := 0, charged := [] } else curBad s)

/-! ### The NaN trap's arbiter (R168 to R171) -/

/-- Does event `a` come before `b`: earlier cycle, lower core, lower UNIT? -/
def nanBefore (a b : NanEvent) : Bool :=
  decide (a.cycle < b.cycle ∨ (a.cycle = b.cycle ∧ (a.core < b.core ∨ (a.core = b.core ∧ a.unit < b.unit))))

/-- The winning event. -/
def nanWinner (l : List NanEvent) : Option NanEvent :=
  l.foldl (fun b e =>
    match b with
    | none => some e
    | some x => if nanBefore e x then some e else b) none

/-- The trap fires: its record is held, the core stops, and the entry and EVENT are written. -/
def nanFire (s : State) (g : Gal) (e : NanEvent) : State :=
  let n : CoreId := Fin.ofNat 128 e.core
  let s := modGal s g (fun x => { x with fired := true })
  let s := fset s (glyReg g.val 0) 4 4 1
  let s := rset (rset (rset (rset s (glyReg g.val 0x70) e.w0) (glyReg g.val 0x78) e.w1)
    (glyReg g.val 0x80) e.w2) (glyReg g.val 0x88) e.w3
  let src := if e.unit = 0 then 0 else if e.unit = 2 then 2 else if e.unit ≤ 3 then 1 else 4
  let s := stopAt (dropStalls s (.core n)) n { code := 9, src := src, einfo := e.w2 } e.cls false e.pc (coreAt s n).pc
  let s := report s { kind := 4, cls := 2, unit := e.unit, gal := some g, core := some n
                      d0 := e.w0, d1 := e.w1, d2 := e.w2, d3 := e.w3 }
  galEvent s g 0x02 n.val [e.w0, e.w1, e.w2, e.w3]

/-- NAN_TRAP_ARBITRATE: the arbiter answers every event that has reached it; the first wins while ARMED. -/
def execNanTrapArbitrate (g : Gal) (s : State) : Outc :=
  let l := s.gal[g].nanQ
  let s := modGal s g (fun x => { x with nanQ := [] })
  let s := l.foldl (fun s e => modCore s (Fin.ofNat 128 e.core) (fun c => { c with nanWait := false })) s
  .next (if s.gal[g].fired then s
    else
      match nanWinner l with
      | none => s
      | some e => nanFire s g e)

/-! ### Replays (R389) -/

/-- The attribution log of the unit of a replay. -/
def replayLog (s : State) : List LogEnt :=
  if s.replay.reserve then s.resLog[(Fin.ofNat 16 s.replay.unit)] else s.engLog[(Fin.ofNat 128 s.replay.unit)]

/-- The replay ends, with the contexts that it charges; the others resume. -/
def endReplay (s : State) (charged : List CoreId) : State :=
  let r := s.replay
  let s := { s with replay := {} }
  let s := r.stopped.foldl (fun s n => if charged.contains n then s else curatorResume s n) s
  if charged = [] then s
  else
    let q := frqOf (some r.gallery)
    charge (setFrq s q { s.frq[q] with handling := false })
      { kind := 6, cls := 3, unit := 7, gal := some r.gallery
        d0 := mkWord [(0, if r.reserve then r.unit else r.unit / 8), (4, b1 r.reserve), (8, if r.reserve then 0 else r.unit)]
        d1 := BitVec.ofNat 64 (r.line % 2 ^ 48 / 64 * 64), d2 := BitVec.ofNat 64 r.suspects.length, d3 := 1 } charged

/-- One re-run is over. A suspect whose entry has been displaced charges every suspect. -/
def rerun (s : State) (reproduced : Bool) : State :=
  let r := s.replay
  if !r.active then s
  else
    let coreOf (e : LogEnt) : CoreId := Fin.ofNat 128 e.core
    if r.suspects.any (fun e => !(replayLog s).contains e) then endReplay s (r.suspects.map coreOf)
    else
      match r.suspects[r.runs]? with
      | none => endReplay s []
      | some e =>
        if reproduced then endReplay s [coreOf e]
        else
          let s := { s with replay := { r with runs := r.runs + 1 } }
          if r.suspects.length ≤ r.runs + 1 then endReplay s [] else s

/-- REPLAY_RERUN: the Curator has run the next suspect's logged work alone; did the error come again? -/
def execReplayRerun (reproduced : Bool) (s : State) : Outc := .next (rerun s reproduced)

/-- REPLAY_RERUN_TIMEOUT: a re-run that has not ended after 1 ms did not reproduce. -/
def execReplayRerunTimeout (s : State) : Outc :=
  .next (if s.replay.active then rerun (advanceBy s 1000000) false else s)

/-! ### Appraisal (R403, R405) -/

/-- APPRAISAL_HALVE: HALFLIFE hours end; every score is halved. -/
def execAppraisalHalve (s : State) : Outc :=
  let due := s.lastHalve + fget s 0x480 55 48 * 3600000000000
  let s := { advanceTo s due with lastHalve := due }
  .next ((s.scores.map Prod.fst).foldl (fun s c =>
    let x := score s c
    setScore s c { x with score := x.score / 2, advised := x.advised && decide (fget s 0x480 31 16 ≤ x.score / 2) }) s)

/-- ADVISORY_DEFERRED_ISSUE: the first deferred advisory is issued when the allowance returns. -/
def execAdvisoryDeferredIssue (s : State) : Outc :=
  .next (match s.deferred with
    | [] => s
    | c :: rest =>
      if advAllowed s then
        issueAdvisory { s with deferred := rest
                               advTimes := s.advTimes ++ (advHolders s).map (fun h => (h, now s)) } c
      else s)

/-! ### The Condition Report (R406, R408) -/

def crSeq (r : CrRec) : Nat := bits r.ent.w0 31 0

/-- Free the general entries at or below a SEQ. -/
def crFree (s : State) (seq : Nat) : State :=
  { s with cr := { s.cr with general := s.cr.general.filter (fun r => decide (seq < crSeq r)) } }

/-- CRP_CLEAR. -/
def execCrpClear (s : State) : Outc := .next (crFree s s.cr.rdsel.toNat)

/-- May a pinned record go: a row record whose channel has a KIND 0x0D record? -/
def mayUnpin (s : State) (r : CrRec) : Bool :=
  decide (bits r.ent.w0 55 48 = 0x0A) && s.cr.pinned.any (fun x =>
    decide (bits x.ent.w0 55 48 = 0x0D ∧ bits x.ent.w2 7 0 = bits r.ent.w2 7 0))

/-- CRP_UNPIN. -/
def execCrpUnpin (s : State) : Outc :=
  let hit (r : CrRec) : Bool := decide (crSeq r = s.cr.rdsel.toNat)
  .next (if s.cr.pinned.any (fun r => hit r && mayUnpin s r) then
      { s with cr := { s.cr with pinned := s.cr.pinned.filter (fun r => !hit r) } }
    else { s with cr := { s.cr with badcmd := true } })

end Sys2Proof.Machine
end

