-- ==== Sys2Proof/Machine/Boot.lean ====
section
/-! DEFINITION. Provenance: the manifest mailbox, the bundle's checks, identity, firmware images and boot,
measurements; the reset and power pins and the test access port (R409 to R424, R455, R456, R458 to R466). -/

namespace Sys2Proof.Machine

/-- The bytes of a part of a run. -/
def cut (b : List Byte) (o n : Nat) : List Byte := (b.drop o).take n

/-- The little-endian number in a part. -/
def num (b : List Byte) (o n : Nat) : Nat := leNat (cut b o n)

def allZero (b : List Byte) : Bool := b.all (fun x => decide (x = 0))

/-! ### Signed objects (R409) -/

/-- Both signatures of a message, of 64 and 3,309 bytes from an offset, verify under two keys. -/
def bothVerify (ed ml msg sigs : List Byte) : Bool :=
  Config.ed25519Verify ed msg (cut sigs 0 64) && Config.mldsaVerify ml msg (cut sigs 64 3309)

/-- Do two carried root keys have the digests of mask ROM? -/
def rootKeys (ed ml : List Byte) : Bool :=
  decide (sha512 ed = Config.romDigest0) && decide (sha512 ml = Config.romDigest1)

/-! ### Boot state (R421) -/

def setBoot (s : State) (b : Nat) : State := fset s (prvReg 0) 2 0 b

/-- The boot fails: it stays failed until the next chip reset. -/
def bootFail (s : State) (code : Nat) : State := setBoot (fset s (prvReg 0) 31 24 code) 5

/-- Fields of the manifest held (Table 14-3). -/
def minVintage (s : State) : Nat := num s.prov.manifest 2 2
def netPermitted (s : State) : Bool := bit (BitVec.ofNat 64 (num s.prov.manifest 8 1)) 1
def qspiPermitted (s : State) : Bool := bit (BitVec.ofNat 64 (num s.prov.manifest 8 1)) 0
def strapBoot (s : State) : Nat := fget s (prvReg 0) 9 8

/-! ### The bundle (R412 to R417, Tables 14-2, 14-3) -/

def bundleSize : Nat := 20685

/-- The bundle in the mailbox. -/
def bundle (s : State) : List Byte := (List.range bundleSize).map (fun i => (look none s.prov.mbox i).getD 0)

def mboxWhole (s : State) : Bool := (List.range bundleSize).all (fun i => (look none s.prov.mbox i).isSome)

/-- The body's form: FORMAT, and zero Reserved bytes and bits (R415). -/
def bodyOk (m : List Byte) : Bool :=
  decide (num m 0 2 = 1) && allZero (cut m 11 1) && allZero (cut m 30 2) && allZero (cut m 160 352)
    && decide (num m 8 1 < 4 ∧ num m 9 1 < 4 ∧ num m 18 2 < 2 ^ 15)

/-- Checks 1 to 3 of R414, and the body's form. -/
def bundleOk (b : List Byte) : Bool :=
  let ed := cut b 0 32
  let ml := cut b 32 1952
  rootKeys ed ml && bothVerify ed ml (cut b 1984 1984) (cut b 3968 3373)
    && bothVerify ed ml (cut b 7344 6080) (cut b 13424 3373)
    && bothVerify (cut b 1984 32) (cut b 2016 1952) (cut b 16800 512) (cut b 17312 3373)
    && bodyOk (cut b 16800 512)

def ascii (t : String) : List Byte := t.toList.map (fun c => BitVec.ofNat 8 c.toNat)

/-- The seeds that the PUF and helper data give (R416). -/
def deriveSeeds (count : Nat) (helper : List Byte) : Option (List Byte × List Byte) :=
  (Config.pufSecret count helper).map (fun k =>
    ((hmac512 k (ascii "OT1-ID-ED25519")).take 32, (hmac512 k (ascii "OT1-ID-MLDSA65")).take 32))

/-- Check 4: the derived keys are the record's, and their KEYID is the manifest's (R417). -/
def identityOk (b : List Byte) (k : List Byte × List Byte) : Bool :=
  let pk := Config.ed25519Public k.1 ++ Config.mldsaPublic k.2
  decide (pk = cut b 11440 1984) && decide (leNat ((sha512 pk).take 4) = num b 16804 4)

/-- What the manifest sets at boot (Table 14-1). A value outside the legal range of its ETH_ register is stored, cut to the
width of its field (log entry 94). -/
def applyManifest (s : State) (m : List Byte) : State :=
  let s := rset s (ethReg 0x10) (BitVec.ofNat 64 (num m 12 6))
  let c := ethReg 8
  let s := fset (fset s c 19 8 (num m 18 2 % 4096)) c 22 20 (num m 18 2 / 4096 % 8)
  let s := fset (fset (fset s c 29 24 (num m 28 1)) c 37 30 (num m 29 1)) c 2 2 (num m 9 1 / 2 % 2)
  let s := rset s (ethReg 0x18) (mkWord [(32, num m 24 4), (0, num m 20 4)])
  let s := rset (rset s (ethReg 0x20) (BitVec.ofNat 64 (num m 32 8))) (ethReg 0x28) (BitVec.ofNat 64 (num m 40 8))
  let s := rset (rset s (ethReg 0x30) (BitVec.ofNat 64 (num m 48 8))) (ethReg 0x38) (BitVec.ofNat 64 (num m 56 8))
  let s := fset s (tmbReg 8) 23 16 (num m 10 1)
  let s := fset s (prvReg 8) 31 16 (num m 2 2)
  fset s (prvReg 0) 14 14 (fget s (prvReg 0) 10 10 * (num m 9 1 % 2))

/-- The boot waits for a netboot: the ROM brings up the Ethernet port (R420). -/
def waitNet (s : State) : State := setBoot (fbit s (ethReg 8) 0) 3

/-- The boot goes on to the source that the straps name, within those the manifest permits (R411, R420). -/
def chooseSource (s : State) : State :=
  let b := strapBoot s
  if b = 3 then bootFail s 6
  else if b = 1 then (if netPermitted s then waitNet s else bootFail s 6)
  else if qspiPermitted s then s else bootFail s 6

/-- The checks of R414 on a complete bundle. -/
def checkBundle (s : State) : State :=
  let b := bundle s
  if !bundleOk b then bootFail s 2
  else
    let m := cut b 16800 512
    let rom := mkWord [(16, fget s (prvReg 0) 11 8), (0, Config.romRev.toNat)]
    let s := extendMeas s 0 1 (sha512 (leBytes 8 rom.toNat))
    let s := extendMeas s 1 2 (sha512 m)
    match deriveSeeds s.prov.pufCount (cut b 7344 4096) with
    | none => bootFail s 3
    | some k =>
      if !identityOk b k then bootFail s 3
      else
        let s := { s with prov := { s.prov with manifest := m, seeds := some k } }
        let s := rset s (prvReg 0x10) (BitVec.ofNat 64 (num b 16804 4))
        chooseSource (setBoot (applyManifest s m) 2)

/-! ### The mailbox over SMBus (R455, R456, Table 16-5) -/

def smbAnswer (s : State) (data : List Byte) (ack : Bool) : State := emit s (.smbus data ack)

/-- A transaction with a failing PEC is discarded whole. -/
def pecFail (s : State) : State := smbAnswer { s with pins := { s.pins with pecErr := true } } [] false

def mboxOpen (s : State) : Bool := decide (bootState s = 1) && !s.prov.mboxComplete

/-- The bytes of a block write from an offset, into the mailbox. -/
def mboxStore (s : State) : Nat → List Byte → State
  | _, [] => s
  | o, b :: bs =>
    let p := s.prov
    let s := { s with prov := if o < bundleSize then { p with mbox := put none o (some b) p.mbox }
                              else { p with mboxOverflow := true } }
    mboxStore s (o + 1) bs

/-- MBOX_WRITE: bundle bytes at an offset; a byte beyond the bundle is NACKed. -/
def execMboxWrite (off : BitVec 24) (data : List Byte) (pecOk : Bool) (s : State) : Outc :=
  .next (if !s.pins.pwrgood then s
    else if !pecOk then pecFail s
    else if !mboxOpen s then smbAnswer s [] false
    else smbAnswer (mboxStore s off.toNat data) [] (decide (off.toNat + data.length ≤ bundleSize)))

/-- MBOX_DONE: accepted once every byte has been written; the checks start. -/
def execMboxDone (value : Byte) (pecOk : Bool) (s : State) : Outc :=
  .next (if !s.pins.pwrgood then s
    else if !pecOk then pecFail s
    else if decide (value = 0xA5) && mboxOpen s && mboxWhole s then
      checkBundle (smbAnswer { s with prov := { s.prov with mboxComplete := true } } [] true)
    else smbAnswer s [] false)

/-- MBOX_STATUS_READ: the status goes out; OVERFLOW and PECERR clear. -/
def execMboxStatusRead (s : State) : Outc :=
  let v := mkWord [(3, b1 s.pins.pecErr), (2, b1 s.prov.mboxOverflow), (1, b1 s.prov.mboxComplete), (0, b1 (mboxOpen s))]
  .next (if !s.pins.pwrgood then s
    else smbAnswer { s with pins := { s.pins with pecErr := false }, prov := { s.prov with mboxOverflow := false } }
      (leBytes 1 v.toNat) true)

/-- MANIFEST_TIMEOUT: no complete bundle within 10 s. -/
def execManifestTimeout (s : State) : Outc :=
  .next (if bootState s = 1 then bootFail (advanceTo s (s.prov.manifestSince + 10000000000)) 1 else s)

/-! ### Firmware images (R418, R419) -/

/-- `n` bytes of a table from an offset. -/
def tblBytes (d : Byte) (t : Tbl Byte) (o n : Nat) : List Byte := (List.range n).map (fun i => look d t (o + i))

/-- Is a header, with the body it describes, a valid image? -/
def imageOk (h : List Byte) (body : Nat → List Byte) : Bool :=
  let len := num h 4 4
  decide (num h 0 2 = 1 ∧ len % 64 = 0 ∧ len ≤ 6 * 2 ^ 20) && rootKeys (cut h 80 32) (cut h 112 1952)
    && bothVerify (cut h 80 32) (cut h 112 1952) (cut h 0 80) (cut h 2064 3373)
    && decide (sha512 (body len) = cut h 16 64) && allZero (cut h 5437 2755)

/-! ### Bring-up (R347) -/

/-- Does reset training of some channel go on? -/
def training (s : State) : Bool := (List.range 16).any (fun g => !(chansIn s g 3).isEmpty)

/-- Boot and reset training have ended: the self-test runs, the ports whose ENABLE waits start, and the ZERO of every
group begins (Table 11-3, steps 3, 4 and 7). -/
def becomeReady (s : State) : State :=
  if bootState s ≠ 4 ∨ training s = true ∨ s.prov.selfTest.isSome = true then s
  else
    let s := { s with prov := { s.prov with selfTest := some (now s) } }
    let s := allPorts.foldl (fun s p => if s.ports[p].enableWait then enablePort s p else s) s
    (List.range 16).foldl (fun s g => zeroStart s (g * 2 ^ 20) (backedFrames s g)) s

/-- CHANNEL_TRAINING_DONE: reset training ends; with it the group has left self-refresh (R249). -/
def execChannelTrainingDone (group ch : Fin 16) (ok : Bool) (s : State) : Outc :=
  let g := group.val
  let c := ch.val
  .next (if deviceRuns s && decide (chState s g c = 3) then
      let s := fset s (celReg g 0) 11 11 0
      becomeReady (if ok then fset s (chReg g c) 9 8 0 else trainFail s g c)
    else s)

/-- The Curator starts: the body at offset 0 of its memory, the four management cores at ENTRY, MEAS[2] and
MEAS[3] extended. -/
def startCurator (s : State) (h body : List Byte) (slot : Nat) : State :=
  let s := { s with mem := s.mem.write curatorBase body }
  let s := extendMeas s 2 3 (sha512 (cut h 0 80))
  let s := extendMeas s 3 4 (sha512 (leBytes 8 (fget s (prvReg 0) 14 14)))
  let s := fset s (prvReg 8) 15 0 (num h 2 2)
  let s := fset (fset s (prvReg 0) 13 12 slot) (prvReg 0) 31 24 0
  let pc := BitVec.ofNat 64 (num h 8 8)
  becomeReady (setBoot { s with mgmt := s.mgmt.map (fun m => { m with pc := pc, halted := false }) } 4)

def flashHeader (s : State) (i : Fin 2) : List Byte := tblBytes 0xFF s.prov.flash[i] 0 8192
def flashBody (s : State) (i : Fin 2) (n : Nat) : List Byte := tblBytes 0xFF s.prov.flash[i] 8192 n

/-- The slots in rank order: the higher VINTAGE first, slot A first on a tie. -/
def slotOrder (s : State) : List (Fin 2) :=
  if num (flashHeader s 0) 2 2 < num (flashHeader s 1) 2 2 then [1, 0] else [0, 1]

def slotOld (s : State) (i : Fin 2) : Bool := decide (num (flashHeader s i) 2 2 < minVintage s)

/-- QSPI_IMAGE_LOAD: the first valid slot that is not too old boots; else the boot fails, or waits for a netboot. -/
def execQspiImageLoad (s : State) : Outc :=
  .next (if bootState s ≠ 2 then s
    else
      match ((slotOrder s).filter (fun i => !slotOld s i)).find? (fun i => imageOk (flashHeader s i) (flashBody s i)) with
      | some i => startCurator s (flashHeader s i) (flashBody s i (num (flashHeader s i) 4 4)) i.val
      | none =>
        let code := if slotOld s 0 || slotOld s 1 then 5 else 4
        if strapBoot s = 2 ∧ netPermitted s then waitNet (fset s (prvReg 0) 31 24 code) else bootFail s code)

/-- PRV_EXTEND: firmware extends MEAS[4] to MEAS[7] by PRV_EXTDATA (R423, R429). -/
def execPrvExtend (index : Fin 8) (s : State) : Outc :=
  .next (if index.val < 4 then fbit s (prvReg 0) 15
    else extendMeas s index 0x10 ((List.range 8).flatMap (fun i => leBytes 8 (rget s (prvReg (0x40 + 8 * i))).toNat)))

/-! ### Power and reset pins (R432, R433, R462 to R466) -/

/-- The device as a power-on reset leaves it; commands, the flash and what was sent stay outside it, and the free
values go on. The PUF SRAM takes a new pattern. -/
def powerOnReset (s : State) : State :=
  { State.reset with
    pending := s.pending, out := s.out, free := s.free
    prov := { flash := s.prov.flash, pufCount := s.prov.pufCount + 1 }
    pins := { pwrgood := false, resetN := s.pins.resetN, strap := s.pins.strap, refclk := s.pins.refclk } }

/-- PWRGOOD_DEASSERT: low for 1 µs or more. -/
def execPwrgoodDeassert (ns : Nat) (s : State) : Outc := .next (if ns < 1000 then s else powerOnReset s)

/-- PWRGOOD_ASSERT: REFCLK runs by then (Table 15-2). A RESET_N released already counts as released now (R464). -/
def execPwrgoodAssert (s : State) : Outc :=
  .next (if s.pins.pwrgood then s
    else
      let s := { s with pins := { s.pins with pwrgood := true, refclk := true } }
      if s.pins.resetN then bringUp s else s)

/-- RESET_N_ASSERT: low for 1 µs or more starts a chip reset with CAUSE 1, or extends one under way; after a
thermal trip it releases nothing. -/
def execResetNAssert (ns : Nat) (s : State) : Outc :=
  .next (if ns < 1000 ∨ s.pins.resetN = false then s
    else
      let low (s : State) : State := { s with pins := { s.pins with resetN := false } }
      if !s.pins.pwrgood || s.pins.tripped || s.chipHold.isSome || decide (bootState s = 0) then low s
      else { low (chipReset s 1 0) with chipHold := none })

/-- RESET_N_RELEASE: the straps are latched and bring-up starts, unless power, a trip or a command's hold forbids it. -/
def execResetNRelease (straps : BitVec 4) (s : State) : Outc :=
  .next (if s.pins.resetN && decide (bootState s ≠ 0) then s
    else
      let s := { s with pins := { s.pins with resetN := true, strap := straps } }
      if s.pins.pwrgood && !s.pins.tripped && s.chipHold.isNone then bringUp s else s)

/-- REFCLK_LOSS: every domain stops (R439). -/
def execRefclkLoss (s : State) : Outc := .next { s with pins := { s.pins with refclk := false } }

/-! ### The test access port (R422, R459) -/

/-- JTAG_INSTRUCTION: BYPASS, IDCODE and SAMPLE/PRELOAD always; the others only with DEBUG. What an instruction
that reaches core, Curator or register state does there, the spec does not say. -/
def execJtagInstruction (i : JtagInstr) (s : State) : Outc :=
  let debug := bit (rget s (prvReg 0)) 14
  let set : State := { s with pins := { s.pins with jtag := some i } }
  match i with
  | .bypass => .next set
  | .idcode => .next (emit set (.jtag 0x0F171A5B))
  | .samplePreload => .next set
  | .extest => .next (if debug then set else s)
  | .internal => if debug then .refused .jtagDeviceState else .next s

/-- TRST_N_ASSERT: Test-Logic-Reset. -/
def execTrstNAssert (s : State) : Outc := .next { s with pins := { s.pins with jtag := none } }

end Sys2Proof.Machine
end

