-- ==== Sys2Proof/Machine/Branch.lean ====
section
/-! DEFINITION. The branch instructions (R83, R84). -/

namespace Sys2Proof.Machine

/-- Branch to pc + 8 × DISP when a condition of the state holds. -/
def branchIf (h : Hart) (c : State → Bool) (disp : BitVec 40) (s : State) : Eff :=
  if c s then .jump s (getPc h s + dispBytes disp) else .done s

/-- br.cc. -/
def execBr (h : Hart) (cc : Cond) (sa sb : SReg) (disp : BitVec 40) (s : State) : Outc :=
  .next (issue h (.br h cc sa sb disp) 1 (fun s =>
    branchIf h (fun s => condHolds cc (getS h sa s) (getS h sb s)) disp s) s)

/-- call: sa = pc + 8; branch. -/
def execCall (h : Hart) (sa : SReg) (disp : BitVec 40) (s : State) : Outc :=
  .next (issue h (.call h sa disp) 1 (fun s =>
    .jump (setS h sa (getPc h s + 8) s) (getPc h s + dispBytes disp)) s)

/-- callr: target sa + 8 × DISP, sb = pc + 8 written after sa is read; a target that is not 8-byte
aligned faults (R84). -/
def execCallr (h : Hart) (sb sa : SReg) (disp : BitVec 40) (s : State) : Outc :=
  .next (issue h (.callr h sb sa disp) 1 (fun s =>
    let t := getS h sa s + dispBytes disp
    if t.toNat % 8 ≠ 0 then .fault (excAddress t.toNat)
    else .jump (setS h sb (getPc h s + 8) s) t) s)

/-- bp.cc: branch on a predicate register. -/
def execBp (h : Hart) (cc : PCond) (pn : PReg) (disp : BitVec 40) (s : State) : Outc :=
  .next (issue h (.bp h cc pn disp) 1 (ctxOnly h (fun n s =>
    branchIf h (fun s =>
      match cc with
      | .any => decide (getP n pn s ≠ 0)
      | .all => decide (getP n pn s = -1)
      | .none => decide (getP n pn s = 0)) disp s)) s)

/-- loop: sa = sa − 1; branch if the new sa ≠ 0. -/
def execLoop (h : Hart) (sa : SReg) (disp : BitVec 40) (s : State) : Outc :=
  .next (issue h (.loop h sa disp) 1 (fun s =>
    let t := setS h sa (getS h sa s - 1) s
    branchIf h (fun t => decide (getS h sa t ≠ 0)) disp t) s)

end Sys2Proof.Machine
end

