-- ==== Sys2Proof/Machine/Power.lean ====
section
/-! DEFINITION. Clocks, temperature, the thermal loop, voltage scaling and the slew limiter (R435 to R447), and the
Ethernet port's link (R351). -/

namespace Sys2Proof.Machine

/-! ### PLLs (R437, R439) -/

/-- The lock bit of CLK_STATUS, and the number of KIND 0x27. -/
def pllBit : Pll → Nat
  | .core => 0 | .memory => 1 | .ethernet => 2 | .port p => 16 + p.val
def pllCode : Pll → Nat
  | .core => 0 | .memory => 1 | .ethernet => 2 | .port p => 4 + p.val

/-- The Ethernet port loses its link. -/
def ethDown (s : State) : State := fset s (ethReg 0) 4 3 0

/-- PLL_LOCK_LOSS. Without REFCLK every domain stands still and nothing is recorded. -/
def execPllLockLoss (p : Pll) (s : State) : Outc :=
  let s := fincr (fset s (clkReg 0) (pllBit p) (pllBit p) 0) (clkReg 0) 63 32 1
  let e : Err := { kind := 0x27, cls := match p with
                     | .core => 5 | .memory => 5 | _ => 0
                   unit := 15, d0 := BitVec.ofNat 64 (pllCode p) }
  .next (if !s.pins.pwrgood || !s.pins.refclk then s
    else
      match p with
      | .ethernet => report (ethDown s) e
      | .port k =>
        let s := report s e
        if 1 ≤ linkState s k ∧ linkState s k ≤ 8 then linkDown s k 2 else s
      | _ => report s e)

/-- PLL_LOCK_ACQUIRED. -/
def execPllLockAcquired (p : Pll) (s : State) : Outc := .next (fset s (clkReg 0) (pllBit p) (pllBit p) 1)

/-- The DHCP clients begin as the link comes up: a DHCPv4 Discover and a DHCPv6 Solicit (R351). -/
def dhcpStart (s : State) : State := ethSend (ethSend s (.eth 5 [1])) (.eth 6 [1])

/-- ETHERNET_LINK_CHANGE: a port that is on gains or loses alignment and lock. `corr` and `uncorr` are the codewords
corrected and not correctable since the last change (ETH_FEC; log entry 91). -/
def execEthernetLinkChange (aligned : Bool) (corr uncorr : BitVec 32) (s : State) : Outc :=
  .next (if bit (rget s (ethReg 8)) 0 then
      let up := bit (rget s (ethReg 0)) 3
      let s := fset (fincr (fincr s (ethReg 0x50) 31 0 corr.toNat) (ethReg 0x50) 63 32 uncorr.toNat) (ethReg 0) 4 3 (3 * b1 aligned)
      let s := appraise s 0x125 (4 * uncorr.toNat)
      if aligned && !up && bit (rget s (ethReg 8)) 2 then dhcpStart s else s
    else ethDown s)

/-! ### Temperature (R440 to R442) -/

def tempReg (i : Nat) : Nat := pwrReg (0x100 + 8 * i)
def tempFail (s : State) (i : Nat) : Bool := bit (rget s (tempReg i)) 16
def tempOf (s : State) (i : Nat) : BitVec 16 := BitVec.ofNat 16 (fget s (tempReg i) 15 0)

def sensors : List (Fin 40) := (List.range 40).map (Fin.ofNat 40)
def failCount (s : State) : Nat := sensors.countP (fun i => tempFail s i.val)

/-- 100,000 samples of 10 µs are 1 s. -/
def stuckLimit : Nat := 100000

/-- One sensor's sample: does it fail now? -/
def sampleOne (changed : Bool) (s : State) (i : Fin 40) (r : BitVec 16) : State :=
  let same := decide (tempOf s i.val = r)
  let n := if !same then 0 else if changed then s.pins.sameRuns[i] + 1 else s.pins.sameRuns[i]
  let s := { s with pins := { s.pins with sameRuns := s.pins.sameRuns.set i n } }
  let s := fset s (tempReg i.val) 15 0 r.toNat
  if !tempFail s i.val && (Config.sensorOutOfRange r || decide (stuckLimit ≤ n)) then
    let second := decide (failCount s = 1)
    let s := fincr (fbit s (tempReg i.val) 16) (pwrReg 0x40) 15 0 1
    note s { kind := 0x26, cls := 0, unit := 15, d0 := BitVec.ofNat 64 i.val, d1 := mkWord [(16, b1 second)] }
  else s

/-- The hottest sensor that has not failed. -/
def hottest (s : State) : Option (Fin 40) :=
  sensors.foldl (fun b i =>
    if tempFail s i.val then b
    else
      match b with
      | none => some i
      | some k => if (tempOf s k.val).toInt < (tempOf s i.val).toInt then some i else b) none

def tmax (s : State) : BitVec 16 := BitVec.ofNat 16 (fget s (pwrReg 0) 31 16)

/-- The junction temperature that the responses act on: the HOT level once two sensors have failed. -/
def actTemp (s : State) : Int := if 2 ≤ failCount s then max (tmax s).toInt 0x6C0 else (tmax s).toInt

/-- The thermal trip: THERMTRIP_N is latched, and all but the sensors, clock control, the Condition Report and the
SMBus is held in reset until power-on. -/
def trip (s : State) (sensor : Nat) : State :=
  let s := report s { kind := 0x23, cls := 5, unit := 15, d0 := BitVec.ofNat 64 sensor
                      d1 := BitVec.ofNat 64 (tmax s).toNat }
  let t := chipCleared s
  let kept := s.dev.filter (fun e => decide (pwrReg 0 ≤ e.1))
  fbit { t with dev := kept, pins := { s.pins with tripped := true, jtag := none } } (pwrReg 0) 14

/-- The HOT limit begins or ends (R441). -/
def hotLimit (s : State) (sensor : Nat) : State :=
  let on := bit (rget s (pwrReg 0)) 13
  if !on && decide (0x6C0 ≤ actTemp s) then
    let e : Err := { kind := 0x22, cls := 0, unit := 15, d0 := BitVec.ofNat 64 sensor
                     d1 := BitVec.ofNat 64 (tmax s).toNat }
    let s := fincr (fbit s (pwrReg 0) 13) (pwrReg 0x40) 47 32 1
    let t := record s e 0 0
    (allGals.filter (isOpen t.2)).foldl (fun s g =>
      galEvent s g 0x04 0 [entryW0 e 0 0 t.1, BitVec.ofNat 64 (now s), e.d0, e.d1, 0, 0]) t.2
  else if on && decide (actTemp s < 0x690) then fset s (pwrReg 0) 13 13 0
  else s

/-- SENSOR_SAMPLE: 40 readings; the sensors domain runs while REFCLK and power are there. -/
def execSensorSample (readings : List (BitVec 16)) (s : State) : Outc :=
  .next (if !s.pins.pwrgood || !s.pins.refclk then s
    else
      let rd (i : Fin 40) : BitVec 16 := readings.getD i.val (tempOf s i.val)
      let changed (i : Fin 40) : Bool := sensors.any (fun k => decide (k ≠ i ∧ tempOf s k.val ≠ rd k))
      let t := sensors.foldl (fun t i => sampleOne (changed i) t i (rd i)) s
      match hottest t with
      | none => hotLimit t 0
      | some k =>
        let t := fset t (pwrReg 0) 31 16 (tempOf t k.val).toNat
        if t.pins.tripped then t
        else if 0x730 ≤ (tmax t).toInt then trip t k.val else hotLimit t k.val)

/-! ### The control loop (R443) -/

/-- Every engine's ENG_ACT_CEIL. -/
def setCeilings (s : State) (c : Nat) : State := allCores.foldl (fun s n => fset s (engReg n.val 0x20) 3 0 c) s

/-- THERMAL_LOOP: 1 ms passes; `est` is the estimate of the module's power. -/
def execThermalLoop (est : BitVec 16) (s : State) : Outc :=
  .next (if !deviceRuns s || !bit (rget s (pwrReg 8)) 1 then s
    else
      let s := fset s (pwrReg 0x20) 15 0 est.toNat
      let cap := fget s (pwrReg 0x18) 15 0
      let throt : Int := (BitVec.ofNat 16 (fget s (pwrReg 0x10) 15 0)).toInt
      let hot := decide (throt ≤ actTemp s)
      let high := decide (cap < est.toNat)
      let under := decide (actTemp s < throt - 48 ∧ 100 * est.toNat < 95 * cap)
      let top := if bit (rget s (pwrReg 0)) 11 then 4 else 8
      let old := s.pins.loopCeil
      let c := if hot || high then max (old - 1) 1 else if under then min (old + 1) top else min old top
      let s := setCeilings { s with pins := { s.pins with loopCeil := c } } c
      let d1 := mkWord [(0, (tmax s).toNat), (32, est.toNat)]
      if c < 8 ∧ bit (rget s (pwrReg 0)) 12 = false then
        note (fincr (fbit s (pwrReg 0) 12) (pwrReg 0x40) 63 48 1)
          { kind := 0x20, cls := 0, unit := 15, d0 := mkWord [(0, b1 hot), (1, b1 high)], d1 := d1 }
      else if c = 8 ∧ bit (rget s (pwrReg 0)) 12 = true then
        note (fset s (pwrReg 0) 12 12 0) { kind := 0x21, cls := 0, unit := 15, d1 := d1 }
      else s)

/-! ### Adaptive voltage scaling (R435, R436) -/

def avsTarget (s : State) : Nat := fget s (pwrReg 0x30) 11 0
def avsApplied (s : State) : Nat := fget s (pwrReg 0x30) 27 16

/-- A change of TARGET: SEQ counts it and, as every counter, saturates (R447). -/
def setTarget (s : State) (v : Nat) : State :=
  let up := decide (avsTarget s < v)
  let s := fincr (fset s (pwrReg 0x30) 11 0 v) (pwrReg 0x30) 47 32 1
  { s with pins := if up then { s.pins with avsRaised := some (now s) } else { s.pins with avsLowered := some (now s) } }

/-- TARGET follows the margin. -/
def adjustTarget (s : State) (margin low high : Nat) : State :=
  let t := avsTarget s
  let rested := match s.pins.avsLowered with
    | none => true
    | some m => decide (m + 100000000 ≤ now s)
  if bit (rget s (pwrReg 8)) 0 = false then (if t = 820 then s else setTarget s 820)
  else if margin < low ∧ t < 820 then setTarget s (min (t + 10) 820)
  else if high < margin ∧ avsApplied s = t ∧ rested = true ∧ 725 ≤ t then setTarget s (t - 5)
  else s

/-- Has APPLIED lagged a raise for 20 ms? -/
def avsLag (s : State) : Bool :=
  match s.pins.avsRaised with
  | none => false
  | some m => decide (m + 20000000 ≤ now s ∧ avsApplied s < avsTarget s)

/-- AVS_PERIOD: 10 ms pass; the least margin is read, TARGET adjusted, and the hold begins or ends. -/
def execAvsPeriod (margin low high : BitVec 16) (s : State) : Outc :=
  .next (if !deviceRuns s then s
    else
      let s := fset s (pwrReg 0x38) 15 0 margin.toNat
      let s := adjustTarget s margin.toNat low.toNat high.toNat
      let on := bit (rget s (pwrReg 8)) 0
      let lag := on && avsLag s
      let limit := on && decide (avsTarget s = 820 ∧ margin.toNat < low.toNat)
      if bit (rget s (pwrReg 0)) 11 then
        (if avsApplied s = avsTarget s ∧ low.toNat ≤ margin.toNat then fset s (pwrReg 0) 11 11 0 else s)
      else if lag then
        note (fincr (fbit s (pwrReg 0) 11) (pwrReg 0x40) 31 16 1)
          { kind := 0x24, cls := 0, unit := 15, d0 := BitVec.ofNat 64 (avsTarget s), d1 := BitVec.ofNat 64 (avsApplied s) }
      else if limit then
        note (fincr (fbit s (pwrReg 0) 11) (pwrReg 0x40) 31 16 1)
          { kind := 0x25, cls := 0, unit := 15, d0 := BitVec.ofNat 64 margin.toNat }
      else s)

/-! ### The slew limiter (R444) -/

/-- Grant rises in engine order from engine `i`: the requests refused, and the last engine granted. -/
def grant (req : BitVec 128) : Nat → Nat → Nat → BitVec 128 → Nat → BitVec 128 × Nat
  | 0, _, _, refused, last => (refused, last)
  | fuel + 1, i, left, refused, last =>
    let k := i % 128
    if !bit req k then grant req fuel (i + 1) left refused last
    else if left = 0 then grant req fuel (i + 1) 0 (refused ||| (1 <<< k)) last
    else grant req fuel (i + 1) (left - 1) refused k

/-- SLEW_WINDOW: 1 µs passes; each engine of `requests` asks for one step rise. -/
def execSlewWindow (requests : BitVec 128) (s : State) : Outc :=
  let r := grant requests 128 (s.pins.slewLast + 1) (fget s (pwrReg 0x28) 10 0) 0 s.pins.slewLast
  .next { s with pins := { s.pins with slewRefused := r.1, slewLast := r.2 } }

end Sys2Proof.Machine
end

