-- ==== Sys2Proof/Machine/Seal.lean ====
section
/-! DEFINITION. The Step Seal: its instructions, its packets and its timers (R107 to R111, R325 to R327). -/

namespace Sys2Proof.Machine

/-- An effect on the Gallery of a core; a core outside every Gallery issues nothing. -/
def onGallery (n : CoreId) (s : State) (f : Gal → Eff) : Eff :=
  match coreOwner s n with
  | none => .done s
  | some g => f g

/-- sopen: open step sa, join it, or refuse with MISMATCH (R108). The step is sa[31:0] (log
entry 107). -/
def execSopen (h : Hart) (sd sa : SReg) (s : State) : Outc :=
  .next (issue h (.sopen h sd sa) 6 (ctxOnly h (fun n s => onGallery n s (fun g =>
    let x := s.gal[g].stepSeal
    let step := (getS h sa s).setWidth 32
    match x.st with
    | .idle | .clean | .dirty => .done (setS h sd 0 (modSeal s g (fun x => sealOpen x step n)))
    | .open =>
      if x.step = step then
        .done (setS h sd 0 (modSeal s g (fun x =>
          { x with parts := if x.parts.contains n then x.parts else x.parts ++ [n]
                   gone := x.gone.filter (fun e => decide (e.1 ≠ n)) })))
      else .done (setS h sd 1 (sealMark s g rsnMismatch none))
    | .closing => .done (setS h sd 1 (sealMark s g rsnMismatch none))))) s)

/-- End a context's participation; the last one forms the contribution (R108, R325). -/
def leaveSeal (s : State) (g : Gal) (n : CoreId) : State :=
  let s := modSeal s g (fun x => { x with parts := x.parts.filter (fun c => decide (c ≠ n)) })
  if s.gal[g].stepSeal.parts = [] then sealContribute s g else s

/-- sclose (R109, R111): a participant ends its part and waits for the outcome of its step, also where a stop has it
re-execute; any other context waits while the seal is CLOSING; then sd = the result word. -/
def execSclose (h : Hart) (sd : SReg) (s : State) : Outc :=
  .next (issue h (.sclose h sd) 6 (ctxOnly h (fun n s => onGallery n s (fun g =>
    let x := s.gal[g].stepSeal
    let me := (n, (coreAt s n).pc)
    let finish (t : State) : Eff := .done (setS h sd (sealWord t.gal[g].stepSeal) t)
    if x.st = .open ∧ x.parts.contains n = true then
      let t := leaveSeal (modSeal s g (fun y => { y with gone := y.gone ++ [me] })) g n
      if t.gal[g].stepSeal.st = .open ∨ t.gal[g].stepSeal.st = .closing then .hold t else finish t
    else if x.st = .closing ∨ (x.st = .open ∧ x.gone.contains me = true) then .hold s
    else finish s))) s)

/-- sstat: the result word for the present state. -/
def execSstat (h : Hart) (sd : SReg) (s : State) : Outc :=
  .next (issue h (.sstat h sd) 6 (ctxOnly h (fun n s => onGallery n s (fun g =>
    .done (setS h sd (sealWord s.gal[g].stepSeal) s)))) s)

/-- sadv: advance the step counter at most once for each clean close (R110); the advance may start a
mirror pass (R329). -/
def execSadv (h : Hart) (sd : SReg) (s : State) : Outc :=
  .next (issue h (.sadv h sd) 6 (ctxOnly h (fun n s => onGallery n s (fun g =>
    let x := s.gal[g].stepSeal
    let r := glyReg g.val 0x68
    if x.st ≠ .clean then .done (setS h sd 0 s)
    else if x.advanced then .done (setS h sd (BitVec.ofNat 64 (fget s r 31 0)) s)
    else
      let v := (fget s r 31 0 + 1) % 2 ^ 32
      let t := modSeal (fset s r 31 0 v) g (fun x => { x with advanced := true })
      .done (setS h sd (BitVec.ofNat 64 v) (mirrorStart t g v))))) s)

/-- smark: mark the open step, or the next one opened, with a software reason. -/
def execSmark (h : Hart) (sa : SReg) (s : State) : Outc :=
  .next (issue h (.smark h sa) 6 (ctxOnly h (fun n s => onGallery n s (fun g =>
    .done (sealMark s g rsnSmark (some ((getS h sa s).setWidth 8)))))) s)

/-! ### Packets and timers (R326, R327) -/

/-- A SEAL packet taken for a step, unless it is a duplicate. -/
def keepPkt (l : List SealPkt) (p : SealPkt) : List SealPkt :=
  if l.any (fun q => decide (q.phase = p.phase ∧ q.src = p.src)) then l else l ++ [p]

/-- A SEAL packet's content. -/
def sealPktOf (p : Packet) : SealPkt :=
  { phase := bits p.w3 17 16, src := BitVec.ofNat 16 p.src, reason := BitVec.ofNat 8 (bits p.w3 15 8)
    tc := leNat (p.payload.take 8) }

/-- SEAL_PACKET_RECEIVE: kept for the current step or for one other step; the phases advance as far as
they can (R326). -/
def execSealPacketReceive (p : PortId) (pkt : Packet) (s : State) : Outc :=
  let s := dropInbox s p pkt
  let g := pkt.gallery
  let x := s.gal[g].stepSeal
  let step := BitVec.ofNat 32 pkt.type0
  let k := sealPktOf pkt
  .next (if !isOpen s g then s
    else if (x.st = .open ∨ x.st = .closing) ∧ x.step = step then
      sealAdvance 6 (modSeal s g (fun y => { y with cur := keepPkt y.cur k })) g
    else if x.decided.contains step then s
    else if x.otherStep = none then
      modSeal s g (fun y => { y with otherStep := some step, other := [k] })
    else if x.otherStep = some step then
      modSeal s g (fun y => { y with other := keepPkt y.other k })
    else s)

/-- SEAL_RESEND: the packets of every phase entered go out again, until the Timebase has passed T_eff (R326). -/
def execSealResend (g : Gal) (s : State) : Outc :=
  let x := s.gal[g].stepSeal
  let past := x.cleanWait || (x.gathered && decide ((rget s (colGal g.val 0x28)).toNat < now s))
  .next (if x.st = .closing ∧ past = false then x.sent.foldl (fun s e => sendPhase s g e.1 e.2.1 e.2.2) s else s)

/-- SEAL_TEFF_REACHED: the Timebase reaches T_eff and the close is decided; a clean outcome waits for a
running mirror pass (R327). -/
def execSealTeffReached (g : Gal) (s : State) : Outc :=
  let x := s.gal[g].stepSeal
  .next (if x.st = .closing ∧ x.gathered ∧ !x.cleanWait then
      let teff := (rget s (colGal g.val 0x28)).toNat
      let s := advanceTo s teff
      let lost := countedLoss x teff
      if x.reason = 0 ∧ !lost then
        if s.gal[g].mtx.running then modSeal s g (fun y => { y with cleanWait := true })
        else sealDecide s g true 0 (some teff)
      else sealDecide s g false (if lost then x.reason ||| rsnPeer else x.reason) (some teff)
    else s)

/-- SEAL_LOSS_TIMEOUT: a close that cannot complete its phases closes DIRTY, with peer lost, 100 µs after a
LOSS notice arrived (R327). -/
def execSealLossTimeout (g : Gal) (s : State) : Outc :=
  let x := s.gal[g].stepSeal
  .next (match x.losses with
    | [] => s
    | l :: _ =>
      if x.st = .closing ∧ !x.gathered then
        sealDecide (advanceTo s (l.2 + 100000)) g false (x.reason ||| rsnPeer) none
      else s)

/-- SEAL_ABANDON: the Curator's command closes a CLOSING seal DIRTY at once, with the smark reason and
SWREASON 0; in any other state it sets BADCMD (R327, R331). -/
def execSealAbandon (g : Gal) (s : State) : Outc :=
  let x := s.gal[g].stepSeal
  .next (if x.st = .closing then
      let s := fbit s (colGal g.val 0x20) 18
      let s := modSeal s g (fun y => { y with sw := some 0 })
      sealDecide s g false (x.reason ||| rsnSmark) none
    else fbit s (colGal g.val 0) 15)

end Sys2Proof.Machine
end

