-- ==== Sys2Proof/Machine/Registers.lean ====
section
/-! DEFINITION. Device register space and the control registers: what each register reads as, what a write does, and
who reaches it (R10 to R15, R20, R46, R47, R70, Tables 2-15 to 2-19 and the register tables of every chapter). -/

namespace Sys2Proof.Machine

/-- The access codes of Table 0-3. -/
inductive Acc where
  | rw | w1c | rc | rwl | wo
  deriving DecidableEq, Repr

/-- A field that is not read-only: its highest and lowest bit, and its access code. -/
abbrev Fld := Nat × Nat × Acc

/-! ### The fields (a register that is not listed is reserved, R47) -/

def engFields (o : Nat) : Option (List Fld) :=
  if o = 0 then some [(11, 11, .w1c), (6, 6, .w1c), (5, 5, .w1c), (4, 4, .w1c), (3, 3, .w1c)]
  else if o = 0x10 then some [(31, 0, .rc)]
  else if o = 0x18 then some [(31, 16, .rc), (15, 0, .rc)]
  else if o = 0x20 then some [(3, 0, .rw)]
  else if o ≤ 0x70 then some [] else none

def vecFields (o : Nat) : Option (List Fld) :=
  if o = 0 then some [(15, 15, .w1c), (14, 14, .w1c), (6, 6, .w1c), (5, 5, .w1c)]
  else if o = 0x08 ∨ o = 0x10 ∨ o = 0x60 then some [(31, 0, .rc)]
  else if o = 0x50 then some [(7, 0, .rw)]
  else if o ≤ 0x58 then some [(31, 0, .rw)] else none

def rkgFields (o : Nat) : Option (List Fld) :=
  if o = 0 then some [(15, 15, .w1c), (14, 14, .w1c)]
  else if o = 0x08 ∨ o = 0x10 then some [(31, 30, .rw), (23, 8, .rw), (3, 0, .rw)]
  else if o = 0x58 ∨ o = 0x60 then some [(3, 0, .wo)]
  else if o = 0x68 then some [(63, 0, .rc)]
  else if o < 0x58 then some [] else none

def chkFields (o : Nat) : Option (List Fld) :=
  if 0x200 ≤ o then none
  else
    let r := o % 0x80
    if r = 0 then some [(63, 40, .rw), (39, 16, .rw), (13, 13, .rw), (12, 12, .rw), (11, 6, .rw), (5, 5, .rw), (4, 4, .rw), (3, 2, .rw)]
    else if r = 8 then some [(7, 7, .w1c), (6, 6, .w1c), (5, 5, .w1c), (4, 4, .w1c), (1, 0, .wo)]
    else if r = 0x10 then some []
    else if r = 0x18 ∨ r = 0x20 ∨ r = 0x28 then some [(63, 0, .rw)]
    else if 0x40 ≤ r then some [] else none

def curFields (o : Nat) : Option (List Fld) :=
  if o = 0 then some [(15, 15, .w1c)]
  else if o = 8 then some [(3, 0, .wo)]
  else if 0x100 ≤ o ∧ o < 0x340 then
    let r := o % 0x40
    if r = 0 then some [(39, 32, .rc)] else if r = 8 then some [(1, 0, .wo)] else some []
  else if 0x400 ≤ o ∧ o < 0x480 then some [(63, 48, .rc), (47, 32, .rc), (31, 16, .rc), (15, 0, .rc)]
  else if o = 0x480 then some [(63, 56, .rw), (55, 48, .rw), (47, 32, .rw), (31, 16, .rw)]
  else if o = 0x488 then some [(9, 0, .rw)]
  else if o = 0x498 then some [(63, 32, .rc)]
  else if o = 0x490 ∨ o = 0x4A0 ∨ o = 0x4A8 then some [] else none

def fmpFields (o : Nat) : Option (List Fld) :=
  if o = 0 then some [(15, 15, .w1c), (13, 13, .w1c)]
  else if o = 8 then some [(3, 0, .wo)]
  else if o = 0x10 ∨ o = 0x18 then some [(63, 0, .rw)]
  else if o = 0x20 then some []
  else if o = 0x28 ∨ o = 0x30 then some [(63, 0, .rc)]
  else if o = 0x38 then some [(63, 32, .rc), (31, 0, .rc)]
  else if 0x80 ≤ o ∧ o < 0x100 then some [] else none

def celFields (o : Nat) : Option (List Fld) :=
  if o = 0 then some [(15, 15, .w1c)]
  else if o = 8 then some [(7, 4, .wo), (3, 0, .wo)]
  else if o = 0x10 then some [(47, 32, .rw), (23, 16, .rw), (7, 0, .rw)]
  else if o = 0x18 then some [(8, 8, .rw), (7, 0, .rw)]
  else if o = 0x20 then some [(63, 63, .rc), (62, 61, .rc), (59, 56, .rc), (36, 6, .rc)]
  else if 0x100 ≤ o ∧ o < 0x180 then some []
  else if 0x180 ≤ o ∧ o < 0x200 then some [(63, 48, .rc), (47, 32, .rc), (31, 0, .rc)]
  else if 0x1000 ≤ o ∧ o < 0x3000 then some [(63, 63, .rw), (29, 26, .rw), (25, 9, .rw), (7, 0, .rw)]
  else none

def trlFields (o : Nat) : Option (List Fld) :=
  if o = 0 then some [(15, 15, .w1c)]
  else if o = 8 then some [(0, 0, .rw)]
  else if o = 0x10 then some [(1, 1, .rw), (0, 0, .wo)]
  else if o = 0x18 then some [(63, 48, .rw), (47, 32, .rw), (19, 16, .rw), (15, 0, .rw)]
  else if o = 0x20 then some [(31, 16, .rw), (15, 0, .rw)]
  else if 0x40 ≤ o ∧ o < 0x80 then some [(63, 63, .rw), (51, 48, .rw), (47, 32, .rw), (31, 16, .rw), (15, 0, .rw)]
  else if 0x80 ≤ o ∧ o < 0xE0 then some [(63, 63, .rw), (62, 62, .rw), (55, 52, .rw), (47, 32, .rw), (31, 0, .rw)]
  else if o = 0x100 ∨ o = 0x118 then some [(63, 32, .rc), (31, 0, .rc)]
  else if o = 0x108 then some [(63, 48, .rc), (47, 32, .rc), (31, 0, .rc)]
  else if o = 0x110 then some [(31, 0, .rc)] else none

def lnkFields (o : Nat) : Option (List Fld) :=
  if o = 0 then some [(16, 16, .w1c)]
  else if o = 8 then some [(3, 0, .wo)]
  else if o = 0x10 then some [(47, 40, .rw), (39, 32, .rw), (31, 16, .rw), (15, 0, .rw)]
  else if o = 0x18 ∨ o = 0x20 ∨ o = 0x68 then some []
  else if o = 0x28 ∨ o = 0x30 ∨ o = 0x50 then some [(63, 32, .rc), (31, 0, .rc)]
  else if o = 0x38 then some [(63, 32, .rc), (31, 16, .rc), (15, 8, .rc)]
  else if o = 0x40 then some ((List.range 8).map (fun g => (8 * g + 7, 8 * g, .rwl)))
  else if o = 0x48 then some [(7, 0, .rw)]
  else if o = 0x58 then some ((List.range 9).map (fun g => (g, g, .w1c)))
  else if o = 0x60 then some [(31, 0, .rc)] else none

def colFields (o : Nat) : Option (List Fld) :=
  if o < 0x40000 then
    let r := o % 0x10000
    if r = 0 then some [(15, 15, .w1c)] else if r = 8 then some []
    else if r = 0x10 then some [(3, 0, .wo)] else if r = 0x18 then some [(63, 32, .rc), (31, 0, .rc)] else none
  else if o = 0x80000 then some [(24, 24, .w1c), (23, 16, .rw), (15, 0, .rw)]
  else if o = 0x80008 then some [(63, 32, .rc), (31, 0, .rc)]
  else if 0x100000 ≤ o ∧ o < 0x108000 then
    let r := o % 0x1000
    if r = 0 then some [(15, 15, .w1c), (14, 14, .w1c)]
    else if r = 8 then some [(31, 16, .wo), (3, 0, .wo)]
    else if r = 0x10 then some [(63, 32, .rc), (31, 0, .rc)]
    else if r = 0x18 then some [(19, 16, .wo), (13, 0, .rw)]
    else if r = 0x20 then some [(19, 19, .w1c), (18, 18, .w1c)]
    else if r = 0x30 then some [(63, 63, .rw), (39, 17, .rw), (7, 0, .rw)]
    else if r = 0x38 ∨ r = 0x40 then some [(47, 0, .rw)]
    else if r = 0x48 then some [(2, 2, .w1c)]
    else if r = 0x28 ∨ r = 0x50 then some [] else none
  else none

def tmbFields (o : Nat) : Option (List Fld) :=
  if o = 0 then some [(15, 15, .w1c), (14, 14, .w1c), (13, 13, .w1c)]
  else if o = 8 then some [(23, 16, .rw), (15, 8, .rw), (2, 2, .rw), (1, 1, .rw), (0, 0, .rw)]
  else if o ≤ 0x38 then some []
  else if 0x80 ≤ o ∧ o < 0xE0 then some [(15, 0, .rw)]
  else if 0x100 ≤ o ∧ o < 0x200 then
    let r := o % 0x20
    if r = 0 ∨ r = 0x10 then some [(63, 0, .rw)] else if r = 8 then some [(31, 0, .rw)]
    else some [(3, 3, .w1c), (2, 2, .w1c), (1, 1, .w1c), (0, 0, .rw)]
  else none

def crpFields (o : Nat) : Option (List Fld) :=
  if o = 0 then some [(15, 15, .w1c)]
  else if o = 0x18 then some [(63, 32, .rc)]
  else if o = 0x28 then some [(31, 0, .rw)]
  else if o = 0x30 then some [(3, 0, .wo)]
  else if o ≤ 0x20 ∨ (0x40 ≤ o ∧ o < 0x80) then some [] else none

def prvFields (o : Nat) : Option (List Fld) :=
  if o = 0 then some [(15, 15, .w1c)]
  else if o = 0x18 then some [(6, 4, .wo), (3, 0, .wo)]
  else if o ≤ 0x20 then some []
  else if 0x40 ≤ o ∧ o < 0x80 then some [(63, 0, .rw)]
  else if 0x100 ≤ o ∧ o < 0x300 then some [] else none

def ethFields (o : Nat) : Option (List Fld) :=
  if o = 0 then some [(15, 15, .w1c)]
  else if o = 8 then some [(37, 30, .rw), (29, 24, .rw), (22, 20, .rw), (19, 8, .rw), (6, 4, .rw), (3, 3, .rw), (2, 2, .rw),
    (1, 1, .rw), (0, 0, .rw)]
  else if o = 0x10 then some [(47, 0, .rw)]
  else if o = 0x18 then some [(63, 32, .rw), (31, 0, .rw)]
  else if o ≤ 0x38 then some [(63, 0, .rw)]
  else if o = 0x40 then some [(35, 32, .rw), (31, 16, .rw), (15, 0, .rw)]
  else if o = 0x48 ∨ o = 0x50 then some [(63, 32, .rc), (31, 0, .rc)]
  else if o = 0x58 then some [(63, 48, .rc), (47, 32, .rc), (31, 24, .rc), (23, 12, .rc), (11, 0, .rc)]
  else if 0x100 ≤ o ∧ o < 0x180 then some [] else none

def glyFields (o : Nat) : Option (List Fld) :=
  if o = 0 then some [(15, 15, .w1c), (14, 14, .w1c)]
  else if o = 8 then some [(3, 0, .wo)]
  else if o = 0x10 ∨ o = 0x18 then some [(15, 0, .rwl)]
  else if o = 0x20 ∨ o = 0x28 then some [(63, 0, .rwl)]
  else if o = 0x30 then some [(1, 0, .rwl)]
  else if o ≤ 0x50 then some [(63, 0, .rwl)]
  else if o = 0x58 then some [(63, 63, .rwl), (27, 24, .rwl), (23, 6, .rwl)]
  else if o = 0x60 then some []
  else if o = 0x68 then some [(31, 0, .rw)]
  else if o ≤ 0x88 then some []
  else if o = 0x90 then some [(63, 32, .rc), (31, 0, .rc)]
  else if o = 0x98 then some [(0, 0, .rwl)] else none

def pwrFields (o : Nat) : Option (List Fld) :=
  if o = 0 then some [(15, 15, .w1c)]
  else if o = 8 then some [(1, 1, .rw), (0, 0, .rw)]
  else if o = 0x10 ∨ o = 0x18 then some [(15, 0, .rw)]
  else if o = 0x28 then some [(10, 0, .rw)]
  else if o = 0x30 then some [(27, 16, .rw)]
  else if o = 0x40 then some [(63, 48, .rc), (47, 32, .rc), (31, 16, .rc), (15, 0, .rc)]
  else if o ≤ 0x48 ∨ (0x100 ≤ o ∧ o < 0x240) then some [] else none

def clkFields (o : Nat) : Option (List Fld) :=
  if o = 0 then some [(63, 32, .rc)] else if 0x100 ≤ o ∧ o < 0x2E0 then some [] else none

/-- The fields of a block register; none for an offset that the tables do not list. The core control ports apart. -/
def fields (off : Nat) : Option (List Fld) :=
  let b := off / 0x1000000
  let o := off % 0x1000000
  if off % 8 ≠ 0 then none
  else if b = 0x00 then curFields o
  else if b = 0x02 then (if o < 0x80000 then engFields (o % 0x1000) else none)
  else if b = 0x03 then
    (if o < 0x80000 then vecFields (o % 0x1000)
     else if 0x800000 ≤ o ∧ o < 0x810000 ∧ o % 0x1000 = 0 then some [(31, 0, .rc)] else none)
  else if b = 0x04 then
    (if o < 0x80000 then rkgFields (o % 0x1000) else if o = 0x800000 then some [(31, 0, .rc)] else none)
  else if b = 0x05 then (if o < 0x80000 then chkFields (o % 0x1000) else none)
  else if b = 0x06 then fmpFields o
  else if b = 0x07 then (if o < 0x100000 then celFields (o % 0x10000) else none)
  else if b = 0x08 then trlFields o
  else if b = 0x09 then (if o < 0xC0000 then lnkFields (o % 0x10000) else none)
  else if b = 0x0A then colFields o
  else if b = 0x0B then tmbFields o
  else if b = 0x0C then crpFields o
  else if b = 0x0D then prvFields o
  else if b = 0x0E then ethFields o
  else if b = 0x0F then (if o < 0x8000 then glyFields (o % 0x1000) else none)
  else if b = 0x10 then pwrFields o
  else if b = 0x11 then clkFields o
  else none

/-! ### The instance of a register -/

def coreNo (k : Nat) : CoreId := Fin.ofNat 128 k
/-- Core, group, port, slice and Gallery of an offset of their blocks. -/
def offCore (off : Nat) : CoreId := coreNo (off / 0x1000 % 128)
def offGroup (off : Nat) : Fin 16 := Fin.ofNat 16 (off / 0x10000 % 16)
def offPort (off : Nat) : PortId := Fin.ofNat 12 (off / 0x10000 % 16)
def offSlice (off : Nat) : Fin 4 := Fin.ofNat 4 (off / 0x10000 % 4)
def offGal (off : Nat) : Gal := Fin.ofNat 8 (off / 0x1000 % 8)

/-! ### What registers read as, where the value is not the stored one -/

/-- Frequency of a clock domain in kHz (Table 15-3). -/
def domFreq (d : Nat) : Nat :=
  if d < 16 then 940000 else if d < 32 then 800000 else if d < 40 then 850000 else if d < 44 then 800000
  else if d < 48 then 1880000 else if d = 48 then 940000 else if d = 49 then 1062500 else if d = 50 then 470000
  else if d = 51 ∨ d = 53 ∨ d = 55 then 235000 else if d = 54 ∨ d = 56 ∨ d = 57 then 100000 else 940000

/-- Is a clock domain gated (Table 15-3)? -/
def domGated (s : State) (d : Nat) : Bool :=
  if d < 16 then (clusterOwner s d).isNone
  else if d < 32 then bit (rget s (celReg (d - 16) 0)) 11
  else if d < 44 then decide (fget s (lnkReg (d - 32) 0) 3 0 = 0xB)
  else if d = 48 ∨ d = 49 then !bit (rget s (ethReg 8)) 0
  else false

/-- Does the source of a clock domain run: its PLL locked, or REFCLK itself? -/
def domSource (s : State) (d : Nat) : Bool :=
  let pll (i : Nat) : Bool := bit (rget s (clkReg 0)) i
  s.pins.refclk && (if 16 ≤ d ∧ d < 32 then pll 1 else if 32 ≤ d ∧ d < 44 then pll (d - 16)
    else if d = 49 then pll 2 else if d = 54 ∨ d = 56 ∨ d = 57 then true else pll 0)

def clkDom (s : State) (d : Nat) : Word :=
  mkWord [(16, domFreq d), (1, b1 (!domGated s d && domSource s d)), (0, b1 (domGated s d))]

/-- A Catalogue register by its TRL_ offset. -/
def catWord (c : Catalogue) (o : Nat) : Word :=
  if o = 0x18 then c.hdr0 else if o = 0x20 then c.hdr1
  else if o < 0x80 then c.gal[(Fin.ofNat 8 ((o - 0x40) / 8))] else c.nbr[(Fin.ofNat 12 ((o - 0x80) / 8))]

/-- The Condition Report record with a SEQ, pinned or general. -/
def crFind (s : State) (seq : Nat) : Option CrRec :=
  (s.cr.pinned ++ s.cr.general).find? (fun r => decide (crSeq r = seq))

/-- The words of a record as they read: zeros where its entry shows an uncorrectable error (R406). -/
def recWords (s : State) (r : CrRec) : List Word :=
  if Config.entryLost (crSeq r) s.clk then List.replicate 7 0
  else [r.ent.w0, r.ent.w1, r.ent.w2, r.ent.w3, r.ent.w4, r.ent.w5, r.w6]

/-- Word `i` of the record that a RDSEL names; zero where it is not held. -/
def crData (s : State) (sel i : Nat) : Word :=
  match crFind s sel with
  | none => 0
  | some r => (recWords s r).getD i 0

/-- A CRP_ register, for a given RDSEL (Table 13-15). -/
def crpWord (s : State) (sel : BitVec 32) (o : Nat) : Word :=
  if o = 0 then mkWord [(15, b1 s.cr.badcmd), (14, b1 (decide (2032 ≤ pinnedRows s)))]
  else if o = 8 then BitVec.ofNat 64 s.cr.head
  else if o = 0x10 then BitVec.ofNat 64 ((s.cr.general.head?.map crSeq).getD 0)
  else if o = 0x18 then mkWord [(32, s.cr.overwritten), (0, s.cr.pinned.length)]
  else if o = 0x20 then mkWord [(32, s.cr.boots), (0, s.cr.cause)]
  else if o = 0x28 then sel.setWidth 64
  else if 0x40 ≤ o then crData s sel.toNat ((o - 0x40) / 8) else 0

/-- A fault queue register: STATUS, or a word of the oldest entry (Table 13-14). -/
def frqWord (s : State) (q : Fin 9) (r : Nat) : Word :=
  let f := s.frq[q]
  if r = 0 then
    let reset := if h : q.val < 8 then galResetting s ⟨q.val, h⟩ else false
    mkWord [(32, f.ovf), (17, if reset then 2 else b1 f.handling), (16, b1 f.handling), (0, f.ents.length)]
  else if r < 0x10 then 0
  else
    match f.ents.head? with
    | none => 0
    | some e => [e.w0, e.w1, e.w2, e.w3, e.w4, e.w5].getD ((r - 0x10) / 8) 0

/-- CUR_APPR_SCORE of the component selected. -/
def apprWord (s : State) : Word :=
  let c := fget s 0x488 9 0
  let x := score s c
  let age := match x.peerAt with
    | none => 0xFFFF
    | some t => min 0xFFFF ((now s - t) / 60000000000)
  mkWord [(48, x.peer), (32, age), (16, x.advn), (0, x.score)]

def replayWord (s : State) : Word :=
  let r := s.replay
  mkWord [(63, b1 r.active), (48, r.gallery.val), (43, r.suspects.length), (38, r.runs), (0, r.seq % 2 ^ 32)]

/-- The engine registers that show the core's own state (Table 4-10). -/
def engWord (s : State) (n : CoreId) (o : Nat) : Word :=
  let c := coreAt s n
  if o = 0 then engStatus s n
  else if o = 8 ∨ o = 0x10 ∨ o = 0x18 ∨ o = 0x20 then rget s (engReg n.val o)
  else if o < 0x48 then ((c.mq[(o - 0x28) / 8]?).map (fun e => e.progress)).getD 0
  else if o < 0x58 then c.vatPsn.toNat / 2 ^ (64 * ((o - 0x48) / 8)) |> BitVec.ofNat 64
  else
    let i := (o - 0x58) / 8
    c.stbPsn[(Fin.ofNat 2 (i / 2))].toNat / 2 ^ (64 * (i % 2)) |> BitVec.ofNat 64

def rkgWord (s : State) (n : CoreId) (o : Nat) : Word :=
  if o = 0 then rkgStatus s n
  else if o = 0x38 then rkgProgress (coreAt s n).rq[0]
  else if o = 0x40 then rkgProgress (coreAt s n).rq[1]
  else rget s (rkgReg n.val o)

def chkWord (s : State) (n : CoreId) (off : Nat) : Word :=
  let r := off % 0x80
  if 0x40 ≤ r then ((coreAt s n).chk[(Fin.ofNat 4 (off / 0x80 % 4))].state.getD ((r - 0x40) / 8) 0)
  else if r = 8 then setBits (rget s off) 2 2 (b1 (chkBusy s n (Fin.ofNat 4 (off / 0x80 % 4)))) else rget s off

def colWord (s : State) (off : Nat) : Word :=
  let o := off % 0x1000000
  if o < 0x40000 then
    let i := offSlice off
    if o % 0x10000 = 0 then
      rget s off ||| mkWord [(14, b1 (decide (s.slices[i] ≠ []))), (0, sliceActive s i)]
    else rget s off
  else if o < 0x100000 then rget s off
  else
    let g := offGal off
    let r := o % 0x1000
    let x := s.gal[g].stepSeal
    if r = 0 then rget s off ||| mkWord [(16, qBusy s g)]
    else if r = 0x20 then
      rget s off ||| mkWord [(16, if x.st = .closing then min x.phase 3 else 0), (0, x.st.code)]
    else if r = 0x48 then rget s off ||| mkWord [(1, b1 s.gal[g].mtx.running)]
    else rget s off

/-- PRV_LOG and PRV_MEAS; the rest is stored. -/
def prvWord (s : State) (off : Nat) : Word :=
  let o := off % 0x1000000
  if o = 0x20 then rget s off ||| BitVec.ofNat 64 s.prov.log.length
  else if 0x100 ≤ o then
    let i := (o - 0x100) / 0x40
    BitVec.ofNat 64 (num s.prov.meas[(Fin.ofNat 8 i)] ((o - 0x100) % 0x40) 8)
  else rget s off

def streamWord (x : Stream) : Word :=
  mkWord [(63, b1 x.active), (60, x.gal), (59, b1 (!x.write)), (0, x.done)]

/-- What a listed block register reads as, without any effect of the read. -/
def blockWord (s : State) (off : Nat) : Word :=
  let b := off / 0x1000000
  let o := off % 0x1000000
  if b = 0x00 then
    (if 0x100 ≤ o ∧ o < 0x340 then frqWord s (Fin.ofNat 9 ((o - 0x100) / 0x40)) (o % 0x40)
     else if o = 0x490 then apprWord s
     else if o = 0x498 then rget s off ||| mkWord [(16, s.deferred.length)]
     else if o = 0x4A0 then replayWord s
     else if o = 0x4A8 then mkWord (allGals.map (fun g => (8 * g.val, genref s g)))
     else rget s off)
  else if b = 0x02 then engWord s (offCore off) (o % 0x1000)
  else if b = 0x03 then
    (if o < 0x80000 ∧ o % 0x1000 = 0 then vecStatus s (offCore off) else rget s off)
  else if b = 0x04 then
    (if o = 0x800000 then rget s off ||| mkWord [(32, rkgActive s)] else rkgWord s (offCore off) (o % 0x1000))
  else if b = 0x05 then chkWord s (offCore off) off
  else if b = 0x06 ∧ o = 0 then setBits (rget s off) 14 14 (b1 (fmpBusy s))
  else if b = 0x08 then
    (if o = 0 then setBits (rget s off) 2 1 (2 * b1 (fabricEmpty s) + fget s (trlReg 8) 0 0)
     else if 0x18 ≤ o ∧ o < 0xE0 then catWord (if bit (rget s (trlReg 0x10)) 1 then s.catShadow else s.catActive) o
     else rget s off)
  else if b = 0x0A then colWord s off
  else if b = 0x0B then (if o = 0x10 then BitVec.ofNat 64 (now s) else rget s off)
  else if b = 0x0C then crpWord s s.cr.rdsel o
  else if b = 0x0D then prvWord s off
  else if b = 0x0E then (if 0x100 ≤ o then streamWord s.streams[(Fin.ofNat 16 ((o - 0x100) / 8))] else rget s off)
  else if b = 0x0F ∧ o % 0x1000 = 0 then
    rget s off ||| mkWord [(3, b1 (endpoint s (.host (offGal off))).session.isSome)]
  else if b = 0x11 ∧ 0x100 ≤ o then clkDom s ((o - 0x100) / 8)
  else rget s off

/-- A read's effects: RC fields clear, and a read of TMB_NOW latches TMB_FRAC (R12, Table 11-4). -/
def afterRead (s : State) (off : Nat) (fs : List Fld) : State :=
  let o := off % 0x1000000
  if off / 0x1000000 = 0 ∧ 0x100 ≤ o ∧ o < 0x340 then
    (if o % 0x40 = 0 then
      let q : Fin 9 := Fin.ofNat 9 ((o - 0x100) / 0x40)
      setFrq s q { s.frq[q] with ovf := 0 }
     else s)
  else if off = 0x0C000018 then { s with cr := { s.cr with overwritten := 0 } }
  else if off = tmbReg 0x10 then rset s (tmbReg 0x18) (BitVec.ofNat 64 (s.tb.count / 2 ^ 16 % 2 ^ 16))
  else
    let w := (fs.filter (fun f => decide (f.2.2 = .rc))).foldl (fun w f => setBits w f.1 f.2.1 0) (rget s off)
    if w = rget s off then s else rset s off w

/-! ### Legal values (R20) -/

/-- The numbers of R402. -/
def component (c : Nat) : Bool :=
  decide (c < 0x100 ∨ (0x100 ≤ c ∧ c ≤ 0x10B) ∨ (0x110 ≤ c ∧ c ≤ 0x11F) ∨ (0x120 ≤ c ∧ c ≤ 0x125))

def between (v lo hi : Nat) : Bool := decide (lo ≤ v ∧ v ≤ hi)

/-- A value written to a VEC_ register (Table 6-6): the bounds are FP32 codes. -/
def vecLegal (o v : Nat) : Bool :=
  if o = 0x18 then decide (v < 0x7F800000)
  else if o = 0x20 ∨ o = 0x28 ∨ o = 0x38 then decide (v < 0x3F800000)
  else if o = 0x30 then between v 0x00800000 0x7F7FFFFF
  else if o = 0x40 ∨ o = 0x48 then between v 0x3F800000 0x7F7FFFFF
  else if o = 0x50 then decide (v ≤ 64 ∨ 192 ≤ v)
  else if o = 0x58 then between v 0x00800000 0x3F7FFFFF else true

/-- Is the value `v` of a field legal, in a write of the word `w`? -/
def fieldLegal (s : State) (off lo v : Nat) (w : Word) : Bool :=
  let b := off / 0x1000000
  let o := off % 0x1000000
  if b = 0x00 then
    (if o = 0x480 then
      (if lo = 56 then between v 1 64 else if lo = 48 then between v 1 168
       else if lo = 32 then decide (bits w 31 16 < v) else between v 1 65534)
     else if o = 0x488 then component v else true)
  else if b = 0x02 then between v 1 8
  else if b = 0x03 then vecLegal (o % 0x1000) v
  else if b = 0x07 then
    (let r := o % 0x10000
     if r = 0x10 then (if lo = 32 then between v 1 10080 else if lo = 16 then between v 1 255 else between v 1 64)
     else if r = 0x18 then decide (lo = 8) || between v 1 168 else true)
  else if b = 0x08 then
    (if 0x40 ≤ o ∧ o < 0x80 ∧ lo = 0 then decide (v ≠ 0) || !bit w 63 else true)
  else if b = 0x09 then
    (let r := o % 0x10000
     if r = 0x10 then
      (if lo = 40 then between v 1 255 else if lo = 32 then between v 1 60 else if lo = 16 then between v 10 65535
       else between v 1 65535)
     else if r = 0x48 then between v 1 255 else true)
  else if b = 0x0A then
    (if o = 0x80000 then (if lo = 16 then between v 1 15 else between v 10 10000)
     else
      let r := o % 0x1000
      let g := offGal off
      if r = 0x18 then between v 150 10000
      else if r = 0x30 then
        !s.gal[g].mtx.running &&
          (if lo = 63 then decide (v = 0) || decide (2 ≤ galRing s g 3)
           else if lo = 17 then decide (v ≠ 0) || !bit w 63 else between v 1 255)
      else if r = 0x38 ∨ r = 0x40 then !s.gal[g].mtx.running && decide (v % 0x20000 = 0) else true)
  else if b = 0x0B then
    (if o = 8 ∧ lo = 8 then decide (v ≤ 127)
     else if 0x100 ≤ o then
      (if bit (rget s (tmbReg (o / 0x20 * 0x20 + 0x18))) 0 then false
       else if o % 0x20 = 8 then decide (v % 8 = 0 ∧ v < 0x12000000) else true)
     else true)
  else if b = 0x0E then
    (if o = 8 then
      (if lo = 30 then between v 1 128 else if lo = 24 then between v 1 32 else if lo = 8 then decide (v ≤ 4094)
       else if lo = 1 then decide (v = fget s off 1 1) || !bit (rget s off) 0 else true)
     else if o = 0x10 then decide (v % 2 = 0)
     else if o = 0x40 then
      (if lo = 32 then between v 1 15 else if lo = 16 then between v 10 10000 else between v 1024 65526)
     else true)
  else if b = 0x0F then
    (let r := o % 0x1000
     if r = 0x30 then decide (v ≤ 2)
     else if r = 0x58 ∧ lo = 24 then !bit w 63 || ownsCluster s (offGal off) v else true)
  else if b = 0x10 then
    (if o = 0x10 then between v 0x550 0x680 else if o = 0x18 then between v 1000 3200
     else if o = 0x28 then between v 64 1024 else if o = 0x30 then decide (v = 0) || between v 720 820 else true)
  else true

/-- Blocks whose rule leaves the whole register unchanged by a write with an illegal value (R303, R331, R408). -/
def wholeBlock (off : Nat) : Bool := [0x00, 0x08, 0x09, 0x0A].contains (off / 0x1000000)

/-- The bit that reports a refused write: BADCMD, BADCEIL or BADPARAM of the owning block. -/
def refused (s : State) (off : Nat) : State :=
  let b := off / 0x1000000
  let o := off % 0x1000000
  if b = 0x00 then curBad s
  else if b = 0x02 then fbit s (engReg (offCore off).val 0) 11
  else if b = 0x03 then fbit s (vecReg (offCore off).val 0) 14
  else if b = 0x04 then rkgBad s (offCore off)
  else if b = 0x05 then fbit s (chkReg (offCore off).val (off / 0x80 % 4) 8) 4
  else if b = 0x06 then fbit s (fmpReg 0) 15
  else if b = 0x07 then celBad s (offGroup off).val
  else if b = 0x08 then fbit s (trlReg 0) 15
  else if b = 0x09 then lnkBad s (offPort off)
  else if b = 0x0A then
    (if o < 0x40000 then fbit s (colSlice (offSlice off).val 0) 15
     else if o < 0x100000 then fbit s (colDev 0) 24 else fbit s (colGal (offGal off).val 0) 15)
  else if b = 0x0B then fbit s (tmbReg 0) 15
  else if b = 0x0C then { s with cr := { s.cr with badcmd := true } }
  else if b = 0x0D then fbit s (prvReg 0) 15
  else if b = 0x0E then fbit s (ethReg 0) 15
  else if b = 0x0F then glyBad s (offGal off)
  else fbit s (pwrReg 0) 15

/-- The Gallery whose lock holds a field: byte g of a port's SHARE belongs to Gallery g (R15, R301). -/
def lockGal (off lo : Nat) : Gal := if off / 0x1000000 = 0x09 then Fin.ofNat 8 (lo / 8) else offGal off

/-- One field of a stored register written: a locked field sets LOCKVIOL, an illegal value is refused. -/
def writeField (s : State) (off : Nat) (w : Word) (t : State) (f : Fld) : State :=
  let v := bits w f.1 f.2.1
  match f.2.2 with
  | .rw => if fieldLegal s off f.2.1 v w then fset t off f.1 f.2.1 v else refused t off
  | .w1c => if v = 1 then fset t off f.1 f.2.1 0 else t
  | .rwl =>
    if isLocked s (lockGal off f.2.1) then fbit t (glyReg (lockGal off f.2.1).val 0) 14
    else if fieldLegal s off f.2.1 v w then fset t off f.1 f.2.1 v else refused t off
  | _ => t

/-- Has a write an illegal value? -/
def anyIllegal (s : State) (off : Nat) (w : Word) (fs : List Fld) : Bool :=
  fs.any (fun f => match f.2.2 with
    | .rw => !fieldLegal s off f.2.1 (bits w f.1 f.2.1) w
    | _ => false)

/-- A write of a stored register, field by field or, where its block says so, whole. -/
def writeStored (s : State) (off : Nat) (w : Word) (fs : List Fld) : State :=
  if wholeBlock off && anyIllegal s off w fs then refused s off else fs.foldl (writeField s off w) s

/-! ### Command registers -/

/-- CEL_CMD. Whether a retrained channel works is physical: free. -/
def celCommand (s : State) (g : Fin 16) (w : Word) : State :=
  let ch : Fin 16 := Fin.ofNat 16 (bits w 7 4)
  let op := bits w 3 0
  if op = 1 then nextOf s (execCelFailCh g ch s)
  else if op = 2 then nextOf s (execCelRebuild g s)
  else if op = 3 then nextOf s (execCelOffline g s)
  else if op = 4 then
    let t := freeBit s
    nextOf t.2 (execCelRetrainCh g ch t.1 t.2)
  else celBad s g.val

def fmpCommand (s : State) (op : Nat) : State :=
  if op = 1 then nextOf s (execFmpMap s) else if op = 2 then nextOf s (execFmpUnmap s)
  else if op = 3 then nextOf s (execFmpProtect s) else if op = 4 then nextOf s (execFmpMigrate s)
  else if op = 5 then nextOf s (execFmpZero s) else if op = 6 then nextOf s (execFmpRetire s)
  else if op = 7 then nextOf s (execFmpRead s) else if op = 8 then nextOf s (execFmpLookup s)
  else fbit s (fmpReg 0) 15

def lnkCommand (s : State) (p : PortId) (op : Nat) : State :=
  if op = 1 then nextOf s (execLnkEnable p s) else if op = 2 then nextOf s (execLnkDisable p s)
  else if op = 3 then nextOf s (execLnkRetrain p s) else if op = 4 then nextOf s (execLnkFulltrain p s)
  else if op = 5 then nextOf s (execLnkRetire p s) else lnkBad s p

def glyCommand (s : State) (g : Gal) (op : Nat) : State :=
  if op = 1 then nextOf s (execGlyCtlOpen g s) else if op = 2 then nextOf s (execGlyCtlRearm g s)
  else if op = 3 then nextOf s (execGlyCtlNextgen g s) else if op = 4 then nextOf s (execGlyCtlComputeReset g s)
  else if op = 5 then nextOf s (execGlyCtlGalleryReset g s) else glyBad s g

/-- CHK_STATUS: the W1C bits, then a command. -/
def chkWrite (s : State) (n : CoreId) (ch : Fin 4) (off : Nat) (w : Word) (fs : List Fld) : State :=
  let s := writeStored s off w fs
  let op := bits w 1 0
  if op = 0 then s
  else if op = 1 then nextOf s (execChkReset n ch s)
  else if op = 2 then nextOf s (execChkFinish n ch s) else refused s off

/-- The shadow Catalogue with a register replaced. -/
def setCat (c : Catalogue) (o : Nat) (w : Word) : Catalogue :=
  if o = 0x18 then { c with hdr0 := w } else if o = 0x20 then { c with hdr1 := w }
  else if o < 0x80 then { c with gal := c.gal.set (Fin.ofNat 8 ((o - 0x40) / 8)) w }
  else { c with nbr := c.nbr.set (Fin.ofNat 12 ((o - 0x80) / 8)) w }

/-- The bits of a register that its fields hold. -/
def fieldMask (fs : List Fld) : Word := fs.foldl (fun m f => setBits m f.1 f.2.1 (2 ^ (f.1 + 1 - f.2.1) - 1)) 0

def trlWrite (s : State) (off : Nat) (w : Word) (fs : List Fld) : State :=
  let o := off % 0x1000000
  if o = 0x10 then
    let s := writeStored s off w fs
    if bit w 0 then nextOf s (execCatalogueCommit s) else s
  else if 0x18 ≤ o ∧ o < 0xE0 then
    (if anyIllegal s off w fs then refused s off
     else { s with catShadow := setCat s.catShadow o (w &&& fieldMask fs) })
  else writeStored s off w fs

def colWrite (s : State) (off : Nat) (w : Word) (fs : List Fld) : State :=
  let o := off % 0x1000000
  let r := o % 0x1000
  if o < 0x40000 then
    (if o % 0x10000 = 0x10 then
      (if bits w 3 0 = 1 then nextOf s (execColSliceResume (offSlice off) s)
       else if bits w 3 0 = 2 then nextOf s (execColSliceFail (offSlice off) s) else refused s off)
     else writeStored s off w fs)
  else if o < 0x100000 then writeStored s off w fs
  else if r = 8 then
    (if bits w 3 0 = 1 then nextOf s (execColQueueKill (offGal off) (BitVec.ofNat 16 (bits w 31 16)) s) else refused s off)
  else if r = 0x18 then
    let op := bits w 19 16
    if anyIllegal s off w fs || decide (1 < op) || (decide (op = 1) && decide (s.gal[offGal off].stepSeal.st ≠ .closing)) then
      refused s off
    else
      let s := writeStored s off w fs
      if op = 1 then nextOf s (execSealAbandon (offGal off) s) else s
  else writeStored s off w fs

/-! ### Composition (R25, R27, R28) -/

/-- Does Gallery `h` hold a cluster or group of the masks? -/
def holdsAny (s : State) (h : Gal) (cm gm : Nat) : Bool :=
  decide (fget s (glyReg h.val 0x10) 15 0 &&& cm ≠ 0 ∨ fget s (glyReg h.val 0x18) 15 0 &&& gm ≠ 0)

/-- An open Gallery holds a unit that Gallery `g` asks for. -/
def takenOpen (s : State) (g : Gal) (cm gm : Nat) : Bool :=
  allGals.any (fun h => decide (h ≠ g) && isOpen s h && holdsAny s h cm gm)

/-- A closed Gallery that holds such a unit is still being cleared. -/
def takenClearing (s : State) (g : Gal) (cm gm : Nat) : Bool :=
  allGals.any (fun h => decide (h ≠ g) && !isOpen s h && holdsAny s h cm gm && tearing s h)

/-- A cluster that joins no Gallery is held in compute reset. -/
def clearCluster (s : State) (c : Fin 16) : State :=
  let s := (allCores.filter (fun n => decide (clusterOf n = c.val))).foldl clearCore s
  { rset s (cruReg c.val) 0 with
    mem := s.mem.clear (reserveBase c.val) (2 ^ 24)
    resLog := s.resLog.set c [], cruLog := s.cruLog.set c [] }

/-- A group has frames mapped for its own Gallery only: those that a closed Gallery had mapped in a group that leaves it
are unmapped, and are not ZEROED (R25, R28, log entry 101). -/
def unmapForeign (s : State) : State :=
  (s.walker.entries.filter (fun e => feValid e.2 &&
      decide ((frameOwner s e.1).map (fun o => o.val) ≠ some (feGallery e.2)))).foldl (fun s e => unmapFrame s e.1) s

/-- Gallery `g` takes exactly the clusters and groups of the masks; other Galleries lose them. Groups that it takes
leave self-refresh (R249). -/
def takeUnits (s : State) (g : Gal) (cm gm : Nat) : State :=
  let old := fget s (glyReg g.val 0x10) 15 0
  let s := allGals.foldl (fun s h =>
    if h = g then s
    else fset (fset s (glyReg h.val 0x10) 15 0 (fget s (glyReg h.val 0x10) 15 0 &&& (0xFFFF ^^^ cm)))
      (glyReg h.val 0x18) 15 0 (fget s (glyReg h.val 0x18) 15 0 &&& (0xFFFF ^^^ gm))) s
  let s := unmapForeign (fset (fset s (glyReg g.val 0x10) 15 0 cm) (glyReg g.val 0x18) 15 0 gm)
  let s := (List.range 16).foldl (fun s c => if gm.testBit c then wakeGroup s (Fin.ofNat 16 c) else s) s
  (List.range 16).foldl (fun s c =>
    if old.testBit c && !cm.testBit c then clearCluster s (Fin.ofNat 16 c) else s) s

def glyWrite (s : State) (off : Nat) (w : Word) (fs : List Fld) : State :=
  let g := offGal off
  let r := off % 0x1000
  if r = 8 then glyCommand s g (bits w 3 0)
  else if (r = 0x10 ∨ r = 0x18) ∧ isLocked s g = false then
    let cm := if r = 0x10 then bits w 15 0 else fget s (glyReg g.val 0x10) 15 0
    let gm := if r = 0x18 then bits w 15 0 else fget s (glyReg g.val 0x18) 15 0
    if takenOpen s g cm gm || takenClearing s g cm gm then glyBad s g else takeUnits s g cm gm
  else writeStored s off w fs

/-! ### Core control ports and control registers (Tables 2-15 to 2-19) -/

/-- A control register below 0x100, as it reads. -/
def csrWord (s : State) (n : CoreId) (num : Nat) : Option Word :=
  let c := coreAt s n
  if num = 0x000 then some (cstatWord c)
  else if num = 0x001 then some c.fpctl
  else if num = 0x002 then some c.ecause
  else if num = 0x003 then some c.epc
  else if num = 0x004 then some c.eaddr
  else if num = 0x005 then some c.einfo
  else if num = 0x006 then some c.resumepc
  else if num = 0x007 then some (c.waitlim.setWidth 64)
  else if num = 0x008 then some c.launchat
  else if num = 0x009 then some (mkWord [(16, ((coreOwner s n).map (fun g => g.val)).getD 0), (0, n.val)])
  else if num = 0x00A then some (BitVec.ofNat 64 (now s))
  else if num = 0x00B then some (BitVec.ofNat 64 (s.tb.count / 2 ^ 16 % 2 ^ 16))
  else if num = 0x00C then some (BitVec.ofNat 64 (s.clk - c.cycleBase))
  else if num = 0x00D then some c.retired
  else if num = 0x010 then some c.ctxpa
  else if num = 0x011 then some 0
  else if 0x018 ≤ num ∧ num ≤ 0x01F then some c.q[(Fin.ofNat 8 (num - 0x18))]
  else none

/-- The block register that a control register number names: this core's engine, vector unit, queue pair and tap. -/
def csrBlock (n : CoreId) (num : Nat) : Option Nat :=
  let off :=
    if 0x100 ≤ num ∧ num ≤ 0x1FF then engReg n.val (8 * (num - 0x100))
    else if 0x200 ≤ num ∧ num ≤ 0x2FF then vecReg n.val (8 * (num - 0x200))
    else if 0x300 ≤ num ∧ num ≤ 0x3FF then rkgReg n.val (8 * (num - 0x300))
    else if 0x400 ≤ num ∧ num ≤ 0x43F then 0x05000000 + n.val * 0x1000 + 8 * (num - 0x400)
    else 1
  if (fields off).isSome then some off else none

/-- Is a waitlim value legal (Table 2-19)? -/
def waitlimOk (v : Nat) : Bool := decide (v = 0) || decide (1000 ≤ v)

/-- ctxctl: a pre-emption, restore, resume or kill; other values set BADCMD (R70). -/
def ctxCommand (s : State) (n : CoreId) (op : Nat) : State :=
  if op = 1 then nextOf s (execCtxPreempt n s) else if op = 2 then nextOf s (execCtxRestore n s)
  else if op = 3 then nextOf s (execCtxResume n s) else if op = 4 then nextOf s (execCtxKill n s)
  else setBadcmd s n

/-- The cstat and fpctl writes that a context and the Curator share, and waitlim. -/
def csrShared (s : State) (n : CoreId) (num : Nat) (w : Word) : State :=
  if num = 0x000 then
    modCore s n (fun c => { c with ctxerr := c.ctxerr && !bit w 12, badcmd := c.badcmd && !bit w 11
                                   dz := c.dz && !bit w 6, late := c.late && !bit w 4 })
  else if num = 0x001 then
    modCore s n (fun c => { c with fpctl := (c.fpctl &&& ~~~(w &&& 0xF00) &&& ~~~(3 : Word)) ||| (w &&& 3) })
  else if num = 0x007 then
    (if waitlimOk (bits w 39 0) then modCore s n (fun c => { c with waitlim := BitVec.ofNat 40 (bits w 39 0) })
     else setBadcmd s n)
  else s

/-- A control register below 0x100 written by the Curator. -/
def csrCurator (s : State) (n : CoreId) (num : Nat) (w : Word) : State :=
  if num = 0x002 then modCore s n (fun c => { c with ecause := w &&& 0xF0FFF })
  else if num = 0x003 then modCore s n (fun c => { c with epc := w &&& 0xFFFFFFFFFFFF })
  else if num = 0x004 then modCore s n (fun c => { c with eaddr := w })
  else if num = 0x005 then modCore s n (fun c => { c with einfo := w })
  else if num = 0x006 then modCore s n (fun c => { c with resumepc := w })
  else if num = 0x008 then modCore s n (fun c => { c with launchat := w, launchPend := decide (w ≠ 0) })
  else if num = 0x010 then
    (let t := modCore s n (fun c => { c with ctxpa := w })
     if ctxpaOk t n then t else setCtxerr s n)
  else if num = 0x011 then ctxCommand s n (bits w 3 0)
  else if 0x018 ≤ num ∧ num ≤ 0x01F then setQ n (Fin.ofNat 8 (num - 0x18)) (w &&& 0x80000007_07FFFFFF) s
  else csrShared s n num w

/-! ### Timed writes (R345, R346) -/

def launchReg (i o : Nat) : Nat := tmbReg (0x100 + 0x20 * i + o)

/-- The core and control register number of an offset in a core control port. -/
def portOf (off : Nat) : Option (CoreId × Nat) :=
  if 0x01000000 ≤ off ∧ off < 0x01400000 ∧ off % 8 = 0 then
    some (coreNo ((off - 0x01000000) / 0x8000), off % 0x8000 / 8)
  else none

/-- Has a register a field that may be written (R345)? -/
def writable (off : Nat) : Bool :=
  match portOf off with
  | some (n, num) =>
    (decide (num ≤ 8 ∨ num = 0x10 ∨ num = 0x11) || between num 0x18 0x1F) ||
      (match csrBlock n num with
       | some k => ((fields k).getD []).any (fun f => decide (f.2.2 ≠ .rc))
       | none => false)
  | none => ((fields off).getD []).any (fun f => decide (f.2.2 ≠ .rc))

/-- A slot sends its write, which the owning block holds until `at_`: ARM is cleared and FIRED set. A target that is
reserved or read-only sets ERROR and writes nothing. -/
def launchSend (s : State) (i at_ : Nat) : State :=
  let c := launchReg i 0x18
  let off := fget s (launchReg i 8) 31 0
  let s := fset s c 0 0 0
  if !writable off then fbit s c 1
  else
    { fbit s c 2 with tb := { s.tb with held := s.tb.held ++
        [{ slot := i, at_ := at_, addr := BitVec.ofNat 64 off, data := rget s (launchReg i 0x10) }] } }

/-- A launch slot's control written: W1C bits, then ARM. Setting ARM less than 4 µs before TARGET sends at once, to be
applied on arrival, and sets LATE; clearing it cancels. -/
def launchWrite (s : State) (i : Nat) (w : Word) : State :=
  let c := launchReg i 0x18
  let armed := bit (rget s c) 0
  let s := [1, 2, 3].foldl (fun s k => if bit w k then fset s c k k 0 else s) s
  let s := fset s c 0 0 (b1 (bit w 0))
  if bit w 0 && !armed && decide ((rget s (launchReg i 0)).toNat < now s + 4000) then fbit (launchSend s i (now s)) c 3
  else s

/-! ### Reads and writes -/

/-- A listed block register written by the Curator, or by a context that reaches it. -/
def writeBlock (s : State) (ctx : Bool) (off : Nat) (w : Word) (fs : List Fld) : State :=
  let b := off / 0x1000000
  let o := off % 0x1000000
  if b = 0x00 then
    (if o = 8 then (if bits w 3 0 = 1 then nextOf s (execCurCtlChipReset s) else curBad s)
     else if 0x100 ≤ o ∧ o < 0x340 then
      (let q : Fin 9 := Fin.ofNat 9 ((o - 0x100) / 0x40)
       if o % 0x40 ≠ 8 then s
       else if bits w 1 0 = 1 then nextOf s (execFrqPop q s)
       else if bits w 1 0 = 2 then nextOf s (execFrqResolve q s) else curBad s)
     else writeStored s off w fs)
  else if b = 0x04 ∧ o < 0x80000 then
    (let n := offCore off
     let r := o % 0x1000
     let q : Fin 2 := if r = 0x10 ∨ r = 0x60 then 1 else 0
     if r = 0x08 ∨ r = 0x10 then (if ctx then s else nextOf s (execRkgRingWrite n q w s))
     else if r = 0x58 ∨ r = 0x60 then
      (if bits w 3 0 = 1 then nextOf s (execRkgResume n q s)
       else if bits w 3 0 = 2 then nextOf s (execRkgFail n q s)
       else if bits w 3 0 = 3 then nextOf s (execRkgKill n q s) else rkgBad s n)
     else writeStored s off w fs)
  else if b = 0x05 ∧ o % 0x80 = 8 then chkWrite s (offCore off) (Fin.ofNat 4 (off / 0x80 % 4)) off w fs
  else if b = 0x06 ∧ o = 8 then fmpCommand s (bits w 3 0)
  else if b = 0x07 ∧ o % 0x10000 = 8 then celCommand s (offGroup off) w
  else if b = 0x07 ∧ 0x1000 ≤ o % 0x10000 then
    nextOf s (execCelRemapWrite (offGroup off) (Fin.ofNat 1024 ((o % 0x10000 - 0x1000) / 8)) w s)
  else if b = 0x08 then trlWrite s off w fs
  else if b = 0x09 ∧ o % 0x10000 = 8 then lnkCommand s (offPort off) (bits w 3 0)
  else if b = 0x0A then colWrite s off w fs
  else if b = 0x0B ∧ 0x100 ≤ o ∧ o % 0x20 = 0x18 then launchWrite s ((o - 0x100) / 0x20) w
  else if b = 0x0C then
    (if o = 0 then { s with cr := { s.cr with badcmd := s.cr.badcmd && !bit w 15 } }
     else if o = 0x28 then { s with cr := { s.cr with rdsel := BitVec.ofNat 32 w.toNat } }
     else if o = 0x30 then
      (if bits w 3 0 = 1 then nextOf s (execCrpClear s)
       else if bits w 3 0 = 2 then nextOf s (execCrpUnpin s) else refused s off)
     else s)
  else if b = 0x0D ∧ o = 0x18 then
    (if bits w 3 0 = 1 then nextOf s (execPrvExtend (Fin.ofNat 8 (bits w 6 4)) s) else refused s off)
  else if b = 0x0E ∧ o = 8 then
    (let s := writeStored s off w fs
     if bit (rget s (ethReg 8)) 0 then s else ethDown s)
  else if b = 0x0F then glyWrite s off w fs
  else writeStored s off w fs

/-- May a context on core `n` read, or write, the register at an offset (R46, R70, R378)? -/
def ctxReaches (s : State) (n : CoreId) (off : Nat) (write : Bool) : Bool :=
  let b := off / 0x1000000
  let o := off % 0x1000000
  let r := off % 0x1000
  if b = 0x02 then decide (o / 0x1000 = n.val ∧ r ≠ 0x18 ∧ r ≠ 0x20)
  else if b = 0x03 then decide (o / 0x1000 = n.val ∧ r ≠ 0x60)
  else if b = 0x04 then decide (o / 0x1000 = n.val ∧ r ≠ 0x58 ∧ r ≠ 0x60)
  else if b = 0x05 then decide (o / 0x1000 = n.val)
  else if b = 0x0F then
    !write && decide (coreOwner s n = some (offGal off)) && decide (r = 0 ∨ r = 0x60 ∨ r = 0x68)
  else false

def reaches (s : State) (by_ : Accessor) (off : Nat) (write : Bool) : Bool :=
  match by_ with
  | .curator => true
  | .ctx n => ctxReaches s n off write

/-- A register read: its value, and the state after; none is an ACCESS error (R46, R47). -/
def readReg (s : State) (by_ : Accessor) (off : Nat) : Option (Word × State) :=
  if !reaches s by_ off false then none
  else
    match portOf off with
    | some (n, num) =>
      match csrWord s n num, csrBlock n num with
      | some w, _ => some (w, s)
      | none, some k => some (blockWord s k, afterRead s k ((fields k).getD []))
      | none, none => none
    | none =>
      match fields off with
      | none => none
      | some fs => some (blockWord s off, afterRead s off fs)

/-- The core whose registers an offset names: a control port, or a unit of its own (Table 2-14). -/
def coreOf (off : Nat) : Option CoreId :=
  match portOf off with
  | some (n, _) => some n
  | none => if between (off / 0x1000000) 2 5 && decide (off % 0x1000000 < 0x80000) then some (offCore off) else none

/-- A register written; none is an ACCESS error. A core whose cluster no Gallery owns is held in compute reset: its
registers take no write (R25). -/
def writeReg (s : State) (by_ : Accessor) (off : Nat) (w : Word) : Option State :=
  if !reaches s by_ off true then none
  else if (coreOf off).any (fun n => (coreOwner s n).isNone) then (if (readReg s by_ off).isSome then some s else none)
  else
    match portOf off with
    | some (n, num) =>
      match csrWord s n num, csrBlock n num with
      | some _, _ => some (csrCurator s n num w)
      | none, some k => some (writeBlock s false k w ((fields k).getD []))
      | none, none => none
    | none =>
      match fields off with
      | none => none
      | some fs => some (writeBlock s (decide (by_ ≠ .curator)) off w fs)

/-- REGISTER_WRITE: a refused access changes nothing. -/
def execRegisterWrite (by_ : Accessor) (off : BitVec 32) (v : Word) (s : State) : Outc :=
  .next (if deviceRuns s then (writeReg s by_ off.toNat v).getD s else s)

/-- RC_REGISTER_READ: the value stands in `regOut`; a refused access reads as zero. -/
def execRcRegisterRead (by_ : Accessor) (off : BitVec 32) (s : State) : Outc :=
  .next (if deviceRuns s then
      match readReg s by_ off.toNat with
      | some (w, t) => { t with regOut := w }
      | none => { s with regOut := 0 }
    else s)

/-! ### Launch slots (R345, R346) -/

/-- LAUNCH_ARM: a write of TMB_LAUNCH_CTL[i]. -/
def execLaunchArm (i : Fin 8) (v : Word) (s : State) : Outc :=
  .next (if deviceRuns s then launchWrite s i.val v else s)

/-- LAUNCH_SLOT_SEND: at TARGET − 4 µs the slot sends its write, which the owning block holds until TARGET. -/
def execLaunchSlotSend (i : Fin 8) (s : State) : Outc :=
  let target := (rget s (launchReg i.val 0)).toNat
  .next (if deviceRuns s && bit (rget s (launchReg i.val 0x18)) 0 then
      launchSend (advanceTo s (target - 4000)) i.val target
    else s)

/-- Apply one held write. -/
def applyHeld (s : State) (t : TimedWrite) : State :=
  let s := { s with tb := { s.tb with held := s.tb.held.erase t } }
  (writeReg s .curator t.addr.toNat t.data).getD s

/-- The cycle in which a held write is applied, counted from now: the first whose Timebase is at or after its moment.
A write sent late has the moment of its sending. -/
def heldCycle (s : State) (t : TimedWrite) : Int :=
  -(((s.tb.count : Int) - t.at_ * 2 ^ 32) / (max 1 (fget s (tmbReg 0x20) 39 0) : Nat))

/-- Does a held write come before another: an earlier cycle, or the lower slot in the same cycle (R346)? -/
def heldBefore (s : State) (a b : TimedWrite) : Bool :=
  decide (heldCycle s a < heldCycle s b ∨ (heldCycle s a = heldCycle s b ∧ a.slot < b.slot))

def insertHeld (s : State) (t : TimedWrite) : List TimedWrite → List TimedWrite
  | [] => [t]
  | u :: l => if heldBefore s t u then t :: u :: l else u :: insertHeld s t l

/-- The held writes due before one, in order of cycle and slot, itself last. -/
def dueBefore (s : State) (t : TimedWrite) : List TimedWrite :=
  (s.tb.held.filter (fun u => heldBefore s u t)).foldl (fun l u => insertHeld s u l) [] ++ [t]

/-- LAUNCH_WRITE_APPLY: the moment of the slot's held write comes; earlier ones have been applied by then. -/
def execLaunchWriteApply (i : Fin 8) (s : State) : Outc :=
  .next (if !deviceRuns s then s
    else
      match s.tb.held.find? (fun t => decide (t.slot = i.val)) with
      | none => s
      | some t => (dueBefore s t).foldl (fun s u => applyHeld (advanceTo s u.at_) u) s)

end Sys2Proof.Machine
end

