-- ==== Sys2Proof/Machine/LoadStore.lean ====
section
/-! DEFINITION. Scalar loads and stores, tile loads and stores, and the atomic update (R43 to R46, R54, R55, R81, R82). -/

namespace Sys2Proof.Machine

/-- The effective address sa + imm. -/
def effAddr (h : Hart) (sa : SReg) (imm : BitVec 40) (s : State) : Nat := (getS h sa s + imm.signExtend 64).toNat

/-- Where an access may go. -/
inductive Spot where
  /-- Memory at an address of the model's memory; in a Cask or Reserve, or not. -/
  | mem (pa : Nat) (sram : Bool)
  /-- Device register space. -/
  | register
  /-- A fault. -/
  | fault (x : Exc)
  /-- A migrating frame. -/
  | stall (g : Gal)
  deriving DecidableEq, Repr

/-- Where a scalar or tile access of core `n` goes: window, alignment, then translation (R43 to R45, R81). -/
def spotOf (s : State) (n : CoreId) (ea k : Nat) (write : Bool) : Spot :=
  match winOf ea k with
  | .none => .fault (excAddress ea)
  | .register => .register
  | .gallery =>
    if ea % k ≠ 0 then .fault (excAddress ea)
    else
      match coreOwner s n with
      | none => .fault (excTranslation ea 1)
      | some g =>
        match translate s g ea write with
        | .ok pa => .mem pa false
        | .unmapped => .fault (excTranslation ea 1)
        | .readOnly => .fault (excPermission ea)
        | .fmapUe => .fault (excTranslation ea 4)
        | .migrating => .stall g
  | w => if ea % k ≠ 0 then .fault (excAddress ea) else .mem (localAddr n w ea) true

/-- A load of core `n` from memory meets an error of the line, or its poison; else it ends in `r` (R81, R389). -/
def loadFrom (s : State) (n : CoreId) (i : Instr) (ea k pa : Nat) (sram : Bool) (err : SramErr) (r : Nat → State → State) :
    Eff :=
  let t := if sram then lineMet (logSram s n i ea) n ea err else s
  let pc := (coreAt s n).pc
  if sram ∧ err = .ue ∧ replayMode t n then .stop (startReplay t n ea true)
  else if sram ∧ err = .ue then .stop (takeExc t n (excPoison ea) 0 true pc pc)
  else if t.mem.isPoisoned (pa / 64) then .fault (excPoison ea)
  else .done (r (leNat (t.mem.bytes pa k)) t)

/-- The bytes of a store put in place; a store to the Cask holds while the matrix queue reads there (R55). -/
def storeTo (s : State) (n : CoreId) (i : Instr) (ea pa : Nat) (bs : List Byte) : Eff :=
  if queueReads (coreAt s n) ea bs.length then .hold s
  else .done { logSram s n i ea with mem := s.mem.store pa bs false }

/-- An access of a management core: Curator memory at 0, or device register space (R51, log entry 8). -/
def mgmtSpot (ea k : Nat) : Spot :=
  if winOf ea k = .register then .register
  else if ea + k ≤ 2 ^ 23 ∧ ea % k = 0 then .mem (curatorBase + ea) false
  else .fault (excAddress ea)

/-- Who accesses registers for a hart. -/
def accessorOf : Hart → Accessor
  | .core n => .ctx n
  | .mgmt _ => .curator

/-- A load from device register space: only an aligned access of 64 bits succeeds; any other reads as zero and traps. -/
def loadReg (h : Hart) (size : Size) (sd : SReg) (ea : Nat) (s : State) : Eff :=
  let r := if size = .double ∧ ea % 8 = 0 then readReg s (accessorOf h) (ea % 2 ^ 32) else none
  match r with
  | some (w, t) => .done (setS h sd w t)
  | none => .trap (setS h sd 0 s) (excAccess ea)

/-- A store to device register space. -/
def storeReg (h : Hart) (size : Size) (ea : Nat) (w : Word) (s : State) : Eff :=
  let r := if size = .double ∧ ea % 8 = 0 then writeReg s (accessorOf h) (ea % 2 ^ 32) w else none
  match r with
  | some t => .done t
  | none => .trap s (excAccess ea)

/-- ld.sz: load from sa + imm (Table 3-5). -/
def execLd (h : Hart) (size : Size) (signed : Bool) (err : SramErr) (sd sa : SReg) (imm : BitVec 40) (s : State) : Outc :=
  let i : Instr := .ld h size signed err sd sa imm
  .next (issue h i 0 (fun s =>
    let a := effAddr h sa imm s
    match h with
    | .core n =>
      (match spotOf s n a (Size.bytes size) false with
       | .mem pa sram => loadFrom s n i a (Size.bytes size) pa sram err (fun v t => setS h sd (extendLoad (Size.bytes size) signed v) t)
       | .register => loadReg h size sd a s
       | .fault x => .fault x
       | .stall g => .hold (addStall s (.core n) g a false false 0))
    | .mgmt _ =>
      (match mgmtSpot a (Size.bytes size) with
       | .mem pa _ => .done (setS h sd (extendLoad (Size.bytes size) signed (leNat (s.mem.bytes pa (Size.bytes size)))) s)
       | .register => loadReg h size sd a s
       | _ => .fault (excAddress a))) s)

/-- st.sz: the low bytes of sd go to sa + imm (Table 3-5). -/
def execSt (h : Hart) (size : Size) (sd sa : SReg) (imm : BitVec 40) (s : State) : Outc :=
  let i : Instr := .st h size sd sa imm
  .next (issue h i 0 (fun s =>
    let a := effAddr h sa imm s
    let bs := leBytes (Size.bytes size) (getS h sd s).toNat
    match h with
    | .core n =>
      (match spotOf s n a (Size.bytes size) true with
       | .mem pa _ => storeTo s n i a pa bs
       | .register => storeReg h size a (getS h sd s) s
       | .fault x => .fault x
       | .stall g => .hold (addStall s (.core n) g a true false 0))
    | .mgmt _ =>
      (match mgmtSpot a (Size.bytes size) with
       | .mem pa _ => .done { s with mem := s.mem.store pa bs false }
       | .register => storeReg h size a (getS h sd s) s
       | _ => .fault (excAddress a))) s)

/-- amo: the word at sa + imm, in the Cask or the Reserve, is combined with sd, which takes the old word (R82). A
management core has neither window. -/
def execAmo (h : Hart) (op : AmoOp) (sd sa : SReg) (imm : BitVec 40) (s : State) : Outc :=
  let i : Instr := .amo h op sd sa imm
  .next (issue h i 0 (fun s =>
    let a := effAddr h sa imm s
    match h with
    | .mgmt _ => .fault (excAddress a)
    | .core n =>
      if a % 8 ≠ 0 ∨ inCaskOrReserve a (a + 7) = false then .fault (excAddress a)
      else
        let pa := sramAt n a
        if s.mem.isPoisoned (pa / 64) then .fault (excPoison a)
        else if queueReads (coreAt s n) a 8 then .hold s
        else
          let old := mem64 s.mem pa
          let t := { logSram s n i a with mem := s.mem.store pa (leBytes 8 (amoOp op old (getS h sd s)).toNat) false }
          .done (setS h sd old t)) s)

/-- tld: 32 bytes at sa + imm go to a tile register (R81). In device register space the access is not one of 64 bits. -/
def execTld (h : Hart) (tn : TReg) (sa : SReg) (imm : BitVec 40) (s : State) : Outc :=
  let i : Instr := .tld h tn sa imm
  .next (issue h i 0 (ctxOnly h (fun n s =>
    let a := effAddr h sa imm s
    match spotOf s n a 32 false with
    | .mem pa sram => loadFrom s n i a 32 pa sram .none (fun v t => setT n tn (BitVec.ofNat 256 v) t)
    | .register => .trap (setT n tn 0 s) (excAccess a)
    | .fault x => .fault x
    | .stall g => .hold (addStall s (.core n) g a false false 0))) s)

/-- tst: a tile register goes to the 32 bytes at sa + imm (R81). -/
def execTst (h : Hart) (tn : TReg) (sa : SReg) (imm : BitVec 40) (s : State) : Outc :=
  let i : Instr := .tst h tn sa imm
  .next (issue h i 0 (ctxOnly h (fun n s =>
    let a := effAddr h sa imm s
    match spotOf s n a 32 true with
    | .mem pa _ => storeTo s n i a pa (leBytes 32 (coreAt s n).t[tn].toNat)
    | .register => .trap s (excAccess a)
    | .fault x => .fault x
    | .stall g => .hold (addStall s (.core n) g a true false 0))) s)

end Sys2Proof.Machine
end

