-- ==== Sys2Proof/Machine/Sht.lean ====
section
/-! DEFINITION. The Ethernet port and Seisk Host Transport: frames, sessions, message order, acceptance and starting
of commands, memory windows and doorbells (R351 to R366, R420). -/

namespace Sys2Proof.Machine

/-! ### The port (R351, R352) -/

/-- Is the Ethernet port on? -/
def ethOn (s : State) : Bool := deviceRuns s && bit (rget s (ethReg 8)) 0

/-- A frame is received. -/
def ethRx (s : State) : State := fincr s (ethReg 0x48) 63 32 1

/-- The counters of ETH_DROP. -/
def shtMalformed (s : State) : State := fincr s (ethReg 0x58) 23 12 1
def shtForeign (s : State) : State := fincr s (ethReg 0x58) 11 0 1
def shtNoSession (s : State) : State := fincr s (ethReg 0x58) 47 32 1
def shtBadMac (s : State) : State := fincr s (ethReg 0x58) 63 48 1

def ip4Of (s : State) : Nat := fget s (ethReg 0x18) 31 0
def ip6Of (s : State) : Nat := (rget s (ethReg 0x20)).toNat + 2 ^ 64 * (rget s (ethReg 0x28)).toNat

/-- Does a UDP port have a use: SHT, PTP, or the DHCP clients while DHCP is set (R343, R351)? -/
def udpUsed (s : State) (p : Nat) : Bool :=
  let base := fget s (ethReg 0x40) 15 0
  decide (base ≤ p ∧ p ≤ base + 8) || decide (p = 319 ∨ p = 320)
    || (bit (rget s (ethReg 8)) 2 && decide (p = 68 ∨ p = 546))

/-- Bytes of a field of a published protocol: its most significant byte first (R8). -/
def netBytes (n v : Nat) : List Byte := (leBytes n v).reverse

/-- Is a frame one that the MAC takes: at most 9,216 bytes, tagged with the port's VLAN ID or not at all (Table 12-1), and
for this port? ARP and Neighbour Discovery requests come to group addresses, PFC frames without a tag to their own. -/
def macTakes (s : State) (f : EthFrame) : Bool :=
  let v := fget s (ethReg 8) 19 8
  let vlan := match f.tags with
    | [] => decide (v = 0)
    | [t] => decide (v ≠ 0 ∧ t.toNat % 2 ^ 12 = v)
    | _ => false
  let own := decide (f.dst.toNat = fget s (ethReg 0x10) 47 0)
  decide (f.len ≤ 9216) && (match f.body with
    | .pfc .. => decide (f.tags = [])
    | .arpRequest _ => vlan && (own || decide (f.dst = BitVec.ofNat 48 (2 ^ 48 - 1)))
    | .ndSolicit _ => vlan && (own || decide (f.dst.toNat / 2 ^ 32 = 0x3333))
    | .ip4 .. | .ip6 .. | .other => vlan && own)

/-- PFC holds the port's priority for a time in quanta of 512 bits, or lets it go (IEEE 802.1Qbb, R351). -/
def pfcTake (s : State) (prios : BitVec 8) (quanta : BitVec 16) : State :=
  if bit (rget s (ethReg 8)) 3 && prios.toNat.testBit (fget s (ethReg 8) 6 4) then
    ethFlush { s with eth := { s.eth with until_ := now s + quanta.toNat * 64 / 100 } }
  else s

/-- The DHCP clients: an offer is requested, a lease gives the port its addresses (R351). -/
def dhcpTake (s : State) (m : DhcpMsg) : State :=
  match m with
  | .offer a => ethSend s (.eth 5 (3 :: netBytes 4 a.toNat))
  | .ack a g p =>
    let s := rset s (ethReg 0x18) (mkWord [(32, g.toNat), (0, a.toNat)])
    if 1 ≤ p.toNat ∧ p.toNat ≤ 32 then fset s (ethReg 8) 29 24 p.toNat else s
  | .reply6 a => rset (rset s (ethReg 0x20) (BitVec.ofNat 64 a.toNat)) (ethReg 0x28) (BitVec.ofNat 64 (a.toNat / 2 ^ 64))

/-- An IP packet: an echo request to the port is answered, a DHCP message goes to its client while DHCP is set, a datagram of
SHT or PTP comes as its own command; anything else is dropped and counted. -/
def ipTake (s : State) (mine : Bool) (kind : Nat) (p : IpBody) : State :=
  match p with
  | .echo b => if mine then ethSend s (.eth kind b) else shtMalformed s
  | .udp q ok => if mine && ok && udpUsed s q.toNat then s else shtMalformed s
  | .dhcp m => if bit (rget s (ethReg 8)) 2 then dhcpTake s m else shtMalformed s
  | .other => shtMalformed s

/-- ETHERNET_FRAME_RECEIVE: ARP, Neighbour Discovery and echo requests for the port's own addresses are answered, PFC is
obeyed, DHCP served; what Table 12-1 does not list is dropped and counted (R352). -/
def execEthernetFrameReceive (f : EthFrame) (s : State) : Outc :=
  .next (if !ethOn s then s
    else
      let s := ethRx s
      let mac := netBytes 6 (fget s (ethReg 0x10) 47 0)
      if !macTakes s f then shtMalformed s
      else
        match f.body with
        | .arpRequest t => if t.toNat = ip4Of s then ethSend s (.eth 1 (mac ++ netBytes 4 t.toNat)) else s
        | .ndSolicit t => if t.toNat = ip6Of s then ethSend s (.eth 2 (mac ++ netBytes 16 t.toNat)) else s
        | .ip4 d opt frag p => if opt || frag then shtMalformed s else ipTake s (decide (d.toNat = ip4Of s)) 3 p
        | .ip6 d ext frag p => if ext || frag then shtMalformed s else ipTake s (decide (d.toNat = ip6Of s)) 4 p
        | .pfc prios quanta => pfcTake s prios quanta
        | .other => shtMalformed s)

/-! ### Messages as they arrive (R353, R354, R356) -/

/-- The endpoint of a UDP port. -/
def endpointOf (s : State) (p : Nat) : Option Ep :=
  let base := fget s (ethReg 0x40) 15 0
  if p = base then some .mgmt
  else if base < p ∧ p ≤ base + 8 then some (.host (Fin.ofNat 8 (p - base - 1))) else none

/-- Does the endpoint accept the source? -/
def sourceOk (s : State) (e : Ep) (src : BitVec 128) : Bool :=
  match e with
  | .mgmt => (List.range 4).any (fun i => decide (num s.prov.manifest (96 + 16 * i) 16 ≠ 0 ∧ num s.prov.manifest (96 + 16 * i) 16 = src.toNat))
  | .host g =>
    let fam := fget s (glyReg g.val 0x30) 1 0
    let lo := (rget s (glyReg g.val 0x20)).toNat
    if fam = 1 then decide (src.toNat = 0xFFFF * 2 ^ 32 + lo % 2 ^ 32)
    else if fam = 2 then decide (src.toNat = lo + 2 ^ 64 * (rget s (glyReg g.val 0x28)).toNat) else false

/-- Fields of a message (Table 12-2). -/
def msgWord (b : List Byte) (i : Nat) : Word := BitVec.ofNat 64 (num b (8 * i) 8)
def msgKind (b : List Byte) : Nat := bits (msgWord b 0) 55 48
def msgSession (b : List Byte) : Nat := bits (msgWord b 0) 31 0
def msgSeq (b : List Byte) : BitVec 32 := BitVec.ofNat 32 (bits (msgWord b 1) 63 32)
def msgAck (b : List Byte) : BitVec 32 := BitVec.ofNat 32 (bits (msgWord b 1) 31 0)
def msgLen (b : List Byte) : Nat := bits (msgWord b 2) 47 32
def msgBody (b : List Byte) : List Byte := cut b 32 (b.length - 48)

/-- Does the payload's length fit its KIND (Table 12-3, R357)? Device-to-host kinds and unknown kinds fit none. -/
def kindFits (b : List Byte) : Bool :=
  let n := b.length - 48
  let k := msgKind b
  if k = 0x01 then
    decide (n = 18 ∧ 1024 ≤ num (msgBody b) 16 2 ∧ msgSession b = 0 ∧ msgSeq b = 0)
  else if k = 0x03 then decide (n = 0)
  else if k = 0x10 then decide (n % 64 = 0 ∧ 1 ≤ n / 64 ∧ n / 64 ≤ 16)
  else if k = 0x20 then decide (16 ≤ n)
  else if k = 0x21 ∨ k = 0x30 then decide (n = 16) else false

/-- Is the message well formed for the endpoint of its port (R356)? -/
def msgOk (e : Ep) (b : List Byte) : Bool :=
  decide (48 ≤ b.length) && decide (bits (msgWord b 0) 63 56 = 1 ∧ bits (msgWord b 0) 47 40 = endptByte e ∧
    bits (msgWord b 0) 39 32 = 0 ∧ bits (msgWord b 2) 63 48 = 0 ∧ bits (msgWord b 2) 31 0 = 0 ∧ msgWord b 3 = 0)
    && decide (msgLen b = b.length - 48) && kindFits b

/-- Does the MAC verify under a key? -/
def macOk (key b : List Byte) : Bool := decide (shtSeal key (b.take (b.length - 16)) = b)

/-- Is the port served: RUNNING, or WAITNET, when no Gallery is open and the management endpoint alone answers (R420)? -/
def shtServes (s : State) : Bool := ethOn s && decide (bootState s = 4 ∨ bootState s = 3)

/-! ### Sessions (R357, R358, R366) -/

/-- What the end of a session leaves: its commands run on, their records go nowhere. -/
def endSession (s : State) (e : Ep) : State :=
  let x := endpoint s e
  setEp s e { x with session := none, unacked := [], hold := [], todo := [], answered := [], ending := none
                     cmds := x.cmds.map (fun c => { c with live := false })
                     winWait := x.winWait.map (fun w => { w with live := false }) }

/-- The session key of a HELLO. -/
def sessionKey (key host dev : List Byte) (e : Ep) : List Byte :=
  (hmac512 key (host ++ dev ++ [BitVec.ofNat 8 (endptByte e)])).take 32

/-- Open a session and answer HELLO_RSP. The session number and the device nonce are the device's own. -/
def helloOpen (s : State) (e : Ep) (src : BitVec 128) (port : BitVec 16) (body : List Byte) : State :=
  let key := endpointKey s e
  let s := endSession s e
  let sess := BitVec.ofNat 64 ((Config.freeWord s.free).toNat % 2 ^ 32)
  let dev := leBytes 16 (Config.nonce s.free).toNat
  let s := { s with free := s.free + 1 }
  let maxlen := min (num body 16 2) 8192 / 64 * 64
  let s := setEp s e { endpoint s e with
    session := some sess, key := sessionKey key (body.take 16) dev e, peer := src, port := port
    maxlen := maxlen, txSeq := 0, rxSeq := 0 }
  let rsp := dev ++ leBytes 4 sess.toNat ++ leBytes 2 maxlen ++ leBytes 2 (vintage s) ++ leBytes 2 (coord s)
  ethSend s (.udp src port (shtSeal key (shtBytes e 0x02 sess.toNat 0 0 rsp)))

/-- Is number `a` at or before number `b` in a session's order? -/
def seqLe (a b : BitVec 32) : Bool := decide ((b - a).toNat < 2 ^ 31)

/-- An acknowledgement: the messages sent up to it are done; a session that waited for its RESET_DONE ends. -/
def shtAcked (s : State) (e : Ep) (ack : BitVec 32) : State :=
  let x := endpoint s e
  let s := setEp s e { x with unacked := x.unacked.filter (fun m => decide (m.tries = 0) || !seqLe m.seq ack) }
  let s := shtFlush s e
  match x.ending with
  | none => s
  | some q => if seqLe q ack then endSession s e else s

/-- Send an ACK. It takes no number of its own: SEQ is the last number sent. -/
def shtAckSend (s : State) (e : Ep) : State :=
  let x := endpoint s e
  shtEmit s e ⟨x.txSeq, 0x03, [], 1⟩

/-! ### Commands accepted (R355, R359 to R361, R420) -/

def hostOps : List Nat := [0x03, 0x04, 0x05, 0x06, 0x07, 0x08, 0x09, 0x0A, 0x0B, 0x0C, 0x10, 0x11, 0x12, 0x13]
def mgmtOps : List Nat := [0x20, 0x21, 0x22, 0x23, 0x24, 0x25, 0x30, 0x31, 0x32, 0x33, 0x34, 0x35, 0x36,
  0x40, 0x41, 0x42, 0x43, 0x44, 0x45]

/-- Does the endpoint take the OP? In WAITNET only NOP, INFO, NETBOOT_BEGIN and NETBOOT_GO. -/
def opPermitted (s : State) (e : Ep) (op : Nat) : Bool :=
  if bootState s = 3 then decide (op = 0x01 ∨ op = 0x02 ∨ op = 0x40 ∨ op = 0x41)
  else
    match e with
    | .mgmt => !hostOps.contains op
    | .host _ => !mgmtOps.contains op

def opKnown (op : Nat) : Bool := decide (op = 0x01 ∨ op = 0x02) || hostOps.contains op || mgmtOps.contains op

/-- Accept one command record: refused at once, or held to be started. A slower class answers PENDING. -/
def acceptCmd (s : State) (e : Ep) (seq : BitVec 32) (r : List Byte) : State :=
  let w0 := msgWord r 0
  let op := bits w0 7 0
  let c : ShtCmdRec := { tag := BitVec.ofNat 32 (bits w0 63 32), op := op, args := (List.range 8).map (msgWord r)
                         since := now s, seq := seq, pendingSent := !hostClass op }
  if bits w0 31 8 ≠ 0 ∨ opKnown op = false then sendFor s e c .invalid 0 0 0
  else if opPermitted s e op = false then sendFor s e c .notPermitted 0 0 0
  else
    let x := endpoint s e
    let s := setEp s e { x with cmds := x.cmds ++ [c] }
    if hostClass op then s else sendFor s e c .pending 0 0 0

/-- The records of a CMD message, in order. -/
def acceptCmds (e : Ep) (seq : BitVec 32) : Nat → State → List Byte → State
  | 0, s, _ => s
  | n + 1, s, b => acceptCmds e seq n (acceptCmd s e seq (b.take 64)) (b.drop 64)

/-! ### Memory windows (R362 to R364) -/

/-- A completion record of a window access; none when its session has ended. -/
def winRecord (s : State) (e : Ep) (live write : Bool) (tag : BitVec 32) (st : Status) (r1 r2 : Word) : State :=
  if live then sendCpl s e tag (if write then 0xE0 else 0xE1) st r1 r2 0 else s

/-- The parts of a range within single frames. -/
def framesParts (a n : Nat) : List (Nat × Nat) :=
  let k := min n (2 ^ 17 - a % 2 ^ 17)
  (a, k) :: (if k < n then [(a + k, n - k)] else [])

/-- Is a translation usable? -/
def Xlate.good : Xlate → Bool
  | .ok _ => true
  | _ => false
def Xlate.pa : Xlate → Nat
  | .ok p => p
  | _ => 0

/-- A KIND 0x03 entry of the Ethernet port (R255, Table 13-4). -/
def ethFault (s : State) (g : Gal) (cls a : Nat) : State :=
  report s (Err.ofWalk { kind := 3, cls := 0, unit := 12, gal := some g, d0 := mkWord [(0, cls), (8, 3)], d1 := BitVec.ofNat 64 a }
    cls)

/-- The fields of a window access, from its preamble. -/
def winTag (b : List Byte) : BitVec 32 := BitVec.ofNat 32 (bits (msgWord b 1) 63 32)
def winOff (b : List Byte) : Nat := bits (msgWord b 0) 47 0
def winLen (b : List Byte) : Nat := bits (msgWord b 1) 13 0
def winNum (b : List Byte) : Nat := bits (msgWord b 0) 63 60

/-- Are the preamble's fields legal? -/
def winLegal (maxlen : Nat) (write : Bool) (b : List Byte) : Bool :=
  decide (bits (msgWord b 0) 59 48 = 0 ∧ bits (msgWord b 1) 31 14 = 0 ∧ winOff b % 4 = 0 ∧ winLen b % 4 = 0 ∧
    4 ≤ winLen b ∧ winLen b + 16 ≤ maxlen) && (!write || decide (b.length = 16 + winLen b))

/-- READ_DATA: the preamble with STATUS, then the data. -/
def readData (s : State) (e : Ep) (b : List Byte) (st : Status) (data : List Byte) : State :=
  shtSend s e 0x22 (b.take 8 ++ leBytes 8 (mkWord [(32, (winTag b).toNat), (16, st.code), (0, winLen b)]).toNat ++ data)

/-- A window access whose parts are all translated: the bytes move. -/
def winMove (s : State) (e : Ep) (w : WinWait) (ps : List (Nat × Nat)) : State :=
  let b := w.body
  if w.write then
    let m := ps.foldl (fun (t : Memory × List Byte) p => (t.1.store p.1 (t.2.take p.2) false, t.2.drop p.2)) (s.mem, b.drop 16)
    winRecord { s with mem := m.1 } e w.live true (winTag b) .ok 0 0
  else if !w.live then s
  else if ps.any (fun p => s.mem.anyPoison p.1 p.2) then readData s e b .poison (List.replicate (winLen b) 0)
  else readData s e b .ok (ps.flatMap (fun p => s.mem.bytes p.1 p.2))

/-- Run one window access of a host endpoint; the flag says that it waits on a migrating frame. -/
def winRun (s : State) (g : Gal) (w : WinWait) : State × Bool :=
  let e : Ep := .host g
  let b := w.body
  let tag := winTag b
  let fail (st : Status) (r1 r2 : Word) (s : State) : State × Bool := (winRecord s e w.live w.write tag st r1 r2, false)
  let v := s.gal[g].windows[(Fin.ofNat 16 (winNum b))]
  if v.frames * 2 ^ 17 < winOff b + winLen b then fail .range 0 0 s
  else if !(if w.write then v.write else v.read) then fail .permission 0 0 s
  else
    let xs := (framesParts (v.base + winOff b) (winLen b)).map (fun p => (p, translate s g p.1 w.write))
    match xs.find? (fun x => !x.2.good) with
    | none => (winMove s e w (xs.map (fun x => (x.2.pa, x.1.2))), false)
    | some (p, .readOnly) => fail .permission 0 0 (ethFault s g 3 p.1)
    | some (p, .migrating) => (addStall s .ethernet g p.1 w.write false 0, true)
    | some (p, .fmapUe) => fail .fault 4 (BitVec.ofNat 64 p.1) (ethFault s g 4 p.1)
    | some (p, _) => fail .fault 1 (BitVec.ofNat 64 p.1) (ethFault s g 1 p.1)

/-- A window access that waits answers PENDING (R32). -/
def winStart (s : State) (g : Gal) (w : WinWait) : State :=
  let t := winRun s g w
  if t.2 then
    let s := t.1
    let x := endpoint s (.host g)
    winRecord (setEp s (.host g) { x with winWait := x.winWait ++ [w] }) (.host g) w.live w.write (winTag w.body) .pending 0 0
  else t.1

/-! The management endpoint's windows: 0 for a netboot image, 1 for a firmware update (R420, R428). -/

/-- Bytes put into a table from an offset. -/
def tblPut (d : Byte) (t : Tbl Byte) : Nat → List Byte → Tbl Byte
  | _, [] => t
  | o, b :: bs => tblPut d (put d o b t) (o + 1) bs

/-- Bytes of an update: the header is held, the body goes into the slot. -/
def updateWrite (s : State) (u : Update) (o : Nat) (bs : List Byte) : State :=
  let h := bs.take (8192 - o)
  let r := bs.drop (8192 - o)
  let p := s.prov
  { s with prov := { p with update := some { u with header := tblPut 0 u.header o h }
                            flash := p.flash.set u.slot (tblPut 0xFF p.flash[u.slot] (max o 8192) r) } }

/-- A window message at the management endpoint. -/
def mgmtWindow (s : State) (write : Bool) (b : List Byte) : State :=
  let rec_ (st : Status) (s : State) : State := winRecord s .mgmt true write (winTag b) st 0 0
  let k := winNum b
  let fin := winOff b + winLen b
  if (bootState s = 3 ∧ (k ≠ 0 ∨ write = false)) ∨ (bootState s ≠ 3 ∧ k ≠ 1) then rec_ .notPermitted s
  else if winLegal (endpoint s .mgmt).maxlen write b = false then rec_ .invalid s
  else if k = 0 then
    match s.prov.netSize with
    | none => rec_ .range s
    | some n =>
      if n < fin then rec_ .range s
      else rec_ .ok { s with prov := { s.prov with netImage := tblPut 0 s.prov.netImage (winOff b) (b.drop 16) } }
  else
    match s.prov.update with
    | none => rec_ .range s
    | some u =>
      if !u.erased || decide (u.size < fin) then rec_ .range s
      else if !write then rec_ .permission s
      else rec_ .ok (updateWrite s u (winOff b) (b.drop 16))

/-- A window message acted on. -/
def actWindow (s : State) (e : Ep) (m : ShtMsg) : State :=
  let write := decide (m.kind = 0x20)
  match e with
  | .mgmt => mgmtWindow s write m.body
  | .host g =>
    if winLegal (endpoint s e).maxlen write m.body then
      winStart s g { seq := m.seq, write := write, body := m.body }
    else winRecord s e true write (winTag m.body) .invalid 0 0

/-! ### Doorbells (R365) -/

/-- The address of a doorbell slot, where DBBASE is valid and its cluster is the Gallery's. -/
def doorbellAt (s : State) (g : Gal) (slot : Nat) : Option Nat :=
  let d := rget s (glyReg g.val 0x58)
  if bit d 63 && ownsCluster s g (bits d 27 24) then some (reserveBase (bits d 27 24) + bits d 23 6 * 64 + 8 * slot)
  else none

/-- The doorbell acts, or says why not. -/
def doorbellAct (s : State) (e : Ep) (b : List Byte) : Status × State :=
  let h := msgWord b 0
  match e with
  | .mgmt => (.notPermitted, s)
  | .host g =>
    if (h &&& ~~~(0x87 : Word)) ≠ 0 then (.invalid, s)
    else
      match doorbellAt s g (bits h 2 0) with
      | none => (.badState, s)
      | some a =>
        let v := if bit h 7 then BitVec.ofNat 64 (leNat (s.mem.bytes a 8)) + msgWord b 1 else msgWord b 1
        (.ok, { s with mem := s.mem.store a (leBytes 8 v.toNat) false })

/-- A doorbell acted on: acknowledged by ACK; a record follows only where it writes nothing. -/
def actDoorbell (s : State) (e : Ep) (b : List Byte) : State :=
  let t := doorbellAct s e b
  let s := shtAckSend t.2 e
  if t.1 = .ok then s else sendCpl s e 0 0xE2 t.1 0 0 0

/-! ### Message order (R358) -/

def actMsg (s : State) (e : Ep) (m : ShtMsg) : State :=
  if m.kind = 0x30 then actDoorbell s e m.body else actWindow s e m

/-- Does a window access of the present session wait? -/
def winWaits (s : State) (e : Ep) : Bool := (endpoint s e).winWait.any (fun w => w.live)

/-- Act on the messages taken in order, while no window access waits (R364). -/
def drainTodo : Nat → State → Ep → State
  | 0, s, _ => s
  | n + 1, s, e =>
    let x := endpoint s e
    if winWaits s e then s
    else
      match x.todo with
      | [] => s
      | m :: r => drainTodo n (actMsg (setEp s e { x with todo := r }) e m) e

/-- Take the messages that continue the order. Command records are accepted as their message is taken. -/
def takeOrder : Nat → State → Ep → State
  | 0, s, _ => s
  | n + 1, s, e =>
    let x := endpoint s e
    match x.hold.find? (fun m => decide (m.seq = x.rxSeq + 1)) with
    | none => s
    | some m =>
      let x := { x with rxSeq := m.seq, hold := x.hold.filter (fun k => decide (k.seq ≠ m.seq)) }
      if m.kind = 0x10 then takeOrder n (acceptCmds e m.seq (m.body.length / 64) (setEp s e x) m.body) e
      else takeOrder n (setEp s e { x with todo := x.todo ++ [m] }) e

/-- A numbered message of the session: a duplicate is answered, a new one within 64 is taken in its turn. -/
def shtNumbered (s : State) (e : Ep) (m : ShtMsg) : State :=
  let x := endpoint s e
  if seqLe m.seq x.rxSeq || x.hold.any (fun k => decide (k.seq = m.seq)) then
    match x.answered.filter (fun a => decide (a.1 = m.seq)) with
    | [] => shtAckSend s e
    | l => if m.kind = 0x10 then l.foldl (fun s a => shtEmit s e a.2) s else shtAckSend s e
  else if 64 < (m.seq - x.rxSeq).toNat then s
  else
    let s := takeOrder 64 (setEp s e { x with hold := x.hold ++ [m] }) e
    drainTodo ((endpoint s e).todo.length) s e

/-- A message of the current session whose MAC verifies. -/
def shtSession (s : State) (e : Ep) (b : List Byte) : State :=
  if (endpoint s e).maxlen < msgLen b then shtMalformed s
  else
    let s := shtAcked s e (msgAck b)
    if msgKind b = 0x03 then s
    else shtNumbered s e { seq := msgSeq b, kind := msgKind b, body := msgBody b, tries := 0 }

/-- May a message reach its endpoint's session while the Gallery is as it is (R354)? -/
def endpointOpen (s : State) (e : Ep) (b : List Byte) : Bool :=
  match e with
  | .mgmt => true
  | .host g => isOpen s g || (decide (msgKind b = 0x03) && (match (endpoint s e).ending with
    | some q => seqLe q (msgAck b)
    | none => false))

/-- A message that reaches an endpoint: dropped and counted, or acted on. -/
def shtTake (s : State) (e : Ep) (d : Datagram) : State :=
  let b := d.body
  let x := endpoint s e
  if !msgOk e b then shtMalformed s
  else if !sourceOk s e d.src then shtForeign s
  else if !endpointOpen s e b then shtNoSession s
  else if msgKind b = 0x01 then
    (if macOk (endpointKey s e) b then helloOpen s e d.src d.port (msgBody b) else shtBadMac s)
  else if x.session ≠ some (BitVec.ofNat 64 (msgSession b)) then shtNoSession s
  else if !macOk x.key b then shtBadMac s
  else shtSession s e b

/-- Is the datagram of another kind that hosts send, so that its own command takes it? -/
def otherKind (kind : Nat) (b : List Byte) : Bool :=
  decide (msgKind b ≠ kind) && ([0x01, 0x03, 0x10, 0x20, 0x21, 0x30] : List Nat).contains (msgKind b)

/-- A datagram of one kind arrives. A UDP port without an endpoint is no use of Table 12-1. -/
def shtReceive (kind : Nat) (d : Datagram) (s : State) : State :=
  if !ethOn s || otherKind kind d.body then s
  else
    match endpointOf s d.port.toNat with
    | none => shtMalformed (ethRx s)
    | some e => if shtServes s then shtTake (ethRx s) e d else ethRx s

/-- HELLO. -/
def execHello (d : Datagram) (s : State) : Outc := .next (shtReceive 0x01 d s)
/-- SHT_ACK. -/
def execShtAck (d : Datagram) (s : State) : Outc := .next (shtReceive 0x03 d s)
/-- SHT_CMD: its records are accepted; each starts as its own command. -/
def execShtCmd (d : Datagram) (s : State) : Outc := .next (shtReceive 0x10 d s)
/-- SHT_WINDOW_WRITE. -/
def execShtWindowWrite (d : Datagram) (s : State) : Outc := .next (shtReceive 0x20 d s)
/-- SHT_WINDOW_READ. -/
def execShtWindowRead (d : Datagram) (s : State) : Outc := .next (shtReceive 0x21 d s)
/-- DOORBELL. -/
def execDoorbell (d : Datagram) (s : State) : Outc := .next (shtReceive 0x30 d s)

/-- Messages that carry a completion or event record. -/
def carriesRecord (m : ShtMsg) : Bool := decide (m.kind = 0x11 ∨ m.kind = 0x40)

/-- Retransmissions have run out: the session ends, and its undelivered records are counted (R358). -/
def sessionLost (s : State) (e : Ep) : State :=
  let k := (endpoint s e).unacked.countP carriesRecord
  let s := match e with
    | .mgmt => s
    | .host g => fincr s (glyReg g.val 0x90) 63 32 k
  endSession s e

/-- SHT_RETRANSMIT: RTO has passed for a message sent and not acknowledged. -/
def execShtRetransmit (e : Ep) (seq : BitVec 32) (s : State) : Outc :=
  let x := endpoint s e
  .next (if !ethOn s then s
    else
      match x.unacked.find? (fun m => decide (m.seq = seq ∧ m.tries ≠ 0)) with
      | none => s
      | some m =>
        if fget s (ethReg 0x40) 35 32 < m.tries then sessionLost s e
        else
          let up (k : ShtMsg) : ShtMsg := if k.seq = seq then { k with tries := k.tries + 1 } else k
          shtEmit (setEp s e { x with unacked := x.unacked.map up }) e m)

/-! ### Commands started (R360, R361) -/

/-- The core, window, stream or target that a command names. -/
def cmdNames (c : ShtCmdRec) : Option (Nat × Nat) :=
  let a := c.args.getD 1 0
  if c.op = 4 ∨ c.op = 5 ∨ c.op = 6 then some (0, a.toNat)
  else if c.op = 3 then some (1, bits a 3 0)
  else if c.op = 0x13 then some (2, a.toNat)
  else if c.op = 0x10 ∨ c.op = 0x11 ∨ c.op = 0x12 then some (3, bits a 1 0)
  else none

/-- The commands of the same session accepted before a command's record. -/
def earlier (x : Endpoint) (c : ShtCmdRec) : List ShtCmdRec :=
  (x.cmds.takeWhile (fun k => decide (k ≠ c))).filter (fun k => decide (k.live = c.live))

/-- May an accepted command start: those before it have started, none before it names the same object, and every
earlier window access of the session is done (R360, R364)? -/
def mayStart (x : Endpoint) (c : ShtCmdRec) : Bool :=
  (earlier x c).all (fun k => k.started && (decide (cmdNames k = none) || decide (cmdNames k ≠ cmdNames c)))
    && (!c.live || (!x.winWait.any (fun w => w.live && seqLe w.seq c.seq) && !x.todo.any (fun m => seqLe m.seq c.seq)))

def markStarted (s : State) (e : Ep) (c : ShtCmdRec) : State :=
  let x := endpoint s e
  setEp s e { x with cmds := x.cmds.map (fun k => if k = c then { k with started := true } else k) }

/-- The command of a tag and OP that has not started. -/
def findNew (x : Endpoint) (tag : BitVec 32) (op : Nat) : Option ShtCmdRec :=
  x.cmds.find? (fun c => decide (c.tag = tag ∧ c.op = op) && !c.started)

/-- Start a command: none accepted, or not its turn, and nothing happens; past the host bound, TIMEOUT without
effect; else `f` runs it on its arguments. -/
def runCmd (s : State) (e : Ep) (tag : BitVec 32) (op : Nat) (f : State → (Nat → Word) → State) : State :=
  if !deviceRuns s then s
  else
    match findNew (endpoint s e) tag op with
    | none => s
    | some c =>
      if !mayStart (endpoint s e) c then s
      else if hostClass op && decide (c.since + hostBound < now s) then complete s e tag op .timeout 0 0 0
      else f (markStarted s e c) (fun i => c.args.getD i 0)

/-- Start a command, or go on with one that had to wait: `f` answers none while it still waits. -/
def runWaiting (s : State) (e : Ep) (tag : BitVec 32) (op : Nat) (f : State → (Nat → Word) → Option State) : State :=
  let go (s : State) (c : ShtCmdRec) : State :=
    match f s (fun i => c.args.getD i 0) with
    | some t => t
    | none =>
      if c.pendingSent then s
      else
        let x := endpoint s e
        let c' := { c with pendingSent := true, started := true }
        sendFor (setEp s e { x with cmds := x.cmds.map (fun k => if k = c then c' else k) }) e c' .pending 0 0 0
  match (endpoint s e).cmds.find? (fun c => decide (c.tag = tag ∧ c.op = op) && c.started) with
  | some c => if deviceRuns s then go s c else s
  | none =>
    if !deviceRuns s then s
    else
      match findNew (endpoint s e) tag op with
      | none => s
      | some c =>
        if !mayStart (endpoint s e) c then s
        else if hostClass op && decide (c.since + hostBound < now s) then complete s e tag op .timeout 0 0 0
        else go (markStarted s e c) { c with started := true }

/-- A command that completes at once. -/
def done (e : Ep) (tag : BitVec 32) (op : Nat) (st : Status) (s : State) : State := complete s e tag op st 0 0 0

/-- SHT_COMMAND_TIMEOUT: the bound passes for a host-class command not started: no effect. -/
def execShtCommandTimeout (e : Ep) (tag : BitVec 32) (s : State) : Outc :=
  .next (match (endpoint s e).cmds.find? (fun c => decide (c.tag = tag) && hostClass c.op && !c.started) with
    | none => s
    | some c => complete (advanceTo s (c.since + hostBound)) e tag c.op .timeout 0 0 0)

end Sys2Proof.Machine
end

