-- ==== Sys2Proof/Machine/HostCmds.lean ====
section
/-! DEFINITION. The commands of a Gallery's host endpoint, and NOP and INFO (R355, R361, R362, R392, Table 12-4). -/

namespace Sys2Proof.Machine

/-- The Gallery of an endpoint; the management endpoint never gets here with a host command. -/
def epGal : Ep → Gal
  | .mgmt => 0
  | .host g => g

/-- SHT_NOP. -/
def execShtNop (e : Ep) (tag : BitVec 32) (s : State) : Outc := .next (runCmd s e tag 0x01 (fun s _ => done e tag 0x01 .ok s))

/-- INFO. -/
def execInfo (e : Ep) (tag : BitVec 32) (s : State) : Outc :=
  .next (runCmd s e tag 0x02 (fun s _ =>
    match e with
    | .mgmt => complete s e tag 0x02 .ok (blockWord s (trlReg 0)) (blockWord s (tmbReg 0)) (BitVec.ofNat 64 (vintage s))
    | .host g => complete s e tag 0x02 .ok (blockWord s (glyReg g.val 0)) (gen s g) (blockWord s (glyReg g.val 0x68))))

/-- WINDOW_SET: a window is set, or cleared with 0 frames. -/
def execWindowSet (e : Ep) (tag : BitVec 32) (s : State) : Outc :=
  .next (runCmd s e tag 0x03 (fun s a =>
    let g := epGal e
    let base := (a 2).toNat
    let n := (a 3).toNat
    if bits (a 1) 63 6 ≠ 0 ∨ base % 2 ^ 17 ≠ 0 then done e tag 0x03 .invalid s
    else if 2 ^ 48 < base + n * 2 ^ 17 then done e tag 0x03 .range s
    else
      let w : Window := if n = 0 then {} else { base := base, frames := n, read := bit (a 1) 4, write := bit (a 1) 5 }
      done e tag 0x03 .ok (modGal s g (fun x => { x with windows := x.windows.set (Fin.ofNat 16 (bits (a 1) 3 0)) w }))))

/-- The core that an argument names: RANGE beyond 127, BADSTATE for another Gallery's. -/
def cmdCore (s : State) (g : Gal) (a : Word) : Option Status :=
  if 127 < a.toNat then some .range
  else if coreOwner s (coreNo a.toNat) ≠ some g then some .badState else none

/-- The byte of a handle argument for register qi, and its legality (R208, R306). -/
def qByte (a : Word) (i : Nat) : Nat := bits a (8 * i + 7) (8 * i)
def qByteOk (b : Nat) : Bool :=
  decide (b / 32 % 4 = 0) && (decide (b < 128) || decide (b % 16 ≤ if b.testBit 4 then 15 else 1))

/-- A handle (Table 2-4) as CTX_START writes it. -/
def startHandle (s : State) (g : Gal) (b : Nat) : Word :=
  if b < 128 then 0 else mkWord [(63, 1), (32, b1 (b.testBit 4)), (24, g.val), (16, genLow s g), (0, b % 16)]

/-- A context built on an EMPTY core: Table 2-1 at its reset values, the queue pair idle with its rings kept, the
first handles, entry pc and ctxpa; issue starts. -/
def startContext (s : State) (g : Gal) (n : CoreId) (pc pa hs : Word) : State :=
  let old := coreAt s n
  let s := setCore s n { cycleBase := old.cycleBase, actStep := old.actStep, actSlabs := old.actSlabs
                         dummyRun := old.dummyRun, pc := pc, ctxpa := pa, state := .run
                         q := Vector.ofFn (fun i => startHandle s g (qByte hs i.val)) }
  let s := rclear s (engReg n.val 0) (engReg n.val 0x18)
  let s := rclear s (vecReg n.val 0) (vecReg n.val 0x60)
  let s := rclear s (rkgReg n.val 0x18) (rkgReg n.val 0x58)
  rclear s (chkReg n.val 0 0) (chkReg n.val 0 0x1000)

/-- CTX_START. -/
def execCtxStart (e : Ep) (tag : BitVec 32) (s : State) : Outc :=
  .next (runCmd s e tag 0x04 (fun s a =>
    let g := epGal e
    if !(List.range 8).all (fun i => qByteOk (qByte (a 4) i)) then done e tag 0x04 .invalid s
    else
      match cmdCore s g (a 1) with
      | some st => done e tag 0x04 st s
      | none =>
        let n := coreNo (a 1).toNat
        if cellarEnd ≤ (a 3).toNat then done e tag 0x04 .range s
        else if (coreAt s n).state ≠ .empty ∨ tearing s g = true then done e tag 0x04 .badState s
        else done e tag 0x04 .ok (startContext s g n (a 2) (a 3) (a 4))))

/-- Did a ctxctl command take effect (R66, R68, R70)? -/
def ctlTaken (s t : State) (n : CoreId) (cmd : Nat) : Bool :=
  if cmd = 1 then decide ((coreAt s n).state ≠ .saving ∧ (coreAt t n).state = .saving)
  else if cmd = 2 then decide ((coreAt s n).state = .empty ∧ (coreAt t n).state = .restoring)
  else if cmd = 3 then live (coreAt t n) && !live (coreAt s n)
  else decide ((coreAt s n).state ≠ .empty)

/-- CTX_CTL: a command to the core control port; ctxpa is written first for PREEMPT and RESTORE. -/
def execCtxCtl (e : Ep) (tag : BitVec 32) (s : State) : Outc :=
  .next (runCmd s e tag 0x05 (fun s a =>
    let cmd := (a 2).toNat
    if cmd = 0 ∨ 4 < cmd then done e tag 0x05 .invalid s
    else
      match cmdCore s (epGal e) (a 1) with
      | some st => done e tag 0x05 st s
      | none =>
        let n := coreNo (a 1).toNat
        let s := if cmd ≤ 2 then csrCurator s n 0x010 (a 3) else s
        if cmd ≤ 2 ∧ (coreAt s n).ctxpa ≠ a 3 then done e tag 0x05 .badState s
        else
          let t := ctxCommand s n cmd
          done e tag 0x05 (if ctlTaken s t n cmd then .ok else .badState) t))

/-- CTX_READ: a control register through the core control port. -/
def execCtxRead (e : Ep) (tag : BitVec 32) (s : State) : Outc :=
  .next (runCmd s e tag 0x06 (fun s a =>
    match cmdCore s (epGal e) (a 1) with
    | some st => done e tag 0x06 st s
    | none =>
      let n := coreNo (a 1).toNat
      match csrWord s n (a 2).toNat, csrBlock n (a 2).toNat with
      | some w, _ => complete s e tag 0x06 .ok w 0 0
      | none, some k => complete (afterRead s k ((fields k).getD [])) e tag 0x06 .ok (blockWord s k) 0 0
      | none, none => done e tag 0x06 .invalid s))

/-! ### Mapping (Table 8-5) -/

/-- The legality of a frame range; else its virtual frame numbers. -/
def frameRange (base n flags : Word) : Status × List Nat :=
  if base.toNat % 2 ^ 17 ≠ 0 ∨ n = 0 ∨ 64 < n.toNat ∨ bits flags 63 1 ≠ 0 then (.invalid, [])
  else if 2 ^ 48 < base.toNat + n.toNat * 2 ^ 17 then (.range, [])
  else (.ok, (List.range n.toNat).map (fun i => base.toNat / 2 ^ 17 + i))

/-- Map every frame of a list, or none. -/
def mapAll (g : Gal) (write : Bool) : State → List Nat → Option State
  | s, [] => some s
  | s, v :: r =>
    match mapFree s g v write with
    | none => none
    | some t => mapAll g write t r

/-- MEM_MAP. -/
def execMemMap (e : Ep) (tag : BitVec 32) (s : State) : Outc :=
  .next (runCmd s e tag 0x07 (fun s a =>
    let g := epGal e
    match frameRange (a 1) (a 2) (a 3) with
    | (.ok, vs) =>
      if vs.any (fun v => (walkFrame s g.val v).isSome) then done e tag 0x07 .badState s
      else
        match mapAll g (bit (a 3) 0) s vs with
        | some t => done e tag 0x07 .ok t
        | none => done e tag 0x07 .noResource s
    | (st, _) => done e tag 0x07 st s))

/-- The frames of a mapped range; none where one is unmapped or migrating. -/
def mappedFrames (s : State) (g : Gal) (vs : List Nat) : Option (List Nat) :=
  let fs := vs.filterMap (fun v => walkFrame s g.val v)
  if fs.length = vs.length ∧ fs.all (fun f => !feMigrating (frameEntry s f)) = true then some fs else none

/-- MEM_UNMAP. -/
def execMemUnmap (e : Ep) (tag : BitVec 32) (s : State) : Outc :=
  .next (runCmd s e tag 0x08 (fun s a =>
    match frameRange (a 1) (a 2) 0 with
    | (.ok, vs) =>
      match mappedFrames s (epGal e) vs with
      | none => done e tag 0x08 .badState s
      | some fs => done e tag 0x08 .ok (fs.foldl unmapFrame s)
    | (st, _) => done e tag 0x08 st s))

/-- MEM_PROTECT. -/
def execMemProtect (e : Ep) (tag : BitVec 32) (s : State) : Outc :=
  .next (runCmd s e tag 0x09 (fun s a =>
    match frameRange (a 1) (a 2) (a 3) with
    | (.ok, vs) =>
      match mappedFrames s (epGal e) vs with
      | none => done e tag 0x09 .badState s
      | some fs => done e tag 0x09 .ok
          (fs.foldl (fun s f => setFrame s f (setBits (frameEntry s f) 61 61 (b1 (bit (a 3) 0)))) s)
    | (st, _) => done e tag 0x09 st s))

/-! ### Trap and resets -/

/-- NAN_REARM: words 0 to 2 of the record that it clears come back. -/
def execNanRearm (e : Ep) (tag : BitVec 32) (s : State) : Outc :=
  .next (runCmd s e tag 0x0A (fun s _ =>
    let g := epGal e
    let r (o : Nat) : Word := rget s (glyReg g.val o)
    complete (rearm s g) e tag 0x0A .ok (r 0x70) (r 0x78) (r 0x80)))

/-- A reset asked for by an SHT command, CAUSE 2; it completes when the reset ends (R392). -/
def shtReset (s : State) (e : Ep) (tag : BitVec 32) (sc : Scope) : State :=
  let g := epGal e
  startReset (modGal s g (fun x => { x with resetCmds := x.resetCmds ++ [(e, tag)] })) g sc 2 0

/-- SHT_COMPUTE_RESET. -/
def execShtComputeReset (e : Ep) (tag : BitVec 32) (s : State) : Outc :=
  .next (runCmd s e tag 0x0B (fun s _ => shtReset s e tag .compute))
/-- SHT_GALLERY_RESET. -/
def execShtGalleryReset (e : Ep) (tag : BitVec 32) (s : State) : Outc :=
  .next (runCmd s e tag 0x0C (fun s _ => shtReset s e tag .gallery))

end Sys2Proof.Machine
end

