-- ==== Sys2Proof/Machine/MgmtCmds.lean ====
section
/-! DEFINITION. The commands of the management endpoint: composition, registers, retirement, Condition Report,
Appraisal, mirror copies, netboot, quotes and firmware updates
(R25 to R28, R248, R349, R354, R399 to R407, R420, R425 to R428, Tables 12-4, 13-13, 14-9). -/

namespace Sys2Proof.Machine

/-- The Gallery that an argument names, where it is 0 to 7. -/
def argGal (a : Word) : Option Gal := if h : a.toNat < 8 then some ⟨a.toNat, h⟩ else none

/-! ### Composition, binding and opening -/

/-- COMPOSE: refused while open or while an open Gallery holds a unit; it waits while such a unit is being cleared. -/
def execCompose (e : Ep) (tag : BitVec 32) (s : State) : Outc :=
  .next (runWaiting s e tag 0x20 (fun s a =>
    match argGal (a 1) with
    | none => some (done e tag 0x20 .invalid s)
    | some g =>
      if bits (a 2) 63 16 ≠ 0 ∨ bits (a 3) 63 16 ≠ 0 then some (done e tag 0x20 .invalid s)
      else
        let cm := (a 2).toNat
        let gm := (a 3).toNat
        if isOpen s g || takenOpen s g cm gm then some (done e tag 0x20 .galleryOpen s)
        else if tearing s g || takenClearing s g cm gm then none
        else some (done e tag 0x20 .ok (takeUnits s g cm gm))))

/-- A host bound to a Gallery. -/
def bindHost (s : State) (g : Gal) (fam : Nat) (a2 a3 a4 a5 a6 a7 : Word) : State :=
  let r (o : Nat) : Nat := glyReg g.val o
  let s := rset (rset (fset s (r 0x30) 1 0 fam) (r 0x20) a2) (r 0x28) a3
  rset (rset (rset (rset s (r 0x38) a4) (r 0x40) a5) (r 0x48) a6) (r 0x50) a7

/-- BIND. -/
def execBind (e : Ep) (tag : BitVec 32) (s : State) : Outc :=
  .next (runCmd s e tag 0x21 (fun s a =>
    let fam := bits (a 1) 9 8
    let g : Gal := Fin.ofNat 8 (bits (a 1) 2 0)
    if bits (a 1) 63 10 ≠ 0 ∨ bits (a 1) 7 3 ≠ 0 ∨ fam = 0 ∨ fam = 3 ∨ (fam = 1 ∧ (bits (a 2) 63 32 ≠ 0 ∨ a 3 ≠ 0)) then
      done e tag 0x21 .invalid s
    else if isOpen s g then done e tag 0x21 .galleryOpen s
    else done e tag 0x21 .ok (bindHost s g fam (a 2) (a 3) (a 4) (a 5) (a 6) (a 7))))

/-- Is a group of the Gallery leaving self-refresh? -/
def groupsExiting (s : State) (g : Gal) : Bool :=
  (groupsOfGal s g).any (fun c => s.group[(Fin.ofNat 16 c)].exiting)

/-- OPEN: waits for clearing and for exits from self-refresh, then opens or is refused. -/
def execOpen (e : Ep) (tag : BitVec 32) (s : State) : Outc :=
  .next (runWaiting s e tag 0x22 (fun s a =>
    match argGal (a 1) with
    | none => some (done e tag 0x22 .invalid s)
    | some g =>
      if isOpen s g then some (done e tag 0x22 .badState s)
      else if tearing s g || groupsExiting s g then none
      else
        let st := openStatus (openStat s g)
        some (done e tag 0x22 st (openGallery s g))))

/-! ### Registers and retirement -/

/-- Is an argument an offset of the device register space (Table 2-7)? -/
def regArg (a : Word) : Bool := decide (a.toNat % 8 = 0 ∧ a.toNat < 0x12000000)

/-- REG_READ: a reserved offset reads as zero. -/
def execRegRead (e : Ep) (tag : BitVec 32) (s : State) : Outc :=
  .next (runCmd s e tag 0x23 (fun s a =>
    if !regArg (a 1) then done e tag 0x23 .range s
    else
      match readReg s .curator (a 1).toNat with
      | some (w, t) => complete t e tag 0x23 .ok w 0 0
      | none => done e tag 0x23 .ok s))

/-- REG_WRITE: a reserved offset ignores the write. -/
def execRegWrite (e : Ep) (tag : BitVec 32) (s : State) : Outc :=
  .next (runCmd s e tag 0x24 (fun s a =>
    if !regArg (a 1) then done e tag 0x24 .range s
    else done e tag 0x24 .ok ((writeReg s .curator (a 1).toNat (a 2)).getD s)))

/-- RETIRE_APPLY: the record is supplied, and applied as soon as its group can: a row by a remap entry, a channel by
FAIL_CH and REBUILD (R248, R249). -/
def execRetireApply (e : Ep) (tag : BitVec 32) (s : State) : Outc :=
  .next (runCmd s e tag 0x25 (fun s a =>
    let g := bits (a 1) 3 0
    let c := bits (a 1) 7 4
    let chan := bit (a 1) 8
    let spare := bits (a 2) 39 32
    if bits (a 1) 63 9 ≠ 0 ∨ bits (a 2) 63 40 ≠ 0 ∨ bits (a 2) 31 25 ≠ 0 ∨ bits (a 2) 7 4 ≠ 0 ∨ (chan = true ∧ a 2 ≠ 0) then
      done e tag 0x25 .invalid s
    else if !chan && decide (231 < spare) then done e tag 0x25 .range s
    else if (groupOwner s g).any (fun o => isOpen s o) then done e tag 0x25 .badState s
    else
      let s := { s with retire := s.retire ++ (if s.retire.contains (a 1, a 2) then [] else [(a 1, a 2)]) }
      let s :=
        if chan then
          (if retiredCh s g = some c then applied s (a 1) (a 2)
           else celRun (celRun s g 1 c 0 (fun s => failCh s g c)) g 2 0 0 (fun s => rebuild s g))
        else celRun s g 4 c (a 2) (fun s => applyRow s g c (a 2))
      done e tag 0x25 .ok s))

/-! ### Condition Report and Appraisal -/

/-- A record put in its place by SEQ. -/
def insertRec (r : CrRec) : List CrRec → List CrRec
  | [] => [r]
  | x :: l => if crSeq r ≤ crSeq x then r :: x :: l else x :: insertRec r l

/-- The records held at or above a SEQ, in SEQ order. -/
def recordsFrom (s : State) (seq : Nat) : List CrRec :=
  ((s.cr.pinned ++ s.cr.general).filter (fun r => decide (seq ≤ crSeq r))).foldr insertRec []

/-- CR_READ: one CR_ENTRY event a record, then the completion. -/
def execCrRead (e : Ep) (tag : BitVec 32) (s : State) : Outc :=
  .next (runCmd s e tag 0x30 (fun s a =>
    if (a 2) = 0 ∨ 256 < (a 2).toNat then done e tag 0x30 .invalid s
    else
      let l := (recordsFrom s (a 1).toNat).take (a 2).toNat
      let s := l.foldl (fun s r => sendEvent s .mgmt 0x10 0 0 0 (recWords s r)) s
      complete s e tag 0x30 .ok (BitVec.ofNat 64 l.length) (crpWord s 0 8) (crpWord s 0 0x10)))

/-- CR_CLEAR. -/
def execCrClear (e : Ep) (tag : BitVec 32) (s : State) : Outc :=
  .next (runCmd s e tag 0x31 (fun s a => done e tag 0x31 .ok (crFree s (a 1).toNat)))

/-- APPRAISE_READ. -/
def execAppraiseRead (e : Ep) (tag : BitVec 32) (s : State) : Outc :=
  .next (runCmd s e tag 0x32 (fun s a =>
    if !component (a 1).toNat then done e tag 0x32 .range s
    else
      let x := score s (a 1).toNat
      complete s e tag 0x32 .ok (BitVec.ofNat 64 x.score) (BitVec.ofNat 64 x.peer) (BitVec.ofNat 64 x.advn)))

/-- APPRAISE_PEER: the partner's score for its port, with the present Timebase. -/
def execAppraisePeer (e : Ep) (tag : BitVec 32) (s : State) : Outc :=
  .next (runCmd s e tag 0x33 (fun s a =>
    if 12 ≤ (a 1).toNat then done e tag 0x33 .range s
    else if 65535 < (a 2).toNat then done e tag 0x33 .invalid s
    else
      let c := 0x100 + (a 1).toNat
      done e tag 0x33 .ok (setScore s c { score s c with peer := (a 2).toNat, peerAt := some (now s) })))

/-! ### Mirror copies (R399, R400) -/

/-- The half that holds a committed mirror of step `t`: the one RXSTAT names, or the other. -/
def mirrorHalf (s : State) (g : Gal) (t : BitVec 32) : Option Bool :=
  let x := s.gal[g].mrx
  let named := bit (rget s (colGal g.val 0x50)) 1
  let held (h : Bool) : Bool := decide ((if h then x.half1 else x.half0) = some t)
  if held named then some named else if held (!named) then some (!named) else none

/-- MIRROR_SEND: STALE without a committed mirror of the step; it waits while a copy of the Gallery runs. -/
def execMirrorSend (e : Ep) (tag : BitVec 32) (s : State) : Outc :=
  .next (runWaiting s e tag 0x34 (fun s a =>
    match argGal (a 1) with
    | none => some (done e tag 0x34 .invalid s)
    | some g =>
      let x := s.gal[g].mcp
      let step := BitVec.ofNat 32 (a 2).toNat
      if x.running then (if x.tag = tag then some s else none)
      else if bits (a 2) 63 32 ≠ 0 then some (done e tag 0x34 .invalid s)
      else if !isOpen s g then some (done e tag 0x34 .badState s)
      else
        match mirrorHalf s g step with
        | none => some (complete s e tag 0x34 .badState 2 0 0)
        | some h => some (mirrorPump (modTx s g true (fun y =>
            { y with running := true, tag := tag, step := step, half := h, next := 0
                     size := shardSize s g, unacked := [], commitSent := false })) g true)))

/-- MIRROR_ACCEPT: the copy is expected from now on; it completes on COMMIT, or as lost. -/
def execMirrorAccept (e : Ep) (tag : BitVec 32) (s : State) : Outc :=
  .next (runCmd s e tag 0x35 (fun s a =>
    match argGal (a 1) with
    | none => done e tag 0x35 .invalid s
    | some g =>
      if bits (a 2) 63 32 ≠ 0 then done e tag 0x35 .invalid s
      else if !isOpen s g || s.gal[g].mrx.accept.isSome then done e tag 0x35 .badState s
      else modGal s g (fun x => { x with mrx := { x.mrx with accept := some (tag, BitVec.ofNat 32 (a 2).toNat, now s) } })))

/-- MIRROR_ACCEPT_TIMEOUT: no MIRROR_WRITE for 10 ms. -/
def execMirrorAcceptTimeout (g : Gal) (s : State) : Outc :=
  .next (match s.gal[g].mrx.accept with
    | none => s
    | some a => mirrorLost (advanceTo s (a.2.2 + 10000000)) g)

/-- SHT_CHIP_RESET: the completion is sent before the reset begins. -/
def execShtChipReset (e : Ep) (tag : BitVec 32) (s : State) : Outc :=
  .next (runCmd s e tag 0x36 (fun s _ => chipReset (done e tag 0x36 .ok s) 2 0))

/-! ### Netboot (R420) -/

/-- Is a number of image bytes possible: a header and a body of a multiple of 64 bytes up to 6 MiB (R418)? -/
def imageSize (n : Nat) : Bool := decide (8192 ≤ n ∧ n ≤ 8192 + 6 * 2 ^ 20 ∧ (n - 8192) % 64 = 0)

/-- NETBOOT_BEGIN: window 0 opens for an image of that size. -/
def execNetbootBegin (e : Ep) (tag : BitVec 32) (s : State) : Outc :=
  .next (runCmd s e tag 0x40 (fun s a =>
    if bootState s ≠ 3 then done e tag 0x40 .badState s
    else if !imageSize (a 1).toNat then done e tag 0x40 .range s
    else done e tag 0x40 .ok { s with prov := { s.prov with netSize := some (a 1).toNat, netImage := [] } }))

/-- FAILCODE of an image that does not boot: ROLLBACK where it is only too old, else NOIMAGE (Table 14-6). -/
def imageCode (s : State) (h : List Byte) (body : Nat → List Byte) (size : Nat) : Nat :=
  if !imageOk h body || decide (size ≠ 8192 + num h 4 4) then 4
  else if num h 2 2 < minVintage s then 5 else 0

/-- NETBOOT_GO: the image is verified; on success the Curator starts, on failure the device stays in WAITNET.
FAILCODE keeps the QSPI cause under STRAP 0b10. -/
def execNetbootGo (e : Ep) (tag : BitVec 32) (s : State) : Outc :=
  .next (runCmd s e tag 0x41 (fun s _ =>
    match s.prov.netSize with
    | none => done e tag 0x41 .badState s
    | some n =>
      if bootState s ≠ 3 then done e tag 0x41 .badState s
      else
        let h := tblBytes 0 s.prov.netImage 0 8192
        let body (k : Nat) : List Byte := tblBytes 0 s.prov.netImage 8192 k
        let code := imageCode s h body n
        if code = 0 then startCurator (done e tag 0x41 .ok s) h (body (num h 4 4)) 2
        else
          let s := if strapBoot s = 2 then s else fset s (prvReg 0) 31 24 code
          complete s e tag 0x41 .digest (BitVec.ofNat 64 code) 0 0))

/-! ### Quotes and the measurement log (R424 to R427) -/

/-- GiB of a Gallery's groups (R26, R249). -/
def capacity (s : State) (g : Gal) : Nat :=
  ((groupsOfGal s g).map (fun c => if celMode s c = 0 then 128 else if celMode s c = 1 then 120 else 0)).foldl (· + ·) 0

/-- The configuration record of a Gallery (Table 14-8). -/
def configRecord (s : State) (g : Gal) : List Byte :=
  let r (o : Nat) : Nat := (rget s (glyReg g.val o)).toNat
  [BitVec.ofNat 8 g.val] ++ leBytes 1 (fget s (glyReg g.val 0x98) 0 0)
    ++ leBytes 2 (r 0x10) ++ leBytes 2 (r 0x18) ++ leBytes 2 (capacity s g)
    ++ leBytes 1 (b1 (isOpen s g) + 2 * fget s (glyReg g.val 0x30) 1 0) ++ List.replicate 7 0
    ++ leBytes 8 (r 0x20) ++ leBytes 8 (r 0x28) ++ leBytes 8 s.catActive.gal[g].toNat
    ++ allPorts.flatMap (fun p => leBytes 1 (fget s (lnkReg p.val 0x40) (8 * g.val + 7) (8 * g.val)))
    ++ List.replicate 4 0 ++ leBytes 8 (gen s g).toNat

/-- Bytes 0 to 639 of a quote (Table 14-7). -/
def quoteBody (s : State) (g : Option Gal) (nonce : List Byte) : List Byte :=
  leBytes 2 1 ++ [match g with | some g => BitVec.ofNat 8 g.val | none => 0xFF] ++ [0]
    ++ leBytes 2 (vintage s) ++ leBytes 2 (coord s) ++ leBytes 8 (now s) ++ nonce ++ leBytes 4 s.cr.boots
    ++ leBytes 4 (rget s (prvReg 0x10)).toNat ++ List.replicate 8 0
    ++ s.prov.meas.toList.flatMap id
    ++ (match g with | some g => configRecord s g | none => List.replicate 64 0)

/-- A byte string of exactly `n` bytes. -/
def fixLen (n : Nat) (b : List Byte) : List Byte := b.take n ++ List.replicate (n - b.length) 0

/-- QUOTE: the measurements are copied as the quote begins; one is formed at a time. -/
def execQuote (e : Ep) (tag : BitVec 32) (s : State) : Outc :=
  .next (runWaiting s e tag 0x42 (fun s a =>
    let nonce := wordsOf [a 2, a 3, a 4, a 5]
    let begin_ (g : Option Gal) : Option State :=
      match s.prov.quotes with
      | [] => some { s with prov := { s.prov with quotes := [⟨e, tag, quoteBody s g nonce⟩] } }
      | q :: _ => if q.tag = tag ∧ q.ep = e then some s else none
    if a 1 = 0xFF then begin_ none
    else
      match argGal (a 1) with
      | none => some (done e tag 0x42 .invalid s)
      | some g =>
        if fget s (glyReg g.val 0x10) 15 0 = 0 ∧ fget s (glyReg g.val 0x18) 15 0 = 0 then some (done e tag 0x42 .badState s)
        else begin_ (some g)))

/-- Parts of 56 bytes of a stream, as events. -/
def sendParts (s : State) (kind : Nat) (b : List Byte) : State :=
  (List.range (cdiv b.length 56)).foldl (fun s n =>
    let p := fixLen 56 (cut b (56 * n) 56)
    sendEvent s .mgmt kind 0 0 n ((List.range 7).map (msgWord p))) s

/-- QUOTE_SIGNED: both signatures are taken; the parts are sent, then the completion. -/
def execQuoteSigned (s : State) : Outc :=
  .next (match s.prov.quotes with
    | [] => s
    | q :: rest =>
      let k := s.prov.seeds.getD ([], [])
      let b := q.body ++ fixLen 64 (Config.ed25519Sign k.1 q.body) ++ fixLen 3309 (Config.mldsaSign k.2 q.body)
      let s := { s with prov := { s.prov with quotes := rest } }
      complete (sendParts s 0x12 b) q.ep q.tag 0x42 .ok 4013 0 0)

/-- MEASLOG_READ. -/
def execMeaslogRead (e : Ep) (tag : BitVec 32) (s : State) : Outc :=
  .next (runCmd s e tag 0x43 (fun s a =>
    if a 2 = 0 ∨ 256 < (a 2).toNat then done e tag 0x43 .invalid s
    else
      let l := (s.prov.log.drop (a 1).toNat).take (a 2).toNat
      complete (sendParts s 0x13 (l.flatMap id)) e tag 0x43 .ok (BitVec.ofNat 64 l.length) 0 0))

/-! ### Firmware updates (R428) -/

/-- FLASH_BEGIN: the slot that did not boot is erased; an open update starts over. -/
def execFlashBegin (e : Ep) (tag : BitVec 32) (s : State) : Outc :=
  .next (runCmd s e tag 0x44 (fun s a =>
    let slot := fget s (prvReg 0) 13 12
    if 2 ≤ slot then done e tag 0x44 .badState s
    else if !imageSize (a 1).toNat then done e tag 0x44 .range s
    else
      let k : Fin 2 := if slot = 0 then 1 else 0
      { s with prov := { s.prov with flash := s.prov.flash.set k []
                                     update := some { slot := k, size := (a 1).toNat } } }))

/-- FLASH_ERASE_COMPLETE: window 1 is open, and FLASH_BEGIN completes. -/
def execFlashEraseComplete (s : State) : Outc :=
  .next (match s.prov.update with
    | none => s
    | some u =>
      if u.erased then s
      else
        let s := { s with prov := { s.prov with update := some { u with erased := true } } }
        ((endpoint s .mgmt).cmds.filter (fun c => decide (c.op = 0x44) && c.started)).foldl (fun s c =>
          complete s .mgmt c.tag 0x44 .ok (BitVec.ofNat 64 u.slot.val) 0 0) s)

/-- FLASH_COMMIT: the held header goes into the slot once the programmed body passes the checks. -/
def execFlashCommit (e : Ep) (tag : BitVec 32) (s : State) : Outc :=
  .next (runCmd s e tag 0x45 (fun s _ =>
    match s.prov.update with
    | none => done e tag 0x45 .badState s
    | some u =>
      if !u.erased then done e tag 0x45 .badState s
      else
        let h := tblBytes 0 u.header 0 8192
        if imageCode s h (flashBody s u.slot) u.size = 0 then
          let p := s.prov
          let s := { s with prov := { p with flash := p.flash.set u.slot (tblPut 0xFF p.flash[u.slot] 0 h), update := none } }
          complete s e tag 0x45 .ok (BitVec.ofNat 64 u.slot.val) (BitVec.ofNat 64 (num h 2 2)) 0
        else done e tag 0x45 .digest s))

end Sys2Proof.Machine
end

