-- ==== Sys2Proof/Machine/Storage.lean ====
section
/-! DEFINITION. Storage services: the NVMe/TCP initiator, targets, the checkpoint writer and the shard reader
(R367 to R373). PDU and command layouts are those of the NVM Express TCP transport and base specifications, which
R367 names. -/

namespace Sys2Proof.Machine

/-! ### PDUs -/

def crcBytesOf (b : List Byte) : List Byte := leBytes 4 (crc32c b).toNat

/-- A PDU with header and data digests: type, flags beside the digest flags, the header after its first 8 bytes,
and the data. -/
def mkPdu (type flags : Nat) (hdr data : List Byte) : List Byte :=
  let hlen := hdr.length + 8
  let dn := if data = [] then 0 else data.length + 4
  let h := [BitVec.ofNat 8 type, BitVec.ofNat 8 (flags + 1 + (if data = [] then 0 else 2)), BitVec.ofNat 8 hlen,
    BitVec.ofNat 8 (if data = [] then 0 else hlen + 4)] ++ leBytes 4 (hlen + 4 + dn) ++ hdr
  h ++ crcBytesOf h ++ (if data = [] then [] else data ++ crcBytesOf data)

/-- ICReq: both digests requested. -/
def icReq : List Byte := [0, 0, 128, 0] ++ leBytes 4 128 ++ [0, 0, 0, 3] ++ List.replicate 116 0

/-- A 64-byte command: opcode, CID, NSID or FCTYPE, the transport data block of a length, and CDW10 to CDW15. -/
def sqe (op cid nsid len : Nat) (cdws : List Byte) : List Byte :=
  [BitVec.ofNat 8 op, 0x40] ++ leBytes 2 cid ++ leBytes 4 nsid ++ List.replicate 24 0 ++ leBytes 4 len ++ [0, 0, 0, 0x5A]
    ++ cdws.take 24 ++ List.replicate (24 - cdws.length) 0

/-! ### Connections -/

def findConn (s : State) (id : Nat) : Option Conn := s.conns.find? (fun c => decide (c.id = id))
def modConn (s : State) (id : Nat) (f : Conn → Conn) : State :=
  { s with conns := s.conns.map (fun c => if c.id = id then f c else c) }

/-- The MSS: what frames of 9,216 bytes leave of TCP payload beside the Ethernet header and check sequence, a tag, and the
IP and TCP headers (Table 12-1, R368; log entry 100). -/
def mss (s : State) (c : Conn) : Nat :=
  let v6 := decide (2 ^ 48 ≤ s.gal[(Fin.ofNat 8 c.gal)].targets[c.slot].addr.toNat)
  9216 - 18 - (if fget s (ethReg 8) 19 8 = 0 then 0 else 4) - 20 - (if v6 then 40 else 20)

/-- Bytes cut into segments. -/
def segments (n : Nat) : Nat → List Byte → List (List Byte)
  | 0, _ => []
  | fuel + 1, b => if b = [] then [] else b.take n :: segments n fuel (b.drop n)

def flight (c : Conn) : Nat := (c.unacked.map List.length).foldl (· + ·) 0

/-- Send what the congestion window allows (RFC 5681); a segment always goes where none is in flight. -/
def connFlush : Nat → State → Nat → State
  | 0, s, _ => s
  | fuel + 1, s, id =>
    match findConn s id with
    | none => s
    | some c =>
      match c.sendq with
      | [] => s
      | b :: r =>
        if c.unacked ≠ [] ∧ c.cwnd < flight c + b.length then s
        else
          let s := modConn s id (fun c => { c with sendq := r, unacked := c.unacked ++ [b]
                                                   sentAt := if c.unacked = [] then now s else c.sentAt
                                                   again := c.again && decide (c.unacked ≠ []) })
          connFlush fuel (ethSend s (.tcp id b)) id

/-- Send bytes on a connection; they may have to be sent again. -/
def connSend (s : State) (id : Nat) (b : List Byte) : State :=
  match findConn s id with
  | none => s
  | some c =>
    let l := c.sendq ++ segments (mss s c) b.length b
    connFlush l.length (modConn s id (fun c => { c with sendq := l })) id

/-- The target answers: what was in flight is acknowledged. The window opens (RFC 5681), and the timeout is computed again
from a round trip that no retransmission blurs (RFC 6298). -/
def connAcked (s : State) (id : Nat) : State :=
  match findConn s id with
  | none => s
  | some c =>
    if c.unacked = [] then s
    else
      let m := mss s c
      let w := if c.cwnd < c.ssthresh then c.cwnd + min (flight c) m else c.cwnd + max 1 (m * m / c.cwnd)
      let r := now s - c.sentAt
      let t := if c.again then c.rtt else some (match c.rtt with
        | none => (r, r / 2)
        | some (a, v) => ((7 * a + r) / 8, (3 * v + ((a - r) + (r - a))) / 4))
      let o := match t with
        | none => c.rto
        | some (a, v) => max 1000000000 (a + 4 * v)
      let s := modConn s id (fun c => { c with unacked := [], again := false, cwnd := w, rtt := t, rto := o })
      connFlush c.sendq.length s id

/-- A new connection of a target, from an ephemeral port that the initiator chooses; ICReq goes out. -/
def connOpen (s : State) (g : Gal) (slot : Fin 4) (qid : Nat) : State :=
  let id := s.conns.foldl (fun m c => max m (c.id + 1)) 0
  let port := 49152 + (Config.freeWord s.free).toNat % 16384
  let c : Conn := { id := id, gal := g.val, slot := slot, qid := qid, lport := BitVec.ofNat 16 port }
  connSend { s with free := s.free + 1, conns := s.conns ++ [c] } id icReq

/-- Send a command on a connection. -/
def nvmeSend (s : State) (id : Nat) (use : NvmeUse) (op nsid lba need : Nat) (data cdws : List Byte) : State :=
  match findConn s id with
  | none => s
  | some c =>
    let k := c.nextCid % 65536
    let s := modConn s id (fun c => { c with nextCid := c.nextCid + 1
                                             cmds := c.cmds ++ [{ cid := k, use := use, lba := lba, data := data, need := need }] })
    connSend s id (mkPdu 4 0 (sqe op k nsid (max need data.length) cdws) [])

/-! ### Targets (R370) -/

def modTarget (s : State) (g : Gal) (i : Fin 4) (f : Target → Target) : State :=
  modGal s g (fun x => { x with targets := x.targets.set i (f x.targets[i]) })
def connGal (c : Conn) : Gal := Fin.ofNat 8 c.gal
def targetOf (s : State) (c : Conn) : Target := s.gal[connGal c].targets[c.slot]

/-- The connections of a target. -/
def targetConns (s : State) (g : Gal) (i : Fin 4) : List Conn :=
  s.conns.filter (fun c => decide (c.gal = g.val ∧ c.slot = i) && !c.closing)
def dropConns (s : State) (g : Gal) (i : Fin 4) : State := closeConns s (fun c => decide (c.gal = g.val ∧ c.slot = i))

/-- Connect (Fabrics): the data names the host and the subsystem; the Host Identifier is the device's own. -/
def sendConnect (s : State) (c : Conn) : State :=
  let t := targetOf s c
  let hid := leBytes 16 (Config.nonce s.free).toNat
  let data := hid ++ leBytes 2 (if c.qid = 0 then 0xFFFF else t.cntlid) ++ List.replicate 238 0
    ++ fixLen 256 t.subnqn ++ fixLen 256 t.hostnqn ++ List.replicate 256 0
  nvmeSend { s with free := s.free + 1 } c.id .connect 0x7F 1 0 0 data ([0, 0] ++ leBytes 2 c.qid ++ leBytes 2 63)

/-- Property Set of CC and Property Get of CSTS. -/
def sendEnable (s : State) (id : Nat) : State :=
  nvmeSend s id .propSet 0x7F 0 0 0 [] ([0, 0, 0, 0] ++ leBytes 4 0x14 ++ leBytes 8 0x460001)
def sendStatus (s : State) (id : Nat) : State :=
  nvmeSend s id .propGet 0x7F 4 0 0 [] ([0, 0, 0, 0] ++ leBytes 4 0x1C)

/-- A TARGET_SET ends without an open slot. -/
def targetFail (s : State) (g : Gal) (i : Fin 4) (r1 : Word) : State :=
  match s.gal[g].targets[i].opening with
  | none => s
  | some (e, tag) =>
    complete (dropConns (modTarget s g i (fun _ => {})) g i) e tag 0x10 .storage r1 0 0

/-- A refusal for which the target gave no status: R1 is open. -/
def targetRefuse (s : State) (g : Gal) (i : Fin 4) : State :=
  let t := freeWord s
  targetFail t.2 g i t.1

/-! ### Reading a Gallery's memory -/

/-- The bytes of a virtual range, and whether a line is poisoned; else the translation that failed and where. -/
def virtParts (s : State) (g : Gal) (write : Bool) : Nat → Nat → Nat → Except (Xlate × Nat) (List (Nat × Nat))
  | 0, _, _ => .ok []
  | fuel + 1, a, n =>
    if n = 0 then .ok []
    else
      let k := min n (2 ^ 17 - a % 2 ^ 17)
      match translate s g a write with
      | .ok p =>
        match virtParts s g write fuel (a + k) (n - k) with
        | .ok l => .ok ((p, k) :: l)
        | .error x => .error x
      | x => .error (x, a)

def virtGet (s : State) (g : Gal) (a n : Nat) : Except (Xlate × Nat) (List Byte × Bool) :=
  match virtParts s g false (n / 2 ^ 17 + 2) a n with
  | .error x => .error x
  | .ok ps => .ok (ps.flatMap (fun p => s.mem.bytes p.1 p.2), ps.any (fun p => s.mem.anyPoison p.1 p.2))

/-- Read for a command: an unmapped address fails it with FAULT, poison with POISON; a migrating frame delays it. -/
def cmdGet (s : State) (e : Ep) (tag : BitVec 32) (op : Nat) (a n : Nat) (f : List Byte → Option State) : Option State :=
  let g := epGal e
  if 2 ^ 48 < a + n then some (done e tag op .range s)
  else
    match virtGet s g a n with
    | .error (.migrating, _) => none
    | .error (t, x) =>
      let k := if t = .fmapUe then 4 else 1
      some (complete (ethFault s g k x) e tag op .fault (BitVec.ofNat 64 k) (BitVec.ofNat 64 x) 0)
    | .ok (b, psn) => if psn then some (done e tag op .poison s) else f b

/-- TARGET_SET: the slot closes, once its streams have ended, and its admin queue is opened. -/
def execTargetSet (e : Ep) (tag : BitVec 32) (s : State) : Outc :=
  .next (runWaiting s e tag 0x10 (fun s a =>
    let g := epGal e
    let i : Fin 4 := Fin.ofNat 4 (bits (a 1) 1 0)
    let fam := bits (a 1) 9 8
    let sn := bits (a 6) 7 0
    let hn := bits (a 7) 63 56
    if s.gal[g].targets[i].opening = some (e, tag) then some s
    else if bits (a 1) 63 10 ≠ 0 ∨ bits (a 1) 7 2 ≠ 0 ∨ fam = 0 ∨ fam = 3 ∨ bits (a 4) 31 16 ≠ 0 ∨ bits (a 6) 63 8 ≠ 0
        ∨ bits (a 7) 55 48 ≠ 0 ∨ sn = 0 ∨ 223 < sn ∨ hn = 0 ∨ 223 < hn
        ∨ (fam = 1 ∧ (bits (a 2) 63 32 ≠ 0 ∨ a 3 ≠ 0)) then some (done e tag 0x10 .invalid s)
    else if s.streams.toList.any (fun x => x.active && decide (x.gal = g.val ∧ x.slot = i)) then none
    else
      cmdGet s e tag 0x10 (a 5).toNat sn (fun sub =>
        cmdGet s e tag 0x10 (bits (a 7) 47 0) hn (fun host =>
          let addr : BitVec 128 := if fam = 1 then BitVec.ofNat 128 (0xFFFF * 2 ^ 32 + (a 2).toNat)
            else BitVec.ofNat 128 ((a 2).toNat + 2 ^ 64 * (a 3).toNat)
          let t : Target := { opening := some (e, tag), addr := addr, port := BitVec.ofNat 16 (bits (a 4) 15 0)
                              nsid := BitVec.ofNat 32 (bits (a 4) 63 32), subnqn := sub, hostnqn := host }
          some (connOpen (modTarget (dropConns s g i) g i (fun _ => t)) g i 0)))))

/-! ### Streams (R371 to R373) -/

/-- A whole stream's digest so far continued by data of a multiple of 128 bytes. -/
def hashMore (h : List Word) (b : List Byte) : List Word := shaBlocks (b.length / 128) h b

/-- The digest's 64 bytes. -/
def hashEnd (h : List Word) (total : Nat) : List Byte := beBytes (shaFinish h [] total)

def setStream (s : State) (i : Fin 16) (x : Stream) : State := { s with streams := s.streams.set i x }
def streamOp (x : Stream) : Nat := if x.write then 0x11 else 0x12

/-- A stream ends. -/
def streamEnd (s : State) (i : Fin 16) (st : Status) (r1 r2 r3 : Word) : State :=
  let x := s.streams[i]
  complete (endStream s i) x.ep x.tag (streamOp x) st r1 r2 r3

/-- The stream ends on a translation that failed. -/
def streamFault (s : State) (i : Fin 16) (x : Xlate) (a : Nat) : State :=
  let g : Gal := Fin.ofNat 8 s.streams[i].gal
  if x = .readOnly then streamEnd (ethFault s g 3 a) i .permission 0 0 0
  else
    let k := if x = .fmapUe then 4 else 1
    streamEnd (ethFault s g k a) i .fault (BitVec.ofNat 64 k) (BitVec.ofNat 64 a) 0

/-- The virtual address of an offset of the stream's data. -/
def extentAddr : List (Nat × Nat) → Nat → Nat
  | [], _ => 0
  | (a, n) :: r, o => if o < n then a + o else extentAddr r (o - n)

/-- Bytes that one Read or Write command of a stream carries. -/
def chunk : Nat := 4096

/-- An I/O queue of a target with room. -/
def freeQueue (s : State) (x : Stream) : Option Conn :=
  s.conns.find? (fun c => decide (c.gal = x.gal ∧ c.slot = x.slot ∧ 1 ≤ c.qid) && c.ready && decide (c.cmds.length < 64))

/-- NVMe commands of a stream outstanding. -/
def outstanding (s : State) (i : Fin 16) : Nat :=
  (s.conns.flatMap (fun c => c.cmds)).countP (fun m => match m.use with
    | .data j _ => decide (j = i) | .flush j => decide (j = i) | .trailer j => decide (j = i) | _ => false)

def streamTarget (s : State) (x : Stream) : Target := s.gal[(Fin.ofNat 8 x.gal)].targets[x.slot]
/-- SLBA and the number of blocks less one. -/
def rwCdws (lba blocks : Nat) : List Byte := leBytes 8 lba ++ leBytes 2 (blocks - 1)

/-- The trailer's block (Table 12-7). -/
def trailerBlock (s : State) (x : Stream) : List Byte :=
  fixLen (streamTarget s x).lbaSize
    (leBytes 4 0x4B504354 ++ leBytes 2 1 ++ leBytes 2 (vintage s) ++ leBytes 1 x.gal ++ List.replicate 7 0
      ++ leBytes 8 x.total ++ leBytes 4 x.step.toNat ++ leBytes 2 (coord s) ++ [0, 0] ++ leBytes 8 x.startAt
      ++ leBytes 8 x.flushAt ++ hashEnd x.hash x.total)

/-- Send one more data command of a stream; the flag says whether another may follow. -/
def streamSend (s : State) (i : Fin 16) (c : Conn) : State × Bool :=
  let x := s.streams[i]
  let g : Gal := Fin.ofNat 8 x.gal
  let t := streamTarget s x
  let o := x.issued
  let a := extentAddr x.extents o
  let lba := x.lba + o / t.lbaSize
  let cdws := rwCdws lba (chunk / t.lbaSize)
  if x.write then
    match translate s g a false with
    | .ok p =>
      if s.mem.anyPoison p chunk then (streamEnd s i .poison 0 0 0, false)
      else
        let b := s.mem.bytes p chunk
        let s := setStream s i { x with issued := o + chunk, hash := hashMore x.hash b }
        (nvmeSend s c.id (.data i o) 0x01 t.nsid.toNat lba 0 b cdws, true)
    | .migrating => (addStall s .ethernet g a false false (16 + i.val), false)
    | f => (streamFault s i f a, false)
  else
    (nvmeSend (setStream s i { x with issued := o + chunk }) c.id (.data i o) 0x02 t.nsid.toNat lba chunk [] cdws, true)

/-- Send what a stream may have in flight: 256 commands. -/
def streamPump : Nat → State → Fin 16 → State
  | 0, s, _ => s
  | fuel + 1, s, i =>
    let x := s.streams[i]
    if x.active ∧ x.phase = 0 ∧ x.issued < x.total ∧ outstanding s i < 256 then
      match freeQueue s x with
      | none => s
      | some c =>
        let t := streamSend s i c
        if t.2 then streamPump fuel t.1 i else t.1
    else s

/-- The digest words of a final record. -/
def digestWords (d : List Byte) : Word × Word := (msgWord d 0, msgWord d 1)

/-- Go on once the data commands are done: Flush and trailer of a checkpoint, or the end of a shard read. -/
def streamNext (s : State) (i : Fin 16) : State :=
  let x := s.streams[i]
  let fl (s : State) (x : Stream) : State :=
    match freeQueue s x with
    | none => s
    | some c => nvmeSend (setStream s i x) c.id (.flush i) 0x00 (streamTarget s x).nsid.toNat 0 0 [] []
  if !x.active || decide (outstanding s i ≠ 0) then s
  else if x.write then
    let end_ := x.lba + x.total / (streamTarget s x).lbaSize
    if x.phase = 0 then (if x.done = x.total then fl s { x with phase := 1, flushAt := now s } else s)
    else if x.phase = 1 then
      match freeQueue s x with
      | none => s
      | some c => nvmeSend (setStream s i { x with phase := 2 }) c.id (.trailer i) 0x01 (streamTarget s x).nsid.toNat end_ 0
          (trailerBlock s x) (rwCdws end_ 1)
    else if x.phase = 2 then fl s { x with phase := 3 }
    else
      let d := digestWords (hashEnd x.hash x.total)
      streamEnd s i .ok (BitVec.ofNat 64 x.total) d.1 d.2
  else if x.done = x.total then
    let h := hashEnd x.hash x.total
    let d := digestWords h
    if x.expect ≠ [] ∧ x.expect ≠ h then streamEnd s i .digest (BitVec.ofNat 64 x.total) d.1 d.2
    else streamEnd s i .ok (BitVec.ofNat 64 x.total) d.1 d.2
  else s

/-- Everything that the streams can do now. -/
def streamsRun (s : State) : State :=
  (List.range 16).foldl (fun s k =>
    let i : Fin 16 := Fin.ofNat 16 k
    if s.streams[i].active then streamNext (streamPump 257 s i) i else s) s

/-- Read data absorbed into the digest in list order. -/
def absorb : Nat → Stream → Stream
  | 0, x => x
  | fuel + 1, x =>
    match x.late.find? (fun d => decide (d.1 = x.hashed)) with
    | none => x
    | some d => absorb fuel { x with hash := hashMore x.hash d.2, hashed := x.hashed + d.2.length
                                     late := x.late.filter (fun k => decide (k.1 ≠ d.1)) }

/-- Data of a shard read reaches its destination: written whole, or it waits for a migrating frame. -/
def streamStore (s : State) (i : Fin 16) (o : Nat) (b : List Byte) : State :=
  let x := s.streams[i]
  let g : Gal := Fin.ofNat 8 x.gal
  let a := extentAddr x.extents o
  match translate s g a true with
  | .ok p => setStream { s with mem := s.mem.store p b false } i { x with done := x.done + b.length }
  | .migrating => addStall (setStream s i { x with wait := x.wait ++ [(o, b)] }) .ethernet g a true false (16 + i.val)
  | f => streamFault s i f a

/-- A data command of a stream has succeeded. -/
def streamData (s : State) (i : Fin 16) (o : Nat) (b : List Byte) : State :=
  let x := s.streams[i]
  if x.write then setStream s i { x with done := x.done + chunk }
  else
    let y := { x with late := x.late ++ [(o, b)] }
    streamStore (setStream s i (absorb (y.late.length) y)) i o b

/-- A stall of a stream has ended: what waited for a frame is tried again. -/
def streamRetry (s : State) (i : Fin 16) : State :=
  let x := s.streams[i]
  x.wait.foldl (fun s d => if s.streams[i].active then streamStore s i d.1 d.2 else s) (setStream s i { x with wait := [] })

/-- The entries of an extent list. -/
def parseExtents : Nat → List Byte → List (Nat × Nat)
  | 0, _ => []
  | n + 1, b => (num b 0 8, num b 8 8) :: parseExtents n (b.drop 16)

/-- Start a stream (R371, R372). -/
def streamStart (s : State) (e : Ep) (tag : BitVec 32) (op : Nat) (a : Nat → Word) : Option State :=
  let g := epGal e
  let write := decide (op = 0x11)
  let slot : Fin 4 := Fin.ofNat 4 (bits (a 1) 1 0)
  let t := s.gal[g].targets[slot]
  let n := (a 3).toNat
  if s.streams.toList.any (fun x => x.active && decide (x.ep = e ∧ x.tag = tag ∧ streamOp x = op)) then some s
  else if bits (a 1) 63 2 ≠ 0 ∨ n = 0 ∨ 4096 < n ∨ (write = true ∧ bits (a 5) 63 32 ≠ 0) then some (done e tag op .invalid s)
  else if t.set = false then some (done e tag op .badState s)
  else if 4 ≤ s.streams.toList.countP (fun x => x.active && decide (x.gal = g.val)) then some (done e tag op .noResource s)
  else
    match (List.range 16).find? (fun k => !s.streams[(Fin.ofNat 16 k)].active) with
    | none => some (done e tag op .noResource s)
    | some k =>
      cmdGet s e tag op (a 2).toNat (16 * n) (fun lb =>
        let ex := parseExtents n lb
        let total := (ex.map Prod.snd).foldl (· + ·) 0
        let go (expect : List Byte) : Option State :=
          let i : Fin 16 := Fin.ofNat 16 k
          some (streamsRun (setStream s i
            { active := true, gal := g.val, write := write, ep := e, tag := tag, slot := slot, lba := (a 4).toNat
              step := BitVec.ofNat 32 (a 5).toNat, extents := ex, total := total, hash := shaInit, expect := expect
              startAt := now s }))
        if ex.any (fun x => decide (x.1 % 4096 ≠ 0 ∨ x.2 % 4096 ≠ 0)) then some (done e tag op .invalid s)
        else if ex.any (fun x => decide (2 ^ 48 < x.1 + x.2)) ∨ t.lbas < (a 4).toNat + total / t.lbaSize + b1 write then
          some (done e tag op .range s)
        else if write ∨ a 5 = 0 then go []
        else cmdGet s e tag op (a 5).toNat 64 go)

/-- CKPT_WRITE. -/
def execCkptWrite (e : Ep) (tag : BitVec 32) (s : State) : Outc :=
  .next (runWaiting s e tag 0x11 (fun s a => streamStart s e tag 0x11 a))
/-- SHARD_READ. -/
def execShardRead (e : Ep) (tag : BitVec 32) (s : State) : Outc :=
  .next (runWaiting s e tag 0x12 (fun s a => streamStart s e tag 0x12 a))

/-- STREAM_ABORT: the stream ends with ABORTED. -/
def execStreamAbort (e : Ep) (tag : BitVec 32) (s : State) : Outc :=
  .next (runCmd s e tag 0x13 (fun s a =>
    if 16 ≤ (a 1).toNat then done e tag 0x13 .range s
    else
      let i : Fin 16 := Fin.ofNat 16 (a 1).toNat
      let x := s.streams[i]
      if !x.active || decide (x.gal ≠ (epGal e).val) then done e tag 0x13 .badState s
      else done e tag 0x13 .ok (streamEnd s i .aborted (BitVec.ofNat 64 x.done) 0 0)))

/-- STREAM_PROGRESS: bytes completed so far. -/
def execStreamProgress (i : Fin 16) (s : State) : Outc :=
  let x := s.streams[i]
  .next (if !x.active then s
    else
      match findCmd (endpoint s x.ep) x.tag (streamOp x) with
      | none => s
      | some c => sendFor s x.ep c .progress (BitVec.ofNat 64 x.done) 0 0)

/-! ### PDUs received (R367, R369) -/

/-- A connection is lost: every stream that uses it ends with STORAGE, R1 = 0xFFFF (R368). -/
def connLost (s : State) (c : Conn) : State :=
  let g := connGal c
  let s : State := { s with conns := s.conns.filter (fun k => decide (k.id ≠ c.id)) }
  let s := if c.qid = 0 ∨ c.closing = true then s else
      (List.range 16).foldl (fun (s : State) k =>
        let i : Fin 16 := Fin.ofNat 16 k
        let x : Stream := s.streams[i]
        if x.active = true ∧ x.gal = c.gal ∧ x.slot = c.slot then streamEnd s i .storage 0xFFFF 0 0 else s) s
  if c.closing then s else modTarget (targetFail s g c.slot 0xFFFF) g c.slot (fun t => { t with set := false })

/-- The header of a PDU is whole and its digests verify; ICResp carries none. -/
def pduOk (p : List Byte) : Bool :=
  let type := num p 0 1
  let flags := BitVec.ofNat 8 (num p 1 1)
  let hlen := num p 2 1
  let pdo := num p 3 1
  decide (8 ≤ p.length ∧ num p 4 4 = p.length) &&
    (if type = 1 then decide (p.length = 128)
     else
      bit flags 0 && decide (24 ≤ hlen ∧ hlen + 4 ≤ p.length) && decide (cut p hlen 4 = crcBytesOf (cut p 0 hlen)) &&
        (decide (type ≠ 7) || (bit flags 1 && decide (hlen + 4 ≤ pdo ∧ pdo + 4 ≤ p.length ∧
          cut p (p.length - 4) 4 = crcBytesOf (cut p pdo (p.length - 4 - pdo))))))

/-- I/O queues are opened once the controller is ready. -/
def openIo (s : State) (c : Conn) : State :=
  ([1, 2, 3, 4] : List Nat).foldl (fun s q => connOpen s (connGal c) c.slot q) s

def sendIdentify (s : State) (c : Conn) (use : NvmeUse) (nsid cns : Nat) : State :=
  nvmeSend s c.id use 0x06 nsid 0 4096 [] (leBytes 4 cns)

/-- All four I/O queues are connected: Identify goes out on the admin queue. -/
def ioReady (s : State) (c : Conn) : State :=
  let l := targetConns s (connGal c) c.slot
  if l.countP (fun k => decide (1 ≤ k.qid) && k.ready) = 4 then
    match l.find? (fun k => decide (k.qid = 0)) with
    | none => s
    | some a => sendIdentify s a .identCtrl 0 1
  else s

/-- Identify Namespace has come: the slot is open, unless its LBA size is neither 512 nor 4,096. -/
def namespaceRead (s : State) (c : Conn) (d : List Byte) : State :=
  let g := connGal c
  let t := targetOf s c
  let k := num d (128 + 4 * (num d 26 1 % 16) + 2) 1
  if k ≠ 9 ∧ k ≠ 12 then targetRefuse s g c.slot
  else
    match t.opening with
    | none => s
    | some (e, tag) =>
      let n := num d 0 8
      complete (modTarget s g c.slot (fun t => { t with set := true, opening := none, lbas := n, lbaSize := 2 ^ k }))
        e tag 0x10 .ok (BitVec.ofNat 64 n) (BitVec.ofNat 64 (2 ^ k)) 0

/-- A command of the initiator has ended with a status; `r` is the first 8 bytes of its response. -/
def nvmeEnd (s : State) (c : Conn) (m : NvmeCmd) (status : Nat) (r : Word) : State :=
  let g := connGal c
  let s := modConn s c.id (fun k => { k with cmds := k.cmds.filter (fun x => decide (x.cid ≠ m.cid)) })
  let s := { s with conns := s.conns.filter (fun k => !(k.closing && decide (k.cmds = []))) }
  let bad := decide (status ≠ 0)
  let st := BitVec.ofNat 64 status
  let setup (f : State) : State := if bad then targetFail s g c.slot st else f
  match m.use with
  | .connect => setup
      (if c.qid = 0 then sendEnable (modTarget s g c.slot (fun t => { t with cntlid := bits r 15 0 })) c.id
       else ioReady (modConn s c.id (fun k => { k with ready := true })) c)
  | .propSet => setup (sendStatus s c.id)
  | .propGet => setup (if bit r 0 then openIo s c else sendStatus s c.id)
  | .identCtrl => setup (sendIdentify s c .identNs (targetOf s c).nsid.toNat 0)
  | .identNs => setup (namespaceRead s c m.data)
  | .data i o => streamsRun (if bad then streamEnd s i .storage st (BitVec.ofNat 64 m.lba) 0 else streamData s i o m.data)
  | .flush i => streamsRun (if bad then streamEnd s i .storage st 0 0 else s)
  | .trailer i => streamsRun (if bad then streamEnd s i .storage st (BitVec.ofNat 64 m.lba) 0 else s)
  | .dropped => streamsRun s

/-- ICResp: both digests must be taken; then the queue is connected. -/
def icResp (s : State) (c : Conn) (p : List Byte) : State :=
  if c.up then connLost s c
  else if num p 11 1 % 4 ≠ 3 then targetRefuse s (connGal c) c.slot
  else sendConnect (modConn s c.id (fun k => { k with up := true, maxH2c := num p 12 4 })) c

/-- H2CData for an R2T, in PDUs of at most MAXH2CDATA bytes. -/
def h2cData (cid ttag maxn : Nat) : Nat → State → Nat → Nat → List Byte → State
  | 0, s, _, _, _ => s
  | fuel + 1, s, id, o, b =>
    let k := b.take (max 1 maxn)
    let rest := b.drop (max 1 maxn)
    let hdr := leBytes 2 cid ++ leBytes 2 ttag ++ leBytes 4 o ++ leBytes 4 k.length ++ [0, 0, 0, 0]
    let s := connSend s id (mkPdu 6 (if rest = [] then 4 else 0) hdr k)
    if rest = [] then s else h2cData cid ttag maxn fuel s id (o + k.length) rest

/-- Bytes placed into a buffer. -/
def putBytes (b : List Byte) (o : Nat) (d : List Byte) : List Byte :=
  fixLen o b ++ d ++ b.drop (o + d.length)

/-- A PDU for an outstanding command. -/
def pduTake (s : State) (c : Conn) (p : List Byte) : State :=
  let type := num p 0 1
  let cid := if type = 5 then num p 20 2 else num p 8 2
  match c.cmds.find? (fun m => decide (m.cid = cid)) with
  | none => connLost s c
  | some m =>
    if type = 5 then nvmeEnd s c m (num p 22 2 / 2) (msgWord p 1)
    else if type = 9 then
      let o := num p 12 4
      let n := num p 16 4
      if m.data.length < o + n ∨ n = 0 then connLost s c
      else h2cData cid (num p 10 2) c.maxH2c (n + 1) s c.id o (cut m.data o n)
    else
      let o := num p 12 4
      let d := cut p (num p 3 1) (p.length - 4 - num p 3 1)
      if num p 16 4 ≠ d.length ∨ m.need < o + d.length then connLost s c
      else
        let m := { m with data := putBytes m.data o d }
        let s := modConn s c.id (fun k => { k with cmds := k.cmds.map (fun x => if x.cid = cid then m else x) })
        if bit (BitVec.ofNat 8 (num p 1 1)) 3 then nvmeEnd s c m 0 0 else s

/-- NVME_TCP_PDU_RECEIVE: a PDU whose digest fails, or that is none the subset uses, ends its connection. -/
def execNvmeTcpPduReceive (conn : Nat) (pdu : List Byte) (s : State) : Outc :=
  .next (if !ethOn s then s
    else
      match findConn s conn with
      | none => s
      | some c =>
        let s := connAcked (ethRx s) conn
        let type := num pdu 0 1
        if !pduOk pdu then connLost s c
        else if type = 1 && !c.closing then icResp s c pdu
        else if c.up && decide (type = 5 ∨ type = 7 ∨ type = 9) then pduTake s c pdu
        else connLost s c)

/-- TCP_DELIVERY_TIMEOUT: nothing delivered for 10 s, or the target resets the connection. -/
def execTcpDeliveryTimeout (conn : Nat) (s : State) (reset : Bool := false) : Outc :=
  .next (match findConn s conn with
    | none => s
    | some c => connLost (if reset then s else advanceTo s (c.sentAt + 10000000000)) c)

/-- TCP_RETRANSMISSION_TIMEOUT: the oldest unacknowledged data is sent again, the window falls to one segment and the timeout
doubles (RFC 5681, RFC 6298). -/
def execTcpRetransmissionTimeout (conn : Nat) (s : State) : Outc :=
  .next (match findConn s conn with
    | none => s
    | some c =>
      match c.unacked with
      | [] => s
      | b :: _ =>
        if !ethOn s then s
        else
          let s := advanceTo s (c.sentAt + c.rto)
          let m := mss s c
          let s := modConn s conn (fun c => { c with ssthresh := max (flight c / 2) (2 * m), cwnd := m, rto := 2 * c.rto
                                                     sentAt := now s, again := true })
          ethSend s (.tcp conn b))

end Sys2Proof.Machine
end

