-- ==== Sys2Proof/Machine/MigEnd.lean ====
section
/-! DEFINITION. The end of a migration and of the waits on it (R254 to R258, R224, R320, R363, R373). -/

namespace Sys2Proof.Machine

/-! ### What waited is tried again -/

/-- The window accesses of a Gallery that wait are tried again, in order; then the messages behind them. -/
def winRetry (s : State) (g : Gal) : State :=
  let e : Ep := .host g
  let l := (endpoint s e).winWait
  let s := setEp s e { endpoint s e with winWait := [] }
  let s := l.foldl (fun s w =>
    let t := winRun s g w
    if t.2 then setEp t.1 e { endpoint t.1 e with winWait := (endpoint t.1 e).winWait ++ [w] } else t.1) s
  drainTodo (endpoint s e).todo.length s e

/-- One requester goes on. A core's held instruction is issued again as its own command. -/
def stallRetry (s : State) (k : Stall) : State :=
  match k.req with
  | .core _ => s
  | .racking n q => setRq s n q { (coreAt s n).rq[q] with mstall := false }
  | .slice _ => if 16 ≤ k.q then mirrorRetry s k.gal k.q else pumpQ s k.gal (Fin.ofNat 16 k.q)
  | .ethernet =>
    if k.q = 0 then winRetry s k.gal else streamsRun (streamRetry s (Fin.ofNat 16 (k.q - 16)))

/-! ### MIGRATE_TIMEOUT (R256, Table 8-4) -/

/-- The class of an instruction that stalls: a collective, or a load or store (Table 2-10). -/
def stallClass (i : Instr) : Nat :=
  match i with
  | .callreduce .. => 5 | .creducescatter .. => 5 | .callgather .. => 5 | .calltoall .. => 5
  | _ => 0

/-- A core's access or fetch takes TRANSLATION; a fetch has read no word, so its class is free (log entry 3). -/
def coreTimeout (s : State) (n : CoreId) (k : Stall) : State :=
  let c := coreAt s n
  let cls := if k.fetch then freeClass s else ((c.hold.map (fun h => stallClass h.instr)).getD 0)
  if live c && c.hold.isSome then
    takeExc s n { excTranslation k.addr.toNat 2 with src := if k.fetch then 6 else 0 } cls true c.pc c.pc
  else s

/-- The waiting window accesses that stand on an address fail with FAULT; the others wait on. -/
def winTimeout (s : State) (g : Gal) (a : Nat) : State :=
  let e : Ep := .host g
  let hit (w : WinWait) : Bool :=
    ((framesParts (s.gal[g].windows[(Fin.ofNat 16 (winNum w.body))].base + winOff w.body) (winLen w.body)).map Prod.fst).contains a
  let l := (endpoint s e).winWait
  let s := ethFault (setEp s e { endpoint s e with winWait := l.filter (fun w => !hit w) }) g 2 a
  let s := (l.filter hit).foldl (fun s w =>
    winRecord s e w.live w.write (winTag w.body) .fault 2 (BitVec.ofNat 64 a)) s
  drainTodo (endpoint s e).todo.length s e

/-- MIGRATION_STALL_TIMEOUT: 200 µs after its first MIGRATING reply an access becomes MIGRATE_TIMEOUT. -/
def execMigrationStallTimeout (id : Nat) (s : State) : Outc :=
  .next (match s.walker.stalls.find? (fun k => decide (k.id = id)) with
    | none => s
    | some k =>
      let s := fincr (advanceTo s (k.since + 200000)) (fmpReg 0x30) 63 0 1
      let s := { s with walker := { s.walker with stalls := s.walker.stalls.filter (fun x => decide (x.id ≠ id)) } }
      let a := k.addr.toNat
      match k.req with
      | .core n => coreTimeout s n k
      | .racking n q => rackingStop s n q 2 a k.write
      | .slice _ =>
        if 16 ≤ k.q then mirrorTimeout s k.gal k.q
        else
        let q : Fin 16 := Fin.ofNat 16 k.q
        (match s.gal[k.gal].cq[q].ops.head? with
        | none => s
        | some o => if o.stalled then s else sliceFault s k.gal q o 2 a k.write)
      | .ethernet =>
        if k.q = 0 then winTimeout s k.gal a
        else
          let i : Fin 16 := Fin.ofNat 16 (k.q - 16)
          streamsRun (streamEnd (ethFault s k.gal 2 a) i .fault 2 (BitVec.ofNat 64 a) 0))

/-! ### MIGRATION_COMPLETE (R258) -/

/-- The lines of a frame copied to another, poisoned lines kept poisoned. -/
def Memory.copyFrame (m : Memory) (src dst : Nat) : Memory :=
  let n := 2 ^ 17
  let inSrc (a : Nat) : Bool := decide (src ≤ a ∧ a < src + n)
  { m with
    cells := m.cells.filter (fun c => decide (c.1 < dst))
      ++ (m.cells.filter (fun c => inSrc c.1)).map (fun c => (c.1 - src + dst, c.2))
      ++ m.cells.filter (fun c => decide (dst + n ≤ c.1))
    poison := m.poison.filter (fun l => decide (l < dst / 64))
      ++ ((List.range 2048).filter (fun i => m.isPoisoned (src / 64 + i))).map (fun i => dst / 64 + i)
      ++ m.poison.filter (fun l => decide ((dst + n) / 64 ≤ l)) }

/-- The destination takes the source's entry and its place in the chain; the source is free, not ZEROED. -/
def takePlace (s : State) (f d : Nat) : State :=
  let e := frameEntry s f
  let s := setFrame s d (setBits e 62 62 0)
  let s := relink s (entryHash e) f (mkWord [(24, 1), (0, d)])
  setFrame s f (e &&& ~~~(0xC000000001FFFFFF : Word))

/-- MIGRATION_COMPLETE: the copy of a slot ends; the accesses that waited on the frame are answered. -/
def execMigrationComplete (slot : Fin 16) (s : State) : Outc :=
  .next (if !migActive s slot.val then s
    else
      let r := rget s (migReg slot.val)
      let f := bits r 23 0
      let d := bits r 47 24
      let e := frameEntry s f
      let s := fset (fset s (migReg slot.val) 63 63 0) (fmpReg 0) 4 0 (fget s (fmpReg 0) 4 0 - 1)
      if !(feValid e && feMigrating e) then s
      else
        let psn := s.mem.anyPoison (f * 2 ^ 17) (2 ^ 17)
        let s := fset { s with mem := s.mem.copyFrame (f * 2 ^ 17) (d * 2 ^ 17) } (migReg slot.val) 62 62 (b1 psn)
        let s := takePlace s f d
        let hit (k : Stall) : Bool :=
          decide (k.gal.val = feGallery e ∧ k.addr.toNat / 2 ^ 17 = feVfn e)
        let l := s.walker.stalls.filter hit
        let due (x : FEntry) : Bool := decide (x.gal.map (fun g => g.val) = some (feGallery e) ∧ x.w3.toNat / 2 ^ 17 = feVfn e)
        let t := l.foldl stallRetry
          { s with walker := { s.walker with stalls := s.walker.stalls.filter (fun k => !hit k)
                                             timeouts := s.walker.timeouts.filter (fun x => !due x) } }
        (s.walker.timeouts.filter due).foldl popTranslation t)

end Sys2Proof.Machine
end

