-- ==== Sys2Proof/Machine/Optimizer.lean ====
section
/-! DEFINITION. The optimizer update ostep (R112, R185 to R190). -/

namespace Sys2Proof.Machine

/-- The hyperparameters of the VEC_OPT_ registers. -/
structure Hyper where
  lr : Val
  beta1 : Val
  beta2 : Val
  eps : Val
  wd : Val
  bc1 : Val
  bc2 : Val
  gscale : Int

def hyperOf (s : State) (n : CoreId) : Hyper :=
  let r (o : Nat) : Val := val32 (fget s (vecReg n.val o) 31 0)
  { lr := r 0x18, beta1 := r 0x20, beta2 := r 0x28, eps := r 0x30, wd := r 0x38, bc1 := r 0x40, bc2 := r 0x48
    gscale := signedOf 8 (fget s (vecReg n.val 0x50) 7 0) }

/-- One rounding of an exact value: a value that is not finite, or a rounding that overflows, is invalid and
gives NaN (R187). -/
def optRound (f : FpSpec) (x : Val × Fl) : Val × Nat × Fl :=
  let r := roundFp f .rn false x.1
  if isNanV x.1 || isInfV x.1 || r.2.of then (.nan, nanCode f, x.2.or { r.2 with nv := true })
  else (fpDecode f r.1, r.1, x.2.or r.2)

/-- rnd(): FP32 rounding of an expression, flags carried along. -/
def rnd (x : Val) (fl : Fl) : Val × Fl :=
  let r := optRound spec32 (x, fl)
  (r.1, r.2.2)

def addV (x y : Val) : Val := addVal .rn x y
def subV (x y : Val) : Val := addVal .rn x (negVal y)

/-- What ostep computes for one element: first moment, second moment, weight code, flags. -/
structure OptRes where
  m : Nat
  v : Nat
  w : Nat
  fl : Fl
  bad : Bool

/-- The code of an FP32 result, zero as +0. -/
def opt32 (x : Val) : Nat := plusZero .f32 (round32 .rn x)

/-- The update of one element (R186, R187). A NaN input is consumed; any other NaN is produced. A NaN or infinite
input sets NV alone (log entry 14). -/
def optElem (alg : OptAlg) (fmt : Fmt) (hp : Hyper) (gin m v w : Val) : OptRes :=
  let usesV := decide (alg = .adamw)
  let ins := if usesV then [gin, m, v, w] else [gin, m, w]
  let inNan := ins.any isNanV
  let inInf := ins.any isInfV
  let g := rnd (match gin with
    | .fin a k e => .fin a k (e - hp.gscale)
    | x => x) {}
  let wf := specOf fmt
  let last (m1 : Val) (v1 : Val) (u : Val × Fl) (fl : Fl) : OptRes :=
    let w1 := optRound wf (subV w (mulVal hp.lr u.1), u.2)
    let bad := inNan || inInf || isNanV m1 || isNanV v1 || isNanV w1.1 || isNanV u.1
    let fl := (fl.or w1.2.2)
    { m := opt32 m1, v := opt32 v1, w := plusZero fmt w1.2.1, bad := bad
      fl := if inNan then flNan else if inInf then flInvalid
        else if bad then { fl with nv := true, cause := some 2 } else { fl with cause := none } }
  match alg with
  | .adamw =>
    let d := rnd (subV m g.1) g.2
    let m1 := rnd (addV g.1 (mulVal hp.beta1 d.1)) d.2
    let q := rnd (mulVal g.1 g.1) m1.2
    let e := rnd (subV v q.1) q.2
    let v1 := rnd (addV q.1 (mulVal hp.beta2 e.1)) e.2
    let mh := rnd (mulVal m1.1 hp.bc1) v1.2
    let vh := rnd (mulVal v1.1 hp.bc2) mh.2
    let sq := rnd (sqrtVal vh.1) vh.2
    let den := rnd (addV sq.1 hp.eps) sq.2
    let r := rnd (divVal mh.1 den.1) den.2
    let u := rnd (addV r.1 (mulVal hp.wd w)) r.2
    last m1.1 v1.1 u u.2
  | .sgd =>
    let m1 := rnd (addV (mulVal hp.beta1 m) g.1) g.2
    let u := rnd (addV m1.1 (mulVal hp.wd w)) m1.2
    last m1.1 zeroVal u u.2
  | .lion =>
    let d := rnd (subV m g.1) g.2
    let c := rnd (addV g.1 (mulVal hp.beta1 d.1)) d.2
    let sg : Val := if isNanV c.1 then .nan else if isZero c.1 then zeroVal
      else if isPos c.1 then oneVal else negVal oneVal
    let u := rnd (addV sg (mulVal hp.wd w)) c.2
    let m1 := rnd (addV g.1 (mulVal hp.beta2 d.1)) u.2
    last m1.1 zeroVal u m1.2

/-- An element of an area of the record in memory: `eb` bytes each. -/
def recElem (m : Memory) (pa eb i : Nat) : Nat := leNat (m.bytes (pa + eb * i) eb)

/-- Write the governed elements of one area: `eb` bytes each from `pa` on. A line fully written is
cleared of poison (R239). -/
def putArea (on : Nat → Bool) (eb pa : Nat) (f : Nat → Nat) (m : Memory) : Memory :=
  let m1 := m.write pa ((List.range (512 * eb)).map (fun j =>
    if on (j / eb) then BitVec.ofNat 8 (f (j / eb) / 2 ^ (8 * (j % eb))) else m.byte (pa + j)))
  (List.range (512 * eb / 64)).foldl (fun m k =>
    m.linePoison pa (if (List.range (64 / eb)).all (fun i => on (k * (64 / eb) + i)) then 512 * eb else 0)
      false (pa / 64 + k)) m1

/-- Does any governed element of an area lie in a poisoned line? -/
def areaPoison (on : Nat → Bool) (eb pa : Nat) (m : Memory) : Bool :=
  (List.range 512).any (fun i => on i && m.isPoisoned ((pa + eb * i) / 64))

/-- ostep: compute the update of one segment in every seal state, write it only under a CLEAN seal and only
where no NaN would be written and no input is poisoned, count it, and raise its events (R112, R188). eaddr
names the record where a line of it is poisoned, and is zero where va alone is (log entry 14). -/
def execOstep (h : Hart) (g : Guard) (fmt : Fmt) (alg : OptAlg) (sa : SReg) (va : VNum) (s : State) : Outc :=
  let i : Instr := .ostep h g fmt alg sa va
  .next (issueV h i g [va] none (fun n s => onGallery n s (fun gal =>
    let a := (getS h sa s).toNat
    let eb := if fmt = .f32 then 4 else 2
    if !vecAddrOk a (0x1000 + 512 * eb) then .fault (excAddress a)
    else if queueReads (coreAt s n) a (0x1000 + 512 * eb) && decide (s.gal[gal].stepSeal.st = .clean) then .hold s
    else
      let pa := sramAt n a
      let on := guardOn n g s 32
      let hp := hyperOf s n
      let els := (List.range 512).filter on
      let res (k : Nat) : OptRes := optElem alg fmt hp (elemVal n .f32 va s k) (val32 (recElem s.mem pa 4 k))
        (val32 (recElem s.mem (pa + 0x800) 4 k)) (decodeElem fmt (recElem s.mem (pa + 0x1000) eb k))
      let fls := els.map (fun k => (k, (res k).fl))
      let recPsn := areaPoison on 4 pa s.mem || (decide (alg = .adamw) && areaPoison on 4 (pa + 0x800) s.mem)
        || areaPoison on eb (pa + 0x1000) s.mem
      let psn := els.any (fun k => elemPsn n va s 32 k) || recPsn
      let bad := els.any (fun k => (res k).bad)
      let clean := decide (s.gal[gal].stepSeal.st = .clean)
      let pc := (coreAt s n).pc
      let t := logSram s n i a
      let t :=
        if clean && !psn && !bad then
          let m := putArea on 4 pa (fun k => (res k).m) t.mem
          let m := if alg = .adamw then putArea on 4 (pa + 0x800) (fun k => (res k).v) m else m
          fincr { t with mem := putArea on eb (pa + 0x1000) (fun k => (res k).w) m } (vecReg n.val 0x08) 31 0 1
        else
          let t := fincr t (vecReg n.val 0x10) 31 0 1
          if clean then
            let t := fbit t (vecReg n.val 0) 15
            noteFault t { kind := 0x17, cls := 2, unit := 1, gal := some gal, core := some n
                          d0 := (s.gal[gal].stepSeal.step).setWidth 64, d1 := vecStatus t n }
          else t
      let t := vecEvents n 1 (allFlags fls) (firstEvent fls) [] pc t
      if psn then .trap t { excPoison (if recPsn then a else 0) with src := 1 } else .done t)) s)

end Sys2Proof.Machine
end

