-- ==== Sys2Proof/Machine/Scalar.lean ====
section
/-! DEFINITION. The scalar integer instructions (R76, R77, R79, R80). -/

namespace Sys2Proof.Machine

/-- A scalar instruction that writes one register with a value of the state. -/
def scalarOp (h : Hart) (i : Instr) (sd : SReg) (v : State → Word) (s : State) : State :=
  issue h i 0 (fun s => .done (setS h sd (v s) s)) s

/-- A division: a zero divisor also sets the sticky cstat.DZ of a context (R77). -/
def divideOp (h : Hart) (i : Instr) (sd : SReg) (sb : SReg) (v : State → Word) (s : State) : State :=
  issue h i 0 (fun s =>
    let t := setS h sd (v s) s
    .done (match h with
      | .core n => if getS h sb s = 0 then modCore t n (fun c => { c with dz := true }) else t
      | .mgmt _ => t)) s

/-- sd = sa + sb (Table 3-2). -/
def execAdd (h : Hart) (sd sa sb : SReg) (s : State) : Outc :=
  .next (scalarOp h (.add h sd sa sb) sd (fun s => getS h sa s + getS h sb s) s)

/-- sd = sa − sb (Table 3-2). -/
def execSub (h : Hart) (sd sa sb : SReg) (s : State) : Outc :=
  .next (scalarOp h (.sub h sd sa sb) sd (fun s => getS h sa s - getS h sb s) s)

/-- Low half of the product (Table 3-2). -/
def execMullo (h : Hart) (sd sa sb : SReg) (s : State) : Outc :=
  .next (scalarOp h (.mullo h sd sa sb) sd (fun s => mulLo (getS h sa s) (getS h sb s)) s)

/-- High half, both signed (Table 3-2). -/
def execMulhss (h : Hart) (sd sa sb : SReg) (s : State) : Outc :=
  .next (scalarOp h (.mulhss h sd sa sb) sd (fun s => mulHss (getS h sa s) (getS h sb s)) s)

/-- High half, both unsigned (Table 3-2). -/
def execMulhuu (h : Hart) (sd sa sb : SReg) (s : State) : Outc :=
  .next (scalarOp h (.mulhuu h sd sa sb) sd (fun s => mulHuu (getS h sa s) (getS h sb s)) s)

/-- High half, sa signed and sb unsigned (Table 3-2). -/
def execMulhsu (h : Hart) (sd sa sb : SReg) (s : State) : Outc :=
  .next (scalarOp h (.mulhsu h sd sa sb) sd (fun s => mulHsu (getS h sa s) (getS h sb s)) s)

/-- Signed quotient (R77). -/
def execQuos (h : Hart) (sd sa sb : SReg) (s : State) : Outc :=
  .next (divideOp h (.quos h sd sa sb) sd sb (fun s => quoS (getS h sa s) (getS h sb s)) s)

/-- Unsigned quotient (R77). -/
def execQuou (h : Hart) (sd sa sb : SReg) (s : State) : Outc :=
  .next (divideOp h (.quou h sd sa sb) sd sb (fun s => quoU (getS h sa s) (getS h sb s)) s)

/-- Signed remainder (R77). -/
def execRmds (h : Hart) (sd sa sb : SReg) (s : State) : Outc :=
  .next (divideOp h (.rmds h sd sa sb) sd sb (fun s => rmdS (getS h sa s) (getS h sb s)) s)

/-- Unsigned remainder (R77). -/
def execRmdu (h : Hart) (sd sa sb : SReg) (s : State) : Outc :=
  .next (divideOp h (.rmdu h sd sa sb) sd sb (fun s => rmdU (getS h sa s) (getS h sb s)) s)

/-- Bitwise AND (Table 3-2). -/
def execAnd (h : Hart) (sd sa sb : SReg) (s : State) : Outc :=
  .next (scalarOp h (.and h sd sa sb) sd (fun s => getS h sa s &&& getS h sb s) s)

/-- Bitwise OR (Table 3-2). -/
def execOr (h : Hart) (sd sa sb : SReg) (s : State) : Outc :=
  .next (scalarOp h (.or h sd sa sb) sd (fun s => getS h sa s ||| getS h sb s) s)

/-- Bitwise XOR (Table 3-2). -/
def execXor (h : Hart) (sd sa sb : SReg) (s : State) : Outc :=
  .next (scalarOp h (.xor h sd sa sb) sd (fun s => getS h sa s ^^^ getS h sb s) s)

/-- sa AND NOT sb (Table 3-2). -/
def execAndc (h : Hart) (sd sa sb : SReg) (s : State) : Outc :=
  .next (scalarOp h (.andc h sd sa sb) sd (fun s => getS h sa s &&& ~~~(getS h sb s)) s)

/-- Logical shift left (Table 3-2). -/
def execShl (h : Hart) (sd sa sb : SReg) (s : State) : Outc :=
  .next (scalarOp h (.shl h sd sa sb) sd (fun s => shlW (getS h sa s) (shCount (getS h sb s))) s)

/-- Logical shift right (Table 3-2). -/
def execShr (h : Hart) (sd sa sb : SReg) (s : State) : Outc :=
  .next (scalarOp h (.shr h sd sa sb) sd (fun s => shrW (getS h sa s) (shCount (getS h sb s))) s)

/-- Arithmetic shift right (Table 3-2). -/
def execShra (h : Hart) (sd sa sb : SReg) (s : State) : Outc :=
  .next (scalarOp h (.shra h sd sa sb) sd (fun s => shraW (getS h sa s) (shCount (getS h sb s))) s)

/-- Rotate right (Table 3-2). -/
def execRor (h : Hart) (sd sa sb : SReg) (s : State) : Outc :=
  .next (scalarOp h (.ror h sd sa sb) sd (fun s => rorW (getS h sa s) (shCount (getS h sb s))) s)

/-- sd = 1 if the relation holds, else 0 (Table 3-2). -/
def execCset (h : Hart) (cc : Rel) (sd sa sb : SReg) (s : State) : Outc :=
  .next (scalarOp h (.cset h cc sd sa sb) sd (fun s => boolWord (relHolds cc (getS h sa s) (getS h sb s))) s)

/-- Minimum or maximum (Table 3-2). -/
def execMins (h : Hart) (sd sa sb : SReg) (s : State) : Outc :=
  .next (scalarOp h (.mins h sd sa sb) sd (fun s => minS (getS h sa s) (getS h sb s)) s)

/-- Minimum or maximum (Table 3-2). -/
def execMaxs (h : Hart) (sd sa sb : SReg) (s : State) : Outc :=
  .next (scalarOp h (.maxs h sd sa sb) sd (fun s => maxS (getS h sa s) (getS h sb s)) s)

/-- Minimum or maximum (Table 3-2). -/
def execMinu (h : Hart) (sd sa sb : SReg) (s : State) : Outc :=
  .next (scalarOp h (.minu h sd sa sb) sd (fun s => minU (getS h sa s) (getS h sb s)) s)

/-- Minimum or maximum (Table 3-2). -/
def execMaxu (h : Hart) (sd sa sb : SReg) (s : State) : Outc :=
  .next (scalarOp h (.maxu h sd sa sb) sd (fun s => maxU (getS h sa s) (getS h sb s)) s)

/-- sd = sa if sc ≠ 0, else sb (Table 3-2). -/
def execSel (h : Hart) (sd sa sb sc : SReg) (s : State) : Outc :=
  .next (scalarOp h (.sel h sd sa sb sc) sd (fun s => if getS h sc s ≠ 0 then getS h sa s else getS h sb s) s)

/-- sd = low half of sa × sb + sc (Table 3-2). -/
def execMadd (h : Hart) (sd sa sb sc : SReg) (s : State) : Outc :=
  .next (scalarOp h (.madd h sd sa sb sc) sd (fun s => getS h sa s * getS h sb s + getS h sc s) s)

/-- Count of leading zeros (Table 3-2). -/
def execZlead (h : Hart) (sd sa : SReg) (s : State) : Outc :=
  .next (scalarOp h (.zlead h sd sa) sd (fun s => BitVec.ofNat 64 (leadZeros 64 (getS h sa s).toNat)) s)

/-- Count of trailing zeros (Table 3-2). -/
def execZtrail (h : Hart) (sd sa : SReg) (s : State) : Outc :=
  .next (scalarOp h (.ztrail h sd sa) sd (fun s => BitVec.ofNat 64 (trailZeros 64 (getS h sa s).toNat)) s)

/-- Count of one bits (Table 3-2). -/
def execOnes (h : Hart) (sd sa : SReg) (s : State) : Outc :=
  .next (scalarOp h (.ones h sd sa) sd (fun s => BitVec.ofNat 64 (popCount 64 (getS h sa s).toNat)) s)

/-- Write word w of tn from sa (R79). -/
def execTset (h : Hart) (tn : TReg) (sa : SReg) (w : Fin 4) (s : State) : Outc :=
  .next (issue h (.tset h tn sa w) 0 (ctxOnly h (fun n s =>
    .done (setT n tn (setDescWord (coreAt s n).t[tn] w (getS h sa s)) s))) s)

/-- Read word w of tn (R79). -/
def execTget (h : Hart) (sd : SReg) (tn : TReg) (w : Fin 4) (s : State) : Outc :=
  .next (issue h (.tget h sd tn w) 0 (ctxOnly h (fun n s =>
    .done (setS h sd (descWord (coreAt s n).t[tn] w) s))) s)

/-- sd = sa + imm (Table 3-5). -/
def execAddi (h : Hart) (sd sa : SReg) (imm : BitVec 40) (s : State) : Outc :=
  .next (scalarOp h (.addi h sd sa imm) sd (fun s => getS h sa s + imm64 imm) s)

/-- Bitwise AND with imm (Table 3-5). -/
def execAndi (h : Hart) (sd sa : SReg) (imm : BitVec 40) (s : State) : Outc :=
  .next (scalarOp h (.andi h sd sa imm) sd (fun s => getS h sa s &&& imm64 imm) s)

/-- Bitwise OR with imm (Table 3-5). -/
def execOri (h : Hart) (sd sa : SReg) (imm : BitVec 40) (s : State) : Outc :=
  .next (scalarOp h (.ori h sd sa imm) sd (fun s => getS h sa s ||| imm64 imm) s)

/-- Bitwise XOR with imm (Table 3-5). -/
def execXori (h : Hart) (sd sa : SReg) (imm : BitVec 40) (s : State) : Outc :=
  .next (scalarOp h (.xori h sd sa imm) sd (fun s => getS h sa s ^^^ imm64 imm) s)

/-- Replace bits [63:24] (Table 3-5). -/
def execLih (h : Hart) (sd sa : SReg) (imm : BitVec 40) (s : State) : Outc :=
  .next (scalarOp h (.lih h sd sa imm) sd (fun s => lihWord (getS h sa s) imm) s)

/-- Logical left shift by IMM[5:0] (Table 3-5). -/
def execShli (h : Hart) (sd sa : SReg) (cnt : BitVec 6) (s : State) : Outc :=
  .next (scalarOp h (.shli h sd sa cnt) sd (fun s => shlW (getS h sa s) cnt.toNat) s)

/-- Logical right shift by IMM[5:0] (Table 3-5). -/
def execShri (h : Hart) (sd sa : SReg) (cnt : BitVec 6) (s : State) : Outc :=
  .next (scalarOp h (.shri h sd sa cnt) sd (fun s => shrW (getS h sa s) cnt.toNat) s)

/-- Arithmetic right shift by IMM[5:0] (Table 3-5). -/
def execShrai (h : Hart) (sd sa : SReg) (cnt : BitVec 6) (s : State) : Outc :=
  .next (scalarOp h (.shrai h sd sa cnt) sd (fun s => shraW (getS h sa s) cnt.toNat) s)

/-- sd = 1 if the relation holds against the immediate, else 0 (Table 3-5). -/
def execCseti (h : Hart) (cc : Rel) (sd sa : SReg) (imm : BitVec 40) (s : State) : Outc :=
  .next (scalarOp h (.cseti h cc sd sa imm) sd (fun s => boolWord (relHolds cc (getS h sa s) (imm64 imm))) s)

end Sys2Proof.Machine
end

