-- ==== Sys2Proof/Machine/ScalarFp.lean ====
section
/-! DEFINITION. The scalar floating-point instructions (R78, Table 3-3). -/

namespace Sys2Proof.Machine

/-- The FP32 operand in bits [31:0] of a register. -/
def getF (h : Hart) (r : SReg) (s : State) : Val := val32 (getS h r s).toNat

/-- A scalar floating-point instruction: a value and flags from the rounding mode and state, written to sd. -/
def scalarFp (h : Hart) (i : Instr) (sd : SReg) (f : Rm → State → Word × Fl) (s : State) : State :=
  issue h i 0 (fun s =>
    let r := f (scalarRm h s) s
    .done (scalarFlags h r.2 (getPc h s) (setS h sd r.1 s))) s

/-- An exact result rounded once to FP32, with the flags of its inputs (R78). -/
def fpResult (rm : Rm) (ins : List Val) (v : Val) : Word × Fl :=
  let r := roundFp spec32 rm false v
  (BitVec.ofNat 64 r.1, r.2.or (opFlags ins v))

/-- sa + sb. -/
def execFadd (h : Hart) (sd sa sb : SReg) (s : State) : Outc :=
  .next (scalarFp h (.fadd h sd sa sb) sd (fun rm s =>
    fpResult rm [getF h sa s, getF h sb s] (addVal rm (getF h sa s) (getF h sb s))) s)

/-- sa − sb. -/
def execFsub (h : Hart) (sd sa sb : SReg) (s : State) : Outc :=
  .next (scalarFp h (.fsub h sd sa sb) sd (fun rm s =>
    fpResult rm [getF h sa s, getF h sb s] (addVal rm (getF h sa s) (negVal (getF h sb s)))) s)

/-- sa × sb. -/
def execFmul (h : Hart) (sd sa sb : SReg) (s : State) : Outc :=
  .next (scalarFp h (.fmul h sd sa sb) sd (fun rm s =>
    fpResult rm [getF h sa s, getF h sb s] (mulVal (getF h sa s) (getF h sb s))) s)

/-- sa × sb + sc, rounded once. -/
def execFfma (h : Hart) (sd sa sb sc : SReg) (s : State) : Outc :=
  .next (scalarFp h (.ffma h sd sa sb sc) sd (fun rm s =>
    fpResult rm [getF h sa s, getF h sb s, getF h sc s]
      (addVal rm (mulVal (getF h sa s) (getF h sb s)) (getF h sc s))) s)

/-- Relations of fcmp (Table 3-3). -/
def frelHolds (cc : FRel) (x y : Val) : Bool :=
  match cc with
  | .eq => eqVal x y
  | .lt => ltVal x y
  | .le => ltVal x y || eqVal x y
  | .un => isNanV x || isNanV y

/-- sd = 1 if the relation holds, else 0. -/
def execFcmp (h : Hart) (cc : FRel) (sd sa sb : SReg) (s : State) : Outc :=
  .next (scalarFp h (.fcmp h cc sd sa sb) sd (fun _ s =>
    (boolWord (frelHolds cc (getF h sa s) (getF h sb s)),
      opFlags [getF h sa s, getF h sb s] (.fin false 0 0))) s)

/-- FP32 to signed INT64, saturating, or signed INT64 to FP32. -/
def execFcvt (h : Hart) (k : FcvtKind) (sd sa : SReg) (s : State) : Outc :=
  .next (scalarFp h (.fcvt h k sd sa) sd (fun rm s =>
    match k with
    | .toInt =>
      let r := roundInt 64 rm (getF h sa s)
      (BitVec.ofInt 64 r.1, r.2)
    | .toFp =>
      let v := (getS h sa s).toInt
      fpResult rm [] (.fin (decide (v < 0)) v.natAbs 0)) s)

/-- The lesser input; −0 ranks below +0. -/
def execFmin (h : Hart) (sd sa sb : SReg) (s : State) : Outc :=
  .next (scalarFp h (.fmin h sd sa sb) sd (fun rm s =>
    fpResult rm [getF h sa s, getF h sb s] (minVal (getF h sa s) (getF h sb s))) s)

/-- The greater input; +0 ranks above −0. -/
def execFmax (h : Hart) (sd sa sb : SReg) (s : State) : Outc :=
  .next (scalarFp h (.fmax h sd sa sb) sd (fun rm s =>
    fpResult rm [getF h sa s, getF h sb s] (maxVal (getF h sa s) (getF h sb s))) s)

end Sys2Proof.Machine
end

