-- ==== Sys2Proof/Machine/Smbus.lean ====
section
/-! DEFINITION. Registers over SMBus (R455, R457). -/

namespace Sys2Proof.Machine

/-- The registers that SMBus selects: every CRP_ register, PRV_STATUS, PRV_VINTAGE, PRV_KEYID, PWR_STATUS, PWR_AVS and
PWR_TEMP[0..39]. -/
def smbSelectable (off : Nat) : Bool :=
  (decide (off / 0x1000000 = 0x0C ∧ off % 8 = 0) && (crpFields (off % 0x1000000)).isSome) ||
    decide (off = prvReg 0 ∨ off = prvReg 8 ∨ off = prvReg 0x10 ∨ off = pwrReg 0 ∨ off = pwrReg 0x30) ||
    (decide (pwrReg 0x100 ≤ off ∧ off < pwrReg 0x240) && decide (off % 8 = 0))

/-- SMB_REG_SELECT: any other offset is NACKed and the selection stays. -/
def execSmbRegSelect (off : BitVec 32) (pecOk : Bool) (s : State) : Outc :=
  .next (if !s.pins.pwrgood then s
    else if !pecOk then pecFail s
    else if smbSelectable off.toNat then smbAnswer { s with pins := { s.pins with smbSel := off } } [] true
    else smbAnswer s [] false)

/-- The selected register as SMBus reads it: CRP_ registers by SMBus's own copy of CRP_RDSEL. -/
def smbWord (s : State) : Word :=
  let off := s.pins.smbSel.toNat
  if off / 0x1000000 = 0x0C then crpWord s s.pins.smbRdsel (off % 0x1000000) else blockWord s off

/-- SMB_REG_READ; before any selection there is nothing to read. -/
def execSmbRegRead (s : State) : Outc :=
  .next (if !s.pins.pwrgood then s
    else if !smbSelectable s.pins.smbSel.toNat then smbAnswer s [] false
    else
      let off := s.pins.smbSel.toNat
      smbAnswer (afterRead s off ((fields off).getD [])) (leBytes 8 (smbWord s).toNat) true)

/-- SMB_REG_WRITE: CRP_RDSEL's own copy, and APPLIED of PWR_AVS. -/
def execSmbRegWrite (v : Word) (pecOk : Bool) (s : State) : Outc :=
  .next (if !s.pins.pwrgood then s
    else if !pecOk then pecFail s
    else if s.pins.smbSel.toNat = 0x0C000028 then
      smbAnswer { s with pins := { s.pins with smbRdsel := BitVec.ofNat 32 (bits v 31 0) } } [] true
    else if s.pins.smbSel.toNat = pwrReg 0x30 then
      let a := bits v 27 16
      smbAnswer (if a = 0 ∨ between a 720 820 = true then fset s (pwrReg 0x30) 27 16 a else fbit s (pwrReg 0) 15) [] true
    else smbAnswer s [] false)

end Sys2Proof.Machine
end

