-- ==== Sys2Proof/Machine/System.lean ====
section
/-! DEFINITION. The system instructions and illegal words (R48, R51, R70, R113, R114). -/

namespace Sys2Proof.Machine

/-- The issue class of a word's opcode (Table 2-9); a reserved opcode has none. -/
def wordClass (w : Word) : Option Nat :=
  let o := bits w 7 0
  if o = 0 ∨ o = 0xFF ∨ (0x50 ≤ o ∧ o ≤ 0x5F) ∨ (0xEC ≤ o ∧ o ≤ 0xEF) then none
  else if o ≤ 0x3F then some 0
  else if o ≤ 0x4F then some 1
  else if o ≤ 0x9F then some 2
  else if o ≤ 0xBF then some 3
  else if o ≤ 0xCF then some 4
  else if o ≤ 0xDF then some 5
  else if o ≤ 0xEB then some 6
  else if o = 0xF3 then some 2
  else if o ≤ 0xF7 then some 6
  else some 7

/-- ILLEGAL: the word at the pc is no instruction, so ILLEGAL is raised; a word that is one is no such happening.
The class recorded for a reserved opcode is free. -/
def execIllegal (h : Hart) (w : Word) (s : State) : Outc :=
  .next (if illegalWord h w then
      match wordClass w with
      | some c => issue h (.illegal h w) c (fun _ => .fault excIllegal) s
      | none =>
        let t := freeWord s
        issue h (.illegal h w) (t.1.toNat % 8) (fun _ => .fault excIllegal) t.2
    else s)

/-- Control registers that the Context column of Table 2-15, or of the block's own table, marks "—". -/
def csrDenied (num : Nat) : Bool :=
  decide (num = 0x010 ∨ num = 0x011 ∨ (0x018 ≤ num ∧ num ≤ 0x01F) ∨ num = 0x103 ∨ num = 0x104 ∨ num = 0x20C
    ∨ num = 0x30B ∨ num = 0x30C)

/-- A control register of a management core: its pending launch, and the Timebase (log entry 8). -/
def mgmtCsr (s : State) (k : Fin 4) (num : Nat) : Option Word :=
  if num = 0x008 then some s.mgmt[k].launchat
  else if num = 0x00A then some (BitVec.ofNat 64 (now s))
  else if num = 0x00B then some (BitVec.ofNat 64 (s.tb.count / 2 ^ 16 % 2 ^ 16))
  else none

/-- csrr: sd = the control register; RC fields clear (R70, R114). -/
def execCsrr (h : Hart) (sd : SReg) (csr : BitVec 12) (s : State) : Outc :=
  .next (issue h (.csrr h sd csr) 7 (fun s =>
    let num := csr.toNat
    match h with
    | .mgmt k =>
      (match mgmtCsr s k num with
       | some w => .done (setS h sd w s)
       | none => .fault excIllegal)
    | .core n =>
      (match csrWord s n num, csrBlock n num with
       | some w, _ => if csrDenied num then .fault excPrivilege else .done (setS h sd w s)
       | none, some off =>
         if csrDenied num then .fault excPrivilege
         else .done (setS h sd (blockWord s off) (afterRead s off ((fields off).getD [])))
       | none, none => .fault excIllegal)) s)

/-- The value that a csrw form writes, from the present value and the W1C bits: set and clear leave those (Table 3-15). -/
def csrValue (op : CsrOp) (old w1c v : Word) : Word :=
  match op with
  | .write => v
  | .set => (old ||| v) &&& ~~~w1c
  | .clear => (old &&& ~~~v) &&& ~~~w1c

/-- The W1C bits of a control register below 0x100 (Tables 2-16, 2-17), and of a block register. -/
def csrW1c (num : Nat) : Word := if num = 0 then 0x1850 else if num = 1 then 0xF00 else 0
def blockW1c (fs : List Fld) : Word := fieldMask (fs.filter (fun f => decide (f.2.2 = .w1c)))

/-- csrw: write, set or clear bits of a control register; a write of a read-only one is ignored (R114). -/
def execCsrw (h : Hart) (op : CsrOp) (csr : BitVec 12) (sa : SReg) (s : State) : Outc :=
  .next (issue h (.csrw h op csr sa) 7 (fun s =>
    let num := csr.toNat
    let v := getS h sa s
    match h with
    | .mgmt k =>
      if num = 0x008 then
        let w := csrValue op s.mgmt[k].launchat 0 v
        .done (setMgmt s k { s.mgmt[k] with launchat := w, launchPend := decide (w ≠ 0) })
      else if (mgmtCsr s k num).isSome then .done s else .fault excIllegal
    | .core n =>
      (match csrWord s n num, csrBlock n num with
       | some old, _ =>
         if csrDenied num then .fault excPrivilege else .done (csrShared s n num (csrValue op old (csrW1c num) v))
       | none, some off =>
         if csrDenied num then .fault excPrivilege
         else
           let fs := (fields off).getD []
           .done (writeBlock s true off (csrValue op (blockWord s off) (blockW1c fs) v) fs)
       | none, none => .fault excIllegal)) s)

/-- halt: the core is HALTED, and the Curator tells the host (R61, Table 12-6). -/
def execHalt (h : Hart) (s : State) : Outc :=
  let t := issue h (.halt h) 7 (fun s => .halt s) s
  .next (match h with
    | .mgmt _ => t
    | .core n =>
      match coreOwner t n with
      | none => t
      | some g => if (coreAt t n).state = .halted ∧ (coreAt s n).state ≠ .halted then ctxStopNow t g n else t)

/-- brk: BREAK, a completing trap. -/
def execBrk (h : Hart) (s : State) : Outc := .next (issue h (.brk h) 7 (fun s => .trap s excBreak) s)

/-- nop. -/
def execNop (h : Hart) (s : State) : Outc := .next (issue h (.nop h) 7 (fun s => .done s) s)

/-- cinv: the model fetches from memory, so no older line can be returned. -/
def execCinv (h : Hart) (s : State) : Outc := .next (issue h (.cinv h) 7 (fun s => .done s) s)

/-- tinv: Curator-only; the model translates through the Frame Map, so no entry is left to drop. -/
def execTinv (h : Hart) (every : Bool) (sa sb : SReg) (s : State) : Outc :=
  .next (issue h (.tinv h every sa sb) 7 (fun s =>
    match h with
    | .core _ => .fault excPrivilege
    | .mgmt _ => .done s) s)

end Sys2Proof.Machine
end

