-- ==== Sys2Proof/Machine/Dispatch.lean ====
section
/-! DEFINITION. One arm per command: the meaning of each. -/

namespace Sys2Proof.Machine

def exec (i : Instr) (s : State) : Host.Outcome State Fault Refusal :=
  match i with
  | .illegal h w => Sys2Proof.Machine.execIllegal h w s
  | .add h sd sa sb => Sys2Proof.Machine.execAdd h sd sa sb s
  | .sub h sd sa sb => Sys2Proof.Machine.execSub h sd sa sb s
  | .mullo h sd sa sb => Sys2Proof.Machine.execMullo h sd sa sb s
  | .mulhss h sd sa sb => Sys2Proof.Machine.execMulhss h sd sa sb s
  | .mulhuu h sd sa sb => Sys2Proof.Machine.execMulhuu h sd sa sb s
  | .mulhsu h sd sa sb => Sys2Proof.Machine.execMulhsu h sd sa sb s
  | .quos h sd sa sb => Sys2Proof.Machine.execQuos h sd sa sb s
  | .quou h sd sa sb => Sys2Proof.Machine.execQuou h sd sa sb s
  | .rmds h sd sa sb => Sys2Proof.Machine.execRmds h sd sa sb s
  | .rmdu h sd sa sb => Sys2Proof.Machine.execRmdu h sd sa sb s
  | .and h sd sa sb => Sys2Proof.Machine.execAnd h sd sa sb s
  | .or h sd sa sb => Sys2Proof.Machine.execOr h sd sa sb s
  | .xor h sd sa sb => Sys2Proof.Machine.execXor h sd sa sb s
  | .andc h sd sa sb => Sys2Proof.Machine.execAndc h sd sa sb s
  | .shl h sd sa sb => Sys2Proof.Machine.execShl h sd sa sb s
  | .shr h sd sa sb => Sys2Proof.Machine.execShr h sd sa sb s
  | .shra h sd sa sb => Sys2Proof.Machine.execShra h sd sa sb s
  | .ror h sd sa sb => Sys2Proof.Machine.execRor h sd sa sb s
  | .cset h cc sd sa sb => Sys2Proof.Machine.execCset h cc sd sa sb s
  | .mins h sd sa sb => Sys2Proof.Machine.execMins h sd sa sb s
  | .maxs h sd sa sb => Sys2Proof.Machine.execMaxs h sd sa sb s
  | .minu h sd sa sb => Sys2Proof.Machine.execMinu h sd sa sb s
  | .maxu h sd sa sb => Sys2Proof.Machine.execMaxu h sd sa sb s
  | .sel h sd sa sb sc => Sys2Proof.Machine.execSel h sd sa sb sc s
  | .madd h sd sa sb sc => Sys2Proof.Machine.execMadd h sd sa sb sc s
  | .zlead h sd sa => Sys2Proof.Machine.execZlead h sd sa s
  | .ztrail h sd sa => Sys2Proof.Machine.execZtrail h sd sa s
  | .ones h sd sa => Sys2Proof.Machine.execOnes h sd sa s
  | .fadd h sd sa sb => Sys2Proof.Machine.execFadd h sd sa sb s
  | .fsub h sd sa sb => Sys2Proof.Machine.execFsub h sd sa sb s
  | .fmul h sd sa sb => Sys2Proof.Machine.execFmul h sd sa sb s
  | .ffma h sd sa sb sc => Sys2Proof.Machine.execFfma h sd sa sb sc s
  | .fcmp h cc sd sa sb => Sys2Proof.Machine.execFcmp h cc sd sa sb s
  | .fcvt h k sd sa => Sys2Proof.Machine.execFcvt h k sd sa s
  | .fmin h sd sa sb => Sys2Proof.Machine.execFmin h sd sa sb s
  | .fmax h sd sa sb => Sys2Proof.Machine.execFmax h sd sa sb s
  | .tset h tn sa w => Sys2Proof.Machine.execTset h tn sa w s
  | .tget h sd tn w => Sys2Proof.Machine.execTget h sd tn w s
  | .addi h sd sa imm => Sys2Proof.Machine.execAddi h sd sa imm s
  | .andi h sd sa imm => Sys2Proof.Machine.execAndi h sd sa imm s
  | .ori h sd sa imm => Sys2Proof.Machine.execOri h sd sa imm s
  | .xori h sd sa imm => Sys2Proof.Machine.execXori h sd sa imm s
  | .shli h sd sa cnt => Sys2Proof.Machine.execShli h sd sa cnt s
  | .shri h sd sa cnt => Sys2Proof.Machine.execShri h sd sa cnt s
  | .shrai h sd sa cnt => Sys2Proof.Machine.execShrai h sd sa cnt s
  | .lih h sd sa imm => Sys2Proof.Machine.execLih h sd sa imm s
  | .ld h size signed err sd sa imm => Sys2Proof.Machine.execLd h size signed err sd sa imm s
  | .st h size sd sa imm => Sys2Proof.Machine.execSt h size sd sa imm s
  | .amo h op sd sa imm => Sys2Proof.Machine.execAmo h op sd sa imm s
  | .cseti h cc sd sa imm => Sys2Proof.Machine.execCseti h cc sd sa imm s
  | .tld h tn sa imm => Sys2Proof.Machine.execTld h tn sa imm s
  | .tst h tn sa imm => Sys2Proof.Machine.execTst h tn sa imm s
  | .br h cc sa sb disp => Sys2Proof.Machine.execBr h cc sa sb disp s
  | .call h sa disp => Sys2Proof.Machine.execCall h sa disp s
  | .callr h sb sa disp => Sys2Proof.Machine.execCallr h sb sa disp s
  | .bp h cc pn disp => Sys2Proof.Machine.execBp h cc pn disp s
  | .loop h sa disp => Sys2Proof.Machine.execLoop h sa disp s
  | .vadd h g fmt rm vd va vb => Sys2Proof.Machine.execVadd h g fmt rm vd va vb s
  | .vsub h g fmt rm vd va vb => Sys2Proof.Machine.execVsub h g fmt rm vd va vb s
  | .vmul h g fmt rm vd va vb => Sys2Proof.Machine.execVmul h g fmt rm vd va vb s
  | .vfma h g fmt rm vd va vb => Sys2Proof.Machine.execVfma h g fmt rm vd va vb s
  | .vmin h g fmt vd va vb => Sys2Proof.Machine.execVmin h g fmt vd va vb s
  | .vmax h g fmt vd va vb => Sys2Proof.Machine.execVmax h g fmt vd va vb s
  | .vrcp h g fmt vd va => Sys2Proof.Machine.execVrcp h g fmt vd va s
  | .vrsqrt h g fmt vd va => Sys2Proof.Machine.execVrsqrt h g fmt vd va s
  | .vsqrt h g fmt rm vd va => Sys2Proof.Machine.execVsqrt h g fmt rm vd va s
  | .vact h g fmt rm fn vd va => Sys2Proof.Machine.execVact h g fmt rm fn vd va s
  | .vactd h g fmt rm fn input vd va vb => Sys2Proof.Machine.execVactd h g fmt rm fn input vd va vb s
  | .vcmp h g fmt cc pd va vb => Sys2Proof.Machine.execVcmp h g fmt cc pd va vb s
  | .vsel h g fmt vd va vb pn => Sys2Proof.Machine.execVsel h g fmt vd va vb pn s
  | .vcvt h g dst src rm sat mx vd va vc => Sys2Proof.Machine.execVcvt h g dst src rm sat mx vd va vc s
  | .vand h g fmt vd va vb => Sys2Proof.Machine.execVand h g fmt vd va vb s
  | .vor h g fmt vd va vb => Sys2Proof.Machine.execVor h g fmt vd va vb s
  | .vxor h g fmt vd va vb => Sys2Proof.Machine.execVxor h g fmt vd va vb s
  | .vshl h g fmt vd va vb => Sys2Proof.Machine.execVshl h g fmt vd va vb s
  | .vshr h g fmt arith vd va vb => Sys2Proof.Machine.execVshr h g fmt arith vd va vb s
  | .viadd h g fmt vd va vb => Sys2Proof.Machine.execViadd h g fmt vd va vb s
  | .vbcast h g fmt vd sa => Sys2Proof.Machine.execVbcast h g fmt vd sa s
  | .vext h g fmt sa va idx => Sys2Proof.Machine.execVext h g fmt sa va idx s
  | .vperm h g fmt vd va vb => Sys2Proof.Machine.execVperm h g fmt vd va vb s
  | .vred h g fmt rm fn vd va => Sys2Proof.Machine.execVred h g fmt rm fn vd va s
  | .vcred h g fmt op operandUe vd vc va => Sys2Proof.Machine.execVcred h g fmt op operandUe vd vc va s
  | .vld h g fmt err vd sa off => Sys2Proof.Machine.execVld h g fmt err vd sa off s
  | .vst h g fmt vd sa off => Sys2Proof.Machine.execVst h g fmt vd sa off s
  | .vrdvat h g fmt vd row => Sys2Proof.Machine.execVrdvat h g fmt vd row s
  | .vwrvat h g fmt vd row => Sys2Proof.Machine.execVwrvat h g fmt vd row s
  | .plog h g fn pd pa pb => Sys2Proof.Machine.execPlog h g fn pd pa pb s
  | .pset h g pd sa => Sys2Proof.Machine.execPset h g pd sa s
  | .vidx h g fmt vd => Sys2Proof.Machine.execVidx h g fmt vd s
  | .vmuls h g fmt rm vd va sa => Sys2Proof.Machine.execVmuls h g fmt rm vd va sa s
  | .mload h ts buf => Sys2Proof.Machine.execMload h ts buf s
  | .mmul h tw buf mode sa sb => Sys2Proof.Machine.execMmul h tw buf mode sa sb s
  | .mgemm h ts tw buf mode sa sb => Sys2Proof.Machine.execMgemm h ts tw buf mode sa sb s
  | .mzero h => Sys2Proof.Machine.execMzero h s
  | .slabComplete c errs => Sys2Proof.Machine.execSlabComplete c errs s
  | .matrixInstrComplete c => Sys2Proof.Machine.execMatrixInstrComplete c s
  | .engineRampStep c => Sys2Proof.Machine.execEngineRampStep c s
  | .dummySlabRunLimit c => Sys2Proof.Machine.execDummySlabRunLimit c s
  | .rcopy h qh tb ta add tag => Sys2Proof.Machine.execRcopy h qh tb ta add tag s
  | .rgather h qh tb ta sa sb tag => Sys2Proof.Machine.execRgather h qh tb ta sa sb tag s
  | .rscatter h qh tb ta add sa sb tag => Sys2Proof.Machine.execRscatter h qh tb ta add sa sb tag s
  | .rfill h qh tb sa tag => Sys2Proof.Machine.execRfill h qh tb sa tag s
  | .descriptorStart c q => Sys2Proof.Machine.execDescriptorStart c q s
  | .rackingPiece c q line => Sys2Proof.Machine.execRackingPiece c q s line
  | .descriptorComplete c q => Sys2Proof.Machine.execDescriptorComplete c q s
  | .rkgResume c q => Sys2Proof.Machine.execRkgResume c q s
  | .rkgFail c q => Sys2Proof.Machine.execRkgFail c q s
  | .rkgKill c q => Sys2Proof.Machine.execRkgKill c q s
  | .rkgRingWrite c q v => Sys2Proof.Machine.execRkgRingWrite c q v s
  | .callreduce h qh tb ta fn sa tag err => Sys2Proof.Machine.execCallreduce h qh tb ta fn sa tag s err
  | .creducescatter h qh tb ta fn sa tag err => Sys2Proof.Machine.execCreducescatter h qh tb ta fn sa tag s err
  | .callgather h qh tb ta axis bidir ragged sa tag err => Sys2Proof.Machine.execCallgather h qh tb ta axis bidir ragged sa tag s err
  | .cbcast h qh tb ta axis sb tag => Sys2Proof.Machine.execCbcast h qh tb ta axis sb tag s
  | .calltoall h qh tb ta axis ragged sa tag err => Sys2Proof.Machine.execCalltoall h qh tb ta axis ragged sa tag s err
  | .csend h qh ta axis minus tag => Sys2Proof.Machine.execCsend h qh ta axis minus tag s
  | .crecv h qh tb axis minus tag => Sys2Proof.Machine.execCrecv h qh tb axis minus tag s
  | .cbarrier h qh axis tag => Sys2Proof.Machine.execCbarrier h qh axis tag s
  | .collDataReceive p pkt err => Sys2Proof.Machine.execCollDataReceive p pkt s err
  | .collAckReceive p pkt => Sys2Proof.Machine.execCollAckReceive p pkt s
  | .collReadyReceive p pkt => Sys2Proof.Machine.execCollReadyReceive p pkt s
  | .collAbortReceive p pkt => Sys2Proof.Machine.execCollAbortReceive p pkt s
  | .collLossReceive p pkt => Sys2Proof.Machine.execCollLossReceive p pkt s
  | .collRetransmit g q dst type0 type1 => Sys2Proof.Machine.execCollRetransmit g q dst type0 type1 s
  | .collOperationComplete g q => Sys2Proof.Machine.execCollOperationComplete g q s
  | .colSliceResume k => Sys2Proof.Machine.execColSliceResume k s
  | .colSliceFail k => Sys2Proof.Machine.execColSliceFail k s
  | .colQueueKill g mask => Sys2Proof.Machine.execColQueueKill g mask s
  | .fence h k => Sys2Proof.Machine.execFence h k s
  | .wait h sd qn sb => Sys2Proof.Machine.execWait h sd qn sb s
  | .launch h sa => Sys2Proof.Machine.execLaunch h sa s
  | .launchTargetReached h => Sys2Proof.Machine.execLaunchTargetReached h s
  | .waitm h cc sd sa sb imm => Sys2Proof.Machine.execWaitm h cc sd sa sb imm s
  | .waitmReread h => Sys2Proof.Machine.execWaitmReread h s
  | .waitTimeout h => Sys2Proof.Machine.execWaitTimeout h s
  | .qcopy h qd qn => Sys2Proof.Machine.execQcopy h qd qn s
  | .qread h sd qn => Sys2Proof.Machine.execQread h sd qn s
  | .sopen h sd sa => Sys2Proof.Machine.execSopen h sd sa s
  | .sclose h sd => Sys2Proof.Machine.execSclose h sd s
  | .sstat h sd => Sys2Proof.Machine.execSstat h sd s
  | .ostep h g fmt alg sa va => Sys2Proof.Machine.execOstep h g fmt alg sa va s
  | .sadv h sd => Sys2Proof.Machine.execSadv h sd s
  | .smark h sa => Sys2Proof.Machine.execSmark h sa s
  | .sealPacketReceive p pkt => Sys2Proof.Machine.execSealPacketReceive p pkt s
  | .sealResend g => Sys2Proof.Machine.execSealResend g s
  | .sealTeffReached g => Sys2Proof.Machine.execSealTeffReached g s
  | .sealLossTimeout g => Sys2Proof.Machine.execSealLossTimeout g s
  | .sealAbandon g => Sys2Proof.Machine.execSealAbandon g s
  | .mirrorWriteReceive p pkt => Sys2Proof.Machine.execMirrorWriteReceive p pkt s
  | .mirrorAckReceive p pkt => Sys2Proof.Machine.execMirrorAckReceive p pkt s
  | .csrr h sd csr => Sys2Proof.Machine.execCsrr h sd csr s
  | .csrw h op csr sa => Sys2Proof.Machine.execCsrw h op csr sa s
  | .halt h => Sys2Proof.Machine.execHalt h s
  | .brk h => Sys2Proof.Machine.execBrk h s
  | .nop h => Sys2Proof.Machine.execNop h s
  | .cinv h => Sys2Proof.Machine.execCinv h s
  | .tinv h every sa sb => Sys2Proof.Machine.execTinv h every sa sb s
  | .nanTrapArbitrate g => Sys2Proof.Machine.execNanTrapArbitrate g s
  | .ctxPreempt c => Sys2Proof.Machine.execCtxPreempt c s
  | .contextSaveComplete c ue => Sys2Proof.Machine.execContextSaveComplete c ue s
  | .ctxRestore c => Sys2Proof.Machine.execCtxRestore c s
  | .contextRestoreComplete c => Sys2Proof.Machine.execContextRestoreComplete c s
  | .ctxResume c => Sys2Proof.Machine.execCtxResume c s
  | .ctxKill c => Sys2Proof.Machine.execCtxKill c s
  | .registerWrite wby off v => Sys2Proof.Machine.execRegisterWrite wby off v s
  | .rcRegisterRead wby off => Sys2Proof.Machine.execRcRegisterRead wby off s
  | .chkReset c ch => Sys2Proof.Machine.execChkReset c ch s
  | .chkFinish c ch => Sys2Proof.Machine.execChkFinish c ch s
  | .translationWalk r g addr write err => Sys2Proof.Machine.execTranslationWalk r g addr write s err
  | .walkOutcome id ce ueA ueB line => Sys2Proof.Machine.execWalkOutcome id ce ueA ueB s line
  | .migrationStallTimeout id => Sys2Proof.Machine.execMigrationStallTimeout id s
  | .fmpMap err => Sys2Proof.Machine.execFmpMap s err
  | .fmpUnmap err => Sys2Proof.Machine.execFmpUnmap s err
  | .fmpProtect err => Sys2Proof.Machine.execFmpProtect s err
  | .fmpMigrate err => Sys2Proof.Machine.execFmpMigrate s err
  | .migrationComplete slot => Sys2Proof.Machine.execMigrationComplete slot s
  | .fmpZero err => Sys2Proof.Machine.execFmpZero s err
  | .zeroComplete group => Sys2Proof.Machine.execZeroComplete group s
  | .fmpRetire err => Sys2Proof.Machine.execFmpRetire s err
  | .fmpRead err => Sys2Proof.Machine.execFmpRead s err
  | .fmpLookup err => Sys2Proof.Machine.execFmpLookup s err
  | .cellarRead addr errors => Sys2Proof.Machine.execCellarRead addr errors s
  | .cellarWrite addr data poisoned errors => Sys2Proof.Machine.execCellarWrite addr data poisoned errors s
  | .cellarCeReread addr errors => Sys2Proof.Machine.execCellarCeReread addr errors s
  | .threshWindowExpire group => Sys2Proof.Machine.execThreshWindowExpire group s
  | .refresh group ch bank temp rate => Sys2Proof.Machine.execRefresh group ch bank temp rate s
  | .channelRetrain group ch ok => Sys2Proof.Machine.execChannelRetrain group ch ok s
  | .channelTrainingDone group ch ok => Sys2Proof.Machine.execChannelTrainingDone group ch ok s
  | .patrolScrub group errors line => Sys2Proof.Machine.execPatrolScrub group errors s line
  | .celFailCh group ch => Sys2Proof.Machine.execCelFailCh group ch s
  | .celRebuild group => Sys2Proof.Machine.execCelRebuild group s
  | .rebuildComplete group => Sys2Proof.Machine.execRebuildComplete group s
  | .celOffline group => Sys2Proof.Machine.execCelOffline group s
  | .celRetrainCh group ch ok => Sys2Proof.Machine.execCelRetrainCh group ch ok s
  | .celRemapWrite group k v => Sys2Proof.Machine.execCelRemapWrite group k v s
  | .selfRefreshEnter group => Sys2Proof.Machine.execSelfRefreshEnter group s
  | .selfRefreshExitDone group failed => Sys2Proof.Machine.execSelfRefreshExitDone group s failed
  | .trellisRequest r => Sys2Proof.Machine.execTrellisRequest r s
  | .trellisReply id err => Sys2Proof.Machine.execTrellisReply id s err
  | .trellisReplyTimeout id => Sys2Proof.Machine.execTrellisReplyTimeout id s
  | .linkFrameSend p => Sys2Proof.Machine.execLinkFrameSend p s
  | .linkFrameReceive p f corrected hit bad => Sys2Proof.Machine.execLinkFrameReceive p f corrected hit s bad
  | .linkLockLoss p => Sys2Proof.Machine.execLinkLockLoss p s
  | .linkRetrainEnd p ok failed => Sys2Proof.Machine.execLinkRetrainEnd p ok failed s
  | .linkSignalDetect p => Sys2Proof.Machine.execLinkSignalDetect p s
  | .linkTrainResult p locked => Sys2Proof.Machine.execLinkTrainResult p locked s
  | .linkFrameAlign p => Sys2Proof.Machine.execLinkFrameAlign p s
  | .lightLoss p total => Sys2Proof.Machine.execLightLoss p s total
  | .identNonceReceive p n => Sys2Proof.Machine.execIdentNonceReceive p n s
  | .identReceive p part data => Sys2Proof.Machine.execIdentReceive p part data s
  | .peerStateReceive p type1 => Sys2Proof.Machine.execPeerStateReceive p type1 s
  | .frameLockLoss p => Sys2Proof.Machine.execFrameLockLoss p s
  | .transmitStop p => Sys2Proof.Machine.execTransmitStop p s
  | .packetReceive p vc pkt => Sys2Proof.Machine.execPacketReceive p vc pkt s
  | .packetRouteGrant p => Sys2Proof.Machine.execPacketRouteGrant p s
  | .lnkEnable p => Sys2Proof.Machine.execLnkEnable p s
  | .lnkDisable p => Sys2Proof.Machine.execLnkDisable p s
  | .lnkRetrain p => Sys2Proof.Machine.execLnkRetrain p s
  | .lnkFulltrain p => Sys2Proof.Machine.execLnkFulltrain p s
  | .lnkRetire p => Sys2Proof.Machine.execLnkRetire p s
  | .catalogueCommit => Sys2Proof.Machine.execCatalogueCommit s
  | .timebaseExchangePeriod => Sys2Proof.Machine.execTimebaseExchangePeriod s
  | .timebaseReqReceive p seq type1 t2 => Sys2Proof.Machine.execTimebaseReqReceive p seq type1 t2 s
  | .timebaseRspReceive p seq type1 t2 t3 t4 => Sys2Proof.Machine.execTimebaseRspReceive p seq type1 t2 t3 t4 s
  | .holdoverExpire => Sys2Proof.Machine.execHoldoverExpire s
  | .ptpMessage m domain v6 => Sys2Proof.Machine.execPtpMessage m s domain v6
  | .launchArm k v => Sys2Proof.Machine.execLaunchArm k v s
  | .launchSlotSend k => Sys2Proof.Machine.execLaunchSlotSend k s
  | .launchWriteApply k => Sys2Proof.Machine.execLaunchWriteApply k s
  | .ethernetFrameReceive f => Sys2Proof.Machine.execEthernetFrameReceive f s
  | .hello d => Sys2Proof.Machine.execHello d s
  | .shtAck d => Sys2Proof.Machine.execShtAck d s
  | .shtCmd d => Sys2Proof.Machine.execShtCmd d s
  | .shtWindowWrite d => Sys2Proof.Machine.execShtWindowWrite d s
  | .shtWindowRead d => Sys2Proof.Machine.execShtWindowRead d s
  | .doorbell d => Sys2Proof.Machine.execDoorbell d s
  | .shtRetransmit e seq => Sys2Proof.Machine.execShtRetransmit e seq s
  | .shtCommandTimeout e tag => Sys2Proof.Machine.execShtCommandTimeout e tag s
  | .shtNop e tag => Sys2Proof.Machine.execShtNop e tag s
  | .info e tag => Sys2Proof.Machine.execInfo e tag s
  | .windowSet e tag => Sys2Proof.Machine.execWindowSet e tag s
  | .ctxStart e tag => Sys2Proof.Machine.execCtxStart e tag s
  | .ctxCtl e tag => Sys2Proof.Machine.execCtxCtl e tag s
  | .ctxRead e tag => Sys2Proof.Machine.execCtxRead e tag s
  | .memMap e tag => Sys2Proof.Machine.execMemMap e tag s
  | .memUnmap e tag => Sys2Proof.Machine.execMemUnmap e tag s
  | .memProtect e tag => Sys2Proof.Machine.execMemProtect e tag s
  | .nanRearm e tag => Sys2Proof.Machine.execNanRearm e tag s
  | .shtComputeReset e tag => Sys2Proof.Machine.execShtComputeReset e tag s
  | .shtGalleryReset e tag => Sys2Proof.Machine.execShtGalleryReset e tag s
  | .targetSet e tag => Sys2Proof.Machine.execTargetSet e tag s
  | .ckptWrite e tag => Sys2Proof.Machine.execCkptWrite e tag s
  | .shardRead e tag => Sys2Proof.Machine.execShardRead e tag s
  | .streamAbort e tag => Sys2Proof.Machine.execStreamAbort e tag s
  | .streamProgress k => Sys2Proof.Machine.execStreamProgress k s
  | .nvmeTcpPduReceive conn pdu => Sys2Proof.Machine.execNvmeTcpPduReceive conn pdu s
  | .tcpDeliveryTimeout conn reset => Sys2Proof.Machine.execTcpDeliveryTimeout conn s reset
  | .compose e tag => Sys2Proof.Machine.execCompose e tag s
  | .bind e tag => Sys2Proof.Machine.execBind e tag s
  | .open e tag => Sys2Proof.Machine.execOpen e tag s
  | .regRead e tag => Sys2Proof.Machine.execRegRead e tag s
  | .regWrite e tag => Sys2Proof.Machine.execRegWrite e tag s
  | .retireApply e tag => Sys2Proof.Machine.execRetireApply e tag s
  | .crRead e tag => Sys2Proof.Machine.execCrRead e tag s
  | .crClear e tag => Sys2Proof.Machine.execCrClear e tag s
  | .appraiseRead e tag => Sys2Proof.Machine.execAppraiseRead e tag s
  | .appraisePeer e tag => Sys2Proof.Machine.execAppraisePeer e tag s
  | .mirrorSend e tag => Sys2Proof.Machine.execMirrorSend e tag s
  | .mirrorAccept e tag => Sys2Proof.Machine.execMirrorAccept e tag s
  | .mirrorAcceptTimeout g => Sys2Proof.Machine.execMirrorAcceptTimeout g s
  | .shtChipReset e tag => Sys2Proof.Machine.execShtChipReset e tag s
  | .netbootBegin e tag => Sys2Proof.Machine.execNetbootBegin e tag s
  | .netbootGo e tag => Sys2Proof.Machine.execNetbootGo e tag s
  | .quote e tag => Sys2Proof.Machine.execQuote e tag s
  | .quoteSigned => Sys2Proof.Machine.execQuoteSigned s
  | .measlogRead e tag => Sys2Proof.Machine.execMeaslogRead e tag s
  | .flashBegin e tag => Sys2Proof.Machine.execFlashBegin e tag s
  | .flashCommit e tag => Sys2Proof.Machine.execFlashCommit e tag s
  | .glyCtlOpen g => Sys2Proof.Machine.execGlyCtlOpen g s
  | .glyCtlRearm g => Sys2Proof.Machine.execGlyCtlRearm g s
  | .glyCtlNextgen g => Sys2Proof.Machine.execGlyCtlNextgen g s
  | .teardownRackingKill g => Sys2Proof.Machine.execTeardownRackingKill g s
  | .glyCtlComputeReset g => Sys2Proof.Machine.execGlyCtlComputeReset g s
  | .glyCtlGalleryReset g => Sys2Proof.Machine.execGlyCtlGalleryReset g s
  | .computeResetComplete g => Sys2Proof.Machine.execComputeResetComplete g s
  | .genrefDrainZero g => Sys2Proof.Machine.execGenrefDrainZero g s
  | .galleryResetComplete g => Sys2Proof.Machine.execGalleryResetComplete g s
  | .curCtlChipReset => Sys2Proof.Machine.execCurCtlChipReset s
  | .chipResetHoldEnd => Sys2Proof.Machine.execChipResetHoldEnd s
  | .frqPop q => Sys2Proof.Machine.execFrqPop q s
  | .frqResolve q => Sys2Proof.Machine.execFrqResolve q s
  | .replayRerun reproduced => Sys2Proof.Machine.execReplayRerun reproduced s
  | .replayRerunTimeout => Sys2Proof.Machine.execReplayRerunTimeout s
  | .appraisalHalve => Sys2Proof.Machine.execAppraisalHalve s
  | .advisoryDeferredIssue => Sys2Proof.Machine.execAdvisoryDeferredIssue s
  | .crpClear => Sys2Proof.Machine.execCrpClear s
  | .crpUnpin => Sys2Proof.Machine.execCrpUnpin s
  | .prvExtend index => Sys2Proof.Machine.execPrvExtend index s
  | .mboxWrite off data pecOk => Sys2Proof.Machine.execMboxWrite off data pecOk s
  | .mboxDone value pecOk => Sys2Proof.Machine.execMboxDone value pecOk s
  | .mboxStatusRead => Sys2Proof.Machine.execMboxStatusRead s
  | .manifestTimeout => Sys2Proof.Machine.execManifestTimeout s
  | .qspiImageLoad => Sys2Proof.Machine.execQspiImageLoad s
  | .smbRegSelect off pecOk => Sys2Proof.Machine.execSmbRegSelect off pecOk s
  | .smbRegRead => Sys2Proof.Machine.execSmbRegRead s
  | .smbRegWrite v pecOk => Sys2Proof.Machine.execSmbRegWrite v pecOk s
  | .jtagInstruction k => Sys2Proof.Machine.execJtagInstruction k s
  | .sensorSample readings => Sys2Proof.Machine.execSensorSample readings s
  | .thermalLoop est => Sys2Proof.Machine.execThermalLoop est s
  | .avsPeriod margin low high => Sys2Proof.Machine.execAvsPeriod margin low high s
  | .slewWindow requests => Sys2Proof.Machine.execSlewWindow requests s
  | .pllLockLoss p => Sys2Proof.Machine.execPllLockLoss p s
  | .pwrgoodAssert => Sys2Proof.Machine.execPwrgoodAssert s
  | .pwrgoodDeassert ns => Sys2Proof.Machine.execPwrgoodDeassert ns s
  | .resetNAssert ns => Sys2Proof.Machine.execResetNAssert ns s
  | .resetNRelease straps => Sys2Proof.Machine.execResetNRelease straps s
  | .ethernetLinkChange aligned corr uncorr => Sys2Proof.Machine.execEthernetLinkChange aligned corr uncorr s
  | .pllLockAcquired p => Sys2Proof.Machine.execPllLockAcquired p s
  | .refclkLoss => Sys2Proof.Machine.execRefclkLoss s
  | .tcpRetransmissionTimeout conn => Sys2Proof.Machine.execTcpRetransmissionTimeout conn s
  | .flashEraseComplete => Sys2Proof.Machine.execFlashEraseComplete s
  | .rowRetirementCopyDone group ch => Sys2Proof.Machine.execRowRetirementCopyDone group ch s
  | .trstNAssert => Sys2Proof.Machine.execTrstNAssert s

end Sys2Proof.Machine
end

