-- ==== Sys2Proof/WellFormed.lean ====
section
/-! DEFINITION. Which commands are well formed: a legal encoding for a Seisk instruction, and for a happening
from outside the shape that its rule gives what arrives. -/

namespace Sys2Proof

/-- A packet's payload fills no more than the LEN slots of 32 bytes its header names (R284, Table 9-6). -/
def Packet.wf (p : Packet) : Bool := decide (p.payload.length ≤ 32 * bits p.w0 15 8)

/-- A link frame has eight slots (R272). -/
def Frame.wf (f : Frame) : Bool := decide (f.slots.length = 8)

/-- The rows that meet an uncorrectable error are named once each (R134). -/
def EngErrors.wf (e : EngErrors) : Bool := decide e.stbUe.Nodup && decide e.vatUe.Nodup

/-- Is a command well formed? -/
def Instr.wf (i : Instr) : Bool :=
  i.legal && (match i with
    | .slabComplete _ e => e.wf
    | .collDataReceive _ p _ | .collAckReceive _ p | .collReadyReceive _ p | .collAbortReceive _ p
    | .collLossReceive _ p | .sealPacketReceive _ p | .mirrorWriteReceive _ p | .mirrorAckReceive _ p
    | .packetReceive _ _ p => p.wf
    | .linkFrameReceive _ f _ _ _ => f.wf
    -- The identity block has three parts (R280).
    | .identReceive _ part _ => decide (part.val < 3)
    -- One reading of each of the 40 sensors (R440).
    | .sensorSample rs => decide (rs.length = 40)
    | _ => true)

/-- The hart that issues a Seisk instruction; none for a happening. -/
def Instr.hart : Instr → Option Hart
  | .illegal h _ | .add h _ _ _ | .sub h _ _ _ | .mullo h _ _ _ | .mulhss h _ _ _ | .mulhuu h _ _ _
  | .mulhsu h _ _ _ | .quos h _ _ _ | .quou h _ _ _ | .rmds h _ _ _ | .rmdu h _ _ _ | .and h _ _ _
  | .or h _ _ _ | .xor h _ _ _ | .andc h _ _ _ | .shl h _ _ _ | .shr h _ _ _ | .shra h _ _ _ | .ror h _ _ _
  | .cset h _ _ _ _ | .mins h _ _ _ | .maxs h _ _ _ | .minu h _ _ _ | .maxu h _ _ _ | .sel h _ _ _ _
  | .madd h _ _ _ _ | .zlead h _ _ | .ztrail h _ _ | .ones h _ _ | .fadd h _ _ _ | .fsub h _ _ _
  | .fmul h _ _ _ | .ffma h _ _ _ _ | .fcmp h _ _ _ _ | .fcvt h _ _ _ | .fmin h _ _ _ | .fmax h _ _ _
  | .tset h _ _ _ | .tget h _ _ _ | .addi h _ _ _ | .andi h _ _ _ | .ori h _ _ _ | .xori h _ _ _
  | .shli h _ _ _ | .shri h _ _ _ | .shrai h _ _ _ | .lih h _ _ _ | .ld h _ _ _ _ _ _ | .st h _ _ _ _
  | .amo h _ _ _ _ | .cseti h _ _ _ _ | .tld h _ _ _ | .tst h _ _ _ | .br h _ _ _ _ | .call h _ _
  | .callr h _ _ _ | .bp h _ _ _ | .loop h _ _ | .vadd h _ _ _ _ _ _ | .vsub h _ _ _ _ _ _
  | .vmul h _ _ _ _ _ _ | .vfma h _ _ _ _ _ _ | .vmin h _ _ _ _ _ | .vmax h _ _ _ _ _ | .vrcp h _ _ _ _
  | .vrsqrt h _ _ _ _ | .vsqrt h _ _ _ _ _ | .vact h _ _ _ _ _ _ | .vactd h _ _ _ _ _ _ _ _
  | .vcmp h _ _ _ _ _ _ | .vsel h _ _ _ _ _ _ | .vcvt h _ _ _ _ _ _ _ _ _ | .vand h _ _ _ _ _
  | .vor h _ _ _ _ _ | .vxor h _ _ _ _ _ | .vshl h _ _ _ _ _ | .vshr h _ _ _ _ _ _ | .viadd h _ _ _ _ _
  | .vbcast h _ _ _ _ | .vext h _ _ _ _ _ | .vperm h _ _ _ _ _ | .vred h _ _ _ _ _ _ | .vcred h _ _ _ _ _ _ _
  | .vld h _ _ _ _ _ _ | .vst h _ _ _ _ _ | .vrdvat h _ _ _ _ | .vwrvat h _ _ _ _ | .plog h _ _ _ _ _
  | .pset h _ _ _ | .vidx h _ _ _ | .vmuls h _ _ _ _ _ _ | .mload h _ _ | .mmul h _ _ _ _ _
  | .mgemm h _ _ _ _ _ _ | .mzero h | .rcopy h _ _ _ _ _ | .rgather h _ _ _ _ _ _ | .rscatter h _ _ _ _ _ _ _
  | .rfill h _ _ _ _ | .callreduce h _ _ _ _ _ _ _ | .creducescatter h _ _ _ _ _ _ _
  | .callgather h _ _ _ _ _ _ _ _ _ | .cbcast h _ _ _ _ _ _ | .calltoall h _ _ _ _ _ _ _ _ | .csend h _ _ _ _ _
  | .crecv h _ _ _ _ _ | .cbarrier h _ _ _ | .fence h _ | .wait h _ _ _ | .launch h _
  | .waitm h _ _ _ _ _ | .qcopy h _ _ | .qread h _ _ | .sopen h _ _
  | .sclose h _ | .sstat h _ | .ostep h _ _ _ _ _ | .sadv h _ | .smark h _ | .csrr h _ _ | .csrw h _ _ _
  | .halt h | .brk h | .nop h | .cinv h | .tinv h _ _ _ => some h
  | .slabComplete _ _ | .matrixInstrComplete _ | .engineRampStep _ | .dummySlabRunLimit _
  | .descriptorStart _ _ | .rackingPiece _ _ _ | .descriptorComplete _ _ | .rkgResume _ _ | .rkgFail _ _
  | .rkgKill _ _ | .rkgRingWrite _ _ _ | .collDataReceive _ _ _ | .collAckReceive _ _ | .collReadyReceive _ _
  | .collAbortReceive _ _ | .collLossReceive _ _ | .collRetransmit _ _ _ _ _ | .collOperationComplete _ _
  | .colSliceResume _ | .colSliceFail _ | .colQueueKill _ _ | .sealPacketReceive _ _ | .sealResend _
  | .sealTeffReached _ | .sealLossTimeout _ | .sealAbandon _ | .mirrorWriteReceive _ _ | .mirrorAckReceive _ _
  | .nanTrapArbitrate _ | .ctxPreempt _ | .contextSaveComplete _ _ | .ctxRestore _ | .contextRestoreComplete _
  | .ctxResume _ | .ctxKill _ | .registerWrite _ _ _ | .rcRegisterRead _ _ | .chkReset _ _ | .chkFinish _ _
  | .translationWalk _ _ _ _ _ | .walkOutcome _ _ _ _ _ | .migrationStallTimeout _ | .fmpMap _ | .fmpUnmap _
  | .fmpProtect _ | .fmpMigrate _ | .migrationComplete _ | .fmpZero _ | .zeroComplete _ | .fmpRetire _ | .fmpRead _
  | .fmpLookup _ | .cellarRead _ _ | .cellarWrite _ _ _ _ | .cellarCeReread _ _ | .threshWindowExpire _
  | .refresh _ _ _ _ _ | .channelRetrain _ _ _ | .channelTrainingDone _ _ _ | .patrolScrub _ _ _ | .celFailCh _ _
  | .celRebuild _ | .rebuildComplete _ | .celOffline _ | .celRetrainCh _ _ _ | .celRemapWrite _ _ _
  | .selfRefreshEnter _ | .selfRefreshExitDone _ _ | .trellisRequest _ | .trellisReply _ _ | .trellisReplyTimeout _
  | .linkFrameSend _ | .linkFrameReceive _ _ _ _ _ | .linkLockLoss _ | .linkRetrainEnd _ _ _
  | .linkSignalDetect _ | .linkTrainResult _ _ | .linkFrameAlign _ | .lightLoss _ _ | .identNonceReceive _ _
  | .identReceive _ _ _ | .peerStateReceive _ _ | .frameLockLoss _ | .transmitStop _ | .packetReceive _ _ _
  | .packetRouteGrant _ | .lnkEnable _ | .lnkDisable _ | .lnkRetrain _ | .lnkFulltrain _ | .lnkRetire _
  | .catalogueCommit | .timebaseExchangePeriod | .timebaseReqReceive _ _ _ _ | .timebaseRspReceive _ _ _ _ _ _
  | .holdoverExpire | .ptpMessage _ _ _ | .launchArm _ _ | .launchSlotSend _ | .launchWriteApply _
  | .ethernetFrameReceive _ | .hello _ | .shtAck _ | .shtCmd _ | .shtWindowWrite _ | .shtWindowRead _
  | .doorbell _ | .shtRetransmit _ _ | .shtCommandTimeout _ _ | .shtNop _ _ | .info _ _ | .windowSet _ _
  | .ctxStart _ _ | .ctxCtl _ _ | .ctxRead _ _ | .memMap _ _ | .memUnmap _ _ | .memProtect _ _ | .nanRearm _ _
  | .shtComputeReset _ _ | .shtGalleryReset _ _ | .targetSet _ _ | .ckptWrite _ _ | .shardRead _ _
  | .streamAbort _ _ | .streamProgress _ | .nvmeTcpPduReceive _ _ | .tcpDeliveryTimeout _ _ | .compose _ _
  | .bind _ _ | .open _ _ | .regRead _ _ | .regWrite _ _ | .retireApply _ _ | .crRead _ _ | .crClear _ _
  | .appraiseRead _ _ | .appraisePeer _ _ | .mirrorSend _ _ | .mirrorAccept _ _ | .mirrorAcceptTimeout _
  | .shtChipReset _ _ | .netbootBegin _ _ | .netbootGo _ _ | .quote _ _ | .quoteSigned | .measlogRead _ _
  | .flashBegin _ _ | .flashCommit _ _ | .glyCtlOpen _ | .glyCtlRearm _ | .glyCtlNextgen _
  | .teardownRackingKill _ | .glyCtlComputeReset _ | .glyCtlGalleryReset _ | .computeResetComplete _
  | .genrefDrainZero _ | .galleryResetComplete _ | .curCtlChipReset | .chipResetHoldEnd | .frqPop _
  | .frqResolve _ | .replayRerun _ | .replayRerunTimeout | .appraisalHalve | .advisoryDeferredIssue | .crpClear
  | .crpUnpin | .prvExtend _ | .mboxWrite _ _ _ | .mboxDone _ _ | .mboxStatusRead | .manifestTimeout
  | .qspiImageLoad | .smbRegSelect _ _ | .smbRegRead | .smbRegWrite _ _ | .jtagInstruction _ | .sensorSample _
  | .thermalLoop _ | .avsPeriod _ _ _ | .slewWindow _ | .pllLockLoss _ | .pwrgoodAssert | .pwrgoodDeassert _
  | .resetNAssert _ | .resetNRelease _ | .ethernetLinkChange _ _ _ | .pllLockAcquired _ | .refclkLoss
  | .tcpRetransmissionTimeout _ | .flashEraseComplete | .rowRetirementCopyDone _ _ | .trstNAssert
  | .launchTargetReached _ | .waitmReread _ | .waitTimeout _ => none

end Sys2Proof
end

