-- ==== Sys2Proof/Safety.lean ====
section
/-! DEFINITION. The terms that the statements use: when an instruction issues, the state its retirement leaves,
and what a run must not meet. -/

namespace Sys2Proof.Machine

/-- A step that does not stop the model. No command of the table ends in a fault, and only the JTAG
instruction that reaches device state under DEBUG is refused (R422). -/
def Safe (s : State) : Prop := ∃ t, step s = .next t

/-- When instruction `i` issues on `h`: its context runs or waits, no hold of another instruction, launch or
NaN arbiter keeps it, and the fetch at its pc meets nothing (R52, R60, R73, R168); a management core needs
running firmware (R51). The encoding is legal (R48). -/
def Ready (h : Hart) (i : Instr) (s : State) : Prop :=
  i.legal = true ∧ match h with
    | .core n => canIssue s n i = true ∧ fetchFault s n = none
    | .mgmt k => mgmtCanIssue s k i = true

/-- A core whose instruction retires, the pc going to `dst`: any hold ends and a launch whose moment has come is
disarmed (R52, R60, Table 2-15). -/
def retiredCore (c : Core) (dst : Word) : Core :=
  { c with pc := dst, retired := c.retired + 1, hold := none, state := .run, launchPend := false
           launchat := if c.launchPend then 0 else c.launchat }

/-- The state in which the instruction at the pc of `h` has retired and done nothing else. -/
def retired (h : Hart) (dst : Word) (s : State) : State :=
  match h with
  | .core n =>
    { s with cores := s.cores.set n (retiredCore (coreAt s n) dst)
             walker := { s.walker with stalls := s.walker.stalls.filter (fun x => decide (x.req ≠ .core n)) } }
  | .mgmt k =>
    { s with mgmt := s.mgmt.set k { s.mgmt[k] with
        pc := dst, hold := none, launchPend := false
        launchat := if s.mgmt[k].launchPend then 0 else s.mgmt[k].launchat } }

/-- The state after an instruction that falls through to the next word. -/
def fell (h : Hart) (s : State) : State := retired h (getPc h s + 8) s

/-- The guard of a vector instruction governs element `i` of `w` bits (R36). -/
def governs (n : CoreId) (g : Guard) (w : Nat) (s : State) (i : Nat) : Bool :=
  (getP n g.p s).getLsbD (i * w / 16) != g.neg

/-- Is element `i` of `w` bits of a register in a poisoned segment (R38)? -/
def inPoison (n : CoreId) (r : VNum) (w : Nat) (s : State) (i : Nat) : Bool := (coreAt s n).vpsn[r].getLsbD (i * w / 512)

/-- A register value `v` and its poison bits `p` after a governed write of elements of `w` bits: a governed
element is `f i`, another keeps its value; a segment with a governed element computed from poison is poisoned, one
wholly governed and computed from none is clear, another keeps its bit (R37, R38). -/
def LaneWrite (old : VReg) (oldPsn : BitVec 32) (w : Nat) (on : Nat → Bool) (f : Nat → Nat) (src : Nat → Bool)
    (v : VReg) (p : BitVec 32) : Prop :=
  (∀ i < 16384 / w, elemOf w v i = if on i then f i % 2 ^ w else elemOf w old i) ∧
  (∀ k < 32,
    let seg := fun i => k * 512 ≤ i * w ∧ i * w < k * 512 + 512
    ((∃ i, seg i ∧ on i = true ∧ src i = true) → p.getLsbD k = true) ∧
    ((∀ i, seg i → on i = true ∧ src i = false) → p.getLsbD k = false) ∧
    ((∀ i, seg i → on i = true → src i = false) → (∃ i, seg i ∧ on i = false) → p.getLsbD k = oldPsn.getLsbD k))

/-- What floating-point results leave beside the register: `r i` is the code and the flags of element `i`, for the
governed elements below `count`, and `more` says that a result beside them is NaN. The flags are OR-ed into fpctl where `sticky`, VEC_STATUS notes NaN and infinite results, and
the first element with an event raises it from `unit` (R90, R153, R172, Table 6-6). -/
def FloatDone (n : CoreId) (unit count : Nat) (fmt : Fmt) (on : Nat → Bool) (r : Nat → Nat × Fl) (more : Prop) (pc : Word)
    (s t : State) : Prop :=
  ∃ (nx uf of nv nan inf : Bool),
    let any := fun (p : Fl → Bool) => ∃ i < count, on i = true ∧ p (r i).2 = true
    (nx = true ↔ any Fl.nx) ∧ (uf = true ↔ any Fl.uf) ∧ (of = true ↔ any Fl.of) ∧ (nv = true ↔ any Fl.nv) ∧
    (nan = true ↔ more ∨ ∃ i < count, on i = true ∧ decodeElem fmt (r i).1 = .nan) ∧
    (inf = true ↔ ∃ i < count, on i = true ∧ ∃ b, decodeElem fmt (r i).1 = .inf b) ∧
    let s1 := setFlags n ⟨nx, uf, of, nv, none⟩ s
    let s2 := if nan then fset s1 (vecReg n.val 0) 6 6 1 else s1
    let s3 := if inf then fset s2 (vecReg n.val 0) 5 5 1 else s2
    ((∀ i < count, on i = true → (r i).2.cause = none) → t = s3) ∧
    (∀ i < count, ∀ c, on i = true → (r i).2.cause = some c → (∀ j < i, on j = true → (r j).2.cause = none) →
      t = nanEvent s3 n unit 2 c 0 i 0 pc)

/-- The rational number ±m × 2^e. -/
def finRat (neg : Bool) (m : Nat) (e : Int) : ℚ := (if neg then -1 else 1) * (m : ℚ) * (2 : ℚ) ^ e

/-- The Frame Map as the walker keeps it: the tables canonical, every ZERO range within its
group; every chain ends, holds an entry once, and holds only
entries that are VALID, hash to its anchor and map pairwise different (Gallery, VFN) (R251, R252, R254). -/
def FrameMapOk (s : State) : Prop :=
  rising (s.walker.entries.map Prod.fst) = true ∧ rising (s.walker.anchors.map Prod.fst) = true ∧
  rising (s.walker.zeros.map Prod.fst) = true ∧
  (∀ z ∈ s.walker.zeros, z.2.first / 2 ^ 20 = z.1 ∧ z.2.first % 2 ^ 20 + z.2.count ≤ 2 ^ 20) ∧
  ∀ h < 2 ^ 24, let c := chainOf s h
    c.Nodup ∧ (∀ x, c.getLast? = some x → feNextV (frameEntry s x) = false) ∧
    ∀ i ∈ c, feValid (frameEntry s i) = true ∧ entryHash (frameEntry s i) = h ∧
      ∀ j ∈ c, feGallery (frameEntry s j) = feGallery (frameEntry s i) → feVfn (frameEntry s j) = feVfn (frameEntry s i) → j = i

/-- Every translation but that of (Gallery, VFN) is as it was. -/
def OtherWalks (s t : State) (g v : Nat) : Prop :=
  ∀ (g' : Gal) (v' : Nat), v' < 2 ^ 31 → ¬(g'.val = g ∧ v' = v) → walkFrame t g'.val v' = walkFrame s g'.val v'

/-- A row retirement leads from `s` to `t` (R245, R246, R406): its channel's count rises; a copy to a free spare row of
the bank begins where the table has room; a limit reached, or `limit`, makes a channel that works FAILING. -/
def RowRetires (s t : State) (g c bank row : Nat) (limit : Bool) : Prop :=
  let x := s.group[fg g].ch[fg c]
  let y := t.group[fg g].ch[fg c]
  let full := decide (2032 ≤ rowsTaken s)
  let busy := x.copying.any (fun k => decide (k.1 = bank ∧ k.2.1 = row))
  let room := decide (remapsUsed s g c + x.copying.length < 64) && (List.range 232).any (spareFree s g c bank)
  let fails := limit || full || decide (bits (rget s (celReg g 0x10)) 7 0 ≤ x.winRows + 1)
  y.winRows = x.winRows + 1 ∧
  (full || busy || !room → y.copying = x.copying) ∧
  (full = false → busy = false → room = true →
    ∃ sp < 232, spareFree s g c bank sp = true ∧ y.copying = x.copying ++ [(bank, row, sp)]) ∧
  (fails = true → chState s g c ≠ 2 → chState t g c = 1 ∧ (chState s g c ≠ 1 → bit (rget t (celReg g 0)) 12 = true)) ∧
  (fails = false ∨ chState s g c = 2 → chState t g c = chState s g c)

/-- What happens at one link port leaves the other ports, memory, the Frame Map and the cores as they were. -/
def LinkAlone (s t : State) (p : PortId) : Prop :=
  t.mem = s.mem ∧ t.cores = s.cores ∧ t.walker = s.walker ∧ ∀ q, q ≠ p → t.ports[q] = s.ports[q] ∧ linkState t q = linkState s q

/-- A port passes to a state with a REASON (Table 9-4). -/
def LinkEnters (s t : State) (p : PortId) (st reason : Nat) : Prop :=
  LinkAlone s t p ∧ linkState t p = st ∧ bits (rget t (lnkSt p)) 43 40 = reason

/-- A chip reset with a CAUSE: the Cellar, the Condition Report with its new record, the queue, the flash and the pins
stay; all else is as at reset, and retirements wait to be applied again (R248, R391, R396). -/
def ChipResets (s t : State) (cause : Nat) (hold : Option Nat) : Prop :=
  t.chipHold = hold ∧ t.cr.cause = cause ∧ t.cr.pinned = s.cr.pinned ∧ t.cr.boots = s.cr.boots ∧
  (∃ r, t.cr.general.getLast? = some r ∧ bits r.ent.w0 55 48 = 0x1D ∧ r.ent.w2 = BitVec.ofNat 64 (2 + 256 * cause)) ∧
  t.cores = Vector.replicate 128 { cycleBase := s.clk } ∧ t.mgmt = State.reset.mgmt ∧ t.gal = State.reset.gal ∧
  t.ports = State.reset.ports ∧ t.walker = {} ∧ t.group = State.reset.group ∧ t.eps = State.reset.eps ∧ t.tb = {} ∧ t.frq = State.reset.frq ∧
  t.catActive = {} ∧ t.scores = [] ∧ t.replay = {} ∧ t.prov.meas = State.reset.prov.meas ∧ t.prov.flash = s.prov.flash ∧
  (∀ y, t.mem.byte y = if y < 2 ^ 41 then s.mem.byte y else 0) ∧
  (∀ l, t.mem.isPoisoned l = (decide (l < 2 ^ 35) && s.mem.poison.contains l)) ∧
  (∀ off, off ≠ 0x10000000 → rget t off = regReset off) ∧ t.pending = s.pending ∧
  t.retire = s.cr.pinned.map (fun r => (r.ent.w2, r.ent.w3))

/-- Bring-up begins: BOOT is WAITMAN, the straps show, the core and memory PLLs lock, Cellar training starts, and BOOTS
rises after a chip reset (R249, R412, R437, Table 11-3). -/
def BringsUp (s t : State) (straps : BitVec 4) : Prop :=
  t.chipHold = none ∧ bootState t = 1 ∧ bits (rget t 0x0D000000) 11 8 = straps.toNat ∧ bits (rget t 0x11000000) 1 0 = 3 ∧
  (∀ g : Fin 16, bit (rget t (celReg g.val 0)) 11 = false) ∧ t.pins.powerOn = false ∧
  t.cr.boots = s.cr.boots + (if s.pins.powerOn then 0 else 1) ∧ t.prov.manifestSince = now s ∧ t.prov.seeds = s.prov.seeds

/-- An accepted SHT command starts: the device runs, the command is the next of its TAG and OP, its turn has come, and
it is in time (R360, R361). -/
def Starts (s : State) (e : Ep) (tag : BitVec 32) (op : Nat) (c : ShtCmdRec) : Prop :=
  deviceRuns s = true ∧ findNew (endpoint s e) tag op = some c ∧ mayStart (endpoint s e) c = true ∧
  (hostClass op = true → now s ≤ c.since + 50000)

/-- The Curator starts from an image: its body in memory, ENTRY in the four pcs, BOOT and SLOT shown, measurement
registers 2 and 3 extended by the signed part of the header and the DEBUG state (R418, R421, R423). -/
def CuratorStarts (s t : State) (h body : List Byte) (slot : Nat) : Prop :=
  bootState t = 4 ∧ bits (rget t 0x0D000000) 13 12 = slot ∧ (rising (s.dev.map Prod.fst) = true → bits (rget t 0x0D000008) 15 0 = num h 2 2) ∧
  (∀ k : Fin 4, t.mgmt[k] = { s.mgmt[k] with pc := BitVec.ofNat 64 (num h 8 8), halted := false }) ∧ t.cores = s.cores ∧
  t.prov.meas = (s.prov.meas.set 2 (sha512 (s.prov.meas[2] ++ sha512 (h.take 80)))).set 3
    (sha512 (s.prov.meas[3] ++ sha512 (leBytes 8 (bits (rget s 0x0D000000) 14 14)))) ∧
  (s.mem.dead = [] → ∀ y, t.mem.byte y =
    if curatorBase ≤ y ∧ y < curatorBase + body.length then body.getD (y - curatorBase) 0 else s.mem.byte y)

/-- An SHT message of kind `k` reaches endpoint `e` in its session: the port serves it, it is well formed, its source,
session number and MAC are right and it is no longer than MAXLEN (R354, R356, R420). -/
def InSession (s : State) (e : Ep) (d : Datagram) (k : Nat) : Prop :=
  ethOn s = true ∧ endpointOf s d.port.toNat = some e ∧ shtServes s = true ∧ msgOk e d.body = true ∧ msgKind d.body = k ∧
  sourceOk s e d.src = true ∧ endpointOpen s e d.body = true ∧ (endpoint s e).session = some (BitVec.ofNat 64 (msgSession d.body)) ∧
  macOk (endpoint s e).key d.body = true ∧ msgLen d.body ≤ (endpoint s e).maxlen

/-- The state in which such a message is next in the session's order and nothing waits before it: the frame counted, its
ACKSEQ acted on and its SEQ taken (R358). -/
def InOrder (s : State) (e : Ep) (d : Datagram) (u : State) : Prop :=
  let a := shtAcked (ethRx s) e (msgAck d.body)
  let x := endpoint a e
  msgSeq d.body = x.rxSeq + 1 ∧ x.hold = [] ∧ x.todo = [] ∧ x.winWait.any (fun w => w.live) = false ∧
  u = setEp a e { x with rxSeq := msgSeq d.body }

/-- Every table of the device is in its canonical form: the memory's, the stored registers, the Frame Map's entries,
anchors and ZERO ranges, the scores, and the bytes that Provenance holds. -/
def Canonical (s : State) : Prop :=
  let keys {α : Type} (t : Tbl α) : Prop := rising (t.map Prod.fst) = true
  s.mem.wf = true ∧ keys s.dev ∧ keys s.walker.entries ∧ keys s.walker.anchors ∧ keys s.walker.zeros ∧ keys s.scores ∧
  keys s.prov.mbox ∧ keys s.prov.netImage ∧ (∀ i : Fin 2, keys s.prov.flash[i]) ∧ ∀ u, s.prov.update = some u → keys u.header

/-- A Seisk instruction with what its word spells and nothing else: it names no error that its execution meets. -/
def plainInstr (i : Instr) : Bool :=
  match i with
  | .ld _ _ _ e _ _ _ => decide (e = .none)
  | .callreduce _ _ _ _ _ _ _ e | .creducescatter _ _ _ _ _ _ _ e => decide (e = .none)
  | .callgather _ _ _ _ _ _ _ _ _ e => decide (e = .none)
  | .calltoall _ _ _ _ _ _ _ _ e => decide (e = .none)
  | .vld _ g _ e _ _ _ => decide (e = .none ∧ g.err = .none)
  | .vcred _ g _ _ ue _ _ _ => !ue && decide (g.err = .none)
  | .vadd _ g _ _ _ _ _ | .vsub _ g _ _ _ _ _ | .vmul _ g _ _ _ _ _ | .vfma _ g _ _ _ _ _ | .vmin _ g _ _ _ _
  | .vmax _ g _ _ _ _ | .vrcp _ g _ _ _ | .vrsqrt _ g _ _ _ | .vsqrt _ g _ _ _ _ | .vact _ g _ _ _ _ _
  | .vactd _ g _ _ _ _ _ _ _ | .vcmp _ g _ _ _ _ _ | .vsel _ g _ _ _ _ _ | .vcvt _ g _ _ _ _ _ _ _ _
  | .vand _ g _ _ _ _ | .vor _ g _ _ _ _ | .vxor _ g _ _ _ _ | .vshl _ g _ _ _ _ | .vshr _ g _ _ _ _ _
  | .viadd _ g _ _ _ _ | .vbcast _ g _ _ _ | .vext _ g _ _ _ _ | .vperm _ g _ _ _ _ | .vred _ g _ _ _ _ _
  | .vst _ g _ _ _ _ | .vrdvat _ g _ _ _ | .vwrvat _ g _ _ _ | .plog _ g _ _ _ _ | .pset _ g _ _ | .vidx _ g _ _
  | .vmuls _ g _ _ _ _ _ | .ostep _ g _ _ _ _ => decide (g.err = .none)
  | _ => true

/-- Instruction `i` of hart `h`, issued in `s`, completes with the next state `t`. -/
def Gives (h : Hart) (i : Instr) (s t : State) : Prop := Ready h i s → exec i s = .next t

end Sys2Proof.Machine
end

