-- ==== Sys2Proof/Certificates/Slice0/Obligations.lean ====
section
/-! DEFINITION. The statements for the provers. Each is one definition; `Ready`, `retired` and `fell` are those of
Sys2Proof/Safety.lean. -/

open Sys2Proof Sys2Proof.Machine

/-- A step takes the command at the front of the queue and runs it on the state with the queue's rest (log entry 1). The idle cycle is the model's choice (log entry 2); what the Timebase adds in it is R333's. -/
def Obligations.StepRunsFront : Prop :=
  (
  ∀ (c : Instr) (rest : List Instr) (s : State), s.pending = c :: rest → step s = exec c { s with pending := rest }) ∧
  (
  ∀ s : State, s.pending = [] →
    (deviceRuns s = true → step s = .next { s with
        clk := s.clk + 1
        tb := { s.tb with count := (s.tb.count + bits (rget s 0x0B000020) 39 0) % 2 ^ 96 } }) ∧
    (deviceRuns s = false → step s = .next s) ∧
    (deviceRuns s = true ↔
      s.chipHold = none ∧ s.pins.tripped = false ∧ s.pins.refclk = true ∧ s.pins.pwrgood = true ∧ s.pins.resetN = true))

/-- The register files and the guard of p0 (R35). -/
def Obligations.ZeroRegister : Prop :=
  (∀ (h : Hart) (s : State) (v : Word), getS h 0 s = 0 ∧ setS h 0 v s = s) ∧
  (∀ (h : Hart) (r q : SReg) (v : Word) (s : State),
    getS h q (setS h r v s) = if q = r ∧ r ≠ 0 then v else getS h q s) ∧
  (∀ (n : CoreId) (s : State) (v : BitVec 1024), getP n 0 s = BitVec.allOnes 1024 ∧ setP n 0 v s = s) ∧
  (∀ (n : CoreId) (r q : PReg) (v : BitVec 1024) (s : State),
    getP n q (setP n r v s) = if q = r ∧ r ≠ 0 then v else getP n q s) ∧
  (∀ (n : CoreId) (w i : Nat) (s : State), 0 < w → i * w < 16384 → governs n { p := 0, neg := false } w s i = true) ∧
  (∀ (n : CoreId) (w : Word) (s : State), (0x60 ≤ bits w 7 0 ∧ bits w 7 0 ≤ 0x9F) ∨ bits w 7 0 = 0xF3 →
    bits w 30 28 = 0 → bit w 31 = true →
    illegalWord (.core n) w = true ∧
      (canIssue s n (.illegal (.core n) w) = true → fetchFault s n = none →
        exec (.illegal (.core n) w) s = .next (takeExc (disarm s n) n { code := 1 } 2 true (coreAt s n).pc (coreAt s n).pc)))

/-- Scalar sums and products (Tables 3-2 and 3-5). The next state is the whole state: `fell` only retires. Scalar logic and shifts, bit by bit (Tables 3-2 and 3-5). Scalar comparisons and counts (Tables 3-2 and 3-5). -/
def Obligations.ScalarIntegers : Prop :=
  (
  ∀ (h : Hart) (sd sa sb sc : SReg) (imm : BitVec 40) (s : State),
    let a := getS h sa s
    let b := getS h sb s
    let c := getS h sc s
    let wr := fun (v : Word) => setS h sd v (fell h s)
    Gives h (.add h sd sa sb) s (wr (a + b)) ∧
    Gives h (.sub h sd sa sb) s (wr (a - b)) ∧
    Gives h (.mullo h sd sa sb) s (wr (BitVec.ofNat 64 (a.toNat * b.toNat))) ∧
    Gives h (.mulhss h sd sa sb) s (wr ((a.signExtend 128 * b.signExtend 128).extractLsb' 64 64)) ∧
    Gives h (.mulhuu h sd sa sb) s (wr ((a.zeroExtend 128 * b.zeroExtend 128).extractLsb' 64 64)) ∧
    Gives h (.mulhsu h sd sa sb) s (wr ((a.signExtend 128 * b.zeroExtend 128).extractLsb' 64 64)) ∧
    Gives h (.madd h sd sa sb sc) s (wr (BitVec.ofNat 64 (a.toNat * b.toNat + c.toNat))) ∧
    Gives h (.addi h sd sa imm) s (wr (a + imm.signExtend 64))) ∧
  (
  ∀ (h : Hart) (sd sa sb : SReg) (imm : BitVec 40) (cnt : BitVec 6) (v : Word) (s : State),
    let a := getS h sa s
    let b := getS h sb s
    let k := b.toNat % 64
    let m := cnt.toNat
    let t := setS h sd v (fell h s)
    ((∀ j < 64, v.getLsbD j = (a.getLsbD j && b.getLsbD j)) → Gives h (.and h sd sa sb) s t) ∧
    ((∀ j < 64, v.getLsbD j = (a.getLsbD j || b.getLsbD j)) → Gives h (.or h sd sa sb) s t) ∧
    ((∀ j < 64, v.getLsbD j = (a.getLsbD j != b.getLsbD j)) → Gives h (.xor h sd sa sb) s t) ∧
    ((∀ j < 64, v.getLsbD j = (a.getLsbD j && !b.getLsbD j)) → Gives h (.andc h sd sa sb) s t) ∧
    ((∀ j < 64, v.getLsbD j = (decide (k ≤ j) && a.getLsbD (j - k))) → Gives h (.shl h sd sa sb) s t) ∧
    ((∀ j < 64, v.getLsbD j = (decide (j + k < 64) && a.getLsbD (j + k))) → Gives h (.shr h sd sa sb) s t) ∧
    ((∀ j < 64, v.getLsbD j = a.getLsbD (min (j + k) 63)) → Gives h (.shra h sd sa sb) s t) ∧
    ((∀ j < 64, v.getLsbD j = a.getLsbD ((j + k) % 64)) → Gives h (.ror h sd sa sb) s t) ∧
    ((∀ j < 64, v.getLsbD j = (a.getLsbD j && imm.getLsbD (min j 39))) → Gives h (.andi h sd sa imm) s t) ∧
    ((∀ j < 64, v.getLsbD j = (a.getLsbD j || imm.getLsbD (min j 39))) → Gives h (.ori h sd sa imm) s t) ∧
    ((∀ j < 64, v.getLsbD j = (a.getLsbD j != imm.getLsbD (min j 39))) → Gives h (.xori h sd sa imm) s t) ∧
    ((∀ j < 64, v.getLsbD j = (decide (m ≤ j) && a.getLsbD (j - m))) → Gives h (.shli h sd sa cnt) s t) ∧
    ((∀ j < 64, v.getLsbD j = (decide (j + m < 64) && a.getLsbD (j + m))) → Gives h (.shri h sd sa cnt) s t) ∧
    ((∀ j < 64, v.getLsbD j = a.getLsbD (min (j + m) 63)) → Gives h (.shrai h sd sa cnt) s t) ∧
    ((∀ j < 64, v.getLsbD j = if j < 24 then a.getLsbD j else imm.getLsbD (j - 24)) → Gives h (.lih h sd sa imm) s t)) ∧
  (
  ∀ (h : Hart) (sd sa sb sc : SReg) (imm : BitVec 40) (s : State),
    let a := getS h sa s
    let b := getS h sb s
    let i : Word := imm.signExtend 64
    let wr := fun (v : Word) => setS h sd v (fell h s)
    let is := fun (p : Bool) => wr (if p then 1 else 0)
    (Gives h (.cset h .eq sd sa sb) s (is (decide (a = b))) ∧
     Gives h (.cset h .ne sd sa sb) s (is (decide (a ≠ b))) ∧
     Gives h (.cset h .lt sd sa sb) s (is (decide (a.toInt < b.toInt))) ∧
     Gives h (.cset h .le sd sa sb) s (is (decide (a.toInt ≤ b.toInt))) ∧
     Gives h (.cset h .ltu sd sa sb) s (is (decide (a.toNat < b.toNat))) ∧
     Gives h (.cset h .leu sd sa sb) s (is (decide (a.toNat ≤ b.toNat)))) ∧
    (Gives h (.cseti h .eq sd sa imm) s (is (decide (a = i))) ∧
     Gives h (.cseti h .ne sd sa imm) s (is (decide (a ≠ i))) ∧
     Gives h (.cseti h .lt sd sa imm) s (is (decide (a.toInt < imm.toInt))) ∧
     Gives h (.cseti h .le sd sa imm) s (is (decide (a.toInt ≤ imm.toInt))) ∧
     Gives h (.cseti h .ltu sd sa imm) s (is (decide (a.toNat < i.toNat))) ∧
     Gives h (.cseti h .leu sd sa imm) s (is (decide (a.toNat ≤ i.toNat)))) ∧
    (Gives h (.mins h sd sa sb) s (wr (if a.toInt ≤ b.toInt then a else b)) ∧
     Gives h (.maxs h sd sa sb) s (wr (if a.toInt ≤ b.toInt then b else a)) ∧
     Gives h (.minu h sd sa sb) s (wr (if a.toNat ≤ b.toNat then a else b)) ∧
     Gives h (.maxu h sd sa sb) s (wr (if a.toNat ≤ b.toNat then b else a)) ∧
     Gives h (.sel h sd sa sb sc) s (wr (if getS h sc s = 0 then b else a))) ∧
    (∀ n ≤ 64, (∀ j < n, a.getLsbD (63 - j) = false) → (n < 64 → a.getLsbD (63 - n) = true) →
      Gives h (.zlead h sd sa) s (wr (BitVec.ofNat 64 n))) ∧
    (∀ n ≤ 64, (∀ j < n, a.getLsbD j = false) → (n < 64 → a.getLsbD n = true) →
      Gives h (.ztrail h sd sa) s (wr (BitVec.ofNat 64 n))) ∧
    Gives h (.ones h sd sa) s (wr (BitVec.ofNat 64 ((List.range 64).filter (fun j => a.getLsbD j)).length)))

/-- The divisions of R77. -/
def Obligations.Division : Prop :=
  ∀ (h : Hart) (sd sa sb : SReg) (s : State),
    let a := getS h sa s
    let b := getS h sb s
    let dz := fun (t : State) => match h with
      | .core n => if b = 0 then modCore t n (fun c => { c with dz := true }) else t
      | .mgmt _ => t
    let wr := fun (v : Word) => dz (setS h sd v (fell h s))
    (b = 0 → Gives h (.quos h sd sa sb) s (wr (BitVec.ofInt 64 (if a.toInt < 0 then -(2 ^ 63) else 2 ^ 63 - 1))) ∧
      Gives h (.quou h sd sa sb) s (wr 0xFFFFFFFFFFFFFFFF) ∧
      Gives h (.rmds h sd sa sb) s (wr 0) ∧ Gives h (.rmdu h sd sa sb) s (wr 0)) ∧
    (a.toInt = -(2 ^ 63) → b.toInt = -1 →
      Gives h (.quos h sd sa sb) s (wr (BitVec.ofInt 64 (2 ^ 63 - 1))) ∧ Gives h (.rmds h sd sa sb) s (wr 0)) ∧
    (b ≠ 0 → ¬ (a.toInt = -(2 ^ 63) ∧ b.toInt = -1) →
      Gives h (.quos h sd sa sb) s (wr (BitVec.ofInt 64 (a.toInt.tdiv b.toInt))) ∧
      Gives h (.rmds h sd sa sb) s (wr (BitVec.ofInt 64 (a.toInt.tmod b.toInt)))) ∧
    (b ≠ 0 → Gives h (.quou h sd sa sb) s (wr (BitVec.ofNat 64 (a.toNat / b.toNat))) ∧
      Gives h (.rmdu h sd sa sb) s (wr (BitVec.ofNat 64 (a.toNat % b.toNat))))

/-- Exact arithmetic before the one rounding. -/
def Obligations.ExactSumsAndProducts : Prop :=
  (∀ (rm : Rm) (a b : Bool) (m n : Nat) (e k : Int), ∃ (c : Bool) (p : Nat) (q : Int),
    addVal rm (.fin a m e) (.fin b n k) = .fin c p q ∧ finRat c p q = finRat a m e + finRat b n k ∧
    (p = 0 → c = if m = 0 ∧ n = 0 then (a && b) || (decide (rm = .rd) && (a || b)) else decide (rm = .rd))) ∧
  (∀ (a b : Bool) (m n : Nat) (e k : Int), ∃ (p : Nat) (q : Int),
    mulVal (.fin a m e) (.fin b n k) = .fin (a != b) p q ∧ finRat (a != b) p q = finRat a m e * finRat b n k) ∧
  (∀ (rm : Rm) (x y : Val), addVal rm x y = .nan ↔ x = .nan ∨ y = .nan ∨ ∃ a : Bool, x = .inf a ∧ y = .inf (!a)) ∧
  (∀ (rm : Rm) (a b : Bool) (m : Nat) (e : Int), addVal rm (.inf a) (.fin b m e) = .inf a ∧
    addVal rm (.fin b m e) (.inf a) = .inf a ∧ addVal rm (.inf a) (.inf a) = .inf a) ∧
  (∀ x y : Val, mulVal x y = .nan ↔ x = .nan ∨ y = .nan ∨
    (∃ (a b : Bool) (e : Int), (x = .inf a ∧ y = .fin b 0 e) ∨ (x = .fin b 0 e ∧ y = .inf a))) ∧
  (∀ (a b : Bool) (m : Nat) (e : Int), m ≠ 0 → mulVal (.inf a) (.fin b m e) = .inf (a != b) ∧
    mulVal (.fin b m e) (.inf a) = .inf (a != b) ∧ mulVal (.inf a) (.inf b) = .inf (a != b))

/-- Correct rounding (R152, R155). Subnormal results are included, overflow is not. -/
def Obligations.RoundingIsNearestOrDirected : Prop :=
  ∀ (fmt : Fmt) (rm : Rm) (sat neg : Bool) (m : Nat) (e : Int),
    fmt ∈ [Fmt.f32, .bf16, .f16, .e4m3, .e5m2, .e2m3, .e3m2, .e2m1] → m ≠ 0 →
    let f := specOf fmt
    finRat false m e ≤ finRat false (maxFin f).1 (maxFin f).2 →
    let v := finRat neg m e
    let r := roundFp f rm sat (.fin neg m e)
    ∃ (n : Nat) (k : Int), r.1 < 2 ^ (1 + f.eb + f.mb) ∧ fpDecode f r.1 = .fin neg n k ∧
      let x := finRat neg n k
      (∀ (c : Nat) (b : Bool) (p : Nat) (q : Int), c < 2 ^ (1 + f.eb + f.mb) → fpDecode f c = .fin b p q →
        let y := finRat b p q
        match rm with
        | .rn => |x - v| ≤ |y - v| ∧ (|x - v| = |y - v| → x ≠ y → r.1 % 2 = 0)
        | .rz => |x| ≤ |v| ∧ (|y| ≤ |v| → |y| ≤ |x|)
        | .ru => v ≤ x ∧ (v ≤ y → x ≤ y)
        | .rd => x ≤ v ∧ (y ≤ v → y ≤ x)) ∧
      r.2.nx = decide (x ≠ v) ∧ r.2.of = false ∧ r.2.nv = false ∧ r.2.cause = none ∧
      (r.2.uf = true → r.2.nx = true ∧ |x| ≤ (2 : ℚ) ^ (1 - (f.bias : Int)))

/-- Scalar floating point (R78). `scalarFlags` is stated by `FlagsAndNanEvent`. The order of values and the conversion to integers. -/
def Obligations.ScalarFloatingPoint : Prop :=
  (
  ∀ (h : Hart) (sd sa sb sc : SReg) (s : State),
    let x := fpDecode spec32 ((getS h sa s).toNat % 2 ^ 32)
    let y := fpDecode spec32 ((getS h sb s).toNat % 2 ^ 32)
    let z := fpDecode spec32 ((getS h sc s).toNat % 2 ^ 32)
    let rm : Rm := match h with
      | .mgmt _ => .rn
      | .core n => match ((coreAt s n).fpctl.extractLsb' 0 2).toNat with
        | 0 => .rn | 1 => .rz | 2 => .ru | _ => .rd
    -- The flags of NaN operands and of a NaN that no operand gives.
    let inv := fun (ins : List Val) (v : Val) =>
      if Val.nan ∈ ins then ({ nv := true, cause := some 1 } : Fl)
      else if v = .nan then { nv := true, cause := some 2 } else {}
    let out := fun (w : Word) (fl : Fl) => scalarFlags h fl (getPc h s) (setS h sd w (fell h s))
    let fp := fun (ins : List Val) (v : Val) =>
      let r := roundFp spec32 rm false v
      out (BitVec.ofNat 64 r.1) (r.2.or (inv ins v))
    let is := fun (p : Prop) [Decidable p] =>
      out (if p then 1 else 0) (inv [x, y] (.fin false 0 0))
    let i := (getS h sa s).toInt
    Gives h (.fadd h sd sa sb) s (fp [x, y] (addVal rm x y)) ∧
    Gives h (.fsub h sd sa sb) s (fp [x, y] (addVal rm x (negVal y))) ∧
    Gives h (.fmul h sd sa sb) s (fp [x, y] (mulVal x y)) ∧
    Gives h (.ffma h sd sa sb sc) s (fp [x, y, z] (addVal rm (mulVal x y) z)) ∧
    Gives h (.fmin h sd sa sb) s (fp [x, y]
      (if x = .nan ∨ y = .nan then .nan else if rankLt y x then y else x)) ∧
    Gives h (.fmax h sd sa sb) s (fp [x, y]
      (if x = .nan ∨ y = .nan then .nan else if rankLt x y then y else x)) ∧
    Gives h (.fcmp h .eq sd sa sb) s (is (eqVal x y = true)) ∧
    Gives h (.fcmp h .lt sd sa sb) s (is (ltVal x y = true)) ∧
    Gives h (.fcmp h .le sd sa sb) s (is (ltVal x y = true ∨ eqVal x y = true)) ∧
    Gives h (.fcmp h .un sd sa sb) s (is (x = .nan ∨ y = .nan)) ∧
    Gives h (.fcvt h .toInt sd sa) s (out (BitVec.ofInt 64 (roundInt 64 rm x).1) (roundInt 64 rm x).2) ∧
    Gives h (.fcvt h .toFp sd sa) s (fp [] (.fin (decide (i < 0)) i.natAbs 0))) ∧
  (
  (∀ (a b : Bool) (m n : Nat) (e k : Int),
    (ltVal (.fin a m e) (.fin b n k) = true ↔ finRat a m e < finRat b n k) ∧
    (eqVal (.fin a m e) (.fin b n k) = true ↔ finRat a m e = finRat b n k) ∧
    (rankLt (.fin a m e) (.fin b n k) = true ↔
      finRat a m e < finRat b n k ∨ (m = 0 ∧ n = 0 ∧ a = true ∧ b = false)) ∧
    ltVal (.inf true) (.fin b n k) = true ∧ ltVal (.fin b n k) (.inf false) = true) ∧
  (∀ x : Val, ltVal .nan x = false ∧ ltVal x .nan = false ∧ eqVal .nan x = false ∧ eqVal x .nan = false) ∧
  (∀ (n : Nat) (rm : Rm) (neg : Bool) (m : Nat) (e : Int) (i : Int), 0 < n →
    let v := finRat neg m e
    let lo : Int := -((2 ^ (n - 1) : Nat) : Int)
    let hi : Int := ((2 ^ (n - 1) : Nat) : Int) - 1
    (match rm with
      | .rn => |(i : ℚ) - v| ≤ 1 / 2 ∧ (|(i : ℚ) - v| = 1 / 2 → i % 2 = 0)
      | .rz => |(i : ℚ)| ≤ |v| ∧ |v| < |(i : ℚ)| + 1 ∧ 0 ≤ (i : ℚ) * v
      | .ru => v ≤ i ∧ (i : ℚ) < v + 1
      | .rd => (i : ℚ) ≤ v ∧ v < i + 1) →
    roundInt n rm (.fin neg m e) =
      if i < lo then (lo, { nv := true }) else if hi < i then (hi, { nv := true })
      else (i, { nx := decide ((i : ℚ) ≠ v) })) ∧
  (∀ (n : Nat) (rm : Rm), roundInt n rm .nan = (0, { nv := true, cause := some 1 }) ∧
    roundInt n rm (.inf true) = (-((2 ^ (n - 1) : Nat) : Int), { nv := true }) ∧
    roundInt n rm (.inf false) = (((2 ^ (n - 1) : Nat) : Int) - 1, { nv := true })))

/-- Sticky flags and NaN events of the sequencer. -/
def Obligations.FlagsAndNanEvent : Prop :=
  (∀ (n : CoreId) (nx uf of nv : Bool) (pc : Word) (s : State),
    scalarFlags (.core n) ⟨nx, uf, of, nv, none⟩ pc s = modCore s n (fun c => { c with fpctl := c.fpctl |||
      ((if nx then 0x800 else 0) ||| (if uf then 0x400 else 0) ||| (if of then 0x200 else 0)
        ||| (if nv then 0x100 else 0)) })) ∧
  (∀ (k : Fin 4) (f : Fl) (pc : Word) (s : State), scalarFlags (.mgmt k) f pc s = s) ∧
  (∀ (n : CoreId) (cause : Nat) (pc : Word) (s : State), coreOwner s n = none →
    nanEvent s n 0 0 cause 0 0 0 pc = s) ∧
  (∀ (n : CoreId) (g : Gal) (cause : Nat) (pc : Word) (s : State), coreOwner s n = some g →
    s.gal[g].fired = true → nanEvent s n 0 0 cause 0 0 0 pc = sealMark s g rsnNan none) ∧
  (∀ (n : CoreId) (g : Gal) (cause : Nat) (pc : Word) (s : State), coreOwner s n = some g →
    s.gal[g].fired = false → cause < 16 → ∃ (e : NanEvent) (t : State),
      e.core = n.val ∧ e.unit = 0 ∧ e.seisk = true ∧ e.pc = pc ∧
      e.w0.getLsbD 63 = true ∧ bits e.w0 58 56 = g.val ∧ bits e.w0 55 52 = 0 ∧ bits e.w0 47 44 = cause ∧
      bits e.w0 6 0 = n.val ∧ bits e.w1 47 0 = pc.toNat % 2 ^ 48 ∧ e.w3 = BitVec.ofNat 64 (now s) ∧
      t = modGal (sealMark s g rsnNan none) g (fun x => { x with nanQ := x.nanQ ++ [e] }) ∧
      nanEvent s n 0 0 cause 0 0 0 pc = modCore t n (fun c => { c with nanWait := true })) ∧
  (∀ (s : State) (g : Gal) (r : BitVec 8),
    sealMark s g r none = modGal s g (fun x => { x with stepSeal :=
      if x.stepSeal.st = .open then { x.stepSeal with reason := x.stepSeal.reason ||| r }
      else { x.stepSeal with pendReason := x.stepSeal.pendReason ||| r } }))

/-- Loads of a context. -/
def Obligations.LoadsFromMemory : Prop :=
  ∀ (n : CoreId) (size : Size) (signed : Bool) (sd sa : SReg) (tn : TReg) (imm : BitVec 40) (s : State) (pa : Nat),
    let h : Hart := .core n
    let ea := (getS h sa s + imm.signExtend 64).toNat
    let k := match size with | .byte => 1 | .half => 2 | .word => 4 | .double => 8
    let gal := fun (k : Nat) => ea + k ≤ 2 ^ 48 ∧ ∃ g, coreOwner s n = some g ∧ translate s g ea false = .ok pa
    let cask := fun (k : Nat) => 2 ^ 48 ≤ ea ∧ ea + k ≤ 2 ^ 48 + 0x600000 ∧ pa = caskBase n.val + (ea - 2 ^ 48)
    let reserve := fun (k : Nat) => 2 ^ 49 ≤ ea ∧ ea + k ≤ 2 ^ 49 + 0x1000000 ∧
      pa = reserveBase (n.val / 8) + (ea - 2 ^ 49)
    let ext := fun (v : Nat) => if signed then (BitVec.ofNat (8 * k) v).signExtend 64 else BitVec.ofNat 64 v
    let i : Instr := .ld h size signed .none sd sa imm
    let j : Instr := .tld h tn sa imm
    s.mem.isPoisoned (pa / 64) = false →
    (ea % k = 0 → gal k ∨ cask k →
      Gives h i s (setS h sd (ext (leNat (s.mem.bytes pa k))) (fell h s))) ∧
    (ea % k = 0 → reserve k →
      Gives h i s (setS h sd (ext (leNat (s.mem.bytes pa k))) (fell h (logReserve s n i [])))) ∧
    (ea % 32 = 0 → gal 32 ∨ cask 32 →
      Gives h j s (setT n tn (BitVec.ofNat 256 (leNat (s.mem.bytes pa 32))) (fell h s))) ∧
    (ea % 32 = 0 → reserve 32 →
      Gives h j s (setT n tn (BitVec.ofNat 256 (leNat (s.mem.bytes pa 32))) (fell h (logReserve s n j []))))

/-- Stores, atomics and access faults (R43 to R45, R81, R82). -/
def Obligations.StoresAtomicsAndFaults : Prop :=
  (
  (∀ (n : CoreId) (size : Size) (sd sa : SReg) (tn : TReg) (imm : BitVec 40) (s : State) (pa : Nat),
    let h : Hart := .core n
    let ea := (getS h sa s + imm.signExtend 64).toNat
    let k := match size with | .byte => 1 | .half => 2 | .word => 4 | .double => 8
    let gal := fun (k : Nat) => ea + k ≤ 2 ^ 48 ∧ ∃ g, coreOwner s n = some g ∧ translate s g ea true = .ok pa
    let cask := fun (k : Nat) => 2 ^ 48 ≤ ea ∧ ea + k ≤ 2 ^ 48 + 0x600000 ∧ pa = caskBase n.val + (ea - 2 ^ 48)
    let reserve := fun (k : Nat) => 2 ^ 49 ≤ ea ∧ ea + k ≤ 2 ^ 49 + 0x1000000 ∧
      pa = reserveBase (n.val / 8) + (ea - 2 ^ 49)
    let i : Instr := .st h size sd sa imm
    let j : Instr := .tst h tn sa imm
    let put := fun (bs : List Byte) (t : State) => { t with mem := s.mem.store pa bs false }
    let bs := leBytes k (getS h sd s).toNat
    let ts := leBytes 32 (coreAt s n).t[tn].toNat
    (ea % k = 0 → gal k ∨ (cask k ∧ queueReads (coreAt s n) ea k = false) → Gives h i s (put bs (fell h s))) ∧
    (ea % k = 0 → reserve k → Gives h i s (put bs (fell h (logReserve s n i [])))) ∧
    (ea % 32 = 0 → gal 32 ∨ (cask 32 ∧ queueReads (coreAt s n) ea 32 = false) → Gives h j s (put ts (fell h s))) ∧
    (ea % 32 = 0 → reserve 32 → Gives h j s (put ts (fell h (logReserve s n j [])))) ∧
    (ea % k = 0 → cask k → queueReads (coreAt s n) ea k = true → Gives h i s (holdFor (disarm s n) n i))) ∧
  (∀ (m : Memory) (pa x : Nat) (bs : List Byte),
    (¬ (pa ≤ x ∧ x < pa + bs.length) → (m.store pa bs false).byte x = m.byte x) ∧
    (m.dead = [] → pa ≤ x → x < pa + bs.length → (m.store pa bs false).byte x = bs.getD (x - pa) 0)) ∧
  (∀ (k v : Nat), (leBytes k v).length = k ∧ leNat (leBytes k v) = v % 2 ^ (8 * k))) ∧
  (
  ∀ (n : CoreId) (op : AmoOp) (sd sa : SReg) (imm : BitVec 40) (s : State) (pa : Nat),
    let h : Hart := .core n
    let ea := (getS h sa s + imm.signExtend 64).toNat
    let i : Instr := .amo h op sd sa imm
    let old := BitVec.ofNat 64 (leNat (s.mem.bytes pa 8))
    let x := getS h sd s
    let new : Word := match op with
      | .add => old + x
      | .swap => x
      | .maxs => if old.toInt ≤ x.toInt then x else old
      | .mins => if old.toInt ≤ x.toInt then old else x
      | .or => old ||| x
      | .and => old &&& x
    let put := fun (t : State) => { t with mem := s.mem.store pa (leBytes 8 new.toNat) false }
    (ea % 8 = 0 → 2 ^ 48 ≤ ea → ea + 8 ≤ 2 ^ 48 + 0x600000 → pa = caskBase n.val + (ea - 2 ^ 48) →
      s.mem.isPoisoned (pa / 64) = false → queueReads (coreAt s n) ea 8 = false →
      Gives h i s (setS h sd old (put (fell h s)))) ∧
    (ea % 8 = 0 → 2 ^ 49 ≤ ea → ea + 8 ≤ 2 ^ 49 + 0x1000000 → pa = reserveBase (n.val / 8) + (ea - 2 ^ 49) →
      s.mem.isPoisoned (pa / 64) = false →
      Gives h i s (setS h sd old (put (fell h (logReserve s n i []))))) ∧
    (ea % 8 ≠ 0 ∨ ea < 2 ^ 48 ∨ (2 ^ 48 + 0x600000 < ea + 8 ∧ ea < 2 ^ 49) ∨ 2 ^ 49 + 0x1000000 < ea + 8 →
      Gives h i s (takeExc (disarm s n) n { code := 4, eaddr := BitVec.ofNat 64 ea } 0 true (coreAt s n).pc (coreAt s n).pc))) ∧
  (∀ (n : CoreId) (size : Size) (signed : Bool) (sd sa : SReg) (tn : TReg) (imm : BitVec 40) (s : State),
    let h : Hart := .core n
    let ea := (getS h sa s + imm.signExtend 64).toNat
    let a := BitVec.ofNat 64 ea
    let k := match size with | .byte => 1 | .half => 2 | .word => 4 | .double => 8
    let pc := (coreAt s n).pc
    let ld : Instr := .ld h size signed .none sd sa imm
    let st : Instr := .st h size sd sa imm
    let tl : Instr := .tld h tn sa imm
    let ts : Instr := .tst h tn sa imm
    let exc := fun (x : Exc) => takeExc (disarm s n) n x 0 true pc pc
    let outside := fun (k : Nat) => ¬ (ea + k ≤ 2 ^ 48) ∧ ¬ (2 ^ 48 ≤ ea ∧ ea + k ≤ 2 ^ 48 + 0x600000) ∧
      ¬ (2 ^ 49 ≤ ea ∧ ea + k ≤ 2 ^ 49 + 0x1000000) ∧ ¬ (3 * 2 ^ 48 ≤ ea ∧ ea + k ≤ 3 * 2 ^ 48 + 2 ^ 32)
    let inMemory := fun (k : Nat) => ea + k ≤ 2 ^ 49 + 0x1000000
    (outside k ∨ (inMemory k ∧ ea % k ≠ 0) → Gives h ld s (exc { code := 4, eaddr := a }) ∧
      Gives h st s (exc { code := 4, eaddr := a })) ∧
    (outside 32 ∨ (inMemory 32 ∧ ea % 32 ≠ 0) → Gives h tl s (exc { code := 4, eaddr := a }) ∧
      Gives h ts s (exc { code := 4, eaddr := a })) ∧
    (∀ g, coreOwner s n = some g →
      (ea + k ≤ 2 ^ 48 → ea % k = 0 →
        (translate s g ea false = .unmapped → Gives h ld s (exc { code := 5, eaddr := a, fclass := 1 })) ∧
        (translate s g ea true = .unmapped → Gives h st s (exc { code := 5, eaddr := a, fclass := 1 })) ∧
        (translate s g ea false = .fmapUe → Gives h ld s (exc { code := 5, eaddr := a, fclass := 4 })) ∧
        (translate s g ea true = .fmapUe → Gives h st s (exc { code := 5, eaddr := a, fclass := 4 })) ∧
        (translate s g ea true = .readOnly → Gives h st s (exc { code := 6, eaddr := a, fclass := 3 })) ∧
        (translate s g ea false = .migrating →
          Gives h ld s (holdFor (addStall (disarm s n) (.core n) g ea false false 0) n ld)) ∧
        (translate s g ea true = .migrating →
          Gives h st s (holdFor (addStall (disarm s n) (.core n) g ea true false 0) n st)) ∧
        (∀ pa, translate s g ea false = .ok pa → s.mem.isPoisoned (pa / 64) = true →
          Gives h ld s (exc { code := 0xA, eaddr := a }))) ∧
      (ea + 32 ≤ 2 ^ 48 → ea % 32 = 0 →
        (translate s g ea true = .readOnly → Gives h ts s (exc { code := 6, eaddr := a, fclass := 3 })) ∧
        (∀ pa, translate s g ea false = .ok pa → s.mem.isPoisoned (pa / 64) = true →
          Gives h tl s (exc { code := 0xA, eaddr := a })))) ∧
    (let local_ := fun (k pa : Nat) => (2 ^ 48 ≤ ea ∧ ea + k ≤ 2 ^ 48 + 0x600000 ∧ pa = caskBase n.val + (ea - 2 ^ 48)) ∨
        (2 ^ 49 ≤ ea ∧ ea + k ≤ 2 ^ 49 + 0x1000000 ∧ pa = reserveBase (n.val / 8) + (ea - 2 ^ 49));
      ∀ pa, s.mem.isPoisoned (pa / 64) = true → (ea % k = 0 → local_ k pa → Gives h ld s (exc { code := 0xA, eaddr := a })) ∧
        (ea % 32 = 0 → local_ 32 pa → Gives h tl s (exc { code := 0xA, eaddr := a }))) ∧
    (3 * 2 ^ 48 ≤ ea → ea + 32 ≤ 3 * 2 ^ 48 + 2 ^ 32 →
      Gives h tl s (takeExc (setT n tn 0 (fell h s)) n { code := 3, eaddr := a } 0 false pc (pc + 8)) ∧
      Gives h ts s (takeExc (fell h s) n { code := 3, eaddr := a } 0 false pc (pc + 8))))

/-- Loads and stores of device registers, and a management core's memory (the model's choice, log entry 8). -/
def Obligations.RegisterWindowAccess : Prop :=
  (∀ (n : CoreId) (size : Size) (signed : Bool) (sd sa : SReg) (imm : BitVec 40) (s : State),
    let h : Hart := .core n
    let ea := (getS h sa s + imm.signExtend 64).toNat
    let k := match size with | .byte => 1 | .half => 2 | .word => 4 | .double => 8
    let pc := (coreAt s n).pc
    let acc : Exc := { code := 3, eaddr := BitVec.ofNat 64 ea }
    let d := disarm s n
    let whole := size = .double ∧ ea % 8 = 0
    3 * 2 ^ 48 ≤ ea → ea + k ≤ 3 * 2 ^ 48 + 2 ^ 32 → (size = .double → signed = false) →
    (∀ w t, whole → readReg d (.ctx n) (ea % 2 ^ 32) = some (w, t) →
      Gives h (.ld h size signed .none sd sa imm) s (retireTo (settle (setS h sd w t) n) n (pc + 8))) ∧
    (¬ whole ∨ readReg d (.ctx n) (ea % 2 ^ 32) = none →
      Gives h (.ld h size signed .none sd sa imm) s (takeExc (setS h sd 0 (fell h s)) n acc 0 false pc (pc + 8))) ∧
    (∀ t, whole → writeReg d (.ctx n) (ea % 2 ^ 32) (getS h sd s) = some t →
      Gives h (.st h size sd sa imm) s (retireTo (settle t n) n (pc + 8))) ∧
    (¬ whole ∨ writeReg d (.ctx n) (ea % 2 ^ 32) (getS h sd s) = none →
      Gives h (.st h size sd sa imm) s (takeExc (fell h s) n acc 0 false pc (pc + 8)))) ∧
  (∀ (m : Fin 4) (size : Size) (signed : Bool) (sd sa : SReg) (imm : BitVec 40) (s : State),
    let h : Hart := .mgmt m
    let ea := (getS h sa s + imm.signExtend 64).toNat
    let k := match size with | .byte => 1 | .half => 2 | .word => 4 | .double => 8
    let v := leNat (s.mem.bytes (curatorBase + ea) k)
    ea + k ≤ 2 ^ 23 → ea % k = 0 →
      Gives h (.ld h size signed .none sd sa imm) s
        (setS h sd (if signed then (BitVec.ofNat (8 * k) v).signExtend 64 else BitVec.ofNat 64 v) (fell h s)) ∧
      Gives h (.st h size sd sa imm) s
        { fell h s with mem := s.mem.store (curatorBase + ea) (leBytes k (getS h sd s).toNat) false })

/-- Issue and control flow (R52, R73, R83, R84). -/
def Obligations.IssueAndBranches : Prop :=
  (
  (∀ (i : Instr) (n : CoreId) (s : State), i.hart = some (.core n) → (∀ h w, i ≠ .illegal h w) →
    let pc := (coreAt s n).pc
    (canIssue s n i = false → exec i s = .next s) ∧
    (canIssue s n i = true →
      (∀ x, fetchFault s n = some (some x) →
        ∃ cls < 8, exec i s = .next (takeExc (disarm s n) n x cls true pc pc)) ∧
      (fetchFault s n = some none → exec i s = .next (holdFor (stallFetch (disarm s n) n) n i)) ∧
      (fetchFault s n = none → i.legal = false →
        ∃ cls < 8, exec i s = .next (takeExc (disarm s n) n { code := 1 } cls true pc pc)))) ∧
  (∀ (n m : CoreId) (s : State), let c := coreAt s n
    coreAt (disarm s n) m = if m = n then { c with
      launchPend := false, launchat := if c.launchPend then 0 else c.launchat } else coreAt s m) ∧
  (∀ (i : Instr) (n : CoreId) (s : State), canIssue s n i = true ↔
    deviceRuns s = true ∧ ((coreAt s n).state = .run ∨ (coreAt s n).state = .wait) ∧ (coreAt s n).nanWait = false ∧
    ((coreAt s n).launchPend = true → (coreAt s n).launchat.toNat ≤ now s) ∧
    (∀ hd, (coreAt s n).hold = some hd → hd.instr = i)) ∧
  (∀ (n : CoreId) (s : State),
    let pc := (coreAt s n).pc
    let at6 := fun (code : Nat) (cls : Nat) =>
      some (some ({ code := code, src := 6, eaddr := pc, fclass := cls } : Exc))
    (pc.toNat % 8 ≠ 0 ∨ 2 ^ 48 < pc.toNat + 8 → fetchFault s n = at6 4 0) ∧
    (pc.toNat % 8 = 0 → pc.toNat + 8 ≤ 2 ^ 48 → ∀ g, coreOwner s n = some g →
      (translate s g pc.toNat false = .unmapped → fetchFault s n = at6 5 1) ∧
      (translate s g pc.toNat false = .fmapUe → fetchFault s n = at6 5 4) ∧
      (translate s g pc.toNat false = .migrating → fetchFault s n = some none) ∧
      (∀ pa, translate s g pc.toNat false = .ok pa →
        fetchFault s n = if s.mem.isPoisoned (pa / 64) then at6 0xA 0 else none)))) ∧
  (
  (∀ (n : CoreId) (w : Word) (s : State), illegalWord (.core n) w = true →
    canIssue s n (.illegal (.core n) w) = true → fetchFault s n = none →
    let pc := (coreAt s n).pc
    ∃ (f : Nat) (cls : Nat), cls < 8 ∧
      exec (.illegal (.core n) w) s = .next (takeExc (disarm { s with free := f } n) n { code := 1 } cls true pc pc) ∧
      (bits w 7 0 ∈ [0x1D, 0x1E, 0x1F, 0x2A, 0x2F, 0x3E, 0x3F] → cls = 0 ∧ f = s.free) ∧
      (bits w 7 0 ∈ [0x45, 0x4F] → cls = 1 ∧ f = s.free) ∧ (bits w 7 0 ∈ [0x81, 0x9F] → cls = 2 ∧ f = s.free) ∧
      (bits w 7 0 ∈ [0xA4, 0xBF] → cls = 3 ∧ f = s.free)) ∧
  (∀ (k : Fin 4) (w : Word) (s : State), illegalWord (.mgmt k) w = true →
    mgmtCanIssue s k (.illegal (.mgmt k) w) = true → s.mgmt[k].launchPend = false →
    ∃ f : Nat, exec (.illegal (.mgmt k) w) s
      = .next (report { s with free := f } { kind := 0x1A, cls := 5, unit := 13 })) ∧
  (∀ (h : Hart) (w : Word) (s : State), illegalWord h w = false → exec (.illegal h w) s = .next s) ∧
  (∀ h : Hart, illegalWord h 0 = true ∧ illegalWord h 0xFF = true ∧ illegalWord h (BitVec.allOnes 64) = true)) ∧
  (
  (∀ (h : Hart) (s : State), Gives h (.nop h) s (fell h s) ∧ Gives h (.cinv h) s (fell h s)) ∧
  (∀ (k : Fin 4) (every : Bool) (sa sb : SReg) (s : State),
    Gives (.mgmt k) (.tinv (.mgmt k) every sa sb) s (fell (.mgmt k) s)) ∧
  (∀ (k : Fin 4) (s : State),
    let t := fell (.mgmt k) s
    Gives (.mgmt k) (.halt (.mgmt k)) s { t with mgmt := t.mgmt.set k { t.mgmt[k] with halted := true } }) ∧
  (∀ (n : CoreId) (every : Bool) (sa sb : SReg) (s : State),
    let h : Hart := .core n
    let pc := (coreAt s n).pc
    let halted := modCore (fell h s) n (fun c => { c with state := .halted, resumepc := pc + 8 })
    Gives h (.tinv h every sa sb) s (takeExc (disarm s n) n { code := 2 } 7 true pc pc) ∧
    Gives h (.brk h) s (takeExc (fell h s) n { code := 0xD } 7 false pc (pc + 8)) ∧
    (coreOwner s n = none → Gives h (.halt h) s halted) ∧
    (∀ g, coreOwner s n = some g → Gives h (.halt h) s (ctxStopNow halted g n)))) ∧
  (∀ (h : Hart) (sa sb : SReg) (disp : BitVec 40) (s : State),
    let pc := getPc h s
    let near := pc + disp.signExtend 64 * 8
    let far := getS h sa s + disp.signExtend 64 * 8
    let a := getS h sa s
    let b := getS h sb s
    let goes := fun (p : Prop) [Decidable p] => if p then retired h near s else fell h s
    Gives h (.br h .eq sa sb disp) s (goes (a = b)) ∧
    Gives h (.br h .ne sa sb disp) s (goes (a ≠ b)) ∧
    Gives h (.br h .lt sa sb disp) s (goes (a.toInt < b.toInt)) ∧
    Gives h (.br h .ge sa sb disp) s (goes (b.toInt ≤ a.toInt)) ∧
    Gives h (.br h .ltu sa sb disp) s (goes (a.toNat < b.toNat)) ∧
    Gives h (.br h .geu sa sb disp) s (goes (b.toNat ≤ a.toNat)) ∧
    Gives h (.br h .always 0 0 disp) s (retired h near s) ∧
    Gives h (.call h sa disp) s (setS h sa (pc + 8) (retired h near s)) ∧
    (far.toNat % 8 = 0 → Gives h (.callr h sb sa disp) s (setS h sb (pc + 8) (retired h far s))) ∧
    Gives h (.loop h sa disp) s (setS h sa (a - 1) (if sa = 0 ∨ a = 1 then fell h s else retired h near s))) ∧
  (∀ (n : CoreId) (sa sb : SReg) (pn : PReg) (disp : BitVec 40) (s : State),
    let h : Hart := .core n
    let pc := (coreAt s n).pc
    let p := getP n pn s
    let near := retired h (pc + disp.signExtend 64 * 8) s
    let far := getS h sa s + disp.signExtend 64 * 8
    (far.toNat % 8 ≠ 0 → Gives h (.callr h sb sa disp) s (takeExc (disarm s n) n { code := 4, eaddr := far } 1 true pc pc)) ∧
    Gives h (.bp h .any pn disp) s (if p = 0 then fell h s else near) ∧
    Gives h (.bp h .all pn disp) s (if p = BitVec.allOnes 1024 then near else fell h s) ∧
    Gives h (.bp h .none pn disp) s (if p = 0 then near else fell h s))

/-- Exceptions and the NaN trap (R61 to R63, R167 to R171). -/
def Obligations.ExceptionsAndNanTraps : Prop :=
  (∀ (n : CoreId) (g : Gal) (q : Fin 9) (x : Exc) (cls : Nat) (restart : Bool) (epc resume : Word) (s : State),
    coreOwner s n = some g → q.val = g.val → x.code ∈ [1, 2, 3, 4, 5, 6, 7, 8, 0xA, 0xB, 0xC, 0xD] → x.src < 8 → cls < 8 →
    s.frq[q].handling = false → s.frq[q].ents.length < 8 → s.gal[g].tear = .none → s.gal[g].reset = none →
    (x.code = 5 → x.fclass ≠ 4) →
    let t := takeExc s n x cls restart epc resume
    let kind := if x.code = 5 then 3 else if x.code = 0xB then 5 else if x.code ∈ [3, 0xC, 0xD] then 2 else 1
    ((coreAt s n).state = .run ∨ (coreAt s n).state = .wait →
      ∃ w : Word, bits w 7 0 = x.code ∧ w.getLsbD 8 = restart ∧ bits w 11 9 = x.src ∧ bits w 15 12 = 0 ∧
        bits w 63 16 = cls ∧
        coreAt t n = { coreAt s n with
          state := .stopped, hold := none, ecause := w, epc := epc, eaddr := x.eaddr
          einfo := if x.code = 7 then x.einfo else 0, resumepc := resume, pc := resume } ∧
        ∃ e : FEntry, t.frq[q].ents = s.frq[q].ents ++ [e] ∧ t.frq[q].handling = decide (kind = 1 ∨ kind = 5) ∧
          bits e.w0 55 48 = kind ∧ bits e.w0 58 56 = (if kind = 1 ∨ kind = 5 then 3 else 0) ∧
          bits e.w0 42 40 = g.val ∧ bits e.w0 38 32 = n.val ∧ e.w1 = BitVec.ofNat 64 (now s) ∧
          (kind ≠ 3 → e.w2 = w ∧ e.w3 = epc ∧ e.w4 = x.eaddr ∧ e.w5 = x.einfo) ∧
          (kind = 3 → e.w3 = x.eaddr ∧ e.w4 = epc)) ∧
    (¬ ((coreAt s n).state = .run ∨ (coreAt s n).state = .wait) → coreAt t n = coreAt s n) ∧
    (∀ m, m ≠ n → coreAt t m = coreAt s m) ∧ t.mem = s.mem ∧ t.dev = s.dev ∧ t.pending = s.pending ∧
    (∀ p : Fin 9, p ≠ q → t.frq[p] = s.frq[p])) ∧
  (∀ (n : CoreId) (g : Gal) (x : Exc) (cls : Nat) (restart : Bool) (epc resume : Word) (s : State),
    coreOwner s n = some g → x.code = 5 → x.fclass = 4 → s.gal[g].tear = .none → s.gal[g].reset = none →
    ChipResets s (takeExc s n x cls restart epc resume) 4 (some 0)) ∧
  (∀ (s : State) (g : Gal) (n : CoreId) (unit cls cause kstep port col row : Nat) (pc : Word),
    let t := nanMeet s g n unit cls cause kstep port col row pc
    t.gal[g].stepSeal = (sealMark s g 1 none).gal[g].stepSeal ∧ t.mem = s.mem ∧ (∀ m, m ≠ n → coreAt t m = coreAt s m) ∧
    (s.gal[g].fired = true → t = sealMark s g 1 none) ∧
    (s.gal[g].fired = false → coreAt t n = { coreAt s n with nanWait := true } ∧ ∃ e : NanEvent,
      t.gal[g].nanQ = s.gal[g].nanQ ++ [e] ∧ e.core = n.val ∧ e.unit = unit ∧ e.cycle = s.clk / 2 ∧ e.pc = pc ∧ e.cls = cls ∧
      (unit < 16 → cls < 16 → cause < 16 → bit e.w0 63 = true ∧ bits e.w0 58 56 = g.val ∧ bits e.w0 55 52 = unit ∧
        bits e.w0 51 48 = cls ∧ bits e.w0 47 44 = cause) ∧ bits e.w0 6 0 = n.val ∧ bits e.w1 47 0 = pc.toNat % 2 ^ 48 ∧
      (port < 16 → bits e.w2 63 48 = kstep % 65536 ∧ bits e.w2 47 44 = port) ∧ bits e.w2 31 16 = col % 65536 ∧ bits e.w2 15 0 = row % 65536 ∧
      e.w3 = BitVec.ofNat 64 (now s))) ∧
  (∀ (l : List NanEvent) (e : NanEvent), nanWinner l = some e → e ∈ l ∧ ∀ x ∈ l, nanBefore x e = false) ∧
  (∀ l : List NanEvent, nanWinner l = none ↔ l = []) ∧
  (∀ a b : NanEvent, nanBefore a b = true ↔
    a.cycle < b.cycle ∨ (a.cycle = b.cycle ∧ (a.core < b.core ∨ (a.core = b.core ∧ a.unit < b.unit)))) ∧
  (∀ (g : Gal) (s : State),
    let l := s.gal[g].nanQ
    ∃ s1, (∀ n : CoreId, coreAt s1 n = { coreAt s n with
        nanWait := (coreAt s n).nanWait && !decide (∃ e ∈ l, e.core % 128 = n.val) }) ∧
      s1.gal[g] = { s.gal[g] with nanQ := [] } ∧ (∀ k, k ≠ g → s1.gal[k] = s.gal[k]) ∧ s1.dev = s.dev ∧ s1.mem = s.mem ∧
      (s.gal[g].fired = true ∨ l = [] → exec (.nanTrapArbitrate g) s = .next s1) ∧
      (s.gal[g].fired = false → rising (s.dev.map Prod.fst) = true → ∀ e, nanWinner l = some e → ∃ t, exec (.nanTrapArbitrate g) s = .next t ∧
        let n : CoreId := Fin.ofNat 128 e.core
        t.gal[g].fired = true ∧ bit (rget t (glyReg g.val 0)) 4 = true ∧ rget t (glyReg g.val 0x70) = e.w0 ∧
        rget t (glyReg g.val 0x78) = e.w1 ∧ rget t (glyReg g.val 0x80) = e.w2 ∧ rget t (glyReg g.val 0x88) = e.w3 ∧
        (∀ m, m ≠ n → coreAt t m = coreAt s1 m) ∧ t.mem = s.mem ∧
        (¬ ((coreAt s n).state = .run ∨ (coreAt s n).state = .wait) → coreAt t n = coreAt s1 n) ∧
        ((coreAt s n).state = .run ∨ (coreAt s n).state = .wait → ∃ w : Word,
          bits w 7 0 = 9 ∧ bit w 8 = false ∧
          bits w 11 9 = (if e.unit = 0 then 0 else if e.unit = 2 then 2 else if e.unit ≤ 3 then 1 else 4) ∧
          coreAt t n = { coreAt s1 n with state := .stopped, hold := none, ecause := w, epc := e.pc, eaddr := 0
                                          einfo := e.w2, resumepc := (coreAt s n).pc })))

/-- Vector arithmetic, bits and predicates (R85, R88, R90, R180 to R183). -/
def Obligations.VectorElementwise : Prop :=
  (∀ (n : CoreId) (g : Guard) (fmt : Fmt) (rm : RmField) (fn : ActFn) (input : Bool) (vd va vb : VNum) (sa : SReg) (s : State),
    g.err = .none →
    let h : Hart := .core n
    let w := fmtBits fmt
    let on := governs n g w s
    let mode : Rm := match rm with
      | .rn => .rn | .rz => .rz | .ru => .ru | .rd => .rd
      | .dyn => match ((coreAt s n).fpctl.extractLsb' 0 2).toNat with
        | 0 => .rn | 1 => .rz | 2 => .ru | _ => .rd
    let el := fun (r : VNum) (i : Nat) => decodeElem fmt (elemOf w (coreAt s n).v[r] i)
    let x := el va
    let y := el vb
    let z := el vd
    let c := fpDecode spec32 ((getS h sa s).toNat % 2 ^ 32)
    let alpha := fpDecode spec32 (bits (rget s (vecReg n.val 0x58)) 31 0 % 2 ^ 32)
    let fp := fun (ins : List Val) (v : Val) => fpElem fmt mode ins v
    let pa := inPoison n va w s
    let pab := fun i => inPoison n va w s i || inPoison n vb w s i
    let does := fun (i : Instr) (r : Nat → Nat × Fl) (src : Nat → Bool) =>
      ∃ (v : VReg) (p : BitVec 32) (t : State),
        LaneWrite (coreAt s n).v[vd] (coreAt s n).vpsn[vd] w on (fun k => (r k).1) src v p ∧
        FloatDone n 1 (16384 / w) fmt on r False (coreAt s n).pc (setV n vd v p (fell h s)) t ∧ Gives h i s t
    does (.vadd h g fmt rm vd va vb) (fun i => fp [x i, y i] (addVal mode (x i) (y i))) pab ∧
    does (.vsub h g fmt rm vd va vb) (fun i => fp [x i, y i] (addVal mode (x i) (negVal (y i)))) pab ∧
    does (.vmul h g fmt rm vd va vb) (fun i => fp [x i, y i] (mulVal (x i) (y i))) pab ∧
    does (.vfma h g fmt rm vd va vb) (fun i => fp [x i, y i, z i] (addVal mode (mulVal (x i) (y i)) (z i)))
      (fun i => pab i || inPoison n vd w s i) ∧
    does (.vmin h g fmt vd va vb) (fun i => fpElem fmt .rn [x i, y i] (minVal (x i) (y i))) pab ∧
    does (.vmax h g fmt vd va vb) (fun i => fpElem fmt .rn [x i, y i] (maxVal (x i) (y i))) pab ∧
    does (.vrcp h g fmt vd va) (fun i => rcpElem (x i)) pa ∧
    does (.vrsqrt h g fmt vd va) (fun i => rsqrtElem (x i)) pa ∧
    does (.vsqrt h g fmt rm vd va) (fun i => fp [x i] (sqrtVal (x i))) pa ∧
    does (.vact h g fmt rm fn vd va) (fun i => fp [x i] (actVal fn alpha (x i))) pa ∧
    does (.vactd h g fmt rm fn input vd va vb) (fun i => fp [x i, y i]
      (if input then derivIn fn alpha (x i) (y i) else mulVal (derivOut fn alpha (x i)) (y i))) pab ∧
    does (.vmuls h g fmt rm vd va sa) (fun i => fp [x i, c] (mulVal (x i) c)) pa) ∧
  (
  ∀ (n : CoreId) (g : Guard) (fmt : Fmt) (arith : Bool) (vd va vb : VNum) (sa : SReg) (pn : PReg) (s : State),
    g.err = .none →
    let h : Hart := .core n
    let w := fmtBits fmt
    let a := fun (w i : Nat) => elemOf w (coreAt s n).v[va] i
    let b := fun (w i : Nat) => elemOf w (coreAt s n).v[vb] i
    let pab := fun i => inPoison n va 32 s i || inPoison n vb 32 s i
    let sh := fun i => b 32 i % 32
    let pick := fun i => (getP n pn s).getLsbD (i * w / 16)
    let does := fun (i : Instr) (w : Nat) (f : Nat → Nat) (src : Nat → Bool) =>
      ∃ (v : VReg) (p : BitVec 32),
        LaneWrite (coreAt s n).v[vd] (coreAt s n).vpsn[vd] w (governs n g w s) f src v p ∧
        Gives h i s (setV n vd v p (fell h s))
    does (.vsel h g fmt vd va vb pn) w (fun i => if pick i then a w i else b w i)
      (fun i => if pick i then inPoison n va w s i else inPoison n vb w s i) ∧
    does (.vand h g .i32 vd va vb) 32 (fun i => a 32 i &&& b 32 i) pab ∧
    does (.vor h g .i32 vd va vb) 32 (fun i => a 32 i ||| b 32 i) pab ∧
    does (.vxor h g .i32 vd va vb) 32 (fun i => a 32 i ^^^ b 32 i) pab ∧
    does (.vshl h g .i32 vd va vb) 32 (fun i => a 32 i <<< sh i) pab ∧
    does (.vshr h g .i32 arith vd va vb) 32 (fun i => if arith
      then ((BitVec.ofNat 32 (a 32 i)).sshiftRight (sh i)).toNat else a 32 i >>> sh i) pab ∧
    does (.viadd h g .i32 vd va vb) 32 (fun i => a 32 i + b 32 i) pab ∧
    does (.vbcast h g fmt vd sa) w (fun _ => (getS h sa s).toNat) (fun _ => false) ∧
    does (.vidx h g .i32 vd) 32 (fun i => i) (fun _ => false) ∧
    does (.vperm h g fmt vd va vb) 32 (fun i => a 32 (b 32 i % 512))
      (fun i => inPoison n vb 32 s i || inPoison n va 32 s (b 32 i % 512))) ∧
  (
  ∀ (n : CoreId) (g : Guard) (fmt : Fmt) (cc : VRel) (pd pa pb : PReg) (va vb : VNum) (sa : SReg) (idx : BitVec 12) (s : State),
    g.err = .none →
    let h : Hart := .core n
    let w := fmtBits fmt
    let on := governs n g w s
    let pc := (coreAt s n).pc
    let x := fun i => decodeElem fmt (elemOf w (coreAt s n).v[va] i)
    let y := fun i => decodeElem fmt (elemOf w (coreAt s n).v[vb] i)
    let psn := fun i => inPoison n va w s i || inPoison n vb w s i
    let poison : State := takeExc (disarm s n) n { code := 0xA, src := 1 } 2 true pc pc
    let holds := fun i => match cc with
      | .eq => eqVal (x i) (y i) | .ne => !eqVal (x i) (y i) | .lt => ltVal (x i) (y i)
      | .le => ltVal (x i) (y i) || eqVal (x i) (y i) | .gt => ltVal (y i) (x i)
      | .ge => ltVal (y i) (x i) || eqVal (x i) (y i)
    let nans := fun i => if x i = .nan ∨ y i = .nan then ((0, { nv := true, cause := some 1 }) : Nat × Fl) else (0, {})
    let gbit := fun j => (getP n g.p s).getLsbD j != g.neg
    let writes := fun (i : Instr) (f : Nat → Bool) =>
      ∀ q : BitVec 1024, (∀ j < 1024, q.getLsbD j = if gbit j then f j else (getP n pd s).getLsbD j) →
        Gives h i s (setP n pd q (fell h s))
    ((∀ i < 16384 / w, on i = true → psn i = false) → ∀ q : BitVec 1024,
      (∀ j < 1024, q.getLsbD j = if on (j * 16 / w) then holds (j * 16 / w) else (getP n pd s).getLsbD j) →
      ∃ t, FloatDone n 1 (16384 / w) .i32 on nans False pc (setP n pd q (fell h s)) t ∧
        Gives h (.vcmp h g fmt cc pd va vb) s t) ∧
    ((∃ i < 16384 / w, on i = true ∧ psn i = true) → Gives h (.vcmp h g fmt cc pd va vb) s poison) ∧
    (on idx.toNat = false → Gives h (.vext h g fmt sa va idx) s (fell h s)) ∧
    (on idx.toNat = true → inPoison n va w s idx.toNat = true → Gives h (.vext h g fmt sa va idx) s poison) ∧
    (on idx.toNat = true → inPoison n va w s idx.toNat = false → Gives h (.vext h g fmt sa va idx) s
      (setS h sa (BitVec.ofNat 64 (elemOf w (coreAt s n).v[va] idx.toNat)) (fell h s))) ∧
    (let a := fun j => (getP n pa s).getLsbD j
     let b := fun j => (getP n pb s).getLsbD j
     writes (.plog h g .and pd pa pb) (fun j => a j && b j) ∧ writes (.plog h g .or pd pa pb) (fun j => a j || b j) ∧
     writes (.plog h g .xor pd pa pb) (fun j => a j != b j) ∧ writes (.plog h g .andc pd pa pb) (fun j => a j && !b j) ∧
     writes (.plog h g .not pd pa pb) (fun j => !a j)) ∧
    writes (.pset h g pd sa) (fun j => decide (j < (getS h sa s).toNat)))

/-- Roots and reciprocals, and Table 6-3 at its special inputs. -/
def Obligations.RootsAndReciprocals : Prop :=
  (∀ (m : Nat) (e : Int), m ≠ 0 → ∃ (p : Nat) (q : Int), sqrtVal (.fin false m e) = .fin false p q ∧
    ∀ k < 2 ^ 60, ∀ j : Int, (finRat false k j < finRat false p q ↔ finRat false k j ^ 2 < finRat false m e) ∧
      (finRat false k j = finRat false p q ↔ finRat false k j ^ 2 = finRat false m e)) ∧
  (∀ (a b : Bool) (m n : Nat) (e k : Int), m ≠ 0 → n ≠ 0 → ∃ (p : Nat) (q : Int),
    divVal (.fin a m e) (.fin b n k) = .fin (a != b) p q ∧
    ∀ l < 2 ^ 60, ∀ j : Int,
      (finRat false l j < finRat false p q ↔ finRat false l j * finRat false n k < finRat false m e) ∧
      (finRat false l j = finRat false p q ↔ finRat false l j * finRat false n k = finRat false m e)) ∧
  (∀ (m : Nat) (e : Int), m ≠ 0 → ∃ (p : Nat) (q : Int), rsqrtFin m e = .fin false p q ∧
    ∀ k < 2 ^ 60, ∀ j : Int, (finRat false k j < finRat false p q ↔ finRat false k j ^ 2 * finRat false m e < 1) ∧
      (finRat false k j = finRat false p q ↔ finRat false k j ^ 2 * finRat false m e = 1)) ∧
  (∀ (a : Bool) (e : Int), rcpElem (.fin a 0 e) = ((if a then 0xFF800000 else 0x7F800000), {}) ∧
    rcpElem (.inf a) = ((if a then 0x80000000 else 0), {}) ∧
    rcpElem .nan = (0x7FC00000, { nv := true, cause := some 1 }) ∧
    rsqrtElem (.fin a 0 e) = ((if a then 0xFF800000 else 0x7F800000), {}) ∧ rsqrtElem (.inf false) = (0, {}) ∧
    rsqrtElem (.inf true) = (0x7FC00000, { nv := true, cause := some 2 }) ∧
    rsqrtElem .nan = (0x7FC00000, { nv := true, cause := some 1 })) ∧
  (∀ (a : Bool) (m : Nat) (e : Int), m ≠ 0 →
    (rcpElem (.fin a m e)).1 = (roundFp spec32 .rz false (divVal (.fin false 1 0) (.fin a m e))).1 / 4096 * 4096 ∧
    (rsqrtElem (.fin false m e)).1 = (roundFp spec32 .rz false (rsqrtFin m e)).1 / 4096 * 4096 ∧
    rsqrtElem (.fin true m e) = (0x7FC00000, { nv := true, cause := some 2 })) ∧
  (∀ (alpha : Val) (a : Bool) (m : Nat) (e : Int), m ≠ 0 →
    actVal .relu alpha (.fin false m e) = .fin false m e ∧ actVal .relu alpha (.fin true m e) = .fin false 0 0 ∧
    actVal .leaky alpha (.fin false m e) = .fin false m e ∧
    actVal .leaky alpha (.fin true m e) = mulVal alpha (.fin true m e) ∧
    (∀ fn, actVal fn alpha .nan = .nan) ∧
    actVal .ln alpha (.fin true m e) = .nan ∧ actVal .ln alpha (.inf true) = .nan ∧ actVal .ln alpha (.inf false) = .inf false ∧
    actVal .ln alpha (.fin a 0 e) = .inf true ∧ actVal .exp alpha (.inf false) = .inf false ∧
    isZero (actVal .exp alpha (.inf true)) = true ∧ isZero (actVal .sigmoid alpha (.inf true)) = true ∧
    eqVal (actVal .exp alpha (.fin a 0 e)) (.fin false 1 0) = true ∧
    eqVal (actVal .sigmoid alpha (.fin a 0 e)) (.fin false 1 (-1)) = true ∧
    eqVal (actVal .sigmoid alpha (.inf false)) (.fin false 1 0) = true ∧
    eqVal (actVal .tanh alpha (.inf false)) (.fin false 1 0) = true ∧
    eqVal (actVal .tanh alpha (.inf true)) (.fin true 1 0) = true ∧
    (∀ fn ∈ [ActFn.tanh, .gelu, .silu], isZero (actVal fn alpha (.fin a 0 e)) = true) ∧
    (∀ fn ∈ [ActFn.relu, .gelu, .silu], actVal fn alpha (.inf false) = .inf false ∧
      isZero (actVal fn alpha (.inf true)) = true))

/-- Conversions; where vd = vc in an MX encoding the result that stands is a free choice (log entry 21). -/
def Obligations.VectorConvert : Prop :=
  (∀ (n : CoreId) (d src : Fmt) (rm : RmField) (sat mx : Bool) (vd va vc : VNum) (s : State),
    let h : Hart := .core n
    let N := if fmtBits d = 32 ∨ fmtBits src = 32 then 512 else 1024
    let mode := fieldRm rm n s
    let x := fun i => decodeElem src (elemOf (fmtBits src) (coreAt s n).v[va] i)
    let one := fun i => let r := convVal d mode sat src (x i); (plusZero d r.1, r.2)
    let blk := fun b => mxBlock d src mode ((List.range 32).map (fun j => x (32 * b + j)))
    let pe := fun i => inPoison n va (fmtBits src) s i
    let all : Nat → Bool := fun _ => true
    let i : Instr := .vcvt h { p := 0, neg := false } d src rm sat mx vd va vc
    let wr := fun (r : VNum) (w : Nat) (f : Nat → Nat) (q : Nat → Bool) (v : VReg) (p : BitVec 32) =>
      LaneWrite (coreAt s n).v[r] (coreAt s n).vpsn[r] w all f q v p
    (mx = false → ∃ v p t,
      wr vd (fmtBits d) (fun k => if k < N then (one k).1 else 0) (fun k => decide (k < N) && pe k) v p ∧
      FloatDone n 1 N d all one False (coreAt s n).pc (fset (setV n vd v p (fell h s)) (engReg n.val 0x10) 31 0
        (min (fget s (engReg n.val 0x10) 31 0) (2 ^ 32 - 1))) t ∧ Gives h i s t) ∧
    (mx = true → vd ≠ vc → ∃ v p vs ps t,
      wr vd (fmtBits d) (fun k => if k < N then ((blk (k / 32)).codes.getD (k % 32) (0, {}, false)).1 else 0)
        (fun k => decide (k < N) && (List.range 32).any (fun j => pe (k / 32 * 32 + j))) v p ∧
      wr vc 8 (fun k => if k < N / 32 then (blk k).scale else 0)
        (fun k => decide (k < N / 32) && (List.range N).any pe) vs ps ∧
      FloatDone n 1 N d all (fun k => let c := (blk (k / 32)).codes.getD (k % 32) (0, {}, false); (c.1, c.2.1))
        (∃ b < N / 32, (blk b).scale = 0xFF) (coreAt s n).pc
        (fincr (setV n vc vs ps (setV n vd v p (fell h s))) (engReg n.val 0x10) 31 0
          ((List.range (N / 32)).map (fun b => ((blk b).codes.filter (fun c => c.2.2)).length)).sum) t ∧
      Gives h i s t) ∧
    (mx = true → vd = vc → ∃ v p vs ps t,
      wr vd (fmtBits d) (fun k => if k < N then ((blk (k / 32)).codes.getD (k % 32) (0, {}, false)).1 else 0)
        (fun k => decide (k < N) && (List.range 32).any (fun j => pe (k / 32 * 32 + j))) v p ∧
      wr vc 8 (fun k => if k < N / 32 then (blk k).scale else 0)
        (fun k => decide (k < N / 32) && (List.range N).any pe) vs ps ∧
      ((coreAt t n).v[vd] = v ∨ (coreAt t n).v[vd] = vs) ∧ Gives h i s t)) ∧
  (∀ (d src : Fmt) (rm : Rm) (vs : List Val),
    let b := mxBlock d src rm vs
    b.codes.length = vs.length ∧
    ((.nan ∈ vs ∨ ∃ a, Val.inf a ∈ vs) → b.scale = 0xFF ∧ ∀ c ∈ b.codes, c.1 = 0) ∧
    ((∀ v ∈ vs, ∃ a e, v = .fin a 0 e) → b.scale = 0 ∧ ∀ c ∈ b.codes, c = (0, {}, false)) ∧
    (∀ (X : Int), (∀ v ∈ vs, ∃ a m e, v = .fin a m e ∧ (m = 0 ∨ finRat false m e < 2 ^ (X + 1))) →
      (∃ v ∈ vs, ∃ a m e, v = .fin a m e ∧ (2 : ℚ) ^ X ≤ finRat false m e) →
      let S := max (X - emaxOf d) (-127)
      (b.scale : Int) = S + 127 ∧
      ∀ k, ∀ hk : k < vs.length, ∀ a m e, vs[k] = .fin a m e →
        (b.codes.getD k (0, {}, false)).1 = plusZero d (roundFp (specOf d) rm true (.fin a m (e - S))).1)) ∧
  emaxOf .e4m3 = 8 ∧ emaxOf .e5m2 = 15 ∧ emaxOf .e2m3 = 2 ∧ emaxOf .e3m2 = 4 ∧ emaxOf .e2m1 = 2

/-- Reductions. -/
def Obligations.FixedTreeReductions : Prop :=
  (∀ (f : Nat → Nat → Nat × Fl) (v : VReg) (t : Nat → Nat → Nat),
    (∀ i, t 0 i = elemOf 32 v i) → (∀ k i, t (k + 1) i = (f (t k (2 * i)) (t k (2 * i + 1))).1) →
    (reduce f v).1 = t 9 0) ∧
  (∀ (n : CoreId) (fmt : Fmt) (rm : RmField) (fn : RedFn) (vd va : VNum) (s : State),
    let h : Hart := .core n
    let v := (coreAt s n).v[va]
    let all : Nat → Bool := fun _ => true
    let psn : Nat → Bool := fun _ => decide ((coreAt s n).vpsn[va] ≠ 0)
    let i : Instr := .vred h { p := 0, neg := false } fmt rm fn vd va
    let c := if fmt = .i32 then (reduce (treeInt fn) v).1
      else plusZero .f32 (reduce (treeFp fn (fieldRm rm n s)) v).1
    let es := laneNans v ++ (reduce (treeFp fn (fieldRm rm n s)) v).2
    ∃ x p t,
      LaneWrite (coreAt s n).v[vd] (coreAt s n).vpsn[vd] 32 all (fun k => if k = 0 then c else 0) psn x p ∧
      (fmt = .i32 → Gives h i s (setV n vd x p (fell h s))) ∧
      FloatDone n 1 512 .f32 all (fun l => (c, (es.filter (fun e => decide (e.1 = l))).foldl (fun a e => a.or e.2) {})) False
        (coreAt s n).pc (setV n vd x p (fell h s)) t ∧
      (fmt = .f32 → Gives h i s t)) ∧
  (∀ (n : CoreId) (op : CredOp) (ue : Bool) (vd va : VNum) (s : State), ∃ t,
    Gives (.core n) (.vcred (.core n) { p := 0, neg := false } .f32 op ue vd vd va) s t) ∧
  (∀ (n : CoreId) (op : CredOp) (ue : Bool) (vd vc va : VNum) (s : State), (op ≠ .sum → vd ≠ vc) →
    let h : Hart := .core n
    let pc := (coreAt s n).pc
    let v := (coreAt s n).v[va]
    let all : Nat → Bool := fun _ => true
    let psn : Nat → Bool := fun _ => decide ((coreAt s n).vpsn[va] ≠ 0) || ue
    let i : Instr := .vcred h { p := 0, neg := false } .f32 op ue vd vc va
    let top := topK (match op with | .sum => 0 | .max => 1 | .topk k => k.val)
      ((List.range 512).map (fun l => (l, elemOf 32 v l)))
    let sum := plusZero .f32 (reduce (treeFp .sum .rn) v).1
    let s0 := fell h (logCru s n (.vcred h { p := 0, neg := false } .f32 op false vd vc va))
    let results := if op = .sum then [sum] else top.map (fun e => rankCode e.2)
    let ev := leastEvent (laneNans v ++ if op = .sum then (reduce (treeFp .sum .rn) v).2 else [])
    ∃ x p y q t,
      LaneWrite (coreAt s n).v[vd] (coreAt s n).vpsn[vd] 32 all (fun k => if op = .sum then (if k = 0 then sum else 0)
        else match top[k]? with | some e => rankCode e.2 | none => 0) psn x p ∧
      LaneWrite (coreAt s n).v[vc] (coreAt s n).vpsn[vc] 32 all
        (fun k => match top[k]? with | some e => e.1 | none => 0) psn y q ∧
      let s1 := if op = .sum then setV n vd x p s0 else setV n vc y q (setV n vd x p s0)
      let s2 := fincr s1 (cruReg (n.val / 8)) 31 0 1
      let s3 := if ∃ c ∈ results, val32 c = .nan then fset s2 (vecReg n.val 0) 6 6 1 else s2
      let s4 := if ∃ c ∈ results, isInfV (val32 c) = true then fset s3 (vecReg n.val 0) 5 5 1 else s3
      t = (match ev with | none => s4 | some (l, c) => nanEvent s4 n 3 2 c 0 l 0 pc) ∧
      (ue = false → Gives h i s t) ∧
      (ue = true → Gives h i s (takeExc (appraise t (0x110 + n.val / 8) 1024) n { code := 0xB, src := 1 } 2 false pc (pc + 8)))) ∧
  (∀ x y : Nat × Nat, ranksAbove x y = true ↔
    let a := fpDecode spec32 (x.2 % 2 ^ 32)
    let b := fpDecode spec32 (y.2 % 2 ^ 32)
    (a = .nan ∧ (b ≠ .nan ∨ x.1 < y.1)) ∨
    (a ≠ .nan ∧ b ≠ .nan ∧ (ltVal b a = true ∨ (ltVal a b = false ∧ x.1 < y.1)))) ∧
  (∀ (k : Nat) (l : List (Nat × Nat)), (l.map Prod.fst).Nodup → k ≤ l.length →
    (topK k l).length = k ∧ (topK k l).Pairwise (fun x y => ranksAbove x y = true) ∧ (∀ x ∈ topK k l, x ∈ l) ∧
    ∀ x ∈ topK k l, ∀ y ∈ l, y ∉ topK k l → ranksAbove x y = true)

/-- Vector loads and stores, and the Vat rows. -/
def Obligations.VectorMemory : Prop :=
  (
  (∀ (n : CoreId) (g : Guard) (fmt : Fmt) (vd : VNum) (sa : SReg) (off : BitVec 12) (s : State) (pa : Nat),
    g.err = .none →
    let h : Hart := .core n
    let w := fmtBits fmt
    let on := governs n g w s
    let ea := (getS h sa s + off.signExtend 64 * 64).toNat
    let pc := (coreAt s n).pc
    let ld : Instr := .vld h g fmt .none vd sa off
    let st : Instr := .vst h g fmt vd sa off
    let cask := 2 ^ 48 ≤ ea ∧ ea + 2048 ≤ 2 ^ 48 + 0x600000
    let reserve := 2 ^ 49 ≤ ea ∧ ea + 2048 ≤ 2 ^ 49 + 0x1000000
    (ea % 64 ≠ 0 ∨ ¬ (cask ∨ reserve) →
      Gives h ld s (takeExc (disarm s n) n { code := 4, eaddr := BitVec.ofNat 64 ea } 2 true pc pc) ∧
      Gives h st s (takeExc (disarm s n) n { code := 4, eaddr := BitVec.ofNat 64 ea } 2 true pc pc)) ∧
    (ea % 64 = 0 → cask ∨ reserve →
      pa = (if cask then caskBase n.val + (ea - 2 ^ 48) else reserveBase (n.val / 8) + (ea - 2 ^ 49)) →
      let base := fun (i : Instr) => fell h (if cask then s else logReserve s n i [])
      (∃ v p, LaneWrite (coreAt s n).v[vd] (coreAt s n).vpsn[vd] w on
        (fun i => leNat (s.mem.bytes pa 2048) / 2 ^ (w * i) % 2 ^ w)
        (fun i => s.mem.isPoisoned (pa / 64 + i * w / 512)) v p ∧ Gives h ld s (setV n vd v p (base ld))) ∧
      (queueReads (coreAt s n) ea 2048 = true → Gives h st s (holdFor (disarm s n) n st)) ∧
      (queueReads (coreAt s n) ea 2048 = false → ∃ m : Memory,
        (∀ a, ¬ (pa ≤ a ∧ a < pa + 2048) → m.byte a = s.mem.byte a) ∧
        (s.mem.dead = [] → ∀ b < 2048, m.byte (pa + b) =
          if on (8 * b / w) then (coreAt s n).v[vd].extractLsb' (8 * b) 8 else s.mem.byte (pa + b)) ∧
        (∀ k < 32, let seg := fun i => 512 * k ≤ i * w ∧ i * w < 512 * k + 512
          m.poison.contains (pa / 64 + k) = if ∃ i < 16384 / w, seg i ∧ on i = true then
            (if (coreAt s n).vpsn[vd].getLsbD k then true
             else if ∃ i < 16384 / w, seg i ∧ on i = false then s.mem.poison.contains (pa / 64 + k) else false)
            else s.mem.poison.contains (pa / 64 + k)) ∧
        m.dead = s.mem.dead ∧ m.ways = s.mem.ways ∧ Gives h st s { base st with mem := m }))) ∧
  (∀ (n : CoreId) (g : Guard) (vd : VNum) (row : Fin 128) (s : State),
    g.err = .none →
    let h : Hart := .core n
    let on := governs n g 32 s
    let c := coreAt s n
    let rd : Instr := .vrdvat h g .f32 vd row
    let wr : Instr := .vwrvat h g .f32 vd row
    (c.mq ≠ [] → Gives h rd s (holdFor (disarm s n) n rd) ∧ Gives h wr s (holdFor (disarm s n) n wr)) ∧
    (c.mq = [] →
      (∃ v p, LaneWrite c.v[vd] c.vpsn[vd] 32 on (fun i => elemOf 32 c.vat[row] i) (fun _ => c.vatPsn.getLsbD row.val) v p ∧
        Gives h rd s (setV n vd v p (fell h s))) ∧
      (∃ (x : VReg) (p : BitVec 128),
        (∀ i < 512, elemOf 32 x i = if on i then elemOf 32 c.v[vd] i else elemOf 32 c.vat[row] i) ∧
        (∀ r : Fin 128, r ≠ row → p.getLsbD r.val = c.vatPsn.getLsbD r.val) ∧
        ((∃ i < 512, on i = true ∧ inPoison n vd 32 s i = true) → p.getLsbD row.val = true) ∧
        ((∀ i < 512, on i = true ∧ inPoison n vd 32 s i = false) → p.getLsbD row.val = false) ∧
        ((∀ i < 512, on i = true → inPoison n vd 32 s i = false) → (∃ i < 512, on i = false) →
          p.getLsbD row.val = c.vatPsn.getLsbD row.val) ∧
        Gives h wr s (modCore (fell h s) n (fun c => { c with vat := c.vat.set row x, vatPsn := p })))))) ∧
  (
  ∀ (n : CoreId) (g : Guard) (fmt dst src : Fmt) (rm : RmField) (fn : ActFn) (cc : VRel) (rf : RedFn) (op : CredOp) (alg : OptAlg)
    (b1 b2 : Bool) (vd va vb vc : VNum) (pd pn : PReg) (sa : SReg) (off : BitVec 12) (row : Fin 128) (s : State),
    let h : Hart := .core n
    let forms : List ((Guard → Instr) × List VNum × Option (Fin 128)) :=
      [(fun g => .vadd h g fmt rm vd va vb, [va, vb], none), (fun g => .vsub h g fmt rm vd va vb, [va, vb], none),
       (fun g => .vmul h g fmt rm vd va vb, [va, vb], none), (fun g => .vfma h g fmt rm vd va vb, [va, vb, vd], none),
       (fun g => .vmin h g fmt vd va vb, [va, vb], none), (fun g => .vmax h g fmt vd va vb, [va, vb], none),
       (fun g => .vrcp h g fmt vd va, [va], none), (fun g => .vrsqrt h g fmt vd va, [va], none),
       (fun g => .vsqrt h g fmt rm vd va, [va], none), (fun g => .vact h g fmt rm fn vd va, [va], none),
       (fun g => .vactd h g fmt rm fn b1 vd va vb, [va, vb], none), (fun g => .vmuls h g fmt rm vd va sa, [va], none),
       (fun g => .vcmp h g fmt cc pd va vb, [va, vb], none), (fun g => .vsel h g fmt vd va vb pn, [va, vb], none),
       (fun g => .vcvt h g dst src rm b1 b2 vd va vc, [va], none), (fun g => .vand h g fmt vd va vb, [va, vb], none),
       (fun g => .vor h g fmt vd va vb, [va, vb], none), (fun g => .vxor h g fmt vd va vb, [va, vb], none),
       (fun g => .vshl h g fmt vd va vb, [va, vb], none), (fun g => .vshr h g fmt b1 vd va vb, [va, vb], none),
       (fun g => .viadd h g fmt vd va vb, [va, vb], none), (fun g => .vbcast h g fmt vd sa, [], none),
       (fun g => .vext h g fmt sa va off, [va], none), (fun g => .vperm h g fmt vd va vb, [va, vb], none),
       (fun g => .vred h g fmt rm rf vd va, [va], none), (fun g => .vcred h g fmt op false vd vc va, [va], none),
       (fun g => .vld h g fmt .none vd sa off, [], none), (fun g => .vst h g fmt vd sa off, [vd], none),
       (fun g => .vrdvat h g fmt vd row, [], some row), (fun g => .vwrvat h g fmt vd row, [vd], none),
       (fun g => .vidx h g fmt vd, [], none), (fun g => .ostep h g fmt alg sa va, [va], none)]
    let clu := 0x110 + n.val / 8
    let count := fun (u : State) => { u with cr := { u.cr with head := u.cr.head + 1 } }
    (∀ f ∈ forms, (coreAt s n).hold = none → (coreAt s n).launchPend = false → Ready h (f.1 g) s →
      let m := meetErr n g.err f.2.1 f.2.2 s
      let met : Prop := (∃ r k, g.err = .ue r k ∧ r ∈ f.2.1) ∨ (g.err = .rowUe ∧ f.2.2 ≠ none);
      ∀ t, exec (f.1 { g with err := .none }) m = .next t → (coreAt t n).retired = (coreAt s n).retired + 1 →
        (coreAt t n).state = .run →
        (¬ met → exec (f.1 g) s = .next t) ∧
        (met → exec (f.1 g) s =
          .next (takeExc t n { code := 0xB, src := 1 } 2 false (coreAt s n).pc ((coreAt s n).pc + 8)))) ∧
    (∀ rs, meetErr n .none rs none s = s ∧
      (rs ≠ [] → meetErr n .ce rs none s = appraise (count (fincr s (vecReg n.val 0x60) 31 0 1)) clu 1) ∧
      (∀ k, va ∈ rs → meetErr n (.ue va k) rs none s = appraise (modCore s n (fun c =>
        { c with vpsn := c.vpsn.set va (c.vpsn[va] ||| (1 : BitVec 32) <<< k.val) })) clu 1024) ∧
      (∀ k, va ∉ rs → meetErr n (.ue va k) rs none s = s)) ∧
    meetErr n .rowCe [] (some row) s = appraise (count (fincr s (engReg n.val 0x18) 31 16 1)) clu 1 ∧
    meetErr n .rowUe [] (some row) s = appraise (modCore s n (fun c =>
      { c with vatPsn := c.vatPsn ||| (1 : BitVec 128) <<< row.val })) clu 1024)

/-- Tile descriptors: element addresses (R195, R200), ranges (R196) and the checks (R40, R197, R201, R222). The tile-descriptor moves (R79). -/
def Obligations.TileDescriptors : Prop :=
  (
  (∀ (d : BitVec 256) (i0 i1 i2 i3 : Nat),
    let t := tileOf d
    let outer := (i2 : Int) * t.s2 + i3 * t.s3
    (t.layout = 0 → 8 ≤ t.ebits →
      t.bitAddr i0 i1 i2 i3 = 8 * ((t.base : Int) + i0 * t.s0 * (t.ebits / 8 : Nat) + 64 * (i1 * t.s1 + outer))) ∧
    (t.layout = 0 → t.format = .e2m1 → t.s0 = 1 →
      t.bitAddr i0 i1 i2 i3 = 8 * ((t.base : Int) + (i0 / 2 : Nat) + 64 * (i1 * t.s1 + outer)) + 4 * (i0 % 2 : Nat)) ∧
    (1 ≤ t.layout → t.layout ≤ 2 → fmtOf t.fmt ≠ none → t.format ≠ .e8m0 → t.format ≠ .sf16 →
      let w := 32 / t.ebits
      let tile := if t.layout = 1 then i1 / 128 * ((t.n0 + 127) / 128) + i0 / 128
        else i0 / 128 * ((t.n1 + 127) / 128) + i1 / 128
      t.bitAddr i0 i1 i2 i3 = 8 * ((t.base : Int) + (16384 * t.ebits / 8 * tile : Nat)
        + (4 * (128 * (i0 % 128 / w) + i1 % 128) : Nat) + 64 * outer) + (i0 % 128 % w * t.ebits : Nat)) ∧
    (i0 < t.n0 → i1 < t.n1 → i2 < t.n2 → i3 < t.n3 → t.format ≠ .sf16 → (t.layout ≠ 0 → t.format ≠ .e8m0) → t.layout < 3 →
      t.range.1 ≤ t.bitAddr i0 i1 i2 i3 / 8 ∧ (t.bitAddr i0 i1 i2 i3 + t.ebits - 1) / 8 ≤ t.range.2)) ∧
  (∀ (d : BitVec 256) (one : Bool) (ok : Int → Int → Bool),
    let t := tileOf d
    basicChecks t one ok = [] ↔
      bit d 255 = true ∧ bits d 254 229 = 0 ∧ t.fmt < 12 ∧ t.pad < 2 ∧ t.layout < 3 ∧
      0 < t.n0 ∧ 0 < t.n1 ∧ 0 < t.n2 ∧ 0 < t.n3 ∧ ok t.range.1 t.range.2 = true ∧ t.base % 64 = 0 ∧
      (t.layout = 0 → one = true ∨ t.format = .e2m1 → t.s0 = 1) ∧
      (t.layout ≠ 0 → t.base % (2048 * t.ebits) = 0 ∧ t.s0 = 1 ∧ t.s1 = 0 ∧ ((32 * t.ebits : Nat) : Int) ∣ t.s2 ∧
        ((32 * t.ebits : Nat) : Int) ∣ t.s3 ∧ t.format ≠ .e8m0 ∧ t.format ≠ .sf16)) ∧
  (∀ (reg : Nat) (d sc : BitVec 256) (one : Bool) (ok : Int → Int → Bool),
    let t := tileOf d
    let u := tileOf sc
    operandChecks reg d sc one ok = [] ↔ basicChecks t one ok = [] ∧
      (t.mx = true → reg % 2 = 0 ∧ basicChecks u true ok = [] ∧ t.format.isMx = true ∧ u.mx = false ∧ u.fmt = 10 ∧
        u.layout = 0 ∧ u.n2 = t.n2 ∧ u.n3 = t.n3 ∧
        ((u.n0 = (t.n0 + 31) / 32 ∧ u.n1 = t.n1) ∨ (u.n0 = t.n0 ∧ u.n1 = (t.n1 + 31) / 32)))) ∧
  (∀ (s : State) (fails : List (Nat × Nat)) (x : Exc), descFault s fails = some x →
    ∃ c r, (c, r) ∈ fails ∧ (∀ f ∈ fails, c ≤ f.1) ∧ x = { code := 7, einfo := mkWord [(0, r), (8, c)] })) ∧
  (
  (∀ (n : CoreId) (tn : TReg) (sa : SReg) (w : Fin 4) (s : State) (v : BitVec 256),
    (∀ k : Fin 4, v.extractLsb' (64 * k.val) 64
      = if k = w then getS (.core n) sa s else (coreAt s n).t[tn].extractLsb' (64 * k.val) 64) →
    Gives (.core n) (.tset (.core n) tn sa w) s (setT n tn v (fell (.core n) s))) ∧
  (∀ (n : CoreId) (sd : SReg) (tn : TReg) (w : Fin 4) (s : State),
    Gives (.core n) (.tget (.core n) sd tn w) s
      (setS (.core n) sd ((coreAt s n).t[tn].extractLsb' (64 * w.val) 64) (fell (.core n) s))) ∧
  (∀ (k : Fin 4) (sd sa : SReg) (tn : TReg) (w : Fin 4) (s : State),
    let s1 := if s.mgmt[k].launchPend then
      setMgmt s k { s.mgmt[k] with launchPend := false, launchat := 0 } else s
    Gives (.mgmt k) (.tset (.mgmt k) tn sa w) s (report s1 { kind := 0x1A, cls := 5, unit := 13 }) ∧
    Gives (.mgmt k) (.tget (.mgmt k) sd tn w) s (report s1 { kind := 0x1A, cls := 5, unit := 13 })))

/-- Acceptance of the matrix instructions. -/
def Obligations.MatrixAcceptance : Prop :=
  (∀ (n : CoreId) (s : State) (ts tw : TReg) (buf : Fin 2) (mode : MMode) (sa sb : SReg),
    let h : Hart := .core n
    let c := coreAt s n
    let w := recWord c.stbRec[buf]
    let a := tileOf c.t[ts]
    let t := tileOf c.t[tw]
    let load : Instr := .mload h ts buf
    let mul : Instr := .mmul h tw buf mode sa sb
    let gemm : Instr := .mgemm h ts tw buf mode sa sb
    let zero : Instr := .mzero h
    let rec0 : BufRec := { fmt := BitVec.ofNat 4 a.fmt, mx := a.mx, valid := true, rows := BitVec.ofNat 8 a.n1
                           cols := BitVec.ofNat 8 a.n0 }
    let recG : BufRec := { rec0 with cols := 128 }
    let eLoad : MEntry := { word := encodeSeisk load, pc := c.pc, ts := c.t[ts], tsScale := partner n ts s }
    let eMul : MEntry := { word := encodeSeisk mul, pc := c.pc, drop := getS h sb s ++ getS h sa s, stat := w
                           tw := c.t[tw], twScale := partner n tw s
                           progress := progressWord 0 (!c.mq.any (MEntry.fills buf)) 0 }
    let eGemm : MEntry := { word := encodeSeisk gemm, pc := c.pc, drop := getS h sb s ++ getS h sa s, ts := c.t[ts]
                            tsScale := partner n ts s, tw := c.t[tw], twScale := partner n tw s }
    let ckLoad := statChecks ts.val c.t[ts] (partner n ts s) false
    let ckMul := streamChecks tw.val c.t[tw] (partner n tw s) mode.trans ++
      (if tileK mode.trans t ≤ 128 ∧ bit w 7 = true ∧ pairOk (statFmt w) (statMx w) t.format t.mx then [] else [(9, tw.val)])
    let ckGemm := statChecks ts.val c.t[ts] (partner n ts s) true ++
      streamChecks tw.val c.t[tw] (partner n tw s) mode.trans ++
      (if tileK mode.trans t = a.n0 ∧ pairOk a.format a.mx t.format t.mx then [] else [(9, ts.val), (9, tw.val)])
    let uses := fun (i : Instr) (e : MEntry) (x : State) =>
      let y := logEngine x n i ([e.ts, e.tsScale, e.tw, e.twScale].filter (fun d => decide (d ≠ 0)))
      if inReserve (tileOf e.tw).range.1 (tileOf e.tw).range.2 = true ∧ e.tw ≠ 0 then logReserve y n i [e.tw, e.twScale] else y
    let outcome := fun (i : Instr) (checks : List (Nat × Nat)) (e : MEntry) (recs : Vector BufRec 2) =>
      (4 ≤ c.mq.length → Gives h i s (holdFor (disarm s n) n i)) ∧
      (c.mq.length < 4 → checks = [] →
        Gives h i s (modCore (fell h (uses i e s)) n (fun x => { x with mq := c.mq ++ [e], stbRec := recs }))) ∧
      (c.mq.length < 4 → checks ≠ [] → ∃ code r, (code, r) ∈ checks ∧ (∀ x ∈ checks, code ≤ x.1) ∧
        Gives h i s (takeExc (disarm s n) n { code := 7, einfo := mkWord [(0, r), (8, code)] } 3 true c.pc c.pc))
    outcome load ckLoad eLoad (c.stbRec.set buf rec0) ∧
    outcome mul ckMul eMul c.stbRec ∧
    outcome gemm ckGemm eGemm
      (if 256 ≤ a.n0 then Vector.replicate 2 recG else c.stbRec.set buf recG) ∧
    outcome zero [] { word := encodeSeisk zero, pc := c.pc } c.stbRec) ∧
  (∀ (reg : Nat) (d sc : BitVec 256) (gemm : Bool),
    let t := tileOf d
    statChecks reg d sc gemm = [] ↔ operandChecks reg d sc true inCask = [] ∧
      t.n1 ≤ 128 ∧ t.n2 = 1 ∧ t.n3 = 1 ∧ (if gemm then t.n0 % 128 = 0 else t.n0 ≤ 128) ∧
      pairOk t.format t.mx t.format t.mx = true ∧ (t.mx = true → blockDim t (tileOf sc) = some 0)) ∧
  (∀ (reg : Nat) (d sc : BitVec 256) (trans : Bool),
    let t := tileOf d
    streamChecks reg d sc trans = [] ↔ operandChecks reg d sc true inCaskOrReserve = [] ∧
      (if trans then t.n1 else t.n0) ≤ 512 ∧ t.n2 = 1 ∧ t.n3 = 1 ∧ pairOk t.format t.mx t.format t.mx = true ∧
      (t.mx = true → blockDim t (tileOf sc) = some (if trans then 0 else 1)) ∧
      (trans = true → t.layout ≠ 0 ∧ inCask t.range.1 t.range.2 = true)) ∧
  (∀ (a b : Fmt) (x y : Bool), pairOk a x b y = true ↔ x = y ∧
    ((a = .e2m1 ∧ b = .e2m1) ∨ (a ∈ [.e2m3, .e3m2] ∧ b ∈ [.e2m3, .e3m2]) ∨ (a ∈ [.e4m3, .e5m2] ∧ b ∈ [.e4m3, .e5m2]) ∨
      (x = false ∧ a = b ∧ a ∈ [.i8, .bf16, .f16, .f32])))

/-- The arithmetic of one Vat position (R123 to R127). -/
def Obligations.MatrixSums : Prop :=
  (∀ (f : Term → Term → Term) (lv : Nat) (l : List Term) (t : Nat → Nat → Term),
    l.length = 2 ^ lv → (∀ i, t 0 i = l.getD i {}) → (∀ k j, t (k + 1) j = f (t k (2 * j)) (t k (2 * j + 1))) →
    groupSum f lv l = t lv 0) ∧
  (∀ (f : Term → Term → Term) (g lv k : Nat) (l : List Term) (a : Nat → Term),
    (∀ j, a (j + 1) = f (a j) (groupSum f lv ((l.drop (g * j)).take g))) →
    sumGroups f g lv k l (a 0) = a k) ∧
  (∀ (e : MEntry) (slot : BitVec 4096) (row start : Nat) (ws : List (Option (Nat × Option Nat))),
    let ps := products e slot row ws
    let g := e.group
    (g = 4 ∨ g = 8 ∨ g = 16) ∧
    (e.sfmt = .i8 → positionSum e slot row ws start = sumGroups addInt g (log2 g) (128 / g) ps { code := start }) ∧
    (e.sfmt ≠ .i8 →
      let t := sumGroups addTerm g (log2 g) (128 / g) ps
        { code := start, cause := if val32 start = .nan then some 1 else none }
      positionSum e slot row ws start = { t with code := if t.code = 0x80000000 then 0 else t.code }) ∧
    (∀ k < 128, k < ws.length → ∃ p, ps[k]? = some p ∧
      (ws[k]? = some none ∨ e.rows ≤ row ∨ e.cols ≤ k → p = {}) ∧
      (∀ w sw, ws[k]? = some (some (w, sw)) → row < e.rows → k < e.cols →
        p = (if e.sfmt = .i8 then intProduct (slotElem (fmtBits e.sfmt) slot k) w
          else fpProduct (decodeElem e.sfmt (slotElem (fmtBits e.sfmt) slot k)) (decodeElem (tileOf e.tw).format w)
            (if e.mx then some (slotScale slot k) else none) sw)))) ∧
  (∀ (a b : Val) (x y : Nat),
    (a = .nan ∨ b = .nan → ∀ u v, (fpProduct a b u v).code = 0x7FC00000 ∧ (fpProduct a b u v).cause = some 1) ∧
    (a ≠ .nan → b ≠ .nan → x = 255 ∨ y = 255 →
      (fpProduct a b (some x) (some y)).code = 0x7FC00000 ∧ (fpProduct a b (some x) (some y)).cause = some 3) ∧
    (∀ u v m k e f, a = .fin u m e → b = .fin v k f → x < 255 → y < 255 →
      fpProduct a b (some x) (some y) = { code := round32 .rn (.fin (u != v) (m * k) (e + f + x + y - 254)) } ∧
      fpProduct a b none none = { code := round32 .rn (.fin (u != v) (m * k) (e + f)) }) ∧
    (∀ u v m e, a = .inf u → b = .fin v m e →
      fpProduct a b none none = if m = 0 then { code := 0x7FC00000, cause := some 2 } else { code := if u = v then 0x7F800000 else 0xFF800000 })) ∧
  (∀ a b : Nat, a < 256 → b < 256 → signedOf 32 (intProduct a b).code = signedOf 8 a * signedOf 8 b) ∧
  (∀ x y : Term, x.code < 2 ^ 32 → y.code < 2 ^ 32 →
    (addInt x y).code = (x.code + y.code) % 2 ^ 32 ∧
    ((addInt x y).wrap = true ↔ x.wrap = true ∨ y.wrap = true ∨
      signedOf 32 x.code + signedOf 32 y.code < -(2 ^ 31) ∨ 2 ^ 31 ≤ signedOf 32 x.code + signedOf 32 y.code) ∧
    (addTerm x y).code = round32 .rn (addVal .rn (val32 x.code) (val32 y.code)) ∧
    ((addTerm x y).code = 0x7FC00000 ↔ val32 x.code = .nan ∨ val32 y.code = .nan ∨
      ∃ b, val32 x.code = .inf b ∧ val32 y.code = .inf (!b))) ∧
  (∀ (m : Memory) (n : CoreId) (t sc : Tile) (r c0 cols k : Nat), k < 128 → t.ebits ≤ 32 → (t.mx = true → t.ebits ≤ 8) →
    let slot := slotOf m n t sc r c0 cols
    slotElem t.ebits slot k = (if k < cols then readBits m (sramAt n) (t.bitAddr (c0 + k) r 0 0) t.ebits else 0) % 2 ^ t.ebits ∧
    (t.mx = true → 32 * (k / 32) < cols →
      slotScale slot k = readBits m (sramAt n) (sc.bitAddr (c0 / 32 + k / 32) r 0 0) 8 % 256))

/-- The engine's events (R120 to R137). -/
def Obligations.MatrixEngine : Prop :=
  (∀ (n : CoreId) (errs : EngErrors) (s : State),
    engineRuns s n = false ∨ (coreAt s n).mq = [] ∨ (∃ e r, (coreAt s n).mq = e :: r ∧ e.finished = true) →
    exec (.slabComplete n errs) s = .next s) ∧
  (∀ (n : CoreId) (errs : EngErrors) (s : State) (e : MEntry) (rest : List MEntry),
    engineRuns s n = true → (coreAt s n).mq = e :: rest → e.finished = false → rising (s.dev.map Prod.fst) = true →
    let first : Prop := e.kblk = 0 ∧ e.acc = false
    let c0 := coreAt (ensureBlock n e s) n
    let b := e.curBuf
    let cols := e.slabCols
    let sum := fun (r : Fin 128) (k : Nat) => positionSum e c0.stb[b][r] r.val (columnOf s n e k)
      (if first then 0 else elemOf 32 c0.vat[r] k)
    let rows := fun (r : Fin 128) => r.val < e.rows ∧ e.drop.getLsbD r.val = false
    let wrote := fun (r : Fin 128) (k : Nat) => rows r ∧ k ∈ cols
    let fp : Prop := e.sfmt ≠ .i8
    let last : Prop := e.slab + 1 = slabsOf e.cls
    let len := if first ∧ e.slab = 0 then 0 else fget s (engReg n.val 8) 31 0
    let len' := if last then min (len + 128) (2 ^ 32 - 1) else len
    let weight : Prop := ∃ k ∈ cols, ∃ j < 128, 128 * e.kblk + j < tileK e.trans (tileOf e.tw) ∧ slabPoison s n e j k = true
    let flag := fun (i : Nat) (x : State) => bit (rget x (engReg n.val 0)) i = true
    ∃ t : State,
      (∀ r k, k < 512 → elemOf 32 (coreAt t n).vat[r] k = if wrote r k then (sum r k).code % 2 ^ 32 else elemOf 32 c0.vat[r] k) ∧
      (e.slab < slabsOf e.cls →
        let p := if last then progressWord (e.kblk + 1) (decide (e.kblk + 1 < e.kblks)) 0
          else progressWord e.kblk true (e.slab + 1)
        (coreAt t n).mq = { e with progress := p } :: rest) ∧
      (e.slab < slabsOf e.cls → fget t (engReg n.val 8) 31 0 = len') ∧
      (e.slab < slabsOf e.cls → (flag 3 t ↔ flag 3 s ∨ (last ∧ 16384 < len'))) ∧
      (flag 4 t ↔ flag 4 s ∨ ∃ r k, wrote r k ∧ (sum r k).wrap = true) ∧
      (flag 5 t ↔ flag 5 s ∨ (fp ∧ ∃ r k b, wrote r k ∧ val32 (sum r k).code = .inf b)) ∧
      (flag 6 t ↔ flag 6 s ∨ (fp ∧ ∃ r k, wrote r k ∧ val32 (sum r k).code = .nan)) ∧
      (∀ r : Fin 128, (coreAt t n).stbPsn[b].getLsbD r.val = true ↔
        c0.stbPsn[b].getLsbD r.val = true ∨ r ∈ errs.stbUe) ∧
      (∀ r : Fin 128, (coreAt t n).vatPsn.getLsbD r.val = true ↔
        (c0.vatPsn.getLsbD r.val = true ∧ ¬ (first ∧ e.slab = 0 ∧ rows r)) ∨ r ∈ errs.vatUe ∨
        (rows r ∧ cols ≠ [] ∧ (weight ∨ c0.stbPsn[b].getLsbD r.val = true ∨ r ∈ errs.stbUe))) ∧
      (e.slab < slabsOf e.cls →
        let next := last ∧ e.isGemm = true ∧ e.kblk + 1 < e.kblks
        let z := if next then loadBlock n (f1 (e.buf.val + e.kblk + 1)) e.ts e.tsScale (128 * (e.kblk + 1)) 128
            (ensureBlock n e s)
          else ensureBlock n e s
        (coreAt t n).stb = (coreAt z n).stb) ∧
      fget t (engReg n.val 0x18) 15 0 = min (fget s (engReg n.val 0x18) 15 0 + errs.stbCe) 65535 ∧
      fget t (engReg n.val 0x18) 31 16 = min (fget s (engReg n.val 0x18) 31 16 + errs.vatCe) 65535 ∧
      (coreAt t n).s = c0.s ∧ (coreAt t n).v = c0.v ∧ (coreAt t n).p = c0.p ∧ (coreAt t n).t = c0.t ∧
      (coreAt t n).pc = c0.pc ∧ (coreAt t n).retired = c0.retired ∧ (coreAt t n).rq = c0.rq ∧
      (coreAt t n).stbRec = c0.stbRec ∧ (coreAt t n).fpctl = c0.fpctl ∧
      t.mem = s.mem ∧ (∀ m, m ≠ n → coreAt t m = coreAt s m) ∧
      ∃ t1 : State,
        ((∀ r k, wrote r k → (sum r k).cause = none) → t1 = t) ∧
        (∀ r k cause, wrote r k → (sum r k).cause = some cause →
          (∀ r' k', wrote r' k' → r'.val < r.val ∨ (r' = r ∧ k' < k) → (sum r' k').cause = none) →
          t1 = nanEvent t n 2 3 cause e.kblk k r.val e.pc) ∧
        exec (.slabComplete n errs) s = .next (if errs.stbUe = [] ∧ errs.vatUe = [] then
            (if engineRuns t1 n = true then engineLoads n t1 else t1)
          else takeExc t1 n { code := 0xB, src := 2 } 3 false e.pc (coreAt t1 n).pc)) ∧
  (∀ (n : CoreId) (s : State) (e : MEntry) (rest : List MEntry), engineRuns s n = true → (coreAt s n).mq = e :: rest →
    let freed := fun (x : State) => modCore x n (fun c => { c with mq := rest })
    (e.finished = false → exec (.matrixInstrComplete n) s = .next s) ∧
    (e.finished = true →
      (e.opc = 0xA0 → exec (.matrixInstrComplete n) s
        = .next (engineLoads n (freed (if e.loaded then s else loadBlock n e.buf e.ts e.tsScale 0 (tileOf e.ts).n0 s)))) ∧
      (e.opc = 0xA3 → exec (.matrixInstrComplete n) s = .next (engineLoads n (freed (modCore (rset s (engReg n.val 8) 0) n
        (fun c => { c with vat := Vector.replicate 128 0, vatPsn := 0 }))))) ∧
      (e.opc ≠ 0xA0 → e.opc ≠ 0xA3 → exec (.matrixInstrComplete n) s = .next (engineLoads n (freed s))))) ∧
  (∀ (n : CoreId) (x : State),
    let y := engineLoads n x
    let c := coreAt x n
    let bare := fun (e : MEntry) => { e with progress := 0 }
    let queue := fun (l : List MEntry) (z : State) => modCore z n (fun c => { c with mq := l })
    y = modCore x n (fun _ => coreAt y n) ∧ { coreAt y n with mq := c.mq, stb := c.stb, stbPsn := c.stbPsn } = c ∧
    (coreAt y n).mq.map bare = c.mq.map bare ∧
    (∀ e, c.mq = [e] → e.opc = 0xA0 → e.loaded = false →
      y = queue [e.withLoad] (loadBlock n e.buf e.ts e.tsScale 0 (tileOf e.ts).n0 x)) ∧
    (∀ e, c.mq = [e] → e.isGemm = true → e.finished = false →
      (e.loaded = false →
        y = queue [e.withLoad] (loadBlock n e.curBuf e.ts e.tsScale (128 * e.kblk) 128 x)) ∧
      (e.loaded = true → e.slab = 1 → e.kblk + 1 < e.kblks →
        y = loadBlock n (f1 (e.curBuf.val + 1)) e.ts e.tsScale (128 * (e.kblk + 1)) 128 x)) ∧
    (∀ e f, c.mq = [e, f] → e.opc = 0xA1 → e.loaded = true → f.opc = 0xA0 → f.loaded = false → f.buf ≠ e.buf →
      y = queue [e, f.withLoad] (loadBlock n f.buf f.ts f.tsScale 0 (tileOf f.ts).n0 x))) ∧
  (∀ (n : CoreId) (s : State), ∃ t u, exec (.engineRampStep n) s = .next t ∧ exec (.dummySlabRunLimit n) s = .next u ∧
    (∃ a : Core, t = (if engineRuns s n = true then engineLoads n (modCore s n (fun _ => a)) else modCore s n (fun _ => a)) ∧
      a.actSlabs = ((coreAt s n).actSlabs + 4 * (coreAt s n).actStep) % 8 ∧
      { a with actStep := 0, actSlabs := 0 } = { coreAt s n with actStep := 0, actSlabs := 0 }) ∧
    u = modCore s n (fun c => { c with dummyRun := (coreAt u n).dummyRun, actStep := (coreAt u n).actStep }) ∧
    (hasWork s n = true → (coreAt s n).actStep < ceilInForce s n → (coreAt t n).actStep = (coreAt s n).actStep + 1) ∧
    (hasWork s n = true → ceilInForce s n ≤ (coreAt s n).actStep →
      (coreAt t n).actStep = max (ceilInForce s n) ((coreAt s n).actStep - 1)) ∧
    (hasWork s n = false → (coreAt t n).actStep = (coreAt s n).actStep - 1) ∧
    (engineRuns s n = true → (∃ e ∈ (coreAt s n).mq, e.finished = false) →
      (coreAt u n).dummyRun = 32 ∧ (coreAt u n).actStep = (coreAt s n).actStep - 1))

/-- The optimizer update (R112, R185 to R190). The address POISON records is the model's choice (log entry 14). -/
def Obligations.OptimizerUpdate : Prop :=
  (∀ (fmt : Fmt) (hp : Hyper) (gin m v w : Val), fmt = .f32 ∨ fmt = .bf16 →
    let r := fun x => fpDecode spec32 (roundFp spec32 .rn false x).1
    let fin := fun (x : Val) => ∃ u k e, x = .fin u k e
    let code := fun x => plusZero .f32 (round32 .rn x)
    let wOk := fun x => fin x ∧ (roundFp (specOf fmt) .rn false x).2.of = false
    let wCode := fun x => plusZero fmt (roundFp (specOf fmt) .rn false x).1
    let good := fun (o : OptRes) (m1 v1 w1 : Val) =>
      o.bad = false ∧ o.fl.cause = none ∧ o.m = code m1 ∧ o.v = code v1 ∧ o.w = wCode w1
    (fin gin ∧ fin m ∧ fin v ∧ fin w →
      ∀ u k e, gin = .fin u k e →
      let g := r (.fin u k (e - hp.gscale))
      (let d := r (subV m g)
       let m1 := r (addV g (mulVal hp.beta1 d))
       let q := r (mulVal g g)
       let e := r (subV v q)
       let v1 := r (addV q (mulVal hp.beta2 e))
       let mh := r (mulVal m1 hp.bc1)
       let vh := r (mulVal v1 hp.bc2)
       let sq := r (sqrtVal vh)
       let den := r (addV sq hp.eps)
       let rt := r (divVal mh den)
       let up := r (addV rt (mulVal hp.wd w))
       let w1 := subV w (mulVal hp.lr up)
       (∀ x ∈ [g, d, m1, q, e, v1, mh, vh, sq, den, rt, up], fin x) → wOk w1 →
         good (optElem .adamw fmt hp gin m v w) m1 v1 w1) ∧
      (let m1 := r (addV (mulVal hp.beta1 m) g)
       let up := r (addV m1 (mulVal hp.wd w))
       let w1 := subV w (mulVal hp.lr up)
       (∀ x ∈ [g, m1, up], fin x) → wOk w1 → good (optElem .sgd fmt hp gin m v w) m1 zeroVal w1) ∧
      (let d := r (subV m g)
       let c := r (addV g (mulVal hp.beta1 d))
       let sg := if isZero c then zeroVal else if isPos c then oneVal else negVal oneVal
       let up := r (addV sg (mulVal hp.wd w))
       let m1 := r (addV g (mulVal hp.beta2 d))
       let w1 := subV w (mulVal hp.lr up)
       (∀ x ∈ [g, d, c, up, m1], fin x) → wOk w1 → good (optElem .lion fmt hp gin m v w) m1 zeroVal w1)) ∧
    (∀ alg, let o := optElem alg fmt hp gin m v w
      let ins := if alg = .adamw then [gin, m, v, w] else [gin, m, w]
      (Val.nan ∈ ins → o.bad = true ∧ o.fl.cause = some 1 ∧ o.fl.nv = true) ∧
      (Val.nan ∉ ins → (∃ b, Val.inf b ∈ ins) → o.bad = true ∧ o.fl.cause = some 2 ∧ o.fl.nv = true) ∧
      (o.bad = true ↔ o.fl.cause ≠ none))) ∧
  (∀ (n : CoreId) (g : Guard) (fmt : Fmt) (alg : OptAlg) (sa : SReg) (va : VNum) (gal : Gal) (s : State),
    coreOwner s n = some gal → g.err = .none →
    let h : Hart := .core n
    let i : Instr := .ostep h g fmt alg sa va
    let a := (getS h sa s).toNat
    let eb := if fmt = .f32 then 4 else 2
    let size := 0x1000 + 512 * eb
    let inSram := a % 64 = 0 ∧ (2 ^ 48 ≤ a ∧ a + size ≤ 2 ^ 48 + 0x600000 ∨ 2 ^ 49 ≤ a ∧ a + size ≤ 2 ^ 49 + 0x1000000)
    let clean : Prop := s.gal[gal].stepSeal.st = .clean
    let held : Prop := queueReads (coreAt s n) a size = true ∧ clean
    let pc := (coreAt s n).pc
    let pa := sramAt n a
    let on := governs n g 32 s
    let at_ := fun (area w k : Nat) => leNat (s.mem.bytes (pa + area + w * k) w)
    let res := fun k => optElem alg fmt (hyperOf s n) (decodeElem .f32 (elemOf 32 (coreAt s n).v[va] k))
      (val32 (at_ 0 4 k)) (val32 (at_ 0x800 4 k)) (decodeElem fmt (at_ 0x1000 eb k))
    let lineBad := fun (x : Nat) => s.mem.isPoisoned (x / 64) = true
    let recPsn : Prop := ∃ k < 512, on k = true ∧ (lineBad (pa + 4 * k) ∨ (alg = .adamw ∧ lineBad (pa + 0x800 + 4 * k)) ∨
      lineBad (pa + 0x1000 + eb * k))
    let psn : Prop := recPsn ∨ ∃ k < 512, on k = true ∧ inPoison n va 32 s k = true
    let writes : Prop := clean ∧ ¬ psn ∧ ∀ k < 512, on k = true → (res k).bad = false
    (¬ inSram → Gives h i s (takeExc (disarm s n) n { code := 4, eaddr := getS h sa s } 2 true pc pc)) ∧
    (inSram → held → Gives h i s (holdFor (disarm s n) n i)) ∧
    (inSram → ¬ held → ∃ (m : Memory) (t0 t : State),
      (¬ writes → m = s.mem) ∧ (∀ l, m.isPoisoned l = s.mem.isPoisoned l) ∧
      (writes → ∀ x, m.byte x =
        if pa ≤ x ∧ x < pa + 2048 ∧ on ((x - pa) / 4) = true then
          BitVec.ofNat 8 ((res ((x - pa) / 4)).m / 2 ^ (8 * ((x - pa) % 4)))
        else if pa + 0x800 ≤ x ∧ x < pa + 0x1000 ∧ alg = .adamw ∧ on ((x - pa - 0x800) / 4) = true then
          BitVec.ofNat 8 ((res ((x - pa - 0x800) / 4)).v / 2 ^ (8 * ((x - pa - 0x800) % 4)))
        else if pa + 0x1000 ≤ x ∧ x < pa + size ∧ on ((x - pa - 0x1000) / eb) = true then
          BitVec.ofNat 8 ((res ((x - pa - 0x1000) / eb)).w / 2 ^ (8 * ((x - pa - 0x1000) % eb)))
        else s.mem.byte x) ∧
      (let s0 := (if 2 ^ 49 ≤ a then logReserve s n i [] else s)
       let s1 := { fell h s0 with mem := m }
       (writes → t0 = fincr s1 (vecReg n.val 0x08) 31 0 1) ∧
       (¬ writes → ¬ clean → t0 = fincr s1 (vecReg n.val 0x10) 31 0 1) ∧
       (¬ writes → clean →
        let s2 := fbit (fincr s1 (vecReg n.val 0x10) 31 0 1) (vecReg n.val 0) 15
        t0 = noteFault s2 { kind := 0x17, cls := 2, unit := 1, gal := some gal, core := some n
                            d0 := (s.gal[gal].stepSeal.step).setWidth 64, d1 := vecStatus s2 n })) ∧
      FloatDone n 1 512 .f32 on (fun k => (0, (res k).fl)) False pc t0 t ∧
      (¬ psn → Gives h i s t) ∧
      (recPsn → Gives h i s (takeExc t n { code := 0xA, src := 1, eaddr := getS h sa s } 2 false pc (pc + 8))) ∧
      (psn → ¬ recPsn → Gives h i s (takeExc t n { code := 0xA, src := 1 } 2 false pc (pc + 8)))))

/-- Acceptance of the Racking instructions. -/
def Obligations.RackingAcceptance : Prop :=
  (∀ (n : CoreId) (s : State) (qh : QReg) (ta tb : TReg) (sa sb : SReg) (add : Bool) (tag : BitVec 24),
    let h : Hart := .core n
    let c := coreAt s n
    let a := c.t[ta]
    let b := c.t[tb]
    let base : RDesc := { kind := 0, add := add, tag := tag, pc := c.pc, ta := a, taScale := partner n ta s
                          tb := b, tbScale := partner n tb s, list := 0, count := 0, fill := 0 }
    let outcome := fun (i : Instr) (ra rb : Nat) (d : RDesc) =>
      (rackHandle n c.q[qh] s = none → Gives h i s (takeExc (disarm s n) n { code := 8 } 4 true c.pc c.pc)) ∧
      (∀ q, rackHandle n c.q[qh] s = some q →
        let e := enqCount s n q
        let full : Prop := 2 ^ fget s (rkgReg n.val (8 + 8 * q.val)) 3 0 ≤ e - doneCount s n q
        let slot := ringSlot s n q e
        let used := logRack s n i [d.ta, d.taScale, d.tb, d.tbScale]
        (full → (c.rq[q].tfault = false ∨ c.rq[q].fault = none) → Gives h i s (holdFor (disarm s n) n i)) ∧
        (full → c.rq[q].tfault = true → ∀ cls w x r, c.rq[q].fault = some (cls, w, x) → c.rq[q].cur = some r →
          Gives h i s (takeExc (disarm s n) n
            { code := 5, src := 3, eaddr := x, einfo := BitVec.ofNat 64 q.val, fclass := cls } 4 false r.pc c.pc)) ∧
        (¬ full → rackChecks s n d ra rb ≠ [] → ∃ code r, (code, r) ∈ rackChecks s n d ra rb ∧
          (∀ x ∈ rackChecks s n d ra rb, code ≤ x.1) ∧
          Gives h i s (takeExc (disarm s n) n { code := 7, einfo := mkWord [(0, r), (8, code)] } 4 true c.pc c.pc)) ∧
        (¬ full → rackChecks s n d ra rb = [] → Gives h i s (fset { fell h used with
          mem := s.mem.store slot (entryBytes d (e + 1)) false } (enqOff n q) 47 0 (min (e + 1) (2 ^ 48 - 1)))))
    outcome (.rcopy h qh tb ta add tag) ta.val tb.val base ∧
    outcome (.rgather h qh tb ta sa sb tag) ta.val tb.val
      { base with kind := 1, add := false, list := getS h sa s, count := (getS h sb s).toNat } ∧
    outcome (.rscatter h qh tb ta add sa sb tag) ta.val tb.val
      { base with kind := 2, list := getS h sa s, count := (getS h sb s).toNat } ∧
    outcome (.rfill h qh tb sa tag) 0 tb.val
      { base with kind := 3, add := false, ta := 0, taScale := 0
                  fill := BitVec.ofNat 64 ((getS h sa s).toNat % 2 ^ (tileOf b).ebits) }) ∧
  (∀ (n : CoreId) (i : Instr) (ds : List (BitVec 256)) (s : State),
    let nz := ds.filter (fun w => decide (w ≠ 0))
    let inRes := fun (w : BitVec 256) => (tileOf w).base / 2 ^ 48 = 2
    ((∀ w ∈ nz, ¬ inRes w) → logRack s n i ds = s) ∧
    (∀ c : Fin 16, (∃ w ∈ nz, inRes w) → (∀ w ∈ nz, inRes w → reserveOf n (tileOf w).base = c.val) →
      logRack s n i ds = logReserveOf s c n i nz)) ∧
  (∀ (n : CoreId) (w : Word) (s : State) (q : Fin 2), rackHandle n w s = some q ↔
    ∃ g, coreOwner s n = some g ∧ bit w 63 = true ∧ bits w 23 16 = genLow s g ∧ bits w 34 32 = 0 ∧ bits w 15 0 = q.val ∧
      fget s (rkgReg n.val (8 + 8 * q.val)) 31 30 ≠ 0) ∧
  (∀ (m : Memory) (a k : Nat) (d : RDesc), m.dead = [] ∨ 2 ^ 41 ≤ a → a % 256 = 0 → d.kind ≤ 3 → d.count < 2 ^ 16 → d.pc.toNat < 2 ^ 48 →
    (d.add = true → d.kind = 0 ∨ d.kind = 2) → (d.kind = 0 ∨ d.kind = 3 → d.list = 0) → (d.kind ≠ 3 → d.fill = 0) →
    let x := m.store a (entryBytes d k) false
    let w := mem64 x a
    parseEntry x a = some d ∧ bits w 63 40 = d.tag.toNat ∧ bits w 39 16 = k % 2 ^ 24 ∧ bits w 15 9 = 0 ∧
      bit w 8 = d.add ∧ bit w 7 = true ∧ bits w 6 0 = d.kind ∧
      (∀ y, y < a ∨ a + 256 ≤ y → x.byte y = m.byte y)) ∧
  (∀ (s : State) (n : CoreId) (d : RDesc) (ra rb : Nat),
    let a := tileOf d.ta
    let b := tileOf d.tb
    let indexed := if d.kind = 1 then b.n1 else a.n1
    let dim0 := fun (t u : Tile) => t.mx = true → blockDim t u = some 0
    rackChecks s n d ra rb = [] ↔
      operandChecks rb d.tb d.tbScale false (rackWin s n) = [] ∧
      (d.kind = 3 → b.mx = false ∧ b.format ≠ .sf16) ∧
      (d.kind ≠ 3 → operandChecks ra d.ta d.taScale false (rackWin s n) = [] ∧
        rackPair (decide (d.kind = 0)) d.add a (tileOf d.taScale) b (tileOf d.tbScale) = true ∧
        (d.kind = 0 → a.n0 ≤ b.n0 ∧ a.n1 ≤ b.n1 ∧ a.n2 ≤ b.n2 ∧ a.n3 ≤ b.n3) ∧
        (d.kind ≠ 0 → a.n2 = 1 ∧ a.n3 = 1 ∧ b.n2 = 1 ∧ b.n3 = 1 ∧ a.n0 ≤ b.n0 ∧ d.count ≤ indexed ∧
          dim0 a (tileOf d.taScale) ∧ dim0 b (tileOf d.tbScale) ∧ 1 ≤ d.count ∧ d.count ≤ 65535 ∧ 4 ∣ d.list.toNat ∧
          inCaskOrReserve d.list.toNat (d.list.toNat + 4 * d.count - 1) = true)))

/-- The queue events (R210 to R230). -/
def Obligations.RackingQueues : Prop :=
  (∀ (n : CoreId) (q : Fin 2) (s : State),
    let x := (coreAt s n).rq[q]
    let may : Prop := rackingRuns s n q = true ∧ tornDown s n = false ∧ x.cur = none ∧ x.reload = false ∧
      doneCount s n q < enqCount s n q
    let entry := parseEntry s.mem (ringSlot s n q (doneCount s n q))
    (¬ may → exec (.descriptorStart n q) s = .next s) ∧
    (may → ∀ d, entry = some d → rackChecks s n d 0 0 = [] →
      exec (.descriptorStart n q) s = .next (setRq { s with free := s.free + 1 } n q { cur := some d, seed := s.free })) ∧
    (may → (entry = none ∨ ∃ d, entry = some d ∧ rackChecks s n d 0 0 ≠ []) →
      exec (.descriptorStart n q) s = .next (writeRecord s n q 5))) ∧
  (∀ (n : CoreId) (q : Fin 2) (line : LineErr) (s : State) (d : RDesc),
    let x0 := (coreAt s n).rq[q]
    let go : Prop := x0.cur = some d ∧ rackingRuns s n q = true ∧ x0.tfault = false ∧ x0.row < d.rows
    let u := unitMet s n line true
    let x := (coreAt u n).rq[q]
    let piece : Instr := .rackingPiece n q line
    let listed : Prop := (d.kind = 1 ∨ d.kind = 2) ∧ x.row < d.count ∧ x.idx = none
    let la := sramAt n (d.list.toNat + 4 * x.row)
    let v := signedOf 32 (leNat (u.mem.bytes la 4))
    let bad : Prop := u.mem.isPoisoned (la / 64) = true ∨ v < 0 ∨
      (((if d.kind = 1 then (tileOf d.ta).n1 else (tileOf d.tb).n1) : Nat) : Int) ≤ v
    (line.err = .none → u = s) ∧
    (go → listed → bad → exec piece s = .next (setRq u n q { x with
      row := x.row + 1, elem := 0, reject := x.reject + 1, poisoned := x.poisoned || u.mem.isPoisoned (la / 64) })) ∧
    (go → x.cur = some d → (listed → ¬ bad) → ∀ idx, idx = (if listed then v.toNat else x.idx.getD 0) →
      let s1 := if listed then setRq u n q { x with idx := some idx } else u
      let x1 := (coreAt s1 n).rq[q]
      let els := d.piece idx x.row x.elem
      let g := coreOwner u n
      let stopped := fun (cls a : Nat) (w : Bool) =>
        rset (setRq s1 n q { x1 with tfault := true, mstall := false, fault := some (cls, w, BitVec.ofNat 64 a) })
          (rkgReg n.val (0x48 + 8 * q.val)) (mkWord [(63, if w then 1 else 0), (0, a % 2 ^ 48)])
      let entry := fun (kind cls code a : Nat) =>
        ({ kind := kind, cls := cls, unit := 6, gal := g, core := some n, d0 := mkWord [(0, code), (8, 1), (16, q.val)]
           d1 := BitVec.ofNat 64 a, d2 := d.pc } : Err)
      (∀ a w, pieceBad s1 g n els = some (.migrating, a, w) → ∃ t, exec piece s = .next t ∧
        t.mem = u.mem ∧ t.dev = u.dev ∧ ((g.isSome ∨ x.mstall = true) →
          (coreAt t n).rq[q] = { x1 with mstall := true })) ∧
      (∀ a w, pieceBad s1 g n els = some (.unmapped, a, w) → exec piece s = .next (report (stopped 1 a w) (entry 3 0 1 a))) ∧
      (∀ a w, pieceBad s1 g n els = some (.fmapUe, a, w) → exec piece s = .next (report (stopped 4 a w) (entry 0x0E 5 4 a))) ∧
      (∀ a w, pieceBad s1 g n els = some (.readOnly, a, w) → exec piece s = .next (writeRecord
        (report (rset s1 (rkgReg n.val (0x48 + 8 * q.val)) (mkWord [(63, 1), (0, a % 2 ^ 48)])) (entry 3 0 3 a)) n q 4)) ∧
      (pieceBad s1 g n els = none → ∃ t, exec piece s = .next t ∧ t = progressBy (movePiece s1 n q d els) n q d els.length ∧
        (coreAt t n).rq[q].row = (if d.width ≤ x.elem + els.length then x.row + 1 else x.row) ∧
        (coreAt t n).rq[q].elem = (if d.width ≤ x.elem + els.length then 0 else x.elem + els.length) ∧
        (∀ m, m ≠ n → coreAt t m = coreAt u m) ∧ (coreAt t n).pc = (coreAt u n).pc ∧ (coreAt t n).s = (coreAt u n).s ∧
        t.frq = u.frq)) ∧
    (¬ go → x0.cur = some d ∨ x0.cur = none → exec piece s = .next s)) ∧
  (∀ (n : CoreId) (q : Fin 2) (s : State) (d : RDesc),
    let x := (coreAt s n).rq[q]
    (x.cur = some d → rackingRuns s n q = true → x.tfault = false → d.rows ≤ x.row → tornDown s n = false →
      exec (.descriptorComplete n q) s = .next (writeRecord s n q (if x.reject = 0 then 0 else 1)))) ∧
  (∀ (n : CoreId) (q : Fin 2) (s : State), tornDown s n = false →
    let x := (coreAt s n).rq[q]
    let bad := fbit s (rkgReg n.val 0) 15
    exec (.rkgResume n q) s = .next (if x.tfault then setRq s n q { x with tfault := false, fault := none } else bad) ∧
    exec (.rkgFail n q) s = .next (if x.tfault then writeRecord s n q 3 else bad) ∧
    (doneCount s n q ≤ enqCount s n q → enqCount s n q - doneCount s n q ≤ 2 ^ fget s (rkgReg n.val (8 + 8 * q.val)) 3 0 →
      fget s (rkgReg n.val (8 + 8 * q.val)) 3 0 ≤ 8 →
      ∃ t, exec (.rkgKill n q) s = .next t ∧ enqCount t n q = enqCount s n q ∧ doneCount t n q = enqCount s n q ∧
        (∀ k, doneCount s n q ≤ k → k < enqCount s n q → let w := mem64 t.mem (ringSlot s n q k)
          bits w 7 0 = 2 ∧ bits w 39 16 = (k + 1) % 2 ^ 24) ∧
        (doneCount s n q < enqCount s n q → (coreAt t n).rq[q].cur = none ∧ (coreAt t n).rq[q].tfault = false) ∧
        (∀ m, m ≠ n → coreAt t m = coreAt s m) ∧ (coreAt t n).pc = (coreAt s n).pc)) ∧
  (∀ (n : CoreId) (q : Fin 2) (status : Nat) (s : State) (d : RDesc), status < 128 →
    let x := (coreAt s n).rq[q]
    let t := writeRecord s n q status
    let a := ringSlot s n q (doneCount s n q)
    let w := mem64 t.mem a
    a % 8 = 0 → doneCount s n q + 1 < 2 ^ 48 →
      doneCount t n q = doneCount s n q + 1 ∧ enqCount t n q = enqCount s n q ∧ bits w 6 0 = status ∧ bit w 7 = false ∧
      bits w 14 8 = min x.reject 127 ∧ bit w 15 = x.poisoned ∧ bits w 39 16 = (doneCount s n q + 1) % 2 ^ 24 ∧
      (x.cur = some d → bits w 63 40 = d.tag.toNat) ∧ (∀ y, y < a ∨ a + 8 ≤ y → t.mem.byte y = s.mem.byte y) ∧
      (coreAt t n).rq[q] = { row := x.row, elem := x.elem }) ∧
  (∀ (n : CoreId) (q : Fin 2) (v : Word) (s : State),
    let w := v &&& 0xC0FFFF0F
    let size := 256 * 2 ^ bits w 3 0
    let lo := bits w 23 8 * 256
    let ok : Prop := w = 0 ∨ ((bits w 31 30 = 1 ∨ bits w 31 30 = 2) ∧ 2 ≤ bits w 3 0 ∧ bits w 3 0 ≤ 8 ∧ lo % size = 0 ∧
      lo + size ≤ if bits w 31 30 = 1 then 0x600000 else 0x1000000)
    let idle : Prop := enqCount s n q = doneCount s n q ∧ (coreAt s n).rq[q].tfault = false
    (¬ (ok ∧ idle) → exec (.rkgRingWrite n q v) s = .next (fbit s (rkgReg n.val 0) 15)) ∧
    (ok → idle → rising (s.dev.map Prod.fst) = true → ∃ t, exec (.rkgRingWrite n q v) s = .next t ∧ rget t (rkgReg n.val (8 + 8 * q.val)) = w ∧
      enqCount t n q = 0 ∧ doneCount t n q = 0 ∧ (coreAt t n).rq[q] = { (coreAt s n).rq[q] with row := 0, elem := 0 } ∧
      t.mem = s.mem)) ∧
  (∀ (d : RDesc) (code scale old : Nat),
    let f := (tileOf d.tb).format
    let a := tileOf d.ta
    let v := if a.mx then mulVal (decodeElem a.format code) (decodeElem .e8m0 scale) else decodeElem a.format code
    (d.kind = 3 → newCode d code scale old = d.fill.toNat) ∧
    (d.kind ≠ 3 → d.add = false → a.format = f → a.mx = (tileOf d.tb).mx → newCode d code scale old = code) ∧
    (d.kind ≠ 3 → d.add = false → f ≠ .sf16 → (a.format ≠ f ∨ a.mx ≠ (tileOf d.tb).mx) →
      newCode d code scale old = plusZero f (convVal f .rn true a.format v).1) ∧
    (d.kind ≠ 3 → d.add = true →
      newCode d code scale old = plusZero f (convVal f .rn true a.format (addVal .rn (decodeElem f old) v)).1)) ∧
  (∀ (n : CoreId) (ch : Fin 4) (s : State),
    let w := fun (o : Nat) => rget s (chkReg n.val ch.val o)
    let c := (coreAt s n).chk[ch]
    let kind := bits (w 0) 3 2
    let bad : Prop := chkBusy s n ch = true ∨ (kind = 3 ∧ bits (w 0) 11 6 < 7) ∨ ∃ o ∈ [0x18, 0x20, 0x28], 2 ^ (bits (w 0) 11 6 + 1) ≤ (w o).toNat
    let same := fun (t : State) => t = { s with cores := t.cores, dev := t.dev } ∧ (∀ m, m ≠ n → coreAt t m = coreAt s m) ∧
      coreAt t n = { coreAt s n with chk := (coreAt s n).chk.set ch (coreAt t n).chk[ch] }
    (bad → exec (.chkReset n ch) s = .next (fset s (chkReg n.val ch.val 8) 4 4 1)) ∧
    (¬ bad → ∃ t, exec (.chkReset n ch) s = .next t ∧ same t ∧
      t.dev = put 0 (chkReg n.val ch.val 0x10) 0 (put 0 (chkReg n.val ch.val 8) (setBits (w 8) 3 3 0) s.dev) ∧
      let x := (coreAt t n).chk[ch]
      x.ctl = w 0 ∧ x.poly = w 0x18 ∧ x.init = w 0x20 ∧ x.xorout = w 0x28 ∧ x.started = true ∧ x.part = [] ∧
      (kind = 1 → x.state = [0xFFFFFFFF]) ∧ (kind = 2 → x.state = shaInit) ∧ (kind = 3 → x.state = [w 0x20]) ∧
      -- The value after any bytes, and its FINISH.
      ∀ bs : List Byte,
        (kind = 1 → ((x.feed bs).finish bs.length).state = [(crc32c bs).setWidth 64]) ∧
        (kind = 2 → ((x.feed bs).finish bs.length).state.flatMap (fun h => (leBytes 8 h.toNat).reverse) = sha512 bs) ∧
        ∀ cs : List Byte, x.feed (bs ++ cs) = (x.feed bs).feed cs) ∧
    (bit (w 8) 3 = true → exec (.chkFinish n ch) s = .next s) ∧
    (bit (w 8) 3 = false → chkBusy s n ch = true → exec (.chkFinish n ch) s = .next (fset s (chkReg n.val ch.val 8) 4 4 1)) ∧
    (bit (w 8) 3 = false → chkBusy s n ch = false → ∃ t, exec (.chkFinish n ch) s = .next t ∧ same t ∧ t.dev = (fset s (chkReg n.val ch.val 8) 3 3 1).dev ∧
      (coreAt t n).chk[ch] = c.finish (w 0x10).toNat) ∧
    (∀ (q : Fin 2) (tag : Nat) (src dst : List Byte) (f4 g4 : Bool),
      let bs := if bit c.ctl 5 then dst else src
      let takes : Prop := c.started = true ∧ bits c.ctl 3 2 ≠ 0 ∧ bits c.ctl 4 4 = q.val ∧
        tag &&& bits c.ctl 39 16 = bits c.ctl 63 40 &&& bits c.ctl 39 16
      let fed := chkFeedOne s n q tag src dst f4 g4 ch
      (¬ takes → fed = s) ∧
      (takes → (if bit c.ctl 5 then g4 else f4) = true → fed = fset s (chkReg n.val ch.val 8) 6 6 1) ∧
      (takes → (if bit c.ctl 5 then g4 else f4) = false → bs ≠ [] → bit (w 8) 3 = true → fed = fset s (chkReg n.val ch.val 8) 7 7 1) ∧
      (takes → (if bit c.ctl 5 then g4 else f4) = false → bs ≠ [] → bit (w 8) 3 = false → same fed ∧
        (coreAt fed n).chk[ch] = c.feed bs ∧ fed.dev = (fincr s (chkReg n.val ch.val 0x10) 63 0 bs.length).dev)))

/-- Acceptance of the collective instructions. -/
def Obligations.CollectiveAcceptance : Prop :=
  (∀ (n : CoreId) (g : Gal) (s : State) (qh : QReg) (ta tb : TReg) (sa sb : SReg) (fn : ColFn) (axis : Axis)
      (bidir ragged minus : Bool) (tag : BitVec 24) (err : SramErr), coreOwner s n = some g →
    let h : Hart := .core n
    let c := coreAt s n
    let f := fun (b r : Bool) => (⟨.sum, axis, false, b, r⟩ : ColFn)
    let d := disarm s n
    let outcome := fun (i : Instr) (r : CollReq) =>
      let da := match r.ta with | some x => c.t[x] | none => 0
      let db := match r.tb with | some x => c.t[x] | none => 0
      let a := tileOf da
      let b := tileOf db
      let na := if r.ta.isSome then a.count else 0
      let nb := if r.tb.isSome then b.count else 0
      let ra := match r.ta with | some x => x.val | none => 0
      let rb := match r.tb with | some x => x.val | none => 0
      let fa := if r.ta.isSome then a.format else b.format
      let fb := if r.tb.isSome then b.format else a.format
      let lr := galRing s g r.fn.axis.val
      let me := ringCoord s g r.fn.axis.val
      let root := (getS h r.sb s).toNat
      let red := decide (r.kind = .allreduce ∨ r.kind = .reducescatter)
      let fails := (if r.ta.isSome then collChecks ra da else []) ++ (if r.tb.isSome then collChecks rb db else []) ++
        (if r.kind = .barrier ∨ collPair red r.fn fa fb = true then []
          else (if r.ta.isSome then [(8, ra)] else []) ++ (if r.tb.isSome then [(8, rb)] else [])) ++
        (if r.kind = .bcast ∧ lr ≤ root then [(0xB, 0)] else []) ++ evenCheck r a b na nb
      let at_ := (getS h r.sa s).toNat
      let vec := if r.fn.ragged then readCounts s g (n.val / 8) at_ lr
        else .ok (plainCounts r a b na nb lr)
      let raise := fun (l : List (Nat × Nat)) => ∃ code reg, (code, reg) ∈ l ∧ (∀ x ∈ l, code ≤ x.1) ∧
        Gives h i s (takeExc d n { code := 7, einfo := mkWord [(0, reg), (8, code)] } 5 true c.pc c.pc)
      let nn := if r.kind = .recv then nb else na
      let met : Prop := r.fn.ragged = true ∧ inReserve at_ (at_ + 4 * lr - 1) = true ∧ 0 < lr
      let u := if met then lineMet (logReserve d n i []) n at_ err else d
      let ds := [da, db].filter (fun w => decide (w ≠ 0))
      let v := if ∃ w ∈ ds, inReserve (tileOf w).range.1 (tileOf w).range.2 = true then logReserve u n i ds else u
      ((∀ q, queueOf s g c.q[qh] ≠ .coll q) → Gives h i s (takeExc d n { code := 8 } 5 true c.pc c.pc)) ∧
      ∀ q, queueOf s g c.q[qh] = .coll q →
        (32 ≤ s.gal[g].cq[q].ops.length → Gives h i s (holdFor d n i)) ∧
        (s.gal[g].cq[q].ops.length < 32 →
          (vec = .bad → raise (fails ++ [(0xE, 0)])) ∧
          (∀ x, vec = .fault x → if fails = [] then Gives h i s (takeExc d n x 5 true c.pc c.pc) else raise fails) ∧
          (∀ va, vec = .stall va → if fails = [] then
            Gives h i s (holdFor (addStall d (.core n) g va false false 0) n i) else raise fails) ∧
          (∀ counts, vec = .ok counts →
            let all := fails ++ countChecks r a b na nb me lr counts
            let o : CollOp := { kind := r.kind, fn := r.fn, minus := r.minus, root := root, core := n
                                cluster := clusterOf n, pc := c.pc, ta := da, tb := db, counts := counts, n := nn
                                lr := lr, c := me, num := 0, opseq := 0, tag := tag
                                sig := sigOf r a b nn (if r.kind = .bcast then root else 0) lr counts }
            if all ≠ [] then raise all
            else if met ∧ err = .ue then Gives h i s (takeExc u n { code := 0xA, eaddr := BitVec.ofNat 64 at_ } 5 true c.pc c.pc)
            else Gives h i s (retired h (c.pc + 8) (collAccept v g q o))))
    outcome (.callreduce h qh tb ta fn sa tag err)
      { kind := .allreduce, opc := 0xD0, fn := fn, fnWord := colCode fn, ta := some ta, tb := some tb, sa := sa, tag := tag } ∧
    outcome (.creducescatter h qh tb ta fn sa tag err)
      { kind := .reducescatter, opc := 0xD1, fn := fn, fnWord := colCode fn, ta := some ta, tb := some tb, sa := sa, tag := tag } ∧
    outcome (.callgather h qh tb ta axis bidir ragged sa tag err)
      { kind := .allgather, opc := 0xD2, fn := f bidir ragged, fnWord := colCode (f bidir ragged), ta := some ta
        tb := some tb, sa := sa, tag := tag } ∧
    outcome (.cbcast h qh tb ta axis sb tag)
      { kind := .bcast, opc := 0xD3, fn := f false false, fnWord := colCode (f false false), ta := some ta
        tb := some tb, sb := sb, tag := tag } ∧
    outcome (.calltoall h qh tb ta axis ragged sa tag err)
      { kind := .alltoall, opc := 0xD4, fn := f false ragged, fnWord := colCode (f false ragged), ta := some ta
        tb := some tb, sa := sa, tag := tag } ∧
    outcome (.csend h qh ta axis minus tag)
      { kind := .send, opc := 0xD5, fn := f false false, fnWord := colCode (f false false), minus := minus
        ta := some ta, tag := tag } ∧
    outcome (.crecv h qh tb axis minus tag)
      { kind := .recv, opc := 0xD5, fn := f false false, fnWord := colCode (f false false), minus := minus
        tb := some tb, tag := tag } ∧
    outcome (.cbarrier h qh axis tag)
      { kind := .barrier, opc := 0xD7, fn := f false false, fnWord := colCode (f false false), tag := tag }) ∧
  (∀ (s : State) (g : Gal) (q : Fin 16) (o : CollOp),
    let x := s.gal[g].cq[q]
    let ax := o.fn.axis
    let o' := { o with num := x.accepted + 1, opseq := x.opseq[ax] }
    let mine := fun (r : Nat × BitVec 16 × BitVec 16 × BitVec 32 × BitVec 32) => r.1 = ax.val ∧ r.2.1 = x.opseq[ax]
    let s1 := setCq s g q { x with ops := x.ops ++ [o'], accepted := x.accepted + 1, opseq := x.opseq.set ax (x.opseq[ax] + 1)
                                   readys := x.readys.filter (fun r => decide (¬ mine r)) }
    let s2 := sendReady s1 g q o'
    let s3 := (x.readys.filter (fun r => decide (mine r))).foldl
      (fun y r => applyReady y g q o'.num (memberOf s1 g ax.val r.2.2.1.toNat) r.2.2.2.1) s2
    collAccept s g q o = pumpQ s3 g q ∧
    (bit s.catActive.gal[g] 63 = true → s2.injectq = s.injectq ++ o'.senders.map (fun k =>
      (ctrlPacket s1 g (member s1 g ax.val k) o'.opseq.toNat q.val ax.val 1 (mkWord [(32, o.sig.toNat), (0, o.n)]) [], none)))) ∧
  (∀ (n lr u j : Nat), 1 ≤ lr → 1 ≤ u →
    (shares n lr u).length = lr ∧ (shares n lr u).sum = n ∧
    (j + 1 < lr → (shares n lr u)[j]? = some (n / lr / u * u))) ∧
  (∀ (reg : Nat) (d : BitVec 256),
    let t := tileOf d
    collChecks reg d = [] ↔ basicChecks t true inVirtOrReserve = [] ∧ t.layout = 0 ∧ t.mx = false ∧ t.count < 2 ^ 32 ∧
      (t.format = .sf16 → t.n1 = 1 ∧ t.n2 = 1 ∧ t.n3 = 1 ∧ 1024 ∣ t.n0)) ∧
  (∀ (fn : ColFn) (a b : Fmt),
    (collPair false fn a b = true ↔ a = b ∧ a ≠ .e8m0) ∧
    (fn.codec = true → (collPair true fn a b = true ↔ fn.op = .sum ∧ a ∈ [.f32, .sf16] ∧ b ∈ [.f32, .sf16])) ∧
    (fn.codec = false → (collPair true fn a b = true ↔
      (a ∈ [.f32, .bf16, .f16] ∧ b ∈ [.f32, .bf16, .f16]) ∨ (a = .i32 ∧ b = .i32))))

/-- What collectives do with data. -/
def Obligations.CollectiveData : Prop :=
  (∀ (bidir : Bool) (seg off base n i : Nat),
    let cs := segChunks bidir seg off base n
    cs.length = (n + 1023) / 1024 ∧ (cs.map Chunk.cnt).sum = n ∧
    (∀ c, cs[i]? = some c → c.seg = seg ∧ c.idx = base + i ∧ c.e0 = off + 1024 * i ∧ c.cnt = min 1024 (n - 1024 * i) ∧
      (c.minus = true ↔ bidir = true ∧ (cs.length + 1) / 2 ≤ i))) ∧
  (∀ (bidir : Bool) (ns : List Nat), let cs := allChunks bidir 0 0 0 ns
    (cs.map Chunk.cnt).sum = ns.sum ∧ (∀ (i : Nat) (c : Chunk), cs[i]? = some c → c.idx = i) ∧
    (∀ c ∈ cs, ∃ n, ns[c.seg]? = some n ∧ c.off = (ns.take c.seg).sum ∧ c.off ≤ c.e0 ∧ c.e0 + c.cnt ≤ c.off + n)) ∧
  (∀ (scatter : Bool) (lr c : Nat) (ch : Chunk), 2 ≤ lr → c < lr → ch.seg < lr →
    let k := if ch.minus then (ch.seg + lr - c) % lr else (c + lr - ch.seg) % lr
    let next := if ch.minus then (c + lr - 1) % lr else (c + 1) % lr
    let prev := if ch.minus then (c + 1) % lr else (c + lr - 1) % lr
    let ts := reduceTasks scatter lr c ch
    (c = ch.seg → { kind := .contrib, ch := ch, peer := next, fwd := some (next, 1) } ∈ ts) ∧
    (c ≠ ch.seg → { kind := .combine, ch := ch, peer := prev, step := k, fwd := some (next, k + 1) } ∈ ts) ∧
    (scatter = true → ((∃ t ∈ ts, t.kind = .take) ↔ c = ch.seg)) ∧
    (scatter = false → ((∃ t ∈ ts, t.kind = .take) ↔ k + 1 < lr)) ∧
    (∀ t ∈ ts, t.kind = .take → t.peer = prev ∧ t.phase = 1 ∧ t.step = if scatter then lr else lr + k) ∧
    ts.length ≤ 2 ∧ (∀ t ∈ ts, t.ch = ch)) ∧
  (∀ (op : ColOp) (a x : Nat), a < 2 ^ 32 → x < 2 ^ 32 →
    (combineOne .sum true a x).1 = (a + x) % 2 ^ 32 ∧
    signedOf 32 (combineOne .max true a x).1 = max (signedOf 32 a) (signedOf 32 x) ∧
    signedOf 32 (combineOne .min true a x).1 = min (signedOf 32 a) (signedOf 32 x) ∧
    (combineOne op true a x).2 = none ∧
    (combineOne .sum false a x).1 = plusZero .f32 (round32 .rn (addVal .rn (val32 a) (val32 x))) ∧
    (combineOne .max false a x).1 = plusZero .f32 (round32 .rn (maxVal (val32 a) (val32 x))) ∧
    (combineOne .min false a x).1 = plusZero .f32 (round32 .rn (minVal (val32 a) (val32 x))) ∧
    (val32 a = .nan ∨ val32 x = .nan → (combineOne op false a x).2 = some 1)) ∧
  (∀ (vs : List Val),
    let b := sfBlock vs
    (.nan ∈ vs → b = (255, vs.map (fun _ => 0), 0)) ∧
    (.nan ∉ vs → ∀ X : Int, (∀ v ∈ vs, ∃ a m e, v = .fin a m e ∧ (m = 0 ∨ finRat false m e < 2 ^ (X + 1))) →
      (∃ v ∈ vs, ∃ a m e, v = .fin a m e ∧ (2 : ℚ) ^ X ≤ finRat false m e) →
      let S := max (X - 15) (-127)
      (b.1 : Int) = S + 127 ∧ b.2.1.length = vs.length ∧
      ∀ k, ∀ hk : k < vs.length, ∀ a m e, vs[k] = .fin a m e →
        b.2.1.getD k 0 = plusZero .f16 (roundFp (specOf .f16) .rn true (.fin a m (e - S))).1)) ∧
  (∀ cs : List Nat, cs.length ≤ 1024 →
    let e := sfEncode cs
    let blk := fun b => sfBlock ((List.range 32).map (fun j => val32 (cs.getD (32 * b + j) 0)))
    e.bytes.length = 2112 ∧
    (∀ k < 1024, leNat ((e.bytes.drop (2 * k)).take 2) = (blk (k / 32)).2.1.getD (k % 32) 0 % 2 ^ 16) ∧
    (∀ b < 32, (e.bytes.getD (2048 + b) 0).toNat = (blk b).1 % 256) ∧
    (∀ b < 32, e.bytes.getD (2080 + b) 0 = 0))

/-- Events of the Collective Engine. -/
def Obligations.CollectiveEvents : Prop :=
  (∀ (p : PortId) (pkt : Packet) (err : SliceErr) (s : State),
    let s0 := { s with inbox := s.inbox.erase (p, pkt) }
    let g := pkt.gallery
    let q := dQueue pkt
    let opseq := pkt.type0 / 65536
    let lost := fincr s0 (colDev 8) 31 0 1
    let data := s.gal[g].cq[q].ops.find? (fun o => decide (o.fn.axis.val = bits pkt.w3 12 11 ∧ o.opseq.toNat = opseq))
    let axis := pkt.type0 / 1024 % 4
    let ctrl := s.gal[g].cq[q].ops.find? (fun o => decide (o.fn.axis.val = axis ∧ o.opseq.toNat = opseq))
    let s1 := sliceMet s0 q err.buf
    let pk := if err.buf = .ue then poisonPacket pkt else pkt
    let dataD := s1.gal[g].cq[q].ops.find? (fun o => decide (o.fn.axis.val = bits pkt.w3 12 11 ∧ o.opseq.toNat = opseq))
    let clu := 0x120 + q.val % 4
    let ce := fincr s0 (colSlice (q.val % 4) 0x18) 31 0 1
    (err.buf = .none → s1 = s0) ∧
    (err.buf = .ce → s1 = appraise { ce with cr := { ce.cr with head := ce.cr.head + 1 } } clu 1) ∧
    (err.buf = .ue → s1 = appraise (fincr s0 (colSlice (q.val % 4) 0x18) 63 32 1) clu 1024) ∧
    (dataD = none → exec (.collDataReceive p pkt err) s = .next (fincr s1 (colDev 8) 31 0 1)) ∧
    (∀ o, dataD = some o →
      (recvKey pk ∈ o.recv ∨ (∃ e ∈ o.early, recvKey e.2 = recvKey pk) →
        exec (.collDataReceive p pkt err) s = .next (ackData (fincr s1 (colDev 8) 63 32 1) g pk)) ∧
      (recvKey pk ∉ o.recv → (∀ e ∈ o.early, recvKey e.2 ≠ recvKey pk) → exec (.collDataReceive p pkt err) s
        = .next (pumpQ (modOp (if 2 ^ 49 ≤ err.line.ea.toNat then unitMet s1 o.core err.line false else s1) g q o.num
          (fun x => { x with early := x.early ++ [(p, pk)] })) g q))) ∧
    (data = none → exec (.collAckReceive p pkt) s = .next lost) ∧
    (∀ o, data = some o →
      exec (.collAckReceive p pkt) s = .next (modOp s0 g q o.num (fun x => { x with unacked := x.unacked.filter (fun u =>
        decide (¬ (u.pkt.type0 = pkt.type0 ∧ u.pkt.w3 = pkt.w3 ∧ u.pkt.dst = pkt.src))) }))) ∧
    (∀ o, ctrl = some o →
      exec (.collReadyReceive p pkt) s = .next (pumpQ (applyReady s0 g q o.num (memberOf s0 g axis pkt.src)
        (BitVec.ofNat 32 (bits pkt.w3 63 32))) g q) ∧
      (let st := bits pkt.w3 6 0
       let mine : Prop := st = 5 ∧ memberOf s0 g axis pkt.src ∈ o.senders
       exec (.collAbortReceive p pkt) s = .next (pumpQ (collEnd (if mine then abortOp s0 g q.val o 5 else s0) g q o
         (if st = 2 then 1 else st)) g q))) ∧
    (ctrl = none → exec (.collAbortReceive p pkt) s = .next lost ∧
      (let x := s.gal[g].cq[q]
       let seq := BitVec.ofNat 16 opseq
       let passed : Prop := isOpen s0 g = false ∨ 32768 ≤ (seq - x.opseq[f2 axis]).toNat
       (passed → exec (.collReadyReceive p pkt) s = .next lost) ∧
       (¬ passed → exec (.collReadyReceive p pkt) s = .next (setCq s0 g q { x with
         readys := x.readys ++ [(axis, seq, BitVec.ofNat 16 pkt.src, BitVec.ofNat 32 (bits pkt.w3 63 32),
           BitVec.ofNat 32 (bits pkt.w3 31 0))] })))) ∧
    (isOpen s0 g = false → exec (.collLossReceive p pkt) s = .next s0) ∧
    (isOpen s0 g = true → exec (.collLossReceive p pkt) s = .next (peerLost s0 g (bits pkt.w3 15 0) (bits pkt.w3 23 16)
      (leNat (pkt.payload.take 8)) none (some pkt.src)))) ∧
  (∀ (s : State) (g : Gal) (q : Fin 16) (num from_ : Nat) (sig : BitVec 32) (o : CollOp), opOf s g q num = some o →
    (sig = o.sig → applyReady s g q num from_ sig
      = modOp s g q num (fun x => { x with ready := if from_ ∈ x.ready then x.ready else x.ready ++ [from_] })) ∧
    (sig ≠ o.sig → applyReady s g q num from_ sig = collEnd (abortOp s g q.val o 5) g q o 5)) ∧
  (∀ (g : Gal) (q : Fin 16) (dst : BitVec 16) (t0 : BitVec 32) (t1 : Word) (s : State),
    let kept := fun (u : Unacked) => u.pkt.dst = dst.toNat ∧ u.pkt.type0 = t0.toNat ∧ u.pkt.w3 = t1
    let again := fun (l : List Unacked) => l.map (fun u => if kept u then { u with tries := u.tries + 1 } else u)
    let limit := fget s (colDev 0) 23 16
    (∀ o u, s.gal[g].cq[q].ops.find? (fun o => o.unacked.any (fun u => decide (kept u))) = some o →
      o.unacked.find? (fun u => decide (kept u)) = some u →
      (u.tries < limit → exec (.collRetransmit g q dst t0 t1) s = .next (reinject
        (modOp s g q o.num (fun x => { x with unacked := again x.unacked })) u.pkt)) ∧
      (limit ≤ u.tries → exec (.collRetransmit g q dst t0 t1) s
        = .next (pumpQ (collEnd (abortOp s g q.val o 6) g q o 6) g q))) ∧
    ((∀ o ∈ s.gal[g].cq[q].ops, ∀ u ∈ o.unacked, ¬ kept u) →
      (∀ u (spare : Bool), (spare = true → ∀ u ∈ s.gal[g].mtx.unacked, ¬ kept u) →
        (if spare then s.gal[g].mcp else s.gal[g].mtx).unacked.find? (fun u => decide (kept u)) = some u →
        (u.tries < limit → exec (.collRetransmit g q dst t0 t1) s = .next (reinject
          (modTx s g spare (fun x => { x with unacked := again x.unacked })) u.pkt)) ∧
        (limit ≤ u.tries → exec (.collRetransmit g q dst t0 t1) s = .next (mirrorFail s g spare))) ∧
      ((∀ u ∈ s.gal[g].mtx.unacked, ¬ kept u) → (∀ u ∈ s.gal[g].mcp.unacked, ¬ kept u) → exec (.collRetransmit g q dst t0 t1) s = .next s))) ∧
  (∀ (g : Gal) (q : Fin 16) (s : State),
    (s.gal[g].cq[q].ops = [] → exec (.collOperationComplete g q) s = .next s) ∧
    (∀ o r, s.gal[g].cq[q].ops = o :: r →
      let finished : Prop := o.started = true ∧ o.stalled = false ∧ o.held = [] ∧ o.unacked = [] ∧
        (∀ i < o.tasks.length, i ∈ o.done) ∧ (o.kind = .barrier → ∀ k ∈ o.senders, k ∈ o.ready)
      (finished → exec (.collOperationComplete g q) s = .next (pumpQ (collEnd s g q o 0) g q)) ∧
      (¬ finished → exec (.collOperationComplete g q) s = .next (pumpQ s g q)))) ∧
  (∀ (i : Fin 4) (s : State),
    (s.slices[i] = [] → exec (.colSliceResume i) s = .next (fbit s (colSlice i.val 0) 15) ∧
      exec (.colSliceFail i) s = .next (fbit s (colSlice i.val 0) 15)) ∧
    (∀ k r o, s.slices[i] = k :: r → s.gal[k.gal].cq[k.q].ops.find? (fun o => o.stalled) = some o →
      exec (.colSliceResume i) s = .next (pumpQ (modOp (showStall { s with slices := s.slices.set i r } i) k.gal k.q o.num
        (fun x => { x with stalled := false })) k.gal k.q) ∧
      exec (.colSliceFail i) s = .next (pumpQ (showStall
        (collEnd (abortOp s k.gal k.q.val o 3) k.gal k.q o 3) i) k.gal k.q))) ∧
  (∀ (g : Gal) (mask : BitVec 16) (s : State), ∃ t, exec (.colQueueKill g mask) s = .next t ∧
    (∀ q : Fin 16, mask.getLsbD q.val = true → t.gal[g].cq[q].ops = [] ∧
      t.gal[g].cq[q].count = s.gal[g].cq[q].count + s.gal[g].cq[q].ops.length) ∧
    (∀ q : Fin 16, mask.getLsbD q.val = false → t.gal[g].cq[q] = s.gal[g].cq[q]) ∧
    (∀ k, k ≠ g → t.gal[k] = s.gal[k]) ∧ t.cores = s.cores ∧
    (∀ x, (∀ q : Fin 16, mask.getLsbD q.val = true → ∀ o ∈ s.gal[g].cq[q].ops, x / 64 ∉ o.restLines s g) →
      t.mem.byte x = s.mem.byte x)) ∧
  (∀ (s : State) (g : Gal) (q : Fin 16) (o : CollOp) (st : Nat), st < 128 → 1 ≤ o.num →
    let x := s.gal[g].cq[q]
    let t := collEnd s g q o st
    let w := t.gal[g].cq[q].records[f5 ((o.num - 1) % 32)]
    (∀ p, p ∈ t.gal[g].cq[q].ops ↔ p ∈ x.ops ∧ p.num ≠ o.num) ∧ t.gal[g].cq[q].count = x.count + 1 ∧
    bits w 63 40 = o.tag.toNat ∧ bits w 39 16 = o.num % 2 ^ 24 ∧ bit w 15 = o.poisoned ∧ bits w 14 0 = st ∧
    (st = 0 → fget t (colGal g.val 0x10) 31 0 = min (fget s (colGal g.val 0x10) 31 0 + 1) (2 ^ 32 - 1) ∧
      t.gal[g].stepSeal = s.gal[g].stepSeal) ∧
    (st ≠ 0 → fget t (colGal g.val 0x10) 63 32 = min (fget s (colGal g.val 0x10) 63 32 + 1) (2 ^ 32 - 1)) ∧
    (s.gal[g].stepSeal.st = .open → (st = 1 ∨ st = 6 → t.gal[g].stepSeal.reason = s.gal[g].stepSeal.reason ||| rsnPeer) ∧
      (st = 3 ∨ st = 4 ∨ st = 5 → t.gal[g].stepSeal.reason = s.gal[g].stepSeal.reason ||| rsnMismatch)) ∧
    (st = 0 → t.mem = s.mem) ∧ (∀ x, x / 64 ∉ o.restLines s g → t.mem.byte x = s.mem.byte x))

/-- Fences and waits (R57, R58, R104, R105), the timed launch (R60) and the handle copies (R106). -/
def Obligations.FencesAndWaits : Prop :=
  (∀ (n : CoreId) (k : FenceKind) (s : State),
    let h : Hart := .core n
    let c := coreAt s n
    let racking := fun (q : Fin 2) => doneCount s n q = enqCount s n q
    let collDone : Prop := ∀ g, coreOwner s n = some g → ∀ q : Fin 16, ∀ o ∈ s.gal[g].cq[q].ops, o.core ≠ n
    let ok : Prop := ((k = .m ∨ k = .a) → c.mq = []) ∧ ((k = .d ∨ k = .a) → racking 0 ∧ racking 1) ∧
      ((k = .c ∨ k = .a) → collDone)
    let stopped : Prop := (k = .d ∨ k = .a) ∧ ∃ q : Fin 2, c.rq[q].tfault = true
    (¬ stopped → ok → Gives h (.fence h k) s (fell h s)) ∧
    (¬ stopped → ¬ ok → Gives h (.fence h k) s (holdFor (disarm s n) n (.fence h k))) ∧
    (∀ (q : Fin 2) (cls : Nat) (w : Bool) (a : Word) (d : RDesc), (k = .d ∨ k = .a) → c.rq[q].tfault = true →
      (q = 1 → c.rq[(0 : Fin 2)].tfault = false) → c.rq[q].fault = some (cls, w, a) → c.rq[q].cur = some d →
      Gives h (.fence h k) s (takeExc (disarm s n) n
        { code := 5, src := 3, eaddr := a, einfo := BitVec.ofNat 64 q.val, fclass := cls } 4 false d.pc c.pc))) ∧
  (∀ (n : CoreId) (g : Gal) (sd : SReg) (qn : QReg) (sb : SReg) (s : State), coreOwner s n = some g →
    let h : Hart := .core n
    let c := coreAt s n
    let i : Instr := .wait h sd qn sb
    let k := (getS h sb s).toNat
    let old := mkWord [(16, k % 2 ^ 24), (0, 0x0F)]
    let gives := fun (w : Word) => Gives h i s (setS h sd w (fell h s))
    (queueOf s g c.q[qn] = .bad → Gives h i s (takeExc (disarm s n) n { code := 8 } 6 true c.pc c.pc)) ∧
    (queueOf s g c.q[qn] ≠ .bad → k = 0 → gives 0x0F) ∧
    (∀ q, queueOf s g c.q[qn] = .racking q → k ≠ 0 →
      (k ≤ doneCount s n q → k + ringSize s n q ≤ enqCount s n q → gives old) ∧
      (k ≤ doneCount s n q → enqCount s n q < k + ringSize s n q → gives (mem64 s.mem (ringSlot s n q (k - 1)))) ∧
      (doneCount s n q < k → c.rq[q].tfault = false → Gives h i s (holdFor (disarm s n) n i)) ∧
      (doneCount s n q < k → c.rq[q].tfault = true → ∀ cls w a d, c.rq[q].fault = some (cls, w, a) → c.rq[q].cur = some d →
        Gives h i s (takeExc (disarm s n) n
          { code := 5, src := 3, eaddr := a, einfo := BitVec.ofNat 64 q.val, fclass := cls } 4 false d.pc c.pc))) ∧
    (∀ q, queueOf s g c.q[qn] = .coll q → k ≠ 0 →
      let x := s.gal[g].cq[q]
      let w := x.records[f5 ((k - 1) % 32)]
      let kept : Prop := k ≤ x.accepted ∧ x.accepted < k + 2 ^ 24 ∧ bits w 39 16 = k % 2 ^ 24
      (k ≤ x.count → kept → gives w) ∧ (k ≤ x.count → ¬ kept → gives old) ∧
      (x.count < k → Gives h i s (holdFor (disarm s n) n i)))) ∧
  (∀ (n : CoreId) (cc : WCond) (sd sa sb : SReg) (imm : BitVec 24) (s : State),
    let h : Hart := .core n
    let c := coreAt s n
    let i : Instr := .waitm h cc sd sa sb imm
    let a := (getS h sa s + imm.setWidth 64).toNat
    let inside := a % 8 = 0 ∧ (2 ^ 48 ≤ a ∧ a + 8 ≤ 2 ^ 48 + 0x600000 ∨ 2 ^ 49 ≤ a ∧ a + 8 ≤ 2 ^ 49 + 0x1000000)
    let pa := sramAt n a
    let v := mem64 s.mem pa
    let b := getS h sb s
    let met : Prop := match cc with | .eq => v = b | .ne => v ≠ b | .geu => b.toNat ≤ v.toNat | .ltu => v.toNat < b.toNat
    (¬ inside → Gives h i s (takeExc (disarm s n) n { code := 4, eaddr := BitVec.ofNat 64 a } 6 true c.pc c.pc)) ∧
    (inside → s.mem.isPoisoned (pa / 64) = true →
      Gives h i s (takeExc (disarm s n) n { code := 0xA, eaddr := BitVec.ofNat 64 a } 6 true c.pc c.pc)) ∧
    (inside → s.mem.isPoisoned (pa / 64) = false → met → Gives h i s (setS h sd v (fell h s))) ∧
    (inside → s.mem.isPoisoned (pa / 64) = false → ¬ met → Gives h i s (holdFor (disarm s n) n i)) ∧
    (∀ hd, c.hold = some hd → hd.instr = i → exec (.waitmReread h) s = exec i s) ∧
    (c.hold = none → exec (.waitmReread h) s = .next s)) ∧
  (∀ (n : CoreId) (sa : SReg) (qd qn : QReg) (sd : SReg) (s : State),
    let h : Hart := .core n
    let c := coreAt s n
    let v := getS h sa s
    (v.toNat ≤ now s → Gives h (.launch h sa) s (modCore (fell h s) n (fun c => { c with late := true }))) ∧
    (now s < v.toNat → Gives h (.launch h sa) s
      (modCore (fell h s) n (fun c => { c with launchat := v, launchPend := true, state := .wait }))) ∧
    Gives h (.qcopy h qd qn) s (modCore (fell h s) n (fun x => { x with q := x.q.set qd c.q[qn] })) ∧
    Gives h (.qread h sd qn) s (setS h sd c.q[qn] (fell h s)) ∧
    (¬ (deviceRuns s = true ∧ c.launchPend = true ∧ (c.state = .run ∨ c.state = .wait)) →
      exec (.launchTargetReached h) s = .next s) ∧
    (deviceRuns s = true → c.launchPend = true → (c.state = .run ∨ c.state = .wait) →
      ∃ t, exec (.launchTargetReached h) s = .next t ∧
        coreAt t n = { c with launchPend := false, launchat := 0, state := .run } ∧
        (s.tb.count < 2 ^ 96 → now s ≤ c.launchat.toNat → c.launchat.toNat < 2 ^ 63 → c.launchat.toNat ≤ now t) ∧
        (∀ m, m ≠ n → coreAt t m = coreAt s m) ∧ t.mem = s.mem ∧ t.dev = s.dev) ∧
    (∀ hd, c.hold = some hd → deviceRuns s = true → (c.state = .run ∨ c.state = .wait) → c.waitlim ≠ 0 →
      (∀ sd qn sb, hd.instr = .wait h sd qn sb → exec (.waitTimeout h) s = .next (takeExc
        (advanceTo s (hd.since + c.waitlim.toNat + 1)) n { code := 0xC, src := 5 } 6 true c.pc c.pc)) ∧
      (∀ sd, hd.instr = .sclose h sd → exec (.waitTimeout h) s = .next (takeExc
        (advanceTo s (hd.since + c.waitlim.toNat + 1)) n { code := 0xC, src := 5 } 6 true c.pc c.pc)) ∧
      (∀ cc sd sa sb imm, hd.instr = .waitm h cc sd sa sb imm → exec (.waitTimeout h) s = .next (takeExc
        (advanceTo s (hd.since + c.waitlim.toNat + 1)) n { code := 0xC, src := 5 } 6 true c.pc c.pc)) ∧
      (∀ k, hd.instr = .fence h k → exec (.waitTimeout h) s = .next s)) ∧
    (c.hold = none ∨ c.waitlim = 0 → exec (.waitTimeout h) s = .next s)) ∧
  (∀ (k : Fin 4) (kind : FenceKind) (cc : WCond) (sd sa sb : SReg) (qd qn : QReg) (imm : BitVec 24) (s : State),
    let h : Hart := .mgmt k
    let fault := report s { kind := 0x1A, cls := 5, unit := 13 }
    (s.mgmt[k].launchPend = false → Gives h (.wait h sd qn sb) s fault ∧ Gives h (.waitm h cc sd sa sb imm) s fault ∧
      Gives h (.qcopy h qd qn) s fault ∧ Gives h (.qread h sd qn) s fault) ∧
    (deviceRuns s = true → s.mgmt[k].launchPend = true → exec (.launchTargetReached h) s = .next (setMgmt
      (advanceTo s s.mgmt[k].launchat.toNat) k { s.mgmt[k] with launchPend := false, launchat := 0 })) ∧
    Gives h (.fence h kind) s (fell h s) ∧ exec (.waitTimeout h) s = .next s ∧
    ((getS h sa s).toNat ≤ now s → Gives h (.launch h sa) s (fell h s)) ∧
    (now s < (getS h sa s).toNat → Gives h (.launch h sa) s
      (setMgmt (fell h s) k { (fell h s).mgmt[k] with launchat := getS h sa s, launchPend := true })))

/-- The instructions of the Step Seal (R107 to R111). -/
def Obligations.StepSealInstructions : Prop :=
  ∀ (n : CoreId) (g : Gal) (sd sa : SReg) (s : State), coreOwner s n = some g →
    let h : Hart := .core n
    let x := s.gal[g].stepSeal
    let step := (getS h sa s).setWidth 32
    let f := fell h s
    let result := fun (y : Seal) => mkWord [(48, (y.sw.getD 0).toNat), (16, y.step.toNat), (8, y.reason.toNat),
      (3, if y.advanced then 1 else 0), (0, match y.st with | .idle => 0 | .open => 1 | .closing => 2 | .clean => 3 | .dirty => 4)]
    let counter := glyReg g.val 0x68
    let sclose : Instr := .sclose h sd
    let me := (n, (coreAt s n).pc)
    (x.st = .idle ∨ x.st = .clean ∨ x.st = .dirty → ∃ y : Seal,
      y.st = .open ∧ y.step = step ∧ y.parts = [n] ∧ y.reason = x.pendReason ∧ y.sw = x.pendSw ∧ y.pendReason = 0 ∧
      y.pendSw = none ∧ y.advanced = false ∧ y.sent = [] ∧ y.gathered = false ∧
      y.cur = (if x.otherStep = some step then x.other else []) ∧ y.decided = x.decided ∧ y.losses = x.losses ∧
      Gives h (.sopen h sd sa) s (setS h sd 0 (modSeal f g (fun _ => y)))) ∧
    (x.st = .open → x.step = step → Gives h (.sopen h sd sa) s (setS h sd 0 (modSeal f g (fun y =>
      { y with parts := if n ∈ x.parts then x.parts else x.parts ++ [n]
               gone := x.gone.filter (fun e => decide (e.1 ≠ n)) })))) ∧
    ((x.st = .open ∧ x.step ≠ step) ∨ x.st = .closing →
      Gives h (.sopen h sd sa) s (setS h sd 1 (sealMark f g 32 none))) ∧
    (¬ (x.st = .open ∧ n ∈ x.parts) →
      let waits : Prop := x.st = .closing ∨ (x.st = .open ∧ me ∈ x.gone)
      (waits → Gives h sclose s (holdFor (disarm s n) n sclose)) ∧
      (¬ waits → Gives h sclose s (setS h sd (result x) f))) ∧
    (x.st = .open → n ∈ x.parts →
      let s1 := modSeal (disarm s n) g (fun y =>
        { y with gone := x.gone ++ [me], parts := x.parts.filter (fun c => decide (c ≠ n)) })
      let s2 := if (∀ c ∈ x.parts, c = n) then sealContribute s1 g else s1
      (s2.gal[g].stepSeal.st = .open ∨ s2.gal[g].stepSeal.st = .closing → Gives h sclose s (holdFor s2 n sclose)) ∧
      (s2.gal[g].stepSeal.st ≠ .open → s2.gal[g].stepSeal.st ≠ .closing →
        Gives h sclose s (setS h sd (result s2.gal[g].stepSeal) (retired h ((coreAt s n).pc + 8) s2)))) ∧
    Gives h (.sstat h sd) s (setS h sd (result x) f) ∧
    (x.st ≠ .clean → Gives h (.sadv h sd) s (setS h sd 0 f)) ∧
    (x.st = .clean → x.advanced = true → Gives h (.sadv h sd) s (setS h sd (BitVec.ofNat 64 (fget s counter 31 0)) f)) ∧
    (x.st = .clean → x.advanced = false →
      let v := (fget s counter 31 0 + 1) % 2 ^ 32
      Gives h (.sadv h sd) s (setS h sd (BitVec.ofNat 64 v)
        (mirrorStart (modSeal (fset f counter 31 0 v) g (fun y => { y with advanced := true })) g v))) ∧
    (let sw := (getS h sa s).setWidth 8
     (x.st = .open → Gives h (.smark h sa) s (modSeal f g (fun y =>
       { y with reason := x.reason ||| 16, sw := match x.sw with | some w => some w | none => some sw }))) ∧
     (x.st ≠ .open → Gives h (.smark h sa) s (modSeal f g (fun y =>
       { y with pendReason := x.pendReason ||| 16, pendSw := match x.pendSw with | some w => some w | none => some sw }))))

/-- The close of a step and the buddy mirror (R325 to R331). -/
def Obligations.StepSealCloseAndMirror : Prop :=
  (∀ (p : PortId) (pkt : Packet) (s : State),
    let s0 := { s with inbox := s.inbox.erase (p, pkt) }
    let g := pkt.gallery
    let x := s.gal[g].stepSeal
    let step := BitVec.ofNat 32 pkt.type0
    let k : SealPkt := { phase := bits pkt.w3 17 16, src := BitVec.ofNat 16 pkt.src
                         reason := BitVec.ofNat 8 (bits pkt.w3 15 8), tc := leNat (pkt.payload.take 8) }
    let add := fun (l : List SealPkt) => if (∃ q ∈ l, q.phase = k.phase ∧ q.src = k.src) then l else l ++ [k]
    let current : Prop := (x.st = .open ∨ x.st = .closing) ∧ x.step = step
    let i : Instr := .sealPacketReceive p pkt
    (isOpen s0 g = false → exec i s = .next s0) ∧
    (isOpen s0 g = true → current →
      exec i s = .next (sealAdvance 6 (modSeal s0 g (fun y => { y with cur := add x.cur })) g)) ∧
    (isOpen s0 g = true → ¬ current → step ∈ x.decided → exec i s = .next s0) ∧
    (isOpen s0 g = true → ¬ current → step ∉ x.decided →
      (x.otherStep = none → exec i s = .next (modSeal s0 g (fun y => { y with otherStep := some step, other := [k] }))) ∧
      (x.otherStep = some step → exec i s = .next (modSeal s0 g (fun y => { y with other := add x.other }))) ∧
      (∀ st', x.otherStep = some st' → st' ≠ step → exec i s = .next s0))) ∧
  (∀ (f : Nat) (s : State) (g : Gal),
    let x := s.gal[g].stepSeal
    let members := (otherMembers s g x.phase).map (member s g x.phase)
    let got := x.cur.filter (fun p => decide (p.phase = x.phase))
    let ins := got.filter (fun p => members.contains p.src.toNat)
    (x.st ≠ .closing ∨ x.gathered = true → sealAdvance (f + 1) s g = s) ∧
    (x.st = .closing → x.gathered = false → 4 ≤ x.phase → sealAdvance (f + 1) s g = sealGathered s g) ∧
    (x.st = .closing → x.gathered = false → x.phase < 4 → galRing s g x.phase ≤ 1 →
      sealAdvance (f + 1) s g = sealAdvance f (modSeal s g (fun y => { y with phase := x.phase + 1 })) g) ∧
    (x.st = .closing → x.gathered = false → x.phase < 4 → 2 ≤ galRing s g x.phase →
      let s1 := if (∃ e ∈ x.sent, e.1 = x.phase) then s else
        sendPhase (modSeal s g (fun y => { y with sent := x.sent ++ [(x.phase, x.reason, x.tc)] })) g x.phase x.reason x.tc
      ((∀ m ∈ members, ∃ p ∈ got, p.src.toNat = m) → sealAdvance (f + 1) s g = sealAdvance f (modSeal s1 g (fun y =>
        { y with phase := x.phase + 1, reason := ins.foldl (fun r p => r ||| p.reason) x.reason
                 tc := ins.foldl (fun t p => max t p.tc) x.tc })) g) ∧
      ((∃ m ∈ members, ∀ p ∈ got, p.src.toNat ≠ m) → sealAdvance (f + 1) s g = s1))) ∧
  (∀ (g : Gal) (s : State),
    let x := s.gal[g].stepSeal
    let teff := (rget s (colGal g.val 0x28)).toNat
    let s1 := advanceTo s teff
    let lost : Prop := ∃ l ∈ x.losses, l.1 + 100000 ≤ teff
    let due : Prop := x.st = .closing ∧ x.gathered = true ∧ x.cleanWait = false
    let pass : Prop := s.gal[g].mtx.running = true
    let fromList := x.sent.foldl (fun s e => sendPhase s g e.1 e.2.1 e.2.2) s
    exec (.sealResend g) s
      = .next (if x.st = .closing ∧ x.cleanWait = false ∧ ¬ (x.gathered = true ∧ teff < now s) then fromList else s) ∧
    (¬ due → exec (.sealTeffReached g) s = .next s) ∧
    (due → x.reason = 0 → ¬ lost → pass → exec (.sealTeffReached g) s = .next (modSeal s1 g (fun y => { y with cleanWait := true }))) ∧
    (due → x.reason = 0 → ¬ lost → ¬ pass → exec (.sealTeffReached g) s = .next (sealDecide s1 g true 0 (some teff))) ∧
    (due → lost → exec (.sealTeffReached g) s = .next (sealDecide s1 g false (x.reason ||| 8) (some teff))) ∧
    (due → ¬ lost → x.reason ≠ 0 → exec (.sealTeffReached g) s = .next (sealDecide s1 g false x.reason (some teff))) ∧
    ((x.losses = [] ∨ x.st ≠ .closing ∨ x.gathered = true) → exec (.sealLossTimeout g) s = .next s) ∧
    (∀ l r, x.losses = l :: r → x.st = .closing → x.gathered = false → exec (.sealLossTimeout g) s
      = .next (sealDecide (advanceTo s (l.2 + 100000)) g false (x.reason ||| 8) none)) ∧
    (x.st ≠ .closing → exec (.sealAbandon g) s = .next (fbit s (colGal g.val 0) 15)) ∧
    (x.st = .closing → exec (.sealAbandon g) s = .next (sealDecide
      (modSeal (fbit s (colGal g.val 0x20) 18) g (fun y => { y with sw := some 0 })) g false (x.reason ||| 16) none))) ∧
  (∀ (s : State) (g : Gal) (clean : Bool) (r : BitVec 8) (teff : Option Nat), rising (s.dev.map Prod.fst) = true →
    let x := s.gal[g].stepSeal
    let t := sealDecide s g clean r teff
    let y := t.gal[g].stepSeal
    (x.idleAfter = false → y.st = (if clean then .clean else .dirty) ∧ y.step = x.step ∧ y.reason = r) ∧
    (x.idleAfter = true → y.st = .idle ∧ y.step = 0 ∧ y.reason = 0 ∧ y.sw = none ∧ y.losses = []) ∧
    y.parts = [] ∧ y.advanced = false ∧ y.decided = x.decided ++ [x.step] ∧ y.cur = [] ∧
    fget t (colGal g.val 0x20) 63 32 = x.step.toNat ∧ fget t (colGal g.val 0x20) 15 8 = r.toNat ∧
    fget t (colGal g.val 0x20) 27 20 = (x.sw.getD 0).toNat ∧ t.cores = s.cores ∧ t.mem = s.mem ∧
    (∀ k, k ≠ g → t.gal[k] = s.gal[k])) ∧
  (∀ (s : State) (g : Gal),
    let x := s.gal[g].stepSeal
    let teff := x.tc + fget s (colGal g.val 0x18) 13 0 * 1000
    (now s ≤ teff → teff < 2 ^ 64 → rising (s.dev.map Prod.fst) = true → (sealGathered s g).gal[g].stepSeal = { x with gathered := true } ∧
      rget (sealGathered s g) (colGal g.val 0x28) = BitVec.ofNat 64 teff) ∧
    (teff < now s → x.idleAfter = false → (sealGathered s g).gal[g].stepSeal.st = .dirty ∧
      (sealGathered s g).gal[g].stepSeal.reason = x.reason ||| 8)) ∧
  (∀ (p : PortId) (pkt : Packet) (s : State),
    let s0 := { s with inbox := s.inbox.erase (p, pkt) }
    let g := pkt.gallery
    exec (.mirrorWriteReceive p pkt) s
      = .next (if isOpen s0 g then mirrorDrain s0 g (s.gal[g].mrx.waiting ++ [pkt]) else s0)) ∧
  (∀ (s : State) (g : Gal) (pkt : Packet) (l : List Packet),
    let size := fget s (colGal g.val 0x30) 39 17 * 131072
    let off := bits pkt.w3 47 0
    let half := bit pkt.w3 62
    let copy := isCopy s g pkt
    let fits : Prop := off + pkt.payload.length ≤ size ∧ off < size ∧ off % 64 = 0
    let dst := if copy then fget s (colGal g.val 0x38) 47 0 + off
      else fget s (colGal g.val 0x40) 47 0 + (if half then size else 0) + off
    let hx := if half then { s.gal[g].mrx with half1 := none } else { s.gal[g].mrx with half0 := none }
    let cx := { s.gal[g].mrx with accept := s.gal[g].mrx.accept.map (fun a => (a.1, a.2.1, now s)) }
    let keep := fun (l : List Packet) => modGal s g (fun y => { y with mrx := { y.mrx with waiting := l } })
    let waits : Prop := bit pkt.w3 63 = false ∧ fits ∧ translate s g dst true = .migrating
    mirrorDrain s g [] = keep [] ∧
    (waits → mirrorDrain s g (pkt :: l) = addStall (keep (pkt :: l)) (.slice 0) g dst true false 18) ∧
    (¬ waits → mirrorDrain s g (pkt :: l) = mirrorDrain (mirrorTake s g pkt) g l) ∧
    (bit pkt.w3 63 = false →
      (¬ fits ∨ (∀ pa, translate s g dst true ≠ .ok pa) → mirrorTake s g pkt = mirrorAck s g pkt true) ∧
      (fits → ∀ pa, translate s g dst true = .ok pa → mirrorTake s g pkt = mirrorAck
        (modGal { s with mem := storeLines s.mem pa pkt.payload pkt.poison } g
          (fun y => { y with mrx := if copy then cx else hx })) g pkt false)) ∧
    (bit pkt.w3 63 = true → copy = false → ∃ t, mirrorTake s g pkt = mirrorAck t g pkt false ∧
      rget t (colGal g.val 0x50) = mkWord [(32, pkt.type0), (1, if half then 1 else 0), (0, 1)] ∧
      (half = true → t.gal[g].mrx.half1 = some (BitVec.ofNat 32 pkt.type0) ∧ t.gal[g].mrx.half0 = s.gal[g].mrx.half0) ∧
      (half = false → t.gal[g].mrx.half0 = some (BitVec.ofNat 32 pkt.type0) ∧ t.gal[g].mrx.half1 = s.gal[g].mrx.half1) ∧
      t.mem = s.mem ∧ t.cores = s.cores) ∧
    (bit pkt.w3 63 = true → copy = true → ∀ tag step since, s.gal[g].mrx.accept = some (tag, step, since) →
      mirrorTake s g pkt = mirrorAck (complete (modGal s g (fun y => { y with mrx := { y.mrx with accept := none } }))
        .mgmt tag 0x35 .ok (step.setWidth 64) 0 0) g pkt false)) ∧
  (∀ (p : PortId) (pkt : Packet) (s : State),
    let s0 := { s with inbox := s.inbox.erase (p, pkt) }
    let g := pkt.gallery
    let i : Instr := .mirrorAckReceive p pkt
    let echo := pkt.w3 &&& ~~~((1 : Word) <<< 61)
    let tx := fun (spare : Bool) => if spare then s.gal[g].mcp else s.gal[g].mtx
    let answers := fun (x : MirrorTx) => x.running = true ∧ ∃ u ∈ x.unacked, u.pkt.type0 = pkt.type0 ∧ u.pkt.w3 = echo
    (¬ answers (tx false) → ¬ answers (tx true) → exec i s = .next s0) ∧
    (∀ spare : Bool, answers (tx spare) → (spare = true → ¬ answers (tx false)) →
      (bit pkt.w3 61 = true → exec i s = .next (mirrorFail s0 g spare)) ∧
      (bit pkt.w3 61 = false →
        exec i s = .next (mirrorPump (modTx s0 g spare (fun y => { y with unacked := [] })) g spare)))) ∧
  (∀ (s : State) (g : Gal) (spare : Bool),
    let x := if spare then s.gal[g].mcp else s.gal[g].mtx
    let dst := if spare then wMinus s g else wPlus s g
    let hb := if x.half then 1 else 0
    let k := min 2048 (x.size - x.next)
    let src := (if spare then mirrorRx s g + hb * x.size else mirrorSrc s g) + x.next
    let ended := fun (y : MirrorTx) => { y with running := false, unacked := [], commitSent := false }
    (x.running = false ∨ x.unacked ≠ [] → mirrorPump s g spare = s) ∧
    (x.running = true → x.unacked = [] → x.next < x.size → translate s g src false = .migrating →
      mirrorPump s g spare = addStall s (.slice 0) g src false false (if spare then 17 else 16)) ∧
    (x.running = true → x.unacked = [] → x.next < x.size → virtRead s g src k = none → translate s g src false ≠ .migrating →
      mirrorPump s g spare = mirrorFail s g spare) ∧
    (∀ bs psn, x.running = true → x.unacked = [] → x.next < x.size → virtRead s g src k = some (bs, psn) →
      let p := mkPacket s g 5 dst x.step.toNat (mkWord [(62, hb), (0, x.next)]) bs psn
      mirrorPump s g spare = inject (modTx s g spare (fun y => { y with next := x.next + k, unacked := [⟨p, 0⟩] })) p) ∧
    (x.running = true → x.unacked = [] → x.size ≤ x.next → x.commitSent = false →
      let p := mkPacket s g 5 dst x.step.toNat (mkWord [(63, 1), (62, hb), (0, x.size)]) [] 0
      mirrorPump s g spare = inject (modTx s g spare (fun y => { y with commitSent := true, unacked := [⟨p, 0⟩] })) p) ∧
    (x.running = true → x.unacked = [] → x.size ≤ x.next → x.commitSent = true → mirrorPump s g spare = mirrorDone s g spare) ∧
    (∀ f, modTx s g spare f = modGal s g (fun y => if spare then { y with mcp := f y.mcp } else { y with mtx := f y.mtx })) ∧
    (spare = true →
      mirrorDone s g true = complete (modTx s g true ended) .mgmt x.tag 0x34 .ok 0 0 0 ∧
      mirrorFail s g true = complete (note (modTx s g true ended) { kind := 0x19, cls := 0, unit := 4, gal := some g })
        .mgmt x.tag 0x34 .badState 1 0 0) ∧
    (spare = false → rising (s.dev.map Prod.fst) = true →
      (mirrorDone s g false).gal[g].mtx = { ended x with last := some x.half } ∧
      (s.gal[g].stepSeal.cleanWait = false →
        fget (mirrorDone s g false) (colGal g.val 0x48) 63 32 = x.step.toNat ∧
        bit (rget (mirrorFail s g false) (colGal g.val 0x48)) 2 = true) ∧
      (mirrorFail s g false).gal[g].mtx = ended x))

/-- Control registers and timed writes (R70, R345, R346). -/
def Obligations.ControlRegistersAndTimedWrites : Prop :=
  (∀ (n : CoreId) (op : CsrOp) (csr : BitVec 12) (sd sa : SReg) (s : State),
    let h : Hart := .core n
    let c := coreAt s n
    let k := csr.toNat
    let r : Instr := .csrr h sd csr
    let w : Instr := .csrw h op csr sa
    let v := getS h sa s
    let reads := fun (x : Word) => Gives h r s (setS h sd x (fell h s))
    let hidden : Prop := k = 0x010 ∨ k = 0x011 ∨ (0x018 ≤ k ∧ k ≤ 0x01F) ∨ k ∈ [0x103, 0x104, 0x20C, 0x30B, 0x30C]
    let low : Prop := k ≤ 0x00D ∨ hidden
    let block := if 0x100 ≤ k ∧ k < 0x200 then engReg n.val (8 * (k - 0x100))
      else if 0x200 ≤ k ∧ k < 0x300 then vecReg n.val (8 * (k - 0x200))
      else if 0x300 ≤ k ∧ k < 0x400 then rkgReg n.val (8 * (k - 0x300))
      else 0x05000000 + n.val * 0x1000 + 8 * (k - 0x400)
    let new := fun (old w1c : Word) => match op with
      | .write => v
      | .set => (old ||| v) &&& ~~~w1c
      | .clear => (old &&& ~~~v) &&& ~~~w1c
    (hidden → Gives h r s (takeExc (disarm s n) n { code := 2 } 7 true c.pc c.pc) ∧
      Gives h w s (takeExc (disarm s n) n { code := 2 } 7 true c.pc c.pc)) ∧
    (k = 0 → reads (mkWord [(12, if c.ctxerr then 1 else 0), (11, if c.badcmd then 1 else 0), (8, c.mq.length),
      (6, if c.dz then 1 else 0), (5, if c.preq then 1 else 0), (4, if c.late then 1 else 0), (0, c.state.code)])) ∧
    (k = 1 → reads c.fpctl) ∧ (k = 2 → reads c.ecause) ∧ (k = 3 → reads c.epc) ∧ (k = 4 → reads c.eaddr) ∧
    (k = 5 → reads c.einfo) ∧ (k = 6 → reads c.resumepc) ∧ (k = 7 → reads (c.waitlim.setWidth 64)) ∧
    (k = 8 → reads (if c.launchPend then 0 else c.launchat)) ∧
    (k = 9 → ∀ g, coreOwner s n = some g → reads (mkWord [(16, g.val), (0, n.val)])) ∧
    (k = 0x00A → reads (BitVec.ofNat 64 (now s))) ∧ (k = 0x00B → reads (BitVec.ofNat 64 (s.tb.count / 2 ^ 16 % 2 ^ 16))) ∧
    (k = 0x00C → reads (BitVec.ofNat 64 (s.clk - c.cycleBase))) ∧ (k = 0x00D → reads c.retired) ∧
    (¬ low → (k < 0x100 ∨ 0x440 ≤ k ∨ fields block = none) →
      Gives h r s (takeExc (disarm s n) n { code := 1 } 7 true c.pc c.pc) ∧
      Gives h w s (takeExc (disarm s n) n { code := 1 } 7 true c.pc c.pc)) ∧
    (∀ fs, 0x100 ≤ k → k < 0x440 → ¬ hidden → fields block = some fs → c.launchPend = false →
      Gives h r s (fell h (setS h sd (blockWord s block) (afterRead s block fs))) ∧
      Gives h w s (fell h (writeBlock s true block
        (new (blockWord s block) (fieldMask (fs.filter (fun f => decide (f.2.2 = .w1c))))) fs))) ∧
    (k = 0 →
      let x := new (mkWord [(12, if c.ctxerr then 1 else 0), (11, if c.badcmd then 1 else 0), (8, c.mq.length),
        (6, if c.dz then 1 else 0), (5, if c.preq then 1 else 0), (4, if c.late then 1 else 0), (0, c.state.code)]) 0x1850
      Gives h w s (modCore (fell h s) n (fun y => { y with
        ctxerr := c.ctxerr && !x.getLsbD 12, badcmd := c.badcmd && !x.getLsbD 11
        dz := c.dz && !x.getLsbD 6, late := c.late && !x.getLsbD 4 }))) ∧
    (k = 1 → let x := new c.fpctl 0xF00
      Gives h w s (modCore (fell h s) n (fun y => { y with
        fpctl := (c.fpctl &&& ~~~(x &&& 0xF00) &&& ~~~(3 : Word)) ||| (x &&& 3) }))) ∧
    (k = 7 → let x := bits (new (c.waitlim.setWidth 64) 0) 39 0
      (x = 0 ∨ 1000 ≤ x → Gives h w s (modCore (fell h s) n (fun y => { y with waitlim := BitVec.ofNat 40 x }))) ∧
      (x ≠ 0 → x < 1000 → Gives h w s (modCore (fell h s) n (fun y => { y with badcmd := true })))) ∧
    (k ∈ [2, 3, 4, 5, 6, 8, 9, 0x00A, 0x00B, 0x00C, 0x00D] → Gives h w s (fell h s))) ∧
  (∀ (m : Fin 4) (op : CsrOp) (csr : BitVec 12) (sd sa : SReg) (s : State),
    let h : Hart := .mgmt m
    let k := csr.toNat
    let pend := s.mgmt[m].launchPend
    (k = 8 → Gives h (.csrr h sd csr) s (setS h sd (if pend then 0 else s.mgmt[m].launchat) (fell h s))) ∧
    (k = 0x00A → Gives h (.csrr h sd csr) s (setS h sd (BitVec.ofNat 64 (now s)) (fell h s))) ∧
    (k = 0x00B → Gives h (.csrr h sd csr) s (setS h sd (BitVec.ofNat 64 (s.tb.count / 2 ^ 16 % 2 ^ 16)) (fell h s))) ∧
    (k = 8 →
      let v := getS h sa s
      let old : Word := if pend then 0 else s.mgmt[m].launchat
      let w := match op with
        | .write => v
        | .set => old ||| v
        | .clear => old &&& ~~~v
      Gives h (.csrw h op csr sa) s (setMgmt (fell h s) m
        { (fell h s).mgmt[m] with launchat := w, launchPend := decide (w ≠ 0) })) ∧
    (k ∈ [0x00A, 0x00B] → Gives h (.csrw h op csr sa) s (fell h s)) ∧
    (k ∉ [8, 0x00A, 0x00B] → pend = false →
      Gives h (.csrr h sd csr) s (report s { kind := 0x1A, cls := 5, unit := 13 }) ∧
      Gives h (.csrw h op csr sa) s (report s { kind := 0x1A, cls := 5, unit := 13 }))) ∧
  (∀ (i : Fin 8) (v : Word) (s : State),
    let r := fun (o : Nat) => 0x0B000000 + (0x100 + 0x20 * i.val + o)
    let target := (rget s (r 0)).toNat
    let ctl := r 0x18
    let soon : Prop := v.getLsbD 0 = true ∧ bit (rget s ctl) 0 = false ∧ target < now s + 4000
    let addr := fget s (r 8) 31 0
    let held := fun (m : Nat) => ({ slot := i.val, at_ := m, addr := BitVec.ofNat 64 addr, data := rget s (r 0x10) } : TimedWrite)
    (deviceRuns s = false → exec (.launchArm i v) s = .next s ∧ exec (.launchSlotSend i) s = .next s ∧
      exec (.launchWriteApply i) s = .next s) ∧
    (deviceRuns s = true → rising (s.dev.map Prod.fst) = true → ∃ t, exec (.launchArm i v) s = .next t ∧
      (¬ soon → bit (rget t ctl) 0 = v.getLsbD 0 ∧ t.tb = s.tb ∧
        (∀ k ∈ [1, 2, 3], bit (rget t ctl) k = (bit (rget s ctl) k && !v.getLsbD k))) ∧
      (soon → bit (rget t ctl) 0 = false ∧ bit (rget t ctl) 3 = true ∧
        (writable addr = true → bit (rget t ctl) 2 = true) ∧ (writable addr = false → bit (rget t ctl) 1 = true) ∧
        t.tb.held = s.tb.held ++ (if writable addr then [held (now s)] else [])) ∧
      (∀ o, o ≠ ctl → rget t o = rget s o) ∧ t.mem = s.mem ∧ t.cores = s.cores) ∧
    (deviceRuns s = true → bit (rget s ctl) 0 = false → exec (.launchSlotSend i) s = .next s) ∧
    (deviceRuns s = true → bit (rget s ctl) 0 = true → rising (s.dev.map Prod.fst) = true → ∃ t, exec (.launchSlotSend i) s = .next t ∧
      bit (rget t ctl) 0 = false ∧
      (writable addr = false → bit (rget t ctl) 1 = true ∧ t.tb.held = s.tb.held) ∧
      (writable addr = true → bit (rget t ctl) 2 = true ∧ t.tb.held = s.tb.held ++ [held target]) ∧
      (∀ o, o ≠ ctl → rget t o = rget s o) ∧ t.mem = s.mem ∧ t.cores = s.cores) ∧
    (deviceRuns s = true → (∀ t ∈ s.tb.held, t.slot ≠ i.val) → exec (.launchWriteApply i) s = .next s) ∧
    (deviceRuns s = true → ∀ t, s.tb.held = [t] → t.slot = i.val →
      let s1 := advanceTo s t.at_
      exec (.launchWriteApply i) s = .next ((writeReg { s1 with tb := { s1.tb with held := [] } } .curator t.addr.toNat t.data).getD
        { s1 with tb := { s1.tb with held := [] } })) ∧
    (∀ t u : TimedWrite, heldBefore s t u = true ↔
      heldCycle s t < heldCycle s u ∨ (heldCycle s t = heldCycle s u ∧ t.slot < u.slot)) ∧
    (∀ (t : TimedWrite) (k : Nat), s.tb.count < t.at_ * 2 ^ 32 → (heldCycle s t = k ↔
      k ≠ 0 ∧ s.tb.count + (k - 1) * max 1 (fget s (tmbReg 0x20) 39 0) < t.at_ * 2 ^ 32 ∧
        t.at_ * 2 ^ 32 ≤ s.tb.count + k * max 1 (fget s (tmbReg 0x20) 39 0))) ∧
    (∀ t ∈ s.tb.held, ((s.tb.held.map (fun u => (heldCycle s u, u.slot))).Nodup) →
      let l := dueBefore s t
      l.Pairwise (fun a b => heldBefore s a b = true) ∧ (∀ u, u ∈ l ↔ u = t ∨ (u ∈ s.tb.held ∧ heldBefore s u t = true)) ∧
      (deviceRuns s = true → s.tb.held.find? (fun u => decide (u.slot = i.val)) = some t →
        exec (.launchWriteApply i) s = .next (l.foldl (fun s u => applyHeld (advanceTo s u.at_) u) s))))

/-- The register space (R10 to R15, R46, R47). `regOut` is the model's own (log entry 92). -/
def Obligations.RegisterAccess : Prop :=
  (∀ (a : Accessor) (off : BitVec 32) (v : Word) (s : State),
    (deviceRuns s = false → exec (.registerWrite a off v) s = .next s ∧ exec (.rcRegisterRead a off) s = .next s) ∧
    (deviceRuns s = true → (reaches s a off.toNat true = false ∨ (portOf off.toNat = none ∧ fields off.toNat = none)) →
      exec (.registerWrite a off v) s = .next s) ∧
    (deviceRuns s = true → (reaches s a off.toNat false = false ∨ (portOf off.toNat = none ∧ fields off.toNat = none)) →
      exec (.rcRegisterRead a off) s = .next { s with regOut := 0 }) ∧
    (∀ n, coreOf off.toNat = some n → coreOwner s n = none → exec (.registerWrite a off v) s = .next s)) ∧
  (∀ (n : CoreId) (off : Nat) (write : Bool) (s : State), off < 2 ^ 32 →
    let r := off % 0x1000
    let own := fun (b : Nat) => off / 0x1000 = b / 0x1000 + n.val
    reaches s .curator off write = true ∧
    (reaches s (.ctx n) off write = true ↔
      (own 0x02000000 ∧ r ≠ 0x18 ∧ r ≠ 0x20) ∨ (own 0x03000000 ∧ r ≠ 0x60) ∨ (own 0x04000000 ∧ r ≠ 0x58 ∧ r ≠ 0x60) ∨
      own 0x05000000 ∨ (off / 0x1000000 = 0x0F ∧ write = false ∧ coreOwner s n = some (Fin.ofNat 8 (off / 0x1000 % 8)) ∧
        (r = 0 ∨ r = 0x60 ∨ r = 0x68)))) ∧
  (∀ (off : BitVec 32) (fs : List Fld) (v : Word) (s : State),
    let o := off.toNat
    let b := o / 0x1000000
    let kept : Prop := b ∈ [0x02, 0x03, 0x10, 0x11]
    deviceRuns s = true → fields o = some fs → portOf o = none →
      (kept → (∀ n, coreOf o = some n → coreOwner s n ≠ none) →
        exec (.registerWrite .curator off v) s = .next (writeStored s o v fs)) ∧
      exec (.rcRegisterRead .curator off) s = .next { afterRead s o fs with regOut := blockWord s o } ∧
      (kept → rising (s.dev.map Prod.fst) = true → ∀ i < 64, (rget (afterRead s o fs) o).getLsbD i =
        ((rget s o).getLsbD i && !decide (∃ f ∈ fs, f.2.2 = .rc ∧ f.2.1 ≤ i ∧ i ≤ f.1)))) ∧
  (∀ (off : Nat) (fs : List Fld) (w : Word) (s : State), fields off = some fs → rising (s.dev.map Prod.fst) = true →
    let t := writeStored s off w fs
    let illegal := fun (f : Fld) => fieldLegal s off f.2.1 (bits w f.1 f.2.1) w = false
    (wholeBlock off = true → (∃ f ∈ fs, f.2.2 = .rw ∧ illegal f) → t = refused s off) ∧
    ((wholeBlock off = true → ∀ f ∈ fs, f.2.2 = .rw → ¬ illegal f) →
      (∀ f ∈ fs,
        (f.2.2 = .rw → ¬ illegal f → bits (rget t off) f.1 f.2.1 = bits w f.1 f.2.1) ∧
        (f.2.2 = .rw → illegal f → bits (rget t off) f.1 f.2.1 = bits (rget s off) f.1 f.2.1) ∧
        (f.2.2 = .w1c → (f.1 = f.2.1 → bits (rget t off) f.1 f.2.1 =
          if bits w f.1 f.2.1 = 1 then 0 else bits (rget s off) f.1 f.2.1)) ∧
        (f.2.2 = .rwl → isLocked s (lockGal off f.2.1) = true → bits (rget t off) f.1 f.2.1 = bits (rget s off) f.1 f.2.1 ∧
          bit (rget t (glyReg (lockGal off f.2.1).val 0)) 14 = true) ∧
        (f.2.2 = .rwl → isLocked s (lockGal off f.2.1) = false → ¬ illegal f →
          bits (rget t off) f.1 f.2.1 = bits w f.1 f.2.1) ∧
        (f.2.2 = .rc ∨ f.2.2 = .wo → bits (rget t off) f.1 f.2.1 = bits (rget s off) f.1 f.2.1)) ∧
      (∀ i < 64, (∀ f ∈ fs, ¬ (f.2.1 ≤ i ∧ i ≤ f.1)) → (rget t off).getLsbD i = (rget s off).getLsbD i) ∧
      t.mem = s.mem ∧ t.cores = s.cores ∧
      ((∀ f ∈ fs, (f.2.2 = .rw → ¬ illegal f) ∧ (f.2.2 = .rwl → ¬ illegal f ∧ isLocked s (lockGal off f.2.1) = false)) →
        ∀ o, o ≠ off → rget t o = rget s o))) ∧
  (∀ (g : Gal) (p : PortId) (n : CoreId) (q : Fin 2) (k : Fin 16) (sl : Fin 4) (f : Fin 9) (v : Word) (s : State),
    deviceRuns s = true →
    let w := fun (o : Nat) (x : Nat) => exec (.registerWrite .curator (BitVec.ofNat 32 o) (BitVec.ofNat 64 x)) s
    w (glyReg g.val 8) 1 = exec (.glyCtlOpen g) s ∧ w (glyReg g.val 8) 2 = exec (.glyCtlRearm g) s ∧
    w (glyReg g.val 8) 3 = exec (.glyCtlNextgen g) s ∧ w (glyReg g.val 8) 4 = exec (.glyCtlComputeReset g) s ∧
    w (glyReg g.val 8) 5 = exec (.glyCtlGalleryReset g) s ∧
    w (lnkReg p.val 8) 1 = exec (.lnkEnable p) s ∧ w (lnkReg p.val 8) 2 = exec (.lnkDisable p) s ∧
    w (lnkReg p.val 8) 3 = exec (.lnkRetrain p) s ∧ w (lnkReg p.val 8) 4 = exec (.lnkFulltrain p) s ∧
    w (lnkReg p.val 8) 5 = exec (.lnkRetire p) s ∧
    w (fmpReg 8) 1 = exec (.fmpMap {}) s ∧ w (fmpReg 8) 2 = exec (.fmpUnmap {}) s ∧ w (fmpReg 8) 3 = exec (.fmpProtect {}) s ∧
    w (fmpReg 8) 4 = exec (.fmpMigrate {}) s ∧ w (fmpReg 8) 5 = exec (.fmpZero {}) s ∧ w (fmpReg 8) 6 = exec (.fmpRetire {}) s ∧
    w (fmpReg 8) 7 = exec (.fmpRead {}) s ∧ w (fmpReg 8) 8 = exec (.fmpLookup {}) s ∧
    w (celReg k.val 8) (16 * k.val + 1) = exec (.celFailCh k k) s ∧ w (celReg k.val 8) 2 = exec (.celRebuild k) s ∧
    w (celReg k.val 8) 3 = exec (.celOffline k) s ∧
    (coreOwner s n ≠ none → w (rkgReg n.val (0x58 + 8 * q.val)) 1 = exec (.rkgResume n q) s ∧
      w (rkgReg n.val (0x58 + 8 * q.val)) 2 = exec (.rkgFail n q) s ∧
      w (rkgReg n.val (0x58 + 8 * q.val)) 3 = exec (.rkgKill n q) s) ∧
    w (colSlice sl.val 0x10) 1 = exec (.colSliceResume sl) s ∧ w (colSlice sl.val 0x10) 2 = exec (.colSliceFail sl) s ∧
    w (colGal g.val 8) (65536 * (v.toNat % 65536) + 1) = exec (.colQueueKill g (v.setWidth 16)) s ∧
    w (0x108 + 0x40 * f.val) 1 = exec (.frqPop f) s ∧ w (0x108 + 0x40 * f.val) 2 = exec (.frqResolve f) s ∧
    w 8 1 = exec .curCtlChipReset s ∧ w 0x0C000030 1 = exec .crpClear s ∧ w 0x0C000030 2 = exec .crpUnpin s ∧
    w (0x01000000 + 0x8000 * n.val + 8 * 0x11) 1 = exec (.ctxPreempt n) s ∧
    w (0x01000000 + 0x8000 * n.val + 8 * 0x11) 2 = exec (.ctxRestore n) s ∧
    w (0x01000000 + 0x8000 * n.val + 8 * 0x11) 3 = exec (.ctxResume n) s ∧
    w (0x01000000 + 0x8000 * n.val + 8 * 0x11) 4 = exec (.ctxKill n) s)

/-- Context control (R66 to R70). -/
def Obligations.ContextControl : Prop :=
  (∀ (n : CoreId) (s : State),
    let c := coreAt s n
    let a := c.ctxpa.toNat
    let bad := modCore s n (fun c => { c with badcmd := true })
    let err := modCore s n (fun c => { c with ctxerr := true })
    let place : Prop := a % 0x80000 = 0 ∧ a < 2 ^ 41 ∧ ∃ g, coreOwner s n = some g ∧ groupOwner s (a / 2 ^ 37) = some g
    let runs : Prop := c.state = .run ∨ c.state = .wait
    let may : Prop := runs ∨ c.state = .stopped ∨ c.state = .halted
    let w := fun (o : Nat) => mem64 s.mem (a + o)
    let image : Prop := place ∧ bits (w 0) 15 0 = 1 ∧ bits (w 0x10) 20 16 = 0 ∧ s.mem.anyPoison a 0x10000 = false ∧
      ∃ g, coreOwner s n = some g ∧ bits (w 0) 26 24 = g.val ∧ w 8 = gen s g
    let resumes : Prop := (c.state = .stopped ∨ c.state = .halted) ∧ bits c.ecause 7 0 = 0
    let owned : Prop := coreOwner s n ≠ none
    let ris : Prop := rising (s.dev.map Prod.fst) = true
    (¬ owned → ∀ i ∈ [Instr.ctxPreempt n, .ctxRestore n, .ctxResume n, .ctxKill n], exec i s = .next s) ∧
    (owned → ¬ may → exec (.ctxPreempt n) s = .next bad) ∧
    (owned → may → ¬ place → exec (.ctxPreempt n) s = .next err) ∧
    (may → place → ∃ t, exec (.ctxPreempt n) s = .next t ∧ t.mem = s.mem ∧ (∀ m, m ≠ n → coreAt t m = coreAt s m) ∧
      (coreAt t n).state = .saving ∧ (coreAt t n).preq = true ∧ (coreAt t n).hold = none ∧
      (coreAt t n).resumepc = (if runs then c.pc else c.resumepc) ∧ (∀ q : Fin 2, (coreAt t n).rq[q] = { c.rq[q] with held := true }) ∧
      (coreAt t n).s = c.s ∧ (coreAt t n).v = c.v ∧ (coreAt t n).pc = c.pc ∧ (coreAt t n).mq = c.mq ∧ (coreAt t n).vat = c.vat) ∧
    (∀ ue, c.state ≠ .saving → exec (.contextSaveComplete n ue) s = .next s) ∧
    (∀ ue, c.state = .saving → c.mq.length ≤ 4 → (∀ ch : Fin 4, c.chk[ch].part.length ≤ 128) → ∃ t : State,
      coreAt t n = { c with state := .saved, preq := false } ∧ (∀ m, m ≠ n → coreAt t m = coreAt s m) ∧ t.dev = s.dev ∧
      (∀ x, x < a ∨ a + 0x80000 ≤ x → t.mem.byte x = s.mem.byte x) ∧
      bits (mem64 t.mem a) 15 0 = 1 ∧ bits (mem64 t.mem a) 23 16 = n.val ∧
      bits (mem64 t.mem (a + 0x10)) 20 16 = ue.toNat ∧ mem64 t.mem (a + 0x18) = BitVec.ofNat 64 (now s) ∧
      (ue = 0 → exec (.contextSaveComplete n ue) s = .next t) ∧
      (ue ≠ 0 → ∀ g, coreOwner s n = some g →
        let u := sealMark (appraise { t with free := t.free + 0x10000 } (0x110 + n.val / 8) 1024) g 4 none
        exec (.contextSaveComplete n ue) s = .next (report u (saveErr u n ue)))) ∧
    (owned → c.state ≠ .empty → exec (.ctxRestore n) s = .next bad) ∧
    (owned → c.state = .empty → ¬ image → exec (.ctxRestore n) s = .next err) ∧
    (c.state = .empty → image → exec (.ctxRestore n) s = .next (modCore s n (fun c => { c with state := .restoring }))) ∧
    (c.state ≠ .restoring → exec (.contextRestoreComplete n) s = .next s) ∧
    (c.state = .restoring → ¬ image → exec (.contextRestoreComplete n) s =
      .next (modCore s n (fun c => { c with state := .empty, ctxerr := true }))) ∧
    (c.state = .restoring → image → ∃ t, exec (.contextRestoreComplete n) s = .next t ∧ t.mem = s.mem ∧
      (coreAt t n).state = (if bits (w 0x10) 3 0 = 4 then .halted else .stopped) ∧ (coreAt t n).hold = none ∧
      (coreAt t n).ctxpa = c.ctxpa ∧ (∀ m, m ≠ n → coreAt t m = coreAt s m)) ∧
    (owned → ¬ resumes → exec (.ctxResume n) s = .next bad) ∧
    (owned → resumes → (∀ q : Fin 2, c.rq[q].reload = false) → ∃ t, exec (.ctxResume n) s = .next t ∧ t.mem = s.mem ∧ t.dev = s.dev ∧
      (∀ m, m ≠ n → coreAt t m = coreAt s m) ∧
      let now' : Prop := c.launchPend = true ∧ c.launchat.toNat ≤ now s
      coreAt t n = { c with
        pc := c.resumepc, hold := none, state := if c.launchPend = true ∧ now s < c.launchat.toNat then .wait else .run
        launchPend := c.launchPend && decide (now s < c.launchat.toNat), launchat := if now' then 0 else c.launchat
        late := c.late || (c.launchPend && decide (c.launchat.toNat ≤ now s))
        rq := c.rq.map (fun x => { x with held := false }) }) ∧
    (owned → c.state = .empty → exec (.ctxKill n) s = .next bad) ∧
    (c.state ≠ .empty → tornDown s n = false → ∃ t, exec (.ctxKill n) s = .next t ∧ (coreAt t n).state = .empty ∧
      (coreAt t n).mq = [] ∧ (coreAt t n).hold = none ∧ (coreAt t n).launchPend = false ∧ (coreAt t n).launchat = 0 ∧
      (coreAt t n).s = c.s ∧ (coreAt t n).vat = c.vat ∧ (∀ m, m ≠ n → coreAt t m = coreAt s m) ∧
      (∀ q : Fin 2, (coreAt t n).rq[q].held = false ∧
        (ris → doneCount s n q ≤ enqCount s n q → enqCount s n q ≤ doneCount s n q + 256 →
          doneCount t n q = enqCount s n q ∧ enqCount t n q = enqCount s n q)))) ∧
  (∀ (s : State) (n : CoreId) (q : Fin 2), (coreAt s n).rq[q].reload = true →
    let x := (coreAt s n).rq[q]
    let e := parseEntry s.mem (ringSlot s n q (doneCount s n q))
    (∀ d, e = some d → rackChecks s n d 0 0 = [] →
      reloadQueue s n q = setRq s n q { x with reload := false, held := false, cur := some d }) ∧
    ((∀ d, e = some d → rackChecks s n d 0 0 ≠ []) → reloadQueue s n q = writeRecord s n q 5))

/-- The save image is faithful: a headline of Chapters 2 and 4. -/
def Obligations.SaveRestoreRoundTrip : Prop :=
  ∀ (n m : CoreId) (s t x u : State),
    let c := coreAt s n
    let d := coreAt u m
    let a := c.ctxpa.toNat
    (∀ i : Fin 8, c.q[i] &&& 0x80000007_07FFFFFF = c.q[i]) → c.fpctl &&& 0xF03 = c.fpctl → c.ecause &&& 0xF0FFF = c.ecause →
    rising (x.dev.map Prod.fst) = true → a < 2 ^ 41 → x.mem.anyPoison a 0x10000 = false →
    (∃ g, coreOwner s n = some g ∧ coreOwner x m = some g ∧ groupOwner x (a / 2 ^ 37) = some g ∧ gen x g = gen s g) →
    c.state = .saving → c.ctxpa.toNat % 0x80000 = 0 → c.s[0] = 0 → c.p[0] = 0 → c.mq.length ≤ 4 →
    (∀ ch : Fin 4, c.chk[ch].part.length ≤ 128) → (rget s (rkgReg n.val 0)).toNat % 2 ^ 14 = 0 →
    exec (.contextSaveComplete n 0) s = .next t →
    x.mem = t.mem → (coreAt x m).state = .restoring → (coreAt x m).ctxpa = c.ctxpa →
    exec (.contextRestoreComplete m) x = .next u →
    (d.s = c.s ∧ d.v = c.v ∧ d.vpsn = c.vpsn ∧ d.p = c.p ∧ d.t = c.t ∧ d.q = c.q ∧ d.pc = c.pc ∧ d.resumepc = c.resumepc) ∧
    (d.fpctl = c.fpctl ∧ d.ecause = c.ecause ∧ d.epc = c.epc ∧ d.eaddr = c.eaddr ∧ d.einfo = c.einfo ∧
      d.waitlim = c.waitlim ∧ d.launchat = c.launchat ∧ d.launchPend = c.launchPend ∧ d.retired = c.retired ∧
      d.ctxerr = c.ctxerr ∧ d.badcmd = c.badcmd ∧ d.dz = c.dz ∧ d.late = c.late) ∧
    (d.mq = c.mq ∧ d.stb = c.stb ∧ d.stbRec = c.stbRec ∧ d.stbPsn = c.stbPsn ∧ d.vat = c.vat ∧ d.vatPsn = c.vatPsn) ∧
    (∀ q : Fin 2, c.rq[q].row < 2 ^ 48 → c.rq[q].elem < 2 ^ 16 →
      d.rq[q].row = c.rq[q].row ∧ d.rq[q].elem = c.rq[q].elem ∧ d.rq[q].poisoned = c.rq[q].poisoned ∧
      d.rq[q].reject = min c.rq[q].reject 127 ∧ d.rq[q].tfault = c.rq[q].tfault ∧ d.rq[q].mstall = c.rq[q].mstall ∧
      d.rq[q].reload = (c.rq[q].cur.isSome || c.rq[q].reload)) ∧
    (∀ ch : Fin 4, d.chk[ch].ctl = c.chk[ch].ctl &&& 0xFFFFFFFFFFFF3FFC ∧ d.chk[ch].poly = c.chk[ch].poly ∧
      d.chk[ch].init = c.chk[ch].init ∧ d.chk[ch].xorout = c.chk[ch].xorout) ∧
    (∀ o ∈ [8, 0x10], rget u (engReg m.val o) = rget s (engReg n.val o) &&& 0xFFFFFFFF) ∧
    (∀ o ∈ [8, 0x10, 0x18, 0x20, 0x28, 0x30, 0x38, 0x40, 0x48, 0x58],
      rget u (vecReg m.val o) = rget s (vecReg n.val o) &&& 0xFFFFFFFF) ∧
    rget u (vecReg m.val 0x50) = rget s (vecReg n.val 0x50) &&& 0xFF ∧
    (∀ o ∈ [8, 0x10], rget u (rkgReg m.val o) = rget s (rkgReg n.val o) &&& 0xC0FFFF0F) ∧
    (∀ o ∈ [0x18, 0x20, 0x28, 0x30], rget u (rkgReg m.val o) = rget s (rkgReg n.val o) &&& 0xFFFFFFFFFFFF) ∧
    (∀ o ∈ [0x48, 0x50], rget u (rkgReg m.val o) = rget s (rkgReg n.val o) &&& 0x8000FFFFFFFFFFFF)

/-- The Frame Map's commands (Table 8-5). -/
def Obligations.FrameMapCommands : Prop :=
  ∀ (s : State) (err : FmapErr),
    let a := rget s 0x06000010
    let b := rget s 0x06000018
    let busyNow : Prop := s.clk < s.walker.cmdEnd
    -- The command has begun, for a time of at most 2 µs; it has read the lines that it reads.
    let began : State := { s with free := s.free + 1, walker := { s.walker with
      cmdEnd := s.clk + (Config.freeWord s.free).toNat % 1881 } }
    let seen := fun (reads : Nat → Bool) => readStruct began reads err
    let lost := fun (reads : Nat → Bool) => structLost (seen reads) reads = true
    let stat := fun (u : State) (k : Nat) => rset u 0x06000000 (setBits (rget u 0x06000000) 31 24 k)
    let only := fun (t : State) => t = { s with dev := t.dev, walker := t.walker, free := s.free + 1 }
    let f := bits a 23 0
    let n := bits b 20 0
    let e := frameEntry s f
    let g : Gal := Fin.ofNat 8 (bits b 33 31)
    let v := bits b 30 0
    -- The lines that each command reads.
    let one := fun (l : Nat) => decide (l = f / 8)
    let chainRead := fun (h l : Nat) => decide (l = 2 ^ 21 + h / 16) || (chainOf s h).any (fun i => decide (l = i / 8))
    let mapRead := fun (l : Nat) => one l || chainRead (anchorIndex g.val v) l
    let unmapRead := fun (l : Nat) => one l || (feValid e && chainRead (entryHash e) l)
    let lookRead := walkReads s (bits b 33 31) v
    let zeroRead := fun (l : Nat) => decide (f / 8 ≤ l ∧ l ≤ (f + n - 1) / 8)
    let others := fun (t : State) => ∀ i < 2 ^ 24, i ≠ f → feValid (frameEntry t i) = feValid (frameEntry s i) ∧
      feWrite (frameEntry t i) = feWrite (frameEntry s i) ∧ feRetired (frameEntry t i) = feRetired (frameEntry s i) ∧
      feZeroed (frameEntry t i) = feZeroed (frameEntry s i)
    -- MAP: reasons in order
    let mapBad : Prop := 2 ^ 25 ≤ a.toNat ∨ 2 ^ 34 ≤ b.toNat
    let chain := (chainOf s (anchorIndex g.val v)).length
    let may : Prop := ¬mapBad ∧ feRetired e = false ∧ feZeroed e = true ∧ walkFrame s g.val v = none ∧ groupOwner s (f / 2 ^ 20) = some g ∧ chain < 16
    (busyNow → ∀ c ∈ [Instr.fmpMap err, .fmpUnmap err, .fmpProtect err, .fmpMigrate err, .fmpZero err, .fmpRetire err,
      .fmpRead err, .fmpLookup err], exec c s = .next (rset s 0x06000000 (setBits (rget s 0x06000000) 15 15 1))) ∧
    (¬busyNow →
    (mapBad → exec (.fmpMap err) s = .next (stat began 9)) ∧
    (¬mapBad → lost mapRead → exec (.fmpMap err) s = .next (stat (seen mapRead) 10)) ∧
    (¬mapBad → ¬lost mapRead →
      (feRetired e = true → exec (.fmpMap err) s = .next (stat (seen mapRead) 2)) ∧
      (feRetired e = false → feZeroed e = false → exec (.fmpMap err) s = .next (stat (seen mapRead) 1)) ∧
      (feRetired e = false → feZeroed e = true → walkFrame s g.val v ≠ none → exec (.fmpMap err) s = .next (stat (seen mapRead) 3)) ∧
      (feRetired e = false → feZeroed e = true → walkFrame s g.val v = none →
        groupOwner s (f / 2 ^ 20) ≠ some g → exec (.fmpMap err) s = .next (stat (seen mapRead) 4)) ∧
      (feRetired e = false → feZeroed e = true → walkFrame s g.val v = none →
        groupOwner s (f / 2 ^ 20) = some g → 16 ≤ chain → exec (.fmpMap err) s = .next (stat (seen mapRead) 5))) ∧
    (may → ¬lost mapRead → FrameMapOk s → feValid e = false → ∃ t, exec (.fmpMap err) s = .next t ∧ only t ∧
      t.dev = (stat (seen mapRead) 0).dev ∧ FrameMapOk t ∧
      walkFrame t g.val v = some f ∧ OtherWalks s t g.val v ∧ others t ∧
      feWrite (frameEntry t f) = bit a 24 ∧ feZeroed (frameEntry t f) = false ∧ feMigrating (frameEntry t f) = false) ∧
    -- UNMAP, PROTECT, RETIRE
    (∀ c : Instr, c = .fmpUnmap err ∨ c = .fmpProtect err →
      let w := if c = .fmpProtect err then 25 else 24
      let reads := if c = .fmpProtect err then one else unmapRead
      let bad : Prop := 2 ^ w ≤ a.toNat ∨ b ≠ 0
      (bad → exec c s = .next (stat began 9)) ∧
      (¬bad → lost reads → exec c s = .next (stat (seen reads) 10)) ∧
      (¬bad → ¬lost reads → feValid e = false → exec c s = .next (stat (seen reads) 6)) ∧
      (¬bad → ¬lost reads → feValid e = true → feMigrating e = true → exec c s = .next (stat (seen reads) 7)) ∧
      (¬bad → ¬lost reads → feValid e = true → feMigrating e = false → FrameMapOk s → f ∈ chainOf s (entryHash e) →
        ∃ t, exec c s = .next t ∧ only t ∧ t.dev = (stat (seen reads) 0).dev ∧ FrameMapOk t ∧ others t ∧ OtherWalks s t (feGallery e) (feVfn e) ∧
          (c = .fmpUnmap err → walkFrame t (feGallery e) (feVfn e) = none ∧ feValid (frameEntry t f) = false ∧
            feZeroed (frameEntry t f) = feZeroed e) ∧
          (c = .fmpProtect err → walkFrame t (feGallery e) (feVfn e) = some f ∧ feWrite (frameEntry t f) = bit a 24 ∧
            feRetired (frameEntry t f) = feRetired e ∧ feZeroed (frameEntry t f) = feZeroed e))) ∧
    (let bad : Prop := 2 ^ 24 ≤ a.toNat ∨ b ≠ 0;
      (bad → exec (.fmpRetire err) s = .next (stat began 9) ∧ exec (.fmpRead err) s = .next (stat began 9)) ∧
      (¬bad → lost one → exec (.fmpRetire err) s = .next (stat (seen one) 10) ∧ exec (.fmpRead err) s = .next (stat (seen one) 10)) ∧
      (¬bad → ¬lost one → feValid e = true ∨ feRetired e = true → exec (.fmpRetire err) s = .next (stat (seen one) 8)) ∧
      (¬bad → ¬lost one → feValid e = false → feRetired e = false → FrameMapOk s → ∃ t, exec (.fmpRetire err) s = .next t ∧ only t ∧
        t.dev = (stat (seen one) 0).dev ∧ FrameMapOk t ∧ others t ∧ feRetired (frameEntry t f) = true ∧ feZeroed (frameEntry t f) = false ∧
        ∀ (g' : Gal) (v' : Nat), v' < 2 ^ 31 → walkFrame t g'.val v' = walkFrame s g'.val v') ∧
      (¬bad → ¬lost one → exec (.fmpRead err) s = .next (stat (rset (seen one) 0x06000020 e) 0))) ∧
    -- LOOKUP
    (let bad : Prop := a ≠ 0 ∨ 2 ^ 34 ≤ b.toNat;
      let done := fun (r : Word) => exec (.fmpLookup err) s = .next (stat (rset (seen lookRead) 0x06000020 r) 0)
      (bad → exec (.fmpLookup err) s = .next (stat began 9)) ∧
      (¬bad → lost lookRead → exec (.fmpLookup err) s = .next (stat (seen lookRead) 10)) ∧
      (¬bad → ¬lost lookRead → walkFrame s g.val v = none → done 0) ∧
      (∀ i < 2 ^ 24, ¬bad → ¬lost lookRead → walkFrame s g.val v = some i → done (BitVec.ofNat 64 (2 ^ 63 + i)))) ∧
    -- ZERO
    (let gr := f / 2 ^ 20;
      let inside := fun (i : Nat) => f ≤ i ∧ i < f + n
      let bad : Prop := 2 ^ 24 ≤ a.toNat ∨ 2 ^ 21 ≤ b.toNat ∨ n = 0 ∨ 2 ^ 20 < n ∨ 2 ^ 20 < f % 2 ^ 20 + n
      let busy : Prop := bit (rget s (celReg gr 0)) 14 = true
      let free : Prop := f % 2 ^ 20 + n ≤ backedFrames s gr ∧ ∀ i, inside i → feValid (frameEntry s i) = false ∧ feRetired (frameEntry s i) = false
      (bad → exec (.fmpZero err) s = .next (stat began 9)) ∧
      (¬bad → lost zeroRead → exec (.fmpZero err) s = .next (stat (seen zeroRead) 10)) ∧
      (¬bad → ¬lost zeroRead → busy → exec (.fmpZero err) s = .next (stat (seen zeroRead) 7)) ∧
      (¬bad → ¬lost zeroRead → ¬busy → ¬free → exec (.fmpZero err) s = .next (stat (seen zeroRead) 8)) ∧
      (¬bad → ¬lost zeroRead → ¬busy → free → FrameMapOk s → ∃ t, exec (.fmpZero err) s = .next t ∧ t.mem = s.mem ∧ FrameMapOk t ∧
        t = { s with dev := t.dev, walker := t.walker, group := t.group, free := s.free + 1 } ∧
        t.dev = (fset (fset (seen zeroRead) (celReg gr 0) 14 14 1) 0x06000000 31 24 0).dev ∧
        look ⟨0, 0⟩ t.walker.zeros gr = ⟨f, n⟩ ∧ (∀ i, inside i → feZeroed (frameEntry t i) = false) ∧
        (∀ (g' : Gal) (v' : Nat), v' < 2 ^ 31 → walkFrame t g'.val v' = walkFrame s g'.val v')))) ∧
    (∀ gr : Fin 16,
      let z := look ⟨0, 0⟩ s.walker.zeros gr.val
      let inside := fun (i : Nat) => z.first ≤ i ∧ i < z.first + z.count
      -- The ZERO with which the Curator brings the group up ends with the retirements applied again.
      let first : Prop := s.group[gr].zeroDone = false ∧ s.prov.selfTest ≠ none
      let waits : Prop := z.count = 0 ∨ bit (rget s (celReg gr.val 0)) 11 = true
      (waits → exec (.zeroComplete gr) s = .next s) ∧
      (¬waits → FrameMapOk s → z.first / 2 ^ 20 = gr.val → z.first % 2 ^ 20 + z.count ≤ backedFrames s gr.val →
        ∃ t, (¬first → exec (.zeroComplete gr) s = .next t) ∧
          (first → exec (.zeroComplete gr) s = .next (reapply (modGroup t gr.val (fun x => { x with zeroDone := true })) gr.val)) ∧
          t = { s with dev := t.dev, walker := t.walker, mem := t.mem } ∧
          t.dev = (fset s (celReg gr.val 0) 14 14 0).dev ∧ look ⟨0, 0⟩ t.walker.zeros gr.val = ⟨0, 0⟩ ∧
          (∀ x, t.mem.byte x = if z.first * 2 ^ 17 ≤ x ∧ x < (z.first + z.count) * 2 ^ 17 then 0 else s.mem.byte x) ∧
          (∀ l, t.mem.isPoisoned l = if z.first * 2048 ≤ l ∧ l < (z.first + z.count) * 2048 then s.mem.deadAt (64 * l)
            else s.mem.isPoisoned l) ∧
          (∀ i, inside i → feValid (frameEntry t i) = feValid (frameEntry s i) ∧ feRetired (frameEntry t i) = feRetired (frameEntry s i) ∧
            (feValid (frameEntry s i) = false → feRetired (frameEntry s i) = false →
              (feZeroed (frameEntry t i) = true ↔ bit (rget s (celReg gr.val 0)) 13 = false)))))

/-- Walks and migrations (R253 to R258). -/
def Obligations.WalksAndMigrations : Prop :=
  (let ends := fun (u t : State) (k : Walk) (err : FmapErr) =>
    -- A walk ends in state `u`, having read its lines.
    let v := readStruct u (walkReads u k.gal.val (k.addr.toNat / 2 ^ 17 % 2 ^ 31)) err
    let x := translate v k.gal k.addr.toNat k.write
    let c := fincr v 0x06000028 63 0 1
    ((∃ pa, x = .ok pa) → t = c) ∧ (x = .unmapped ∨ x = .readOnly → t = fincr c 0x06000030 63 0 1) ∧
      (x = .migrating → t = addStall c k.req k.gal k.addr.toNat k.write false 0) ∧
      (x = .fmapUe → t.chipHold = some 0 ∧ ∃ e ∈ t.cr.general, bits e.ent.w0 55 48 = 0x0E);
   (∀ (r : WalkReq) (g : Gal) (addr : BitVec 48) (w : Bool) (err : FmapErr) (s : State),
    let room := (s.walker.walks.filter (fun k => k.started)).length < 64
    let u := { s with walker := { s.walker with nextId := s.walker.nextId + 1 } }
    let k := fun (b : Bool) => ({ id := s.walker.nextId, req := r, gal := g, addr := addr, write := w, started := b } : Walk)
    let later := fun (u : State) (b : Bool) => { u with walker := { u.walker with walks := u.walker.walks ++ [k b] } }
    ∃ t, exec (.translationWalk r g addr w err) s = .next t ∧
      (room → Config.freeBit s.free = true → ends { u with free := s.free + 1 } t (k true) err) ∧
      (room → Config.freeBit s.free = false → t = later { u with free := s.free + 1 } true) ∧
      (¬room → t = later u false)) ∧
   (∀ (id : Nat) (err : FmapErr) (s : State),
    ((∀ k ∈ s.walker.walks, k.started = true → k.id ≠ id) → exec (.walkOutcome id err.ce err.ueA err.ueB err.line) s = .next s) ∧
    (∀ k ∈ s.walker.walks, k.started = true → k.id = id → (∀ j ∈ s.walker.walks, j.id = id → j = k) →
      ∃ l t, exec (.walkOutcome id err.ce err.ueA err.ueB err.line) s = .next t ∧ (∀ j ∈ l, j.id ≠ id) ∧
        (∀ j ∈ s.walker.walks, j.id ≠ id → ∃ i ∈ l, i.id = j.id ∧ i.addr = j.addr ∧ i.gal = j.gal ∧ i.req = j.req) ∧
        ends { s with walker := { s.walker with walks := l } } t k err))) ∧
  -- What reading structure lines does.
  (∀ (s : State) (reads : Nat → Bool) (e : FmapErr),
    let t := readStruct s reads e
    t = { s with dev := t.dev, walker := { s.walker with badA := t.walker.badA, badB := t.walker.badB } } ∧
    (∀ l, l ∈ t.walker.badB ↔ l ∈ s.walker.badB ∨ (e.ueB = true ∧ reads e.line = true ∧ l = e.line)) ∧
    (∀ l, l ∈ t.walker.badA ↔ (l ∈ s.walker.badA ∨ (e.ueA = true ∧ reads e.line = true ∧ l = e.line)) ∧
      (reads l = true → l ∈ t.walker.badB)) ∧
    (structLost t reads = true ↔ ∃ l, reads l = true ∧ l ∈ t.walker.badA ∧ l ∈ t.walker.badB) ∧
    (rising (s.dev.map Prod.fst) = true →
      bits (rget t 0x06000038) 31 0 = min (bits (rget s 0x06000038) 31 0 + e.ce) (2 ^ 32 - 1) ∧
      bit (rget t 0x06000000) 13 = (bit (rget s 0x06000000) 13 || structLost t reads) ∧
      (s.walker.badA = [] → bits (rget t 0x06000038) 63 32 = min (bits (rget s 0x06000038) 63 32 +
        if e.ueA = true ∧ reads e.line = true ∧ e.line ∉ t.walker.badB then 1 else 0) (2 ^ 32 - 1)))) ∧
  -- MIGRATE and its completion
  (∀ (s : State) (err : FmapErr),
    let a := rget s 0x06000010
    let b := rget s 0x06000018
    let began : State := { s with free := s.free + 1, walker := { s.walker with
      cmdEnd := s.clk + (Config.freeWord s.free).toNat % 1881 } }
    let reads := fun (l : Nat) => decide (l = bits a 23 0 / 8) || decide (l = bits b 23 0 / 8)
    let seen := readStruct began reads err
    let stat := fun (k : Nat) => rset seen 0x06000000 (setBits (rget seen 0x06000000) 31 24 k)
    let f := bits a 23 0
    let d := bits b 23 0
    let e := frameEntry s f
    let x := frameEntry s d
    let active := fun (i : Nat) => bit (rget s (0x06000080 + 8 * i)) 63 = true
    let full : Prop := ∀ i < 16, active i
    let bad : Prop := 2 ^ 24 ≤ a.toNat ∨ 2 ^ 24 ≤ b.toNat
    let owned : Prop := ∃ g : Gal, groupOwner s (d / 2 ^ 20) = some g ∧ g.val = feGallery e
    s.walker.cmdEnd ≤ s.clk →
    (bad → exec (.fmpMigrate err) s = .next (rset began 0x06000000 (setBits (rget began 0x06000000) 31 24 9))) ∧
    (¬bad → structLost seen reads = true → exec (.fmpMigrate err) s = .next (stat 10)) ∧
    (¬bad → structLost seen reads = false →
      (feValid e = false → exec (.fmpMigrate err) s = .next (stat 6)) ∧
      (feValid e = true → full ∨ feMigrating e = true → exec (.fmpMigrate err) s = .next (stat 7)) ∧
      (feValid e = true → feMigrating e = false → ¬full → feRetired x = true → exec (.fmpMigrate err) s = .next (stat 2)) ∧
      (feValid e = true → feMigrating e = false → ¬full → feRetired x = false → feZeroed x = false →
        exec (.fmpMigrate err) s = .next (stat 1)) ∧
      (feValid e = true → feMigrating e = false → ¬full → feRetired x = false → feZeroed x = true → ¬owned →
        exec (.fmpMigrate err) s = .next (stat 4))) ∧
    (¬bad → structLost seen reads = false → feValid e = true → feMigrating e = false → feRetired x = false → feZeroed x = true →
      owned → f ≠ d → FrameMapOk s →
      ∀ i < 16, ¬active i → (∀ j < i, active j) → ∃ t, exec (.fmpMigrate err) s = .next t ∧ FrameMapOk t ∧
        t = { s with dev := t.dev, free := s.free + 1, walker := { s.walker with
          entries := t.walker.entries, badA := t.walker.badA, badB := t.walker.badB, cmdEnd := t.walker.cmdEnd } } ∧
        t.dev = (fset (fset (rset seen (0x06000080 + 8 * i) (BitVec.ofNat 64 (2 ^ 63 + d * 2 ^ 24 + f))) 0x06000000 4 0
          (bits (rget s 0x06000000) 4 0 + 1)) 0x06000000 31 24 0).dev ∧
        feMigrating (frameEntry t f) = true ∧ feZeroed (frameEntry t d) = false ∧
        (∀ (g' : Gal) (v' : Nat), v' < 2 ^ 31 → walkFrame t g'.val v' = walkFrame s g'.val v') ∧
        (∀ j < 2 ^ 24, j ≠ f → j ≠ d → frameEntry t j = frameEntry s j))) ∧
  (∀ (i : Fin 16) (s : State),
    let r := rget s (0x06000080 + 8 * i.val)
    let f := bits r 23 0
    let d := bits r 47 24
    let e := frameEntry s f
    let freed := fset (fset s (0x06000080 + 8 * i.val) 63 63 0) 0x06000000 4 0 (bits (rget s 0x06000000) 4 0 - 1)
    (bit r 63 = false → exec (.migrationComplete i) s = .next s) ∧
    (bit r 63 = true → feValid e = false ∨ feMigrating e = false → exec (.migrationComplete i) s = .next freed) ∧
    (bit r 63 = true → feValid e = true → feMigrating e = true → FrameMapOk s → f ∈ chainOf s (entryHash e) → feValid (frameEntry s d) = false →
      zeroing s d = false → (∀ k ∈ s.walker.stalls, ¬(k.gal.val = feGallery e ∧ k.addr.toNat / 2 ^ 17 = feVfn e)) →
      (∀ y ∈ s.walker.timeouts, ¬(y.gal.map (fun g => g.val) = some (feGallery e) ∧ y.w3.toNat / 2 ^ 17 = feVfn e)) →
      ∃ t, exec (.migrationComplete i) s = .next t ∧ t = { s with dev := t.dev, walker := t.walker, mem := t.mem } ∧ FrameMapOk t ∧
        t.dev = (fset freed (0x06000080 + 8 * i.val) 62 62 (if s.mem.anyPoison (f * 2 ^ 17) (2 ^ 17) then 1 else 0)).dev ∧
        walkFrame t (feGallery e) (feVfn e) = some d ∧ OtherWalks s t (feGallery e) (feVfn e) ∧
        feWrite (frameEntry t d) = feWrite e ∧ feMigrating (frameEntry t d) = false ∧
        feValid (frameEntry t f) = false ∧ feMigrating (frameEntry t f) = false ∧ feZeroed (frameEntry t f) = feZeroed e ∧
        (∀ o < 2 ^ 17, t.mem.byte (d * 2 ^ 17 + o) = s.mem.byte (f * 2 ^ 17 + o)) ∧
        (∀ y, y < d * 2 ^ 17 ∨ (d + 1) * 2 ^ 17 ≤ y → t.mem.byte y = s.mem.byte y) ∧
        (∀ l < 2048, t.mem.isPoisoned (d * 2048 + l) = (s.mem.isPoisoned (f * 2048 + l) || s.mem.deadAt (64 * (d * 2048 + l)))) ∧
        (∀ l, l < d * 2048 ∨ (d + 1) * 2048 ≤ l → t.mem.isPoisoned l = s.mem.isPoisoned l))) ∧
  -- MIGRATE_TIMEOUT
  (∀ (id : Nat) (s : State),
    ((∀ k ∈ s.walker.stalls, k.id ≠ id) → exec (.migrationStallTimeout id) s = .next s) ∧
    (∀ k ∈ s.walker.stalls, k.id = id → (∀ j ∈ s.walker.stalls, j.id = id → j = k) →
      let u := fincr (advanceTo s (k.since + 200000)) 0x06000030 63 0 1
      let u := { u with walker := { u.walker with stalls := u.walker.stalls.filter (fun x => decide (x.id ≠ id)) } }
      let ends := fun (t : State) => exec (.migrationStallTimeout id) s = .next t
      (∀ n, k.req = .core n → (coreAt s n).hold = none ∨ live (coreAt s n) = false → ends u) ∧
      (∀ n h, k.req = .core n → (coreAt s n).hold = some h → live (coreAt s n) = true → k.fetch = true →
        ends (takeExc u n { excTranslation k.addr.toNat 2 with src := 6 } (freeClass s) true (coreAt s n).pc (coreAt s n).pc)) ∧
      (∀ n h, k.req = .core n → (coreAt s n).hold = some h → live (coreAt s n) = true → k.fetch = false →
        ends (takeExc u n { excTranslation k.addr.toNat 2 with src := 0 } (stallClass h.instr) true (coreAt s n).pc (coreAt s n).pc)) ∧
      (∀ n q, k.req = .racking n q → ends (rackingStop u n q 2 k.addr.toNat k.write)) ∧
      (∀ i o, k.req = .slice i → k.q < 16 → s.gal[k.gal].cq[(Fin.ofNat 16 k.q)].ops.head? = some o → o.stalled = false →
        ends (sliceFault u k.gal (Fin.ofNat 16 k.q) o 2 k.addr.toNat k.write)) ∧
      (∀ i, k.req = .slice i → k.q < 16 → s.gal[k.gal].cq[(Fin.ofNat 16 k.q)].ops = [] → ends u) ∧
      (∀ i, k.req = .slice i → 16 ≤ k.q → ends (mirrorTimeout u k.gal k.q)) ∧
      (k.req = .ethernet → k.q = 0 → ends (winTimeout u k.gal k.addr.toNat)) ∧
      (k.req = .ethernet → k.q ≠ 0 → ends (streamsRun (streamEnd (ethFault u k.gal 2 k.addr.toNat) (Fin.ofNat 16 (k.q - 16)) .fault 2
        (BitVec.ofNat 64 k.addr.toNat) 0)))))

/-- Errors of the Cellar (R237 to R246). Six or more symbols in error may be miscorrected: which is open. -/
def Obligations.CellarErrors : Prop :=
  (∀ (addr : BitVec 41) (errors : Nat) (s : State),
    let a := addr.toNat / 64 * 64
    let g : Fin 16 := Fin.ofNat 16 (a / 2 ^ 37)
    let p := cellOf s a
    let serves : Prop := bit (rget s (celReg g.val 0)) 11 = false ∧ celMode s g.val ≠ 2
    let calm : Prop := s.mem.deadAt a = true ∨ errors = 0 ∨ (3 < errors ∧ s.mem.isPoisoned (a / 64) = true)
    let hurt : Prop := serves ∧ ¬calm
    let miscorrects : Prop := 6 ≤ errors ∧ Config.freeBit s.free = true
    let u := if 6 ≤ errors then { s with free := s.free + 1 } else s
    let waits := fun (u : State) => { u with group := u.group.set g { u.group[g] with reread := insertNat (a / 64) u.group[g].reread } }
    (¬hurt → exec (.cellarRead addr errors) s = .next s) ∧
    (hurt → errors ≤ 3 → exec (.cellarRead addr errors) s = .next (waits s)) ∧
    (hurt → miscorrects → ∃ m, exec (.cellarRead addr errors) s = .next { waits { s with free := s.free + 9 } with mem := m } ∧
      m.dead = s.mem.dead ∧ m.ways = s.mem.ways ∧ (∀ l, m.isPoisoned l = s.mem.isPoisoned l) ∧
      (∀ y, y < a ∨ a + 64 ≤ y → m.byte y = s.mem.byte y) ∧
      (∀ i < 8, mem64 m (a + 8 * i) = Config.freeWord (s.free + 1 + i))) ∧
    (hurt → 4 ≤ errors → ¬miscorrects → ∃ t, exec (.cellarRead addr errors) s = .next t ∧
      t.mem = u.mem.setPoison (a / 64) true ∧ t.cores = s.cores ∧ t.walker = s.walker ∧
      rget t (celReg g.val (0x180 + 8 * p.1)) = rget (fincr s (celReg g.val (0x180 + 8 * p.1)) 63 48 1) (celReg g.val (0x180 + 8 * p.1)) ∧
      rget t (celReg g.val 0x20) = mkWord [(63, 1), (61, 2), (56, p.1), (0, a % 2 ^ 37)] ∧
      (∃ r ∈ t.cr.general, bits r.ent.w0 55 48 = 0x0B ∧ r.ent.w2 = BitVec.ofNat 64 g.val ∧ r.ent.w3 = rget t (celReg g.val 0x20)) ∧
      t.group[g].ch[(Fin.ofNat 16 p.1)].winUe = s.group[g].ch[(Fin.ofNat 16 p.1)].winUe + 1 ∧
      RowRetires u t g.val p.1 p.2.1 p.2.2 (decide (bits (rget s (celReg g.val 0x10)) 23 16 ≤ s.group[g].ch[(Fin.ofNat 16 p.1)].winUe + 1))) ∧
    -- The re-read
    let v := { s with group := s.group.set g { s.group[g] with reread := s.group[g].reread.filter (fun l => decide (l ≠ a / 64)) } }
    (a / 64 ∉ s.group[g].reread → exec (.cellarCeReread addr errors) s = .next s) ∧
    (a / 64 ∈ s.group[g].reread → errors ≤ 3 → ∃ t, exec (.cellarCeReread addr errors) s = .next t ∧ t.mem = s.mem ∧
      t.cores = s.cores ∧ t.walker = s.walker ∧ t.group[g].reread = v.group[g].reread ∧
      let lo := if errors = 0 then 0 else 32
      let hi := if errors = 0 then 31 else 47
      rget t (celReg g.val (0x180 + 8 * p.1)) = rget (fincr s (celReg g.val (0x180 + 8 * p.1)) hi lo 1) (celReg g.val (0x180 + 8 * p.1)) ∧
      rget t (celReg g.val 0x20) = mkWord [(63, 1), (61, if errors = 0 then 0 else 1), (56, p.1), (0, a % 2 ^ 37)] ∧
      (errors = 0 → t.group = v.group ∧ chState t g.val p.1 = chState s g.val p.1) ∧
      (errors ≠ 0 → RowRetires v t g.val p.1 p.2.1 p.2.2 false)) ∧
    (a / 64 ∈ s.group[g].reread → 4 ≤ errors → serves → exec (.cellarCeReread addr errors) s = exec (.cellarRead addr errors) v)) ∧
  -- Writes
  (∀ (addr : BitVec 41) (data : List Byte) (psn : Bool) (errors : Nat) (s u : State),
    let a := addr.toNat
    let bs := data.take (64 - a % 64)
    let g := a / 2 ^ 37
    let serves : Prop := bit (rget s (celReg g 0)) 11 = false ∧ celMode s g ≠ 2
    (¬serves → exec (.cellarWrite addr data psn errors) s = .next s) ∧
    (serves → (if bs.length < 64 then exec (.cellarRead addr errors) s = .next u else u = s) →
      ∃ m, exec (.cellarWrite addr data psn errors) s = .next { u with mem := m } ∧
        m.dead = u.mem.dead ∧ m.ways = u.mem.ways ∧
        (u.mem.dead = [] → ∀ y, m.byte y = if a ≤ y ∧ y < a + bs.length then bs.getD (y - a) 0 else u.mem.byte y) ∧
        (∀ l, l ≠ a / 64 → m.isPoisoned l = u.mem.isPoisoned l) ∧
        (bs ≠ [] → psn = true → m.isPoisoned (a / 64) = true) ∧
        (bs.length = 64 → psn = false → m.isPoisoned (a / 64) = u.mem.deadAt a) ∧
        (bs.length < 64 → psn = false → m.isPoisoned (a / 64) = u.mem.isPoisoned (a / 64)))) ∧
  (∀ (g : Fin 16) (line : ScrubLine) (errors : Nat) (s : State),
    let k := s.group[g].patrol
    let runs : Prop := bit (rget s (celReg g.val 0)) 11 = false ∧ celMode s g.val ≠ 2 ∧ bit (rget s (celReg g.val 0x18)) 8 = true
    let u := { s with group := s.group.set g { s.group[g] with patrol := (k + 1) % max 1 (backedFrames s g.val * 2048) } }
    let v := { s with group := s.group.set g { s.group[g] with sysPatrol := (s.group[g].sysPatrol + 1) % 2 ^ 22 } }
    let again := match line with
      | .data => 0
      | .spare _ k => k
      | .struct _ k => k
    let met := if 1 ≤ errors ∧ errors ≤ 3 ∧ 1 ≤ again then again else errors
    (¬runs → exec (.patrolScrub g errors line) s = .next s) ∧
    (runs → frameMigrating s (g.val * 2 ^ 20 + k / 2048) = true → exec (.patrolScrub g errors) s = .next s) ∧
    (runs → frameMigrating s (g.val * 2 ^ 20 + k / 2048) = false → k < 2 ^ 31 →
      exec (.patrolScrub g errors) s = exec (.cellarRead (BitVec.ofNat 41 (g.val * 2 ^ 37 + 64 * k)) errors) u) ∧
    -- System space: a line of a spare row of a channel, or a structure line's copy A or B.
    (runs → line ≠ .data → scrubPlace line g.val = none → exec (.patrolScrub g errors line) s = .next s) ∧
    (∀ c place, runs → scrubPlace line g.val = some (c, place) → c < 16 →
      (errors = 0 → exec (.patrolScrub g errors line) s = .next v) ∧
      (errors ≠ 0 → ∃ t, exec (.patrolScrub g errors line) s = .next t ∧ t.mem = s.mem ∧ t.cores = s.cores ∧
        t.walker = (if 4 ≤ met then copyBad s place else s).walker ∧ t.group[g].sysPatrol = v.group[g].sysPatrol ∧
        let lo := if 4 ≤ met then 48 else if again = 0 then 0 else 32
        let hi := if 4 ≤ met then 63 else if again = 0 then 31 else 47
        rget t (celReg g.val (0x180 + 8 * c)) = rget (fincr s (celReg g.val (0x180 + 8 * c)) hi lo 1) (celReg g.val (0x180 + 8 * c)) ∧
        t.group[g].ch[(Fin.ofNat 16 c)].winUe = s.group[g].ch[(Fin.ofNat 16 c)].winUe + (if 4 ≤ met then 1 else 0) ∧
        t.group[g].ch[(Fin.ofNat 16 c)].winRows = s.group[g].ch[(Fin.ofNat 16 c)].winRows + (if 4 ≤ met ∨ again ≠ 0 then 1 else 0)))) ∧
  (∀ (l : Nat) (k : Nat) (g : Fin 16), scrubPlace (.struct l k) g.val =
    if l % 256 / 16 = g.val then some (l % 16, some (l, true))
    else if (l + 128) % 256 / 16 = g.val then some (l % 16, some (l, false)) else none) ∧
  (∀ (ch g : Fin 16) (k : Nat), scrubPlace (.spare ch k) g.val = some (ch.val, none)) ∧
  (∀ (g : Fin 16) (s : State), ∃ t,
    exec (.threshWindowExpire g) s = .next t ∧ t = { s with clk := t.clk, tb := t.tb, group := t.group } ∧
    (∀ c : Fin 16, t.group[g].ch[c] = { s.group[g].ch[c] with winUe := 0, winRows := 0 }) ∧
    t.group[g].winStart = now t ∧ (∀ j, j ≠ g → t.group[j] = s.group[j])) ∧
  -- The end of a copy
  (∀ (g c : Fin 16) (s : State),
    let l := fun (i : Nat) => celReg g.val (0x1000 + 8 * (64 * c.val + i))
    (s.group[g].ch[c].copying = [] → exec (.rowRetirementCopyDone g c) s = .next s) ∧
    (∀ b r p rest, s.group[g].ch[c].copying = (b, r, p) :: rest → b < 16 → r < 2 ^ 17 → p < 232 →
      let isRow := fun (i : Nat) => bit (rget s (l i)) 63 = true ∧ bits (rget s (l i)) 29 26 = b ∧ bits (rget s (l i)) 25 9 = r
      ∃ t, exec (.rowRetirementCopyDone g c) s = .next t ∧ t.group[g].ch[c].copying = rest ∧ t.mem = s.mem ∧ t.walker = s.walker ∧
        ((∃ i < 64, isRow i ∨ bit (rget s (l i)) 63 = false) → ∃ i < 64,
          ((∃ j < 64, isRow j) → isRow i) ∧ ((∀ j < 64, ¬isRow j) → bit (rget s (l i)) 63 = false) ∧
          rget t (l i) = mkWord [(63, 1), (26, b), (9, r), (0, p)] ∧ (∀ j < 64, j ≠ i → rget t (l j) = rget s (l j)) ∧
          (∃ x, t.cr.pinned = s.cr.pinned ++ [x] ∧ bits x.ent.w0 55 48 = 0x0A ∧ x.ent.w2 = BitVec.ofNat 64 (g.val + 16 * c.val) ∧
            x.ent.w3 = BitVec.ofNat 64 (b + 2 ^ 8 * r + 2 ^ 32 * p))) ∧
        ((∀ i < 64, ¬isRow i ∧ bit (rget s (l i)) 63 = true) → t.cr = s.cr ∧ t.dev = s.dev)))

/-- Commands to a Cellar group (R240 to R249). -/
def Obligations.CellarGroups : Prop :=
  (∀ (g c : Fin 16) (ok : Bool) (s : State),
    let st := chState s g.val c.val
    let serves : Prop := bit (rget s (celReg g.val 0)) 11 = false ∧ celMode s g.val ≠ 2
    let fails := fun (u t : State) =>
      t.mem = { s.mem with dead := t.mem.dead } ∧ (g.val, c.val) ∈ t.mem.dead ∧ t.cores = s.cores ∧ t.walker = s.walker ∧
      (chState u g.val c.val ≠ 2 → chState t g.val c.val = 1) ∧ (chState u g.val c.val = 2 → chState t g.val c.val = 2) ∧
      (∀ l, 64 * l / 2 ^ 37 = g.val → (cellOf s (64 * l)).1 = c.val → t.mem.isPoisoned l = true) ∧
      (∀ y b, y / 2 ^ 37 = g.val → (cellOf s y).1 = c.val → (t.mem.write y [b]).byte y = t.mem.byte y)
    (¬(serves ∧ st ≤ 1 ∧ ok = false) → exec (.channelRetrain g c ok) s = .next s) ∧
    (serves → st ≤ 1 → ok = false → ∃ t, exec (.channelRetrain g c ok) s = .next t ∧ fails s t) ∧
    (st ≠ 0 → exec (.celRetrainCh g c ok) s = .next (fset s (celReg g.val 0) 15 15 1)) ∧
    (st = 0 → ok = true → exec (.celRetrainCh g c ok) s = .next s) ∧
    (st = 0 → ok = false → ∃ t, exec (.celRetrainCh g c ok) s = .next t ∧ fails s t) ∧
    (let u := fset s (celReg g.val 0) 11 11 0;
      (¬(deviceRuns s = true ∧ st = 3) → exec (.channelTrainingDone g c ok) s = .next s) ∧
      (deviceRuns s = true → st = 3 → ok = true → exec (.channelTrainingDone g c ok) s =
        .next (becomeReady (fset u (celReg g.val (0x100 + 8 * c.val)) 9 8 0))) ∧
      (deviceRuns s = true → st = 3 → ok = false → ∃ t, exec (.channelTrainingDone g c ok) s = .next (becomeReady t) ∧ fails s t)) ∧
    (∀ (bank : Fin 16) (temp : BitVec 16) (rate : Fin 3),
      (¬serves → exec (.refresh g c bank temp rate) s = .next s) ∧
      (serves → rising (s.dev.map Prod.fst) = true → ∃ t, exec (.refresh g c bank temp rate) s = .next t ∧
        t.mem = s.mem ∧ t.cores = s.cores ∧ t.walker = s.walker ∧
        bits (rget t (celReg g.val (0x100 + 8 * c.val))) 11 10 = rate.val ∧
        (let said := fun (i j : Fin 16) => if i = g ∧ j = c then some temp else s.group[i].ch[j].temp
         let shown := BitVec.ofNat 16 (bits (rget t 0x10000048) 15 0)
         (∀ i j, t.group[i].ch[j].temp = said i j) ∧ (∀ i j x, said i j = some x → x.toInt ≤ shown.toInt) ∧
           ∃ i j, said i j = some shown)))) ∧
  (∀ (g c : Fin 16) (i : Fin 1024) (v : Word) (s : State),
    let st := fun (x : State) (c : Nat) => chState x g.val c
    let off : Prop := bit (rget s (celReg g.val 0)) 11 = true ∧ celMode s g.val ≠ 2
    let holds := fun (k j : Nat) (w : Word) => { s with group := s.group.set g { s.group[g] with
      exiting := true, waiting := s.group[g].waiting ++ [(k, j, w)] } }
    let bad := fset s (celReg g.val 0) 15 15 1
    let owned : Prop := ∃ o, groupOwner s g.val = some o ∧ isOpen s o = true
    let mapped : Prop := ∃ e ∈ s.walker.entries, e.1 / 2 ^ 20 = g.val ∧ feValid e.2 = true
    let slot := fun (k : Nat) => rget s (0x06000080 + 8 * k)
    let still : Prop := ∀ k < 16, bit (slot k) 63 = true → bits (slot k) 23 20 ≠ g.val ∧ bits (slot k) 47 44 ≠ g.val
    let free : Prop := ¬mapped ∧ still ∧ bit (rget s (celReg g.val 0)) 13 = false ∧ celMode s g.val ≠ 2
    let ris : Prop := rising (s.dev.map Prod.fst) = true
    let may : Prop := (∀ j < 16, st s j = 1 ↔ j = c.val) ∧ (∀ j < 16, st s j ≠ 2) ∧ free
    (off → exec (.celFailCh g c) s = .next (holds 1 c.val 0)) ∧
    (¬off → st s c.val = 1 ∨ st s c.val = 2 → exec (.celFailCh g c) s = .next s) ∧
    (¬off → st s c.val ≠ 1 → st s c.val ≠ 2 → ∃ t, exec (.celFailCh g c) s = .next t ∧ st t c.val = 1 ∧
      bit (rget t (celReg g.val 0)) 12 = true ∧ t.mem = s.mem ∧ t.cores = s.cores ∧ t.walker = s.walker ∧ t.group = s.group ∧
      ∃ r ∈ t.cr.general, bits r.ent.w0 55 48 = 0x0C ∧ r.ent.w2 = BitVec.ofNat 64 (g.val + 16 * c.val + 768)) ∧
    (off → exec (.celRebuild g) s = .next (holds 2 0 0)) ∧
    (¬off → (∀ j : Fin 16, ¬((∀ k < 16, st s k = 1 ↔ k = j.val) ∧ (∀ k < 16, st s k ≠ 2) ∧ free)) →
      exec (.celRebuild g) s = .next bad) ∧
    (¬off → may → exec (.celRebuild g) s = .next
      { fset (fset (fset s (celReg g.val (0x100 + 8 * c.val)) 9 8 2) (celReg g.val 0) 13 13 1) (celReg g.val 0) 12 12 0 with
        mem := { s.mem with dead := s.mem.dead.filter (fun d => decide (d ≠ (g.val, c.val))), ways := (g.val, c.val) :: s.mem.ways } }) ∧
    (bit (rget s (celReg g.val 0)) 13 = false → exec (.rebuildComplete g) s = .next s) ∧
    (ris → bit (rget s (celReg g.val 0)) 13 = true → s.mem.ways.find? (fun w => decide (w.1 = g.val)) = some (g.val, c.val) →
      ∃ t, exec (.rebuildComplete g) s = .next t ∧ bit (rget t (celReg g.val 0)) 13 = false ∧
        celMode t g.val = 1 ∧ bits (rget t (celReg g.val 0)) 29 26 = c.val ∧
        (bit (rget t (celReg g.val 0)) 12 = true ↔ ∃ j < 16, st s j = 1) ∧
        (∀ f < 2 ^ 20, let x := frameEntry t (g.val * 2 ^ 20 + f)
          (983040 ≤ f → feRetired x = true) ∧ (zeroing s (g.val * 2 ^ 20 + f) = false → feRetired x = false → feZeroed x = true)) ∧
        (∀ y, t.mem.byte y = if y / 2 ^ 37 = g.val then 0 else s.mem.byte y) ∧
        (∃ r ∈ t.cr.pinned, bits r.ent.w0 55 48 = 0x0D ∧ r.ent.w2 = BitVec.ofNat 64 (g.val + 16 * c.val + 256)) ∧
        (BitVec.ofNat 64 (g.val + 16 * c.val + 256), 0) ∉ t.retire) ∧
    (mapped → exec (.celOffline g) s = .next bad) ∧
    (¬mapped → ∃ t, exec (.celOffline g) s = .next t ∧ celMode t g.val = 2 ∧ bit (rget t (celReg g.val 0)) 11 = true ∧
      t.mem = s.mem ∧ (∀ f < 2 ^ 20, feRetired (frameEntry t (g.val * 2 ^ 20 + f)) = true) ∧
      (∀ f, f / 2 ^ 20 ≠ g.val → frameEntry t f = frameEntry s f) ∧ t.group[g].waiting = [] ∧ t.group[g].exiting = false) ∧
    -- Remap table
    (let wide : Prop := 231 < bits v 7 0
     let r := celReg g.val (0x1000 + 8 * i.val)
     let noted := if 231 < bits v 7 0 then bad else s
     (owned → exec (.celRemapWrite g i v) s = .next bad) ∧
     (¬owned → off → exec (.celRemapWrite g i v) s = .next { noted with group := (holds 3 i.val v).group }) ∧
     (¬owned → ¬off → ∃ t, exec (.celRemapWrite g i v) s = .next t ∧ (wide → bit (rget t (celReg g.val 0)) 15 = true) ∧
      let w := (if 231 < bits v 7 0 then (v &&& ~~~(0xFF : Word)) ||| (rget s r &&& 0xFF) else v) &&& 0x800000003FFFFEFF
      (w ≠ 0 → rget t r = w) ∧ (∀ j < 1024, j ≠ i.val → rget t (celReg g.val (0x1000 + 8 * j)) = rget s (celReg g.val (0x1000 + 8 * j))) ∧
      (rget s r = w → t.mem = s.mem) ∧
      (∀ y, y / 2 ^ 37 ≠ g.val → t.mem.byte y = s.mem.byte y) ∧ t.walker = s.walker ∧ t.cores = s.cores)) ∧
    -- Self-refresh
    (let quiet : Prop :=
        groupOwner s g.val = none ∧ bit (rget s (celReg g.val 0)) 14 = false ∧ bit (rget s (celReg g.val 0)) 13 = false ∧
        bit (rget s (celReg g.val 0)) 11 = false ∧ s.group[g].exiting = false ∧
        still ∧ (∀ j < 16, st s j ≠ 3) ∧ s.group[g].zeroDone = true ∧
        (bit (rget s (celReg g.val 0x18)) 8 = true → s.group[g].patrol = 0 ∧ s.group[g].sysPatrol = 0);
      (¬quiet → exec (.selfRefreshEnter g) s = .next s) ∧
      (quiet → exec (.selfRefreshEnter g) s = .next { fset s (celReg g.val 0) 11 11 1 with
        group := s.group.set g { s.group[g] with patrol := 0, sysPatrol := 0 } })) ∧
    (let u := { fset s (celReg g.val 0) 11 11 0 with group := s.group.set g { s.group[g] with
        exiting := false, waiting := [], patrol := 0, sysPatrol := 0 } }
     let done := bit (rget u (celReg g.val 0)) 11 = false
     let waits := s.group[g].waiting;
      (∀ failed, s.group[g].exiting = false → exec (.selfRefreshExitDone g failed) s = .next s) ∧
      (s.group[g].exiting = true → waits = [] → exec (.selfRefreshExitDone g 0) s = .next u) ∧
      (∀ failed : BitVec 16, s.group[g].exiting = true → waits = [] → ∃ t, exec (.selfRefreshExitDone g failed) s = .next t ∧
        t.cores = s.cores ∧ t.walker = s.walker ∧ t.group = u.group ∧ ∀ j : Fin 16,
          (failed.getLsbD j.val = true → st u j.val ≤ 1 → st t j.val = 1 ∧ (g.val, j.val) ∈ t.mem.dead) ∧
          (failed.getLsbD j.val = false ∨ 2 ≤ st u j.val → st t j.val = st u j.val)) ∧
      (s.group[g].exiting = true → waits = [(1, c.val, 0)] → done → exec (.selfRefreshExitDone g 0) s = exec (.celFailCh g c) u) ∧
      (s.group[g].exiting = true → waits = [(2, 0, 0)] → done → exec (.selfRefreshExitDone g 0) s = exec (.celRebuild g) u) ∧
      (s.group[g].exiting = true → waits = [(3, i.val, v)] → done → ¬owned →
        bits v 7 0 ≤ 231 → exec (.selfRefreshExitDone g 0) s = exec (.celRemapWrite g i v) u)))

/-- The state machine of a link port (Table 9-4). -/
def Obligations.LinkStates : Prop :=
  ∀ (p : PortId) (s : State), rising (s.dev.map Prod.fst) = true →
    let x := s.ports[p]
    let st := linkState s p
    let works : Prop := 3 ≤ st ∧ st ≤ 7
    let bad := fset s (lnkSt p) 16 16 1
    let cabled : Prop := bit s.catActive.nbr[p] 63 = true
    let retrains := fun (t : State) => LinkAlone s t p ∧ linkState t p = 8 ∧ t.ports[p].before = st ∧ t.ports[p].retry = x.retry ∧
      t.ports[p].outq = x.outq ∧ t.ports[p].rxSeq = x.rxSeq ∧ t.ports[p].lanes = x.lanes
    -- REASON of a port that stands DOWN: an optical port without light.
    let dark := if optical p = true ∧ bit (rget s (lnkReg p.val 0x68)) 0 = false then 1 else 0
    let dropped := fun (t : State) => t.ports[p].outq = [] ∧ t.ports[p].retry = [] ∧ t.ports[p].replay = []
    -- Commands
    (st ≠ 0xB → exec (.lnkEnable p) s = .next bad) ∧
    (st = 0xB → s.prov.selfTest = none → exec (.lnkEnable p) s = .next (setPort s p { x with enableWait := true })) ∧
    (st = 0xB → s.prov.selfTest ≠ none → catValid s = true → ¬cabled → exec (.lnkEnable p) s = .next (fset s (lnkSt p) 43 40 9)) ∧
    (st = 0xB → s.prov.selfTest ≠ none → catValid s = false ∨ cabled → ∃ t, exec (.lnkEnable p) s = .next t ∧ LinkEnters s t p 0 dark ∧
      dropped t ∧ t.ports[p].txSeq = 0 ∧ t.ports[p].rxSeq = 0 ∧ t.ports[p].mgmtq = []) ∧
    (∃ t, exec (.lnkDisable p) s = .next t ∧ (catValid s = true ∧ ¬cabled → LinkEnters s t p 0xB 9) ∧
      (catValid s = false ∨ cabled → LinkEnters s t p 0xB 8) ∧ dropped t ∧ bits (rget t (lnkSt p)) 63 48 = 0 ∧
      (t.ports[p].stopping = true ↔ works ∨ st = 8 ∨ x.stopping = true) ∧
      rget t (lnkReg p.val 0x60) = rget (fincr s (lnkReg p.val 0x60) 31 0 (heldPkts x)) (lnkReg p.val 0x60)) ∧
    (¬(5 ≤ st ∧ st ≤ 7) → exec (.lnkRetrain p) s = .next bad) ∧
    (5 ≤ st → st ≤ 7 → ∃ t, exec (.lnkRetrain p) s = .next t ∧ retrains t) ∧
    (¬works → exec (.linkLockLoss p) s = .next s) ∧
    (works → ∃ t, exec (.linkLockLoss p) s = .next t ∧ retrains t) ∧
    (st = 0xB → exec (.lnkFulltrain p) s = .next bad) ∧
    (st ≠ 0xB → ∃ t, exec (.lnkFulltrain p) s = .next t ∧ LinkEnters s t p 0 dark ∧ dropped t ∧ t.ports[p].lanes = 0xFFFF ∧ t.ports[p].txSeq = 0) ∧
    (st = 0xB ∨ st = 0xA → exec (.lnkRetire p) s = .next bad) ∧
    (st ≠ 0xB → st ≠ 0xA → ∃ t, exec (.lnkRetire p) s = .next t ∧ LinkEnters s t p 0xA 7 ∧ dropped t ∧
      t.ports[p].stopping = true ∧ (score t (0x100 + p.val)).score = 65535 ∧ bits (rget t (lnkSt p)) 63 48 = 0) ∧
    (x.stopping = false → exec (.transmitStop p) s = .next s) ∧
    (x.stopping = true → ∃ t, exec (.transmitStop p) s = .next t ∧ t = { s with ports := t.ports } ∧ (∀ q, q ≠ p → t.ports[q] = s.ports[q]) ∧
      dropped t ∧ t.ports[p].mgmtq = [] ∧ t.ports[p].txSlots = [] ∧ t.ports[p].stopping = false) ∧
    -- Retrains
    (∀ (ok : Bool) (failed : BitVec 16),
      let recent := (x.retrainTimes ++ [now s]).filter (fun t => decide (now s < t + bits (rget s (lnkReg p.val 0x10)) 39 32 * 1000000000))
      let many : Prop := bits (rget s (lnkReg p.val 0x10)) 47 40 ≤ recent.length
      let inUse := fun (l : BitVec 16) (k : Nat) => k < 4 ∧ l.toNat / 16 ^ k % 16 ≠ 0
      let left := fun (k : Nat) => inUse x.lanes k ∧ ¬inUse (x.lanes &&& failed) k
      let width := (List.range 4).countP (fun k => decide (left k))
      (st ≠ 8 → exec (.linkRetrainEnd p ok failed) s = .next s) ∧
      (st = 8 → ok = true → ¬many → x.reident = true → ∃ t, exec (.linkRetrainEnd p ok failed) s = .next t ∧ LinkEnters s t p 3 0) ∧
      (st = 8 → ok = true → ¬many → x.reident = false → x.before ≤ 7 → x.before ≠ 4 ∨ catValid s = false → ∃ t, exec (.linkRetrainEnd p ok failed) s = .next t ∧ LinkAlone s t p ∧
        linkState t p = x.before ∧ t.ports[p].replay = t.ports[p].retry ∧ t.ports[p].retry = x.retry ∧ t.ports[p].lanes = x.lanes) ∧
      (st = 8 → ok = false ∨ many → (∃ k, inUse (x.lanes &&& failed) k) → ∃ t, exec (.linkRetrainEnd p ok failed) s = .next t ∧
        LinkAlone s t p ∧ (width < 2 → linkState t p = 0xA ∧ dropped t) ∧
        (2 ≤ width → linkState t p = 8 ∧ (∀ k < 16, t.ports[p].lanes.getLsbD k = true ↔ left (k / 4)) ∧
          t.ports[p].retry = x.retry ∧ t.ports[p].before = x.before)) ∧
      (∃ t, exec (.linkRetrainEnd p ok failed) s = .next t)) ∧
    -- Signal, training, light
    (∃ t, exec (.linkSignalDetect p) s = .next t ∧ LinkAlone s t p ∧
      (st = 0 ∨ st = 9 → linkState t p = 1 ∧ dropped t ∧ t.ports[p].nonceRx = none ∧ t.ports[p].ident = [] ∧ t.ports[p].txSeq = 0) ∧
      (st ≠ 0 → st ≠ 9 → linkState t p = st ∧ t.ports = s.ports) ∧
      (optical p = true → bits (rget t (lnkReg p.val 0x68)) 1 0 = 1)) ∧
    (∀ locked : BitVec 16,
      (st ≠ 1 → exec (.linkTrainResult p locked) s = .next s) ∧
      (st = 1 → x.lanes &&& locked = x.lanes → ∃ t, exec (.linkTrainResult p locked) s = .next t ∧ LinkAlone s t p ∧ linkState t p = 2 ∧
        bits (rget t (lnkSt p)) 63 48 = x.lanes.toNat) ∧
      (st = 1 → x.lanes &&& locked ≠ x.lanes → ∃ t, exec (.linkTrainResult p locked) s = .next t ∧ LinkEnters s t p 0 2 ∧
        bits (rget t (lnkSt p)) 63 48 = 0)) ∧
    (∀ total, optical p = false → exec (.lightLoss p total) s = .next s) ∧
    (optical p = true → exec (.lightLoss p false) s = .next (fset s (lnkReg p.val 0x68) 1 1 1)) ∧
    (optical p = true → ∃ t, exec (.lightLoss p true) s = .next t ∧ bits (rget t (lnkReg p.val 0x68)) 1 0 = 2 ∧
      (st ≤ 8 → LinkEnters s t p 0 1 ∧ dropped t) ∧ (8 < st → linkState t p = st ∧ t.ports = s.ports)) ∧
    -- Identity
    (st ≠ 2 → exec (.linkFrameAlign p) s = .next s) ∧
    (st = 2 → ∃ t, exec (.linkFrameAlign p) s = .next t ∧ LinkEnters s t p 3 0 ∧ t.ports[p].nonceTx = Config.nonce s.free ∧
      t.ports[p].ident = [] ∧ ∃ k ∈ t.ports[p].mgmtq, k.type = 0x10 ∧ k.payload = leBytes 16 (Config.nonce s.free).toNat ++ List.replicate 16 0) ∧
    (∀ n : BitVec 128, (∀ k ∈ x.arrived, k.type ≠ 0x10) →
      (st ≠ 2 → st ≠ 3 → st ≠ 7 → exec (.identNonceReceive p n) s = .next s) ∧
      (st = 2 ∨ st = 3 ∨ st = 7 → ∃ t, exec (.identNonceReceive p n) s = .next t ∧ t = { s with ports := t.ports } ∧
        (∀ q, q ≠ p → t.ports[q] = s.ports[q]) ∧ t.ports[p] = { x with nonceRx := some n, mgmtq := t.ports[p].mgmtq } ∧
        (st ≠ 3 ∨ s.prov.seeds = none → t.ports[p].mgmtq = x.mgmtq))) ∧
    (∀ (part : Fin 4) (data : List Byte), (∀ k ∈ x.arrived, ¬(k.type = 0x11 ∧ k.type0 % 4 = part.val)) →
      let parts := put [] part.val data x.ident
      let block := identWhole { x with ident := parts }
      (st ≠ 3 ∨ part = 3 → exec (.identReceive p part data) s = .next s) ∧
      (st = 3 → part ≠ 3 → block = none → exec (.identReceive p part data) s = .next (setPort s p { x with ident := parts })) ∧
      (∀ b, st = 3 → part ≠ 3 → block = some b →
        let at_ := fun (o n : Nat) => leNat ((b.drop o).take n)
        let c := s.catActive
        let other : Prop := at_ 6 2 ≠ bits c.nbr[p] 47 32 ∨ at_ 2 1 % 16 ≠ bits c.nbr[p] 55 52 ∨
          (bits c.nbr[p] 31 0 ≠ 0 ∧ bits c.nbr[p] 31 0 ≠ keyId b)
        let tags : Prop := ∃ g : Gal, sharedBox c g p = true ∧ at_ (16 + 2 * g.val) 2 ≠ bits c.gal[g] 15 0
        let age : Prop := at_ 4 2 < bits c.hdr1 15 0 ∨ bits c.hdr1 31 16 < at_ 4 2
        let good := identGood x b
        ∃ t, exec (.identReceive p part data) s = .next t ∧ t.ports[p].ident = [] ∧
          (good = false → LinkEnters s t p 7 3) ∧
          (good = true → catValid s = false → LinkEnters s t p 4 0) ∧
          (good = true → catValid s = true → other → LinkEnters s t p 7 4) ∧
          (good = true → catValid s = true → ¬other → tags → LinkEnters s t p 7 5) ∧
          (good = true → catValid s = true → ¬other → ¬tags → age → LinkEnters s t p 6 6) ∧
          (good = true → catValid s = true → ¬other → ¬tags → ¬age → LinkEnters s t p 5 0))) ∧
    -- The partner's state
    (∀ w : Word, (∀ k ∈ x.arrived, ¬(k.type = 0x12 ∧ k.w3 = w)) →
      let theirs := bits w 19 16
      (¬works → exec (.peerStateReceive p w) s = .next s) ∧
      (works → ∃ t, exec (.peerStateReceive p w) s = .next t ∧
        (sharedGals s p = [] → bits (rget t (lnkSt p)) 39 36 = theirs ∧
          (bit w 0 = true → LinkEnters s t p 9 0 ∧ dropped t ∧ bit (rget t (lnkReg p.val 0x58)) 8 = true) ∧
          (bit w 0 = false → theirs = 0xB → LinkEnters s t p 0 8 ∧ dropped t) ∧
          (bit w 0 = false → theirs = 0xA → LinkEnters s t p 0 7 ∧ dropped t) ∧
          (bit w 0 = false → theirs = 3 → st ≠ 3 → LinkEnters s t p 3 0 ∧ t.ports[p].nonceRx = none) ∧
          (bit w 0 = false → theirs ≠ 0xA → theirs ≠ 0xB → theirs ≠ 3 ∨ st = 3 → linkState t p = st ∧ t.ports = s.ports ∧
            ∀ g : Gal, w.getLsbD (8 + g.val) = true → (rget t (lnkReg p.val 0x58)).getLsbD g.val = true)))) ∧
    (¬works ∨ partnerState s p = 0xA ∨ partnerState s p = 0xB → exec (.frameLockLoss p) s = .next s) ∧
    (works → partnerState s p ≠ 0xA → partnerState s p ≠ 0xB → ∃ t, exec (.frameLockLoss p) s = .next t ∧
      (sharedGals s p = [] → LinkEnters s t p 9 0 ∧ dropped t ∧ bit (rget t (lnkReg p.val 0x58)) 8 = true))

/-- Frames of a link (R271 to R276). -/
def Obligations.LinkFrames : Prop :=
  (∀ (p : PortId) (s : State),
    let x := s.ports[p]
    let st := linkState s p
    let may : Prop := deviceRuns s = true ∧ ((3 ≤ st ∧ st ≤ 7) ∨ x.stopping = true ∨ st = 2)
    let sends := fun (t : State) (slots : List (BitVec 256)) (seq : Nat) (recov : Bool) => ∃ f rest,
      t.out = s.out ++ Out.frame p f :: rest ∧ f.slots = slots ∧ bits f.trailer 63 52 = seq % 4096 ∧
      bits f.trailer 51 40 = x.ackOwed % 4096 ∧ bit f.trailer 39 = x.nak ∧ bit f.trailer 38 = recov ∧ frameCrc f = true
    -- The number of an idle frame: the one before the oldest frame that is not acknowledged.
    let last := ((match x.retry with | f :: _ => bits f.trailer 63 52 | [] => x.txSeq) + 4095) % 4096
    let idles := fun (t : State) => sends t (List.replicate 8 0) last false ∧ t.ports[p].txSeq = x.txSeq ∧
      t.ports[p].retry = x.retry
    let full : Prop := (if optical p then 2048 else 512) ≤ x.retry.length
    let r := fillSlots s p x.txSeq 8 x
    let c := creditReturn x
    (¬may → exec (.linkFrameSend p) s = .next s) ∧
    (may → x.ackOwed < 4096 → ∃ t, exec (.linkFrameSend p) s = .next t ∧ (∀ q, q ≠ p → t.ports[q] = s.ports[q]) ∧ t.mem = s.mem ∧ t.cores = s.cores ∧
      (st = 2 → x.stopping = false → idles t) ∧
      (st ≠ 2 ∨ x.stopping = true →
      (∀ f l, x.replay = f :: l → sends t f.slots (bits f.trailer 63 52) (bit f.trailer 38) ∧ t.ports[p].replay = l ∧
        t.ports[p].retry = x.retry ∧ t.ports[p].txSeq = x.txSeq) ∧
      (x.replay = [] → full → idles t) ∧
      (x.replay = [] → ¬full → optical p = true → x.groupCount = 31 → sends t x.group x.txSeq true ∧ t.ports[p].groupCount = 0 ∧
        t.ports[p].txSeq = (x.txSeq + 1) % 4096 ∧ ∃ f, t.ports[p].retry = x.retry ++ [f] ∧ f.slots = x.group) ∧
      (x.replay = [] → ¬full → ¬(optical p = true ∧ x.groupCount = 31) → hasSlots s p x = false → c.2 = 0 →
        sends t (List.replicate 8 0) last false ∧ t.ports[p].txSeq = r.2.txSeq ∧ t.ports[p].retry = r.2.retry) ∧
      (x.replay = [] → ¬full → ¬(optical p = true ∧ x.groupCount = 31) → hasSlots s p x = true ∨ c.2 ≠ 0 →
        sends t r.1 x.txSeq false ∧ t.ports[p].txSeq = (x.txSeq + 1) % 4096 ∧
        (∃ f, t.ports[p].retry = r.2.retry ++ [f] ∧ f.slots = r.1) ∧
        (8 ≤ x.txSlots.length → r.1 = x.txSlots.take 8 ∧ t.ports[p].txSlots = x.txSlots.drop 8) ∧
        (optical p = true → t.ports[p].groupCount = r.2.groupCount + 1))))) ∧
  (∀ (p : PortId) (f : Frame) (corrected codewords : Nat) (hit : Bool) (s : State),
    let x := s.ports[p]
    let st := linkState s p
    let may : Prop := deviceRuns s = true ∧ ((2 ≤ st ∧ st ≤ 7) ∨ x.stopping = true)
    let go := exec (.linkFrameReceive p f corrected hit codewords) s
    let seq := bits f.trailer 63 52
    let bad : Prop := hit = true ∨ 0 < codewords ∨ frameCrc f = false
    let acked := x.retry.findIdx? (fun k => decide (bits k.trailer 63 52 = bits f.trailer 51 40))
    let left := x.retry.drop ((acked.map (fun i => i + 1)).getD 0)
    (¬may → go = .next s) ∧
    (may → ∃ t, go = .next t ∧ (∀ q, q ≠ p → t.ports[q] = s.ports[q]) ∧ t.mem = s.mem ∧ t.cores = s.cores ∧
      (bad → t.ports[p].arrived = x.arrived ∧ t.ports[p].rxSeq = x.rxSeq ∧ t.ports[p].retry = x.retry ∧
        (x.stopping = true → t.ports = s.ports) ∧
        (x.stopping = false → optical p = false ∨ x.failedSeq ≠ none ∨ x.rxSeq % 32 = 31 → t.ports[p].nak = true ∧ t.ports[p].failedSeq = none) ∧
        (x.stopping = false → optical p = true → x.failedSeq = none → x.rxSeq % 32 ≠ 31 →
          t.ports[p].nak = x.nak ∧ t.ports[p].failedSeq = some x.rxSeq)) ∧
      (¬bad → t.ports[p].retry = left ∧ (bit f.trailer 39 = true → t.ports[p].replay = left)) ∧
      (¬bad → x.stopping = true ∨ (x.failedSeq = none ∧ seq ≠ x.rxSeq) →
        t.ports[p].arrived = x.arrived ∧ t.ports[p].rxSeq = x.rxSeq ∧ t.ports[p].rxSlots = x.rxSlots) ∧
      (¬bad → x.stopping = false → x.failedSeq = none → seq = x.rxSeq → t.ports[p].rxSeq = (x.rxSeq + 1) % 4096 ∧ t.ports[p].ackOwed = x.rxSeq ∧
        (bit f.trailer 38 = true → t.ports[p].arrived = x.arrived ∧ t.ports[p].rxSlots = x.rxSlots) ∧
        (bit f.trailer 38 = false → let k := takePackets 300 (x.rxSlots ++ f.slots)
          t.ports[p].arrived = x.arrived ++ k.1.filter (fun y => decide (st = 5 ∧ partnerState s p = 5) || !routedType y.type) ∧
            t.ports[p].rxSlots = k.2) ∧
        (∀ v : Fin 13, bits f.trailer 37 34 = v.val → t.ports[p].used[v] = x.used[v] - bits f.trailer 33 24)) ∧
      (∀ q, ¬bad → x.stopping = false → x.failedSeq = some q → q = x.rxSeq → seq ≠ q → seq / 32 = q / 32 → q % 32 < seq % 32 →
        (bit f.trailer 38 = false → (∀ k ∈ x.rxGroup, bits k.trailer 63 52 ≠ seq) →
          t.ports[p].rxGroup = x.rxGroup ++ [f] ∧ t.ports[p].arrived = x.arrived ∧ t.ports[p].rxSeq = x.rxSeq) ∧
        (bit f.trailer 38 = false → (∃ k ∈ x.rxGroup, bits k.trailer 63 52 = seq) →
          t.ports[p].rxGroup = x.rxGroup ∧ t.ports[p].arrived = x.arrived ∧ t.ports[p].rxSeq = x.rxSeq) ∧
        (bit f.trailer 38 = true → x.rxGroup.length = 30 → optical p = true → (∀ k ∈ x.rxGroup, bit k.trailer 38 = false) →
          t.ports[p].rxSeq = (q / 32 * 32 + 32) % 4096 ∧ t.ports[p].failedSeq = none ∧ t.ports[p].rxGroup = [])))) ∧
  (∀ k : Packet, k.w0 ≠ 0 → k.payload.length = 32 * k.len → takePackets 300 (toSlots (pktSlots k) (slotBytes k)) = ([k], []))

/-- On-die requests and the routing of packets (chapter 9). -/
def Obligations.TrellisAndRouting : Prop :=
  (let poisoned := fun (s : State) (e : TrellisErr) => match e.line with
      | some l => if e.dataUe = 0 then s.mem else s.mem.setPoison l true
      | none => s.mem
   let met := fun (s : State) (e : TrellisErr) =>
    fincr (fincr s 0x08000118 31 0 e.ce) 0x08000118 63 32 (e.dataUe + if e.headerUe then 1 else 0);
  (∀ (r : TrellisReq) (s : State),
    let other : Prop := ∃ g o, r.gallery = some g ∧ agentOwner s r.dst = some o ∧ o ≠ some g
    ∃ t, exec (.trellisRequest r) s = .next t ∧ t.mem = poisoned s r.err ∧ t.cores = s.cores ∧
      t.trellis = { s.trellis with sent := s.trellis.sent.filter (fun e => decide (e.req.id ≠ r.id)) ++
        [{ req := r, since := now s, gen := (r.gallery.map (gen s)).getD 0, arrived := false, lost := r.err.headerUe }] } ∧
      rget t 0x08000118 = rget (met s r.err) 0x08000118 ∧
      (r.err.headerUe = false → other → rget t 0x08000100 = rget (fincr s 0x08000100 31 0 1) 0x08000100) ∧
      (r.err.headerUe = true ∨ ¬other → rget t 0x08000100 = rget s 0x08000100)) ∧
  (∀ (id : Nat) (err : TrellisErr) (s : State),
    let dead := fun (e : TrlEnt) => e.req.err.headerUe = true ∨
      ∃ g o, e.req.gallery = some g ∧ agentOwner s e.req.dst = some o ∧ o ≠ some g
    ∃ t, exec (.trellisReply id err) s = .next t ∧ t.cores = s.cores ∧ rget t 0x08000118 = rget (met s err) 0x08000118 ∧
      ((∀ e ∈ s.trellis.sent, e.req.id = id → dead e) → t.trellis = s.trellis ∧ t.mem = s.mem) ∧
      (∀ e ∈ s.trellis.sent, e.req.id = id → ¬dead e → (∀ f ∈ s.trellis.sent, f.req.id = id → f = e) →
        t.mem = poisoned s err ∧
        (∀ f ∈ s.trellis.sent, f.req.id ≠ id → ∃ x ∈ t.trellis.sent, x.req = f.req ∧ x.since = f.since ∧ x.gen = f.gen) ∧
        -- What was sent before it between the same stops has arrived.
        (∀ a f b, s.trellis.sent = a ++ f :: b → e ∈ b → f.req.id ≠ id → f.req.src = e.req.src → f.req.dst = e.req.dst → ¬dead f →
          ∃ x ∈ t.trellis.sent, x.req = f.req ∧ x.arrived = true) ∧
        (err.headerUe = false → (∀ x ∈ t.trellis.sent, x.req.id ≠ id) ∧ (e.req.src, id, false) ∈ t.trellis.answered) ∧
        (err.headerUe = true → t.trellis.answered = s.trellis.answered ∧ ∃ x ∈ t.trellis.sent, x.req = e.req ∧ x.lost = true))) ∧
  (∀ (id : Nat) (s : State),
    ((∀ e ∈ s.trellis.sent, e.req.id ≠ id) → exec (.trellisReplyTimeout id) s = .next s) ∧
    (∀ e ∈ s.trellis.sent, e.req.id = id → (∀ f ∈ s.trellis.sent, f.req.id = id → f = e) → ∃ t, exec (.trellisReplyTimeout id) s = .next t ∧
      (∀ f ∈ t.trellis.sent, f.req.id ≠ id) ∧
      (∀ g, e.req.gallery = some g → galResetting s g = false → (e.req.src, id, true) ∈ t.trellis.answered ∧
        rget t 0x08000110 = rget (fincr s 0x08000110 31 0 1) 0x08000110) ∧
      (e.req.gallery = none ∨ (∃ g, e.req.gallery = some g ∧ galResetting s g = true) →
        t.chipHold = some 0 ∧ ∃ c ∈ t.cr.general, bits c.ent.w0 55 48 = 0x14)))) ∧
  -- Packets received
  (∀ (p : PortId) (vc : Fin 13) (k : Packet) (s : State),
    let x := s.ports[p]
    let active : Prop := k ∈ x.arrived ∨ (linkState s p = 5 ∧ partnerState s p = 5)
    let mgmt : Prop := 0x10 ≤ k.type ∧ k.type ≤ 0x13
    let bad : Prop := 66 < k.len ∨
      (mgmt ∧ (k.cls = true ∨ (k.type = 0x13 ∧ bits k.w1 31 28 ≠ 1 ∧ bits k.w1 31 28 ≠ 2))) ∨
      (¬mgmt ∧ (k.type < 1 ∨ 6 < k.type ∨ (k.cls = true ↔ ¬(k.type = 3 ∨ k.type = 6)) ∨
        ∃ a < 4, bits s.catActive.hdr0 47 32 / 16 ^ a % 16 < k.dst / 16 ^ a % 16))
    -- The packet taken, its slots free again; what stood in the buffer as the link started anew returns no credit.
    let y := { x with arrived := x.arrived.erase k }
    let z := if k ∈ x.old then { y with old := x.old.erase k } else { y with freed := x.freed.set vc (x.freed[vc] + (1 + k.len)) }
    let freed := fun (u : State) => { u with ports := s.ports.set p z }
    let here : Prop := k.dst = bits s.catActive.hdr0 63 48
    let tagged := fun (g : Gal) => isOpen s g = true ∧ bit s.catActive.gal[g] 63 = true ∧ bits s.catActive.gal[g] 15 0 = k.gtag ∧
      inBox s g (coord s) = true
    let stale : Prop := k.epoch ≠ bits s.catActive.hdr0 3 0 ∧ ∀ g, ¬tagged g
    let ends := fun (t : State) => exec (.packetReceive p vc k) s = .next t
    (bad → ends (freed (counted (fincr s 0x08000108 63 48 1)))) ∧
    (¬bad → mgmt → ends s) ∧
    (¬bad → ¬mgmt → ¬active → ends (freed s)) ∧
    (¬bad → ¬mgmt → active →
    (here → stale → ends (freed (counted (fincr s 0x08000100 63 32 1)))) ∧
    (here → ¬stale → ¬tagged k.gallery → ends (freed (counted (fincr s 0x08000100 31 0 1)))) ∧
    (here → ¬stale → tagged k.gallery → k.gen ≠ (gen s k.gallery).toNat % 256 → ends (freed (counted (fincr s 0x08000108 31 0 1)))) ∧
    (here → ¬stale → tagged k.gallery → k.gen = (gen s k.gallery).toNat % 256 →
      ends (freed { s with inbox := s.inbox ++ [(p, k)] })) ∧
    (¬here → ends { s with ports := s.ports.set p { y with inbuf := x.inbuf ++ [(vc.val, k)] } }))) ∧
  -- Directions (R292)
  (∀ (s : State) (k : Packet) (a : Fin 4),
    let c := bits s.catActive.hdr0 63 48 / 16 ^ a.val % 16
    let d := k.dst / 16 ^ a.val % 16
    let l := bits s.catActive.hdr0 47 32 / 16 ^ a.val % 16 + 1
    let g := s.catActive.gal[k.gallery]
    let e := bits g 47 32 / 16 ^ a.val % 16 + 1
    let o := bits g 31 16 / 16 ^ a.val % 16
    let line : Prop := e < l ∧ bit g (48 + a.val) = false
    let x := productive s k a.val
    (c = d → x = ⟨false, false⟩) ∧
    (c ≠ d → bit k.w0 (28 + a.val) = true → x = ⟨!bit k.w0 (24 + a.val), bit k.w0 (24 + a.val)⟩) ∧
    (c ≠ d → bit k.w0 (28 + a.val) = false → bit s.catActive.hdr0 (16 + a.val) = false → x = ⟨decide (c < d), decide (d < c)⟩) ∧
    (c ≠ d → bit k.w0 (28 + a.val) = false → bit s.catActive.hdr0 (16 + a.val) = true → line → c < l → d < l → o < l →
      (x = ⟨true, false⟩ ↔ ((c : Int) - o) % l < ((d : Int) - o) % l) ∧ (x = ⟨false, true⟩ ↔ ((d : Int) - o) % l < ((c : Int) - o) % l)) ∧
    (c ≠ d → bit k.w0 (28 + a.val) = false → bit s.catActive.hdr0 (16 + a.val) = true → ¬line → c < l → d < l →
      let m := ((d : Int) - c) % l
      x.plus = decide (m ≤ l - m) ∧ x.minus = decide (l - m ≤ m))) ∧
  -- Grants
  (∀ (w : Option PortId) (s : State), ∃ t, exec (.packetRouteGrant w) s = .next t ∧ t.mem = s.mem ∧ t.cores = s.cores ∧
    (deviceRuns s = false → t = s) ∧ (w = none → bit (rget s 0x08000008) 0 = true → t = s) ∧ (w = none → s.injectq = [] → t = s)) ∧
  (∀ (q : PortId) (v : Fin 13) (k : Packet) (s : State), deviceRuns s = true → s.ports[q].inbuf = [(v.val, k)] →
    let fromBuf := fun (t : State) => t.ports[q].inbuf = [] ∧
      (k ∉ s.ports[q].old → t.ports[q].freed[v] = s.ports[q].freed[v] + 1 + k.len) ∧
      (k ∈ s.ports[q].old → t.ports[q].freed = s.ports[q].freed ∧ t.ports[q].old = s.ports[q].old.erase k)
    let toPort := fun (t : State) (o : PortId) (vc : Fin 13) => ∃ k' : Packet, k'.w1 = k.w1 ∧ k'.w2 = k.w2 ∧ k'.w3 = k.w3 ∧ k'.payload = k.payload ∧
      k'.hops = k.hops + 1 ∧ (∀ i < 64, i < 16 ∨ 32 ≤ i → k'.w0.getLsbD i = k.w0.getLsbD i) ∧
      t.ports[o].outq = s.ports[o].outq ++ [(vc.val, k')] ∧ t.ports[o].used[vc] = s.ports[o].used[vc] + 1 + k.len
    ∃ t, exec (.packetRouteGrant (some q)) s = .next t ∧
      (t = s ∨
        (fromBuf t ∧ ((t.dev = (fincr s 0x08000108 47 32 1).dev ∧ ∀ o : PortId, t.ports[o].outq = s.ports[o].outq) ∨
          (63 ≤ k.hops ∧ t.dev = (fincr s 0x08000108 63 48 1).dev ∧ ∀ o : PortId, t.ports[o].outq = s.ports[o].outq) ∨
          (t.dev = s.dev ∧ k.hops < 63 ∧ ∃ (o : PortId) (vc : Fin 13), portUsable s o = true ∧ credit s o vc (1 + k.len) = true ∧ toPort t o vc ∧
            (v.val % 3 ≠ 0 → vc.val % 3 ≠ 0) ∧ ∀ y : PortId, y ≠ o → t.ports[y].outq = s.ports[y].outq)))) ∧
      (63 ≤ k.hops → fromBuf t ∧ t.dev = (fincr s 0x08000108 63 48 1).dev) ∧
      (∀ o ∈ candidates s k, k.hops < 63 → isTransit s k = false → v.val % 3 = 0 →
        (∀ y ∈ candidates s k, queuedSlots s o (classOn s k o) < queuedSlots s y (classOn s k y) ∨
          (queuedSlots s o (classOn s k o) = queuedSlots s y (classOn s k y) ∧ o.val ≤ y.val)) →
        credit s o (Fin.ofNat 13 (3 * classOn s k o)) (1 + k.len) = true → fromBuf t ∧ toPort t o (Fin.ofNat 13 (3 * classOn s k o))))

/-- COMMIT (R297, R298). -/
def Obligations.CatalogueCommit : Prop :=
  ∀ s : State,
    let a := s.catActive
    let b := s.catShadow
    let nibs := fun (c : Nat) (i : Fin 4) => c / 16 ^ i.val % 16
    let sh := bits b.hdr0 47 32
    let inside := fun (c : Nat) => ∀ i : Fin 4, nibs c i ≤ nibs sh i
    let shaped : Prop := nibs sh 0 ≤ 7 ∧ nibs sh 1 ≤ 7 ∧ inside (bits b.hdr0 63 48) ∧
      (∀ p : PortId, bit b.nbr[p] 63 = true → inside (bits b.nbr[p] 47 32)) ∧
      (∀ g : Gal, bit b.gal[g] 63 = true → inside (bits b.gal[g] 31 16) ∧ inside (bits b.gal[g] 47 32))
    let keeps : Prop := (∀ g : Gal, isOpen s g = true → a.gal[g] = b.gal[g]) ∧
      ((∃ g : Gal, isOpen s g = true) → bits a.hdr0 63 32 = bits b.hdr0 63 32 ∧ bits a.hdr0 19 16 = bits b.hdr0 19 16)
    let busy : Prop := bit (rget s 0x08000000) 0 = true ∧ bit (rget s 0x08000008) 0 = false
    let old : Prop := bits b.hdr0 15 0 ≤ bits a.hdr0 15 0
    let refused := fun (k : Nat) => exec .catalogueCommit s = .next (fset (fset s 0x08000000 11 8 k) 0x08000000 15 15 1)
    (busy → refused 1) ∧ (¬busy → old → refused 2) ∧ (¬busy → ¬old → ¬shaped → refused 3) ∧
    (¬busy → ¬old → shaped → ¬keeps → refused 4) ∧
    (¬busy → ¬old → shaped → keeps → rising (s.dev.map Prod.fst) = true → ∃ t, exec .catalogueCommit s = .next t ∧ t.catActive = b ∧ t.catShadow = b ∧ t.mem = s.mem ∧
      t.cores = s.cores ∧ bit (rget t 0x08000000) 0 = true ∧ bits (rget t 0x08000000) 31 16 = bits b.hdr0 15 0 ∧
      bits (rget t 0x08000000) 11 8 = 0 ∧
      t.prov.meas = s.prov.meas.set 4 (sha512 (s.prov.meas[4] ++ sha512 ((b.hdr0 :: b.hdr1 :: (b.gal.toList ++ b.nbr.toList)).flatMap
        (fun (w : Word) => leBytes 8 w.toNat)))) ∧
      ∀ p : PortId,
        let st := linkState s p
        let changed : Prop := a.nbr[p].toNat % 2 ^ 62 ≠ b.nbr[p].toNat % 2 ^ 62 ∨ bit a.nbr[p] 63 ≠ bit b.nbr[p] 63 ∨
          ∃ g : Gal, sharedBox a g p ≠ sharedBox b g p ∨ (sharedBox b g p = true ∧ bits a.gal[g] 15 0 ≠ bits b.gal[g] 15 0)
        (bit b.nbr[p] 63 = false → linkState t p = 0xB ∧ bits (rget t (lnkSt p)) 43 40 = 9) ∧
        (bit b.nbr[p] 63 = true → 4 ≤ st → st ≤ 7 → changed → linkState t p = 3 ∧ t.ports[p].nonceRx = none) ∧
        (bit b.nbr[p] 63 = true → st = 4 → ¬changed → linkState t p = 5 ∨ linkState t p = 6 ∨ linkState t p = 7) ∧
        (bit b.nbr[p] 63 = true → st = 8 → 4 ≤ s.ports[p].before → s.ports[p].before ≤ 7 → changed →
          linkState t p = 8 ∧ t.ports[p] = { s.ports[p] with reident := true }) ∧
        (bit b.nbr[p] 63 = true → (¬(4 ≤ st ∧ st ≤ 7) ∧ ¬(st = 8 ∧ 4 ≤ s.ports[p].before ∧ s.ports[p].before ≤ 7 ∧ changed)) ∨ (st ≠ 4 ∧ ¬changed) → linkState t p = st ∧ t.ports[p] = s.ports[p]))

/-- The Timebase over the links (R335 to R344). The rate of a slew is open within its bound (log entry 3). -/
def Obligations.TimebaseExchanges : Prop :=
  (∀ s : State,
    let sends := fun (t : State) (p : PortId) => t.ports[p].tbSeq = s.ports[p].tbSeq + 1 ∧ t.ports[p].tbReq = none ∧
      ∃ k : Packet, t.ports[p].mgmtq = s.ports[p].mgmtq ++ [k] ∧ k.type = 0x13 ∧ k.len = 1 ∧
        k.type0 = 2 ^ 28 + (s.ports[p].tbSeq + 1).toNat ∧ k.payload = List.replicate 32 0
    (deviceRuns s = false → exec .timebaseExchangePeriod s = .next s) ∧
    (deviceRuns s = true → ∃ t, exec .timebaseExchangePeriod s = .next t ∧ t.mem = s.mem ∧ t.cores = s.cores ∧
      (∀ p : PortId, (linkState s p = 4 ∨ linkState s p = 5 ∨ linkState s p = 6) → sends t p) ∧
      (∀ p : PortId, ¬(linkState s p = 4 ∨ linkState s p = 5 ∨ linkState s p = 6) → t.ports[p] = s.ports[p]) ∧
      (tmbState s = 1 → bits (rget s 0x0B000030) 3 0 = 0xF → rising (s.dev.map Prod.fst) = true → (∀ p : PortId, s.ports[p].announce = none) → s.tb.declined = [] →
        t.tb.rootPeriods = s.tb.rootPeriods + 1 ∧ tmbState t = if 63 ≤ s.tb.rootPeriods then 3 else 1))) ∧
  -- Election (R338, R339)
  (∀ s : State, rising (s.dev.map Prod.fst) = true → (∀ g : Gal, isOpen s g = false) → 1 ≤ tmbState s → tmbState s ≤ 3 →
    let u := elect 13 s
    let root := fun (u : State) => rget u 0x0B000030
    let cand := fun (p : PortId) (w : Word) => s.ports[p].announce = some w ∧ (linkState s p = 4 ∨ linkState s p = 5 ∨ linkState s p = 6) ∧
      bits w 55 50 ≠ 63
    -- LOCKED first, then the lower PRIO, KEYID and HOPS
    let key := fun (w : Word) => [if bit w 63 then 0 else 1, bits w 47 40, bits w 39 8, bits w 55 50]
    let own := announcement (tmbState s = 3) 0 (bits (rget s 0x0B000008) 23 16) (ownKeyId s)
    u.mem = s.mem ∧ u.cores = s.cores ∧ u.ports = s.ports ∧
    (∀ p w, cand p w → key w < key own → (∀ q v, cand q v → key w < key v ∨ (key w = key v ∧ p.val ≤ q.val)) →
      bits (root u) 3 0 = p.val ∧ bits (root u) 21 16 = bits w 55 50 + 1 ∧ bits (root u) 31 24 = bits w 47 40 ∧
      bits (root u) 63 32 = bits w 39 8 ∧
      tmbState u = if bits w 39 8 = bits (root s) 63 32 ∧ tmbState s ≠ 1 then tmbState s else 2) ∧
    ((∀ p w, cand p w → key own ≤ key w) → bits (root u) 3 0 = 0xF ∧ bits (root u) 31 24 = bits (rget s 0x0B000008) 23 16)) ∧
  -- Exchanges (R336, R340)
  (∀ (p : PortId) (seq : BitVec 16) (w : Word) (t2 t3 t4 : BitVec 80) (s : State), (∀ k ∈ s.ports[p].arrived, k.type ≠ 0x13) →
    let x := s.ports[p]
    let may : Prop := linkState s p = 4 ∨ linkState s p = 5 ∨ linkState s p = 6
    let rsp := exec (.timebaseRspReceive p seq w t2 t3 t4) s
    let idle := setPort s p { x with tbReq := none }
    let parent : Prop := bits (rget s 0x0B000030) 3 0 = p.val
    (¬may → exec (.timebaseReqReceive p seq w t2) s = .next s ∧ rsp = .next s) ∧
    (may → ∃ t, exec (.timebaseReqReceive p seq w t2) s = .next t ∧ t.mem = s.mem ∧ t.cores = s.cores ∧ t.ports[p].announce = some w ∧
      (∀ q, q ≠ p → t.ports[q] = s.ports[q]) ∧
      ∃ k : Packet, t.ports[p].mgmtq = x.mgmtq ++ [k] ∧ k.type = 0x13 ∧ k.type0 = 2 * 2 ^ 28 + seq.toNat ∧
        k.payload = leBytes 10 t2.toNat ++ List.replicate 22 0) ∧
    (may → x.tbReq = none → rsp = .next s) ∧
    (∀ n t1, may → x.tbReq = some (n, t1) → n ≠ seq ∨ t1 + 50000 * 65536 < t4.toNat →
      (¬parent → rsp = .next idle) ∧ (parent → rsp = .next { idle with tb := { s.tb with thetas := [] } })) ∧
    (∀ t1, may → x.tbReq = some (seq, t1) → t4.toNat ≤ t1 + 50000 * 65536 → rising (s.dev.map Prod.fst) = true →
      let a : Int := (BitVec.ofNat 16 (bits (rget s (0x0B000080 + 8 * p.val)) 15 0)).toInt
      -- In thousandths of 2^-16 ns
      let theta : Int := (((t1 : Int) - t2.toNat) + ((t4.toNat : Int) - t3.toNat)) * 500 + a * 65536
      let delta : Int := (((t4.toNat : Int) - t1) - ((t3.toNat : Int) - t2.toNat)) * 500
      let u := elect 13 (setPort s p { x with tbReq := none, tbMeas := some (theta, delta), announce := some w })
      let follows : Prop := tmbParent u = p.val ∧ (tmbState u = 2 ∨ tmbState u = 3)
      let steps : Prop := 64 * 65536 * 1000 < theta.natAbs ∧ (∀ g : Gal, isOpen u g = false) ∧ bit (rget u 0x0B000008) 0 = false
      (¬follows → rsp = .next u) ∧
      (follows → ∃ t, rsp = .next t ∧ t.ports = u.ports ∧ t.mem = s.mem ∧ t.cores = s.cores ∧
        ∃ k : Int, 1000 * k - 1000 < theta ∧ theta < 1000 * k + 1000 ∧
          rget t 0x0B000028 = BitVec.ofInt 64 k ∧
          (steps → (t.tb.count : Int) = ((u.tb.count : Int) - k * 65536) % 2 ^ 96 ∧ bit (rget t 0x0B000000) 13 = true) ∧
          (¬steps → t.tb.count = u.tb.count ∧ 4569114145 - 913822 ≤ bits (rget t 0x0B000020) 39 0 ∧
            bits (rget t 0x0B000020) 39 0 ≤ 4569114145 + 913822)))) ∧
  -- Holdover and PTP
  (∀ s : State,
    let u := elect 13 (advanceTo s (s.tb.holdSince + 4000000))
    let v := fset (rootSelf u) 0x0B000000 2 0 1
    let best := bestAnn (tbCandidates u)
    -- An open Gallery makes the device measure a LOCKED root that ranks above it before it takes it.
    let measures := fun (w : Word) => (∃ g : Gal, isOpen u g = true) ∧ bit w 63 = true ∧ annRank w < annRank (ownAnn v)
    (tmbState s ≠ 4 → exec .holdoverExpire s = .next s) ∧
    (tmbState s = 4 → tmbState u ≠ 4 → exec .holdoverExpire s = .next u) ∧
    (tmbState s = 4 → tmbState u = 4 →
      ((∀ p w, best = some (p, w) → ¬measures w) →
        (u.tb.declined ≠ [] → (∃ g : Gal, isOpen u g = true) → exec .holdoverExpire s = .next u) ∧
        (u.tb.declined = [] ∨ (∀ g : Gal, isOpen u g = false) → exec .holdoverExpire s = .next (elect 13 v))) ∧
      (∀ p w, best = some (p, w) → measures w →
        (u.ports[p].tbMeas = none → exec .holdoverExpire s = .next u) ∧
        (∀ theta d, u.ports[p].tbMeas = some (theta, d) → 64 * 65536 * 1000 < theta.natAbs → ∃ t, exec .holdoverExpire s = .next t ∧
          tmbState t = 4 ∧ bits w 39 8 ∈ t.tb.declined ∧ t.tb.count = u.tb.count ∧ t.mem = s.mem ∧ t.cores = s.cores) ∧
        (∀ theta d, u.ports[p].tbMeas = some (theta, d) → theta.natAbs ≤ 64 * 65536 * 1000 → u.tb.declined = [] →
          exec .holdoverExpire s = .next (elect 13 v)))) ∧
    v.tb.count = u.tb.count ∧ (elect 13 v).tb.count = u.tb.count) ∧
  (∀ (domain : BitVec 8) (v6 : Bool) (m : PtpMsg) (s : State), rising (s.dev.map Prod.fst) = true →
    let port : Prop := deviceRuns s = true ∧ bit (rget s 0x0E000008) 0 = true ∧ bit (rget s 0x0E000000) 3 = true
    let on : Prop := bit (rget s 0x0B000008) 1 = true ∧ domain.toNat = bits (rget s 0x0B000008) 15 8
    let taken := fincr s 0x0E000048 63 32 1
    let ends := fun (t : State) => exec (.ptpMessage m domain v6) s = .next t
    -- The Delay_Req, with the times of the Sync and of its departure kept.
    let asks := fun (seq : BitVec 16) (t1 t2 : Nat) => ends (ethSend
      { taken with tb := { s.tb with ptpSync := none, ptpReq := some (seq, t1, t2, now s) } }
      (.eth 7 ([1, BitVec.ofNat 8 (bits (rget s 0x0B000008) 15 8)] ++ (leBytes 2 seq.toNat).reverse)))
    (¬port → ends s) ∧ (port → ¬on → ends taken) ∧
    (port → on → m = .other → ends taken) ∧
    (∀ seq o, port → on → m = .sync true seq o → ends { taken with tb := { s.tb with ptpSync := some (seq, now s) } }) ∧
    (∀ seq o, port → on → m = .sync false seq o → asks seq o.toNat (now s)) ∧
    (∀ seq o, port → on → m = .followUp seq o → (∀ t2, s.tb.ptpSync = some (seq, t2) → asks seq o.toNat t2) ∧
      ((∀ t2, s.tb.ptpSync ≠ some (seq, t2)) → ends taken)) ∧
    (∀ seq t4, port → on → m = .delayResp seq t4 → ((∀ x, s.tb.ptpReq ≠ some (seq, x)) → ends taken) ∧
      ∀ t1 t2 t3, s.tb.ptpReq = some (seq, t1, t2, t3) →
        let sum : Int := ((t1 : Int) - t2) + ((t4.toNat : Int) - t3)
        ∃ (t : State) (off : Int), ends t ∧ sum - 1 ≤ 2 * off ∧ 2 * off ≤ sum + 1 ∧
          t.mem = s.mem ∧ t.cores = s.cores ∧ t.ports = s.ports ∧ t.tb.count = s.tb.count ∧ t.tb.ptpReq = none ∧
          rget t 0x0B000038 = BitVec.ofInt 64 off ∧
          (s.tb.ptp.length = 7 → t.tb.ptp = s.tb.ptp ++ [off] ∧
            (bit (rget t 0x0B000000) 12 = true ↔ ∀ y ∈ t.tb.ptp, ∀ z ∈ t.tb.ptp, y ≤ z + 100)) ∧
          (bit (rget s 0x0B000008) 2 = true → bits (rget s 0x0B000030) 3 0 = 0xF → tmbState s ≠ 0 →
            4569114145 - 228455 ≤ bits (rget t 0x0B000020) 39 0 ∧ bits (rget t 0x0B000020) 39 0 ≤ 4569114145 + 228455) ∧
          (bit (rget s 0x0B000008) 2 = false → rget t 0x0B000020 = rget s 0x0B000020)))

/-- Power, clocks, temperature and the reset pins (chapters 13, 15 and 16). -/
def Obligations.PowerClocksAndHeat : Prop :=
  -- PLLs and the Ethernet link
  (∀ (p : Pll) (s : State),
    let bitOf := match p with
      | .core => 0 | .memory => 1 | .ethernet => 2 | .port k => 16 + k.val
    let shown := fun (t : State) => bit (rget t 0x11000000) bitOf = false ∧
      (∃ c ∈ t.cr.general, bits c.ent.w0 55 48 = 0x27)
    exec (.pllLockAcquired p) s = .next (fset s 0x11000000 bitOf bitOf 1) ∧
    (s.pins.pwrgood = false ∨ s.pins.refclk = false → exec (.pllLockLoss p) s =
      .next (fincr (fset s 0x11000000 bitOf bitOf 0) 0x11000000 63 32 1)) ∧
    (s.pins.pwrgood = true → s.pins.refclk = true → rising (s.dev.map Prod.fst) = true → ∃ t, exec (.pllLockLoss p) s = .next t ∧ shown t ∧
      (p = .core ∨ p = .memory → t.chipHold = some 0) ∧
      (p = .ethernet → bits (rget t 0x0E000000) 4 3 = 0 ∧ t.mem = s.mem ∧ t.cores = s.cores ∧ t.ports = s.ports) ∧
      (∀ k, p = .port k → (1 ≤ linkState s k ∧ linkState s k ≤ 8 → LinkEnters s t k 0 2) ∧
        (¬(1 ≤ linkState s k ∧ linkState s k ≤ 8) → t.ports = s.ports ∧ t.mem = s.mem ∧ t.cores = s.cores)))) ∧
  (∀ (a : Bool) (corr uncorr : BitVec 32) (s : State),
    let u := fincr (fincr s 0x0E000050 31 0 corr.toNat) 0x0E000050 63 32 uncorr.toNat
    (bit (rget s 0x0E000008) 0 = true → rising (s.dev.map Prod.fst) = true → ∃ t, exec (.ethernetLinkChange a corr uncorr) s = .next t ∧
      t.mem = s.mem ∧ t.cores = s.cores ∧ t.ports = s.ports ∧ bits (rget t 0x0E000000) 4 3 = (if a then 3 else 0) ∧
      rget t 0x0E000050 = rget u 0x0E000050 ∧ (uncorr ≠ 0 → (score t 0x125).score = min ((score s 0x125).score + 4 * uncorr.toNat) 65535) ∧
      -- The DHCP clients start as the link comes up.
      (uncorr = 0 → s.eth.waiting = [] → let starts : Prop := a = true ∧ bit (rget s 0x0E000000) 3 = false ∧ bit (rget s 0x0E000008) 2 = true
        (¬starts → t.out = s.out ∧ t.eth = s.eth) ∧ (starts → ethPaused s = false →
          t.out = s.out ++ [.eth 5 [1], .eth 6 [1]]))) ∧
    (bit (rget s 0x0E000008) 0 = false → exec (.ethernetLinkChange a corr uncorr) s = .next (fset s 0x0E000000 4 3 0))) ∧
  -- Temperature
  (∀ (readings : List (BitVec 16)) (s : State), rising (s.dev.map Prod.fst) = true → readings.length = 40 →
    let rd := fun (i : Fin 40) => readings.getD i.val 0
    let shows := fun (t : State) (i : Fin 40) => bits (rget t (0x10000100 + 8 * i.val)) 15 0
    let fails := fun (t : State) (i : Fin 40) => bit (rget t (0x10000100 + 8 * i.val)) 16
    let top := fun (t : State) => (BitVec.ofNat 16 (bits (rget t 0x10000000) 31 16)).toInt
    let runs := fun (i : Fin 40) =>
      if shows s i ≠ (rd i).toNat then 0
      else if ∃ k, k ≠ i ∧ shows s k ≠ (rd k).toNat then s.pins.sameRuns[i] + 1 else s.pins.sameRuns[i]
    let acts := fun (t : State) => if 2 ≤ (List.finRange 40).countP (fails t) then max (top t) 0x6C0 else top t
    (s.pins.pwrgood = false ∨ s.pins.refclk = false → exec (.sensorSample readings) s = .next s) ∧
    (s.pins.pwrgood = true → s.pins.refclk = true → ∃ t, exec (.sensorSample readings) s = .next t ∧
      (∀ i, shows t i = (rd i).toNat ∧ (s.pins.tripped = true ∨ t.pins.tripped = false → t.pins.sameRuns[i] = runs i) ∧
        fails t i = (fails s i || Config.sensorOutOfRange (rd i) || decide (100000 ≤ runs i))) ∧
      (∀ i, fails t i = false → (∀ k, fails t k = false → (rd k).toInt ≤ (rd i).toInt) →
        bits (rget t 0x10000000) 31 16 = (rd i).toNat) ∧
      (s.pins.tripped = true → t.pins.tripped = true ∧ t.cores = s.cores ∧ t.mem = s.mem) ∧
      (s.pins.tripped = false → (∃ i, fails t i = false) →
        (0x730 ≤ top t → t.pins.tripped = true ∧ bit (rget t 0x10000000) 14 = true ∧ bootState t = 0 ∧
          t.cores = Vector.replicate 128 { cycleBase := s.clk } ∧ (∃ c ∈ t.cr.general, bits c.ent.w0 55 48 = 0x23)) ∧
        (top t < 0x730 → t.pins.tripped = false ∧ t.cores = s.cores ∧ t.mem = s.mem ∧
          (0x6C0 ≤ acts t → bit (rget t 0x10000000) 13 = true) ∧ (acts t < 0x690 → bit (rget t 0x10000000) 13 = false) ∧
          (0x690 ≤ acts t → acts t < 0x6C0 → bit (rget t 0x10000000) 13 = bit (rget s 0x10000000) 13))))) ∧
  (∀ (est : BitVec 16) (s : State), rising (s.dev.map Prod.fst) = true →
    let on : Prop := deviceRuns s = true ∧ bit (rget s 0x10000008) 1 = true
    let cap := bits (rget s 0x10000018) 15 0
    let throt := (BitVec.ofNat 16 (bits (rget s 0x10000010) 15 0)).toInt
    let hot : Prop := throt ≤ actTemp s ∨ cap < est.toNat
    let cool : Prop := actTemp s < throt - 48 ∧ 100 * est.toNat < 95 * cap
    let most := if bit (rget s 0x10000000) 11 then 4 else 8
    let old := s.pins.loopCeil
    (¬on → exec (.thermalLoop est) s = .next s) ∧
    (on → old ≤ 8 → ∃ t, exec (.thermalLoop est) s = .next t ∧ t.mem = s.mem ∧ t.cores = s.cores ∧
      let c := t.pins.loopCeil
      (hot → c = max (old - 1) 1) ∧ (¬hot → cool → c = min (old + 1) most) ∧ (¬hot → ¬cool → c = min old most) ∧
      (∀ n : CoreId, bits (rget t (engReg n.val 0x20)) 3 0 = c) ∧ bits (rget t 0x10000020) 15 0 = est.toNat ∧
      (bit (rget t 0x10000000) 12 = true ↔ c < 8))) ∧
  -- Voltage (R435, R436) and slew
  (∀ (margin low high : BitVec 16) (s : State), rising (s.dev.map Prod.fst) = true →
    let tgt := fun (t : State) => bits (rget t 0x10000030) 11 0
    let applied := bits (rget s 0x10000030) 27 16
    let on : Prop := bit (rget s 0x10000008) 0 = true
    let rested : Prop := ∀ m, s.pins.avsLowered = some m → m + 100000000 ≤ now s
    let held := fun (t : State) => bit (rget t 0x10000000) 11 = true
    (deviceRuns s = false → exec (.avsPeriod margin low high) s = .next s) ∧
    (deviceRuns s = true → ∃ t, exec (.avsPeriod margin low high) s = .next t ∧ t.mem = s.mem ∧ t.cores = s.cores ∧
      bits (rget t 0x10000038) 15 0 = margin.toNat ∧
      (¬on → tgt t = 820) ∧
      (on → margin < low → tgt s < 820 → tgt t = min (tgt s + 10) 820) ∧
      (on → high < margin → low ≤ margin → applied = tgt s → rested → 725 ≤ tgt s → tgt t = tgt s - 5) ∧
      (on → ¬(margin < low ∧ tgt s < 820) → ¬(high < margin ∧ applied = tgt s ∧ rested ∧ 725 ≤ tgt s) → tgt t = tgt s) ∧
      (held s → (held t ↔ ¬(applied = tgt t ∧ low ≤ margin))) ∧
      (¬held s → (held t ↔ on ∧ ((tgt t = 820 ∧ margin < low) ∨
        ((∃ m, t.pins.avsRaised = some m ∧ m + 20000000 ≤ now s) ∧ applied < tgt t)))))) ∧
  (∀ (req : BitVec 128) (s : State), ∃ t, exec (.slewWindow req) s = .next t ∧ t = { s with pins := t.pins } ∧
    let place := fun (k : Nat) => (k + 127 - s.pins.slewLast % 128) % 128
    ∀ k < 128, t.pins.slewRefused.getLsbD k = true ↔ req.getLsbD k = true ∧
      bits (rget s 0x10000028) 10 0 ≤ (List.range 128).countP (fun j => req.getLsbD j && decide (place j < place k))) ∧
  -- Pins
  (∀ (ns : Nat) (straps : BitVec 4) (s : State),
    let open_ : Prop := s.pins.pwrgood = true ∧ s.pins.tripped = false ∧ s.chipHold = none
    (ns < 1000 → exec (.pwrgoodDeassert ns) s = .next s ∧ exec (.resetNAssert ns) s = .next s) ∧
    (1000 ≤ ns → exec (.pwrgoodDeassert ns) s = .next { State.reset with
      pending := s.pending, out := s.out, free := s.free
      prov := { flash := s.prov.flash, pufCount := s.prov.pufCount + 1 }
      pins := { pwrgood := false, resetN := s.pins.resetN, strap := s.pins.strap, refclk := s.pins.refclk } }) ∧
    (s.pins.pwrgood = true → exec .pwrgoodAssert s = .next s) ∧
    (s.pins.pwrgood = false → ∃ t, exec .pwrgoodAssert s = .next t ∧ t.pins.pwrgood = true ∧ t.pins.refclk = true ∧ t.mem = s.mem ∧
      t.cores = s.cores ∧ (s.pins.resetN = true → BringsUp s t s.pins.strap) ∧ (s.pins.resetN = false → t.dev = s.dev ∧ t.chipHold = s.chipHold)) ∧
    (s.pins.resetN = false → exec (.resetNAssert ns) s = .next s) ∧
    (1000 ≤ ns → s.pins.resetN = true → open_ → bootState s ≠ 0 → ∃ t, exec (.resetNAssert ns) s = .next t ∧ ChipResets s t 1 none ∧
      t.pins.resetN = false) ∧
    (1000 ≤ ns → s.pins.resetN = true → ¬open_ ∨ bootState s = 0 →
      exec (.resetNAssert ns) s = .next { s with pins := { s.pins with resetN := false } }) ∧
    (s.pins.resetN = true → bootState s ≠ 0 → exec (.resetNRelease straps) s = .next s) ∧
    (s.pins.resetN = false ∨ bootState s = 0 → ∃ t, exec (.resetNRelease straps) s = .next t ∧ t.pins.resetN = true ∧
      t.pins.strap = straps ∧ t.mem = s.mem ∧ t.cores = s.cores ∧ (open_ → BringsUp s t straps) ∧ (¬open_ → t.dev = s.dev)) ∧
    exec .refclkLoss s = .next { s with pins := { s.pins with refclk := false } } ∧
    (deviceRuns s = false → exec .curCtlChipReset s = .next s) ∧
    (deviceRuns s = true → ∃ t, exec .curCtlChipReset s = .next t ∧ ChipResets s t 5 (some 0)) ∧
    (let goes : Prop := s.chipHold ≠ none ∧ s.pins.resetN = true ∧ s.pins.pwrgood = true ∧ s.pins.tripped = false;
      (¬goes → exec .chipResetHoldEnd s = .next s) ∧
      (goes → ∃ t, exec .chipResetHoldEnd s = .next t ∧ BringsUp s t s.pins.strap ∧ t.mem = s.mem ∧ t.clk = s.clk + 94000)))

/-- Commands of a host endpoint (Table 12-4). -/
def Obligations.HostCommands : Prop :=
  (∀ (e : Ep) (tag : BitVec 32) (s : State),
    let once : List (Instr × Nat) := [(.shtNop e tag, 1), (.info e tag, 2), (.windowSet e tag, 3), (.ctxStart e tag, 4), (.ctxCtl e tag, 5),
      (.ctxRead e tag, 6), (.memMap e tag, 7), (.memUnmap e tag, 8), (.memProtect e tag, 9), (.nanRearm e tag, 10),
      (.shtComputeReset e tag, 11), (.shtGalleryReset e tag, 12), (.bind e tag, 0x21), (.regRead e tag, 0x23), (.regWrite e tag, 0x24),
      (.retireApply e tag, 0x25), (.crRead e tag, 0x30), (.crClear e tag, 0x31), (.appraiseRead e tag, 0x32), (.appraisePeer e tag, 0x33),
      (.mirrorAccept e tag, 0x35), (.shtChipReset e tag, 0x36), (.netbootBegin e tag, 0x40), (.netbootGo e tag, 0x41),
      (.measlogRead e tag, 0x43), (.flashBegin e tag, 0x44), (.flashCommit e tag, 0x45)]
    ∀ x ∈ once,
      (deviceRuns s = false ∨ findNew (endpoint s e) tag x.2 = none ∨
        (∃ c, findNew (endpoint s e) tag x.2 = some c ∧ mayStart (endpoint s e) c = false) → exec x.1 s = .next s) ∧
      (∀ c, deviceRuns s = true → findNew (endpoint s e) tag x.2 = some c → mayStart (endpoint s e) c = true →
        hostClass x.2 = true → c.since + 50000 < now s → exec x.1 s = .next (complete s e tag x.2 .timeout 0 0 0))) ∧
  -- A completion
  (∀ (e : Ep) (tag : BitVec 32) (op : Nat) (st : Status) (r1 r2 r3 : Word) (s : State) (c : ShtCmdRec),
    findCmd (endpoint s e) tag op = some c →
    let t := complete s e tag op st r1 r2 r3
    let x := endpoint s e
    let y := endpoint t e
    let late : Prop := hostClass c.op = true ∧ c.pendingSent = false ∧ c.since + 50000 < now s ∧ st = .ok
    t.mem = s.mem ∧ t.cores = s.cores ∧ t.gal = s.gal ∧ y.cmds.length + 1 = x.cmds.length ∧ (∀ f : Ep, f ≠ e → endpoint t f = endpoint s f) ∧
    (∀ n, x.session = some n → c.live = true → y.txSeq = x.txSeq + 1 ∧ ∃ m ∈ y.unacked, m.seq = y.txSeq ∧ m.kind = 0x11 ∧
      (¬late → m.body = cplBytes tag op st r1 r2 r3) ∧ (late → m.body = cplBytes tag op .timeoutDone r1 r2 r3))) ∧
  (∀ (g : Gal) (e : Ep) (tag : BitVec 32) (s : State) (c : ShtCmdRec), e = .host g →
    let a := fun (i : Nat) => c.args.getD i 0
    let u := markStarted s e c
    let ok := fun (i : Instr) (op : Nat) (st : Status) (t : State) => exec i s = .next (complete t e tag op st 0 0 0)
    let ans := fun (i : Instr) (op : Nat) (t : State) (r1 r2 r3 : Word) => exec i s = .next (complete t e tag op .ok r1 r2 r3)
    let n : CoreId := Fin.ofNat 128 (a 1).toNat
    let mine : Prop := coreOwner s n = some g
    (Starts s e tag 1 c → ok (.shtNop e tag) 1 .ok u) ∧
    (Starts s e tag 2 c → ans (.info e tag) 2 u (blockWord u (0x0F000000 + g.val * 0x1000)) (gen s g) (blockWord u (0x0F000068 + g.val * 0x1000))) ∧
    (Starts s .mgmt tag 2 c → let v := markStarted s .mgmt c
      exec (.info .mgmt tag) s = .next (complete v .mgmt tag 2 .ok (blockWord v 0x08000000) (blockWord v 0x0B000000) (BitVec.ofNat 64 (vintage s)))) ∧
    (Starts s e tag 3 c →
      let bad : Prop := bits (a 1) 63 6 ≠ 0 ∨ (a 2).toNat % 2 ^ 17 ≠ 0
      let high : Prop := 2 ^ 48 < (a 2).toNat + (a 3).toNat * 2 ^ 17
      (bad → ok (.windowSet e tag) 3 .invalid u) ∧ (¬bad → high → ok (.windowSet e tag) 3 .range u) ∧
      (¬bad → ¬high → ∃ t, ok (.windowSet e tag) 3 .ok t ∧ t = { u with gal := t.gal } ∧ (∀ h, h ≠ g → t.gal[h] = s.gal[h]) ∧
        t.gal[g] = { s.gal[g] with windows := t.gal[g].windows } ∧
        ∀ i : Fin 16, t.gal[g].windows[i] = if i.val ≠ bits (a 1) 3 0 then s.gal[g].windows[i] else
          if a 3 = 0 then {} else ⟨(a 2).toNat, (a 3).toNat, bit (a 1) 4, bit (a 1) 5⟩)) ∧
    (Starts s e tag 4 c →
      let b := fun (i : Nat) => bits (a 4) (8 * i + 7) (8 * i)
      let good : Prop := ∀ i < 8, b i / 32 % 4 = 0 ∧ (b i < 128 ∨ b i % 16 ≤ if (b i).testBit 4 then 15 else 1)
      let high : Prop := 2 ^ 41 ≤ (a 3).toNat
      let busy : Prop := (coreAt s n).state ≠ .empty ∨ tearing s g = true
      (¬good → ok (.ctxStart e tag) 4 .invalid u) ∧ (good → 127 < (a 1).toNat → ok (.ctxStart e tag) 4 .range u) ∧
      (good → (a 1).toNat ≤ 127 → ¬mine → ok (.ctxStart e tag) 4 .badState u) ∧
      (good → (a 1).toNat ≤ 127 → mine → high → ok (.ctxStart e tag) 4 .range u) ∧
      (good → (a 1).toNat ≤ 127 → mine → ¬high → busy → ok (.ctxStart e tag) 4 .badState u) ∧
      (good → (a 1).toNat ≤ 127 → mine → ¬high → ¬busy → ∃ t, ok (.ctxStart e tag) 4 .ok t ∧ t.mem = s.mem ∧ (∀ m, m ≠ n → coreAt t m = coreAt s m) ∧
        let d := coreAt t n
        d.state = .run ∧ d.pc = a 2 ∧ d.ctxpa = a 3 ∧ d.s = Vector.replicate 32 0 ∧ d.p = Vector.replicate 8 0 ∧ d.fpctl = 0 ∧ d.ecause = 0 ∧
        d.mq = [] ∧ d.hold = none ∧ d.launchPend = false ∧ d.retired = 0 ∧
        ∀ i : Fin 8, d.q[i] = if b i.val < 128 then 0 else
          mkWord [(63, 1), (32, if (b i.val).testBit 4 then 1 else 0), (24, g.val), (16, (gen s g).toNat % 256), (0, b i.val % 16)])) ∧
    (Starts s e tag 5 c →
      let k := (a 2).toNat
      let v := if k ≤ 2 then csrCurator u n 0x010 (a 3) else u
      let act := if k = 1 then Instr.ctxPreempt n else if k = 2 then .ctxRestore n else if k = 3 then .ctxResume n else .ctxKill n
      (k = 0 ∨ 4 < k → ok (.ctxCtl e tag) 5 .invalid u) ∧
      (1 ≤ k → k ≤ 4 → 127 < (a 1).toNat → ok (.ctxCtl e tag) 5 .range u) ∧
      (1 ≤ k → k ≤ 4 → (a 1).toNat ≤ 127 → ¬mine → ok (.ctxCtl e tag) 5 .badState u) ∧
      (1 ≤ k → k ≤ 2 → (a 1).toNat ≤ 127 → mine → (coreAt v n).ctxpa ≠ a 3 → ok (.ctxCtl e tag) 5 .badState v) ∧
      (∀ w, 1 ≤ k → k ≤ 4 → (a 1).toNat ≤ 127 → mine → (k ≤ 2 → (coreAt v n).ctxpa = a 3) → exec act v = .next w →
        ∃ st, ok (.ctxCtl e tag) 5 st w ∧ (st = .ok ∨ st = .badState) ∧ ((coreAt w n).badcmd = true → (coreAt v n).badcmd = false → st = .badState))) ∧
    (Starts s e tag 6 c →
      (127 < (a 1).toNat → ok (.ctxRead e tag) 6 .range u) ∧ ((a 1).toNat ≤ 127 → ¬mine → ok (.ctxRead e tag) 6 .badState u) ∧
      (∀ w, (a 1).toNat ≤ 127 → mine → csrWord s n (a 2).toNat = some w → ans (.ctxRead e tag) 6 u w 0 0) ∧
      (∀ k, (a 1).toNat ≤ 127 → mine → csrWord s n (a 2).toNat = none → csrBlock n (a 2).toNat = some k →
        ans (.ctxRead e tag) 6 (afterRead u k ((fields k).getD [])) (blockWord u k) 0 0) ∧
      ((a 1).toNat ≤ 127 → mine → csrWord s n (a 2).toNat = none → csrBlock n (a 2).toNat = none → ok (.ctxRead e tag) 6 .invalid u)) ∧
    -- Frames
    (let v0 := (a 1).toNat / 2 ^ 17;
      let odd := fun (flags : Word) => (a 1).toNat % 2 ^ 17 ≠ 0 ∨ a 2 = 0 ∨ 64 < (a 2).toNat ∨ bits flags 63 1 ≠ 0
      let high : Prop := 2 ^ 48 < (a 1).toNat + (a 2).toNat * 2 ^ 17
      let inRange := fun (v : Nat) => v0 ≤ v ∧ v < v0 + (a 2).toNat
      let mapped : Prop := ∀ v, inRange v → ∃ f, walkFrame s g.val v = some f ∧ feMigrating (frameEntry s f) = false
      let others := fun (t : State) => ∀ (h : Gal) (v : Nat), v < 2 ^ 31 → ¬(h = g ∧ inRange v) → walkFrame t h.val v = walkFrame s h.val v
      let only := fun (t : State) => t = { u with walker := t.walker, free := t.free }
      (Starts s e tag 7 c →
        (odd (a 3) → ok (.memMap e tag) 7 .invalid u) ∧ (¬odd (a 3) → high → ok (.memMap e tag) 7 .range u) ∧
        (¬odd (a 3) → ¬high → (∃ v, inRange v ∧ walkFrame s g.val v ≠ none) → ok (.memMap e tag) 7 .badState u) ∧
        (¬odd (a 3) → ¬high → (∀ v, inRange v → walkFrame s g.val v = none) → ok (.memMap e tag) 7 .noResource u ∨
          ∃ t, ok (.memMap e tag) 7 .ok t ∧ only t ∧
            (FrameMapOk s → (∀ f < 2 ^ 24, feZeroed (frameEntry s f) = true → feValid (frameEntry s f) = false) → FrameMapOk t ∧ others t ∧
              ∀ v, inRange v → ∃ f, walkFrame t g.val v = some f ∧ feWrite (frameEntry t f) = bit (a 3) 0 ∧
                frameOwner s f = some g ∧ feZeroed (frameEntry s f) = true))) ∧
      (Starts s e tag 8 c →
        (odd 0 → ok (.memUnmap e tag) 8 .invalid u) ∧ (¬odd 0 → high → ok (.memUnmap e tag) 8 .range u) ∧
        (¬odd 0 → ¬high → ¬mapped → ok (.memUnmap e tag) 8 .badState u) ∧
        (¬odd 0 → ¬high → mapped → ∃ t, ok (.memUnmap e tag) 8 .ok t ∧ only t ∧
          (FrameMapOk s → FrameMapOk t ∧ others t ∧ ∀ v, inRange v → walkFrame t g.val v = none))) ∧
      (Starts s e tag 9 c →
        (odd (a 3) → ok (.memProtect e tag) 9 .invalid u) ∧ (¬odd (a 3) → high → ok (.memProtect e tag) 9 .range u) ∧
        (¬odd (a 3) → ¬high → ¬mapped → ok (.memProtect e tag) 9 .badState u) ∧
        (¬odd (a 3) → ¬high → mapped → ∃ t, ok (.memProtect e tag) 9 .ok t ∧ only t ∧
          (FrameMapOk s → FrameMapOk t ∧ (∀ (h : Gal) (v : Nat), v < 2 ^ 31 → walkFrame t h.val v = walkFrame s h.val v) ∧
            ∀ v, inRange v → ∃ f, walkFrame t g.val v = some f ∧ feWrite (frameEntry t f) = bit (a 3) 0)))) ∧
    -- Trap and resets
    (let r := fun (o : Nat) => rget s (0x0F000000 + g.val * 0x1000 + o);
      (Starts s e tag 10 c → ∃ t, ans (.nanRearm e tag) 10 t (r 0x70) (r 0x78) (r 0x80) ∧ t.gal[g].fired = false ∧
        (rising (s.dev.map Prod.fst) = true → bit (rget t (0x0F000000 + g.val * 0x1000)) 4 = false ∧ rget t (0x0F000070 + g.val * 0x1000) = 0) ∧ t.mem = s.mem ∧ t.cores = s.cores) ∧
      (Starts s e tag 11 c → exec (.shtComputeReset e tag) s =
        .next (startReset (modGal u g (fun x => { x with resetCmds := x.resetCmds ++ [(e, tag)] })) g .compute 2 0)) ∧
      (Starts s e tag 12 c → exec (.shtGalleryReset e tag) s =
        .next (startReset (modGal u g (fun x => { x with resetCmds := x.resetCmds ++ [(e, tag)] })) g .gallery 2 0))))

/-- Commands of the management endpoint (Tables 12-4, 13-13, 14-9). -/
def Obligations.ManagementCommands : Prop :=
  (∀ (e : Ep) (tag : BitVec 32) (s : State) (c : ShtCmdRec),
    let a := fun (i : Nat) => c.args.getD i 0
    let u := markStarted s e c
    let ok := fun (i : Instr) (op : Nat) (st : Status) (t : State) => exec i s = .next (complete t e tag op st 0 0 0)
    let ans := fun (i : Instr) (op : Nat) (st : Status) (t : State) (r1 r2 r3 : Word) => exec i s = .next (complete t e tag op st r1 r2 r3)
    let noneWaits := fun (op : Nat) => (endpoint s e).cmds.find? (fun c => decide (c.tag = tag ∧ c.op = op) && c.started) = none
    -- COMPOSE, BIND, OPEN
    (∀ g : Gal, (a 1).toNat = g.val →
      let cm := (a 2).toNat
      let gm := (a 3).toNat
      (noneWaits 0x20 → Starts s e tag 0x20 c →
        let wide : Prop := 2 ^ 16 ≤ cm ∨ 2 ^ 16 ≤ gm
        let open_ : Prop := isOpen s g = true ∨ takenOpen s g cm gm = true
        let clear : Prop := tearing s g = false ∧ takenClearing s g cm gm = false
        (wide → ok (.compose e tag) 0x20 .invalid u) ∧ (¬wide → open_ → ok (.compose e tag) 0x20 .galleryOpen u) ∧
        (¬wide → ¬open_ → ¬clear → ∃ t, exec (.compose e tag) s = .next t ∧ t.gal = s.gal ∧ t.cores = s.cores ∧ t.mem = s.mem ∧
          ∀ h : Gal, rget t (glyReg h.val 0x10) = rget s (glyReg h.val 0x10)) ∧
        (¬wide → ¬open_ → clear → rising (s.dev.map Prod.fst) = true → ∃ t, ok (.compose e tag) 0x20 .ok t ∧
          (∀ i < 16, (bits (rget t (glyReg g.val 0x10)) 15 0).testBit i = cm.testBit i ∧
            (bits (rget t (glyReg g.val 0x18)) 15 0).testBit i = gm.testBit i) ∧
          (∀ (h : Gal) (i : Nat), h ≠ g → i < 16 →
            (bits (rget t (glyReg h.val 0x10)) 15 0).testBit i = ((bits (rget s (glyReg h.val 0x10)) 15 0).testBit i && !cm.testBit i) ∧
            (bits (rget t (glyReg h.val 0x18)) 15 0).testBit i = ((bits (rget s (glyReg h.val 0x18)) 15 0).testBit i && !gm.testBit i)) ∧
          (∀ n : CoreId, ownsCluster s g (n.val / 8) = true → cm.testBit (n.val / 8) = false →
            coreAt t n = { cycleBase := s.clk } ∧ ∀ y, caskBase n.val ≤ y → y < caskBase n.val + caskSize → t.mem.byte y = 0) ∧
          (∀ n : CoreId, ownsCluster s g (n.val / 8) = false ∨ cm.testBit (n.val / 8) = true → coreAt t n = coreAt s n) ∧
          (FrameMapOk s → (∀ f < 2 ^ 24, feValid (frameEntry t f) = true →
            feValid (frameEntry s f) = true ∧ (frameOwner t f).map (fun o => o.val) = some (feGallery (frameEntry t f)))))) ∧
      (noneWaits 0x22 → Starts s e tag 0x22 c →
        let leaving : Prop := tearing s g = true ∨ groupsExiting s g = true
        let none_ : Prop := bits (rget s (glyReg g.val 0x10)) 15 0 = 0 ∨ bits (rget s (glyReg g.val 0x18)) 15 0 = 0 ∨
          bits (rget s (glyReg g.val 0x30)) 1 0 = 0
        let outside : Prop := catValid s = false ∨ (bit s.catActive.gal[g] 63 = true ∧ inBox s g (coord s) = false)
        let stat := fun (k : Nat) => fset u (glyReg g.val 0) 23 16 k
        (isOpen s g = true → ok (.open e tag) 0x22 .badState u) ∧
        (isOpen s g = false → leaving → ∃ t, exec (.open e tag) s = .next t ∧ isOpen t g = false ∧ t.mem = s.mem ∧ t.cores = s.cores) ∧
        (isOpen s g = false → ¬leaving → none_ → ok (.open e tag) 0x22 .badState (stat 4)) ∧
        (isOpen s g = false → ¬leaving → ¬none_ → tmbState s ≠ 3 → ok (.open e tag) 0x22 .notreadyTb (stat 1)) ∧
        (isOpen s g = false → ¬leaving → ¬none_ → tmbState s = 3 → outside → ok (.open e tag) 0x22 .notreadyCat (stat 2)) ∧
        (isOpen s g = false → ¬leaving → ¬none_ → tmbState s = 3 → ¬outside → s.retire ≠ [] → ok (.open e tag) 0x22 .notreadyRetire (stat 3)) ∧
        (isOpen s g = false → ¬leaving → ¬none_ → tmbState s = 3 → ¬outside → s.retire = [] →
          ∃ t, ok (.open e tag) 0x22 .ok t ∧ t = { fset (stat 0) (glyReg g.val 0) 1 0 3 with gal := t.gal } ∧
            (∀ h, h ≠ g → t.gal[h] = s.gal[h]) ∧ t.gal[g] = { s.gal[g] with
              cq := Vector.replicate 16 {}, stepSeal := { s.gal[g].stepSeal with losses := [] } }))) ∧
    (8 ≤ (a 1).toNat → (noneWaits 0x20 → Starts s e tag 0x20 c → ok (.compose e tag) 0x20 .invalid u) ∧
      (noneWaits 0x22 → Starts s e tag 0x22 c → ok (.open e tag) 0x22 .invalid u)) ∧
    (Starts s e tag 0x21 c →
      let g : Gal := Fin.ofNat 8 (bits (a 1) 2 0)
      let fam := bits (a 1) 9 8
      let bad : Prop := bits (a 1) 63 10 ≠ 0 ∨ bits (a 1) 7 3 ≠ 0 ∨ fam = 0 ∨ fam = 3 ∨ (fam = 1 ∧ (bits (a 2) 63 32 ≠ 0 ∨ a 3 ≠ 0))
      (bad → ok (.bind e tag) 0x21 .invalid u) ∧ (¬bad → isOpen s g = true → ok (.bind e tag) 0x21 .galleryOpen u) ∧
      (¬bad → isOpen s g = false → rising (s.dev.map Prod.fst) = true → ∃ t, ok (.bind e tag) 0x21 .ok t ∧ t = { u with dev := t.dev } ∧
        bits (rget t (glyReg g.val 0x30)) 1 0 = fam ∧ rget t (glyReg g.val 0x20) = a 2 ∧ rget t (glyReg g.val 0x28) = a 3 ∧
        ∀ i < 4, rget t (glyReg g.val (0x38 + 8 * i)) = a (4 + i))) ∧
    -- Registers and retirement
    (let far : Prop := (a 1).toNat % 8 ≠ 0 ∨ 0x12000000 ≤ (a 1).toNat;
      (Starts s e tag 0x23 c → (far → ok (.regRead e tag) 0x23 .range u) ∧
        (∀ w t, ¬far → readReg u .curator (a 1).toNat = some (w, t) → ans (.regRead e tag) 0x23 .ok t w 0 0) ∧
        (¬far → readReg u .curator (a 1).toNat = none → ok (.regRead e tag) 0x23 .ok u)) ∧
      (Starts s e tag 0x24 c → (far → ok (.regWrite e tag) 0x24 .range u) ∧
        (∀ t, ¬far → writeReg u .curator (a 1).toNat (a 2) = some t → ok (.regWrite e tag) 0x24 .ok t) ∧
        (¬far → writeReg u .curator (a 1).toNat (a 2) = none → ok (.regWrite e tag) 0x24 .ok u))) ∧
    (Starts s e tag 0x25 c →
      let g := bits (a 1) 3 0
      let k := bits (a 1) 7 4
      let chan : Prop := bit (a 1) 8 = true
      let bad : Prop := bits (a 1) 63 9 ≠ 0 ∨ bits (a 2) 63 40 ≠ 0 ∨ bits (a 2) 31 25 ≠ 0 ∨ bits (a 2) 7 4 ≠ 0 ∨ (chan ∧ a 2 ≠ 0)
      let owned : Prop := ∃ o, groupOwner s g = some o ∧ isOpen s o = true
      let v := { u with retire := if (a 1, a 2) ∈ s.retire then s.retire else s.retire ++ [(a 1, a 2)] }
      (bad → ok (.retireApply e tag) 0x25 .invalid u) ∧
      (¬bad → ¬chan → 231 < bits (a 2) 39 32 → ok (.retireApply e tag) 0x25 .range u) ∧
      (¬bad → chan ∨ bits (a 2) 39 32 ≤ 231 → owned → ok (.retireApply e tag) 0x25 .badState u) ∧
      (¬bad → chan → ¬owned → retiredCh s g = some k →
        ok (.retireApply e tag) 0x25 .ok { v with retire := v.retire.filter (fun r => decide (r ≠ (a 1, a 2))) }) ∧
      (∀ w t, ¬bad → chan → ¬owned → retiredCh s g ≠ some k → exec (.celFailCh (Fin.ofNat 16 g) (Fin.ofNat 16 k)) v = .next w →
        exec (.celRebuild (Fin.ofNat 16 g)) w = .next t → ok (.retireApply e tag) 0x25 .ok t) ∧
      (¬bad → ¬chan → bits (a 2) 39 32 ≤ 231 → ¬owned → ∃ t, ok (.retireApply e tag) 0x25 .ok t ∧
        (bit (rget s (celReg g 0)) 11 = true → celMode s g ≠ 2 → (a 1, a 2) ∈ t.retire) ∧
        let full : Prop := hasRecord s 0x0A (a 1) (a 2) = false ∧ 2032 ≤ rowsTaken s
        (bit (rget s (celReg g 0)) 11 = false → full → (a 1, a 2) ∉ t.retire ∧ (chState s g k = 0 → chState t g k = 1)) ∧
        (bit (rget s (celReg g 0)) 11 = false → ¬full → (∃ i < 64, bit (rget s (remapReg g (64 * k + i))) 63 = false) → rising (s.dev.map Prod.fst) = true →
          (a 1, a 2) ∉ t.retire ∧ (∃ r ∈ t.cr.pinned, bits r.ent.w0 55 48 = 0x0A ∧ r.ent.w2 = a 1 ∧ r.ent.w3 = a 2) ∧
          ∃ i < 64, rget t (remapReg g (64 * k + i)) =
            mkWord [(63, 1), (26, bits (a 2) 3 0), (9, bits (a 2) 24 8), (0, bits (a 2) 39 32)]))) ∧
    -- Condition Report and Appraisal
    (Starts s e tag 0x30 c →
      let l := (recordsFrom s (a 1).toNat).take (a 2).toNat
      (a 2 = 0 ∨ 256 < (a 2).toNat → ok (.crRead e tag) 0x30 .invalid u) ∧
      (a 2 ≠ 0 → (a 2).toNat ≤ 256 → ans (.crRead e tag) 0x30 .ok (l.foldl (fun s r => sendEvent s .mgmt 0x10 0 0 0
        (recWords s r)) u) (BitVec.ofNat 64 l.length) (crpWord u 0 8) (crpWord u 0 0x10))) ∧
    (∀ (q : Nat) (r : CrRec), r ∈ recordsFrom s q ↔ (r ∈ s.cr.pinned ∨ r ∈ s.cr.general) ∧ q ≤ bits r.ent.w0 31 0) ∧
    (Starts s e tag 0x31 c → ok (.crClear e tag) 0x31 .ok { u with cr := { s.cr with
      general := s.cr.general.filter (fun r => decide ((a 1).toNat < bits r.ent.w0 31 0)) } }) ∧
    (Starts s e tag 0x32 c → (component (a 1).toNat = false → ok (.appraiseRead e tag) 0x32 .range u) ∧
      (component (a 1).toNat = true → let x := score s (a 1).toNat
        ans (.appraiseRead e tag) 0x32 .ok u (BitVec.ofNat 64 x.score) (BitVec.ofNat 64 x.peer) (BitVec.ofNat 64 x.advn))) ∧
    (Starts s e tag 0x33 c →
      (12 ≤ (a 1).toNat → ok (.appraisePeer e tag) 0x33 .range u) ∧
      ((a 1).toNat < 12 → 65535 < (a 2).toNat → ok (.appraisePeer e tag) 0x33 .invalid u) ∧
      ((a 1).toNat < 12 → (a 2).toNat ≤ 65535 → ∃ t, ok (.appraisePeer e tag) 0x33 .ok t ∧ t = { u with scores := t.scores } ∧
        score t (0x100 + (a 1).toNat) = { score s (0x100 + (a 1).toNat) with peer := (a 2).toNat, peerAt := some (now s) } ∧
        ∀ k, k ≠ 0x100 + (a 1).toNat → score t k = score s k)) ∧
    -- Mirror copies
    (∀ g : Gal, (a 1).toNat = g.val → (a 2).toNat < 2 ^ 32 →
      let step := BitVec.ofNat 32 (a 2).toNat
      let x := s.gal[g].mrx
      (noneWaits 0x34 → Starts s e tag 0x34 c → s.gal[g].mcp.running = false →
        (isOpen s g = false → ok (.mirrorSend e tag) 0x34 .badState u) ∧
        (isOpen s g = true → x.half0 ≠ some step → x.half1 ≠ some step → ans (.mirrorSend e tag) 0x34 .badState u 2 0 0) ∧
        (isOpen s g = true → x.half0 = some step ∨ x.half1 = some step → ∃ h : Bool, (if h then x.half1 else x.half0) = some step ∧
          exec (.mirrorSend e tag) s = .next (mirrorPump (modGal u g (fun y => { y with mcp := { y.mcp with
            running := true, tag := tag, step := step, half := h, next := 0, size := shardSize s g, unacked := [], commitSent := false } })) g true))) ∧
      (noneWaits 0x34 → Starts s e tag 0x34 c → s.gal[g].mcp.running = true → s.gal[g].mcp.tag ≠ tag →
        ∃ t, exec (.mirrorSend e tag) s = .next t ∧ t.gal = s.gal ∧ t.mem = s.mem) ∧
      (Starts s e tag 0x35 c →
        (isOpen s g = false ∨ x.accept ≠ none → ok (.mirrorAccept e tag) 0x35 .badState u) ∧
        (isOpen s g = true → x.accept = none → exec (.mirrorAccept e tag) s = .next (modGal u g (fun y =>
          { y with mrx := { y.mrx with accept := some (tag, step, now s) } }))))) ∧
    (8 ≤ (a 1).toNat ∨ (2 ^ 32 ≤ (a 2).toNat ∧ ∀ g : Gal, s.gal[g].mcp.running = false) →
      (noneWaits 0x34 → Starts s e tag 0x34 c → ok (.mirrorSend e tag) 0x34 .invalid u) ∧
      (Starts s e tag 0x35 c → ok (.mirrorAccept e tag) 0x35 .invalid u)) ∧
    (Starts s e tag 0x36 c → ∃ t, exec (.shtChipReset e tag) s = .next t ∧ ChipResets (complete u e tag 0x36 .ok 0 0 0) t 2 (some 0)) ∧
    -- Netboot
    (Starts s e tag 0x40 c →
      let size := (a 1).toNat
      let fits : Prop := 8192 ≤ size ∧ size ≤ 8192 + 6 * 2 ^ 20 ∧ (size - 8192) % 64 = 0
      (bootState s ≠ 3 → ok (.netbootBegin e tag) 0x40 .badState u) ∧ (bootState s = 3 → ¬fits → ok (.netbootBegin e tag) 0x40 .range u) ∧
      (bootState s = 3 → fits → ok (.netbootBegin e tag) 0x40 .ok { u with prov := { s.prov with netSize := some size, netImage := [] } })) ∧
    (Starts s e tag 0x41 c →
      let h := tblBytes 0 s.prov.netImage 0 8192
      let body := fun (k : Nat) => tblBytes 0 s.prov.netImage 8192 k
      let whole : Prop := imageOk h body = true ∧ s.prov.netSize = some (8192 + num h 4 4)
      let old : Prop := num h 2 2 < minVintage s
      let fail := fun (k : Nat) => ans (.netbootGo e tag) 0x41 .digest
        (if strapBoot s = 2 then u else fset u 0x0D000000 31 24 k) (BitVec.ofNat 64 k) 0 0
      (bootState s ≠ 3 ∨ s.prov.netSize = none → ok (.netbootGo e tag) 0x41 .badState u) ∧
      (bootState s = 3 → s.prov.netSize ≠ none → ¬whole → fail 4) ∧
      (bootState s = 3 → s.prov.netSize ≠ none → whole → old → fail 5) ∧
      (bootState s = 3 → whole → ¬old → ∃ t, exec (.netbootGo e tag) s = .next t ∧
        CuratorStarts (complete u e tag 0x41 .ok 0 0 0) t h (body (num h 4 4)) 2)) ∧
    -- Quotes
    (∀ g : Option Gal, (a 1 = match g with | none => 0xFF | some g => BitVec.ofNat 64 g.val) →
      (∀ x, g = some x → bits (rget s (glyReg x.val 0x10)) 15 0 ≠ 0 ∨ bits (rget s (glyReg x.val 0x18)) 15 0 ≠ 0) →
      noneWaits 0x42 → Starts s e tag 0x42 c →
      let nonce := wordsOf [a 2, a 3, a 4, a 5]
      (s.prov.quotes = [] → exec (.quote e tag) s = .next { u with prov := { s.prov with quotes := [⟨e, tag, quoteBody u g nonce⟩] } }) ∧
      (∀ q l, s.prov.quotes = q :: l → ¬(q.tag = tag ∧ q.ep = e) → ∃ t, exec (.quote e tag) s = .next t ∧ t.prov = s.prov ∧ t.mem = s.mem)) ∧
    (∀ g : Gal, a 1 = BitVec.ofNat 64 g.val → bits (rget s (glyReg g.val 0x10)) 15 0 = 0 → bits (rget s (glyReg g.val 0x18)) 15 0 = 0 →
      noneWaits 0x42 → Starts s e tag 0x42 c → ok (.quote e tag) 0x42 .badState u) ∧
    (noneWaits 0x42 → Starts s e tag 0x42 c → a 1 ≠ 0xFF → 8 ≤ (a 1).toNat → ok (.quote e tag) 0x42 .invalid u) ∧
    (Starts s e tag 0x43 c →
      let l := (s.prov.log.drop (a 1).toNat).take (a 2).toNat
      (a 2 = 0 ∨ 256 < (a 2).toNat → ok (.measlogRead e tag) 0x43 .invalid u) ∧
      (a 2 ≠ 0 → (a 2).toNat ≤ 256 → ans (.measlogRead e tag) 0x43 .ok (sendParts u 0x13 l.flatten) (BitVec.ofNat 64 l.length) 0 0)) ∧
    -- Firmware
    (Starts s e tag 0x44 c →
      let slot := bits (rget s 0x0D000000) 13 12
      let size := (a 1).toNat
      let fits : Prop := 8192 ≤ size ∧ size ≤ 8192 + 6 * 2 ^ 20 ∧ (size - 8192) % 64 = 0
      let k : Fin 2 := if slot = 0 then 1 else 0
      (2 ≤ slot → ok (.flashBegin e tag) 0x44 .badState u) ∧ (slot < 2 → ¬fits → ok (.flashBegin e tag) 0x44 .range u) ∧
      (slot < 2 → fits → exec (.flashBegin e tag) s = .next { u with prov := { s.prov with
        flash := s.prov.flash.set k [], update := some { slot := k, size := size } } })) ∧
    (Starts s e tag 0x45 c →
      (s.prov.update = none → ok (.flashCommit e tag) 0x45 .badState u) ∧
      (∀ x, s.prov.update = some x → x.erased = false → ok (.flashCommit e tag) 0x45 .badState u) ∧
      (∀ x, s.prov.update = some x → x.erased = true →
        let h := tblBytes 0 x.header 0 8192
        let body := fun (n : Nat) => tblBytes 0xFF s.prov.flash[x.slot] 8192 n
        let good : Prop := imageOk h body = true ∧ x.size = 8192 + num h 4 4 ∧ minVintage s ≤ num h 2 2
        (¬good → ok (.flashCommit e tag) 0x45 .digest u) ∧
        (good → ∃ t, ans (.flashCommit e tag) 0x45 .ok t (BitVec.ofNat 64 x.slot.val) (BitVec.ofNat 64 (num h 2 2)) 0 ∧
          t = { u with prov := t.prov } ∧ t.prov.update = none ∧
          (rising (s.prov.flash[x.slot].map Prod.fst) = true → ∀ o, look 0xFF t.prov.flash[x.slot] o = if o < 8192 then h.getD o 0 else look 0xFF s.prov.flash[x.slot] o) ∧
          ∀ k, k ≠ x.slot → t.prov.flash[k] = s.prov.flash[k]))))  ∧
  -- What ends later
  (∀ (g : Gal) (s : State),
    (s.gal[g].mrx.accept = none → exec (.mirrorAcceptTimeout g) s = .next s) ∧
    (∀ x, s.gal[g].mrx.accept = some x → exec (.mirrorAcceptTimeout g) s = .next (mirrorLost (advanceTo s (x.2.2 + 10000000)) g))) ∧
  (∀ s : State,
    (s.prov.quotes = [] → exec .quoteSigned s = .next s) ∧
    (∀ q l, s.prov.quotes = q :: l → ∃ b : List Byte, exec .quoteSigned s =
        .next (complete (sendParts { s with prov := { s.prov with quotes := l } } 0x12 b) q.ep q.tag 0x42 .ok 4013 0 0) ∧
      (q.body.length = 640 → b.length = 4013) ∧ b.take q.body.length = q.body ∧
      (∀ k, s.prov.seeds = some k → (b.drop q.body.length).take 64 = fixLen 64 (Config.ed25519Sign k.1 q.body) ∧
        b.drop (q.body.length + 64) = fixLen 3309 (Config.mldsaSign k.2 q.body))) ∧
    (s.prov.update = none → exec .flashEraseComplete s = .next s) ∧
    (∀ x, s.prov.update = some x → x.erased = true → exec .flashEraseComplete s = .next s) ∧
    (∀ x, s.prov.update = some x → x.erased = false →
      let u := { s with prov := { s.prov with update := some { x with erased := true } } }
      (∀ c, (endpoint s .mgmt).cmds.filter (fun c => decide (c.op = 0x44) && c.started) = [c] →
        exec .flashEraseComplete s = .next (complete u .mgmt c.tag 0x44 .ok (BitVec.ofNat 64 x.slot.val) 0 0)) ∧
      ((endpoint s .mgmt).cmds.filter (fun c => decide (c.op = 0x44) && c.started) = [] → exec .flashEraseComplete s = .next u)))

/-- The Ethernet port and SHT messages (R351 to R365). -/
def Obligations.HostMessages : Prop :=
  (∀ (f : EthFrame) (s : State), ethOn s = false → exec (.ethernetFrameReceive f) s = .next s) ∧
  (∀ (s : State), ethOn s = true →
    let u := fincr s 0x0E000048 63 32 1
    let drop := fincr u 0x0E000058 23 12 1
    let net := fun (n v : Nat) => (leBytes n v).reverse
    let own := bits (rget s 0x0E000010) 47 0
    let ctl := rget s 0x0E000008
    let ip4 := bits (rget s 0x0E000018) 31 0
    let ip6 := (rget s 0x0E000020).toNat + 2 ^ 64 * (rget s 0x0E000028).toNat
    let base := bits (rget s 0x0E000040) 15 0
    let used := fun (p : Nat) => (base ≤ p ∧ p ≤ base + 8) ∨ p = 319 ∨ p = 320 ∨ (bit ctl 2 = true ∧ (p = 68 ∨ p = 546))
    ∀ f : EthFrame,
    let recv := exec (.ethernetFrameReceive f) s
    let tagged : Prop := (bits ctl 19 8 = 0 ∧ f.tags = []) ∨ (bits ctl 19 8 ≠ 0 ∧ ∃ t, f.tags = [t] ∧ t.toNat % 2 ^ 12 = bits ctl 19 8)
    let group : Prop := ((∃ t, f.body = .arpRequest t) ∧ f.dst.toNat = 2 ^ 48 - 1) ∨ ((∃ t, f.body = .ndSolicit t) ∧ f.dst.toNat / 2 ^ 32 = 0x3333)
    let pfc : Prop := ∃ p q, f.body = .pfc p q
    let taken : Prop := f.len ≤ 9216 ∧ ((pfc ∧ f.tags = []) ∨ (¬pfc ∧ tagged ∧ (f.dst.toNat = own ∨ group)))
    let ip := fun (mine : Prop) (k : Nat) (p : IpBody) =>
      (∀ b, p = .echo b → (mine → recv = .next (ethSend u (.eth k b))) ∧ (¬mine → recv = .next drop)) ∧
      (∀ q ok, p = .udp q ok → (mine ∧ ok = true ∧ used q.toNat → recv = .next u) ∧ (¬(mine ∧ ok = true ∧ used q.toNat) → recv = .next drop)) ∧
      (∀ m, p = .dhcp m → (bit ctl 2 = false → recv = .next drop) ∧ (bit ctl 2 = true →
        (∀ a, m = .offer a → recv = .next (ethSend u (.eth 5 (3 :: net 4 a.toNat)))) ∧
        (∀ a r n, m = .ack a r n → ∃ t, recv = .next t ∧ t = { u with dev := t.dev } ∧
          (rising (s.dev.map Prod.fst) = true → bits (rget t 0x0E000018) 31 0 = a.toNat ∧ bits (rget t 0x0E000018) 63 32 = r.toNat ∧
            bits (rget t 0x0E000008) 29 24 = if 1 ≤ n.toNat ∧ n.toNat ≤ 32 then n.toNat else bits ctl 29 24)) ∧
        (∀ a, m = .reply6 a → ∃ t, recv = .next t ∧ t = { u with dev := t.dev } ∧
          (rising (s.dev.map Prod.fst) = true → (rget t 0x0E000020).toNat + 2 ^ 64 * (rget t 0x0E000028).toNat = a.toNat)))) ∧
      (p = .other → recv = .next drop)
    (¬taken → recv = .next drop) ∧ (taken →
      (∀ t, f.body = .arpRequest t → recv = .next (if t.toNat = ip4 then ethSend u (.eth 1 (net 6 own ++ net 4 t.toNat)) else u)) ∧
      (∀ t, f.body = .ndSolicit t → recv = .next (if t.toNat = ip6 then ethSend u (.eth 2 (net 6 own ++ net 16 t.toNat)) else u)) ∧
      (∀ d opt frag p, f.body = .ip4 d opt frag p → (opt = true ∨ frag = true → recv = .next drop) ∧
        (opt = false → frag = false → ip (d.toNat = ip4) 3 p)) ∧
      (∀ d ext frag p, f.body = .ip6 d ext frag p → (ext = true ∨ frag = true → recv = .next drop) ∧
        (ext = false → frag = false → ip (d.toNat = ip6) 4 p)) ∧
      (∀ p q, f.body = .pfc p q → let obeys : Prop := bit ctl 3 = true ∧ p.toNat.testBit (bits ctl 6 4) = true
        (¬obeys → recv = .next u) ∧
        (obeys → recv = .next (ethFlush { u with eth := { s.eth with until_ := now s + q.toNat * 64 / 100 } }))) ∧
      (f.body = .other → recv = .next drop))) ∧
  -- What waits to be sent leaves in the order of its class, unless PFC holds it.
  (∀ (s : State) (o : Out),
    let l := s.eth.waiting ++ [o]
    let t := ethSend s o
    (ethPaused s = true → t = { s with eth := { s.eth with waiting := l } }) ∧
    (ethPaused s = false → t.eth.waiting = [] ∧ t = { s with dev := t.dev, out := t.out, eth := t.eth } ∧
      t.out = s.out ++ l.filter (fun x => decide (sendClass x = 0)) ++ l.filter (fun x => decide (sendClass x = 1)) ++
        l.filter (fun x => decide (sendClass x = 2)) ++ l.filter (fun x => decide (sendClass x = 3)))) ∧
  -- What is dropped
  (∀ (x : Nat × (Datagram → Instr)), x ∈ [((0x01 : Nat), Instr.hello), (0x03, Instr.shtAck), (0x10, Instr.shtCmd), (0x20, Instr.shtWindowWrite),
      (0x21, Instr.shtWindowRead), (0x30, Instr.doorbell)] → ∀ (d : Datagram) (e : Ep) (s : State),
    let b := d.body
    let n := b.length - 48
    let w := fun (i : Nat) => msgWord b i
    let drop := fun (hi lo : Nat) => exec (x.2 d) s = .next (fincr (fincr s 0x0E000048 63 32 1) 0x0E000058 hi lo 1)
    let whole : Prop := 48 ≤ b.length ∧ bits (w 0) 63 56 = 1 ∧ bits (w 0) 47 40 = (match e with | .mgmt => 255 | .host g => g.val) ∧
      bits (w 0) 39 32 = 0 ∧ bits (w 2) 63 48 = 0 ∧ bits (w 2) 31 0 = 0 ∧ w 3 = 0 ∧ bits (w 2) 47 32 = n ∧
      (x.1 = 0x01 → n = 18 ∧ 1024 ≤ num b 48 2 ∧ bits (w 0) 31 0 = 0 ∧ bits (w 1) 63 32 = 0) ∧ (x.1 = 0x03 → n = 0) ∧
      (x.1 = 0x10 → n % 64 = 0 ∧ 64 ≤ n ∧ n ≤ 1024) ∧ (x.1 = 0x20 → 16 ≤ n) ∧ (x.1 = 0x21 ∨ x.1 = 0x30 → n = 16)
    let known : Prop := whole ∧ sourceOk s e d.src = true ∧ endpointOpen s e b = true
    let mine : Prop := (endpoint s e).session = some (BitVec.ofNat 64 (bits (w 0) 31 0))
    (ethOn s = false → exec (x.2 d) s = .next s) ∧
    (ethOn s = true → bits (w 0) 55 48 = x.1 → endpointOf s d.port.toNat = none → drop 23 12) ∧
    (ethOn s = true → bits (w 0) 55 48 = x.1 → endpointOf s d.port.toNat = some e → shtServes s = false →
      exec (x.2 d) s = .next (fincr s 0x0E000048 63 32 1)) ∧
    (ethOn s = true → bits (w 0) 55 48 = x.1 → endpointOf s d.port.toNat = some e → shtServes s = true →
      (¬whole → drop 23 12) ∧ (whole → sourceOk s e d.src = false → drop 11 0) ∧
      (whole → sourceOk s e d.src = true → endpointOpen s e b = false → drop 47 32) ∧
      (known → x.1 = 0x01 → macOk (endpointKey s e) b = false → drop 63 48) ∧
      (known → x.1 ≠ 0x01 → ¬mine → drop 47 32) ∧ (known → x.1 ≠ 0x01 → mine → macOk (endpoint s e).key b = false → drop 63 48) ∧
      (known → x.1 ≠ 0x01 → mine → macOk (endpoint s e).key b = true → (endpoint s e).maxlen < n → drop 23 12))) ∧
  (∀ (s : State) (src : BitVec 128),
    (sourceOk s .mgmt src = true ↔ ∃ i < 4, num s.prov.manifest (96 + 16 * i) 16 ≠ 0 ∧ num s.prov.manifest (96 + 16 * i) 16 = src.toNat) ∧
    ∀ g : Gal, let r := fun (o : Nat) => rget s (0x0F000000 + g.val * 0x1000 + o)
      sourceOk s (.host g) src = true ↔ (bits (r 0x30) 1 0 = 1 ∧ src.toNat = 0xFFFF * 2 ^ 32 + bits (r 0x20) 31 0) ∨
        (bits (r 0x30) 1 0 = 2 ∧ src.toNat = (r 0x20).toNat + 2 ^ 64 * (r 0x28).toNat)) ∧
  (∀ (key b : List Byte), macOk key b = true ↔ b = b.take (b.length - 16) ++ (hmac512 key (b.take (b.length - 16))).take 16) ∧
  -- HELLO and acknowledgements
  (∀ (d : Datagram) (e : Ep) (s : State), let b := d.body
    ethOn s = true → endpointOf s d.port.toNat = some e → shtServes s = true → msgOk e b = true → msgKind b = 0x01 → sourceOk s e d.src = true →
    endpointOpen s e b = true → macOk (endpointKey s e) b = true → ∃ (t : State) (n : Word) (dev : List Byte),
      exec (.hello d) s = .next t ∧ n.toNat < 2 ^ 32 ∧ dev.length = 16 ∧ t.mem = s.mem ∧ t.cores = s.cores ∧ (∀ f, f ≠ e → endpoint t f = endpoint s f) ∧
      let x := endpoint s e
      let max := min (num b 48 2) 8192 / 64 * 64
      let m := shtBytes e 0x02 n.toNat 0 0 (dev ++ leBytes 4 n.toNat ++ leBytes 2 max ++ leBytes 2 (vintage s) ++ leBytes 2 (coord s))
      endpoint t e = { session := some n, key := (hmac512 (endpointKey s e) ((b.drop 32).take 16 ++ dev ++ [BitVec.ofNat 8 (endptByte e)])).take 32,
                       peer := d.src, port := d.port, maxlen := max, cmds := x.cmds.map (fun c => { c with live := false }),
                       winWait := x.winWait.map (fun w => { w with live := false }) } ∧
      (ethPaused s = false → s.eth.waiting = [] → t.out = s.out ++ [.udp d.src d.port (m ++ (hmac512 (endpointKey s e) m).take 16)])) ∧
  (∀ (s : State) (e : Ep) (b : List Byte), endpointOpen s e b = true ↔ e = .mgmt ∨ ∃ g, e = .host g ∧
    (isOpen s g = true ∨ (msgKind b = 0x03 ∧ ∃ q, (endpoint s e).ending = some q ∧ (msgAck b - q).toNat < 2 ^ 31))) ∧
  (∀ (d : Datagram) (e : Ep) (s : State), InSession s e d 0x03 → exec (.shtAck d) s = .next (shtAcked (ethRx s) e (msgAck d.body))) ∧
  (∀ (e : Ep) (a : BitVec 32) (s : State),
    let x := endpoint s e
    let t := shtAcked s e a
    let y := endpoint t e
    let ends : Prop := ∃ q, x.ending = some q ∧ (a - q).toNat < 2 ^ 31
    t.mem = s.mem ∧ t.cores = s.cores ∧ (∀ f, f ≠ e → endpoint t f = endpoint s f) ∧ (ends → y.session = none ∧ y.unacked = []) ∧
    (¬ends → y = { x with unacked := y.unacked } ∧
      y.unacked.map ShtMsg.seq = (x.unacked.filter (fun m => decide (m.tries = 0 ∨ 2 ^ 31 ≤ (a - m.seq).toNat))).map ShtMsg.seq)) ∧
  -- Order
  (∀ (x : Nat × (Datagram → Instr)), x ∈ [((0x10 : Nat), Instr.shtCmd), (0x20, Instr.shtWindowWrite), (0x21, Instr.shtWindowRead),
      (0x30, Instr.doorbell)] → ∀ (d : Datagram) (e : Ep) (s : State), InSession s e d x.1 →
    let a := shtAcked (ethRx s) e (msgAck d.body)
    let y := endpoint a e
    let q := msgSeq d.body
    let twice : Prop := (y.rxSeq - q).toNat < 2 ^ 31 ∨ ∃ m ∈ y.hold, m.seq = q
    let sent := y.answered.filter (fun m => decide (m.1 = q))
    (twice → x.1 ≠ 0x10 ∨ sent = [] → exec (x.2 d) s = .next (shtAckSend a e)) ∧
    (twice → x.1 = 0x10 → sent ≠ [] → exec (x.2 d) s = .next (sent.foldl (fun t m => shtEmit t e m.2) a)) ∧
    (¬twice → 64 < (q - y.rxSeq).toNat → exec (x.2 d) s = .next a) ∧
    (¬twice → (q - y.rxSeq).toNat ≤ 64 → q ≠ y.rxSeq + 1 → y.todo = [] → (∀ m ∈ y.hold, m.seq ≠ y.rxSeq + 1) →
      exec (x.2 d) s = .next (setEp a e { y with hold := y.hold ++ [⟨q, x.1, msgBody d.body, 0⟩] }))) ∧
  -- Commands accepted
  (∀ (d : Datagram) (e : Ep) (s u : State), InSession s e d 0x10 → InOrder s e d u →
    let rec_ := fun (i : Nat) => (d.body.drop (32 + 64 * i)).take 64
    let op := fun (i : Nat) => bits (msgWord (rec_ i) 0) 7 0
    let tag := fun (i : Nat) => BitVec.ofNat 32 (bits (msgWord (rec_ i) 0) 63 32)
    let legal : Nat → Bool := fun i => decide (bits (msgWord (rec_ i) 0) 31 8 = 0) && opKnown (op i)
    let n := (d.body.length - 48) / 64
    ∃ t, exec (.shtCmd d) s = .next t ∧ t.mem = s.mem ∧ t.cores = s.cores ∧
      (endpoint t e).cmds = (endpoint u e).cmds ++ (List.range n).filterMap (fun i => if legal i && opPermitted s e (op i) then
        some { tag := tag i, op := op i, args := (List.range 8).map (msgWord (rec_ i)), since := now s, seq := msgSeq d.body,
               pendingSent := !hostClass (op i) } else none) ∧
      ∀ i < n, (endpoint u e).session ≠ none →
        let told := fun (st : Status) => ∃ m ∈ (endpoint t e).unacked, m.kind = 0x11 ∧ m.body = cplBytes (tag i) (op i) st 0 0 0
        (legal i = false → told .invalid) ∧ (legal i = true → opPermitted s e (op i) = false → told .notPermitted) ∧
        (legal i = true → opPermitted s e (op i) = true → hostClass (op i) = false → told .pending)) ∧
  (∀ (s : State) (e : Ep) (op : Nat), opKnown op = true →
    (bootState s = 3 → (opPermitted s e op = true ↔ op = 1 ∨ op = 2 ∨ op = 0x40 ∨ op = 0x41)) ∧
    (bootState s ≠ 3 → (opPermitted s e op = true ↔ op = 1 ∨ op = 2 ∨ (e = .mgmt ∧ 0x20 ≤ op) ∨ (e ≠ .mgmt ∧ op < 0x20)))) ∧
  -- Windows
  (∀ (x : Nat × (Datagram → Instr)), x ∈ [((0x20 : Nat), Instr.shtWindowWrite), (0x21, Instr.shtWindowRead)] →
    ∀ (d : Datagram) (e : Ep) (s u : State), InSession s e d x.1 → InOrder s e d u →
    let write := decide (x.1 = 0x20)
    let p := msgBody d.body
    let data := p.drop 16
    let off := bits (msgWord p 0) 47 0
    let len := bits (msgWord p 1) 13 0
    let tag := BitVec.ofNat 32 (bits (msgWord p 1) 63 32)
    let k := bits (msgWord p 0) 63 60
    let op := if write then 0xE0 else 0xE1
    let ans := fun (st : Status) (r1 r2 : Word) (t : State) => exec (x.2 d) s = .next (sendCpl t e tag op st r1 r2 0)
    let legal : Prop := bits (msgWord p 0) 59 48 = 0 ∧ bits (msgWord p 1) 31 14 = 0 ∧ off % 4 = 0 ∧ len % 4 = 0 ∧ 4 ≤ len ∧
      len + 16 ≤ (endpoint u e).maxlen ∧ (write = true → p.length = 16 + len)
    (∀ g : Gal, e = .host g →
      let v := s.gal[g].windows[(Fin.ofNat 16 k)]
      let at_ := v.base + off
      let m := 2 ^ 17 - at_ % 2 ^ 17
      let may : Prop := legal ∧ off + len ≤ v.frames * 2 ^ 17 ∧ (if write then v.write else v.read) = true
      let data_ := fun (st : Nat) (b : List Byte) => exec (x.2 d) s = .next (shtSend u e 0x22
        (p.take 8 ++ leBytes 8 (mkWord [(32, tag.toNat), (16, st), (0, len)]).toNat ++ b))
      (¬legal → ans .invalid 0 0 u) ∧ (legal → v.frames * 2 ^ 17 < off + len → ans .range 0 0 u) ∧
      (legal → off + len ≤ v.frames * 2 ^ 17 → (if write then v.write else v.read) = false → ans .permission 0 0 u) ∧
      (may → translate s g at_ write = .unmapped → ans .fault 1 (BitVec.ofNat 64 at_) (ethFault u g 1 at_)) ∧
      (may → translate s g at_ write = .fmapUe → ans .fault 4 (BitVec.ofNat 64 at_) (ethFault u g 4 at_)) ∧
      (may → translate s g at_ write = .readOnly → ans .permission 0 0 (ethFault u g 3 at_)) ∧
      (may → translate s g at_ write = .migrating → ∃ t, exec (x.2 d) s = .next t ∧ t.mem = s.mem ∧ t.cores = s.cores ∧
        (endpoint t e).winWait = (endpoint u e).winWait ++ [⟨msgSeq d.body, write, p, true⟩] ∧
        ((endpoint u e).session ≠ none → ∃ r ∈ (endpoint t e).unacked, r.kind = 0x11 ∧ r.body = cplBytes tag op .pending 0 0 0)) ∧
      (∀ a, may → len ≤ m → translate s g at_ write = .ok a →
        (write = true → ans .ok 0 0 { u with mem := s.mem.store a data false }) ∧
        (write = false → s.mem.anyPoison a len = true → data_ 0x0E (List.replicate len 0)) ∧
        (write = false → s.mem.anyPoison a len = false → data_ 0x00 (s.mem.bytes a len))) ∧
      (∀ a, may → m < len → translate s g at_ write = .ok a →
        (translate s g (at_ + m) write = .unmapped → ans .fault 1 (BitVec.ofNat 64 (at_ + m)) (ethFault u g 1 (at_ + m))) ∧
        ∀ b, translate s g (at_ + m) write = .ok b →
          (write = true → ans .ok 0 0 { u with mem := (s.mem.store a (data.take m) false).store b (data.drop m) false }) ∧
          (write = false → s.mem.anyPoison a m = false → s.mem.anyPoison b (len - m) = false →
            data_ 0x00 (s.mem.bytes a m ++ s.mem.bytes b (len - m))))) ∧
    (e = .mgmt →
      let barred : Prop := (bootState s = 3 ∧ (k ≠ 0 ∨ write = false)) ∨ (bootState s ≠ 3 ∧ k ≠ 1)
      (barred → ans .notPermitted 0 0 u) ∧ (¬barred → ¬legal → ans .invalid 0 0 u) ∧
      (¬barred → legal → k = 0 → (∀ n, s.prov.netSize = some n → n < off + len) → ans .range 0 0 u) ∧
      (∀ n, ¬barred → legal → k = 0 → s.prov.netSize = some n → off + len ≤ n →
        ans .ok 0 0 { u with prov := { s.prov with netImage := tblPut 0 s.prov.netImage off data } }) ∧
      (¬barred → legal → k ≠ 0 → (∀ y, s.prov.update = some y → y.erased = false ∨ y.size < off + len) → ans .range 0 0 u) ∧
      (∀ y, ¬barred → legal → k ≠ 0 → s.prov.update = some y → y.erased = true → off + len ≤ y.size →
        (write = false → ans .permission 0 0 u) ∧
        (write = true → ans .ok 0 0 { u with prov := { s.prov with
          update := some { y with header := tblPut 0 y.header off (data.take (8192 - off)) },
          flash := s.prov.flash.set y.slot (tblPut 0xFF s.prov.flash[y.slot] (max off 8192) (data.drop (8192 - off))) } })))) ∧
  -- Doorbells
  (∀ (d : Datagram) (e : Ep) (s u : State), InSession s e d 0x30 → InOrder s e d u →
    let h := msgWord (msgBody d.body) 0
    let v := msgWord (msgBody d.body) 1
    let no := fun (st : Status) => exec (.doorbell d) s = .next (sendCpl (shtAckSend u e) e 0 0xE2 st 0 0 0)
    (e = .mgmt → no .notPermitted) ∧
    (∀ g : Gal, e = .host g →
      let b := rget s (0x0F000058 + g.val * 0x1000)
      let slot : Prop := bit b 63 = true ∧ ownsCluster s g (bits b 27 24) = true
      let at_ := reserveBase (bits b 27 24) + bits b 23 6 * 64 + 8 * bits h 2 0
      let stray : Prop := bits h 63 8 ≠ 0 ∨ bits h 6 3 ≠ 0
      let val := if bit h 7 then BitVec.ofNat 64 (leNat (s.mem.bytes at_ 8)) + v else v
      let m := s.mem.store at_ (leBytes 8 val.toNat) false
      (stray → no .invalid) ∧ (¬stray → ¬slot → no .badState) ∧ (¬stray → slot → exec (.doorbell d) s = .next (shtAckSend { u with mem := m } e)))) ∧
  -- Time limits
  (∀ (e : Ep) (q : BitVec 32) (s : State),
    let x := endpoint s e
    (ethOn s = false ∨ (∀ m ∈ x.unacked, m.seq = q → m.tries = 0) → exec (.shtRetransmit e q) s = .next s) ∧
    (∀ m, ethOn s = true → x.unacked.find? (fun m => decide (m.seq = q ∧ m.tries ≠ 0)) = some m →
      (m.tries ≤ bits (rget s 0x0E000040) 35 32 → exec (.shtRetransmit e q) s = .next (shtEmit (setEp s e { x with
        unacked := x.unacked.map (fun k => if k.seq = q then { k with tries := k.tries + 1 } else k) }) e m)) ∧
      (bits (rget s 0x0E000040) 35 32 < m.tries → ∃ t, exec (.shtRetransmit e q) s = .next t ∧ t.mem = s.mem ∧ t.cores = s.cores ∧
        (∀ f, f ≠ e → endpoint t f = endpoint s f) ∧ (endpoint t e).session = none ∧ (endpoint t e).unacked = [] ∧
        (endpoint t e).cmds = x.cmds.map (fun c => { c with live := false }) ∧
        ∀ g : Gal, e = .host g → let r := fun (y : State) => bits (rget y (0x0F000090 + g.val * 0x1000)) 63 32
          r t = min (r s + x.unacked.countP (fun m => decide (m.kind = 0x11 ∨ m.kind = 0x40))) (2 ^ 32 - 1)))) ∧
  (∀ (e : Ep) (tag : BitVec 32) (s : State),
    let l := (endpoint s e).cmds.filter (fun c => decide (c.tag = tag) && hostClass c.op && !c.started)
    (l = [] → exec (.shtCommandTimeout e tag) s = .next s) ∧
    (∀ c r, l = c :: r → exec (.shtCommandTimeout e tag) s = .next (complete (advanceTo s (c.since + 50000)) e tag c.op .timeout 0 0 0)))

/-- Storage services (R367 to R373). -/
def Obligations.StorageServices : Prop :=
  -- TARGET_SET
  (∀ (g : Gal) (tag : BitVec 32) (s : State) (c : ShtCmdRec),
    let e : Ep := .host g
    let a := fun (i : Nat) => c.args.getD i 0
    let u := markStarted s e c
    let i : Fin 4 := Fin.ofNat 4 (bits (a 1) 1 0)
    let fam := bits (a 1) 9 8
    let sn := bits (a 6) 7 0
    let hn := bits (a 7) 63 56
    let ends := fun (st : Status) (r1 r2 : Word) (t : State) => exec (.targetSet e tag) s = .next (complete t e tag 0x10 st r1 r2 0)
    let bad : Prop := bits (a 1) 63 10 ≠ 0 ∨ bits (a 1) 7 2 ≠ 0 ∨ fam = 0 ∨ fam = 3 ∨ bits (a 4) 31 16 ≠ 0 ∨ bits (a 6) 63 8 ≠ 0 ∨ bits (a 7) 55 48 ≠ 0 ∨
      sn = 0 ∨ 223 < sn ∨ hn = 0 ∨ 223 < hn ∨ (fam = 1 ∧ (bits (a 2) 63 32 ≠ 0 ∨ a 3 ≠ 0))
    let busy : Prop := ∃ k : Fin 16, s.streams[k].active = true ∧ s.streams[k].gal = g.val ∧ s.streams[k].slot = i
    let sa := (a 5).toNat
    let ha := bits (a 7) 47 0
    let from_ : BitVec 128 := if fam = 1 then BitVec.ofNat 128 (0xFFFF * 2 ^ 32 + (a 2).toNat) else BitVec.ofNat 128 ((a 2).toNat + 2 ^ 64 * (a 3).toNat)
    let opened := fun (sub host : List Byte) =>
      ({ opening := some (e, tag), addr := from_, port := BitVec.ofNat 16 (bits (a 4) 15 0), nsid := BitVec.ofNat 32 (bits (a 4) 63 32), subnqn := sub, hostnqn := host } : Target)
    Starts s e tag 0x10 c → s.gal[g].targets[i].opening ≠ some (e, tag) →
    (endpoint s e).cmds.find? (fun c => decide (c.tag = tag ∧ c.op = 0x10) && c.started) = none →
    (bad → ends .invalid 0 0 u) ∧
    (¬bad → busy → ∃ t, exec (.targetSet e tag) s = .next t ∧ t.streams = s.streams ∧ t.gal = s.gal ∧ t.conns = s.conns ∧ t.mem = s.mem) ∧
    (¬bad → ¬busy → 2 ^ 48 < sa + sn → ends .range 0 0 u) ∧
    (∀ x, ¬bad → ¬busy → sa + sn ≤ 2 ^ 48 → virtGet s g sa sn = .error (.unmapped, x) → ends .fault 1 (BitVec.ofNat 64 x) (ethFault u g 1 x)) ∧
    (∀ x, ¬bad → ¬busy → sa + sn ≤ 2 ^ 48 → virtGet s g sa sn = .error (.fmapUe, x) → ends .fault 4 (BitVec.ofNat 64 x) (ethFault u g 4 x)) ∧
    (∀ b, ¬bad → ¬busy → sa + sn ≤ 2 ^ 48 → virtGet s g sa sn = .ok (b, true) → ends .poison 0 0 u) ∧
    (∀ sub, ¬bad → ¬busy → sa + sn ≤ 2 ^ 48 → virtGet s g sa sn = .ok (sub, false) → 2 ^ 48 < ha + hn → ends .range 0 0 u) ∧
    (∀ sub host, ¬bad → ¬busy → sa + sn ≤ 2 ^ 48 → ha + hn ≤ 2 ^ 48 → virtGet s g sa sn = .ok (sub, false) → virtGet s g ha hn = .ok (host, false) →
      ∃ t c, exec (.targetSet e tag) s = .next t ∧ t.mem = s.mem ∧ t.cores = s.cores ∧ t.streams = s.streams ∧
        (∀ h, h ≠ g → t.gal[h] = s.gal[h]) ∧ (∀ j, j ≠ i → t.gal[g].targets[j] = s.gal[g].targets[j]) ∧
        t.gal[g].targets[i] = opened sub host ∧
        t.conns = (closeConns s (fun k => decide (k.gal = g.val ∧ k.slot = i))).conns ++ [c] ∧ c.gal = g.val ∧ c.slot = i ∧ c.qid = 0 ∧ c.up = false ∧
        c.cmds = [] ∧ 49152 ≤ c.lport.toNat ∧ (∀ k ∈ (closeConns s (fun k => decide (k.gal = g.val ∧ k.slot = i))).conns, k.id < c.id) ∧ c.unacked = [icReq] ∧
        (ethPaused s = false → s.eth.waiting = [] → t.out = s.out ++ [.tcp c.id icReq]))) ∧
  (∀ (s : State) (f : Conn → Bool), let t := closeConns s f
    t = { s with conns := t.conns } ∧ (∀ c ∈ s.conns, f c = false → c ∈ t.conns) ∧
    ∀ k ∈ t.conns, (∃ c ∈ s.conns, f c = false ∧ k = c) ∨ (∃ c ∈ s.conns, f c = true ∧ c.cmds ≠ [] ∧
      k = { c with closing := true, ready := false, cmds := k.cmds } ∧ k.cmds.map NvmeCmd.cid = c.cmds.map NvmeCmd.cid ∧ ∀ m ∈ k.cmds, m.use = .dropped)) ∧
  (∀ (s : State) (g : Gal) (a n : Nat), 0 < n → a % 2 ^ 17 + n ≤ 2 ^ 17 →
    (∀ p, translate s g a false = .ok p → virtGet s g a n = .ok (s.mem.bytes p n, s.mem.anyPoison p n)) ∧
    (translate s g a false = .unmapped → virtGet s g a n = .error (.unmapped, a)) ∧
    (translate s g a false = .migrating → virtGet s g a n = .error (.migrating, a))) ∧
  icReq.length = 128 ∧
  -- Streams begin and end
  (∀ (x : Bool × Nat × (Ep → BitVec 32 → Instr)), x ∈ [(true, (0x11 : Nat), Instr.ckptWrite), (false, 0x12, Instr.shardRead)] →
    ∀ (g : Gal) (tag : BitVec 32) (s : State) (c : ShtCmdRec),
    let e : Ep := .host g
    let a := fun (i : Nat) => c.args.getD i 0
    let u := markStarted s e c
    let i : Fin 4 := Fin.ofNat 4 (bits (a 1) 1 0)
    let n := (a 3).toNat
    let ends := fun (st : Status) => exec (x.2.2 e tag) s = .next (complete u e tag x.2.1 st 0 0 0)
    let bad : Prop := bits (a 1) 63 2 ≠ 0 ∨ n = 0 ∨ 4096 < n ∨ (x.1 = true ∧ bits (a 5) 63 32 ≠ 0)
    let set_ : Prop := s.gal[g].targets[i].set = true
    let full : Prop := 4 ≤ s.streams.toList.countP (fun y => y.active && decide (y.gal = g.val)) ∨ ∀ k : Fin 16, s.streams[k].active = true
    let t := s.gal[g].targets[i]
    Starts s e tag x.2.1 c → (∀ k : Fin 16, s.streams[k].active = true → s.streams[k].ep = e → s.streams[k].tag = tag → s.streams[k].write ≠ x.1) →
    (endpoint s e).cmds.find? (fun c => decide (c.tag = tag ∧ c.op = x.2.1) && c.started) = none →
    let faults := fun (k y : Nat) => exec (x.2.2 e tag) s = .next (complete (ethFault u g k y) e tag x.2.1 .fault (BitVec.ofNat 64 k) (BitVec.ofNat 64 y) 0)
    let read := virtGet s g (a 2).toNat (16 * n)
    let inside : Prop := (a 2).toNat + 16 * n ≤ 2 ^ 48
    (bad → ends .invalid) ∧ (¬bad → ¬set_ → ends .badState) ∧ (¬bad → set_ → full → ends .noResource) ∧
    (¬bad → set_ → ¬full → ¬inside → ends .range) ∧
    (¬bad → set_ → ¬full → inside → (∀ y, read = .error (.unmapped, y) → faults 1 y) ∧ (∀ y, read = .error (.fmapUe, y) → faults 4 y) ∧
      ∀ b, read = .ok (b, true) → ends .poison) ∧
    (∀ lb, ¬bad → set_ → ¬full → (a 2).toNat + 16 * n ≤ 2 ^ 48 → virtGet s g (a 2).toNat (16 * n) = .ok (lb, false) →
      let ex := (List.range n).map (fun j => (num lb (16 * j) 8, num lb (16 * j + 8) 8))
      let total := (ex.map Prod.snd).sum
      let odd : Prop := ∃ y ∈ ex, y.1 % 4096 ≠ 0 ∨ y.2 % 4096 ≠ 0
      let far : Prop := (∃ y ∈ ex, 2 ^ 48 < y.1 + y.2) ∨ t.lbas < (a 4).toNat + total / t.lbaSize + (if x.1 then 1 else 0)
      let fresh := fun (want : List Byte) =>
        ({ active := true, gal := g.val, write := x.1, ep := e, tag := tag, slot := i, lba := (a 4).toNat, step := BitVec.ofNat 32 (a 5).toNat, extents := ex, total := total, hash := shaInit, expect := want, startAt := now s } : Stream)
      let begins := fun (want : List Byte) => ∃ k : Fin 16, s.streams[k].active = false ∧ (∀ j : Fin 16, j < k → s.streams[j].active = true) ∧
        exec (x.2.2 e tag) s = .next (streamsRun { u with streams := s.streams.set k (fresh want) })
      (odd → ends .invalid) ∧ (¬odd → far → ends .range) ∧ (¬odd → ¬far → x.1 = true ∨ a 5 = 0 → begins []) ∧
      (∀ want, ¬odd → ¬far → x.1 = false → a 5 ≠ 0 → (a 5).toNat + 64 ≤ 2 ^ 48 → virtGet s g (a 5).toNat 64 = .ok (want, false) → begins want))) ∧
  (∀ (g : Gal) (tag : BitVec 32) (s : State) (c : ShtCmdRec),
    let e : Ep := .host g
    let n := (c.args.getD 1 0).toNat
    let u := markStarted s e c
    let ends := fun (st : Status) (t : State) => exec (.streamAbort e tag) s = .next (complete t e tag 0x13 st 0 0 0)
    Starts s e tag 0x13 c → (16 ≤ n → ends .range u) ∧
    (∀ i : Fin 16, i.val = n → let x := s.streams[i]
      (x.active = false ∨ x.gal ≠ g.val → ends .badState u) ∧
      (x.active = true → x.gal = g.val → ends .ok (complete (endStream u i) x.ep x.tag (if x.write then 0x11 else 0x12) .aborted (BitVec.ofNat 64 x.done) 0 0)))) ∧
  (∀ (i : Fin 16) (s : State), let x := s.streams[i]
    let op := if x.write then 0x11 else 0x12
    (x.active = false ∨ findCmd (endpoint s x.ep) x.tag op = none → exec (.streamProgress i) s = .next s) ∧
    (∀ c, x.active = true → findCmd (endpoint s x.ep) x.tag op = some c →
      exec (.streamProgress i) s = .next (sendFor s x.ep c .progress (BitVec.ofNat 64 x.done) 0 0))) ∧
  (∀ (i : Fin 16) (s : State), let t := endStream s i
    t.streams[i].active = false ∧ (∀ j, j ≠ i → t.streams[j] = s.streams[j]) ∧ t.mem = s.mem ∧ t.cores = s.cores ∧ t.conns.map Conn.id = s.conns.map Conn.id ∧
    ∀ k ∈ t.conns, ∀ m ∈ k.cmds, (∀ o, m.use ≠ .data i o) ∧ m.use ≠ .flush i ∧ m.use ≠ .trailer i) ∧
  -- What a stream sends, and how it ends
  (∀ (s : State) (i : Fin 16) (q : Conn) (f : Nat),
    let x := s.streams[i]
    let g : Gal := Fin.ofNat 8 x.gal
    let t := s.gal[g].targets[x.slot]
    let at_ := extentAddr x.extents x.issued
    let lba := x.lba + x.issued / t.lbaSize
    let cdws := leBytes 8 lba ++ leBytes 2 (4096 / t.lbaSize - 1)
    let to_ := fun (y : Stream) => ({ s with streams := s.streams.set i y } : State)
    let more : Prop := x.active = true ∧ x.phase = 0 ∧ x.issued < x.total ∧ outstanding s i < 256
    (¬more → streamPump f s i = s) ∧ (freeQueue s x = none → streamPump f s i = s) ∧
    (more → freeQueue s x = some q →
      (x.write = false → streamPump (f + 1) s i = streamPump f (nvmeSend (to_ { x with issued := x.issued + 4096 })
        q.id (.data i x.issued) 0x02 t.nsid.toNat lba 4096 [] cdws) i) ∧
      (x.write = true → (translate s g at_ false = .unmapped → streamPump (f + 1) s i =
          complete (endStream (ethFault s g 1 at_) i) x.ep x.tag 0x11 .fault 1 (BitVec.ofNat 64 at_) 0) ∧
        (translate s g at_ false = .fmapUe → streamPump (f + 1) s i =
          complete (endStream (ethFault s g 4 at_) i) x.ep x.tag 0x11 .fault 4 (BitVec.ofNat 64 at_) 0) ∧
        (translate s g at_ false = .migrating → streamPump (f + 1) s i = addStall s .ethernet g at_ false false (16 + i.val)) ∧
        ∀ p, translate s g at_ false = .ok p →
          (s.mem.anyPoison p 4096 = true → streamPump (f + 1) s i = complete (endStream s i) x.ep x.tag 0x11 .poison 0 0 0) ∧
          (s.mem.anyPoison p 4096 = false → let b := s.mem.bytes p 4096
            streamPump (f + 1) s i = streamPump f (nvmeSend (to_ { x with issued := x.issued + 4096, hash := shaBlocks 32 x.hash b }) q.id (.data i x.issued) 0x01 t.nsid.toNat lba 0 b cdws) i)))) ∧
  (∀ (s : State) (i : Fin 16), let x := s.streams[i]
    x.active = true → outstanding s i = 0 →
    let d := beBytes (shaFinish x.hash [] x.total)
    let t := s.gal[(Fin.ofNat 8 x.gal)].targets[x.slot]
    let fin := fun (op : Nat) (st : Status) => streamNext s i =
      complete (endStream s i) x.ep x.tag op st (BitVec.ofNat 64 x.total) (msgWord d 0) (msgWord d 1)
    (x.write = false → x.done = x.total → x.expect ≠ [] → x.expect ≠ d → fin 0x12 .digest) ∧
    (x.write = false → x.done = x.total → x.expect = [] ∨ x.expect = d → fin 0x12 .ok) ∧ (x.done ≠ x.total → x.phase = 0 → streamNext s i = s) ∧
    (x.write = true → 3 ≤ x.phase → fin 0x11 .ok) ∧
    (∀ q, x.write = true → freeQueue s x = some q →
      let to_ := fun (y : Stream) => ({ s with streams := s.streams.set i y } : State)
      let end_ := x.lba + x.total / t.lbaSize
      (x.phase = 0 → x.done = x.total → streamNext s i =
        nvmeSend (to_ { x with phase := 1, flushAt := now s }) q.id (.flush i) 0x00 t.nsid.toNat 0 0 [] []) ∧
      (x.phase = 1 → streamNext s i = nvmeSend (to_ { x with phase := 2 }) q.id (.trailer i) 0x01 t.nsid.toNat end_ 0
        (fixLen t.lbaSize (leBytes 4 0x4B504354 ++ leBytes 2 1 ++ leBytes 2 (vintage s) ++ leBytes 1 x.gal ++ List.replicate 7 0 ++ leBytes 8 x.total ++
          leBytes 4 x.step.toNat ++ leBytes 2 (coord s) ++ [0, 0] ++ leBytes 8 x.startAt ++ leBytes 8 x.flushAt ++ d)) (leBytes 8 end_ ++ [0, 0])) ∧
      (x.phase = 2 → streamNext s i = nvmeSend (to_ { x with phase := 3 }) q.id (.flush i) 0x00 t.nsid.toNat 0 0 [] []))) ∧
  -- Connections
  (∀ (id : Nat) (s : State), (∀ r, findConn s id = none → exec (.tcpDeliveryTimeout id r) s = .next s) ∧
    (∀ c, findConn s id = some c → exec (.tcpDeliveryTimeout id true) s = .next (connLost s c) ∧
      exec (.tcpDeliveryTimeout id false) s = .next (connLost (advanceTo s (c.sentAt + 10000000000)) c)) ∧
    (∀ c b l, findConn s id = some c → c.unacked = b :: l → ethOn s = true →
      let u := advanceTo s (c.sentAt + c.rto)
      exec (.tcpRetransmissionTimeout id) s = .next (ethSend (modConn u id (fun k => { k with
        ssthresh := max ((k.unacked.map List.length).foldl (· + ·) 0 / 2) (2 * mss u c), cwnd := mss u c, rto := 2 * k.rto,
        sentAt := now u, again := true })) (.tcp id b))) ∧
    (ethOn s = false ∨ (∀ c, findConn s id = some c → c.unacked = []) → exec (.tcpRetransmissionTimeout id) s = .next s)) ∧
  -- Bytes leave in segments of the MSS, the oldest first, as far as the congestion window lets them.
  (∀ (s : State) (id : Nat) (c : Conn) (b : List Byte), findConn s id = some c →
    let t := connSend s id b
    t = { s with conns := t.conns, dev := t.dev, out := t.out, eth := t.eth } ∧ ∃ k n, findConn t id = some k ∧
      let l := c.sendq ++ segments (mss s c) b.length b
      k.sendq = l.drop n ∧ k.unacked = c.unacked ++ l.take n ∧ k.cmds = c.cmds ∧ k.cwnd = c.cwnd ∧
      (∀ x r, k.sendq = x :: r → k.unacked ≠ [] ∧ c.cwnd < (k.unacked.map List.length).sum + x.length)) ∧
  (∀ (m : Nat) (b : List Byte), 0 < m → (segments m b.length b).flatten = b ∧ ∀ x ∈ segments m b.length b, 0 < x.length ∧ x.length ≤ m) ∧
  (∀ (s : State) (c : Conn), let t := connLost s c
    let g : Gal := Fin.ofNat 8 c.gal
    let o := s.gal[g].targets[c.slot]
    t.mem = s.mem ∧ t.cores = s.cores ∧ (∀ k ∈ t.conns, k.id ≠ c.id) ∧ (c.closing = true → t.gal = s.gal ∧ t.streams = s.streams) ∧
    (c.closing = false → t.gal[g].targets[c.slot].set = false ∧ t.gal[g].targets[c.slot].opening = none) ∧
    (o.opening = none → t.conns.map Conn.id = (s.conns.filter (fun k => decide (k.id ≠ c.id))).map Conn.id) ∧
    ∀ i : Fin 16, let x := s.streams[i]
      let hit : Prop := c.qid ≠ 0 ∧ c.closing = false ∧ x.gal = c.gal ∧ x.slot = c.slot
      (hit → t.streams[i].active = false) ∧ (¬hit → t.streams[i] = x)) ∧
  -- PDUs
  (∀ (id : Nat) (p : List Byte) (s : State),
    (ethOn s = false ∨ findConn s id = none → exec (.nvmeTcpPduReceive id p) s = .next s) ∧
    (∀ c, ethOn s = true → findConn s id = some c →
      let v := connAcked (fincr s 0x0E000048 63 32 1) id
      let g : Gal := Fin.ofNat 8 c.gal
      let o := s.gal[g].targets[c.slot]
      let type := num p 0 1
      let ans := fun (t : State) => exec (.nvmeTcpPduReceive id p) s = .next t
      (pduOk p = false ∨ (type ≠ 1 ∧ (c.up = false ∨ (type ≠ 5 ∧ type ≠ 7 ∧ type ≠ 9))) ∨ (type = 1 ∧ (c.up = true ∨ c.closing = true)) → ans (connLost v c)) ∧
      (pduOk p = true → type = 1 → c.up = false → c.closing = false → num p 11 1 % 4 = 3 → c.sendq = [] → ∃ t b, ans t ∧ t.mem = s.mem ∧ t.gal = s.gal ∧ t.streams = s.streams ∧
        (ethPaused s = false → s.eth.waiting = [] → t.out = s.out ++ [.tcp id b]) ∧ ∃ k, findConn t id = some k ∧ k.up = true ∧ k.maxH2c = num p 12 4 ∧
        ∃ m, k.cmds = c.cmds ++ [m] ∧ m.use = .connect ∧ m.data.length = 1024 ∧
          (m.data.drop 256).take 512 = fixLen 256 o.subnqn ++ fixLen 256 o.hostnqn) ∧
      (pduOk p = true → c.up = true → type = 5 ∨ type = 7 ∨ type = 9 →
        (∀ m ∈ c.cmds, m.cid ≠ if type = 5 then num p 20 2 else num p 8 2) → ans (connLost v c)) ∧
      (∀ m, pduOk p = true → c.up = true → type = 5 → c.cmds.find? (fun m => decide (m.cid = num p 20 2)) = some m →
        let w0 := modConn v id (fun k => { k with cmds := k.cmds.filter (fun x => decide (x.cid ≠ m.cid)) })
        let w := { w0 with conns := w0.conns.filter (fun k => !(k.closing && decide (k.cmds = []))) }
        let code := num p 22 2 / 2
        let st := BitVec.ofNat 64 code
        let lost := fun (i : Fin 16) (lba : Nat) =>
          streamsRun (complete (endStream w i) w.streams[i].ep w.streams[i].tag (if w.streams[i].write then 0x11 else 0x12) .storage st (BitVec.ofNat 64 lba) 0)
        (m.use = .dropped → ans (streamsRun w)) ∧
        (∀ i, m.use = .flush i → (code = 0 → ans (streamsRun w)) ∧ (code ≠ 0 → ans (lost i 0))) ∧
        (∀ i, m.use = .trailer i → (code = 0 → ans (streamsRun w)) ∧ (code ≠ 0 → ans (lost i m.lba))) ∧
        (∀ i off, m.use = .data i off → (code ≠ 0 → ans (lost i m.lba)) ∧
          (code = 0 → s.streams[i].write = true → ans (streamsRun { w with streams := s.streams.set i { s.streams[i] with done := s.streams[i].done + 4096 } })) ∧
          (code = 0 → s.streams[i].write = false → ans (streamsRun (streamData w i off m.data)))) ∧
        ((∀ i off, m.use ≠ .data i off ∧ m.use ≠ .flush i ∧ m.use ≠ .trailer i) → m.use ≠ .dropped → code ≠ 0 →
          (o.opening = none → ans w) ∧ (∀ e tag, o.opening = some (e, tag) → ∃ t, ans (complete t e tag 0x10 .storage st 0 0) ∧ t.mem = s.mem ∧
            t.gal[g].targets[c.slot] = {} ∧ ∀ k ∈ t.conns, k.gal = g.val → k.slot = c.slot → k.closing = true)) ∧
        (m.use = .propGet → code = 0 → bit (msgWord p 1) 0 = true → c.gal < 8 → ∃ t, ans t ∧ t.mem = s.mem ∧ t.streams = s.streams ∧
          ∃ l, t.conns.map Conn.id = w.conns.map Conn.id ++ l ∧ (t.conns.drop w.conns.length).map Conn.qid = [1, 2, 3, 4] ∧
            ∀ k ∈ t.conns.drop w.conns.length, k.gal = c.gal ∧ k.slot = c.slot ∧ k.up = false) ∧
        (m.use = .identNs → code = 0 →
          let n := num m.data 0 8
          let k := num m.data (128 + 4 * (num m.data 26 1 % 16) + 2) 1
          ∀ e tag, o.opening = some (e, tag) → (k = 9 ∨ k = 12 →
              ans (complete (modTarget w g c.slot (fun t => { t with set := true, opening := none, lbas := n, lbaSize := 2 ^ k }))
                e tag 0x10 .ok (BitVec.ofNat 64 n) (BitVec.ofNat 64 (2 ^ k)) 0)) ∧
            (k ≠ 9 → k ≠ 12 → ∃ (t : State) (r : Word), ans (complete t e tag 0x10 .storage r 0 0) ∧ t.gal[g].targets[c.slot] = {}))) ∧
      (∀ m, pduOk p = true → c.up = true → type = 7 → c.cmds.find? (fun m => decide (m.cid = num p 8 2)) = some m →
        let off := num p 12 4
        let d := cut p (num p 3 1) (p.length - 4 - num p 3 1)
        (num p 16 4 ≠ d.length ∨ m.need < off + d.length → ans (connLost v c)) ∧
        (num p 16 4 = d.length → off + d.length ≤ m.need → bit (BitVec.ofNat 8 (num p 1 1)) 3 = false → ans (modConn v id (fun k =>
          { k with cmds := k.cmds.map (fun x => if x.cid = m.cid then { m with data := putBytes m.data off d } else x) })))) ∧
      (∀ m, pduOk p = true → c.up = true → type = 9 → c.cmds.find? (fun m => decide (m.cid = num p 8 2)) = some m →
        let off := num p 12 4
        let n := num p 16 4
        (m.data.length < off + n ∨ n = 0 → ans (connLost v c)) ∧
        (0 < n → off + n ≤ m.data.length → n ≤ c.maxH2c → ans (connSend v id (mkPdu 6 4
          (leBytes 2 m.cid ++ leBytes 2 (num p 10 2) ++ leBytes 4 off ++ leBytes 4 n ++ [0, 0, 0, 0]) (cut m.data off n))))))) ∧
  -- Read data
  (∀ (s : State) (i : Fin 16) (off : Nat) (b : List Byte),
    let x := s.streams[i]
    let g : Gal := Fin.ofNat 8 x.gal
    let at_ := extentAddr x.extents off
    x.write = false → x.late = [] →
    let y := if off = x.hashed then { x with hash := shaBlocks (b.length / 128) x.hash b, hashed := x.hashed + b.length } else { x with late := [(off, b)] }
    let put_ := fun (z : Stream) => ({ s with streams := s.streams.set i z } : State)
    (∀ p, translate s g at_ true = .ok p → streamData s i off b =
      { put_ { y with done := x.done + b.length } with mem := s.mem.store p b false }) ∧
    (translate s g at_ true = .unmapped → streamData s i off b =
      complete (endStream (ethFault (put_ y) g 1 at_) i) x.ep x.tag 0x12 .fault 1 (BitVec.ofNat 64 at_) 0) ∧
    (translate s g at_ true = .fmapUe → streamData s i off b =
      complete (endStream (ethFault (put_ y) g 4 at_) i) x.ep x.tag 0x12 .fault 4 (BitVec.ofNat 64 at_) 0) ∧
    (translate s g at_ true = .migrating → streamData s i off b = addStall (put_ { y with wait := y.wait ++ [(off, b)] }) .ethernet g at_ true false (16 + i.val)) ∧
    (translate s g at_ true = .readOnly → streamData s i off b =
      complete (endStream (ethFault (put_ y) g 3 at_) i) x.ep x.tag 0x12 .permission 0 0 0))

/-- Faults, resets and records (chapter 13). -/
def Obligations.ResetsAndReports : Prop :=
  -- Opening and the trap
  (∀ (g : Gal) (s : State),
    let r := fun (o : Nat) => rget s (0x0F000000 + g.val * 0x1000 + o)
    let none_ : Prop := bits (r 0x10) 15 0 = 0 ∨ bits (r 0x18) 15 0 = 0 ∨ bits (r 0x30) 1 0 = 0
    let outside : Prop := catValid s = false ∨ (bit s.catActive.gal[g] 63 = true ∧ inBox s g (coord s) = false)
    let stat := fun (k : Nat) => fset s (0x0F000000 + g.val * 0x1000) 23 16 k
    let go := fun (t : State) => exec (.glyCtlOpen g) s = .next t
    (bit (r 0) 0 = true → go (fset s (0x0F000000 + g.val * 0x1000) 15 15 1)) ∧ (bit (r 0) 0 = false → none_ → go (stat 4)) ∧
    (bit (r 0) 0 = false → ¬none_ → tmbState s ≠ 3 → go (stat 1)) ∧ (bit (r 0) 0 = false → ¬none_ → tmbState s = 3 → outside → go (stat 2)) ∧
    (bit (r 0) 0 = false → ¬none_ → tmbState s = 3 → ¬outside → s.retire ≠ [] → go (stat 3)) ∧
    (bit (r 0) 0 = false → ¬none_ → tmbState s = 3 → ¬outside → s.retire = [] → ∃ t, go t ∧
      t = { fset (stat 0) (0x0F000000 + g.val * 0x1000) 1 0 3 with gal := t.gal } ∧ (∀ h, h ≠ g → t.gal[h] = s.gal[h]) ∧
      t.gal[g] = { s.gal[g] with cq := Vector.replicate 16 {}, stepSeal := { s.gal[g].stepSeal with losses := [] } }) ∧
    (∃ t, exec (.glyCtlRearm g) s = .next t ∧ t = { s with gal := t.gal, dev := t.dev } ∧ t.gal[g] = { s.gal[g] with fired := false } ∧
      (∀ h, h ≠ g → t.gal[h] = s.gal[h]) ∧ (∀ o ∈ [(0x70 : Nat), 0x78, 0x80, 0x88], rget t (0x0F000000 + g.val * 0x1000 + o) = 0) ∧
      (rising (s.dev.map Prod.fst) = true → bit (rget t (0x0F000000 + g.val * 0x1000)) 4 = false))) ∧
  -- Teardown
  (∀ (g : Gal) (s : State),
    (isOpen s g = false → exec (.glyCtlNextgen g) s = .next (fset s (0x0F000000 + g.val * 0x1000) 15 15 1)) ∧
    (isOpen s g = true → s.gal[g].tear ≠ .none → s.gal[g].tear ≠ .draining → exec (.glyCtlNextgen g) s = .next s) ∧
    (isOpen s g = true → s.gal[g].tear = .none →
      let b := teardownBegin s g
      ((∀ q : Fin 16, s.gal[g].cq[q].ops = []) → b.mem = s.mem) ∧ (s.replay.active = true → s.replay.gallery = g → b.replay = {}) ∧ b.gal[g].tear = .draining ∧ (∀ q : Fin 16, b.gal[g].cq[q].ops = []) ∧
      (∀ n, coreOwner s n ≠ some g → ownsCluster s g (n.val / 8) = false → coreAt b n = coreAt s n) ∧
      (∀ n, ownsCluster s g (n.val / 8) = true → let c := coreAt s n
        coreAt b n = { c with mq := [], hold := none, state := (if c.state = .run ∨ c.state = .wait then .stopped else c.state),
                              resumepc := (if c.state = .run ∨ c.state = .wait then c.pc else c.resumepc) }) ∧
      (rackingBusy b g = true → exec (.glyCtlNextgen g) s = .next b) ∧
      (rackingBusy b g = false → exec (.glyCtlNextgen g) s = .next (teardownFinish b g))) ∧
    (s.gal[g].tear = .draining → exec (.teardownRackingKill g) s = .next (teardownFinish s g)) ∧
    (s.gal[g].tear ≠ .draining → exec (.teardownRackingKill g) s = .next s) ∧
    (rising (s.dev.map Prod.fst) = true → let t := teardownFinish s g
      rget t (0x0F000060 + g.val * 0x1000) = rget s (0x0F000060 + g.val * 0x1000) + 1 ∧
      (∀ i : Fin 16, s.streams[i].active = true → (t.streams[i].active = true ↔ s.streams[i].gal ≠ g.val)) ∧
      (∀ n, ownsCluster s g (n.val / 8) = false → coreAt t n = coreAt s n) ∧
      (s.gal[g].reset = none → t.gal[g].tear = .none ∧ t.gal[g].cq = Vector.replicate 16 {} ∧
        ∀ n, ownsCluster s g (n.val / 8) = true → (coreAt t n).state = .empty ∧ (coreAt t n).mq = [] ∧ (coreAt t n).hold = none) ∧
      (s.gal[g].reset ≠ none → t.gal[g].tear = .clearing ∧ t.gal[g].fired = false ∧ t.frq[g.val] = {} ∧
        (∀ n, ownsCluster s g (n.val / 8) = true → coreAt t n = { cycleBase := s.clk } ∧
          ∀ a, caskBase n.val ≤ a → a < caskBase n.val + caskSize → t.mem.byte a = 0)))) ∧
  -- Resets
  (∀ (x : Scope × (Gal → Instr)), x ∈ [(Scope.compute, Instr.glyCtlComputeReset), (Scope.gallery, Instr.glyCtlGalleryReset)] → ∀ (g : Gal) (s : State),
    let covered : Prop := ∃ y, s.gal[g].reset = some y ∧ (y.1 = .gallery ∨ x.1 = .compute)
    (deviceRuns s = false ∨ (covered ∧ s.gal[g].tear ≠ .draining) → exec (x.2 g) s = .next s) ∧
    (deviceRuns s = true → ¬covered → ∃ t, exec (x.2 g) s = .next t ∧ t.gal[g].reset = some (x.1, 5, 0) ∧ bit (rget t (0x0F000000 + g.val * 0x1000)) 5 = true ∧
      (∀ n, ownsCluster s g (n.val / 8) = false → coreAt t n = coreAt s n) ∧
      ∃ r ∈ t.cr.general, bits r.ent.w0 55 48 = 0x1D ∧ r.ent.w2 = (if x.1 = .gallery then 0x501 else 0x500))) ∧
  (∀ (g : Gal) (s : State),
    let ends := fun (k : Nat) (u : State) => galEvent u g 0x05 0 [BitVec.ofNat 64 k, gen s g]
    let clear := fun (u : State) => fset (modGal u g (fun y => { y with reset := none, tear := .none, resetCmds := [] })) (0x0F000000 + g.val * 0x1000) 5 5 0
    ((∀ a b, s.gal[g].reset ≠ some (.compute, a, b)) ∨ s.gal[g].tear ≠ .clearing → exec (.computeResetComplete g) s = .next s) ∧
    (∀ a b, s.gal[g].reset = some (.compute, a, b) → s.gal[g].tear = .clearing →
      (s.gal[g].resetCmds = [] → exec (.computeResetComplete g) s = .next (ends 0 (clear s))) ∧
      (∀ e tag c, s.gal[g].resetCmds = [(e, tag)] → (endpoint s e).cmds.find? (fun k => decide (k.tag = tag)) = some c →
        exec (.computeResetComplete g) s = .next (ends 0 (complete (clear s) e tag c.op .ok 0 0 0)))) ∧
    (genref s g ≠ 0 → exec (.genrefDrainZero g) s = .next s) ∧
    (∀ a b, genref s g = 0 → s.gal[g].reset = some (.gallery, a, b) → s.gal[g].tear = .clearing → ∃ t, exec (.genrefDrainZero g) s = .next t ∧
      t.mem = s.mem ∧ t.cores = s.cores ∧ t.gal[g] = { s.gal[g] with tear := .zeroing } ∧
      (rising (s.walker.entries.map Prod.fst) = true → ∀ v < 2 ^ 31, walkFrame t g.val v = none) ∧
      (∀ c < 16, ownsGroup s g c = true → celMode s c ≠ 2 → bit (rget t (celReg c 0)) 14 = true ∧
        (rising (s.walker.zeros.map Prod.fst) = true → look ⟨0, 0⟩ t.walker.zeros c = ⟨c * 2 ^ 20, backedFrames s c⟩))) ∧
    (genref s g = 0 → s.gal[g].reset = none → s.gal[g].tear = .none → ∃ t, exec (.genrefDrainZero g) s = .next t ∧ t.mem = s.mem ∧ t.cores = s.cores ∧
      t.gal = s.gal ∧ t.walker.entries = s.walker.entries) ∧
    ((∀ a b, s.gal[g].reset ≠ some (.gallery, a, b)) ∨ s.gal[g].tear ≠ .zeroing ∨
      (∃ c < 16, ownsGroup s g c = true ∧ bit (rget s (celReg c 0)) 14 = true) → exec (.galleryResetComplete g) s = .next s) ∧
    (∀ a b, s.gal[g].reset = some (.gallery, a, b) → s.gal[g].tear = .zeroing → (∀ c < 16, ownsGroup s g c = true → bit (rget s (celReg c 0)) 14 = false) →
      rising (s.dev.map Prod.fst) = true → ∃ t, exec (.galleryResetComplete g) s = .next t ∧ t.cores = s.cores ∧ t.mem = s.mem ∧
        bits (rget t (0x0F000000 + g.val * 0x1000)) 1 0 = 0 ∧ bits (rget t (0x0F000000 + g.val * 0x1000)) 5 4 = 0 ∧ rget t (0x0F000068 + g.val * 0x1000) = 0 ∧
        t.gal[g].reset = none ∧ t.gal[g].tear = .none ∧ t.gal[g].mtx = {} ∧ t.gal[g].mcp = {} ∧ t.gal[g].mrx = {} ∧
        (s.gal[g].mtx.running = false → s.gal[g].mcp.running = false → s.gal[g].stepSeal.st ≠ .closing → t.gal[g].stepSeal = {}) ∧ t.gal[g].cq = Vector.replicate 16 {} ∧
        t.gal[g].windows = Vector.replicate 16 {} ∧ t.gal[g].targets = Vector.replicate 4 {} ∧ (∀ k ∈ t.conns, k.gal = g.val → k.closing = true) ∧
        ((endpoint t (.host g)).session ≠ none → (endpoint t (.host g)).ending = some (endpoint t (.host g)).txSeq))) ∧
  -- Fault Record Queues
  (∀ (q : Fin 9) (s : State),
    (s.frq[q].ents = [] → exec (.frqPop q) s = .next (fset s 0 15 15 1)) ∧
    (s.frq[q].handling = false → exec (.frqResolve q) s = .next (fset s 0 15 15 1)) ∧
    (s.frq[q].handling = true → exec (.frqResolve q) s = .next { s with frq := s.frq.set q { s.frq[q] with handling := false, cause := 0, charged := [] } }) ∧
    (∀ x l, s.frq[q].ents = x :: l →
      let u := { s with frq := s.frq.set q { s.frq[q] with ents := l } }
      let kind := bits x.w0 55 48
      let cls := bits x.w0 59 56
      let g : Gal := Fin.ofNat 8 (bits x.w0 42 40)
      let n : CoreId := Fin.ofNat 128 (bits x.w0 38 32)
      let hasG : Prop := bit x.w0 43 = true
      let hasN : Prop := bit x.w0 39 = true
      let c := coreAt s n
      let go := fun (t : State) => exec (.frqPop q) s = .next t
      let told := galEvent u g 0x01 n.val [x.w2, x.w3, x.w4, x.w5, c.resumepc, cstatWord c]
      let now_ := galEvent u g 0x01 n.val [c.ecause, c.epc, c.eaddr, c.einfo, c.resumepc, cstatWord c]
      let runs := curatorResume u n
      let q2 : Fin 2 := Fin.ofNat 2 (bits x.w2 19 16)
      let q4 : Fin 4 := Fin.ofNat 4 (bits x.w2 19 16)
      let failed : Err :=
        { kind := 1, cls := 3, unit := bits x.w0 47 44, gal := some g, core := some n, d0 := c.ecause, d1 := c.epc, d2 := c.eaddr, d3 := c.einfo }
      (kind ∉ [1, 2, 3, 4, 5, 6, 8] ∨ ¬hasG → go u) ∧
      (hasG → hasN → kind = 1 ∨ kind = 5 → (cls = 3 → go (teardown told g)) ∧ (cls ≠ 3 → go told)) ∧
      (hasG → hasN → kind = 2 → (bits x.w2 7 0 ≠ 3 → go told) ∧ (bits x.w2 7 0 = 3 → c.ecause = x.w2 ∧ c.epc = x.w3 → go runs) ∧
        (bits x.w2 7 0 = 3 → ¬(c.ecause = x.w2 ∧ c.epc = x.w3) → go u)) ∧
      (hasG → hasN → kind = 4 → (bits c.ecause 7 0 = 9 → go now_) ∧ (bits c.ecause 7 0 ≠ 9 → go u)) ∧
      (hasG → kind = 6 → (cls ≠ 3 → go u) ∧ (cls = 3 → hasN → go (teardown now_ g)) ∧ (cls = 3 → ¬hasN → go (teardown (s.frq[frqOf (some g)].charged.foldl (fun t m =>
        galEvent t g 0x01 m.val [(coreAt t m).ecause, (coreAt t m).epc, (coreAt t m).eaddr, (coreAt t m).einfo, (coreAt t m).resumepc, cstatWord (coreAt t m)]) u) g))) ∧
      (hasG → hasN → kind = 8 → go (teardown u g)) ∧ (hasG → ¬hasN → kind = 1 ∨ kind = 2 ∨ kind = 4 ∨ kind = 5 ∨ kind = 8 → go u) ∧
      (hasG → kind = 3 → bits x.w2 3 0 = 3 ∨ bits x.w2 9 8 = 3 → go u) ∧
      (hasG → hasN → kind = 3 → bits x.w2 3 0 ≠ 3 → bits x.w2 9 8 = 0 →
        let stopped : Prop := c.state = .stopped ∧ bits c.ecause 7 0 = 5
        (translate s g x.w3.toNat false = .migrating → go { u with walker := { s.walker with timeouts := s.walker.timeouts ++ [x] } }) ∧
        (∀ p, translate s g x.w3.toNat false = .ok p → (stopped → go runs) ∧ (¬stopped → go u)) ∧
        (∀ t, translate s g x.w3.toNat false = .unmapped → bits x.w2 3 0 = 1 → mapFree u g (x.w3.toNat / 2 ^ 17 % 2 ^ 31) true = some t →
          (stopped → go (curatorResume t n)) ∧ (¬stopped → go t)) ∧
        (translate s g x.w3.toNat false = .fmapUe → (¬stopped → go u) ∧ (stopped → go (report u failed))) ∧
        (translate s g x.w3.toNat false = .unmapped → bits x.w2 3 0 ≠ 1 ∨ mapFree u g (x.w3.toNat / 2 ^ 17 % 2 ^ 31) true = none →
          (¬stopped → go u) ∧ (stopped → go (report u failed)))) ∧
      (∀ p, hasG → hasN → kind = 3 → bits x.w2 3 0 ≠ 3 → translate s g x.w3.toNat false = .ok p →
        (bits x.w2 9 8 = 1 → c.rq[q2].tfault = true → ∀ t, exec (.rkgResume n q2) u = .next t →
          go (if bit x.w5 0 = true ∧ bits (coreAt t n).ecause 7 0 = 5 then curatorResume t n else t)) ∧
        (bits x.w2 9 8 = 2 → s.slices[q4] ≠ [] → ∀ t, exec (.colSliceResume q4) u = .next t → go t)))) ∧
  (∀ (n : CoreId) (s : State), ((coreAt s n).state ≠ .stopped → curatorResume s n = s) ∧
    ((coreAt s n).state = .stopped → coreOwner s n ≠ none → (coreAt s n).launchPend = false → (∀ q : Fin 2, (coreAt s n).rq[q].reload = false) → let t := curatorResume s n
      t.mem = s.mem ∧ (∀ m, m ≠ n → coreAt t m = coreAt s m) ∧ (coreAt t n).state = .run ∧ (coreAt t n).pc = (coreAt s n).resumepc ∧ bits (coreAt t n).ecause 7 0 = 0)) ∧
  -- Errors of Cask and Reserve lines
  (∀ (n : CoreId) (ea : Nat) (s : State),
    let c := 0x400 + 8 * (n.val / 8)
    let res : Prop := 2 ^ 49 ≤ ea
    lineMet s n ea .none = s ∧ (¬res → lineMet s n ea .ce = appraise (counted (fincr s c 15 0 1)) (0x110 + n.val / 8) 1) ∧
    (res → lineMet s n ea .ce = appraise (counted (fincr s c 31 16 1)) (0x110 + n.val / 8) 1) ∧
    (let v := appraise (if 2 ^ 49 ≤ ea then fincr s c 63 48 1 else fincr s c 47 32 1) (0x110 + n.val / 8) 1024;
      let w := { v with mem := s.mem.setPoison (sramAt n ea / 64) true }
      lineMet s n ea .ue = report w (lineErr w n ea 2 false))) ∧
  (∀ (n : CoreId) (err : SramErr) (s : State),
    let h : Hart := .core n
    let d := disarm s n
    let pc := (coreAt s n).pc
    let out := fun (t : State) => retireTo (settle t n) n (pc + 8)
    (∀ (size : Size) (signed : Bool) (sd sa : SReg) (imm : BitVec 40) (pa : Nat),
      let i : Instr := .ld h size signed err sd sa imm
      let k := match size with | .byte => 1 | .half => 2 | .word => 4 | .double => 8
      let ea := (getS h sa s + imm.signExtend 64).toNat
      let t := lineMet (logSram d n i ea) n ea err
      let m := leNat (s.mem.bytes pa k)
      let v := if signed then (BitVec.ofNat (8 * k) m).signExtend 64 else BitVec.ofNat 64 m
      Ready h i s → ea % k = 0 → (2 ^ 48 ≤ ea ∧ ea + k ≤ 2 ^ 48 + 0x600000 ∧ pa = caskBase n.val + (ea - 2 ^ 48)) ∨
        (2 ^ 49 ≤ ea ∧ ea + k ≤ 2 ^ 49 + 0x1000000 ∧ pa = reserveBase (n.val / 8) + (ea - 2 ^ 49)) →
      (err ≠ .ue → s.mem.isPoisoned (pa / 64) = false → exec i s = .next (out (setS h sd v t))) ∧
      (err ≠ .ue → s.mem.isPoisoned (pa / 64) = true → exec i s = .next (takeExc d n (excPoison ea) 0 true pc pc)) ∧
      (err = .ue → replayMode t n = false → exec i s = .next (takeExc t n (excPoison ea) 0 true pc pc)) ∧
      (err = .ue → replayMode t n = true → exec i s = .next (startReplay t n ea true))) ∧
    (∀ (g : Guard) (fmt : Fmt) (vd : VNum) (sa : SReg) (off : BitVec 12),
      let i : Instr := .vld h g fmt err vd sa off
      let ea := (getS h sa s + off.signExtend 64 <<< 6).toNat
      let t := lineMet (logSram d n i ea) n ea err
      let w := fmtBits fmt
      let r := out (commitV n vd w (guardOn n g d w) (fun k => elemOf w (memVec s.mem (sramAt n ea)) k)
        (fun k => t.mem.isPoisoned (sramAt n ea / 64 + segOf w k)) t)
      Ready h i s → g.err = .none → ea % 64 = 0 → winOf ea 2048 = .cask ∨ winOf ea 2048 = .reserve →
      (err ≠ .ue → exec i s = .next r) ∧ (err = .ue → replayMode r n = true → exec i s = .next (startReplay r n ea true)) ∧
      (err = .ue → replayMode r n = false → exec i s = .next (charge r (lineErr r n ea 3 false) [n])))) ∧
  -- Replay
  (∀ (n : CoreId) (ea : Nat) (met : Bool) (g : Gal) (s : State), coreOwner s n = some g →
    let t := startReplay s n ea met
    let l := suspectsOf s n ea
    (s.replay.active = true → met = true → t = charge s (lineErr s n ea 3 false) [n]) ∧
    (s.replay.active = false → t.mem = s.mem ∧ t.replay.active = true ∧ t.replay.suspects = l ∧ t.replay.runs = 0 ∧ t.frq[g.val].handling = true ∧
    ∀ m : CoreId, let hit : Prop := (met = true ∧ m = n) ∨ ∃ e ∈ l, e.core = m.val
      (hit → live (coreAt s m) = true → m ∈ t.replay.stopped ∧ (coreAt t m).state = .stopped ∧ (coreAt t m).resumepc = (coreAt s m).pc) ∧
      (¬hit → coreAt t m = coreAt s m))) ∧
  -- An error that a unit meets in a line it reads is attributed as its Gallery's mode says.
  (∀ (n : CoreId) (e : LineErr) (met : Bool) (s : State),
    let ea := e.ea.toNat
    let local_ : Prop := winOf ea 1 = .cask ∨ winOf ea 1 = .reserve
    let t := lineMet s n ea .ue
    (¬local_ → unitMet s n e met = s) ∧ (local_ → e.err ≠ .ue → unitMet s n e met = lineMet s n ea e.err) ∧
    (local_ → e.err = .ue → replayMode t n = true → unitMet s n e met = startReplay t n ea met) ∧
    (local_ → e.err = .ue → replayMode t n = false → met = true → unitMet s n e met = charge t (lineErr t n ea 3 false) [n]) ∧
    (local_ → e.err = .ue → replayMode t n = false → met = false → let l := logCores (suspectsOf t n ea)
      unitMet s n e met = if l = [] then t else charge t (lineErr t n ea 3 false) l)) ∧
  (∀ (b : Bool) (s : State),
    let r := s.replay
    let core := fun (e : LogEnt) => (Fin.ofNat 128 e.core : CoreId)
    let lost : Prop := ∃ e ∈ r.suspects, e ∉ replayLog s
    (r.active = false → exec (.replayRerun b) s = .next s ∧ exec .replayRerunTimeout s = .next s) ∧
    (r.active = true → lost → exec (.replayRerun b) s = .next (endReplay s (r.suspects.map core))) ∧
    (r.active = true → ¬lost → r.suspects.length ≤ r.runs → exec (.replayRerun b) s = .next (endReplay s [])) ∧
    (∀ e, r.active = true → ¬lost → r.suspects[r.runs]? = some e → (b = true → exec (.replayRerun b) s = .next (endReplay s [core e])) ∧
      (let v := { s with replay := { r with runs := r.runs + 1 } };
        b = false → (r.runs + 1 < r.suspects.length → exec (.replayRerun b) s = .next v) ∧
          (r.suspects.length ≤ r.runs + 1 → exec (.replayRerun b) s = .next (endReplay v [])))) ∧
    (r.active = true → exec .replayRerunTimeout s = exec (.replayRerun false) (advanceBy s 1000000))) ∧
  (∀ (s : State) (l : List CoreId), let r := s.replay
    let t := (r.stopped.filter (fun n => !l.contains n)).foldl curatorResume { s with replay := {} }
    (l = [] → endReplay s l = t) ∧
    let e : Err :=
      { kind := 6, cls := 3, unit := 7, gal := some r.gallery, d1 := BitVec.ofNat 64 (r.line % 2 ^ 48 / 64 * 64), d2 := BitVec.ofNat 64 r.suspects.length, d3 := 1,
        d0 := mkWord [(0, if r.reserve then r.unit else r.unit / 8), (4, if r.reserve then 1 else 0), (8, if r.reserve then 0 else r.unit)] }
    (l ≠ [] → endReplay s l = charge { t with frq := t.frq.set r.gallery.val { t.frq[r.gallery.val] with handling := false } } e l)) ∧
  -- Appraisal and the Condition Report
  (∀ s : State,
    (let due := s.lastHalve + bits (rget s 0x480) 55 48 * 3600000000000;
      ∃ t, exec .appraisalHalve s = .next t ∧ t = { advanceTo s due with lastHalve := due, scores := t.scores } ∧
        (rising (s.scores.map Prod.fst) = true → ∀ c, let x := score s c
          score t c = { x with score := x.score / 2, advised := x.advised && decide (bits (rget s 0x480) 31 16 ≤ x.score / 2) })) ∧
    (s.deferred = [] → exec .advisoryDeferredIssue s = .next s) ∧ (advAllowed s = false → exec .advisoryDeferredIssue s = .next s) ∧
    (∀ c, let a := adviceNow s c
      (a.comp = c ∧ a.time = now s ∧ a.d1 = BitVec.ofNat 64 (score s c).score) ∧ (advAllowed s = true → advise s c = issueAdvisory { s with
        advTimes := s.advTimes ++ (advHolders s).map (fun h => (h, now s)) } a) ∧
      (advAllowed s = false → (∀ d ∈ s.deferred, d.comp ≠ c) → advise s c = { s with deferred := s.deferred ++ [a] }) ∧
      (advAllowed s = false → (∃ d ∈ s.deferred, d.comp = c) → advise s c = { s with deferred := s.deferred.map (fun d => if d.comp = c then a else d) })) ∧
    (∀ c l, s.deferred = c :: l → advAllowed s = true → ∃ t, exec .advisoryDeferredIssue s = .next t ∧ t.mem = s.mem ∧ t.cores = s.cores ∧ t.deferred = l ∧
      t.advTimes = s.advTimes ++ (advHolders s).map (fun h => (h, now s)) ∧ (score t c.comp).advn = min ((score s c.comp).advn + 1) 65535 ∧
      ∃ r, t.cr.general.getLast? = some r ∧ bits r.ent.w0 55 48 = 0x1E ∧ r.ent.w1 = BitVec.ofNat 64 c.time ∧ r.ent.w2 = c.d0 ∧ r.ent.w3 = c.d1 ∧
        r.ent.w4 = c.d2 ∧ r.ent.w5 = c.d3) ∧
    (advAllowed s = true ↔ ∀ h ∈ advHolders s, (s.advTimes.filter (fun t => decide (t.1 = h ∧ now s < t.2 + 3600000000000))).length < bits (rget s 0x480) 63 56) ∧
    exec .crpClear s = .next { s with cr := { s.cr with general := s.cr.general.filter (fun r => decide (s.cr.rdsel.toNat < bits r.ent.w0 31 0)) } } ∧
    (let may := ∃ r ∈ s.cr.pinned, bits r.ent.w0 31 0 = s.cr.rdsel.toNat ∧ bits r.ent.w0 55 48 = 0x0A ∧
        ∃ x ∈ s.cr.pinned, bits x.ent.w0 55 48 = 0x0D ∧ bits x.ent.w2 7 0 = bits r.ent.w2 7 0;
      (¬may → exec .crpUnpin s = .next { s with cr := { s.cr with badcmd := true } }) ∧
      (let kept := s.cr.pinned.filter (fun r => decide (bits r.ent.w0 31 0 ≠ s.cr.rdsel.toNat));
        may → exec .crpUnpin s = .next { s with cr := { s.cr with pinned := kept } })))

/-- Provenance, SMBus and JTAG (R409 to R423, R455 to R459). -/
def Obligations.BootAndProvenance : Prop :=
  -- SMBus transactions
  (∀ (s : State) (x : BitVec 24) (b : List Byte) (v : Byte) (o : BitVec 32) (w : Word) (ok : Bool),
    let l : List Instr := [.mboxWrite x b ok, .mboxDone v ok, .smbRegSelect o ok, .smbRegWrite w ok]
    (∀ i ∈ .mboxStatusRead :: .smbRegRead :: l, s.pins.pwrgood = false → exec i s = .next s) ∧
    (s.pins.pwrgood = true → ok = false → ∀ i ∈ l, exec i s = .next { s with
      pins := { s.pins with pecErr := true }, out := s.out ++ [Out.smbus [] false] })) ∧
  (∀ (s : State) (x : BitVec 24) (b : List Byte), s.pins.pwrgood = true →
    let open_ : Prop := bootState s = 1 ∧ s.prov.mboxComplete = false
    let fits := decide (x.toNat + b.length ≤ 20685)
    (¬open_ → exec (.mboxWrite x b true) s = .next { s with out := s.out ++ [Out.smbus [] false] }) ∧
    (open_ → ∃ t, exec (.mboxWrite x b true) s = .next t ∧ t = { s with prov := t.prov, out := s.out ++ [Out.smbus [] fits] } ∧
      t.prov = { s.prov with mbox := t.prov.mbox, mboxOverflow := s.prov.mboxOverflow || decide (20685 < x.toNat + b.length ∧ b ≠ []) } ∧
      (rising (s.prov.mbox.map Prod.fst) = true → ∀ k, look none t.prov.mbox k = if x.toNat ≤ k ∧ k < x.toNat + b.length ∧ k < 20685 then
        some (b.getD (k - x.toNat) 0) else look none s.prov.mbox k)) ∧
    (let st := mkWord [(3, if s.pins.pecErr then 1 else 0), (2, if s.prov.mboxOverflow then 1 else 0), (1, if s.prov.mboxComplete then 1 else 0),
        (0, if bootState s = 1 ∧ s.prov.mboxComplete = false then 1 else 0)];
      exec .mboxStatusRead s = .next { s with pins := { s.pins with pecErr := false }, prov := { s.prov with mboxOverflow := false },
                                              out := s.out ++ [Out.smbus (leBytes 1 st.toNat) true] })) ∧
  -- The bundle
  (∀ (s : State) (v : Byte), s.pins.pwrgood = true →
    let whole : Prop := ∀ k < 20685, look none s.prov.mbox k ≠ none
    let ready : Prop := v = 0xA5 ∧ bootState s = 1 ∧ s.prov.mboxComplete = false ∧ whole
    let u := { s with prov := { s.prov with mboxComplete := true }, out := s.out ++ [Out.smbus [] true] }
    let b := (List.range 20685).map (fun k => (look none s.prov.mbox k).getD 0)
    let at_ := fun (o n : Nat) => (b.drop o).take n
    let ed := at_ 0 32
    let ml := at_ 32 1952
    let signed := fun (e m x sig : List Byte) => Config.ed25519Verify e x (sig.take 64) = true ∧ Config.mldsaVerify m x ((sig.drop 64).take 3309) = true
    let m := at_ 16800 512
    let f := fun (o n : Nat) => leNat ((m.drop o).take n)
    let body : Prop := f 0 2 = 1 ∧ (∀ k < 512, (k = 11 ∨ k = 30 ∨ k = 31 ∨ 160 ≤ k) → m.getD k 0 = 0) ∧ f 8 1 < 4 ∧ f 9 1 < 4 ∧ f 18 2 < 2 ^ 15
    let valid : Prop := sha512 ed = Config.romDigest0 ∧ sha512 ml = Config.romDigest1 ∧ signed ed ml (at_ 1984 1984) (at_ 3968 3373) ∧
      signed ed ml (at_ 7344 6080) (at_ 13424 3373) ∧ signed (at_ 1984 32) (at_ 2016 1952) m (at_ 17312 3373) ∧ body
    let rom := mkWord [(16, bits (rget s 0x0D000000) 11 8), (0, Config.romRev.toNat)]
    let k := Config.pufSecret s.prov.pufCount (at_ 7344 4096)
    let seedE := fun (x : List Byte) => (hmac512 x (ascii "OT1-ID-ED25519")).take 32
    let seedM := fun (x : List Byte) => (hmac512 x (ascii "OT1-ID-MLDSA65")).take 32
    let key := fun (x : List Byte) => Config.ed25519Public (seedE x) ++ Config.mldsaPublic (seedM x)
    let own : Prop := ∃ x, k = some x ∧ key x = at_ 11440 1984 ∧ leNat ((sha512 (key x)).take 4) = f 4 4
    let go := fun (P : State → Prop) => ∃ t, exec (.mboxDone v true) s = .next t ∧ t.mem = s.mem ∧ t.cores = s.cores ∧ P t
    let fails := fun (code : Nat) (t : State) => bootState t = 5 ∧ bits (rget t 0x0D000000) 31 24 = code
    let strap := bits (rget s 0x0D000000) 9 8
    let qspi := f 8 1 % 2 = 1
    let net := f 8 1 / 2 % 2 = 1
    (¬ready → exec (.mboxDone v true) s = .next { s with out := s.out ++ [Out.smbus [] false] }) ∧
    (ready → ¬valid → go (fun t => fails 2 t ∧ t.prov = u.prov)) ∧
    (ready → valid → ¬own → go (fails 3)) ∧
    (ready → valid → go (fun t => t.prov.meas[0] = sha512 (s.prov.meas[0] ++ sha512 (leBytes 8 rom.toNat)) ∧
      t.prov.meas[1] = sha512 (s.prov.meas[1] ++ sha512 m) ∧ ∀ j : Fin 8, 2 ≤ j.val → t.prov.meas[j] = s.prov.meas[j])) ∧
    (ready → valid → own → rising (s.dev.map Prod.fst) = true → go (fun t => t.prov.manifest = m ∧ (∃ x, k = some x ∧ t.prov.seeds = some (seedE x, seedM x)) ∧
      rget t 0x0D000010 = BitVec.ofNat 64 (f 4 4) ∧ rget t 0x0E000010 = BitVec.ofNat 64 (f 12 6) ∧
      rget t 0x0E000018 = mkWord [(32, f 24 4), (0, f 20 4)] ∧ bits (rget t 0x0D000008) 31 16 = f 2 2 ∧ bits (rget t 0x0B000008) 23 16 = f 10 1 ∧
      (strap = 3 ∨ (strap = 1 ∧ ¬net) ∨ (strap ≠ 1 ∧ ¬qspi) → fails 6 t) ∧ (strap = 1 → net → bootState t = 3 ∧ bit (rget t 0x0E000008) 0 = true) ∧
      (strap ≠ 1 → strap ≠ 3 → qspi → bootState t = 2)))) ∧
  (∀ s : State, (bootState s ≠ 1 → exec .manifestTimeout s = .next s) ∧
    (bootState s = 1 → ∃ t, exec .manifestTimeout s = .next t ∧ bootState t = 5 ∧ bits (rget t 0x0D000000) 31 24 = 1 ∧ t.mem = s.mem ∧ t.cores = s.cores)) ∧
  -- Firmware images
  (∀ s : State,
    let h := fun (i : Fin 2) => tblBytes 0xFF s.prov.flash[i] 0 8192
    let body := fun (i : Fin 2) (n : Nat) => tblBytes 0xFF s.prov.flash[i] 8192 n
    let vin := fun (i : Fin 2) => num (h i) 2 2
    let old : Fin 2 → Prop := fun i => vin i < minVintage s
    let good : Fin 2 → Prop := fun i => ¬old i ∧ imageOk (h i) (body i) = true
    let starts := fun (i : Fin 2) => ∃ t, exec .qspiImageLoad s = .next t ∧ CuratorStarts s t (h i) (body i (num (h i) 4 4)) i.val
    let code := if vin 0 < minVintage s ∨ vin 1 < minVintage s then 5 else 4
    (bootState s ≠ 2 → exec .qspiImageLoad s = .next s) ∧
    (bootState s = 2 → (good 0 → vin 1 ≤ vin 0 ∨ ¬good 1 → starts 0) ∧ (good 1 → vin 0 < vin 1 ∨ ¬good 0 → starts 1) ∧
      (¬good 0 → ¬good 1 → ∃ t, exec .qspiImageLoad s = .next t ∧ bits (rget t 0x0D000000) 31 24 = code ∧ t.mem = s.mem ∧ t.mgmt = s.mgmt ∧ t.prov = s.prov ∧
        (strapBoot s = 2 ∧ netPermitted s = true → bootState t = 3 ∧ bit (rget t 0x0E000008) 0 = true) ∧
        (¬(strapBoot s = 2 ∧ netPermitted s = true) → bootState t = 5)))) ∧
  (∀ (h : List Byte) (body : Nat → List Byte),
    let n := leNat ((h.drop 4).take 4)
    let ed := (h.drop 80).take 32
    let ml := (h.drop 112).take 1952
    imageOk h body = true ↔ leNat (h.take 2) = 1 ∧ n % 64 = 0 ∧ n ≤ 6 * 2 ^ 20 ∧ sha512 ed = Config.romDigest0 ∧ sha512 ml = Config.romDigest1 ∧
      Config.ed25519Verify ed (h.take 80) (((h.drop 2064).take 3373).take 64) = true ∧
      Config.mldsaVerify ml (h.take 80) ((((h.drop 2064).take 3373).drop 64).take 3309) = true ∧
      sha512 (body n) = (h.drop 16).take 64 ∧ ∀ x ∈ (h.drop 5437).take 2755, x = 0) ∧
  -- Measurements
  (∀ (k : Fin 8) (s : State),
    (k.val < 4 → exec (.prvExtend k) s = .next (fset s 0x0D000000 15 15 1)) ∧
    (let d := (List.range 8).flatMap (fun i => leBytes 8 (rget s (0x0D000040 + 8 * i)).toNat);
      let n := s.prov.log.length
      let meas := s.prov.meas.set k (sha512 (s.prov.meas[k] ++ d))
      let entry : List Byte := [BitVec.ofNat 8 k.val, 0x10, 0, 0] ++ leBytes 4 n ++ d
      (4 ≤ k.val → n < 256 → exec (.prvExtend k) s = .next { s with prov := { s.prov with meas := meas, log := s.prov.log ++ [entry] } }) ∧
      (4 ≤ k.val → 256 ≤ n → exec (.prvExtend k) s = .next (fincr { s with prov := { s.prov with meas := meas } } 0x0D000020 63 32 1)))) ∧
  -- Registers over SMBus
  (∀ (s : State) (o : BitVec 32) (w : Word), s.pins.pwrgood = true →
    let sel := s.pins.smbSel.toNat
    let may := fun (n : Nat) => smbSelectable n = true
    let no := { s with out := s.out ++ [Out.smbus [] false] }
    let yes := fun (t : State) => { t with out := s.out ++ [Out.smbus [] true] }
    let a := bits w 27 16
    (¬may o.toNat → exec (.smbRegSelect o true) s = .next no) ∧
    (may o.toNat → exec (.smbRegSelect o true) s = .next (yes { s with pins := { s.pins with smbSel := o } })) ∧
    (¬may sel → exec .smbRegRead s = .next no) ∧
    (may sel → ∃ t, exec .smbRegRead s = .next t ∧ t.out = s.out ++ [Out.smbus (leBytes 8 (smbWord s).toNat) true] ∧ t.mem = s.mem ∧ t.cores = s.cores) ∧
    (sel / 2 ^ 24 = 12 → smbWord s = crpWord s s.pins.smbRdsel (sel % 2 ^ 24)) ∧ (sel / 2 ^ 24 ≠ 12 → smbWord s = blockWord s sel) ∧
    (sel = 0x0C000028 → exec (.smbRegWrite w true) s = .next (yes { s with pins := { s.pins with smbRdsel := BitVec.ofNat 32 (bits w 31 0) } })) ∧
    (sel = 0x10000030 → (a = 0 ∨ (720 ≤ a ∧ a ≤ 820) → exec (.smbRegWrite w true) s = .next (yes (fset s 0x10000030 27 16 a))) ∧
      (a ≠ 0 → a < 720 ∨ 820 < a → exec (.smbRegWrite w true) s = .next (yes (fset s 0x10000000 15 15 1)))) ∧
    (sel ≠ 0x0C000028 → sel ≠ 0x10000030 → exec (.smbRegWrite w true) s = .next no)) ∧
  (∀ n : Nat, smbSelectable n = true → (12 * 2 ^ 24 ≤ n ∧ n < 13 * 2 ^ 24) ∨ n ∈ [0x0D000000, 0x0D000008, 0x0D000010, 0x10000000, 0x10000030] ∨
    (0x10000100 ≤ n ∧ n < 0x10000240)) ∧
  -- The test access port
  (∀ s : State,
    let set_ := fun (i : JtagInstr) => { s with pins := { s.pins with jtag := some i } }
    let debug := bit (rget s 0x0D000000) 14
    exec (.jtagInstruction .bypass) s = .next (set_ .bypass) ∧ exec (.jtagInstruction .samplePreload) s = .next (set_ .samplePreload) ∧
    exec (.jtagInstruction .idcode) s = .next { set_ .idcode with out := s.out ++ [Out.jtag 0x0F171A5B] } ∧
    (debug = true → exec (.jtagInstruction .extest) s = .next (set_ .extest) ∧ exec (.jtagInstruction .internal) s = .refused .jtagDeviceState) ∧
    (debug = false → exec (.jtagInstruction .extest) s = .next s ∧ exec (.jtagInstruction .internal) s = .next s) ∧
    exec .trstNAssert s = .next { s with pins := { s.pins with jtag := none } })

/-- The state right after reset. What is zero there without a stated value is the model's choice (log entries 10 and 11). -/
def Obligations.ResetState : Prop :=
  let s := State.reset
  s.pending = [] ∧ (∀ a, s.mem.byte a = 0 ∧ s.mem.isPoisoned a = false) ∧
  (∀ n : CoreId, (coreAt s n).state = .empty ∧ (coreAt s n).fpctl = 0 ∧ (coreAt s n).ecause = 0 ∧ (coreAt s n).waitlim = 0x3B9ACA00 ∧
    (coreAt s n).mq = [] ∧ (∀ h : Fin 32, getS (.core n) h s = 0) ∧ ∀ q : Fin 8, (coreAt s n).q[q] = 0) ∧
  (∀ g : Gal, isOpen s g = false ∧ tearing s g = false ∧ s.gal[g].fired = false ∧ s.gal[g].stepSeal.st = .idle ∧
    ∀ q : Fin 16, s.gal[g].cq[q].ops = []) ∧
  (∀ e : Ep, (endpoint s e).session = none ∧ (endpoint s e).cmds = []) ∧ bootState s = 0 ∧ now s = 0 ∧ tmbState s = 0 ∧
  (∀ p : PortId, linkState s p = 0) ∧ (∀ f < 2 ^ 24, feValid (frameEntry s f) = false) ∧
  (∀ x ∈ [((0x02000020 : Nat), (8 : Word)), (0x03000020, 0x3F666666), (0x03000028, 0x3F7FBE77), (0x07000000, 0x800), (0x0B000020, 4569114145),
      (0x0E000040, mkWord [(32, 8), (16, 100), (0, 24200)]), (0x10000008, 2), (0x10000010, 0x640), (0x10000018, 3200), (0x10000028, 1024),
      (0x10000030, 820), (0x00000480, mkWord [(56, 4), (48, 24), (32, 16384), (16, 4096)])], rget s x.1 = x.2) ∧
  Canonical s ∧ FrameMapOk s

/-- The invariant that the other statements assume of the tables; the forms are the model's (log entries 1 and 11). -/
def Obligations.StepKeepsTables : Prop :=
  ∀ s t : State, Canonical s → step s = .next t → Canonical t ∧ t.pending = s.pending.tail

/-- The encodings of chapters 2 and 3: no operand bit is dropped, and no two words are one instruction. -/
def Obligations.SeiskWordsRoundTrip : Prop :=
  (∀ (h : Hart) (i : Instr), i.hart = some h → i.legal = true → plainInstr i = true → decodeSeisk h (encodeSeisk i) = some i) ∧
  (∀ (h : Hart) (w : Word) (i : Instr), decodeSeisk h w = some i → encodeSeisk i = w ∧ i.hart = some h ∧ plainInstr i = true) ∧
  (∀ (h : Hart) (w : Word), encodeSeisk (.illegal h w) = w)

/-- The events and commands of a core complete (R96, R120, R135, R221 to R225, R375, R66 to R69). -/
def Obligations.CoreEventsComplete : Prop :=
  (∀ (n : CoreId) (errs : EngErrors) (s : State) (e : MEntry) (rest : List MEntry) (r : Fin 128) (k : Nat),
    engineRuns s n = true → (coreAt s n).mq = e :: rest → e.finished = false → errs.stbUe = [] → errs.vatUe = [] →
    r.val < e.rows → e.drop.getLsbD r.val = false → k ∈ e.slabCols → k < 512 →
    let c := coreAt (ensureBlock n e s) n
    let old := if e.kblk = 0 ∧ e.acc = false then 0 else elemOf 32 c.vat[r] k
    ∃ t, exec (.slabComplete n errs) s = .next t ∧
      elemOf 32 (coreAt t n).vat[r] k = (positionSum e c.stb[e.curBuf][r] r.val (columnOf s n e k) old).code % 2 ^ 32) ∧
  (∀ (n : CoreId) (s : State) (e : MEntry) (rest : List MEntry),
    engineRuns s n = true → (coreAt s n).mq = e :: rest → e.finished = true →
    let bare := fun (x : MEntry) => { x with progress := 0 }
    ∃ t, exec (.matrixInstrComplete n) s = .next t ∧ (coreAt t n).mq.map bare = rest.map bare ∧
      (coreAt t n).vat = (if e.opc = 0xA3 then Vector.replicate 128 0 else (coreAt s n).vat)) ∧
  (∀ (n : CoreId) (s : State),
    let c := coreAt s n
    ∃ t, exec (.engineRampStep n) s = .next t ∧
      (hasWork s n = true → c.actStep < ceilInForce s n → (coreAt t n).actStep = c.actStep + 1) ∧
      (hasWork s n = false → (coreAt t n).actStep = c.actStep - 1)) ∧
  (∀ (n : CoreId) (s : State), engineRuns s n = true → (∃ e ∈ (coreAt s n).mq, e.finished = false) →
    ∃ t, exec (.dummySlabRunLimit n) s = .next t ∧ (coreAt t n).dummyRun = 32 ∧
      (coreAt t n).actStep = (coreAt s n).actStep - 1) ∧
  (∀ (n : CoreId) (q : Fin 2) (s : State) (d : RDesc),
    let x := (coreAt s n).rq[q]
    tornDown s n = false →
    (rackingRuns s n q = true → x.cur = none → x.reload = false → doneCount s n q < enqCount s n q →
      parseEntry s.mem (ringSlot s n q (doneCount s n q)) = some d → rackChecks s n d 0 0 = [] →
      exec (.descriptorStart n q) s = .next (setRq { s with free := s.free + 1 } n q { cur := some d, seed := s.free })) ∧
    (rackingRuns s n q = true → x.cur = some d → x.tfault = false → x.row < d.rows →
      ¬ ((d.kind = 1 ∨ d.kind = 2) ∧ x.row < d.count ∧ x.idx = none) → ∀ line : LineErr, line.err = .none →
      let els := d.piece (x.idx.getD 0) x.row x.elem
      pieceBad s (coreOwner s n) n els = none →
      exec (.rackingPiece n q line) s = .next (progressBy (movePiece s n q d els) n q d els.length)) ∧
    (rackingRuns s n q = true → x.cur = some d → x.tfault = false → d.rows ≤ x.row →
      exec (.descriptorComplete n q) s = .next (writeRecord s n q (if x.reject = 0 then 0 else 1))) ∧
    (x.tfault = true →
      exec (.rkgResume n q) s = .next (setRq s n q { x with tfault := false, fault := none }) ∧
      exec (.rkgFail n q) s = .next (writeRecord s n q 3)) ∧
    (doneCount s n q ≤ enqCount s n q →
      enqCount s n q - doneCount s n q ≤ 2 ^ fget s (rkgReg n.val (8 + 8 * q.val)) 3 0 →
      fget s (rkgReg n.val (8 + 8 * q.val)) 3 0 ≤ 8 →
      ∃ t, exec (.rkgKill n q) s = .next t ∧ enqCount t n q = enqCount s n q ∧ doneCount t n q = enqCount s n q)) ∧
  (∀ (n : CoreId) (q : Fin 2) (v : Word) (s : State),
    let w := v &&& 0xC0FFFF0F
    let size := 256 * 2 ^ bits w 3 0
    let lo := bits w 23 8 * 256
    (bits w 31 30 = 1 ∨ bits w 31 30 = 2) → 2 ≤ bits w 3 0 → bits w 3 0 ≤ 8 → lo % size = 0 →
      lo + size ≤ (if bits w 31 30 = 1 then 0x600000 else 0x1000000) →
      enqCount s n q = doneCount s n q → (coreAt s n).rq[q].tfault = false → rising (s.dev.map Prod.fst) = true →
      ∃ t, exec (.rkgRingWrite n q v) s = .next t ∧ rget t (rkgReg n.val (8 + 8 * q.val)) = w ∧
        enqCount t n q = 0 ∧ doneCount t n q = 0) ∧
  (∀ (n : CoreId) (ch : Fin 4) (s : State), chkBusy s n ch = false →
    let w := fun (o : Nat) => rget s (chkReg n.val ch.val o)
    ((bits (w 0) 3 2 = 3 → 7 ≤ bits (w 0) 11 6) → (∀ o ∈ [0x18, 0x20, 0x28], (w o).toNat < 2 ^ (bits (w 0) 11 6 + 1)) →
      ∃ t, exec (.chkReset n ch) s = .next t ∧ (coreAt t n).chk[ch].started = true ∧ (coreAt t n).chk[ch].ctl = w 0) ∧
    (bit (w 8) 3 = false → ∃ t, exec (.chkFinish n ch) s = .next t ∧
      (coreAt t n).chk[ch] = (coreAt s n).chk[ch].finish (w 0x10).toNat)) ∧
  (∀ (n : CoreId) (g : Gal) (s : State), coreOwner s n = some g → tornDown s n = false →
    let c := coreAt s n
    let a := c.ctxpa.toNat
    let place : Prop := a % 0x80000 = 0 ∧ a < 2 ^ 41 ∧ groupOwner s (a / 2 ^ 37) = some g
    let runs : Prop := c.state = .run ∨ c.state = .wait
    let w := fun (o : Nat) => mem64 s.mem (a + o)
    let image : Prop := place ∧ bits (w 0) 15 0 = 1 ∧ bits (w 0x10) 20 16 = 0 ∧ s.mem.anyPoison a 0x10000 = false ∧
      bits (w 0) 26 24 = g.val ∧ w 8 = gen s g
    (runs ∨ c.state = .stopped ∨ c.state = .halted → place → ∃ t, exec (.ctxPreempt n) s = .next t ∧
      (coreAt t n).state = .saving ∧ (coreAt t n).preq = true ∧ (coreAt t n).resumepc = (if runs then c.pc else c.resumepc)) ∧
    (c.state = .saving → c.mq.length ≤ 4 → (∀ ch : Fin 4, c.chk[ch].part.length ≤ 128) →
      ∃ t, exec (.contextSaveComplete n 0) s = .next t ∧ coreAt t n = { c with state := .saved, preq := false } ∧
        bits (mem64 t.mem a) 15 0 = 1) ∧
    (c.state = .empty → image →
      exec (.ctxRestore n) s = .next (modCore s n (fun c => { c with state := .restoring }))) ∧
    (c.state = .restoring → image → ∃ t, exec (.contextRestoreComplete n) s = .next t ∧
      (coreAt t n).state = (if bits (w 0x10) 3 0 = 4 then .halted else .stopped)) ∧
    (c.state = .stopped ∨ c.state = .halted → bits c.ecause 7 0 = 0 → c.launchPend = false →
      (∀ q : Fin 2, c.rq[q].reload = false) →
      ∃ t, exec (.ctxResume n) s = .next t ∧ (coreAt t n).pc = c.resumepc ∧ (coreAt t n).state = .run) ∧
    (c.state ≠ .empty → ∃ t, exec (.ctxKill n) s = .next t ∧ (coreAt t n).state = .empty ∧ (coreAt t n).mq = [])) ∧
  (∀ (n : CoreId) (s : State), deviceRuns s = true →
    let h : Hart := .core n
    let c := coreAt s n
    ((c.state = .run ∨ c.state = .wait) → c.launchPend = true → ∃ t, exec (.launchTargetReached h) s = .next t ∧
      coreAt t n = { c with launchPend := false, launchat := 0, state := .run }) ∧
    (∀ hd, c.hold = some hd →
      (∀ sd qn sb, hd.instr = .wait h sd qn sb → (c.state = .run ∨ c.state = .wait) → c.waitlim ≠ 0 →
        exec (.waitTimeout h) s = .next (takeExc (advanceTo s (hd.since + c.waitlim.toNat + 1)) n
          { code := 0xC, src := 5 } 6 true c.pc c.pc)) ∧
      (∀ sd sa sb imm, hd.instr = .waitm h .eq sd sa sb imm → Ready h hd.instr s →
        let a := (getS h sa s + imm.setWidth 64).toNat
        let v := mem64 s.mem (sramAt n a)
        a % 8 = 0 → 2 ^ 48 ≤ a → a + 8 ≤ 2 ^ 48 + 0x600000 → s.mem.isPoisoned (sramAt n a / 64) = false →
        v = getS h sb s → exec (.waitmReread h) s = .next (setS h sd v (fell h s))))) ∧
  (∀ (off : BitVec 32) (fs : List Fld) (v : Word) (s : State), deviceRuns s = true → fields off.toNat = some fs →
    portOf off.toNat = none →
    (off.toNat / 0x1000000 ∈ [0x02, 0x03, 0x10, 0x11] → (∀ n, coreOf off.toNat = some n → coreOwner s n ≠ none) →
      exec (.registerWrite .curator off v) s = .next (writeStored s off.toNat v fs)) ∧
    exec (.rcRegisterRead .curator off) s
      = .next { afterRead s off.toNat fs with regOut := blockWord s off.toNat })

/-- The events of collectives, the Step Seal and the mirror complete (R311 to R330). -/
def Obligations.FabricAndSealEventsComplete : Prop :=
  (∀ (p : PortId) (pkt : Packet) (s : State) (o : CollOp),
    let s0 := { s with inbox := s.inbox.erase (p, pkt) }
    let g := pkt.gallery
    let q := dQueue pkt
    let opseq := pkt.type0 / 65536
    let axis := pkt.type0 / 1024 % 4
    (s.gal[g].cq[q].ops.find? (fun o => decide (o.fn.axis.val = bits pkt.w3 12 11 ∧ o.opseq.toNat = opseq)) = some o →
      (∀ err : SliceErr, err.buf = .none → err.line.ea.toNat < 2 ^ 49 → recvKey pkt ∉ o.recv →
        (∀ e ∈ o.early, recvKey e.2 ≠ recvKey pkt) → exec (.collDataReceive p pkt err) s
          = .next (pumpQ (modOp s0 g q o.num (fun x => { x with early := x.early ++ [(p, pkt)] })) g q)) ∧
      exec (.collAckReceive p pkt) s = .next (modOp s0 g q o.num (fun x => { x with unacked := x.unacked.filter (fun u =>
        decide (¬ (u.pkt.type0 = pkt.type0 ∧ u.pkt.w3 = pkt.w3 ∧ u.pkt.dst = pkt.src))) }))) ∧
    (s.gal[g].cq[q].ops.find? (fun o => decide (o.fn.axis.val = axis ∧ o.opseq.toNat = opseq)) = some o →
      exec (.collReadyReceive p pkt) s = .next (pumpQ (applyReady s0 g q o.num (memberOf s0 g axis pkt.src)
        (BitVec.ofNat 32 (bits pkt.w3 63 32))) g q) ∧
      (bits pkt.w3 6 0 ≠ 2 → bits pkt.w3 6 0 ≠ 5 →
        exec (.collAbortReceive p pkt) s = .next (pumpQ (collEnd s0 g q o (bits pkt.w3 6 0)) g q))) ∧
    (isOpen s g = true → exec (.collLossReceive p pkt) s = .next (peerLost s0 g (bits pkt.w3 15 0) (bits pkt.w3 23 16)
      (leNat (pkt.payload.take 8)) none (some pkt.src)))) ∧
  (∀ (g : Gal) (q : Fin 16) (dst : BitVec 16) (t0 : BitVec 32) (t1 : Word) (s : State) (o : CollOp) (u : Unacked),
    let kept := fun (u : Unacked) => u.pkt.dst = dst.toNat ∧ u.pkt.type0 = t0.toNat ∧ u.pkt.w3 = t1
    s.gal[g].cq[q].ops.find? (fun o => o.unacked.any (fun u => decide (kept u))) = some o →
    o.unacked.find? (fun u => decide (kept u)) = some u → u.tries < fget s (colDev 0) 23 16 →
    exec (.collRetransmit g q dst t0 t1) s = .next (reinject (modOp s g q o.num (fun x => { x with
      unacked := x.unacked.map (fun u => if kept u then { u with tries := u.tries + 1 } else u) })) u.pkt)) ∧
  (∀ (g : Gal) (q : Fin 16) (s : State) (o : CollOp) (r : List CollOp), s.gal[g].cq[q].ops = o :: r →
    o.started = true → o.stalled = false → o.held = [] → o.unacked = [] → (∀ i < o.tasks.length, i ∈ o.done) →
    (o.kind = .barrier → ∀ k ∈ o.senders, k ∈ o.ready) →
    exec (.collOperationComplete g q) s = .next (pumpQ (collEnd s g q o 0) g q)) ∧
  (∀ (i : Fin 4) (s : State) (k : SliceStall) (r : List SliceStall) (o : CollOp), s.slices[i] = k :: r →
    s.gal[k.gal].cq[k.q].ops.find? (fun o => o.stalled) = some o →
    exec (.colSliceResume i) s = .next (pumpQ (modOp (showStall { s with slices := s.slices.set i r } i) k.gal k.q o.num
      (fun x => { x with stalled := false })) k.gal k.q) ∧
    exec (.colSliceFail i) s = .next (pumpQ (showStall
      (collEnd (abortOp s k.gal k.q.val o 3) k.gal k.q o 3) i) k.gal k.q)) ∧
  (∀ (g : Gal) (mask : BitVec 16) (q : Fin 16) (s : State), mask.getLsbD q.val = true →
    ∃ t, exec (.colQueueKill g mask) s = .next t ∧ t.gal[g].cq[q].ops = [] ∧
      t.gal[g].cq[q].count = s.gal[g].cq[q].count + s.gal[g].cq[q].ops.length) ∧
  (∀ (p : PortId) (pkt : Packet) (s : State),
    let s0 := { s with inbox := s.inbox.erase (p, pkt) }
    let g := pkt.gallery
    let x := s.gal[g].stepSeal
    let k : SealPkt := { phase := bits pkt.w3 17 16, src := BitVec.ofNat 16 pkt.src
                         reason := BitVec.ofNat 8 (bits pkt.w3 15 8), tc := leNat (pkt.payload.take 8) }
    isOpen s g = true →
    (x.st = .open ∨ x.st = .closing → x.step = BitVec.ofNat 32 pkt.type0 →
      (∀ q ∈ x.cur, ¬ (q.phase = k.phase ∧ q.src = k.src)) → exec (.sealPacketReceive p pkt) s
        = .next (sealAdvance 6 (modSeal s0 g (fun y => { y with cur := x.cur ++ [k] })) g)) ∧
    exec (.mirrorWriteReceive p pkt) s = .next (mirrorDrain s0 g (s.gal[g].mrx.waiting ++ [pkt]))) ∧
  (∀ (p : PortId) (pkt : Packet) (s : State) (u : Unacked),
    let g := pkt.gallery
    s.gal[g].mtx.running = true → u ∈ s.gal[g].mtx.unacked → u.pkt.type0 = pkt.type0 →
    u.pkt.w3 = pkt.w3 &&& ~~~((1 : Word) <<< 61) → bit pkt.w3 61 = false →
    exec (.mirrorAckReceive p pkt) s = .next (mirrorPump (modTx { s with inbox := s.inbox.erase (p, pkt) } g false
      (fun y => { y with unacked := [] })) g false)) ∧
  (∀ (g : Gal) (s : State),
    let x := s.gal[g].stepSeal
    let teff := (rget s (colGal g.val 0x28)).toNat
    x.st = .closing → x.cleanWait = false →
    (x.gathered = false → exec (.sealResend g) s
      = .next (x.sent.foldl (fun s e => sendPhase s g e.1 e.2.1 e.2.2) s)) ∧
    (x.gathered = true → x.reason = 0 → (∀ l ∈ x.losses, teff < l.1 + 100000) → s.gal[g].mtx.running = false →
      exec (.sealTeffReached g) s = .next (sealDecide (advanceTo s teff) g true 0 (some teff))) ∧
    (x.gathered = false → ∀ l r, x.losses = l :: r → exec (.sealLossTimeout g) s
      = .next (sealDecide (advanceTo s (l.2 + 100000)) g false (x.reason ||| 8) none)) ∧
    exec (.sealAbandon g) s = .next (sealDecide
      (modSeal (fbit s (colGal g.val 0x20) 18) g (fun y => { y with sw := some 0 })) g false (x.reason ||| 16) none)) ∧
  (∀ (g : Gal) (s : State) (tag : BitVec 32) (step : BitVec 32) (since : Nat), s.gal[g].mrx.accept = some (tag, step, since) →
    exec (.mirrorAcceptTimeout g) s = .next (mirrorLost (advanceTo s (since + 10000000)) g)) ∧
  (∀ (g : Gal) (s : State) (e : NanEvent), s.gal[g].fired = false → rising (s.dev.map Prod.fst) = true →
    nanWinner s.gal[g].nanQ = some e →
    ∃ t, exec (.nanTrapArbitrate g) s = .next t ∧ t.gal[g].fired = true ∧ t.gal[g].nanQ = [] ∧
      rget t (glyReg g.val 0x70) = e.w0 ∧ rget t (glyReg g.val 0x78) = e.w1)

/-- The commands and events of the Frame Map and the Cellar complete (R237 to R257). -/
def Obligations.MemoryEventsComplete : Prop :=
  (∀ s : State, s.walker.cmdEnd ≤ s.clk → s.walker.badA = [] → FrameMapOk s → rising (s.dev.map Prod.fst) = true →
    let a := rget s 0x06000010
    let b := rget s 0x06000018
    let f := bits a 23 0
    let d := bits b 23 0
    let n := bits b 20 0
    let e := frameEntry s f
    let x := frameEntry s d
    let g : Gal := Fin.ofNat 8 (bits b 33 31)
    let v := bits b 30 0
    let gr := f / 2 ^ 20
    (a.toNat < 2 ^ 25 → b.toNat < 2 ^ 34 → feRetired e = false → feZeroed e = true → feValid e = false →
      walkFrame s g.val v = none → groupOwner s gr = some g → (chainOf s (anchorIndex g.val v)).length < 16 →
      ∃ t, exec (.fmpMap {}) s = .next t ∧ walkFrame t g.val v = some f ∧ feWrite (frameEntry t f) = bit a 24) ∧
    (a.toNat < 2 ^ 24 → b = 0 → feValid e = true → feMigrating e = false → f ∈ chainOf s (entryHash e) →
      ∃ t, exec (.fmpUnmap {}) s = .next t ∧ feValid (frameEntry t f) = false ∧
        walkFrame t (feGallery e) (feVfn e) = none) ∧
    (a.toNat < 2 ^ 25 → b = 0 → feValid e = true → feMigrating e = false → f ∈ chainOf s (entryHash e) →
      ∃ t, exec (.fmpProtect {}) s = .next t ∧ feWrite (frameEntry t f) = bit a 24) ∧
    (a.toNat < 2 ^ 24 → b.toNat < 2 ^ 24 → feValid e = true → feMigrating e = false → feRetired x = false →
      feZeroed x = true → f ≠ d → (∃ o : Gal, groupOwner s (d / 2 ^ 20) = some o ∧ o.val = feGallery e) →
      (∃ i < 16, bit (rget s (0x06000080 + 8 * i)) 63 = false) →
      ∃ t, exec (.fmpMigrate {}) s = .next t ∧ feMigrating (frameEntry t f) = true) ∧
    (a.toNat < 2 ^ 24 → b.toNat < 2 ^ 21 → n ≠ 0 → n ≤ 2 ^ 20 → f % 2 ^ 20 + n ≤ backedFrames s gr →
      f % 2 ^ 20 + n ≤ 2 ^ 20 → bit (rget s (celReg gr 0)) 14 = false →
      (∀ i, f ≤ i → i < f + n → feValid (frameEntry s i) = false ∧ feRetired (frameEntry s i) = false) →
      ∃ t, exec (.fmpZero {}) s = .next t ∧ look ⟨0, 0⟩ t.walker.zeros gr = ⟨f, n⟩) ∧
    (a.toNat < 2 ^ 24 → b = 0 → feValid e = false → feRetired e = false →
      ∃ t, exec (.fmpRetire {}) s = .next t ∧ feRetired (frameEntry t f) = true) ∧
    (a.toNat < 2 ^ 24 → b = 0 → ∃ t, exec (.fmpRead {}) s = .next t ∧ rget t 0x06000020 = e) ∧
    (a = 0 → b.toNat < 2 ^ 34 → ∀ i < 2 ^ 24, walkFrame s g.val v = some i →
      ∃ t, exec (.fmpLookup {}) s = .next t ∧ rget t 0x06000020 = BitVec.ofNat 64 (2 ^ 63 + i))) ∧
  (∀ (i : Fin 16) (s : State),
    let r := rget s (0x06000080 + 8 * i.val)
    let f := bits r 23 0
    let d := bits r 47 24
    let e := frameEntry s f
    bit r 63 = true → feValid e = true → feMigrating e = true → FrameMapOk s → f ∈ chainOf s (entryHash e) →
    feValid (frameEntry s d) = false → zeroing s d = false →
    (∀ k ∈ s.walker.stalls, ¬ (k.gal.val = feGallery e ∧ k.addr.toNat / 2 ^ 17 = feVfn e)) →
    (∀ y ∈ s.walker.timeouts, ¬ (y.gal.map (fun g => g.val) = some (feGallery e) ∧ y.w3.toNat / 2 ^ 17 = feVfn e)) →
    ∃ t, exec (.migrationComplete i) s = .next t ∧ walkFrame t (feGallery e) (feVfn e) = some d) ∧
  (∀ (gr : Fin 16) (s : State),
    let z := look ⟨0, 0⟩ s.walker.zeros gr.val
    z.count ≠ 0 → bit (rget s (celReg gr.val 0)) 11 = false → s.group[gr].zeroDone = true → FrameMapOk s →
    z.first / 2 ^ 20 = gr.val → z.first % 2 ^ 20 + z.count ≤ backedFrames s gr.val →
    ∃ t, exec (.zeroComplete gr) s = .next t ∧ look ⟨0, 0⟩ t.walker.zeros gr.val = ⟨0, 0⟩ ∧
      ∀ x, z.first * 2 ^ 17 ≤ x → x < (z.first + z.count) * 2 ^ 17 → t.mem.byte x = 0) ∧
  (∀ (r : WalkReq) (g : Gal) (addr : BitVec 48) (w : Bool) (err : FmapErr) (s : State),
    (s.walker.walks.filter (fun k => k.started)).length < 64 → Config.freeBit s.free = false →
    exec (.translationWalk r g addr w err) s = .next { s with free := s.free + 1, walker := { s.walker with
      nextId := s.walker.nextId + 1
      walks := s.walker.walks ++ [{ id := s.walker.nextId, req := r, gal := g, addr := addr, write := w, started := true }] } }) ∧
  (∀ (s : State) (k : Walk) (pa : Nat), k ∈ s.walker.walks → k.started = true →
    (∀ j ∈ s.walker.walks, j.id = k.id → j = k) → s.walker.badA = [] → rising (s.dev.map Prod.fst) = true →
    translate s k.gal k.addr.toNat k.write = .ok pa →
    ∃ t, exec (.walkOutcome k.id 0 false false) s = .next t ∧ (∀ j ∈ t.walker.walks, j.id ≠ k.id) ∧
      rget t 0x06000028 = rget (fincr s 0x06000028 63 0 1) 0x06000028) ∧
  (∀ (s : State) (k : Stall) (n : CoreId) (q : Fin 2), k ∈ s.walker.stalls → (∀ j ∈ s.walker.stalls, j.id = k.id → j = k) →
    k.req = .racking n q →
    let u := fincr (advanceTo s (k.since + 200000)) 0x06000030 63 0 1
    exec (.migrationStallTimeout k.id) s = .next (rackingStop { u with walker := { u.walker with
      stalls := u.walker.stalls.filter (fun x => decide (x.id ≠ k.id)) } } n q 2 k.addr.toNat k.write)) ∧
  (∀ (addr : BitVec 41) (s : State),
    let l := addr.toNat / 64
    let g : Fin 16 := Fin.ofNat 16 (l * 64 / 2 ^ 37)
    bit (rget s (celReg g.val 0)) 11 = false → celMode s g.val ≠ 2 → s.mem.deadAt (l * 64) = false →
    (∀ errors, 1 ≤ errors → errors ≤ 3 → exec (.cellarRead addr errors) s = .next
      { s with group := s.group.set g { s.group[g] with reread := insertNat l s.group[g].reread } }) ∧
    (∀ errors, 4 ≤ errors → errors ≤ 5 → s.mem.isPoisoned l = false →
      ∃ t, exec (.cellarRead addr errors) s = .next t ∧ t.mem = s.mem.setPoison l true) ∧
    (∀ (data : List Byte) (psn : Bool) (errors : Nat), data.length = 64 → addr.toNat % 64 = 0 → s.mem.dead = [] →
      ∃ t, exec (.cellarWrite addr data psn errors) s = .next t ∧ ∀ i < 64, t.mem.byte (64 * l + i) = data.getD i 0) ∧
    (l ∈ s.group[g].reread → ∃ t, exec (.cellarCeReread addr 0) s = .next t ∧
      t.group[g].reread = s.group[g].reread.filter (fun x => decide (x ≠ l)) ∧ t.mem = s.mem)) ∧
  (∀ (g : Fin 16) (s : State),
    let k := s.group[g].patrol
    bit (rget s (celReg g.val 0)) 11 = false → celMode s g.val ≠ 2 → bit (rget s (celReg g.val 0x18)) 8 = true →
    frameMigrating s (g.val * 2 ^ 20 + k / 2048) = false → k < 2 ^ 31 →
    exec (.patrolScrub g 0) s = .next { s with group := s.group.set g { s.group[g] with
      patrol := (k + 1) % max 1 (backedFrames s g.val * 2048) } }) ∧
  (∀ (g c : Fin 16) (s : State),
    (∃ t, exec (.threshWindowExpire g) s = .next t ∧ t.group[g].ch[c].winUe = 0 ∧ t.group[g].ch[c].winRows = 0) ∧
    (∀ b r p rest, s.group[g].ch[c].copying = (b, r, p) :: rest → b < 16 → r < 2 ^ 17 → p < 232 →
      ∃ t, exec (.rowRetirementCopyDone g c) s = .next t ∧ t.group[g].ch[c].copying = rest)) ∧
  (∀ (g c : Fin 16) (s : State), bit (rget s (celReg g.val 0)) 11 = false → celMode s g.val ≠ 2 →
    rising (s.dev.map Prod.fst) = true →
    let st := fun (x : State) => chState x g.val c.val
    (∀ bank temp, ∀ rate : Fin 3, ∃ t, exec (.refresh g c bank temp rate) s = .next t ∧
      bits (rget t (celReg g.val (0x100 + 8 * c.val))) 11 10 = rate.val ∧ t.group[g].ch[c].temp = some temp) ∧
    (st s ≤ 1 → ∃ t, exec (.channelRetrain g c false) s = .next t ∧ st t = 1) ∧
    (st s = 0 → ∃ t, exec (.celRetrainCh g c false) s = .next t ∧ st t = 1) ∧
    (deviceRuns s = true → st s = 3 → exec (.channelTrainingDone g c true) s = .next (becomeReady
      (fset (fset s (celReg g.val 0) 11 11 0) (celReg g.val (0x100 + 8 * c.val)) 9 8 0))) ∧
    (st s ≠ 1 → st s ≠ 2 → ∃ t, exec (.celFailCh g c) s = .next t ∧ st t = 1 ∧
      bit (rget t (celReg g.val 0)) 12 = true) ∧
    (bit (rget s (celReg g.val 0)) 13 = true → s.mem.ways.find? (fun w => decide (w.1 = g.val)) = some (g.val, c.val) →
      ∃ t, exec (.rebuildComplete g) s = .next t ∧ bit (rget t (celReg g.val 0)) 13 = false ∧ celMode t g.val = 1)) ∧
  (∀ (g c : Fin 16) (i : Fin 1024) (v : Word) (s : State),
    let slot := fun (k : Nat) => rget s (0x06000080 + 8 * k)
    let mapped : Prop := ∃ e ∈ s.walker.entries, e.1 / 2 ^ 20 = g.val ∧ feValid e.2 = true
    let still : Prop := ∀ k < 16, bit (slot k) 63 = true → bits (slot k) 23 20 ≠ g.val ∧ bits (slot k) 47 44 ≠ g.val
    let bare := { s.group[g] with exiting := false, waiting := [], patrol := 0, sysPatrol := 0 }
    (¬ mapped → ∃ t, exec (.celOffline g) s = .next t ∧ celMode t g.val = 2) ∧
    (bit (rget s (celReg g.val 0)) 11 = false → groupOwner s g.val = none → bits v 7 0 ≤ 231 →
      v &&& 0x800000003FFFFEFF ≠ 0 → ∃ t, exec (.celRemapWrite g i v) s = .next t ∧
        rget t (celReg g.val (0x1000 + 8 * i.val)) = v &&& 0x800000003FFFFEFF) ∧
    (bit (rget s (celReg g.val 0)) 11 = false → celMode s g.val ≠ 2 → ¬ mapped → still →
      bit (rget s (celReg g.val 0)) 13 = false → (∀ j < 16, chState s g.val j = 1 ↔ j = c.val) →
      (∀ j < 16, chState s g.val j ≠ 2) → exec (.celRebuild g) s = .next
        { fset (fset (fset s (celReg g.val (0x100 + 8 * c.val)) 9 8 2) (celReg g.val 0) 13 13 1) (celReg g.val 0) 12 12 0 with
          mem := { s.mem with dead := s.mem.dead.filter (fun d => decide (d ≠ (g.val, c.val))), ways := (g.val, c.val) :: s.mem.ways } }) ∧
    (groupOwner s g.val = none → bit (rget s (celReg g.val 0)) 14 = false → bit (rget s (celReg g.val 0)) 13 = false →
      bit (rget s (celReg g.val 0)) 11 = false → s.group[g].exiting = false → still →
      (∀ j < 16, chState s g.val j ≠ 3) → s.group[g].zeroDone = true → bit (rget s (celReg g.val 0x18)) 8 = false →
      exec (.selfRefreshEnter g) s = .next { fset s (celReg g.val 0) 11 11 1 with
        group := s.group.set g { s.group[g] with patrol := 0, sysPatrol := 0 } }) ∧
    (s.group[g].exiting = true → s.group[g].waiting = [] → exec (.selfRefreshExitDone g 0) s
      = .next { fset s (celReg g.val 0) 11 11 0 with group := s.group.set g bare }))

/-- The events of the interconnect and of the Timebase complete (chapters 9 and 11). -/
def Obligations.FabricEventsComplete : Prop :=
  (∀ (r : TrellisReq) (s : State),
    (∃ t, exec (.trellisRequest r) s = .next t ∧ ∃ e ∈ t.trellis.sent, e.req = r ∧ e.since = now s) ∧
    (∀ e ∈ s.trellis.sent, (∀ f ∈ s.trellis.sent, f.req.id = e.req.id → f = e) →
      (e.req.err.headerUe = false → e.req.gallery = none → ∀ err : TrellisErr, err.headerUe = false →
        ∃ t, exec (.trellisReply e.req.id err) s = .next t ∧ (∀ x ∈ t.trellis.sent, x.req.id ≠ e.req.id) ∧
          (e.req.src, e.req.id, false) ∈ t.trellis.answered) ∧
      (∀ g, e.req.gallery = some g → galResetting s g = false →
        ∃ t, exec (.trellisReplyTimeout e.req.id) s = .next t ∧ (∀ x ∈ t.trellis.sent, x.req.id ≠ e.req.id) ∧
          (e.req.src, e.req.id, true) ∈ t.trellis.answered))) ∧
  (∀ (p : PortId) (s : State), rising (s.dev.map Prod.fst) = true →
    let x := s.ports[p]
    let st := linkState s p
    let cabled : Prop := catValid s = false ∨ bit s.catActive.nbr[p] 63 = true
    let becomes := fun (i : Instr) (k : Nat) => ∃ t, exec i s = .next t ∧ linkState t p = k
    (st = 0xB → s.prov.selfTest ≠ none → cabled → becomes (.lnkEnable p) 0) ∧
    becomes (.lnkDisable p) 0xB ∧
    (5 ≤ st → st ≤ 7 → becomes (.lnkRetrain p) 8) ∧
    (st ≠ 0xB → becomes (.lnkFulltrain p) 0) ∧
    (st ≠ 0xB → st ≠ 0xA → becomes (.lnkRetire p) 0xA) ∧
    (3 ≤ st → st ≤ 7 → becomes (.linkLockLoss p) 8) ∧
    (st = 8 → x.retrainTimes = [] → 2 ≤ bits (rget s (lnkReg p.val 0x10)) 47 40 → x.reident = false → x.before ≤ 7 → x.before ≠ 4 →
      becomes (.linkRetrainEnd p true 0) x.before) ∧
    (st = 0 ∨ st = 9 → becomes (.linkSignalDetect p) 1) ∧
    (st = 1 → becomes (.linkTrainResult p 0xFFFF) 2) ∧
    (st = 2 → becomes (.linkFrameAlign p) 3) ∧
    (optical p = true → st ≤ 8 → becomes (.lightLoss p true) 0) ∧
    (3 ≤ st → st ≤ 7 → partnerState s p ≠ 0xA → partnerState s p ≠ 0xB → sharedGals s p = [] →
      becomes (.frameLockLoss p) 9) ∧
    (x.stopping = true → ∃ t, exec (.transmitStop p) s = .next t ∧ t.ports[p].stopping = false) ∧
    (∀ n : BitVec 128, (∀ k ∈ x.arrived, k.type ≠ 0x10) → st = 2 ∨ st = 3 ∨ st = 7 →
      ∃ t, exec (.identNonceReceive p n) s = .next t ∧ t.ports[p].nonceRx = some n) ∧
    (∀ (part : Fin 4) (data b : List Byte), (∀ k ∈ x.arrived, ¬ (k.type = 0x11 ∧ k.type0 % 4 = part.val)) →
      st = 3 → part ≠ 3 → identWhole { x with ident := put [] part.val data x.ident } = some b → catValid s = false →
      becomes (.identReceive p part data) (if identGood x b then 4 else 7)) ∧
    (∀ w : Word, (∀ k ∈ x.arrived, ¬ (k.type = 0x12 ∧ k.w3 = w)) → 3 ≤ st → st ≤ 7 → sharedGals s p = [] →
      ∃ t, exec (.peerStateReceive p w) s = .next t ∧ bits (rget t (lnkSt p)) 39 36 = bits w 19 16)) ∧
  (∀ (p : PortId) (s : State), deviceRuns s = true → 3 ≤ linkState s p → linkState s p ≤ 7 →
    let x := s.ports[p]
    (x.ackOwed < 4096 → x.replay ≠ [] → ∃ t f l rest, exec (.linkFrameSend p) s = .next t ∧ x.replay = f :: l ∧
      t.ports[p].replay = l ∧ ∃ f', t.out = s.out ++ Out.frame p f' :: rest ∧ f'.slots = f.slots) ∧
    (∀ f : Frame, frameCrc f = true → x.stopping = false → x.failedSeq = none → bits f.trailer 63 52 = x.rxSeq →
      ∃ t, exec (.linkFrameReceive p f 0 false) s = .next t ∧ t.ports[p].rxSeq = (x.rxSeq + 1) % 4096 ∧
        t.ports[p].ackOwed = x.rxSeq)) ∧
  (∀ (p : PortId) (vc : Fin 13) (k : Packet) (s : State), k ∈ s.ports[p].arrived → k.len ≤ 66 → 1 ≤ k.type → k.type ≤ 6 →
    (k.cls = true ↔ k.type = 3 ∨ k.type = 6) →
    (∀ a < 4, k.dst / 16 ^ a % 16 ≤ bits s.catActive.hdr0 47 32 / 16 ^ a % 16) → k.dst = bits s.catActive.hdr0 63 48 →
    k.epoch = bits s.catActive.hdr0 3 0 → isOpen s k.gallery = true → bit s.catActive.gal[k.gallery] 63 = true →
    bits s.catActive.gal[k.gallery] 15 0 = k.gtag → inBox s k.gallery (coord s) = true →
    k.gen = (gen s k.gallery).toNat % 256 →
    ∃ t, exec (.packetReceive p vc k) s = .next t ∧ t.inbox = s.inbox ++ [(p, k)] ∧ t.ports[p].arrived = s.ports[p].arrived.erase k) ∧
  (∀ (q o : PortId) (v : Fin 13) (k : Packet) (s : State), deviceRuns s = true → s.ports[q].inbuf = [(v.val, k)] →
    o ∈ candidates s k → k.hops < 63 → isTransit s k = false → v.val % 3 = 0 →
    (∀ y ∈ candidates s k, queuedSlots s o (classOn s k o) < queuedSlots s y (classOn s k y) ∨
      (queuedSlots s o (classOn s k o) = queuedSlots s y (classOn s k y) ∧ o.val ≤ y.val)) →
    credit s o (Fin.ofNat 13 (3 * classOn s k o)) (1 + k.len) = true →
    ∃ t, exec (.packetRouteGrant (some q)) s = .next t ∧ t.ports[q].inbuf = [] ∧
      ∃ k' : Packet, k'.payload = k.payload ∧ k'.hops = k.hops + 1 ∧
        t.ports[o].outq = s.ports[o].outq ++ [((Fin.ofNat 13 (3 * classOn s k o)).val, k')]) ∧
  (∀ s : State,
    let a := s.catActive
    let b := s.catShadow
    let nibs := fun (c : Nat) (i : Fin 4) => c / 16 ^ i.val % 16
    let sh := bits b.hdr0 47 32
    let inside := fun (c : Nat) => ∀ i : Fin 4, nibs c i ≤ nibs sh i
    bit (rget s 0x08000008) 0 = true ∨ bit (rget s 0x08000000) 0 = false → bits a.hdr0 15 0 < bits b.hdr0 15 0 →
    nibs sh 0 ≤ 7 → nibs sh 1 ≤ 7 → inside (bits b.hdr0 63 48) →
    (∀ p : PortId, bit b.nbr[p] 63 = true → inside (bits b.nbr[p] 47 32)) →
    (∀ g : Gal, bit b.gal[g] 63 = true → inside (bits b.gal[g] 31 16) ∧ inside (bits b.gal[g] 47 32)) →
    (∀ g : Gal, isOpen s g = false) → rising (s.dev.map Prod.fst) = true →
    ∃ t, exec .catalogueCommit s = .next t ∧ t.catActive = b ∧ bit (rget t 0x08000000) 0 = true ∧
      bits (rget t 0x08000000) 31 16 = bits b.hdr0 15 0) ∧
  (∀ (p : PortId) (s : State), (linkState s p = 4 ∨ linkState s p = 5 ∨ linkState s p = 6) →
    let x := s.ports[p]
    (deviceRuns s = true → ∃ t k, exec .timebaseExchangePeriod s = .next t ∧ t.ports[p].tbSeq = x.tbSeq + 1 ∧
      t.ports[p].mgmtq = x.mgmtq ++ [k] ∧ k.type = 0x13) ∧
    (∀ (seq : BitVec 16) (w : Word) (t2 : BitVec 80), (∀ k ∈ x.arrived, k.type ≠ 0x13) →
      ∃ t k, exec (.timebaseReqReceive p seq w t2) s = .next t ∧ t.ports[p].announce = some w ∧
        t.ports[p].mgmtq = x.mgmtq ++ [k] ∧ k.type0 = 2 * 2 ^ 28 + seq.toNat) ∧
    (∀ (seq : BitVec 16) (w : Word) (t2 t3 t4 : BitVec 80) (t1 : Nat), (∀ k ∈ x.arrived, k.type ≠ 0x13) →
      x.tbReq = some (seq, t1) → t4.toNat ≤ t1 + 50000 * 65536 → rising (s.dev.map Prod.fst) = true →
      let asym : Int := (BitVec.ofNat 16 (bits (rget s (0x0B000080 + 8 * p.val)) 15 0)).toInt
      let theta : Int := (((t1 : Int) - t2.toNat) + ((t4.toNat : Int) - t3.toNat)) * 500 + asym * 65536
      let delta : Int := (((t4.toNat : Int) - t1) - ((t3.toNat : Int) - t2.toNat)) * 500
      let u := elect 13 (setPort s p { x with tbReq := none, tbMeas := some (theta, delta), announce := some w })
      ¬ (tmbParent u = p.val ∧ (tmbState u = 2 ∨ tmbState u = 3)) →
      exec (.timebaseRspReceive p seq w t2 t3 t4) s = .next u)) ∧
  (∀ s : State, tmbState s = 4 →
    let u := elect 13 (advanceTo s (s.tb.holdSince + 4000000))
    tmbState u = 4 → (∀ g : Gal, isOpen u g = false) → exec .holdoverExpire s = .next (elect 13 (fset (rootSelf u) 0x0B000000 2 0 1))) ∧
  (∀ (domain : BitVec 8) (v6 : Bool) (seq : BitVec 16) (origin : BitVec 64) (s : State), rising (s.dev.map Prod.fst) = true →
    deviceRuns s = true → bit (rget s 0x0E000008) 0 = true → bit (rget s 0x0E000000) 3 = true →
    bit (rget s 0x0B000008) 1 = true → domain.toNat = bits (rget s 0x0B000008) 15 8 →
    exec (.ptpMessage (.sync false seq origin) domain v6) s = .next (ethSend
      { fincr s 0x0E000048 63 32 1 with tb := { s.tb with ptpSync := none, ptpReq := some (seq, origin.toNat, now s, now s) } }
      (.eth 7 ([1, BitVec.ofNat 8 (bits (rget s 0x0B000008) 15 8)] ++ (leBytes 2 seq.toNat).reverse)))) ∧
  (∀ (i : Fin 8) (s : State), deviceRuns s = true → rising (s.dev.map Prod.fst) = true →
    let r := fun (o : Nat) => 0x0B000000 + (0x100 + 0x20 * i.val + o)
    let target := (rget s (r 0)).toNat
    let addr := fget s (r 8) 31 0
    let w : TimedWrite := { slot := i.val, at_ := target, addr := BitVec.ofNat 64 addr, data := rget s (r 0x10) }
    (now s + 4000 ≤ target → ∃ t, exec (.launchArm i 1) s = .next t ∧ bit (rget t (r 0x18)) 0 = true) ∧
    (bit (rget s (r 0x18)) 0 = true → writable addr = true → ∃ t, exec (.launchSlotSend i) s = .next t ∧
      bit (rget t (r 0x18)) 0 = false ∧ bit (rget t (r 0x18)) 2 = true ∧ t.tb.held = s.tb.held ++ [w]) ∧
    (∀ x : TimedWrite, s.tb.held = [x] → x.slot = i.val →
      let s1 := { advanceTo s x.at_ with tb := { (advanceTo s x.at_).tb with held := [] } }
      exec (.launchWriteApply i) s = .next ((writeReg s1 .curator x.addr.toNat x.data).getD s1)))

/-- Messages, host commands and storage services complete (chapter 12). -/
def Obligations.HostEventsComplete : Prop :=
  (∀ (f : EthFrame) (t : BitVec 32) (s : State), ethOn s = true → f.body = .arpRequest t → f.tags = [] → f.len ≤ 9216 →
    bits (rget s 0x0E000008) 19 8 = 0 → f.dst.toNat = 2 ^ 48 - 1 → t.toNat = bits (rget s 0x0E000018) 31 0 →
    exec (.ethernetFrameReceive f) s = .next (ethSend (fincr s 0x0E000048 63 32 1)
      (.eth 1 ((leBytes 6 (bits (rget s 0x0E000010) 47 0)).reverse ++ (leBytes 4 t.toNat).reverse)))) ∧
  (∀ (d : Datagram) (e : Ep) (s : State), ethOn s = true → endpointOf s d.port.toNat = some e → shtServes s = true →
    msgOk e d.body = true → msgKind d.body = 0x01 → sourceOk s e d.src = true → endpointOpen s e d.body = true →
    macOk (endpointKey s e) d.body = true →
    ∃ t n, exec (.hello d) s = .next t ∧ (endpoint t e).session = some n ∧ (endpoint t e).peer = d.src ∧
      (endpoint t e).port = d.port) ∧
  (∀ (d : Datagram) (e : Ep) (s : State), InSession s e d 0x03 →
    exec (.shtAck d) s = .next (shtAcked (ethRx s) e (msgAck d.body))) ∧
  (∀ (d : Datagram) (e : Ep) (s u : State), InSession s e d 0x10 → InOrder s e d u →
    let rec_ := fun (i : Nat) => (d.body.drop (32 + 64 * i)).take 64
    let op := fun (i : Nat) => bits (msgWord (rec_ i) 0) 7 0
    (∀ i < (d.body.length - 48) / 64, bits (msgWord (rec_ i) 0) 31 8 = 0 ∧ opKnown (op i) = true ∧ opPermitted s e (op i) = true) →
    ∃ t, exec (.shtCmd d) s = .next t ∧ (endpoint t e).cmds.length = (endpoint u e).cmds.length + (d.body.length - 48) / 64) ∧
  (∀ (d : Datagram) (g : Gal) (s u : State) (pa : Nat) (write : Bool),
    let e : Ep := .host g
    let p := msgBody d.body
    let off := bits (msgWord p 0) 47 0
    let len := bits (msgWord p 1) 13 0
    let tag := BitVec.ofNat 32 (bits (msgWord p 1) 63 32)
    let v := s.gal[g].windows[(Fin.ofNat 16 (bits (msgWord p 0) 63 60))]
    let at_ := v.base + off
    InSession s e d (if write then 0x20 else 0x21) → InOrder s e d u → bits (msgWord p 0) 59 48 = 0 →
    bits (msgWord p 1) 31 14 = 0 → off % 4 = 0 → len % 4 = 0 → 4 ≤ len → len + 16 ≤ (endpoint u e).maxlen →
    (write = true → p.length = 16 + len) → off + len ≤ v.frames * 2 ^ 17 → (if write then v.write else v.read) = true →
    at_ % 2 ^ 17 + len ≤ 2 ^ 17 → translate s g at_ write = .ok pa →
    (write = true → exec (.shtWindowWrite d) s
      = .next (sendCpl { u with mem := s.mem.store pa (p.drop 16) false } e tag 0xE0 .ok 0 0 0)) ∧
    (write = false → s.mem.anyPoison pa len = false → exec (.shtWindowRead d) s = .next (shtSend u e 0x22
      (p.take 8 ++ leBytes 8 (mkWord [(32, tag.toNat), (16, 0), (0, len)]).toNat ++ s.mem.bytes pa len)))) ∧
  (∀ (d : Datagram) (g : Gal) (s u : State),
    let e : Ep := .host g
    let h := msgWord (msgBody d.body) 0
    let v := msgWord (msgBody d.body) 1
    let b := rget s (0x0F000058 + g.val * 0x1000)
    let at_ := reserveBase (bits b 27 24) + bits b 23 6 * 64 + 8 * bits h 2 0
    InSession s e d 0x30 → InOrder s e d u → bits h 63 3 = 0 → bit b 63 = true → ownsCluster s g (bits b 27 24) = true →
    exec (.doorbell d) s = .next (shtAckSend { u with mem := s.mem.store at_ (leBytes 8 v.toNat) false } e)) ∧
  (∀ (e : Ep) (q : BitVec 32) (m : ShtMsg) (s : State), ethOn s = true →
    let x := endpoint s e
    x.unacked.find? (fun m => decide (m.seq = q ∧ m.tries ≠ 0)) = some m → m.tries ≤ bits (rget s 0x0E000040) 35 32 →
    exec (.shtRetransmit e q) s = .next (shtEmit (setEp s e { x with
      unacked := x.unacked.map (fun k => if k.seq = q then { k with tries := k.tries + 1 } else k) }) e m)) ∧
  (∀ (e : Ep) (tag : BitVec 32) (c : ShtCmdRec) (r : List ShtCmdRec) (s : State),
    (endpoint s e).cmds.filter (fun c => decide (c.tag = tag) && hostClass c.op && !c.started) = c :: r →
    exec (.shtCommandTimeout e tag) s = .next (complete (advanceTo s (c.since + 50000)) e tag c.op .timeout 0 0 0)) ∧
  (∀ (g : Gal) (tag : BitVec 32) (s : State) (c : ShtCmdRec),
    let e : Ep := .host g
    let a := fun (i : Nat) => c.args.getD i 0
    let u := markStarted s e c
    let r := fun (o : Nat) => 0x0F000000 + g.val * 0x1000 + o
    let n : CoreId := Fin.ofNat 128 (a 1).toNat
    let mine : Prop := (a 1).toNat ≤ 127 ∧ coreOwner s n = some g
    let v0 := (a 1).toNat / 2 ^ 17
    let page : Prop := (a 1).toNat % 2 ^ 17 = 0 ∧ a 2 = 1 ∧ (a 1).toNat + 2 ^ 17 ≤ 2 ^ 48
    let ok := fun (i : Instr) (op : Nat) (t : State) => exec i s = .next (complete t e tag op .ok 0 0 0)
    (Starts s e tag 1 c → ok (.shtNop e tag) 1 u) ∧
    (Starts s e tag 2 c → exec (.info e tag) s
      = .next (complete u e tag 2 .ok (blockWord u (r 0)) (gen s g) (blockWord u (r 0x68)))) ∧
    (Starts s e tag 3 c → bits (a 1) 63 6 = 0 → (a 2).toNat % 2 ^ 17 = 0 → a 3 ≠ 0 → (a 2).toNat + (a 3).toNat * 2 ^ 17 ≤ 2 ^ 48 →
      ∃ t, ok (.windowSet e tag) 3 t ∧
        t.gal[g].windows[(Fin.ofNat 16 (bits (a 1) 3 0))] = ⟨(a 2).toNat, (a 3).toNat, bit (a 1) 4, bit (a 1) 5⟩) ∧
    (Starts s e tag 4 c → a 4 = 0 → mine → (a 3).toNat < 2 ^ 41 → (coreAt s n).state = .empty → tearing s g = false →
      ∃ t, ok (.ctxStart e tag) 4 t ∧ (coreAt t n).state = .run ∧ (coreAt t n).pc = a 2 ∧ (coreAt t n).ctxpa = a 3) ∧
    (Starts s e tag 5 c → a 2 = 4 → mine → (coreAt s n).state ≠ .empty → tornDown s n = false →
      ∃ t st, exec (.ctxCtl e tag) s = .next (complete t e tag 5 st 0 0 0) ∧ (coreAt t n).state = .empty) ∧
    (∀ w, Starts s e tag 6 c → mine → csrWord s n (a 2).toNat = some w →
      exec (.ctxRead e tag) s = .next (complete u e tag 6 .ok w 0 0)) ∧
    (∀ t, Starts s e tag 7 c → page → bits (a 3) 63 1 = 0 → walkFrame s g.val v0 = none →
      mapFree u g v0 (bit (a 3) 0) = some t → ok (.memMap e tag) 7 t) ∧
    (∀ f, page → walkFrame s g.val v0 = some f → feMigrating (frameEntry s f) = false → FrameMapOk s →
      (Starts s e tag 8 c → ∃ t, ok (.memUnmap e tag) 8 t ∧ walkFrame t g.val v0 = none) ∧
      (Starts s e tag 9 c → bits (a 3) 63 1 = 0 → ∃ t, ok (.memProtect e tag) 9 t ∧
        walkFrame t g.val v0 = some f ∧ feWrite (frameEntry t f) = bit (a 3) 0)) ∧
    (Starts s e tag 10 c → ∃ t, exec (.nanRearm e tag) s
      = .next (complete t e tag 10 .ok (rget s (r 0x70)) (rget s (r 0x78)) (rget s (r 0x80))) ∧ t.gal[g].fired = false) ∧
    (let asked := modGal u g (fun x => { x with resetCmds := x.resetCmds ++ [(e, tag)] });
      (Starts s e tag 11 c → exec (.shtComputeReset e tag) s = .next (startReset asked g .compute 2 0)) ∧
      (Starts s e tag 12 c → exec (.shtGalleryReset e tag) s = .next (startReset asked g .gallery 2 0)))) ∧
  -- Storage
  (∀ (g : Gal) (tag : BitVec 32) (s : State) (c : ShtCmdRec),
    let e : Ep := .host g
    let a := fun (i : Nat) => c.args.getD i 0
    let u := markStarted s e c
    let i : Fin 4 := Fin.ofNat 4 (bits (a 1) 1 0)
    let fresh := fun (op : Nat) => (endpoint s e).cmds.find? (fun c => decide (c.tag = tag ∧ c.op = op) && c.started) = none
    (∀ sub host, Starts s e tag 0x10 c → fresh 0x10 → s.gal[g].targets[i].opening = none → bits (a 1) 63 2 = 2 ^ 7 →
      bits (a 4) 31 16 = 0 → bits (a 6) 63 8 = 0 → bits (a 7) 55 48 = 0 → 1 ≤ bits (a 6) 7 0 → bits (a 6) 7 0 ≤ 223 →
      1 ≤ bits (a 7) 63 56 → bits (a 7) 63 56 ≤ 223 → (∀ k : Fin 16, s.streams[k].active = false) →
      (a 5).toNat + bits (a 6) 7 0 ≤ 2 ^ 48 → bits (a 7) 47 0 + bits (a 7) 63 56 ≤ 2 ^ 48 →
      virtGet s g (a 5).toNat (bits (a 6) 7 0) = .ok (sub, false) → virtGet s g (bits (a 7) 47 0) (bits (a 7) 63 56) = .ok (host, false) →
      ∃ t, exec (.targetSet e tag) s = .next t ∧ t.gal[g].targets[i].opening = some (e, tag) ∧
        t.gal[g].targets[i].subnqn = sub ∧ ∃ k ∈ t.conns, k.gal = g.val ∧ k.slot = i ∧ k.qid = 0 ∧ k.unacked = [icReq]) ∧
    (∀ x : Bool × Nat × (Ep → BitVec 32 → Instr), x ∈ [(true, (0x11 : Nat), Instr.ckptWrite), (false, 0x12, Instr.shardRead)] →
      Starts s e tag x.2.1 c → fresh x.2.1 → (∀ k : Fin 16, s.streams[k].active = false) → bits (a 1) 63 2 = 0 → a 3 = 1 → a 5 = 0 →
      s.gal[g].targets[i].set = true → (a 2).toNat + 16 ≤ 2 ^ 48 → ∀ lb, virtGet s g (a 2).toNat 16 = .ok (lb, false) →
      let y := (num lb 0 8, num lb 8 8)
      let t := s.gal[g].targets[i]
      y.1 % 4096 = 0 → y.2 % 4096 = 0 → y.1 + y.2 ≤ 2 ^ 48 → (a 4).toNat + y.2 / t.lbaSize + (if x.1 then 1 else 0) ≤ t.lbas →
      let begun : Stream := { active := true, gal := g.val, write := x.1, ep := e, tag := tag, slot := i, lba := (a 4).toNat, step := 0
                              extents := [y], total := y.2, hash := shaInit, expect := [], startAt := now s }
      exec (x.2.2 e tag) s = .next (streamsRun { u with streams := s.streams.set 0 begun })) ∧
    (∀ k : Fin 16, Starts s e tag 0x13 c → (a 1).toNat = k.val → s.streams[k].active = true → s.streams[k].gal = g.val →
      let x := s.streams[k]
      exec (.streamAbort e tag) s = .next (complete (complete (endStream u k) x.ep x.tag (if x.write then 0x11 else 0x12) .aborted
        (BitVec.ofNat 64 x.done) 0 0) e tag 0x13 .ok 0 0 0))) ∧
  (∀ (i : Fin 16) (c : ShtCmdRec) (s : State),
    let x := s.streams[i]
    x.active = true → findCmd (endpoint s x.ep) x.tag (if x.write then 0x11 else 0x12) = some c →
    exec (.streamProgress i) s = .next (sendFor s x.ep c .progress (BitVec.ofNat 64 x.done) 0 0)) ∧
  (∀ (id : Nat) (c : Conn) (s : State), findConn s id = some c →
    exec (.tcpDeliveryTimeout id false) s = .next (connLost (advanceTo s (c.sentAt + 10000000000)) c) ∧
    (∀ b l, c.unacked = b :: l → ethOn s = true →
      let u := advanceTo s (c.sentAt + c.rto)
      exec (.tcpRetransmissionTimeout id) s = .next (ethSend (modConn u id (fun k => { k with
        ssthresh := max ((k.unacked.map List.length).foldl (· + ·) 0 / 2) (2 * mss u c), cwnd := mss u c, rto := 2 * k.rto,
        sentAt := now u, again := true })) (.tcp id b))) ∧
    (∀ (p : List Byte) (m : NvmeCmd) (i : Fin 16), ethOn s = true → pduOk p = true → c.up = true → num p 0 1 = 5 →
      c.cmds.find? (fun m => decide (m.cid = num p 20 2)) = some m → m.use = .flush i → num p 22 2 / 2 = 0 →
      let v := connAcked (fincr s 0x0E000048 63 32 1) id
      let w := modConn v id (fun k => { k with cmds := k.cmds.filter (fun x => decide (x.cid ≠ m.cid)) })
      exec (.nvmeTcpPduReceive id p) s
        = .next (streamsRun { w with conns := w.conns.filter (fun k => !(k.closing && decide (k.cmds = []))) })))

/-- Management commands, resets, reports, boot, power and pins complete (chapters 12 to 16). -/
def Obligations.DeviceEventsComplete : Prop :=
  (∀ (tag : BitVec 32) (s : State) (c : ShtCmdRec) (g : Gal),
    let e : Ep := .mgmt
    let a := fun (i : Nat) => c.args.getD i 0
    let u := markStarted s e c
    let r := fun (o : Nat) => glyReg g.val o
    let ok := fun (i : Instr) (op : Nat) (t : State) => exec i s = .next (complete t e tag op .ok 0 0 0)
    let first := fun (op : Nat) => (endpoint s e).cmds.find? (fun c => decide (c.tag = tag ∧ c.op = op) && c.started) = none
    let ris : Prop := rising (s.dev.map Prod.fst) = true
    let step := BitVec.ofNat 32 (a 2).toNat
    (first 0x20 → Starts s e tag 0x20 c → (a 1).toNat = g.val → (a 2).toNat < 2 ^ 16 → (a 3).toNat < 2 ^ 16 → isOpen s g = false →
      takenOpen s g (a 2).toNat (a 3).toNat = false → tearing s g = false → takenClearing s g (a 2).toNat (a 3).toNat = false → ris →
      ∃ t, ok (.compose e tag) 0x20 t ∧ ∀ i < 16, (bits (rget t (r 0x10)) 15 0).testBit i = (a 2).toNat.testBit i ∧
        (bits (rget t (r 0x18)) 15 0).testBit i = (a 3).toNat.testBit i) ∧
    (Starts s e tag 0x21 c → (a 1).toNat = 2 * 2 ^ 8 + g.val → isOpen s g = false → ris →
      ∃ t, ok (.bind e tag) 0x21 t ∧ bits (rget t (r 0x30)) 1 0 = 2 ∧ rget t (r 0x20) = a 2 ∧ rget t (r 0x28) = a 3) ∧
    (first 0x22 → Starts s e tag 0x22 c → (a 1).toNat = g.val → isOpen s g = false → tearing s g = false → groupsExiting s g = false →
      bits (rget s (r 0x10)) 15 0 ≠ 0 → bits (rget s (r 0x18)) 15 0 ≠ 0 → bits (rget s (r 0x30)) 1 0 ≠ 0 → tmbState s = 3 →
      catValid s = true → bit s.catActive.gal[g] 63 = false ∨ inBox s g (coord s) = true → s.retire = [] → ris →
      ∃ t, ok (.open e tag) 0x22 t ∧ isOpen t g = true) ∧
    ((a 1).toNat % 8 = 0 → (a 1).toNat < 0x12000000 →
      (∀ w t, Starts s e tag 0x23 c → readReg u .curator (a 1).toNat = some (w, t) →
        exec (.regRead e tag) s = .next (complete t e tag 0x23 .ok w 0 0)) ∧
      (∀ t, Starts s e tag 0x24 c → writeReg u .curator (a 1).toNat (a 2) = some t → ok (.regWrite e tag) 0x24 t)) ∧
    (Starts s e tag 0x25 c → bits (a 1) 63 8 = 0 → bits (a 2) 63 40 = 0 → bits (a 2) 31 25 = 0 → bits (a 2) 7 4 = 0 → bits (a 2) 39 32 ≤ 231 →
      let k := bits (a 1) 3 0
      groupOwner s k = none → bit (rget s (celReg k 0)) 11 = false → rowsTaken s < 2032 →
      (∃ i < 64, bit (rget s (remapReg k (64 * bits (a 1) 7 4 + i))) 63 = false) → ris →
      ∃ t, ok (.retireApply e tag) 0x25 t ∧ ∃ i < 64, rget t (remapReg k (64 * bits (a 1) 7 4 + i)) =
        mkWord [(63, 1), (26, bits (a 2) 3 0), (9, bits (a 2) 24 8), (0, bits (a 2) 39 32)]) ∧
    (let l := (recordsFrom s (a 1).toNat).take (a 2).toNat;
      Starts s e tag 0x30 c → a 2 ≠ 0 → (a 2).toNat ≤ 256 → exec (.crRead e tag) s = .next (complete
        (l.foldl (fun s r => sendEvent s .mgmt 0x10 0 0 0 (recWords s r)) u) e tag 0x30 .ok (BitVec.ofNat 64 l.length)
        (crpWord u 0 8) (crpWord u 0 0x10))) ∧
    (Starts s e tag 0x31 c → ok (.crClear e tag) 0x31 { u with cr := { s.cr with
      general := s.cr.general.filter (fun r => decide ((a 1).toNat < bits r.ent.w0 31 0)) } }) ∧
    (let x := score s (a 1).toNat;
      Starts s e tag 0x32 c → component (a 1).toNat = true → exec (.appraiseRead e tag) s = .next (complete u e tag 0x32 .ok
        (BitVec.ofNat 64 x.score) (BitVec.ofNat 64 x.peer) (BitVec.ofNat 64 x.advn))) ∧
    (Starts s e tag 0x33 c → (a 1).toNat < 12 → (a 2).toNat ≤ 65535 →
      ∃ t, ok (.appraisePeer e tag) 0x33 t ∧ (score t (0x100 + (a 1).toNat)).peer = (a 2).toNat) ∧
    ((a 1).toNat = g.val → (a 2).toNat < 2 ^ 32 → isOpen s g = true →
      (first 0x34 → Starts s e tag 0x34 c → s.gal[g].mcp.running = false → s.gal[g].mrx.half0 = some step → s.gal[g].mrx.half1 = none →
        exec (.mirrorSend e tag) s = .next (mirrorPump (modGal u g (fun y => { y with mcp := { y.mcp with running := true, tag := tag
                                                                                                          step := step, half := false, next := 0
                                                                                                          size := shardSize s g, unacked := []
                                                                                                          commitSent := false } })) g true)) ∧
      (Starts s e tag 0x35 c → s.gal[g].mrx.accept = none → exec (.mirrorAccept e tag) s = .next (modGal u g (fun y =>
        { y with mrx := { y.mrx with accept := some (tag, step, now s) } })))) ∧
    (Starts s e tag 0x36 c → ∃ t, exec (.shtChipReset e tag) s = .next t ∧ ChipResets (complete u e tag 0x36 .ok 0 0 0) t 2 (some 0)) ∧
    (bootState s = 3 →
      (let size := (a 1).toNat;
        Starts s e tag 0x40 c → 8192 ≤ size → size ≤ 8192 + 6 * 2 ^ 20 → (size - 8192) % 64 = 0 →
        ok (.netbootBegin e tag) 0x40 { u with prov := { s.prov with netSize := some size, netImage := [] } }) ∧
      (let h := tblBytes 0 s.prov.netImage 0 8192
       let body := fun (k : Nat) => tblBytes 0 s.prov.netImage 8192 k;
        Starts s e tag 0x41 c → imageOk h body = true → s.prov.netSize = some (8192 + num h 4 4) → minVintage s ≤ num h 2 2 →
        ∃ t, exec (.netbootGo e tag) s = .next t ∧
          CuratorStarts (complete u e tag 0x41 .ok 0 0 0) t h (body (num h 4 4)) 2)) ∧
    (first 0x42 → Starts s e tag 0x42 c → a 1 = 0xFF → s.prov.quotes = [] → exec (.quote e tag) s
      = .next { u with prov := { s.prov with quotes := [⟨e, tag, quoteBody u none (wordsOf [a 2, a 3, a 4, a 5])⟩] } }) ∧
    (let l := (s.prov.log.drop (a 1).toNat).take (a 2).toNat;
      Starts s e tag 0x43 c → a 2 ≠ 0 → (a 2).toNat ≤ 256 → exec (.measlogRead e tag) s
        = .next (complete (sendParts u 0x13 l.flatten) e tag 0x43 .ok (BitVec.ofNat 64 l.length) 0 0)) ∧
    (let size := (a 1).toNat
     let slot := bits (rget s 0x0D000000) 13 12
     let k : Fin 2 := if slot = 0 then 1 else 0;
      Starts s e tag 0x44 c → slot < 2 → 8192 ≤ size → size ≤ 8192 + 6 * 2 ^ 20 → (size - 8192) % 64 = 0 → exec (.flashBegin e tag) s
        = .next { u with prov := { s.prov with flash := s.prov.flash.set k [], update := some { slot := k, size := size } } }) ∧
    (∀ x, Starts s e tag 0x45 c → s.prov.update = some x → x.erased = true →
      let h := tblBytes 0 x.header 0 8192
      imageOk h (fun n => tblBytes 0xFF s.prov.flash[x.slot] 8192 n) = true → x.size = 8192 + num h 4 4 → minVintage s ≤ num h 2 2 →
      ∃ t, exec (.flashCommit e tag) s
        = .next (complete t e tag 0x45 .ok (BitVec.ofNat 64 x.slot.val) (BitVec.ofNat 64 (num h 2 2)) 0) ∧ t.prov.update = none)) ∧
  (∀ s : State,
    (∀ q l, s.prov.quotes = q :: l → ∃ b : List Byte, exec .quoteSigned s
      = .next (complete (sendParts { s with prov := { s.prov with quotes := l } } 0x12 b) q.ep q.tag 0x42 .ok 4013 0 0)) ∧
    (∀ x, s.prov.update = some x → x.erased = false → (endpoint s .mgmt).cmds.filter (fun c => decide (c.op = 0x44) && c.started) = [] →
      exec .flashEraseComplete s = .next { s with prov := { s.prov with update := some { x with erased := true } } })) ∧
  -- Resets
  (∀ (g : Gal) (s : State),
    let r := fun (o : Nat) => rget s (0x0F000000 + g.val * 0x1000 + o)
    (bit (r 0) 0 = false → bits (r 0x10) 15 0 ≠ 0 → bits (r 0x18) 15 0 ≠ 0 → bits (r 0x30) 1 0 ≠ 0 → tmbState s = 3 → catValid s = true →
      bit s.catActive.gal[g] 63 = false → s.retire = [] → rising (s.dev.map Prod.fst) = true →
      ∃ t, exec (.glyCtlOpen g) s = .next t ∧ isOpen t g = true) ∧
    (∃ t, exec (.glyCtlRearm g) s = .next t ∧ t.gal[g].fired = false ∧ rget t (0x0F000000 + g.val * 0x1000 + 0x70) = 0) ∧
    (isOpen s g = true → s.gal[g].tear = .none → rackingBusy (teardownBegin s g) g = false →
      exec (.glyCtlNextgen g) s = .next (teardownFinish (teardownBegin s g) g)) ∧
    (s.gal[g].tear = .draining → exec (.teardownRackingKill g) s = .next (teardownFinish s g)) ∧
    (deviceRuns s = true → s.gal[g].reset = none →
      (∃ t, exec (.glyCtlComputeReset g) s = .next t ∧ t.gal[g].reset = some (.compute, 5, 0)) ∧
      (∃ t, exec (.glyCtlGalleryReset g) s = .next t ∧ t.gal[g].reset = some (.gallery, 5, 0))) ∧
    (∀ a b, s.gal[g].reset = some (.compute, a, b) → s.gal[g].tear = .clearing → s.gal[g].resetCmds = [] →
      exec (.computeResetComplete g) s = .next (galEvent (fset (modGal s g (fun y => { y with reset := none, tear := .none, resetCmds := [] }))
        (0x0F000000 + g.val * 0x1000) 5 5 0) g 0x05 0 [BitVec.ofNat 64 0, gen s g])) ∧
    (∀ a b, genref s g = 0 → s.gal[g].reset = some (.gallery, a, b) → s.gal[g].tear = .clearing →
      ∃ t, exec (.genrefDrainZero g) s = .next t ∧ t.gal[g] = { s.gal[g] with tear := .zeroing }) ∧
    (∀ a b, s.gal[g].reset = some (.gallery, a, b) → s.gal[g].tear = .zeroing →
      (∀ c < 16, ownsGroup s g c = true → bit (rget s (celReg c 0)) 14 = false) → rising (s.dev.map Prod.fst) = true →
      ∃ t, exec (.galleryResetComplete g) s = .next t ∧ t.gal[g].reset = none ∧ t.gal[g].tear = .none ∧
        bits (rget t (0x0F000000 + g.val * 0x1000)) 1 0 = 0)) ∧
  -- Reports
  (∀ (q : Fin 9) (s : State),
    (∀ x l, s.frq[q].ents = x :: l → bit x.w0 43 = false →
      exec (.frqPop q) s = .next { s with frq := s.frq.set q { s.frq[q] with ents := l } }) ∧
    (s.frq[q].handling = true →
      exec (.frqResolve q) s = .next { s with frq := s.frq.set q { s.frq[q] with handling := false, cause := 0, charged := [] } })) ∧
  (∀ s : State,
    (∀ e, s.replay.active = true → (∀ x ∈ s.replay.suspects, x ∈ replayLog s) → s.replay.suspects[s.replay.runs]? = some e →
      exec (.replayRerun true) s = .next (endReplay s [(Fin.ofNat 128 e.core : CoreId)])) ∧
    (s.replay.active = true → (∀ x ∈ s.replay.suspects, x ∈ replayLog s) → s.replay.runs + 1 < s.replay.suspects.length →
      let t := advanceBy s 1000000
      exec .replayRerunTimeout s = .next { t with replay := { t.replay with runs := t.replay.runs + 1 } }) ∧
    (rising (s.scores.map Prod.fst) = true → ∃ t, exec .appraisalHalve s = .next t ∧
      ∀ c, (score t c).score = (score s c).score / 2) ∧
    (∀ c l, s.deferred = c :: l → advAllowed s = true → ∃ t, exec .advisoryDeferredIssue s = .next t ∧ t.deferred = l ∧
      ∃ r, t.cr.general.getLast? = some r ∧ bits r.ent.w0 55 48 = 0x1E) ∧
    exec .crpClear s = .next { s with cr := { s.cr with general := s.cr.general.filter (fun r => decide (s.cr.rdsel.toNat < bits r.ent.w0 31 0)) } } ∧
    (∀ r ∈ s.cr.pinned, bits r.ent.w0 31 0 = s.cr.rdsel.toNat → bits r.ent.w0 55 48 = 0x0A →
      (∃ x ∈ s.cr.pinned, bits x.ent.w0 55 48 = 0x0D ∧ bits x.ent.w2 7 0 = bits r.ent.w2 7 0) →
      exec .crpUnpin s = .next { s with cr := { s.cr with
        pinned := s.cr.pinned.filter (fun r => decide (bits r.ent.w0 31 0 ≠ s.cr.rdsel.toNat)) } }) ∧
    (deviceRuns s = true → ∃ t, exec .curCtlChipReset s = .next t ∧ ChipResets s t 5 (some 0)) ∧
    (s.chipHold ≠ none → s.pins.resetN = true → s.pins.pwrgood = true → s.pins.tripped = false →
      ∃ t, exec .chipResetHoldEnd s = .next t ∧ BringsUp s t s.pins.strap)) ∧
  -- Boot, SMBus and the test port
  (∀ (s : State) (x : BitVec 24) (b : List Byte), s.pins.pwrgood = true → bootState s = 1 → s.prov.mboxComplete = false →
    rising (s.prov.mbox.map Prod.fst) = true → rising (s.dev.map Prod.fst) = true →
    (x.toNat + b.length ≤ 20685 → ∃ t, exec (.mboxWrite x b true) s = .next t ∧ t.out = s.out ++ [Out.smbus [] true] ∧
      ∀ i < b.length, look none t.prov.mbox (x.toNat + i) = some (b.getD i 0)) ∧
    ((∀ k < 20685, look none s.prov.mbox k ≠ none) → ∃ t, exec (.mboxDone 0xA5 true) s = .next t ∧ t.prov.mboxComplete = true ∧
      bootState t ≠ 1) ∧
    (∃ t, exec .manifestTimeout s = .next t ∧ bootState t = 5)) ∧
  (∀ s : State,
    (let h := tblBytes 0xFF s.prov.flash[(0 : Fin 2)] 0 8192
     let body := fun (n : Nat) => tblBytes 0xFF s.prov.flash[(0 : Fin 2)] 8192 n;
      bootState s = 2 → minVintage s ≤ num h 2 2 → imageOk h body = true →
      num (tblBytes 0xFF s.prov.flash[(1 : Fin 2)] 0 8192) 2 2 ≤ num h 2 2 →
      ∃ t, exec .qspiImageLoad s = .next t ∧ CuratorStarts s t h (body (num h 4 4)) 0) ∧
    (∀ k : Fin 8, 4 ≤ k.val → ∃ t, exec (.prvExtend k) s = .next t ∧ t.prov.meas = s.prov.meas.set k (sha512 (s.prov.meas[k] ++
      (List.range 8).flatMap (fun i => leBytes 8 (rget s (0x0D000040 + 8 * i)).toNat)))) ∧
    (s.pins.pwrgood = true →
      (∃ t b, exec .mboxStatusRead s = .next t ∧ t.out = s.out ++ [Out.smbus [b] true] ∧ t.prov.mboxOverflow = false) ∧
      (∀ o : BitVec 32, smbSelectable o.toNat = true → exec (.smbRegSelect o true) s
        = .next { s with pins := { s.pins with smbSel := o }, out := s.out ++ [Out.smbus [] true] }) ∧
      (smbSelectable s.pins.smbSel.toNat = true →
        ∃ t, exec .smbRegRead s = .next t ∧ t.out = s.out ++ [Out.smbus (leBytes 8 (smbWord s).toNat) true]) ∧
      (s.pins.smbSel = 0x0C000028 → ∀ w, exec (.smbRegWrite w true) s
        = .next { s with pins := { s.pins with smbRdsel := BitVec.ofNat 32 (bits w 31 0) }, out := s.out ++ [Out.smbus [] true] })) ∧
    exec (.jtagInstruction .idcode) s
      = .next { s with pins := { s.pins with jtag := some .idcode }, out := s.out ++ [Out.jtag 0x0F171A5B] } ∧
    exec .trstNAssert s = .next { s with pins := { s.pins with jtag := none } }) ∧
  -- Power, clocks, heat and pins
  (∀ s : State, rising (s.dev.map Prod.fst) = true → s.pins.pwrgood = true → s.pins.refclk = true →
    (∀ readings : List (BitVec 16), readings.length = 40 → ∃ t, exec (.sensorSample readings) s = .next t ∧
      ∀ i : Fin 40, bits (rget t (0x10000100 + 8 * i.val)) 15 0 = (readings.getD i.val 0).toNat) ∧
    (∀ est : BitVec 16, deviceRuns s = true → bit (rget s 0x10000008) 1 = true → s.pins.loopCeil ≤ 8 →
      bits (rget s 0x10000018) 15 0 < est.toNat →
      ∃ t, exec (.thermalLoop est) s = .next t ∧ t.pins.loopCeil = max (s.pins.loopCeil - 1) 1) ∧
    (∀ margin low high : BitVec 16, deviceRuns s = true → ∃ t, exec (.avsPeriod margin low high) s = .next t ∧
      bits (rget t 0x10000038) 15 0 = margin.toNat) ∧
    (∀ req : BitVec 128, ∃ t, exec (.slewWindow req) s = .next t ∧ ∀ k < 128,
      req.getLsbD k = true → (List.range 128).countP (fun j => req.getLsbD j) ≤ bits (rget s 0x10000028) 10 0 →
      t.pins.slewRefused.getLsbD k = false) ∧
    (∃ t, exec (.pllLockLoss .ethernet) s = .next t ∧ bit (rget t 0x11000000) 2 = false ∧ bits (rget t 0x0E000000) 4 3 = 0) ∧
    exec (.pllLockAcquired .ethernet) s = .next (fset s 0x11000000 2 2 1) ∧
    (∀ (a : Bool) (k m : BitVec 32), bit (rget s 0x0E000008) 0 = true → ∃ t, exec (.ethernetLinkChange a k m) s = .next t ∧
      bits (rget t 0x0E000000) 4 3 = (if a then 3 else 0))) ∧
  (∀ (ns : Nat) (straps : BitVec 4) (s : State),
    (1000 ≤ ns → ∃ t, exec (.pwrgoodDeassert ns) s = .next t ∧ t.pins.pwrgood = false ∧ t.cores = State.reset.cores ∧
      t.prov.flash = s.prov.flash) ∧
    (s.pins.pwrgood = false → ∃ t, exec .pwrgoodAssert s = .next t ∧ t.pins.pwrgood = true) ∧
    (1000 ≤ ns → s.pins.resetN = true → ∃ t, exec (.resetNAssert ns) s = .next t ∧ t.pins.resetN = false) ∧
    (s.pins.resetN = false → ∃ t, exec (.resetNRelease straps) s = .next t ∧ t.pins.resetN = true ∧ t.pins.strap = straps) ∧
    exec .refclkLoss s = .next { s with pins := { s.pins with refclk := false } })
end

