-- ==== Sys2Proof/Laws/State.lean ====
section
/-! SUPPORT. What each named update of the state leaves in each field. -/

namespace Sys2Proof.Machine

/-! ### setCore -/

@[simp] theorem setCore_pending (s : State) (n : CoreId) (c : Core) : (setCore s n c).pending = s.pending := rfl
@[simp] theorem setCore_cores (s : State) (n : CoreId) (c : Core) : (setCore s n c).cores = s.cores.set n c := rfl
@[simp] theorem setCore_mgmt (s : State) (n : CoreId) (c : Core) : (setCore s n c).mgmt = s.mgmt := rfl
@[simp] theorem setCore_mem (s : State) (n : CoreId) (c : Core) : (setCore s n c).mem = s.mem := rfl
@[simp] theorem setCore_dev (s : State) (n : CoreId) (c : Core) : (setCore s n c).dev = s.dev := rfl
@[simp] theorem setCore_clk (s : State) (n : CoreId) (c : Core) : (setCore s n c).clk = s.clk := rfl
@[simp] theorem setCore_free (s : State) (n : CoreId) (c : Core) : (setCore s n c).free = s.free := rfl
@[simp] theorem setCore_regOut (s : State) (n : CoreId) (c : Core) : (setCore s n c).regOut = s.regOut := rfl
@[simp] theorem setCore_frq (s : State) (n : CoreId) (c : Core) : (setCore s n c).frq = s.frq := rfl
@[simp] theorem setCore_cr (s : State) (n : CoreId) (c : Core) : (setCore s n c).cr = s.cr := rfl
@[simp] theorem setCore_gal (s : State) (n : CoreId) (c : Core) : (setCore s n c).gal = s.gal := rfl
@[simp] theorem setCore_ports (s : State) (n : CoreId) (c : Core) : (setCore s n c).ports = s.ports := rfl
@[simp] theorem setCore_inbox (s : State) (n : CoreId) (c : Core) : (setCore s n c).inbox = s.inbox := rfl
@[simp] theorem setCore_injectq (s : State) (n : CoreId) (c : Core) : (setCore s n c).injectq = s.injectq := rfl
@[simp] theorem setCore_catActive (s : State) (n : CoreId) (c : Core) : (setCore s n c).catActive = s.catActive := rfl
@[simp] theorem setCore_catShadow (s : State) (n : CoreId) (c : Core) : (setCore s n c).catShadow = s.catShadow := rfl
@[simp] theorem setCore_trellis (s : State) (n : CoreId) (c : Core) : (setCore s n c).trellis = s.trellis := rfl
@[simp] theorem setCore_eth (s : State) (n : CoreId) (c : Core) : (setCore s n c).eth = s.eth := rfl
@[simp] theorem setCore_walker (s : State) (n : CoreId) (c : Core) : (setCore s n c).walker = s.walker := rfl
@[simp] theorem setCore_slices (s : State) (n : CoreId) (c : Core) : (setCore s n c).slices = s.slices := rfl
@[simp] theorem setCore_group (s : State) (n : CoreId) (c : Core) : (setCore s n c).group = s.group := rfl
@[simp] theorem setCore_tb (s : State) (n : CoreId) (c : Core) : (setCore s n c).tb = s.tb := rfl
@[simp] theorem setCore_eps (s : State) (n : CoreId) (c : Core) : (setCore s n c).eps = s.eps := rfl
@[simp] theorem setCore_streams (s : State) (n : CoreId) (c : Core) : (setCore s n c).streams = s.streams := rfl
@[simp] theorem setCore_conns (s : State) (n : CoreId) (c : Core) : (setCore s n c).conns = s.conns := rfl
@[simp] theorem setCore_scores (s : State) (n : CoreId) (c : Core) : (setCore s n c).scores = s.scores := rfl
@[simp] theorem setCore_deferred (s : State) (n : CoreId) (c : Core) : (setCore s n c).deferred = s.deferred := rfl
@[simp] theorem setCore_advTimes (s : State) (n : CoreId) (c : Core) : (setCore s n c).advTimes = s.advTimes := rfl
@[simp] theorem setCore_lastHalve (s : State) (n : CoreId) (c : Core) : (setCore s n c).lastHalve = s.lastHalve := rfl
@[simp] theorem setCore_replay (s : State) (n : CoreId) (c : Core) : (setCore s n c).replay = s.replay := rfl
@[simp] theorem setCore_engLog (s : State) (n : CoreId) (c : Core) : (setCore s n c).engLog = s.engLog := rfl
@[simp] theorem setCore_resLog (s : State) (n : CoreId) (c : Core) : (setCore s n c).resLog = s.resLog := rfl
@[simp] theorem setCore_cruLog (s : State) (n : CoreId) (c : Core) : (setCore s n c).cruLog = s.cruLog := rfl
@[simp] theorem setCore_prov (s : State) (n : CoreId) (c : Core) : (setCore s n c).prov = s.prov := rfl
@[simp] theorem setCore_pins (s : State) (n : CoreId) (c : Core) : (setCore s n c).pins = s.pins := rfl
@[simp] theorem setCore_chipHold (s : State) (n : CoreId) (c : Core) : (setCore s n c).chipHold = s.chipHold := rfl
@[simp] theorem setCore_retire (s : State) (n : CoreId) (c : Core) : (setCore s n c).retire = s.retire := rfl
@[simp] theorem setCore_out (s : State) (n : CoreId) (c : Core) : (setCore s n c).out = s.out := rfl

/-! ### modCore -/

@[simp] theorem modCore_pending (s : State) (n : CoreId) (f : Core → Core) : (modCore s n f).pending = s.pending := rfl
@[simp] theorem modCore_cores (s : State) (n : CoreId) (f : Core → Core) : (modCore s n f).cores = s.cores.set n (f (coreAt s n)) := rfl
@[simp] theorem modCore_mgmt (s : State) (n : CoreId) (f : Core → Core) : (modCore s n f).mgmt = s.mgmt := rfl
@[simp] theorem modCore_mem (s : State) (n : CoreId) (f : Core → Core) : (modCore s n f).mem = s.mem := rfl
@[simp] theorem modCore_dev (s : State) (n : CoreId) (f : Core → Core) : (modCore s n f).dev = s.dev := rfl
@[simp] theorem modCore_clk (s : State) (n : CoreId) (f : Core → Core) : (modCore s n f).clk = s.clk := rfl
@[simp] theorem modCore_free (s : State) (n : CoreId) (f : Core → Core) : (modCore s n f).free = s.free := rfl
@[simp] theorem modCore_regOut (s : State) (n : CoreId) (f : Core → Core) : (modCore s n f).regOut = s.regOut := rfl
@[simp] theorem modCore_frq (s : State) (n : CoreId) (f : Core → Core) : (modCore s n f).frq = s.frq := rfl
@[simp] theorem modCore_cr (s : State) (n : CoreId) (f : Core → Core) : (modCore s n f).cr = s.cr := rfl
@[simp] theorem modCore_gal (s : State) (n : CoreId) (f : Core → Core) : (modCore s n f).gal = s.gal := rfl
@[simp] theorem modCore_ports (s : State) (n : CoreId) (f : Core → Core) : (modCore s n f).ports = s.ports := rfl
@[simp] theorem modCore_inbox (s : State) (n : CoreId) (f : Core → Core) : (modCore s n f).inbox = s.inbox := rfl
@[simp] theorem modCore_injectq (s : State) (n : CoreId) (f : Core → Core) : (modCore s n f).injectq = s.injectq := rfl
@[simp] theorem modCore_catActive (s : State) (n : CoreId) (f : Core → Core) : (modCore s n f).catActive = s.catActive := rfl
@[simp] theorem modCore_catShadow (s : State) (n : CoreId) (f : Core → Core) : (modCore s n f).catShadow = s.catShadow := rfl
@[simp] theorem modCore_trellis (s : State) (n : CoreId) (f : Core → Core) : (modCore s n f).trellis = s.trellis := rfl
@[simp] theorem modCore_eth (s : State) (n : CoreId) (f : Core → Core) : (modCore s n f).eth = s.eth := rfl
@[simp] theorem modCore_walker (s : State) (n : CoreId) (f : Core → Core) : (modCore s n f).walker = s.walker := rfl
@[simp] theorem modCore_slices (s : State) (n : CoreId) (f : Core → Core) : (modCore s n f).slices = s.slices := rfl
@[simp] theorem modCore_group (s : State) (n : CoreId) (f : Core → Core) : (modCore s n f).group = s.group := rfl
@[simp] theorem modCore_tb (s : State) (n : CoreId) (f : Core → Core) : (modCore s n f).tb = s.tb := rfl
@[simp] theorem modCore_eps (s : State) (n : CoreId) (f : Core → Core) : (modCore s n f).eps = s.eps := rfl
@[simp] theorem modCore_streams (s : State) (n : CoreId) (f : Core → Core) : (modCore s n f).streams = s.streams := rfl
@[simp] theorem modCore_conns (s : State) (n : CoreId) (f : Core → Core) : (modCore s n f).conns = s.conns := rfl
@[simp] theorem modCore_scores (s : State) (n : CoreId) (f : Core → Core) : (modCore s n f).scores = s.scores := rfl
@[simp] theorem modCore_deferred (s : State) (n : CoreId) (f : Core → Core) : (modCore s n f).deferred = s.deferred := rfl
@[simp] theorem modCore_advTimes (s : State) (n : CoreId) (f : Core → Core) : (modCore s n f).advTimes = s.advTimes := rfl
@[simp] theorem modCore_lastHalve (s : State) (n : CoreId) (f : Core → Core) : (modCore s n f).lastHalve = s.lastHalve := rfl
@[simp] theorem modCore_replay (s : State) (n : CoreId) (f : Core → Core) : (modCore s n f).replay = s.replay := rfl
@[simp] theorem modCore_engLog (s : State) (n : CoreId) (f : Core → Core) : (modCore s n f).engLog = s.engLog := rfl
@[simp] theorem modCore_resLog (s : State) (n : CoreId) (f : Core → Core) : (modCore s n f).resLog = s.resLog := rfl
@[simp] theorem modCore_cruLog (s : State) (n : CoreId) (f : Core → Core) : (modCore s n f).cruLog = s.cruLog := rfl
@[simp] theorem modCore_prov (s : State) (n : CoreId) (f : Core → Core) : (modCore s n f).prov = s.prov := rfl
@[simp] theorem modCore_pins (s : State) (n : CoreId) (f : Core → Core) : (modCore s n f).pins = s.pins := rfl
@[simp] theorem modCore_chipHold (s : State) (n : CoreId) (f : Core → Core) : (modCore s n f).chipHold = s.chipHold := rfl
@[simp] theorem modCore_retire (s : State) (n : CoreId) (f : Core → Core) : (modCore s n f).retire = s.retire := rfl
@[simp] theorem modCore_out (s : State) (n : CoreId) (f : Core → Core) : (modCore s n f).out = s.out := rfl

/-! ### setMgmt -/

@[simp] theorem setMgmt_pending (s : State) (k : Fin 4) (m : Mgmt) : (setMgmt s k m).pending = s.pending := rfl
@[simp] theorem setMgmt_cores (s : State) (k : Fin 4) (m : Mgmt) : (setMgmt s k m).cores = s.cores := rfl
@[simp] theorem setMgmt_mgmt (s : State) (k : Fin 4) (m : Mgmt) : (setMgmt s k m).mgmt = s.mgmt.set k m := rfl
@[simp] theorem setMgmt_mem (s : State) (k : Fin 4) (m : Mgmt) : (setMgmt s k m).mem = s.mem := rfl
@[simp] theorem setMgmt_dev (s : State) (k : Fin 4) (m : Mgmt) : (setMgmt s k m).dev = s.dev := rfl
@[simp] theorem setMgmt_clk (s : State) (k : Fin 4) (m : Mgmt) : (setMgmt s k m).clk = s.clk := rfl
@[simp] theorem setMgmt_free (s : State) (k : Fin 4) (m : Mgmt) : (setMgmt s k m).free = s.free := rfl
@[simp] theorem setMgmt_regOut (s : State) (k : Fin 4) (m : Mgmt) : (setMgmt s k m).regOut = s.regOut := rfl
@[simp] theorem setMgmt_frq (s : State) (k : Fin 4) (m : Mgmt) : (setMgmt s k m).frq = s.frq := rfl
@[simp] theorem setMgmt_cr (s : State) (k : Fin 4) (m : Mgmt) : (setMgmt s k m).cr = s.cr := rfl
@[simp] theorem setMgmt_gal (s : State) (k : Fin 4) (m : Mgmt) : (setMgmt s k m).gal = s.gal := rfl
@[simp] theorem setMgmt_ports (s : State) (k : Fin 4) (m : Mgmt) : (setMgmt s k m).ports = s.ports := rfl
@[simp] theorem setMgmt_inbox (s : State) (k : Fin 4) (m : Mgmt) : (setMgmt s k m).inbox = s.inbox := rfl
@[simp] theorem setMgmt_injectq (s : State) (k : Fin 4) (m : Mgmt) : (setMgmt s k m).injectq = s.injectq := rfl
@[simp] theorem setMgmt_catActive (s : State) (k : Fin 4) (m : Mgmt) : (setMgmt s k m).catActive = s.catActive := rfl
@[simp] theorem setMgmt_catShadow (s : State) (k : Fin 4) (m : Mgmt) : (setMgmt s k m).catShadow = s.catShadow := rfl
@[simp] theorem setMgmt_trellis (s : State) (k : Fin 4) (m : Mgmt) : (setMgmt s k m).trellis = s.trellis := rfl
@[simp] theorem setMgmt_eth (s : State) (k : Fin 4) (m : Mgmt) : (setMgmt s k m).eth = s.eth := rfl
@[simp] theorem setMgmt_walker (s : State) (k : Fin 4) (m : Mgmt) : (setMgmt s k m).walker = s.walker := rfl
@[simp] theorem setMgmt_slices (s : State) (k : Fin 4) (m : Mgmt) : (setMgmt s k m).slices = s.slices := rfl
@[simp] theorem setMgmt_group (s : State) (k : Fin 4) (m : Mgmt) : (setMgmt s k m).group = s.group := rfl
@[simp] theorem setMgmt_tb (s : State) (k : Fin 4) (m : Mgmt) : (setMgmt s k m).tb = s.tb := rfl
@[simp] theorem setMgmt_eps (s : State) (k : Fin 4) (m : Mgmt) : (setMgmt s k m).eps = s.eps := rfl
@[simp] theorem setMgmt_streams (s : State) (k : Fin 4) (m : Mgmt) : (setMgmt s k m).streams = s.streams := rfl
@[simp] theorem setMgmt_conns (s : State) (k : Fin 4) (m : Mgmt) : (setMgmt s k m).conns = s.conns := rfl
@[simp] theorem setMgmt_scores (s : State) (k : Fin 4) (m : Mgmt) : (setMgmt s k m).scores = s.scores := rfl
@[simp] theorem setMgmt_deferred (s : State) (k : Fin 4) (m : Mgmt) : (setMgmt s k m).deferred = s.deferred := rfl
@[simp] theorem setMgmt_advTimes (s : State) (k : Fin 4) (m : Mgmt) : (setMgmt s k m).advTimes = s.advTimes := rfl
@[simp] theorem setMgmt_lastHalve (s : State) (k : Fin 4) (m : Mgmt) : (setMgmt s k m).lastHalve = s.lastHalve := rfl
@[simp] theorem setMgmt_replay (s : State) (k : Fin 4) (m : Mgmt) : (setMgmt s k m).replay = s.replay := rfl
@[simp] theorem setMgmt_engLog (s : State) (k : Fin 4) (m : Mgmt) : (setMgmt s k m).engLog = s.engLog := rfl
@[simp] theorem setMgmt_resLog (s : State) (k : Fin 4) (m : Mgmt) : (setMgmt s k m).resLog = s.resLog := rfl
@[simp] theorem setMgmt_cruLog (s : State) (k : Fin 4) (m : Mgmt) : (setMgmt s k m).cruLog = s.cruLog := rfl
@[simp] theorem setMgmt_prov (s : State) (k : Fin 4) (m : Mgmt) : (setMgmt s k m).prov = s.prov := rfl
@[simp] theorem setMgmt_pins (s : State) (k : Fin 4) (m : Mgmt) : (setMgmt s k m).pins = s.pins := rfl
@[simp] theorem setMgmt_chipHold (s : State) (k : Fin 4) (m : Mgmt) : (setMgmt s k m).chipHold = s.chipHold := rfl
@[simp] theorem setMgmt_retire (s : State) (k : Fin 4) (m : Mgmt) : (setMgmt s k m).retire = s.retire := rfl
@[simp] theorem setMgmt_out (s : State) (k : Fin 4) (m : Mgmt) : (setMgmt s k m).out = s.out := rfl

/-! ### setGal -/

@[simp] theorem setGal_pending (s : State) (g : Gal) (x : Gallery) : (setGal s g x).pending = s.pending := rfl
@[simp] theorem setGal_cores (s : State) (g : Gal) (x : Gallery) : (setGal s g x).cores = s.cores := rfl
@[simp] theorem setGal_mgmt (s : State) (g : Gal) (x : Gallery) : (setGal s g x).mgmt = s.mgmt := rfl
@[simp] theorem setGal_mem (s : State) (g : Gal) (x : Gallery) : (setGal s g x).mem = s.mem := rfl
@[simp] theorem setGal_dev (s : State) (g : Gal) (x : Gallery) : (setGal s g x).dev = s.dev := rfl
@[simp] theorem setGal_clk (s : State) (g : Gal) (x : Gallery) : (setGal s g x).clk = s.clk := rfl
@[simp] theorem setGal_free (s : State) (g : Gal) (x : Gallery) : (setGal s g x).free = s.free := rfl
@[simp] theorem setGal_regOut (s : State) (g : Gal) (x : Gallery) : (setGal s g x).regOut = s.regOut := rfl
@[simp] theorem setGal_frq (s : State) (g : Gal) (x : Gallery) : (setGal s g x).frq = s.frq := rfl
@[simp] theorem setGal_cr (s : State) (g : Gal) (x : Gallery) : (setGal s g x).cr = s.cr := rfl
@[simp] theorem setGal_gal (s : State) (g : Gal) (x : Gallery) : (setGal s g x).gal = s.gal.set g x := rfl
@[simp] theorem setGal_ports (s : State) (g : Gal) (x : Gallery) : (setGal s g x).ports = s.ports := rfl
@[simp] theorem setGal_inbox (s : State) (g : Gal) (x : Gallery) : (setGal s g x).inbox = s.inbox := rfl
@[simp] theorem setGal_injectq (s : State) (g : Gal) (x : Gallery) : (setGal s g x).injectq = s.injectq := rfl
@[simp] theorem setGal_catActive (s : State) (g : Gal) (x : Gallery) : (setGal s g x).catActive = s.catActive := rfl
@[simp] theorem setGal_catShadow (s : State) (g : Gal) (x : Gallery) : (setGal s g x).catShadow = s.catShadow := rfl
@[simp] theorem setGal_trellis (s : State) (g : Gal) (x : Gallery) : (setGal s g x).trellis = s.trellis := rfl
@[simp] theorem setGal_eth (s : State) (g : Gal) (x : Gallery) : (setGal s g x).eth = s.eth := rfl
@[simp] theorem setGal_walker (s : State) (g : Gal) (x : Gallery) : (setGal s g x).walker = s.walker := rfl
@[simp] theorem setGal_slices (s : State) (g : Gal) (x : Gallery) : (setGal s g x).slices = s.slices := rfl
@[simp] theorem setGal_group (s : State) (g : Gal) (x : Gallery) : (setGal s g x).group = s.group := rfl
@[simp] theorem setGal_tb (s : State) (g : Gal) (x : Gallery) : (setGal s g x).tb = s.tb := rfl
@[simp] theorem setGal_eps (s : State) (g : Gal) (x : Gallery) : (setGal s g x).eps = s.eps := rfl
@[simp] theorem setGal_streams (s : State) (g : Gal) (x : Gallery) : (setGal s g x).streams = s.streams := rfl
@[simp] theorem setGal_conns (s : State) (g : Gal) (x : Gallery) : (setGal s g x).conns = s.conns := rfl
@[simp] theorem setGal_scores (s : State) (g : Gal) (x : Gallery) : (setGal s g x).scores = s.scores := rfl
@[simp] theorem setGal_deferred (s : State) (g : Gal) (x : Gallery) : (setGal s g x).deferred = s.deferred := rfl
@[simp] theorem setGal_advTimes (s : State) (g : Gal) (x : Gallery) : (setGal s g x).advTimes = s.advTimes := rfl
@[simp] theorem setGal_lastHalve (s : State) (g : Gal) (x : Gallery) : (setGal s g x).lastHalve = s.lastHalve := rfl
@[simp] theorem setGal_replay (s : State) (g : Gal) (x : Gallery) : (setGal s g x).replay = s.replay := rfl
@[simp] theorem setGal_engLog (s : State) (g : Gal) (x : Gallery) : (setGal s g x).engLog = s.engLog := rfl
@[simp] theorem setGal_resLog (s : State) (g : Gal) (x : Gallery) : (setGal s g x).resLog = s.resLog := rfl
@[simp] theorem setGal_cruLog (s : State) (g : Gal) (x : Gallery) : (setGal s g x).cruLog = s.cruLog := rfl
@[simp] theorem setGal_prov (s : State) (g : Gal) (x : Gallery) : (setGal s g x).prov = s.prov := rfl
@[simp] theorem setGal_pins (s : State) (g : Gal) (x : Gallery) : (setGal s g x).pins = s.pins := rfl
@[simp] theorem setGal_chipHold (s : State) (g : Gal) (x : Gallery) : (setGal s g x).chipHold = s.chipHold := rfl
@[simp] theorem setGal_retire (s : State) (g : Gal) (x : Gallery) : (setGal s g x).retire = s.retire := rfl
@[simp] theorem setGal_out (s : State) (g : Gal) (x : Gallery) : (setGal s g x).out = s.out := rfl

/-! ### modGal -/

@[simp] theorem modGal_pending (s : State) (g : Gal) (f : Gallery → Gallery) : (modGal s g f).pending = s.pending := rfl
@[simp] theorem modGal_cores (s : State) (g : Gal) (f : Gallery → Gallery) : (modGal s g f).cores = s.cores := rfl
@[simp] theorem modGal_mgmt (s : State) (g : Gal) (f : Gallery → Gallery) : (modGal s g f).mgmt = s.mgmt := rfl
@[simp] theorem modGal_mem (s : State) (g : Gal) (f : Gallery → Gallery) : (modGal s g f).mem = s.mem := rfl
@[simp] theorem modGal_dev (s : State) (g : Gal) (f : Gallery → Gallery) : (modGal s g f).dev = s.dev := rfl
@[simp] theorem modGal_clk (s : State) (g : Gal) (f : Gallery → Gallery) : (modGal s g f).clk = s.clk := rfl
@[simp] theorem modGal_free (s : State) (g : Gal) (f : Gallery → Gallery) : (modGal s g f).free = s.free := rfl
@[simp] theorem modGal_regOut (s : State) (g : Gal) (f : Gallery → Gallery) : (modGal s g f).regOut = s.regOut := rfl
@[simp] theorem modGal_frq (s : State) (g : Gal) (f : Gallery → Gallery) : (modGal s g f).frq = s.frq := rfl
@[simp] theorem modGal_cr (s : State) (g : Gal) (f : Gallery → Gallery) : (modGal s g f).cr = s.cr := rfl
@[simp] theorem modGal_gal (s : State) (g : Gal) (f : Gallery → Gallery) : (modGal s g f).gal = s.gal.set g (f s.gal[g]) := rfl
@[simp] theorem modGal_ports (s : State) (g : Gal) (f : Gallery → Gallery) : (modGal s g f).ports = s.ports := rfl
@[simp] theorem modGal_inbox (s : State) (g : Gal) (f : Gallery → Gallery) : (modGal s g f).inbox = s.inbox := rfl
@[simp] theorem modGal_injectq (s : State) (g : Gal) (f : Gallery → Gallery) : (modGal s g f).injectq = s.injectq := rfl
@[simp] theorem modGal_catActive (s : State) (g : Gal) (f : Gallery → Gallery) : (modGal s g f).catActive = s.catActive := rfl
@[simp] theorem modGal_catShadow (s : State) (g : Gal) (f : Gallery → Gallery) : (modGal s g f).catShadow = s.catShadow := rfl
@[simp] theorem modGal_trellis (s : State) (g : Gal) (f : Gallery → Gallery) : (modGal s g f).trellis = s.trellis := rfl
@[simp] theorem modGal_eth (s : State) (g : Gal) (f : Gallery → Gallery) : (modGal s g f).eth = s.eth := rfl
@[simp] theorem modGal_walker (s : State) (g : Gal) (f : Gallery → Gallery) : (modGal s g f).walker = s.walker := rfl
@[simp] theorem modGal_slices (s : State) (g : Gal) (f : Gallery → Gallery) : (modGal s g f).slices = s.slices := rfl
@[simp] theorem modGal_group (s : State) (g : Gal) (f : Gallery → Gallery) : (modGal s g f).group = s.group := rfl
@[simp] theorem modGal_tb (s : State) (g : Gal) (f : Gallery → Gallery) : (modGal s g f).tb = s.tb := rfl
@[simp] theorem modGal_eps (s : State) (g : Gal) (f : Gallery → Gallery) : (modGal s g f).eps = s.eps := rfl
@[simp] theorem modGal_streams (s : State) (g : Gal) (f : Gallery → Gallery) : (modGal s g f).streams = s.streams := rfl
@[simp] theorem modGal_conns (s : State) (g : Gal) (f : Gallery → Gallery) : (modGal s g f).conns = s.conns := rfl
@[simp] theorem modGal_scores (s : State) (g : Gal) (f : Gallery → Gallery) : (modGal s g f).scores = s.scores := rfl
@[simp] theorem modGal_deferred (s : State) (g : Gal) (f : Gallery → Gallery) : (modGal s g f).deferred = s.deferred := rfl
@[simp] theorem modGal_advTimes (s : State) (g : Gal) (f : Gallery → Gallery) : (modGal s g f).advTimes = s.advTimes := rfl
@[simp] theorem modGal_lastHalve (s : State) (g : Gal) (f : Gallery → Gallery) : (modGal s g f).lastHalve = s.lastHalve := rfl
@[simp] theorem modGal_replay (s : State) (g : Gal) (f : Gallery → Gallery) : (modGal s g f).replay = s.replay := rfl
@[simp] theorem modGal_engLog (s : State) (g : Gal) (f : Gallery → Gallery) : (modGal s g f).engLog = s.engLog := rfl
@[simp] theorem modGal_resLog (s : State) (g : Gal) (f : Gallery → Gallery) : (modGal s g f).resLog = s.resLog := rfl
@[simp] theorem modGal_cruLog (s : State) (g : Gal) (f : Gallery → Gallery) : (modGal s g f).cruLog = s.cruLog := rfl
@[simp] theorem modGal_prov (s : State) (g : Gal) (f : Gallery → Gallery) : (modGal s g f).prov = s.prov := rfl
@[simp] theorem modGal_pins (s : State) (g : Gal) (f : Gallery → Gallery) : (modGal s g f).pins = s.pins := rfl
@[simp] theorem modGal_chipHold (s : State) (g : Gal) (f : Gallery → Gallery) : (modGal s g f).chipHold = s.chipHold := rfl
@[simp] theorem modGal_retire (s : State) (g : Gal) (f : Gallery → Gallery) : (modGal s g f).retire = s.retire := rfl
@[simp] theorem modGal_out (s : State) (g : Gal) (f : Gallery → Gallery) : (modGal s g f).out = s.out := rfl

/-! ### setPort -/

@[simp] theorem setPort_pending (s : State) (p : PortId) (x : Port) : (setPort s p x).pending = s.pending := rfl
@[simp] theorem setPort_cores (s : State) (p : PortId) (x : Port) : (setPort s p x).cores = s.cores := rfl
@[simp] theorem setPort_mgmt (s : State) (p : PortId) (x : Port) : (setPort s p x).mgmt = s.mgmt := rfl
@[simp] theorem setPort_mem (s : State) (p : PortId) (x : Port) : (setPort s p x).mem = s.mem := rfl
@[simp] theorem setPort_dev (s : State) (p : PortId) (x : Port) : (setPort s p x).dev = s.dev := rfl
@[simp] theorem setPort_clk (s : State) (p : PortId) (x : Port) : (setPort s p x).clk = s.clk := rfl
@[simp] theorem setPort_free (s : State) (p : PortId) (x : Port) : (setPort s p x).free = s.free := rfl
@[simp] theorem setPort_regOut (s : State) (p : PortId) (x : Port) : (setPort s p x).regOut = s.regOut := rfl
@[simp] theorem setPort_frq (s : State) (p : PortId) (x : Port) : (setPort s p x).frq = s.frq := rfl
@[simp] theorem setPort_cr (s : State) (p : PortId) (x : Port) : (setPort s p x).cr = s.cr := rfl
@[simp] theorem setPort_gal (s : State) (p : PortId) (x : Port) : (setPort s p x).gal = s.gal := rfl
@[simp] theorem setPort_ports (s : State) (p : PortId) (x : Port) : (setPort s p x).ports = s.ports.set p x := rfl
@[simp] theorem setPort_inbox (s : State) (p : PortId) (x : Port) : (setPort s p x).inbox = s.inbox := rfl
@[simp] theorem setPort_injectq (s : State) (p : PortId) (x : Port) : (setPort s p x).injectq = s.injectq := rfl
@[simp] theorem setPort_catActive (s : State) (p : PortId) (x : Port) : (setPort s p x).catActive = s.catActive := rfl
@[simp] theorem setPort_catShadow (s : State) (p : PortId) (x : Port) : (setPort s p x).catShadow = s.catShadow := rfl
@[simp] theorem setPort_trellis (s : State) (p : PortId) (x : Port) : (setPort s p x).trellis = s.trellis := rfl
@[simp] theorem setPort_eth (s : State) (p : PortId) (x : Port) : (setPort s p x).eth = s.eth := rfl
@[simp] theorem setPort_walker (s : State) (p : PortId) (x : Port) : (setPort s p x).walker = s.walker := rfl
@[simp] theorem setPort_slices (s : State) (p : PortId) (x : Port) : (setPort s p x).slices = s.slices := rfl
@[simp] theorem setPort_group (s : State) (p : PortId) (x : Port) : (setPort s p x).group = s.group := rfl
@[simp] theorem setPort_tb (s : State) (p : PortId) (x : Port) : (setPort s p x).tb = s.tb := rfl
@[simp] theorem setPort_eps (s : State) (p : PortId) (x : Port) : (setPort s p x).eps = s.eps := rfl
@[simp] theorem setPort_streams (s : State) (p : PortId) (x : Port) : (setPort s p x).streams = s.streams := rfl
@[simp] theorem setPort_conns (s : State) (p : PortId) (x : Port) : (setPort s p x).conns = s.conns := rfl
@[simp] theorem setPort_scores (s : State) (p : PortId) (x : Port) : (setPort s p x).scores = s.scores := rfl
@[simp] theorem setPort_deferred (s : State) (p : PortId) (x : Port) : (setPort s p x).deferred = s.deferred := rfl
@[simp] theorem setPort_advTimes (s : State) (p : PortId) (x : Port) : (setPort s p x).advTimes = s.advTimes := rfl
@[simp] theorem setPort_lastHalve (s : State) (p : PortId) (x : Port) : (setPort s p x).lastHalve = s.lastHalve := rfl
@[simp] theorem setPort_replay (s : State) (p : PortId) (x : Port) : (setPort s p x).replay = s.replay := rfl
@[simp] theorem setPort_engLog (s : State) (p : PortId) (x : Port) : (setPort s p x).engLog = s.engLog := rfl
@[simp] theorem setPort_resLog (s : State) (p : PortId) (x : Port) : (setPort s p x).resLog = s.resLog := rfl
@[simp] theorem setPort_cruLog (s : State) (p : PortId) (x : Port) : (setPort s p x).cruLog = s.cruLog := rfl
@[simp] theorem setPort_prov (s : State) (p : PortId) (x : Port) : (setPort s p x).prov = s.prov := rfl
@[simp] theorem setPort_pins (s : State) (p : PortId) (x : Port) : (setPort s p x).pins = s.pins := rfl
@[simp] theorem setPort_chipHold (s : State) (p : PortId) (x : Port) : (setPort s p x).chipHold = s.chipHold := rfl
@[simp] theorem setPort_retire (s : State) (p : PortId) (x : Port) : (setPort s p x).retire = s.retire := rfl
@[simp] theorem setPort_out (s : State) (p : PortId) (x : Port) : (setPort s p x).out = s.out := rfl

/-! ### setEp -/

@[simp] theorem setEp_pending (s : State) (e : Ep) (x : Endpoint) : (setEp s e x).pending = s.pending := rfl
@[simp] theorem setEp_cores (s : State) (e : Ep) (x : Endpoint) : (setEp s e x).cores = s.cores := rfl
@[simp] theorem setEp_mgmt (s : State) (e : Ep) (x : Endpoint) : (setEp s e x).mgmt = s.mgmt := rfl
@[simp] theorem setEp_mem (s : State) (e : Ep) (x : Endpoint) : (setEp s e x).mem = s.mem := rfl
@[simp] theorem setEp_dev (s : State) (e : Ep) (x : Endpoint) : (setEp s e x).dev = s.dev := rfl
@[simp] theorem setEp_clk (s : State) (e : Ep) (x : Endpoint) : (setEp s e x).clk = s.clk := rfl
@[simp] theorem setEp_free (s : State) (e : Ep) (x : Endpoint) : (setEp s e x).free = s.free := rfl
@[simp] theorem setEp_regOut (s : State) (e : Ep) (x : Endpoint) : (setEp s e x).regOut = s.regOut := rfl
@[simp] theorem setEp_frq (s : State) (e : Ep) (x : Endpoint) : (setEp s e x).frq = s.frq := rfl
@[simp] theorem setEp_cr (s : State) (e : Ep) (x : Endpoint) : (setEp s e x).cr = s.cr := rfl
@[simp] theorem setEp_gal (s : State) (e : Ep) (x : Endpoint) : (setEp s e x).gal = s.gal := rfl
@[simp] theorem setEp_ports (s : State) (e : Ep) (x : Endpoint) : (setEp s e x).ports = s.ports := rfl
@[simp] theorem setEp_inbox (s : State) (e : Ep) (x : Endpoint) : (setEp s e x).inbox = s.inbox := rfl
@[simp] theorem setEp_injectq (s : State) (e : Ep) (x : Endpoint) : (setEp s e x).injectq = s.injectq := rfl
@[simp] theorem setEp_catActive (s : State) (e : Ep) (x : Endpoint) : (setEp s e x).catActive = s.catActive := rfl
@[simp] theorem setEp_catShadow (s : State) (e : Ep) (x : Endpoint) : (setEp s e x).catShadow = s.catShadow := rfl
@[simp] theorem setEp_trellis (s : State) (e : Ep) (x : Endpoint) : (setEp s e x).trellis = s.trellis := rfl
@[simp] theorem setEp_eth (s : State) (e : Ep) (x : Endpoint) : (setEp s e x).eth = s.eth := rfl
@[simp] theorem setEp_walker (s : State) (e : Ep) (x : Endpoint) : (setEp s e x).walker = s.walker := rfl
@[simp] theorem setEp_slices (s : State) (e : Ep) (x : Endpoint) : (setEp s e x).slices = s.slices := rfl
@[simp] theorem setEp_group (s : State) (e : Ep) (x : Endpoint) : (setEp s e x).group = s.group := rfl
@[simp] theorem setEp_tb (s : State) (e : Ep) (x : Endpoint) : (setEp s e x).tb = s.tb := rfl
@[simp] theorem setEp_eps (s : State) (e : Ep) (x : Endpoint) : (setEp s e x).eps = s.eps.set (Ep.idx e) x := rfl
@[simp] theorem setEp_streams (s : State) (e : Ep) (x : Endpoint) : (setEp s e x).streams = s.streams := rfl
@[simp] theorem setEp_conns (s : State) (e : Ep) (x : Endpoint) : (setEp s e x).conns = s.conns := rfl
@[simp] theorem setEp_scores (s : State) (e : Ep) (x : Endpoint) : (setEp s e x).scores = s.scores := rfl
@[simp] theorem setEp_deferred (s : State) (e : Ep) (x : Endpoint) : (setEp s e x).deferred = s.deferred := rfl
@[simp] theorem setEp_advTimes (s : State) (e : Ep) (x : Endpoint) : (setEp s e x).advTimes = s.advTimes := rfl
@[simp] theorem setEp_lastHalve (s : State) (e : Ep) (x : Endpoint) : (setEp s e x).lastHalve = s.lastHalve := rfl
@[simp] theorem setEp_replay (s : State) (e : Ep) (x : Endpoint) : (setEp s e x).replay = s.replay := rfl
@[simp] theorem setEp_engLog (s : State) (e : Ep) (x : Endpoint) : (setEp s e x).engLog = s.engLog := rfl
@[simp] theorem setEp_resLog (s : State) (e : Ep) (x : Endpoint) : (setEp s e x).resLog = s.resLog := rfl
@[simp] theorem setEp_cruLog (s : State) (e : Ep) (x : Endpoint) : (setEp s e x).cruLog = s.cruLog := rfl
@[simp] theorem setEp_prov (s : State) (e : Ep) (x : Endpoint) : (setEp s e x).prov = s.prov := rfl
@[simp] theorem setEp_pins (s : State) (e : Ep) (x : Endpoint) : (setEp s e x).pins = s.pins := rfl
@[simp] theorem setEp_chipHold (s : State) (e : Ep) (x : Endpoint) : (setEp s e x).chipHold = s.chipHold := rfl
@[simp] theorem setEp_retire (s : State) (e : Ep) (x : Endpoint) : (setEp s e x).retire = s.retire := rfl
@[simp] theorem setEp_out (s : State) (e : Ep) (x : Endpoint) : (setEp s e x).out = s.out := rfl

/-! ### emit -/

@[simp] theorem emit_pending (s : State) (o : Out) : (emit s o).pending = s.pending := rfl
@[simp] theorem emit_cores (s : State) (o : Out) : (emit s o).cores = s.cores := rfl
@[simp] theorem emit_mgmt (s : State) (o : Out) : (emit s o).mgmt = s.mgmt := rfl
@[simp] theorem emit_mem (s : State) (o : Out) : (emit s o).mem = s.mem := rfl
@[simp] theorem emit_dev (s : State) (o : Out) : (emit s o).dev = s.dev := rfl
@[simp] theorem emit_clk (s : State) (o : Out) : (emit s o).clk = s.clk := rfl
@[simp] theorem emit_free (s : State) (o : Out) : (emit s o).free = s.free := rfl
@[simp] theorem emit_regOut (s : State) (o : Out) : (emit s o).regOut = s.regOut := rfl
@[simp] theorem emit_frq (s : State) (o : Out) : (emit s o).frq = s.frq := rfl
@[simp] theorem emit_cr (s : State) (o : Out) : (emit s o).cr = s.cr := rfl
@[simp] theorem emit_gal (s : State) (o : Out) : (emit s o).gal = s.gal := rfl
@[simp] theorem emit_ports (s : State) (o : Out) : (emit s o).ports = s.ports := rfl
@[simp] theorem emit_inbox (s : State) (o : Out) : (emit s o).inbox = s.inbox := rfl
@[simp] theorem emit_injectq (s : State) (o : Out) : (emit s o).injectq = s.injectq := rfl
@[simp] theorem emit_catActive (s : State) (o : Out) : (emit s o).catActive = s.catActive := rfl
@[simp] theorem emit_catShadow (s : State) (o : Out) : (emit s o).catShadow = s.catShadow := rfl
@[simp] theorem emit_trellis (s : State) (o : Out) : (emit s o).trellis = s.trellis := rfl
@[simp] theorem emit_eth (s : State) (o : Out) : (emit s o).eth = s.eth := rfl
@[simp] theorem emit_walker (s : State) (o : Out) : (emit s o).walker = s.walker := rfl
@[simp] theorem emit_slices (s : State) (o : Out) : (emit s o).slices = s.slices := rfl
@[simp] theorem emit_group (s : State) (o : Out) : (emit s o).group = s.group := rfl
@[simp] theorem emit_tb (s : State) (o : Out) : (emit s o).tb = s.tb := rfl
@[simp] theorem emit_eps (s : State) (o : Out) : (emit s o).eps = s.eps := rfl
@[simp] theorem emit_streams (s : State) (o : Out) : (emit s o).streams = s.streams := rfl
@[simp] theorem emit_conns (s : State) (o : Out) : (emit s o).conns = s.conns := rfl
@[simp] theorem emit_scores (s : State) (o : Out) : (emit s o).scores = s.scores := rfl
@[simp] theorem emit_deferred (s : State) (o : Out) : (emit s o).deferred = s.deferred := rfl
@[simp] theorem emit_advTimes (s : State) (o : Out) : (emit s o).advTimes = s.advTimes := rfl
@[simp] theorem emit_lastHalve (s : State) (o : Out) : (emit s o).lastHalve = s.lastHalve := rfl
@[simp] theorem emit_replay (s : State) (o : Out) : (emit s o).replay = s.replay := rfl
@[simp] theorem emit_engLog (s : State) (o : Out) : (emit s o).engLog = s.engLog := rfl
@[simp] theorem emit_resLog (s : State) (o : Out) : (emit s o).resLog = s.resLog := rfl
@[simp] theorem emit_cruLog (s : State) (o : Out) : (emit s o).cruLog = s.cruLog := rfl
@[simp] theorem emit_prov (s : State) (o : Out) : (emit s o).prov = s.prov := rfl
@[simp] theorem emit_pins (s : State) (o : Out) : (emit s o).pins = s.pins := rfl
@[simp] theorem emit_chipHold (s : State) (o : Out) : (emit s o).chipHold = s.chipHold := rfl
@[simp] theorem emit_retire (s : State) (o : Out) : (emit s o).retire = s.retire := rfl
@[simp] theorem emit_out (s : State) (o : Out) : (emit s o).out = s.out ++ [o] := rfl

/-! ### rset -/

@[simp] theorem rset_pending (s : State) (o : Nat) (w : Word) : (rset s o w).pending = s.pending := rfl
@[simp] theorem rset_cores (s : State) (o : Nat) (w : Word) : (rset s o w).cores = s.cores := rfl
@[simp] theorem rset_mgmt (s : State) (o : Nat) (w : Word) : (rset s o w).mgmt = s.mgmt := rfl
@[simp] theorem rset_mem (s : State) (o : Nat) (w : Word) : (rset s o w).mem = s.mem := rfl
@[simp] theorem rset_dev (s : State) (o : Nat) (w : Word) : (rset s o w).dev = put (regReset o) o w s.dev := rfl
@[simp] theorem rset_clk (s : State) (o : Nat) (w : Word) : (rset s o w).clk = s.clk := rfl
@[simp] theorem rset_free (s : State) (o : Nat) (w : Word) : (rset s o w).free = s.free := rfl
@[simp] theorem rset_regOut (s : State) (o : Nat) (w : Word) : (rset s o w).regOut = s.regOut := rfl
@[simp] theorem rset_frq (s : State) (o : Nat) (w : Word) : (rset s o w).frq = s.frq := rfl
@[simp] theorem rset_cr (s : State) (o : Nat) (w : Word) : (rset s o w).cr = s.cr := rfl
@[simp] theorem rset_gal (s : State) (o : Nat) (w : Word) : (rset s o w).gal = s.gal := rfl
@[simp] theorem rset_ports (s : State) (o : Nat) (w : Word) : (rset s o w).ports = s.ports := rfl
@[simp] theorem rset_inbox (s : State) (o : Nat) (w : Word) : (rset s o w).inbox = s.inbox := rfl
@[simp] theorem rset_injectq (s : State) (o : Nat) (w : Word) : (rset s o w).injectq = s.injectq := rfl
@[simp] theorem rset_catActive (s : State) (o : Nat) (w : Word) : (rset s o w).catActive = s.catActive := rfl
@[simp] theorem rset_catShadow (s : State) (o : Nat) (w : Word) : (rset s o w).catShadow = s.catShadow := rfl
@[simp] theorem rset_trellis (s : State) (o : Nat) (w : Word) : (rset s o w).trellis = s.trellis := rfl
@[simp] theorem rset_eth (s : State) (o : Nat) (w : Word) : (rset s o w).eth = s.eth := rfl
@[simp] theorem rset_walker (s : State) (o : Nat) (w : Word) : (rset s o w).walker = s.walker := rfl
@[simp] theorem rset_slices (s : State) (o : Nat) (w : Word) : (rset s o w).slices = s.slices := rfl
@[simp] theorem rset_group (s : State) (o : Nat) (w : Word) : (rset s o w).group = s.group := rfl
@[simp] theorem rset_tb (s : State) (o : Nat) (w : Word) : (rset s o w).tb = s.tb := rfl
@[simp] theorem rset_eps (s : State) (o : Nat) (w : Word) : (rset s o w).eps = s.eps := rfl
@[simp] theorem rset_streams (s : State) (o : Nat) (w : Word) : (rset s o w).streams = s.streams := rfl
@[simp] theorem rset_conns (s : State) (o : Nat) (w : Word) : (rset s o w).conns = s.conns := rfl
@[simp] theorem rset_scores (s : State) (o : Nat) (w : Word) : (rset s o w).scores = s.scores := rfl
@[simp] theorem rset_deferred (s : State) (o : Nat) (w : Word) : (rset s o w).deferred = s.deferred := rfl
@[simp] theorem rset_advTimes (s : State) (o : Nat) (w : Word) : (rset s o w).advTimes = s.advTimes := rfl
@[simp] theorem rset_lastHalve (s : State) (o : Nat) (w : Word) : (rset s o w).lastHalve = s.lastHalve := rfl
@[simp] theorem rset_replay (s : State) (o : Nat) (w : Word) : (rset s o w).replay = s.replay := rfl
@[simp] theorem rset_engLog (s : State) (o : Nat) (w : Word) : (rset s o w).engLog = s.engLog := rfl
@[simp] theorem rset_resLog (s : State) (o : Nat) (w : Word) : (rset s o w).resLog = s.resLog := rfl
@[simp] theorem rset_cruLog (s : State) (o : Nat) (w : Word) : (rset s o w).cruLog = s.cruLog := rfl
@[simp] theorem rset_prov (s : State) (o : Nat) (w : Word) : (rset s o w).prov = s.prov := rfl
@[simp] theorem rset_pins (s : State) (o : Nat) (w : Word) : (rset s o w).pins = s.pins := rfl
@[simp] theorem rset_chipHold (s : State) (o : Nat) (w : Word) : (rset s o w).chipHold = s.chipHold := rfl
@[simp] theorem rset_retire (s : State) (o : Nat) (w : Word) : (rset s o w).retire = s.retire := rfl
@[simp] theorem rset_out (s : State) (o : Nat) (w : Word) : (rset s o w).out = s.out := rfl

/-! ### tick -/

@[simp] theorem tick_pending (s : State) : (tick s).pending = s.pending := rfl
@[simp] theorem tick_cores (s : State) : (tick s).cores = s.cores := rfl
@[simp] theorem tick_mgmt (s : State) : (tick s).mgmt = s.mgmt := rfl
@[simp] theorem tick_mem (s : State) : (tick s).mem = s.mem := rfl
@[simp] theorem tick_dev (s : State) : (tick s).dev = s.dev := rfl
@[simp] theorem tick_clk (s : State) : (tick s).clk = s.clk + 1 := rfl
@[simp] theorem tick_free (s : State) : (tick s).free = s.free := rfl
@[simp] theorem tick_regOut (s : State) : (tick s).regOut = s.regOut := rfl
@[simp] theorem tick_frq (s : State) : (tick s).frq = s.frq := rfl
@[simp] theorem tick_cr (s : State) : (tick s).cr = s.cr := rfl
@[simp] theorem tick_gal (s : State) : (tick s).gal = s.gal := rfl
@[simp] theorem tick_ports (s : State) : (tick s).ports = s.ports := rfl
@[simp] theorem tick_inbox (s : State) : (tick s).inbox = s.inbox := rfl
@[simp] theorem tick_injectq (s : State) : (tick s).injectq = s.injectq := rfl
@[simp] theorem tick_catActive (s : State) : (tick s).catActive = s.catActive := rfl
@[simp] theorem tick_catShadow (s : State) : (tick s).catShadow = s.catShadow := rfl
@[simp] theorem tick_trellis (s : State) : (tick s).trellis = s.trellis := rfl
@[simp] theorem tick_eth (s : State) : (tick s).eth = s.eth := rfl
@[simp] theorem tick_walker (s : State) : (tick s).walker = s.walker := rfl
@[simp] theorem tick_slices (s : State) : (tick s).slices = s.slices := rfl
@[simp] theorem tick_group (s : State) : (tick s).group = s.group := rfl
@[simp] theorem tick_eps (s : State) : (tick s).eps = s.eps := rfl
@[simp] theorem tick_streams (s : State) : (tick s).streams = s.streams := rfl
@[simp] theorem tick_conns (s : State) : (tick s).conns = s.conns := rfl
@[simp] theorem tick_scores (s : State) : (tick s).scores = s.scores := rfl
@[simp] theorem tick_deferred (s : State) : (tick s).deferred = s.deferred := rfl
@[simp] theorem tick_advTimes (s : State) : (tick s).advTimes = s.advTimes := rfl
@[simp] theorem tick_lastHalve (s : State) : (tick s).lastHalve = s.lastHalve := rfl
@[simp] theorem tick_replay (s : State) : (tick s).replay = s.replay := rfl
@[simp] theorem tick_engLog (s : State) : (tick s).engLog = s.engLog := rfl
@[simp] theorem tick_resLog (s : State) : (tick s).resLog = s.resLog := rfl
@[simp] theorem tick_cruLog (s : State) : (tick s).cruLog = s.cruLog := rfl
@[simp] theorem tick_prov (s : State) : (tick s).prov = s.prov := rfl
@[simp] theorem tick_pins (s : State) : (tick s).pins = s.pins := rfl
@[simp] theorem tick_chipHold (s : State) : (tick s).chipHold = s.chipHold := rfl
@[simp] theorem tick_retire (s : State) : (tick s).retire = s.retire := rfl
@[simp] theorem tick_out (s : State) : (tick s).out = s.out := rfl

/-! ### dropStalls -/

@[simp] theorem dropStalls_pending (s : State) (r : WalkReq) : (dropStalls s r).pending = s.pending := rfl
@[simp] theorem dropStalls_cores (s : State) (r : WalkReq) : (dropStalls s r).cores = s.cores := rfl
@[simp] theorem dropStalls_mgmt (s : State) (r : WalkReq) : (dropStalls s r).mgmt = s.mgmt := rfl
@[simp] theorem dropStalls_mem (s : State) (r : WalkReq) : (dropStalls s r).mem = s.mem := rfl
@[simp] theorem dropStalls_dev (s : State) (r : WalkReq) : (dropStalls s r).dev = s.dev := rfl
@[simp] theorem dropStalls_clk (s : State) (r : WalkReq) : (dropStalls s r).clk = s.clk := rfl
@[simp] theorem dropStalls_free (s : State) (r : WalkReq) : (dropStalls s r).free = s.free := rfl
@[simp] theorem dropStalls_regOut (s : State) (r : WalkReq) : (dropStalls s r).regOut = s.regOut := rfl
@[simp] theorem dropStalls_frq (s : State) (r : WalkReq) : (dropStalls s r).frq = s.frq := rfl
@[simp] theorem dropStalls_cr (s : State) (r : WalkReq) : (dropStalls s r).cr = s.cr := rfl
@[simp] theorem dropStalls_gal (s : State) (r : WalkReq) : (dropStalls s r).gal = s.gal := rfl
@[simp] theorem dropStalls_ports (s : State) (r : WalkReq) : (dropStalls s r).ports = s.ports := rfl
@[simp] theorem dropStalls_inbox (s : State) (r : WalkReq) : (dropStalls s r).inbox = s.inbox := rfl
@[simp] theorem dropStalls_injectq (s : State) (r : WalkReq) : (dropStalls s r).injectq = s.injectq := rfl
@[simp] theorem dropStalls_catActive (s : State) (r : WalkReq) : (dropStalls s r).catActive = s.catActive := rfl
@[simp] theorem dropStalls_catShadow (s : State) (r : WalkReq) : (dropStalls s r).catShadow = s.catShadow := rfl
@[simp] theorem dropStalls_trellis (s : State) (r : WalkReq) : (dropStalls s r).trellis = s.trellis := rfl
@[simp] theorem dropStalls_eth (s : State) (r : WalkReq) : (dropStalls s r).eth = s.eth := rfl
@[simp] theorem dropStalls_slices (s : State) (r : WalkReq) : (dropStalls s r).slices = s.slices := rfl
@[simp] theorem dropStalls_group (s : State) (r : WalkReq) : (dropStalls s r).group = s.group := rfl
@[simp] theorem dropStalls_tb (s : State) (r : WalkReq) : (dropStalls s r).tb = s.tb := rfl
@[simp] theorem dropStalls_eps (s : State) (r : WalkReq) : (dropStalls s r).eps = s.eps := rfl
@[simp] theorem dropStalls_streams (s : State) (r : WalkReq) : (dropStalls s r).streams = s.streams := rfl
@[simp] theorem dropStalls_conns (s : State) (r : WalkReq) : (dropStalls s r).conns = s.conns := rfl
@[simp] theorem dropStalls_scores (s : State) (r : WalkReq) : (dropStalls s r).scores = s.scores := rfl
@[simp] theorem dropStalls_deferred (s : State) (r : WalkReq) : (dropStalls s r).deferred = s.deferred := rfl
@[simp] theorem dropStalls_advTimes (s : State) (r : WalkReq) : (dropStalls s r).advTimes = s.advTimes := rfl
@[simp] theorem dropStalls_lastHalve (s : State) (r : WalkReq) : (dropStalls s r).lastHalve = s.lastHalve := rfl
@[simp] theorem dropStalls_replay (s : State) (r : WalkReq) : (dropStalls s r).replay = s.replay := rfl
@[simp] theorem dropStalls_engLog (s : State) (r : WalkReq) : (dropStalls s r).engLog = s.engLog := rfl
@[simp] theorem dropStalls_resLog (s : State) (r : WalkReq) : (dropStalls s r).resLog = s.resLog := rfl
@[simp] theorem dropStalls_cruLog (s : State) (r : WalkReq) : (dropStalls s r).cruLog = s.cruLog := rfl
@[simp] theorem dropStalls_prov (s : State) (r : WalkReq) : (dropStalls s r).prov = s.prov := rfl
@[simp] theorem dropStalls_pins (s : State) (r : WalkReq) : (dropStalls s r).pins = s.pins := rfl
@[simp] theorem dropStalls_chipHold (s : State) (r : WalkReq) : (dropStalls s r).chipHold = s.chipHold := rfl
@[simp] theorem dropStalls_retire (s : State) (r : WalkReq) : (dropStalls s r).retire = s.retire := rfl
@[simp] theorem dropStalls_out (s : State) (r : WalkReq) : (dropStalls s r).out = s.out := rfl

/-! ### Cores and registers -/

@[simp] theorem coreAt_setCore (s : State) (n : CoreId) (c : Core) : coreAt (setCore s n c) n = c := by
  simp [coreAt]

theorem coreAt_setCore_ne (s : State) (n m : CoreId) (c : Core) (h : m ≠ n) : coreAt (setCore s n c) m = coreAt s m := by
  have : n.val ≠ m.val := fun e => h (Fin.ext e.symm)
  simp [coreAt, Fin.getElem_fin, Vector.getElem_set_ne, this]

@[simp] theorem coreAt_modCore (s : State) (n : CoreId) (f : Core → Core) : coreAt (modCore s n f) n = f (coreAt s n) := by
  simp [modCore]

@[simp] theorem setCore_setCore (s : State) (n : CoreId) (c d : Core) : setCore (setCore s n c) n d = setCore s n d := by
  simp [setCore]

@[simp] theorem modCore_modCore (s : State) (n : CoreId) (f g : Core → Core) :
    modCore (modCore s n f) n g = modCore s n (fun c => g (f c)) := by
  simp [modCore]

@[simp] theorem setMgmt_setMgmt (s : State) (k : Fin 4) (x y : Mgmt) : setMgmt (setMgmt s k x) k y = setMgmt s k y := by
  simp [setMgmt]

@[simp] theorem setMgmt_self (s : State) (k : Fin 4) (x : Mgmt) : (setMgmt s k x).mgmt[k] = x := by
  simp

@[simp] theorem getS_zero (h : Hart) (s : State) : getS h 0 s = 0 := by simp [getS]

@[simp] theorem setS_zero (h : Hart) (v : Word) (s : State) : setS h 0 v s = s := by simp [setS]

/-- Reading a scalar register after a write (R35). -/
theorem getS_setS (h : Hart) (r q : SReg) (v : Word) (s : State) :
    getS h q (setS h r v s) = if q = r ∧ r ≠ 0 then v else getS h q s := by
  by_cases hr : r = 0
  · subst hr; simp
  by_cases hq : q = 0
  · subst hq; rw [if_neg (fun e => hr e.1.symm)]; simp
  by_cases hqr : q = r
  · subst hqr
    cases h <;> simp [getS, setS, hr]
  · have : r.val ≠ q.val := fun e => hqr (Fin.ext e.symm)
    cases h <;> simp [getS, setS, hr, hq, hqr, Fin.getElem_fin, Vector.getElem_set_ne, this]

@[simp] theorem getP_zero (n : CoreId) (s : State) : getP n 0 s = -1 := by simp [getP]

@[simp] theorem setP_zero (n : CoreId) (v : BitVec 1024) (s : State) : setP n 0 v s = s := by simp [setP]

/-- Reading a predicate register after a write (R35). -/
theorem getP_setP (n : CoreId) (r q : PReg) (v : BitVec 1024) (s : State) :
    getP n q (setP n r v s) = if q = r ∧ r ≠ 0 then v else getP n q s := by
  by_cases hr : r = 0
  · subst hr; simp
  by_cases hq : q = 0
  · subst hq; rw [if_neg (fun e => hr e.1.symm)]; simp
  by_cases hqr : q = r
  · subst hqr
    simp [getP, setP, hr]
  · have : r.val ≠ q.val := fun e => hqr (Fin.ext e.symm)
    simp [getP, setP, hr, hq, hqr, Fin.getElem_fin, Vector.getElem_set_ne, this]

@[simp] theorem setS_pending (h : Hart) (r : SReg) (v : Word) (s : State) : (setS h r v s).pending = s.pending := by
  unfold setS; split <;> (try cases h) <;> rfl
@[simp] theorem setS_mem (h : Hart) (r : SReg) (v : Word) (s : State) : (setS h r v s).mem = s.mem := by
  unfold setS; split <;> (try cases h) <;> rfl
@[simp] theorem setS_dev (h : Hart) (r : SReg) (v : Word) (s : State) : (setS h r v s).dev = s.dev := by
  unfold setS; split <;> (try cases h) <;> rfl
@[simp] theorem setS_clk (h : Hart) (r : SReg) (v : Word) (s : State) : (setS h r v s).clk = s.clk := by
  unfold setS; split <;> (try cases h) <;> rfl
@[simp] theorem setS_free (h : Hart) (r : SReg) (v : Word) (s : State) : (setS h r v s).free = s.free := by
  unfold setS; split <;> (try cases h) <;> rfl
@[simp] theorem setS_regOut (h : Hart) (r : SReg) (v : Word) (s : State) : (setS h r v s).regOut = s.regOut := by
  unfold setS; split <;> (try cases h) <;> rfl
@[simp] theorem setS_frq (h : Hart) (r : SReg) (v : Word) (s : State) : (setS h r v s).frq = s.frq := by
  unfold setS; split <;> (try cases h) <;> rfl
@[simp] theorem setS_cr (h : Hart) (r : SReg) (v : Word) (s : State) : (setS h r v s).cr = s.cr := by
  unfold setS; split <;> (try cases h) <;> rfl
@[simp] theorem setS_gal (h : Hart) (r : SReg) (v : Word) (s : State) : (setS h r v s).gal = s.gal := by
  unfold setS; split <;> (try cases h) <;> rfl
@[simp] theorem setS_ports (h : Hart) (r : SReg) (v : Word) (s : State) : (setS h r v s).ports = s.ports := by
  unfold setS; split <;> (try cases h) <;> rfl
@[simp] theorem setS_inbox (h : Hart) (r : SReg) (v : Word) (s : State) : (setS h r v s).inbox = s.inbox := by
  unfold setS; split <;> (try cases h) <;> rfl
@[simp] theorem setS_injectq (h : Hart) (r : SReg) (v : Word) (s : State) : (setS h r v s).injectq = s.injectq := by
  unfold setS; split <;> (try cases h) <;> rfl
@[simp] theorem setS_catActive (h : Hart) (r : SReg) (v : Word) (s : State) : (setS h r v s).catActive = s.catActive := by
  unfold setS; split <;> (try cases h) <;> rfl
@[simp] theorem setS_catShadow (h : Hart) (r : SReg) (v : Word) (s : State) : (setS h r v s).catShadow = s.catShadow := by
  unfold setS; split <;> (try cases h) <;> rfl
@[simp] theorem setS_trellis (h : Hart) (r : SReg) (v : Word) (s : State) : (setS h r v s).trellis = s.trellis := by
  unfold setS; split <;> (try cases h) <;> rfl
@[simp] theorem setS_eth (h : Hart) (r : SReg) (v : Word) (s : State) : (setS h r v s).eth = s.eth := by
  unfold setS; split <;> (try cases h) <;> rfl
@[simp] theorem setS_walker (h : Hart) (r : SReg) (v : Word) (s : State) : (setS h r v s).walker = s.walker := by
  unfold setS; split <;> (try cases h) <;> rfl
@[simp] theorem setS_slices (h : Hart) (r : SReg) (v : Word) (s : State) : (setS h r v s).slices = s.slices := by
  unfold setS; split <;> (try cases h) <;> rfl
@[simp] theorem setS_group (h : Hart) (r : SReg) (v : Word) (s : State) : (setS h r v s).group = s.group := by
  unfold setS; split <;> (try cases h) <;> rfl
@[simp] theorem setS_tb (h : Hart) (r : SReg) (v : Word) (s : State) : (setS h r v s).tb = s.tb := by
  unfold setS; split <;> (try cases h) <;> rfl
@[simp] theorem setS_eps (h : Hart) (r : SReg) (v : Word) (s : State) : (setS h r v s).eps = s.eps := by
  unfold setS; split <;> (try cases h) <;> rfl
@[simp] theorem setS_streams (h : Hart) (r : SReg) (v : Word) (s : State) : (setS h r v s).streams = s.streams := by
  unfold setS; split <;> (try cases h) <;> rfl
@[simp] theorem setS_conns (h : Hart) (r : SReg) (v : Word) (s : State) : (setS h r v s).conns = s.conns := by
  unfold setS; split <;> (try cases h) <;> rfl
@[simp] theorem setS_scores (h : Hart) (r : SReg) (v : Word) (s : State) : (setS h r v s).scores = s.scores := by
  unfold setS; split <;> (try cases h) <;> rfl
@[simp] theorem setS_deferred (h : Hart) (r : SReg) (v : Word) (s : State) : (setS h r v s).deferred = s.deferred := by
  unfold setS; split <;> (try cases h) <;> rfl
@[simp] theorem setS_advTimes (h : Hart) (r : SReg) (v : Word) (s : State) : (setS h r v s).advTimes = s.advTimes := by
  unfold setS; split <;> (try cases h) <;> rfl
@[simp] theorem setS_lastHalve (h : Hart) (r : SReg) (v : Word) (s : State) : (setS h r v s).lastHalve = s.lastHalve := by
  unfold setS; split <;> (try cases h) <;> rfl
@[simp] theorem setS_replay (h : Hart) (r : SReg) (v : Word) (s : State) : (setS h r v s).replay = s.replay := by
  unfold setS; split <;> (try cases h) <;> rfl
@[simp] theorem setS_engLog (h : Hart) (r : SReg) (v : Word) (s : State) : (setS h r v s).engLog = s.engLog := by
  unfold setS; split <;> (try cases h) <;> rfl
@[simp] theorem setS_resLog (h : Hart) (r : SReg) (v : Word) (s : State) : (setS h r v s).resLog = s.resLog := by
  unfold setS; split <;> (try cases h) <;> rfl
@[simp] theorem setS_cruLog (h : Hart) (r : SReg) (v : Word) (s : State) : (setS h r v s).cruLog = s.cruLog := by
  unfold setS; split <;> (try cases h) <;> rfl
@[simp] theorem setS_prov (h : Hart) (r : SReg) (v : Word) (s : State) : (setS h r v s).prov = s.prov := by
  unfold setS; split <;> (try cases h) <;> rfl
@[simp] theorem setS_pins (h : Hart) (r : SReg) (v : Word) (s : State) : (setS h r v s).pins = s.pins := by
  unfold setS; split <;> (try cases h) <;> rfl
@[simp] theorem setS_chipHold (h : Hart) (r : SReg) (v : Word) (s : State) : (setS h r v s).chipHold = s.chipHold := by
  unfold setS; split <;> (try cases h) <;> rfl
@[simp] theorem setS_retire (h : Hart) (r : SReg) (v : Word) (s : State) : (setS h r v s).retire = s.retire := by
  unfold setS; split <;> (try cases h) <;> rfl
@[simp] theorem setS_out (h : Hart) (r : SReg) (v : Word) (s : State) : (setS h r v s).out = s.out := by
  unfold setS; split <;> (try cases h) <;> rfl
@[simp] theorem setP_pending (n : CoreId) (r : PReg) (v : BitVec 1024) (s : State) : (setP n r v s).pending = s.pending := by
  unfold setP; split <;> rfl
@[simp] theorem setP_mgmt (n : CoreId) (r : PReg) (v : BitVec 1024) (s : State) : (setP n r v s).mgmt = s.mgmt := by
  unfold setP; split <;> rfl
@[simp] theorem setP_mem (n : CoreId) (r : PReg) (v : BitVec 1024) (s : State) : (setP n r v s).mem = s.mem := by
  unfold setP; split <;> rfl
@[simp] theorem setP_dev (n : CoreId) (r : PReg) (v : BitVec 1024) (s : State) : (setP n r v s).dev = s.dev := by
  unfold setP; split <;> rfl
@[simp] theorem setP_clk (n : CoreId) (r : PReg) (v : BitVec 1024) (s : State) : (setP n r v s).clk = s.clk := by
  unfold setP; split <;> rfl
@[simp] theorem setP_free (n : CoreId) (r : PReg) (v : BitVec 1024) (s : State) : (setP n r v s).free = s.free := by
  unfold setP; split <;> rfl
@[simp] theorem setP_regOut (n : CoreId) (r : PReg) (v : BitVec 1024) (s : State) : (setP n r v s).regOut = s.regOut := by
  unfold setP; split <;> rfl
@[simp] theorem setP_frq (n : CoreId) (r : PReg) (v : BitVec 1024) (s : State) : (setP n r v s).frq = s.frq := by
  unfold setP; split <;> rfl
@[simp] theorem setP_cr (n : CoreId) (r : PReg) (v : BitVec 1024) (s : State) : (setP n r v s).cr = s.cr := by
  unfold setP; split <;> rfl
@[simp] theorem setP_gal (n : CoreId) (r : PReg) (v : BitVec 1024) (s : State) : (setP n r v s).gal = s.gal := by
  unfold setP; split <;> rfl
@[simp] theorem setP_ports (n : CoreId) (r : PReg) (v : BitVec 1024) (s : State) : (setP n r v s).ports = s.ports := by
  unfold setP; split <;> rfl
@[simp] theorem setP_inbox (n : CoreId) (r : PReg) (v : BitVec 1024) (s : State) : (setP n r v s).inbox = s.inbox := by
  unfold setP; split <;> rfl
@[simp] theorem setP_injectq (n : CoreId) (r : PReg) (v : BitVec 1024) (s : State) : (setP n r v s).injectq = s.injectq := by
  unfold setP; split <;> rfl
@[simp] theorem setP_catActive (n : CoreId) (r : PReg) (v : BitVec 1024) (s : State) : (setP n r v s).catActive = s.catActive := by
  unfold setP; split <;> rfl
@[simp] theorem setP_catShadow (n : CoreId) (r : PReg) (v : BitVec 1024) (s : State) : (setP n r v s).catShadow = s.catShadow := by
  unfold setP; split <;> rfl
@[simp] theorem setP_trellis (n : CoreId) (r : PReg) (v : BitVec 1024) (s : State) : (setP n r v s).trellis = s.trellis := by
  unfold setP; split <;> rfl
@[simp] theorem setP_eth (n : CoreId) (r : PReg) (v : BitVec 1024) (s : State) : (setP n r v s).eth = s.eth := by
  unfold setP; split <;> rfl
@[simp] theorem setP_walker (n : CoreId) (r : PReg) (v : BitVec 1024) (s : State) : (setP n r v s).walker = s.walker := by
  unfold setP; split <;> rfl
@[simp] theorem setP_slices (n : CoreId) (r : PReg) (v : BitVec 1024) (s : State) : (setP n r v s).slices = s.slices := by
  unfold setP; split <;> rfl
@[simp] theorem setP_group (n : CoreId) (r : PReg) (v : BitVec 1024) (s : State) : (setP n r v s).group = s.group := by
  unfold setP; split <;> rfl
@[simp] theorem setP_tb (n : CoreId) (r : PReg) (v : BitVec 1024) (s : State) : (setP n r v s).tb = s.tb := by
  unfold setP; split <;> rfl
@[simp] theorem setP_eps (n : CoreId) (r : PReg) (v : BitVec 1024) (s : State) : (setP n r v s).eps = s.eps := by
  unfold setP; split <;> rfl
@[simp] theorem setP_streams (n : CoreId) (r : PReg) (v : BitVec 1024) (s : State) : (setP n r v s).streams = s.streams := by
  unfold setP; split <;> rfl
@[simp] theorem setP_conns (n : CoreId) (r : PReg) (v : BitVec 1024) (s : State) : (setP n r v s).conns = s.conns := by
  unfold setP; split <;> rfl
@[simp] theorem setP_scores (n : CoreId) (r : PReg) (v : BitVec 1024) (s : State) : (setP n r v s).scores = s.scores := by
  unfold setP; split <;> rfl
@[simp] theorem setP_deferred (n : CoreId) (r : PReg) (v : BitVec 1024) (s : State) : (setP n r v s).deferred = s.deferred := by
  unfold setP; split <;> rfl
@[simp] theorem setP_advTimes (n : CoreId) (r : PReg) (v : BitVec 1024) (s : State) : (setP n r v s).advTimes = s.advTimes := by
  unfold setP; split <;> rfl
@[simp] theorem setP_lastHalve (n : CoreId) (r : PReg) (v : BitVec 1024) (s : State) : (setP n r v s).lastHalve = s.lastHalve := by
  unfold setP; split <;> rfl
@[simp] theorem setP_replay (n : CoreId) (r : PReg) (v : BitVec 1024) (s : State) : (setP n r v s).replay = s.replay := by
  unfold setP; split <;> rfl
@[simp] theorem setP_engLog (n : CoreId) (r : PReg) (v : BitVec 1024) (s : State) : (setP n r v s).engLog = s.engLog := by
  unfold setP; split <;> rfl
@[simp] theorem setP_resLog (n : CoreId) (r : PReg) (v : BitVec 1024) (s : State) : (setP n r v s).resLog = s.resLog := by
  unfold setP; split <;> rfl
@[simp] theorem setP_cruLog (n : CoreId) (r : PReg) (v : BitVec 1024) (s : State) : (setP n r v s).cruLog = s.cruLog := by
  unfold setP; split <;> rfl
@[simp] theorem setP_prov (n : CoreId) (r : PReg) (v : BitVec 1024) (s : State) : (setP n r v s).prov = s.prov := by
  unfold setP; split <;> rfl
@[simp] theorem setP_pins (n : CoreId) (r : PReg) (v : BitVec 1024) (s : State) : (setP n r v s).pins = s.pins := by
  unfold setP; split <;> rfl
@[simp] theorem setP_chipHold (n : CoreId) (r : PReg) (v : BitVec 1024) (s : State) : (setP n r v s).chipHold = s.chipHold := by
  unfold setP; split <;> rfl
@[simp] theorem setP_retire (n : CoreId) (r : PReg) (v : BitVec 1024) (s : State) : (setP n r v s).retire = s.retire := by
  unfold setP; split <;> rfl
@[simp] theorem setP_out (n : CoreId) (r : PReg) (v : BitVec 1024) (s : State) : (setP n r v s).out = s.out := by
  unfold setP; split <;> rfl

end Sys2Proof.Machine
end

