-- ==== Sys2Proof/Laws/Issue.lean ====
section
/-! SUPPORT. What issuing an instruction does, once for every kind of effect. -/

namespace Sys2Proof.Machine

/-- The state an instruction's effect starts from: a launch whose moment has come is disarmed. -/
def disarmed (h : Hart) (s : State) : State :=
  match h with
  | .core n => disarm s n
  | .mgmt k => if s.mgmt[k].launchPend then setMgmt s k { s.mgmt[k] with launchPend := false, launchat := 0 } else s

/-! ### What disarming a launch leaves -/

@[simp] theorem disarm_pc (s : State) (n : CoreId) : (coreAt (disarm s n) n).pc = (coreAt s n).pc := by
  rw [disarm, coreAt_modCore]; split <;> rfl

/-- A core that is disarmed fetches as before. -/
@[simp] theorem fetchFault_disarm (s : State) (n : CoreId) : fetchFault (disarm s n) n = fetchFault s n := by
  have h : ∀ t : State, (coreAt t n).pc = (coreAt s n).pc → t.dev = s.dev → t.mem = s.mem → t.walker = s.walker →
      fetchFault t n = fetchFault s n := by
    intro t hp hd hm hw
    obtain ⟨⟩ := t
    obtain ⟨⟩ := s
    subst hd hm hw
    unfold fetchFault
    rw [hp]
    rfl
  exact h _ (disarm_pc s n) rfl rfl rfl

/-! ### The outcomes on a core -/

section core
variable {n : CoreId} {i : Instr} {cls : Nat} {f : State → Eff} {s t : State} {x : Exc} {dst : Word}
  (hr : Ready (.core n) i s)
include hr

theorem issueCore_done (hf : f (disarm s n) = .done t) :
    issueCore n i cls f s = retireTo (settle t n) n ((coreAt s n).pc + 8) := by
  obtain ⟨hl, hc, hx⟩ := hr
  simp [issueCore, hl, hc, hx, hf]

theorem issueCore_jump (hf : f (disarm s n) = .jump t dst) : issueCore n i cls f s = retireTo (settle t n) n dst := by
  obtain ⟨hl, hc, hx⟩ := hr
  simp [issueCore, hl, hc, hx, hf]

theorem issueCore_fault (hf : f (disarm s n) = .fault x) :
    issueCore n i cls f s = takeExc (disarm s n) n x cls true (coreAt s n).pc (coreAt s n).pc := by
  obtain ⟨hl, hc, hx⟩ := hr
  simp [issueCore, hl, hc, hx, hf]

theorem issueCore_trap (hf : f (disarm s n) = .trap t x) :
    issueCore n i cls f s = takeExc (retireTo (settle t n) n ((coreAt s n).pc + 8)) n x cls false (coreAt s n).pc
      ((coreAt s n).pc + 8) := by
  obtain ⟨hl, hc, hx⟩ := hr
  simp [issueCore, hl, hc, hx, hf]

theorem issueCore_hold (hf : f (disarm s n) = .hold t) : issueCore n i cls f s = holdFor t n i := by
  obtain ⟨hl, hc, hx⟩ := hr
  simp [issueCore, hl, hc, hx, hf]

end core

/-! ### Retirement -/

/-- Two changes of one core, made at once. -/
theorem modCore_congr (s : State) (n : CoreId) (f g : Core → Core) (h : f (coreAt s n) = g (coreAt s n)) :
    modCore s n f = modCore s n g := by
  simp [modCore, h]

/-- A core after `disarm`, and after `settle` and `retireTo`. -/
def disarmC (c : Core) : Core := if c.launchPend then { c with launchPend := false, launchat := 0 } else c
def endC (dst : Word) (c : Core) : Core :=
  { c with pc := dst, retired := c.retired + 1, hold := none, state := if c.launchPend then .wait else .run }

theorem endC_disarmC (c : Core) (dst : Word) : endC dst (disarmC c) = retiredCore c dst := by
  cases h : c.launchPend <;> simp [endC, disarmC, retiredCore, h]

theorem disarm_eq (s : State) (n : CoreId) : disarm s n = modCore s n disarmC := rfl

theorem retired_eq (s : State) (n : CoreId) (dst : Word) :
    retired (.core n) dst s = modCore (dropStalls s (.core n)) n (fun c => retiredCore c dst) := rfl

theorem dropStalls_modCore (s : State) (n : CoreId) (f : Core → Core) (r : WalkReq) :
    dropStalls (modCore s n f) r = modCore (dropStalls s r) n f := rfl

theorem retireTo_settle (s : State) (n : CoreId) (dst : Word) :
    retireTo (settle s n) n dst = modCore (dropStalls s (.core n)) n (endC dst) := by
  unfold retireTo settle
  rw [modCore_modCore]
  rfl

/-- The retirement of an instruction whose effect is a change `f` of its own core that leaves issue alone. -/
theorem retire_modCore (s : State) (n : CoreId) (dst : Word) (f : Core → Core)
    (hf : ∀ c : Core, endC dst (f (disarmC c)) = f (retiredCore c dst)) :
    retireTo (settle (modCore (disarm s n) n f) n) n dst = modCore (retired (.core n) dst s) n f := by
  rw [retireTo_settle, retired_eq, disarm_eq, dropStalls_modCore, dropStalls_modCore, modCore_modCore, modCore_modCore,
    modCore_modCore]
  exact modCore_congr _ _ _ _ (hf _)

/-- The retirement of an instruction without another effect. -/
theorem retire_disarm (s : State) (n : CoreId) (dst : Word) :
    retireTo (settle (disarm s n) n) n dst = retired (.core n) dst s := by
  rw [retireTo_settle, retired_eq, disarm_eq, dropStalls_modCore, modCore_modCore]
  exact modCore_congr _ _ _ _ (endC_disarmC _ _)

/-- The retirement of an instruction that writes one scalar register. -/
theorem retire_setS (s : State) (n : CoreId) (dst : Word) (r : SReg) (v : Word) :
    retireTo (settle (setS (.core n) r v (disarm s n)) n) n dst = setS (.core n) r v (retired (.core n) dst s) := by
  by_cases hr : r = 0
  · subst hr; simp [retire_disarm]
  · simp only [setS, if_neg hr]
    exact retire_modCore s n dst _ (fun c => by cases h : c.launchPend <;> simp [endC, disarmC, retiredCore, h])

/-! ### Both kinds of core -/

@[simp] theorem getS_disarmed (h : Hart) (r : SReg) (s : State) : getS h r (disarmed h s) = getS h r s := by
  cases h with
  | core n =>
    simp only [disarmed, disarm_eq, getS, coreAt_modCore]
    cases hp : (coreAt s n).launchPend <;> simp [disarmC, hp]
  | mgmt k =>
    simp only [disarmed, getS]
    split
    · rfl
    · split <;> simp

theorem issue_done {h : Hart} {i : Instr} {cls : Nat} {f : State → Eff} {s t : State} (hr : Ready h i s)
    (hf : f (disarmed h s) = .done t) :
    issue h i cls f s = match h with
      | .core n => retireTo (settle t n) n (getPc h s + 8)
      | .mgmt k => setMgmt t k { t.mgmt[k] with pc := getPc h s + 8, hold := none } := by
  cases h with
  | core n => exact issueCore_done hr hf
  | mgmt k =>
    obtain ⟨hl, hc⟩ := hr
    change mgmtCanIssue s k i = true at hc
    simp only [disarmed] at hf
    simp only [issue, issueMgmt, if_pos hc, hl, Bool.not_true, Bool.false_eq_true, if_false, getPc, hf]

/-- An instruction that writes one scalar register with a value of the state before it. -/
theorem issue_setS {h : Hart} {i : Instr} {cls : Nat} {f : State → Eff} {s : State} {r : SReg} {v : Word}
    (hr : Ready h i s) (hf : f (disarmed h s) = .done (setS h r v (disarmed h s))) :
    issue h i cls f s = setS h r v (fell h s) := by
  rw [issue_done hr hf]
  cases h with
  | core n => exact retire_setS s n _ r v
  | mgmt k =>
    simp only [disarmed, fell, retired, setS, getPc]
    by_cases hr0 : r = 0
    · by_cases hp : s.mgmt[k].launchPend = true
      · simp only [hr0, hp, if_true]; simp [setMgmt]
      · have hq : s.mgmt[k.val].launchPend = false := by simpa using hp
        simp only [hr0, hp, if_true]; simp [setMgmt, hq]
    · by_cases hp : s.mgmt[k].launchPend = true
      · simp only [hr0, hp, if_true, if_false]; simp [setMgmt]
      · have hq : s.mgmt[k.val].launchPend = false := by simpa using hp
        simp only [hr0, hp, if_false]; simp [setMgmt, hq]

end Sys2Proof.Machine
end

