-- ==== Sys2Proof/Laws/Memory.lean ====
section
/-! SUPPORT. Tables and memory: a read after a write, and every memory operation keeps the canonical form. -/

namespace Sys2Proof.Machine

/-! ### Strictly rising lists -/

theorem rising_iff (l : List Nat) : rising l = true ↔ l.Pairwise (· < ·) := by
  induction l with
  | nil => simp [rising]
  | cons x r ih =>
    cases r with
    | nil => simp [rising]
    | cons y r =>
      simp only [rising, Bool.and_eq_true, decide_eq_true_eq, ih, List.pairwise_cons]
      constructor
      · rintro ⟨h, h1, h2⟩
        refine ⟨fun a ha => ?_, h1, h2⟩
        rcases List.mem_cons.mp ha with rfl | ha
        · exact h
        · exact h.trans (h1 a ha)
      · rintro ⟨h, h1, h2⟩
        exact ⟨h y (by simp), h1, h2⟩

/-- Keys of a table that are strictly rising. -/
def keysRise {α : Type} (t : List (Nat × α)) : Prop := t.Pairwise (fun a b => a.1 < b.1)

theorem rising_map_iff {α : Type} (t : List (Nat × α)) : rising (t.map Prod.fst) = true ↔ keysRise t := by
  rw [rising_iff, List.pairwise_map]; rfl

/-! ### Tables -/

@[simp] theorem look_nil {α : Type} (d : α) (i : Nat) : look d [] i = d := rfl

theorem look_of_not_mem {α : Type} (d : α) (t : List (Nat × α)) (i : Nat) (h : ∀ e ∈ t, e.1 ≠ i) : look d t i = d := by
  induction t with
  | nil => rfl
  | cons e r ih =>
    obtain ⟨k, v⟩ := e
    have hk : k ≠ i := h (k, v) (by simp)
    simp only [look, hk, if_false]
    exact ih (fun e he => h e (by simp [he]))

theorem look_of_mem {α : Type} (d : α) (t : List (Nat × α)) (hr : keysRise t) (i : Nat) (v : α) (h : (i, v) ∈ t) :
    look d t i = v := by
  induction t with
  | nil => simp at h
  | cons e r ih =>
    obtain ⟨k, w⟩ := e
    unfold keysRise at hr
    rw [List.pairwise_cons] at hr
    rcases List.mem_cons.mp h with h | h
    · cases h; simp [look]
    · have : k < i := hr.1 (i, v) h
      simp only [look, show ¬ k = i by omega, if_false]
      exact ih hr.2 h

theorem look_put {α : Type} [DecidableEq α] (d : α) (i : Nat) (v : α) (t : Tbl α) (hr : keysRise t) (j : Nat) :
    look d (put d i v t) j = if j = i then v else look d t j := by
  induction t with
  | nil =>
    simp only [put]
    split
    · next h => split <;> simp [h]
    · simp only [look]; split <;> rename_i h <;> simp [h, eq_comm]
  | cons e r ih =>
    obtain ⟨k, w⟩ := e
    unfold keysRise at hr
    rw [List.pairwise_cons] at hr
    have hlow : ∀ m, m ≤ k → look d r m = d := fun m hm =>
      look_of_not_mem d r m (fun e he => by have := hr.1 e he; simp only at this; omega)
    simp only [put]
    split
    · next h =>
      simp only [look, ih hr.2]
      by_cases hj : j = i
      · subst hj; simp [show ¬ k = j by omega]
      · simp [hj]
    · next h =>
      split
      · next h2 =>
        subst h2
        split
        · next hv =>
          by_cases hj : j = k
          · subst hj; simp [hlow j (le_refl _), hv]
          · simp [look, hj, show ¬ k = j by omega]
        · by_cases hj : j = k
          · subst hj; simp [look]
          · simp [look, hj, show ¬ k = j by omega]
      · next h2 =>
        split
        · next hv =>
          by_cases hj : j = i
          · subst hj; simp [look, show ¬ k = j by omega, hlow j (by omega), hv]
          · simp [hj]
        · by_cases hj : j = i
          · subst hj; simp [look]
          · simp [look, hj, show ¬ i = j by omega]

theorem put_keys {α : Type} [DecidableEq α] (d : α) (i : Nat) (v : α) (t : Tbl α) (e : Nat × α) (h : e ∈ put d i v t) :
    e.1 = i ∨ e ∈ t := by
  induction t with
  | nil => simp only [put] at h; split at h <;> simp_all
  | cons x r ih =>
    obtain ⟨k, w⟩ := x
    simp only [put] at h
    split at h
    · rcases List.mem_cons.mp h with h | h
      · simp [h]
      · rcases ih h with h | h <;> simp [h]
    · split at h
      · split at h
        · simp [h]
        · rcases List.mem_cons.mp h with h | h <;> simp [h]
      · split at h
        · exact Or.inr h
        · rcases List.mem_cons.mp h with h | h
          · simp [h]
          · exact Or.inr h

/-- Setting a number keeps a table's numbers rising. -/
theorem put_rise {α : Type} [DecidableEq α] (d : α) (i : Nat) (v : α) (t : Tbl α) (hr : keysRise t) :
    keysRise (put d i v t) := by
  induction t with
  | nil => simp only [put]; split <;> simp [keysRise]
  | cons e r ih =>
    obtain ⟨k, w⟩ := e
    have hr' := hr
    unfold keysRise at hr
    rw [List.pairwise_cons] at hr
    simp only [put]
    split
    · next h =>
      unfold keysRise
      rw [List.pairwise_cons]
      refine ⟨fun a ha => ?_, ih hr.2⟩
      rcases put_keys d i v r a ha with h1 | h1
      · simpa [h1] using h
      · exact hr.1 a h1
    · split
      · next h =>
        subst h
        split
        · exact hr.2
        · unfold keysRise; rw [List.pairwise_cons]; exact ⟨hr.1, hr.2⟩
      · next h1 h2 =>
        split
        · exact hr'
        · unfold keysRise
          rw [List.pairwise_cons, List.pairwise_cons]
          refine ⟨fun a ha => ?_, hr.1, hr.2⟩
          rcases List.mem_cons.mp ha with rfl | ha
          · simp only; omega
          · have := hr.1 a ha; simp only at this ⊢; omega

/-! ### The canonical form of a memory -/

theorem Memory.wf_iff (m : Memory) :
    m.wf = true ↔ keysRise m.cells ∧ (∀ c ∈ m.cells, c.2 ≠ 0) ∧ m.poison.Pairwise (· < ·) := by
  unfold Memory.wf
  rw [Bool.and_eq_true, Bool.and_eq_true, rising_map_iff, rising_iff, List.all_eq_true]
  simp [and_assoc]

theorem liveCells_ge (a : Nat) (bs : List Byte) : ∀ c ∈ liveCells a bs, a ≤ c.1 ∧ c.1 < a + bs.length ∧ c.2 ≠ 0 := by
  induction bs generalizing a with
  | nil => simp [liveCells]
  | cons b bs ih =>
    intro c hc
    simp only [liveCells] at hc
    have step : ∀ c ∈ liveCells (a + 1) bs, a ≤ c.1 ∧ c.1 < a + (b :: bs).length ∧ c.2 ≠ 0 := by
      intro c hc
      have := ih (a + 1) c hc
      simp only [List.length_cons]
      exact ⟨by omega, by omega, this.2.2⟩
    split at hc
    · exact step c hc
    · next hb =>
      rcases List.mem_cons.mp hc with rfl | hc
      · exact ⟨le_refl _, by simp, hb⟩
      · exact step c hc

theorem liveCells_rise (a : Nat) (bs : List Byte) : keysRise (liveCells a bs) := by
  induction bs generalizing a with
  | nil => simp [liveCells, keysRise]
  | cons b bs ih =>
    simp only [liveCells]
    split
    · exact ih (a + 1)
    · unfold keysRise
      rw [List.pairwise_cons]
      refine ⟨fun c hc => ?_, ih (a + 1)⟩
      have := liveCells_ge (a + 1) bs c hc
      simp only; omega

/-- A patch keeps the canonical form. -/
theorem Memory.patch_wf (m : Memory) (a : Nat) (bs : List Byte) (h : m.wf = true) : (m.patch a bs).wf = true := by
  rw [Memory.wf_iff] at h ⊢
  obtain ⟨h1, h2, h3⟩ := h
  unfold Memory.patch
  refine ⟨?_, ?_, h3⟩
  · unfold keysRise at h1 ⊢
    simp only
    rw [List.pairwise_append, List.pairwise_append]
    refine ⟨⟨h1.filter _, liveCells_rise a bs, ?_⟩, h1.filter _, ?_⟩
    · intro x hx y hy
      have := liveCells_ge a bs y hy
      simp only [List.mem_filter, decide_eq_true_eq] at hx
      omega
    · intro x hx y hy
      simp only [List.mem_filter, decide_eq_true_eq] at hy
      rcases List.mem_append.mp hx with hx | hx
      · simp only [List.mem_filter, decide_eq_true_eq] at hx; omega
      · have := liveCells_ge a bs x hx; omega
  · intro c hc
    simp only [List.mem_append, List.mem_filter] at hc
    rcases hc with (hc | hc) | hc
    · exact h2 c hc.1
    · exact (liveCells_ge a bs c hc).2.2
    · exact h2 c hc.1

theorem Memory.writeAlive_wf (m : Memory) (a : Nat) (bs : List Byte) (h : m.wf = true) :
    (m.writeAlive a bs).wf = true := by
  induction bs generalizing m a with
  | nil => exact h
  | cons b bs ih =>
    unfold Memory.writeAlive
    apply ih
    split
    · exact h
    · exact m.patch_wf a [b] h

/-- A write keeps the canonical form. -/
theorem Memory.write_wf (m : Memory) (a : Nat) (bs : List Byte) (h : m.wf = true) : (m.write a bs).wf = true := by
  unfold Memory.write
  split
  · exact m.patch_wf a bs h
  · exact m.writeAlive_wf a bs h

theorem insertNat_mem (x : Nat) (l : List Nat) (y : Nat) : y ∈ insertNat x l ↔ y = x ∨ y ∈ l := by
  induction l with
  | nil => simp [insertNat]
  | cons z r ih =>
    simp only [insertNat]
    split
    · simp
    · split
      · next h => subst h; simp
      · simp only [List.mem_cons, ih]; tauto

theorem insertNat_rise (x : Nat) (l : List Nat) (h : l.Pairwise (· < ·)) : (insertNat x l).Pairwise (· < ·) := by
  induction l with
  | nil => simp [insertNat]
  | cons z r ih =>
    rw [List.pairwise_cons] at h
    simp only [insertNat]
    split
    · next hx =>
      rw [List.pairwise_cons, List.pairwise_cons]
      refine ⟨fun a ha => ?_, h.1, h.2⟩
      rcases List.mem_cons.mp ha with rfl | ha
      · exact hx
      · exact hx.trans (h.1 a ha)
    · split
      · rw [List.pairwise_cons]; exact h
      · rw [List.pairwise_cons]
        refine ⟨fun a ha => ?_, ih h.2⟩
        rcases (insertNat_mem x r a).mp ha with rfl | ha
        · omega
        · exact h.1 a ha

/-- Marking or clearing a line keeps the canonical form. -/
theorem Memory.setPoison_wf (m : Memory) (l : Nat) (b : Bool) (h : m.wf = true) : (m.setPoison l b).wf = true := by
  rw [Memory.wf_iff] at h ⊢
  obtain ⟨h1, h2, h3⟩ := h
  unfold Memory.setPoison
  split
  · exact ⟨h1, h2, insertNat_rise l _ h3⟩
  · exact ⟨h1, h2, h3.filter _⟩

theorem Memory.linePoison_wf (m : Memory) (a n : Nat) (p : Bool) (l : Nat) (h : m.wf = true) :
    (m.linePoison a n p l).wf = true := by
  unfold Memory.linePoison
  split
  · exact m.setPoison_wf l true h
  · split
    · exact m.setPoison_wf l false h
    · exact h

theorem Memory.foldl_wf {α : Type} (f : Memory → α → Memory) (hf : ∀ m x, m.wf = true → (f m x).wf = true) (l : List α)
    (m : Memory) (h : m.wf = true) : (l.foldl f m).wf = true := by
  induction l generalizing m with
  | nil => exact h
  | cons x r ih => exact ih _ (hf m x h)

/-- A store keeps the canonical form. -/
theorem Memory.store_wf (m : Memory) (a : Nat) (bs : List Byte) (p : Bool) (h : m.wf = true) :
    (m.store a bs p).wf = true := by
  unfold Memory.store
  exact Memory.foldl_wf _ (fun m l h => m.linePoison_wf a bs.length p l h) _ _ (m.write_wf a bs h)

/-- Clearing a range keeps the canonical form. -/
theorem Memory.clear_wf (m : Memory) (a n : Nat) (h : m.wf = true) : (m.clear a n).wf = true := by
  rw [Memory.wf_iff] at h ⊢
  obtain ⟨h1, h2, h3⟩ := h
  unfold Memory.clear
  refine ⟨List.Pairwise.filter _ h1, fun c hc => ?_, h3.filter _⟩
  simp only [List.mem_filter] at hc
  exact h2 c hc.1

/-- Copying one aligned frame keeps the canonical form. -/
theorem Memory.copyFrame_wf (m : Memory) (src dst : Nat) (h : m.wf = true) : (m.copyFrame src dst).wf = true := by
  rw [Memory.wf_iff] at h ⊢
  obtain ⟨h1, h2, h3⟩ := h
  unfold Memory.copyFrame
  refine ⟨?_, ?_, ?_⟩
  · unfold keysRise at h1 ⊢
    simp only
    rw [List.pairwise_append, List.pairwise_append]
    refine ⟨⟨h1.filter _, ?_, ?_⟩, h1.filter _, ?_⟩
    · rw [List.pairwise_map]
      refine (h1.filter (fun c => decide (src ≤ c.1 ∧ c.1 < src + 2 ^ 17))).imp_of_mem (fun ha hb hab => ?_)
      simp only [List.mem_filter, decide_eq_true_eq] at ha hb
      simp only
      omega
    · intro x hx y hy
      simp only [List.mem_map, List.mem_filter, decide_eq_true_eq] at hx hy
      obtain ⟨c, hc, rfl⟩ := hy
      simp only; omega
    · intro x hx y hy
      simp only [List.mem_append, List.mem_map, List.mem_filter, decide_eq_true_eq] at hx hy
      rcases hx with hx | ⟨c, hc, rfl⟩
      · omega
      · simp only; omega
  · intro c hc
    simp only [List.mem_append, List.mem_map, List.mem_filter, decide_eq_true_eq] at hc
    rcases hc with (hc | ⟨d, hd, rfl⟩) | hc
    · exact h2 c hc.1
    · exact h2 d hd.1
    · exact h2 c hc.1
  · simp only
    rw [List.pairwise_append, List.pairwise_append]
    refine ⟨⟨h3.filter _, ?_, ?_⟩, h3.filter _, ?_⟩
    · rw [List.pairwise_map]
      exact (List.pairwise_lt_range.filter _).imp (fun hab => by omega)
    · intro x hx y hy
      simp only [List.mem_map, List.mem_filter, decide_eq_true_eq] at hx hy
      obtain ⟨c, hc, rfl⟩ := hy
      omega
    · intro x hx y hy
      simp only [List.mem_append, List.mem_map, List.mem_filter, List.mem_range, decide_eq_true_eq] at hx hy
      rcases hx with hx | ⟨c, hc, rfl⟩ <;> omega

/-! ### Reads after writes -/

theorem look_append {α : Type} (d : α) (t u : List (Nat × α)) (i : Nat) :
    look d (t ++ u) i = if t.any (fun e => decide (e.1 = i)) then look d t i else look d u i := by
  induction t with
  | nil => simp
  | cons e r ih =>
    obtain ⟨k, v⟩ := e
    simp only [List.cons_append, look, ih, List.any_cons]
    by_cases h : k = i
    · simp [h]
    · simp only [h, if_false, decide_false, Bool.false_or]

theorem look_filter {α : Type} (d : α) (t : List (Nat × α)) (p : Nat → Bool) (i : Nat) :
    look d (t.filter (fun e => p e.1)) i = if p i then look d t i else d := by
  induction t with
  | nil => simp
  | cons e r ih =>
    obtain ⟨k, v⟩ := e
    by_cases hk : p k
    · rw [List.filter_cons_of_pos (by simpa using hk)]
      simp only [look, ih]
      by_cases h : k = i
      · subst h; simp [hk]
      · simp [h]
    · rw [List.filter_cons_of_neg (by simpa using hk), ih]
      simp only [look]
      by_cases h : k = i
      · subst h; simp [hk]
      · simp [h]

theorem look_liveCells (a : Nat) (bs : List Byte) (i : Nat) :
    look 0 (liveCells a bs) i = if a ≤ i ∧ i < a + bs.length then bs.getD (i - a) 0 else 0 := by
  induction bs generalizing a with
  | nil => simp [liveCells]
  | cons b bs ih =>
    have key : ∀ j, a + 1 ≤ j → j < a + (b :: bs).length → (b :: bs).getD (j - a) 0 = bs.getD (j - (a + 1)) 0 := by
      intro j h1 h2
      rw [show j - a = (j - (a + 1)) + 1 by omega]; simp
    have step : a ≠ i → look 0 (liveCells (a + 1) bs) i
        = if a ≤ i ∧ i < a + (b :: bs).length then (b :: bs).getD (i - a) 0 else 0 := by
      intro hne
      rw [ih]
      simp only [List.length_cons]
      by_cases h : a + 1 ≤ i ∧ i < a + 1 + bs.length
      · rw [if_pos h, if_pos (by omega), key i h.1 (by simp only [List.length_cons]; omega)]
      · rw [if_neg h, if_neg (by omega)]
    simp only [liveCells]
    split
    · next hb =>
      by_cases h : a = i
      · subst h
        rw [ih, if_neg (by omega), if_pos (by simp)]
        simp [hb]
      · exact step h
    · by_cases h : a = i
      · subst h; simp [look]
      · simp only [look, h, if_false]; exact step h

/-- Reading one byte after a patch. -/
theorem Memory.byte_patch (m : Memory) (a : Nat) (bs : List Byte) (i : Nat) :
    (m.patch a bs).byte i = if a ≤ i ∧ i < a + bs.length then bs.getD (i - a) 0 else m.byte i := by
  unfold Memory.byte Memory.patch
  simp only [look_append]
  have e1 := look_filter (0 : Byte) m.cells (fun k => decide (k < a)) i
  have e2 := look_filter (0 : Byte) m.cells (fun k => decide (a + bs.length ≤ k)) i
  have e3 := look_liveCells a bs i
  have mem1 : ¬ i < a → (m.cells.filter (fun c => decide (c.1 < a))).any (fun e => decide (e.1 = i)) = false := by
    intro h
    rw [List.any_eq_false]
    intro c hc
    simp only [List.mem_filter, decide_eq_true_eq] at hc ⊢
    omega
  have mem2 : ¬ (a ≤ i ∧ i < a + bs.length) → (liveCells a bs).any (fun e => decide (e.1 = i)) = false := by
    intro h
    rw [List.any_eq_false]
    intro c hc
    have := liveCells_ge a bs c hc
    simp only [decide_eq_true_eq]
    omega
  have any0 : ∀ t : List (Nat × Byte), t.any (fun e => decide (e.1 = i)) = false → look 0 t i = 0 := by
    intro t ht
    rw [List.any_eq_false] at ht
    exact look_of_not_mem 0 t i (fun e he => by simpa using ht e he)
  rw [List.any_append]
  by_cases h : a ≤ i ∧ i < a + bs.length
  · rw [mem1 (by omega), if_pos h, Bool.false_or]
    by_cases h2 : (liveCells a bs).any (fun e => decide (e.1 = i)) = true
    · rw [if_pos h2, if_neg Bool.false_ne_true, e3, if_pos h]
    · have h3 := any0 _ (Bool.eq_false_iff.mpr h2)
      rw [e3, if_pos h] at h3
      rw [if_neg h2, e2, if_neg (by simp only [decide_eq_true_eq]; omega), h3]
  · rw [mem2 h, if_neg h, Bool.or_false]
    by_cases h1 : i < a
    · by_cases h2 : (m.cells.filter (fun c => decide (c.1 < a))).any (fun e => decide (e.1 = i)) = true
      · rw [if_pos h2, if_pos h2, e1, if_pos (by simpa using h1)]
      · have h3 := any0 _ (Bool.eq_false_iff.mpr h2)
        rw [e1, if_pos (by simpa using h1)] at h3
        rw [if_neg h2, e2, if_neg (by simp only [decide_eq_true_eq]; omega), h3]
    · rw [mem1 h1, if_neg Bool.false_ne_true, e2, if_pos (by simp only [decide_eq_true_eq]; omega)]

/-- A write leaves the bytes outside it alone. -/
theorem Memory.byte_write_outside (m : Memory) (a : Nat) (bs : List Byte) (i : Nat) (h : ¬ (a ≤ i ∧ i < a + bs.length)) :
    (m.write a bs).byte i = m.byte i := by
  unfold Memory.write
  split
  · rw [Memory.byte_patch, if_neg h]
  · clear * - h
    induction bs generalizing m a with
    | nil => rfl
    | cons b bs ih =>
      simp only [List.length_cons] at h
      unfold Memory.writeAlive
      rw [ih _ (a + 1) (by omega)]
      split
      · rfl
      · rw [Memory.byte_patch, if_neg (by simp only [List.length_cons, List.length_nil]; omega)]

@[simp] theorem Memory.setPoison_byte (m : Memory) (l : Nat) (b : Bool) (i : Nat) : (m.setPoison l b).byte i = m.byte i := by
  unfold Memory.setPoison; split <;> rfl

@[simp] theorem Memory.linePoison_byte (m : Memory) (a n : Nat) (p : Bool) (l i : Nat) :
    (m.linePoison a n p l).byte i = m.byte i := by
  unfold Memory.linePoison; split
  · simp
  · split <;> simp

/-- A store changes the bytes that a write does. -/
theorem Memory.byte_store (m : Memory) (a : Nat) (bs : List Byte) (p : Bool) (i : Nat) :
    (m.store a bs p).byte i = (m.write a bs).byte i := by
  unfold Memory.store
  generalize m.write a bs = w
  generalize linesOf a bs.length = ls
  induction ls generalizing w with
  | nil => rfl
  | cons l ls ih => rw [List.foldl_cons, ih]; simp

end Sys2Proof.Machine
end

