-- ==== Sys2Proof/Tests/Slice0.lean ====
section
/-! SUPPORT. Tests: what the checks of WellFormed refuse, words of the spec's encodings, examples of the spec, and a
witness for the hypotheses of every statement. -/

namespace Sys2Proof.Tests

open Sys2Proof.Machine

set_option maxRecDepth 100000

/-! ### What WellFormed refuses -/

def core0 : Hart := .core 0
def full : Guard := ⟨0, false, .none⟩

theorem wf_refuses_illegal_word : Instr.wf (.illegal core0 0) = false := by decide
theorem wf_refuses_signed_double : Instr.wf (.ld core0 .double true .none 1 2 0) = false := by decide
theorem wf_refuses_always_with_registers : Instr.wf (.br core0 .always 1 0 0) = false := by decide
theorem wf_refuses_negated_p0 : Instr.wf (.vadd core0 ⟨0, true, .none⟩ .f32 .dyn 1 2 3) = false := by decide
theorem wf_refuses_formats : Instr.wf (.vrcp core0 full .bf16 1 2) = false ∧ Instr.wf (.vand core0 full .f32 1 2 3) = false ∧
    Instr.wf (.vsel core0 full .sf16 1 2 3 1) = false ∧ Instr.wf (.ostep core0 full .f16 .adamw 1 2) = false := by decide
theorem wf_refuses_guarded_reduction : Instr.wf (.vred core0 ⟨1, false, .none⟩ .f32 .dyn .sum 1 2) = false := by decide
theorem wf_refuses_topk_zero : Instr.wf (.vcred core0 full .f32 (.topk 0) false 1 2 3) = false := by decide
theorem wf_refuses_element_beyond : Instr.wf (.vext core0 full .f32 1 2 512) = false := by decide
theorem wf_refuses_offset_without_ragged : Instr.wf (.callreduce core0 0 1 2 ⟨.sum, 0, false, false, false⟩ 3 0 .none) = false := by decide
theorem wf_refuses_repeated_row : Instr.wf (.slabComplete 0 ⟨0, 0, [1, 1], []⟩) = false := by decide
theorem wf_refuses_long_payload : Instr.wf (.packetReceive 0 0 ⟨0, 0, 0, 0, [1]⟩) = false := by decide
theorem wf_refuses_short_frame : Instr.wf (.linkFrameReceive 0 ⟨[], 0⟩ 0 false) = false := by decide
theorem wf_refuses_fourth_part : Instr.wf (.identReceive 0 3 []) = false := by decide
theorem wf_refuses_missing_sensor : Instr.wf (.sensorSample []) = false := by decide
theorem wf_accepts_plain : Instr.wf (.add core0 1 2 3) = true ∧ Instr.wf .refclkLoss = true := by decide

/-! ### Words written out from Table 2-8 and chapter 3 -/

/-- A word from its fields: the value at a bit. -/
def spelled (l : List (Nat × Nat)) : Word := BitVec.ofNat 64 ((l.map (fun x => x.2 * 2 ^ x.1)).foldl (· + ·) 0)

-- SR: OPC [7:0], SD [12:8], SA [17:13], SB [22:18], SC [27:23], FN [39:28].
theorem word_add : decodeSeisk core0 (spelled [(0, 0x01), (8, 3), (13, 4), (18, 5)]) = some (.add core0 3 4 5) := by decide
theorem word_madd : decodeSeisk core0 (spelled [(0, 0x19), (8, 31), (13, 1), (18, 2), (23, 30)]) = some (.madd core0 31 1 2 30) := by decide
theorem word_cset_leu : decodeSeisk core0 (spelled [(0, 0x13), (8, 3), (13, 4), (18, 5), (28, 5)]) = some (.cset core0 .leu 3 4 5) := by decide
theorem word_fcmp_un : decodeSeisk core0 (spelled [(0, 0x24), (8, 3), (13, 4), (18, 5), (28, 3)]) = some (.fcmp core0 .un 3 4 5) := by decide
theorem word_tset : decodeSeisk core0 (spelled [(0, 0x28), (8, 15), (13, 4), (28, 2)]) = some (.tset core0 15 4 2) := by decide
theorem word_tget : decodeSeisk core0 (spelled [(0, 0x29), (8, 7), (13, 14), (28, 3)]) = some (.tget core0 7 14 3) := by decide
theorem word_reserved_sr : decodeSeisk core0 (spelled [(0, 0x01), (40, 1)]) = none := by decide
-- SI: FN [23:18], IMM [63:24].
theorem word_addi : decodeSeisk core0 (spelled [(0, 0x30), (8, 3), (13, 4), (24, 2 ^ 40 - 1)]) = some (.addi core0 3 4 (-1)) := by decide
theorem word_shrai : decodeSeisk core0 (spelled [(0, 0x36), (8, 3), (13, 4), (24, 63)]) = some (.shrai core0 3 4 63) := by decide
theorem word_ld_ws : decodeSeisk core0 (spelled [(0, 0x38), (8, 9), (13, 10), (18, 6), (24, 16)]) = some (.ld core0 .word true .none 9 10 16) := by decide
theorem word_st_half : decodeSeisk core0 (spelled [(0, 0x39), (8, 9), (13, 10), (18, 1), (24, 6)]) = some (.st core0 .half 9 10 6) := by decide
theorem word_tst : decodeSeisk core0 (spelled [(0, 0x3D), (8, 12), (13, 10), (24, 32)]) = some (.tst core0 12 10 32) := by decide
-- B: SA [12:8], SB [17:13], COND [21:18], DISP [63:24].
theorem word_br_geu : decodeSeisk core0 (spelled [(0, 0x40), (8, 3), (13, 4), (18, 5), (24, 7)]) = some (.br core0 .geu 3 4 7) := by decide
theorem word_callr : decodeSeisk core0 (spelled [(0, 0x42), (8, 3), (13, 4), (24, 2)]) = some (.callr core0 4 3 2) := by decide
theorem word_bp_none : decodeSeisk core0 (spelled [(0, 0x43), (8, 6), (18, 2), (24, 2 ^ 40 - 2)]) = some (.bp core0 .none 6 (-2)) := by decide
theorem word_loop : decodeSeisk core0 (spelled [(0, 0x44), (8, 3), (24, 5)]) = some (.loop core0 3 5) := by decide
-- V: VD, VA, VB, VC at 8, 13, 18, 23, PG [30:28], PGN [31], FMT [35:32], RM [39:36], FN [51:40], SA [56:52].
theorem word_vadd : decodeSeisk core0 (spelled [(0, 0x60), (8, 1), (13, 2), (18, 3), (28, 5), (31, 1), (36, 2)])
    = some (.vadd core0 ⟨5, true, .none⟩ .f32 .rz 1 2 3) := by decide
theorem word_vidx : decodeSeisk core0 (spelled [(0, 0x7F), (8, 1), (32, 9)]) = some (.vidx core0 full .i32 1) := by decide
theorem word_vmuls : decodeSeisk core0 (spelled [(0, 0x80), (8, 1), (13, 2), (52, 17)]) = some (.vmuls core0 full .f32 .dyn 1 2 17) := by decide
theorem word_vld : decodeSeisk core0 (spelled [(0, 0x79), (8, 1), (40, 0xFFF), (52, 17)]) = some (.vld core0 full .f32 .none 1 17 (-1)) := by decide
-- M: TS [11:8], TW [15:12], BUF [20], MODE [37:21], SA [42:38], SB [47:43].
theorem word_mload : decodeSeisk core0 (spelled [(0, 0xA0), (8, 3), (20, 1)]) = some (.mload core0 3 1) := by decide
-- Q: QH [10:8], TA [14:11], TB [18:15], SA [23:19], SB [28:24], FN [39:29], IMM [63:40].
theorem word_rcopy_add : decodeSeisk core0 (spelled [(0, 0xC0), (8, 2), (11, 3), (15, 4), (29, 1), (40, 0xABCDEF)])
    = some (.rcopy core0 2 4 3 true 0xABCDEF) := by decide
theorem word_rgather : decodeSeisk core0 (spelled [(0, 0xC1), (8, 2), (11, 3), (15, 4), (19, 5), (24, 6), (40, 1)])
    = some (.rgather core0 2 4 3 5 6 1) := by decide
-- Y: SD, SA, SB at 8, 13, 18, CSR [34:23], FN [39:35], IMM [63:40].
theorem word_fence_c : decodeSeisk core0 (spelled [(0, 0xE0), (35, 3)]) = some (.fence core0 .c) := by decide
theorem word_qcopy : decodeSeisk core0 (spelled [(0, 0xE4), (8, 2), (13, 7)]) = some (.qcopy core0 2 7) := by decide
theorem word_sadv : decodeSeisk core0 (spelled [(0, 0xF4), (8, 2)]) = some (.sadv core0 2) := by decide
theorem word_csrr : decodeSeisk core0 (spelled [(0, 0xF8), (8, 2), (23, 0x123)]) = some (.csrr core0 2 0x123) := by decide
theorem word_illegal_opcodes : illegalWord core0 (spelled [(0, 0x00)]) = true ∧ illegalWord core0 (spelled [(0, 0xFF)]) = true ∧
    illegalWord core0 (spelled [(0, 0x50)]) = true := by decide

/-! ### A small state for the witnesses -/

/-- BOOT RUNNING, Gallery 0 open with cluster 0 and group 0, its virtual frame 0 in frame 1 and writable, the byte at
address 8 of that frame 5; every core runs at address 0. -/
def wState : State :=
  { State.reset with
    dev := [(0x0D000000, 4), (0x0F000000, 3), (0x0F000010, 1), (0x0F000018, 1)]
    walker := { anchors := [(0, 0x80000001)], entries := [(1, 0xA000000000000000)] }
    mem := { cells := [(0x20008, 5)] }
    cores := Vector.replicate 128 { state := .run } }

theorem w_core (n : CoreId) : coreAt wState n = { state := .run } := by simp [coreAt, wState]

/-- Every legal instruction issues in it on a core of cluster 0. -/
theorem w_ready (n : CoreId) (h : n.val < 8) (i : Instr) (hl : i.legal = true) : Ready (.core n) i wState := by
  refine ⟨hl, ?_, ?_⟩
  · simp [canIssue, w_core]; decide
  · revert n; decide

/-- And on a management core. -/
theorem w_ready_mgmt (k : Fin 4) (i : Instr) (hl : i.legal = true) : Ready (.mgmt k) i wState := by
  refine ⟨hl, ?_⟩
  simp [mgmtCanIssue, wState, State.reset]; decide

theorem w_open : isOpen wState 0 = true ∧ isOpen wState 1 = false := by decide
theorem w_owner : coreOwner wState 0 = some 0 ∧ coreOwner wState 8 = none := by decide
theorem w_runs : deviceRuns wState = true ∧ bootState wState = 4 := by decide
theorem w_translate : translate wState 0 8 true = .ok 0x20008 ∧ translate wState 0 0x20000 false = .unmapped := by decide
theorem w_sorted : rising (wState.dev.map Prod.fst) = true := by decide

/-! ### Witnesses: each meets the hypotheses of the statement it names -/

theorem witness_ZeroRegister : let w := spelled [(0, 0x60), (31, 1)]
    (0x60 ≤ bits w 7 0 ∧ bits w 7 0 ≤ 0x9F) ∧ bits w 30 28 = 0 ∧ bit w 31 = true ∧
    canIssue wState 0 (.illegal core0 w) = true ∧ fetchFault wState 0 = none := by decide

/-- s1 is −2^63, s2 is −1, the others 0. -/
def wNums : State := setS core0 1 0x8000000000000000 (setS core0 2 0xFFFFFFFFFFFFFFFF wState)

theorem w_nums_ready (i : Instr) (hl : i.legal = true) : Ready core0 i wNums := by
  refine ⟨hl, ?_, ?_⟩
  · have h : (coreAt wNums 0).hold = none ∧ deviceRuns wNums = true ∧ live (coreAt wNums 0) = true ∧
        (coreAt wNums 0).nanWait = false ∧ (coreAt wNums 0).launchPend = false := by decide
    simp [canIssue, h]
  · decide

theorem witness_ScalarIntegers : (∀ j < 0, (getS core0 1 wNums).getLsbD (63 - j) = false) ∧ (getS core0 1 wNums).getLsbD (63 - 0) = true ∧
    (∀ j < 64, (getS core0 3 wNums).getLsbD (63 - j) = false) ∧ (∀ j < 63, (getS core0 1 wNums).getLsbD j = false) ∧
    (getS core0 1 wNums).getLsbD 63 = true := by decide

theorem witness_Division : getS core0 3 wNums = 0 ∧ (getS core0 1 wNums).toInt = -(2 ^ 63) ∧ (getS core0 2 wNums).toInt = -1 ∧
    getS core0 1 wNums ≠ 0 := by decide

theorem witness_ExactSumsAndProducts : addVal .rn (.inf true) (.inf false) = .nan ∧ (1 : Nat) ≠ 0 := by decide

theorem witness_RoundingIsNearestOrDirected : Fmt.e2m1 ∈ [Fmt.f32, .bf16, .f16, .e4m3, .e5m2, .e2m3, .e3m2, .e2m1] ∧
    finRat false 1 0 ≤ finRat false (maxFin (specOf .e2m1)).1 (maxFin (specOf .e2m1)).2 := by
  refine ⟨by decide, ?_⟩
  have h : maxFin (specOf .e2m1) = (3, 1) := by decide
  rw [h]; norm_num [finRat]

theorem witness_ScalarFloatingPoint : (0 : Nat) < 64 ∧ |((-1 : Int) : ℚ) - finRat true 1 0| ≤ 1 / 2 ∧
    ((1 : Int) : ℚ) ≤ finRat false 3 (-1) ∧ finRat false 3 (-1) < ((1 : Int) : ℚ) + 1 := by
  norm_num [finRat]

theorem witness_FlagsAndNanEvent : coreOwner wState 8 = none ∧ coreOwner wState 0 = some 0 ∧ wState.gal[(0 : Gal)].fired = false ∧
    (modGal wState 0 (fun x => { x with fired := true })).gal[(0 : Gal)].fired = true ∧
    coreOwner (modGal wState 0 (fun x => { x with fired := true })) 0 = some 0 := by decide


/-- s3, s4 and s5 hold the bases of the Cask, the Reserve and the device register window, s6 the end of the Cask. -/
def wPtr : State := setS core0 3 (2 ^ 48) (setS core0 4 (2 ^ 49) (setS core0 5 (3 * 2 ^ 48) (setS core0 6 (2 ^ 48 + 0x600000) wState)))

/-- `wState` with another entry for frame 1 and one poisoned line. -/
def wFrame (e : Word) (psn : List Nat) : State :=
  { wState with walker := { wState.walker with entries := [(1, e)] }, mem := { wState.mem with poison := psn } }

theorem w_ptr : getS core0 3 wPtr = 2 ^ 48 ∧ getS core0 4 wPtr = 2 ^ 49 ∧ getS core0 5 wPtr = 3 * 2 ^ 48 ∧
    getS core0 6 wPtr = 2 ^ 48 + 0x600000 := by decide

theorem w_ptr_ready (i : Instr) (hl : i.legal = true) : Ready core0 i wPtr := by
  refine ⟨hl, ?_, ?_⟩
  · have h : (coreAt wPtr 0).hold = none ∧ deviceRuns wPtr = true ∧ live (coreAt wPtr 0) = true ∧
        (coreAt wPtr 0).nanWait = false ∧ (coreAt wPtr 0).launchPend = false := by decide
    simp [canIssue, h]
  · decide

theorem w_frame_fetch : fetchFault (wFrame 0x8000000000000000 [0x801]) 0 = none ∧ fetchFault (wFrame 0xA000000000000000 [0x801]) 0 = none := by
  decide

/-- A linear FP32 row of 64 elements at the base of the Cask (Table 2-3). -/
def wTile : BitVec 256 := BitVec.ofNat 256 (2 ^ 48 + 64 * 2 ^ 64 + 2 ^ 80 + 2 ^ 96 + 2 ^ 112 + 2 ^ 128 + 2 ^ 255)

/-- The descriptor of the example after Table 2-3, its four words lowest first: fields, and the last byte of the tensor. -/
theorem test_tile_example : let d := tileOf (BitVec.ofNat 256 (0x0002000000200000 + 0x0001000102000400 * 2 ^ 64 +
      0x2001 * 2 ^ 128 + 0x8000000010000000 * 2 ^ 192))
    d.valid = true ∧ d.fmt = 1 ∧ d.layout = 0 ∧ d.pad = 0 ∧ d.mx = false ∧ d.reserved = 0 ∧ d.n0 = 1024 ∧ d.n1 = 512 ∧
    d.n2 = 1 ∧ d.n3 = 1 ∧ d.s0 = 1 ∧ d.s1 = 32 ∧ d.s2 = 0 ∧ d.s3 = 0 ∧
    d.range = ((0x0002000000200000 : Int), 0x0002000000200000 + 512 * 2048 - 1) := by decide

/-- The last aligned word of each window, and the first. -/
theorem witness_LoadsFromMemory : (∃ g, coreOwner wState 0 = some g ∧ translate wState g 0x1FFF8 false = .ok 0x3FFF8 ∧
      wState.mem.isPoisoned (0x3FFF8 / 64) = false ∧ 0x1FFF8 + 8 ≤ 2 ^ 48) ∧
    (let ea := (getS core0 6 wPtr + (-8 : BitVec 40).signExtend 64).toNat
     ea % 8 = 0 ∧ 2 ^ 48 ≤ ea ∧ ea + 8 ≤ 2 ^ 48 + 0x600000 ∧ wPtr.mem.isPoisoned ((caskBase 0 + (ea - 2 ^ 48)) / 64) = false) ∧
    (let ea := (getS core0 4 wPtr + (0xFFFFE0 : BitVec 40).signExtend 64).toNat
     ea % 32 = 0 ∧ 2 ^ 49 ≤ ea ∧ ea + 32 ≤ 2 ^ 49 + 0x1000000 ∧ wPtr.mem.isPoisoned ((reserveBase 0 + (ea - 2 ^ 49)) / 64) = false) := by
  decide

theorem witness_StoresAtomicsAndFaults : translate wState 0 0x1FFF8 true = .ok 0x3FFF8 ∧
    queueReads (coreAt wPtr 0) (2 ^ 48) 8 = false ∧
    queueReads { mq := [{ word := 0, pc := 0, ts := wTile }] } (2 ^ 48 + 248) 8 = true ∧
    queueReads { mq := [{ word := 0, pc := 0, ts := wTile }] } (2 ^ 48 + 256) 8 = false ∧
    wPtr.mem.isPoisoned (caskBase 0 / 64) = false ∧ wPtr.mem.isPoisoned (reserveBase 0 / 64) = false ∧ wPtr.mem.dead = [] := by
  decide

theorem witness_StoresAtomicsAndFaults_faults : translate wState 0 0x20000 false = .unmapped ∧ translate wState 0 0x20000 true = .unmapped ∧
    translate (wFrame 0x8000000000000000 []) 0 8 true = .readOnly ∧
    translate (wFrame 0xE000000000000000 []) 0 8 false = .migrating ∧ translate (wFrame 0xE000000000000000 []) 0 8 true = .migrating ∧
    translate (wFrame 0xA000000000000000 [0x801]) 0 0x40 false = .ok 0x20040 ∧
    (wFrame 0xA000000000000000 [0x801]).mem.isPoisoned (0x20040 / 64) = true ∧
    (wFrame 0xA000000000000000 [caskBase 0 / 64]).mem.isPoisoned (caskBase 0 / 64) = true ∧
    (let ea := 2 ^ 48 + 0x600000 - 7
     ¬ (ea + 8 ≤ 2 ^ 48) ∧ ¬ (2 ^ 48 ≤ ea ∧ ea + 8 ≤ 2 ^ 48 + 0x600000) ∧ ¬ (2 ^ 49 ≤ ea)) ∧ (3 : Nat) % 8 ≠ 0 := by
  decide

theorem witness_RegisterWindowAccess : (readReg (disarm wPtr 0) (.ctx 0) 0x05000000).isSome = true ∧
    readReg (disarm wPtr 0) (.ctx 0) 0x05000FF8 = none ∧
    (writeReg (disarm wPtr 0) (.ctx 0) 0x05000008 0).isSome = true ∧
    writeReg (disarm wPtr 0) (.ctx 0) 0x05000FF8 0 = none := by
  decide

/-- `wState` with core 0 changed. -/
def wCore (f : Core → Core) : State := modCore wState 0 f

theorem witness_IssueAndBranches :
    canIssue (wCore (fun c => { c with state := .halted })) 0 (.nop core0) = false ∧ canIssue wState 0 (.nop core0) = true ∧
    (coreAt (wCore (fun c => { c with pc := 4 })) 0).pc.toNat % 8 ≠ 0 ∧ (2 ^ 48 : Nat) < 2 ^ 48 - 7 + 8 ∧
    fetchFault (wCore (fun c => { c with pc := 0x20000 })) 0 = some (some { code := 5, src := 6, eaddr := 0x20000, fclass := 1 }) ∧
    fetchFault (wFrame 0xE000000000000000 []) 0 = some none ∧
    fetchFault (wFrame 0xA000000000000000 [0x800]) 0 = some (some { code := 0xA, src := 6 }) ∧
    (Instr.vadd core0 ⟨0, false, .none⟩ .i8 .rn 1 2 3).legal = false ∧
    (∀ o ∈ [0x1D, 0x45, 0x81, 0xA4, 0x2A, 0x9F, 0xBF, 0xFF], illegalWord core0 (BitVec.ofNat 64 o) = true) ∧
    illegalWord core0 (spelled [(0, 0x01)]) = false ∧ mgmtCanIssue wState 0 (.illegal (.mgmt 0) 0) = true ∧
    wState.mgmt[(0 : Fin 4)].launchPend = false := by decide

theorem witness_ExceptionsAndNanTraps : coreOwner wState 0 = some 0 ∧ wState.frq[(0 : Fin 9)].handling = false ∧
    wState.frq[(0 : Fin 9)].ents.length < 8 ∧ wState.gal[(0 : Gal)].tear = .none ∧ wState.gal[(0 : Gal)].reset = none ∧
    (coreAt wState 0).state = .run ∧ (coreAt (wCore (fun c => { c with state := .wait })) 0).state = .wait ∧
    (coreAt (wCore (fun c => { c with state := .stopped })) 0).state = .stopped := by decide

theorem witness_IssueAndBranches_targets : ((getS core0 0 wState + (5 : BitVec 40).signExtend 64 * 8).toNat % 8 = 0) ∧
    (getS core0 3 (setS core0 3 4 wState) + (5 : BitVec 40).signExtend 64 * 8).toNat % 8 ≠ 0 ∧
    (Instr.br core0 .always 0 0 5).legal = true ∧ (Instr.callr core0 31 0 5).legal = true ∧ (Instr.bp core0 .all 3 5).legal = true := by decide

/-- Vector work: p1 governs the even elements of 32 bits, segment 1 of v2 is poisoned. -/
def wVec : State := wCore (fun c => { c with p := c.p.set 1 0x33, vpsn := c.vpsn.set 2 2, s := c.s.set 3 (2 ^ 48) })

theorem w_vec : governs 0 ⟨1, false, .none⟩ 32 wVec 0 = true ∧ governs 0 ⟨1, false, .none⟩ 32 wVec 1 = false ∧ governs 0 ⟨0, false, .none⟩ 32 wVec 511 = true ∧
    governs 0 ⟨1, true, .none⟩ 32 wVec 511 = true ∧ inPoison 0 2 32 wVec 15 = false ∧ inPoison 0 2 32 wVec 16 = true ∧
    inPoison 0 2 32 wVec 31 = true ∧ inPoison 0 2 32 wVec 32 = false := by decide

theorem witness_VectorElementwise : (Instr.vfma core0 ⟨1, false, .none⟩ .f32 .dyn 1 2 3).legal = true ∧
    (Instr.vadd core0 ⟨0, false, .none⟩ .bf16 .rz 1 2 3).legal = true ∧ (Instr.vrcp core0 ⟨0, false, .none⟩ .f32 1 2).legal = true ∧
    (Instr.vact core0 ⟨0, false, .none⟩ .f32 .rn .gelu 1 2).legal = true ∧
    (Instr.vactd core0 ⟨0, false, .none⟩ .f32 .rn .tanh true 1 2 3).legal = true := by decide

theorem witness_RootsAndReciprocals : (1 : Nat) ≠ 0 ∧ (1 : Nat) < 2 ^ 60 ∧ ActFn.tanh ∈ [ActFn.tanh, .gelu, .silu] ∧
    finRat false 1 0 ^ 2 = finRat false 1 0 := by
  refine ⟨by decide, by decide, by decide, ?_⟩
  norm_num [finRat]

theorem witness_VectorElementwise_bits : (∀ i < 512, governs 0 ⟨0, false, .none⟩ 32 wState i = true → inPoison 0 1 32 wState i = false) ∧
    (∃ i < 512, governs 0 ⟨0, false, .none⟩ 32 wVec i = true ∧ inPoison 0 2 32 wVec i = true) ∧
    governs 0 ⟨1, false, .none⟩ 32 wVec (1 : BitVec 12).toNat = false ∧ governs 0 ⟨0, false, .none⟩ 32 wVec (511 : BitVec 12).toNat = true ∧
    inPoison 0 2 32 wVec (16 : BitVec 12).toNat = true ∧ inPoison 0 2 32 wVec (511 : BitVec 12).toNat = false := by
  refine ⟨?_, ⟨16, by decide⟩, ?_⟩
  · intro i _ _; simp [inPoison, w_core]
  · decide

theorem witness_VectorConvert : (Instr.vcvt core0 ⟨0, false, .none⟩ .e4m3 .f32 .rn true false 1 2 0).legal = true ∧
    (Instr.vcvt core0 ⟨0, false, .none⟩ .e4m3 .f32 .rn false true 1 2 3).legal = true ∧ (1 : VNum) ≠ 3 ∧
    (∀ v ∈ [Val.fin false 1 10, .fin true 0 0], ∃ a m e, v = .fin a m e ∧ (m = 0 ∨ finRat false m e < 2 ^ ((10 : Int) + 1))) ∧
    (∃ v ∈ [Val.fin false 1 10], ∃ a m e, v = .fin a m e ∧ (2 : ℚ) ^ (10 : Int) ≤ finRat false m e) := by
  refine ⟨by decide, by decide, by decide, ?_, ?_⟩
  · intro v hv
    simp only [List.mem_cons, List.not_mem_nil, or_false] at hv
    rcases hv with rfl | rfl
    · exact ⟨_, _, _, rfl, .inr (by norm_num [finRat])⟩
    · exact ⟨_, _, _, rfl, .inl rfl⟩
  · exact ⟨_, List.mem_singleton.2 rfl, _, _, _, rfl, by norm_num [finRat]⟩

theorem witness_FixedTreeReductions : (Instr.vred core0 ⟨0, false, .none⟩ .f32 .rn .sum 1 2).legal = true ∧
    (Instr.vred core0 ⟨0, false, .none⟩ .i32 .dyn .max 1 2).legal = true ∧
    (Instr.vcred core0 ⟨0, false, .none⟩ .f32 (.topk 8) true 1 2 3).legal = true ∧ (CredOp.max ≠ .sum → (1 : VNum) ≠ 2) ∧
    ((List.range 3).map (fun l => (l, 0x3F800000)) |>.map (Prod.fst : Nat × Nat → Nat)).Nodup ∧
    topK 2 [(0, 0x3F800000), (1, 0x40000000), (2, 0x40000000)] = [(1, 0x40000000), (2, 0x40000000)] := by decide

theorem witness_VectorMemory : (getS core0 3 wVec + (-1 : BitVec 12).signExtend 64 * 64).toNat = 2 ^ 48 - 64 ∧
    (getS core0 3 wVec + (2047 : BitVec 12).signExtend 64 * 64).toNat + 2048 ≤ 2 ^ 48 + 0x600000 ∧
    (1 : Nat) % 64 ≠ 0 ∧ queueReads (coreAt wVec 0) (2 ^ 48) 2048 = false ∧ wVec.mem.dead = [] ∧ (coreAt wVec 0).mq = [] ∧
    queueReads { mq := [{ word := 0, pc := 0, ts := wTile }] } (2 ^ 48) 2048 = true := by decide

/-- t2 is a 64-element FP32 row at the base of the Cask, t3 the same in the Reserve; t0 and t1 are not valid. -/
def wMat : State := wCore (fun c => { c with t := (c.t.set 2 wTile).set 3 (wTile + 2 ^ 48) })

/-- Core 0's matrix queue holds `es`, and its Gallery's step seal is CLEAN. -/
def wQueue (es : List MEntry) : State := wCore (fun c => { c with mq := es })

theorem witness_TileDescriptors : let t := tileOf wTile
    let b := tileOf (BitVec.ofNat 256 (2 ^ 48 + 128 * 2 ^ 64 + 128 * 2 ^ 80 + 2 ^ 96 + 2 ^ 112 + 2 ^ 128 + 2 ^ 220 + 2 ^ 224 + 2 ^ 255))
    let f := tileOf (BitVec.ofNat 256 (2 ^ 48 + 64 * 2 ^ 64 + 2 ^ 80 + 2 ^ 96 + 2 ^ 112 + 2 ^ 128 + 7 * 2 ^ 220 + 2 ^ 255))
    (t.layout = 0 ∧ 8 ≤ t.ebits) ∧ (f.layout = 0 ∧ f.format = .e2m1 ∧ f.s0 = 1) ∧
    (b.layout = 1 ∧ b.format = .bf16 ∧ fmtOf b.fmt ≠ none) ∧ (63 < t.n0 ∧ 0 < t.n1 ∧ 0 < t.n2 ∧ 0 < t.n3 ∧ t.format ≠ .sf16) ∧
    basicChecks t true inCask = [] ∧ operandChecks 2 wTile 0 true inCask = [] ∧
    (descFault wState [(3, 2), (1, 5)]).isSome = true := by decide

theorem witness_MatrixAcceptance :
    statChecks 2 wTile 0 false = [] ∧ statChecks 0 0 0 false ≠ [] ∧ streamChecks 3 (wTile + 2 ^ 48) 0 false = [] ∧
    (coreAt wMat 0).mq.length < 4 ∧ 4 ≤ (coreAt (wQueue (List.replicate 4 { word := 0, pc := 0 })) 0).mq.length := by decide

theorem witness_MatrixSums : ([{}, {}, {}, {}] : List Term).length = 2 ^ 2 ∧
(255 : Nat) = 255 ∧ (254 : Nat) < 255 ∧ signedOf 8 128 = -128 ∧
    (0x7FFFFFFF : Nat) < 2 ^ 32 ∧ 2 ^ 31 ≤ signedOf 32 0x7FFFFFFF + signedOf 32 1 ∧ (tileOf wTile).ebits ≤ 32 := by decide

/-- An mmul of slab 0 and one whose slabs are done. -/
def wMul : MEntry := { word := encodeSeisk (.mmul core0 2 0 { gs := .g4, acc := false, trans := false } 0 0), pc := 0, tw := wTile }
def wDone : MEntry := { wMul with progress := progressWord 1 false 0 }

theorem witness_MatrixEngine : (coreAt (wQueue []) 0).mq = [] ∧ engineRuns (wQueue [wMul]) 0 = true ∧ wMul.finished = false ∧
    wDone.finished = true ∧ wMul.slab < slabsOf wMul.cls ∧ wMul.sfmt ≠ .i8 ∧ wDone.opc = 0xA1 ∧
    hasWork (wQueue [wMul]) 0 = true ∧ hasWork wState 0 = false ∧ (coreAt (wQueue [wMul]) 0).actStep < ceilInForce (wQueue [wMul]) 0 := by decide

theorem witness_OptimizerUpdate : (Instr.ostep core0 ⟨0, false, .none⟩ .bf16 .adamw 3 1).legal = true ∧ coreOwner wState 0 = some 0 ∧
    (let a := 2 ^ 48 + 0x600000 - 0x1800; a % 64 = 0 ∧ 2 ^ 48 ≤ a ∧ a + 0x1800 ≤ 2 ^ 48 + 0x600000) ∧
    (let a := 2 ^ 49 + 0x1000000 - 0x1400; a % 64 = 0 ∧ 2 ^ 49 ≤ a ∧ a + 0x1400 ≤ 2 ^ 49 + 0x1000000) ∧
    (modSeal wState 0 (fun y => { y with st := .clean })).gal[(0 : Gal)].stepSeal.st = .clean ∧
    wState.gal[(0 : Gal)].stepSeal.st ≠ .clean ∧ inPoison 0 2 32 wVec 16 = true ∧
    (∃ u k e, val32 0x3F800000 = .fin u k e) ∧ val32 0x7FC00000 = .nan ∧ val32 0x7F800000 = .inf false ∧
    (optElem .sgd .f32 ⟨oneVal, zeroVal, zeroVal, zeroVal, zeroVal, oneVal, oneVal, 0⟩ oneVal zeroVal zeroVal oneVal).bad = false := by
  refine ⟨by decide, by decide, by decide, by decide, by decide, by decide, by decide, ⟨_, _, _, rfl⟩, by decide, by decide, by decide⟩

/-- Queue 0 of core 0 has a ring of 4 entries at the base of the Cask; `enq` entries accepted, `done` finished. -/
def wRing (enq done : Nat) (rq : RQueue) (t : State) : State :=
  fset (fset (rset (setRq t 0 0 rq) (rkgReg 0 8) 0x40000002) (enqOff 0 0) 47 0 enq) (doneOff 0 0) 47 0 done

/-- A fill of the row of `wTile`, as the first entry of the ring. -/
def wFill : RDesc := { kind := 3, add := false, tag := 5, pc := 0, ta := 0, taScale := 0, tb := wTile, tbScale := 0, list := 0, count := 0, fill := 7 }

theorem witness_RackingAcceptance : rackHandle 0 0 wState = none ∧
    rackHandle 0 (2 ^ 63) (wRing 0 0 {} wState) = some 0 ∧ 2 ^ fget (wRing 4 0 {} wState) (rkgReg 0 8) 3 0 ≤ 4 - 0 ∧
    rackChecks wState 0 wFill 0 2 = [] ∧ rackChecks wState 0 { wFill with tb := 0 } 0 2 ≠ [] := by decide

/-- One entry waits; the entry runs; the bytes of the entry are zeros. -/
def wRun : State := wRing 1 0 {} { wState with mem := wState.mem.store (ringSlot (wRing 0 0 {} wState) 0 0 0) (entryBytes wFill 1) false }
def wBusy : State := wRing 1 0 { cur := some wFill } wState
def wZeros : State := wRing 1 0 {} wState

theorem witness_RackingQueues :
    (rackingRuns wRun 0 0 = true ∧ tornDown wRun 0 = false ∧ (coreAt wRun 0).rq[(0 : Fin 2)].cur = none ∧
      doneCount wRun 0 0 < enqCount wRun 0 0 ∧ parseEntry wRun.mem (ringSlot wRun 0 0 0) = some wFill ∧ rackChecks wRun 0 wFill 0 0 = []) ∧
    (parseEntry wZeros.mem (ringSlot wZeros 0 0 0)).any (fun d => decide (rackChecks wZeros 0 d 0 0 ≠ [])) = true ∧
    ((coreAt wBusy 0).rq[(0 : Fin 2)].cur = some wFill ∧ rackingRuns wBusy 0 0 = true ∧ 0 < wFill.rows) ∧
    pieceBad wBusy (some 0) 0 (wFill.piece 0 0 0) = none ∧
    (pieceBad wState (some 0) 0 ({ wFill with tb := wTile - 2 ^ 48 + 0x20000 }.piece 0 0 0)).map (·.1) = some .unmapped ∧
    (pieceBad (wFrame 0xE000000000000000 []) (some 0) 0 ({ wFill with tb := wTile - 2 ^ 48 }.piece 0 0 0)).map (·.1) = some .migrating ∧
    (pieceBad (wFrame 0x8000000000000000 []) (some 0) 0 ({ wFill with tb := wTile - 2 ^ 48 }.piece 0 0 0)).map (·.1) = some .readOnly := by
  decide

/-- The bounds of CHK_CTL's width and of the values. -/
theorem witness_Checksums : (rget wState (chkReg 0 0 0x18)).toNat < 2 ^ (bits (rget wState (chkReg 0 0 0)) 11 6 + 1) ∧
    bits (mkWord [(2, 3), (6, 6)]) 3 2 = 3 ∧ bits (mkWord [(2, 3), (6, 6)]) 11 6 < 7 ∧ bit (rget wState (chkReg 0 0 8)) 3 = false := by decide

/-- The CRC-32C of "123456789" (the example after R375). -/
theorem test_crc32c : crc32c [0x31, 0x32, 0x33, 0x34, 0x35, 0x36, 0x37, 0x38, 0x39] = 0xE3069283 := by decide

/-- A linear FP32 row of 4 elements at Gallery virtual address 0. -/
def wRow : BitVec 256 := BitVec.ofNat 256 (4 * 2 ^ 64 + 2 ^ 80 + 2 ^ 96 + 2 ^ 112 + 2 ^ 128 + 2 ^ 255)

/-- The operation of a barrier accepted first on queue 0 of Gallery 0, and a state whose queue holds `ops`. -/
def wOp : CollOp :=
  { kind := .barrier, fn := ⟨.sum, 0, false, false, false⟩, minus := false, root := 0, core := 0, cluster := 0, pc := 0, ta := 0, tb := 0
    counts := [], n := 0, lr := 1, c := 0, num := 1, opseq := 0, tag := 5, sig := 9 }
def wOps (ops : List CollOp) : State := setCq wState 0 0 { ops := ops, accepted := ops.length }
def wPkt (type0 : Nat) (w3 : Word) (pay : List Byte) : Packet := mkPacket wState 0 5 0 type0 w3 pay 0

theorem witness_CollectiveAcceptance : queueOf wState 0 0 = .bad ∧ queueOf wState 0 (2 ^ 63 + 2 ^ 32) = .coll 0 ∧
    queueOf wState 0 (2 ^ 63 + 2 ^ 32 + 15) = .coll 15 ∧ wState.gal[(0 : Gal)].cq[(0 : Fin 16)].ops.length < 32 ∧
    32 ≤ (wOps (List.replicate 32 wOp)).gal[(0 : Gal)].cq[(0 : Fin 16)].ops.length ∧
    collChecks 2 wRow = [] ∧ collChecks 2 0 ≠ [] ∧
    (match readCounts wState 0 0 1 1 with | .bad => true | _ => false) = true ∧
    (match readCounts wState 0 0 0x20000 1 with | .fault _ => true | _ => false) = true ∧
    (match readCounts (wFrame 0xE000000000000000 []) 0 0 0 1 with | .stall _ => true | _ => false) = true ∧
    (match readCounts wState 0 0 0 1 with | .ok _ => true | _ => false) = true ∧
    countChecks { kind := .barrier, opc := 0xD7, fn := wOp.fn, fnWord := 0, tag := 5 } (tileOf 0) (tileOf 0) 0 0 0 1 [] = [] ∧
    (shares 5 2 1).length = 2 := by decide

theorem witness_CollectiveData : (2 : Nat) ≤ 2 ∧ (0 : Nat) < 2 ∧ (segChunks false 0 0 0 1025)[1]? = some ⟨0, 1, 1024, 1, false, 0⟩ ∧
    (0xFFFFFFFF : Nat) < 2 ^ 32 ∧ val32 0x7FC00000 = .nan ∧ Val.nan ∉ [Val.fin false 1 0] ∧ ([0x3F800000] : List Nat).length ≤ 1024 := by
  decide

theorem witness_CollectiveEvents :
    (wOps []).gal[(0 : Gal)].cq[(0 : Fin 16)].ops = [] ∧
    (wOps [wOp]).gal[(0 : Gal)].cq[(0 : Fin 16)].ops.find? (fun o => decide (o.fn.axis.val = 0 ∧ o.opseq.toNat = 0)) = some wOp ∧
    recvKey (wPkt 0 0 []) ∉ wOp.recv ∧ opOf (wOps [wOp]) 0 0 1 = some wOp ∧
    isOpen wState 1 = false ∧ 32768 ≤ ((0xFFFF : BitVec 16) - 0x7FFF).toNat ∧
    (let u : Unacked := ⟨wPkt 7 3 [], 0⟩
     let o := { wOp with unacked := [u] }
     (wOps [o]).gal[(0 : Gal)].cq[(0 : Fin 16)].ops.find? (fun o => o.unacked.any (fun u => decide (u.pkt.type0 = 7))) = some o ∧
     u.tries < fget wState (colDev 0) 23 16 ∧ fget wState (colDev 0) 23 16 ≤ 255) ∧
    wState.slices[(0 : Fin 4)] = [] ∧ ({ wState with slices := wState.slices.set 0 [⟨0, 0, 1, true, 0⟩] } : State).slices[(0 : Fin 4)] ≠ [] ∧
    (1 : Nat) ≤ wOp.num := by decide

/-- Core 0 waits on `i` since 0 with a limit of 1,000 ns, a launch for 5,000 pending or not. -/
def wWait (i : Instr) (launch : Bool) : State :=
  wCore (fun c => { c with state := .wait, hold := if launch then none else some { instr := i, since := 0 }, waitlim := 1000
                           launchPend := launch, launchat := if launch then 5000 else 0 })

theorem witness_FencesAndWaits :
    ((coreAt (wQueue []) 0).mq = [] ∧ doneCount wState 0 0 = enqCount wState 0 0 ∧ doneCount wState 0 1 = enqCount wState 0 1) ∧
    (coreAt (wQueue [wMul]) 0).mq ≠ [] ∧
    ((coreAt (wRing 1 0 { cur := some wFill, tfault := true, fault := some (1, true, 0) } wState) 0).rq[(0 : Fin 2)].tfault = true) ∧
    queueOf wState 0 0 = .bad ∧ queueOf (wRing 0 0 {} wState) 0 (2 ^ 63) = .racking 0 ∧
    (1 ≤ doneCount (wRing 5 1 {} wState) 0 0 ∧ 1 + ringSize (wRing 5 1 {} wState) 0 0 ≤ enqCount (wRing 5 1 {} wState) 0 0) ∧
    enqCount (wRing 4 1 {} wState) 0 0 < 1 + ringSize (wRing 4 1 {} wState) 0 0 ∧
    (let a := 2 ^ 48 + 0x600000 - 8; a % 8 = 0 ∧ 2 ^ 48 ≤ a ∧ a + 8 ≤ 2 ^ 48 + 0x600000) ∧
    (¬ ((1 : Nat) % 8 = 0)) ∧ wState.mem.isPoisoned (sramAt 0 (2 ^ 48) / 64) = false ∧ mem64 wState.mem (sramAt 0 (2 ^ 48)) = 0 ∧
    (0 : Word).toNat ≤ now wState ∧ now wState < (2 ^ 64 - 1 : Word).toNat ∧
    (deviceRuns (wWait (.nop core0) true) = true ∧ (coreAt (wWait (.nop core0) true) 0).launchPend = true ∧
      (coreAt (wWait (.nop core0) true) 0).state = .wait) ∧
    ((coreAt (wWait (.sclose core0 1) false) 0).hold = some { instr := .sclose core0 1, since := 0 } ∧
      (coreAt (wWait (.sclose core0 1) false) 0).waitlim ≠ 0) := by decide

/-- Gallery 0's seal in a state and step 0, with core 0 its one participant. -/
def wSeal (st : SealSt) : State := modSeal wState 0 (fun y => { y with st := st, parts := if st = .open then [0] else [] })

theorem witness_StepSealInstructions : wState.gal[(0 : Gal)].stepSeal.st = .idle ∧
    (wSeal .open).gal[(0 : Gal)].stepSeal.st = .open ∧ (wSeal .open).gal[(0 : Gal)].stepSeal.step = 0 ∧
    ((0 : BitVec 32) ≠ (getS core0 2 wNums).setWidth 32) ∧ (coreAt (wSeal .open) 0).hold = none ∧
    (sealContribute (modSeal (disarm (wSeal .open) 0) 0 (fun y => { y with parts := [] })) 0).gal[(0 : Gal)].stepSeal.st = .closing ∧
    (wSeal .clean).gal[(0 : Gal)].stepSeal.advanced = false ∧
    (coreAt (wWait (.sclose core0 1) false) 0).hold = some { instr := .sclose core0 1, since := 0 } := by decide

theorem witness_StepSealCloseAndMirror :
    isOpen wState 1 = false ∧ isOpen (wSeal .closing) 0 = true ∧ (wSeal .closing).gal[(0 : Gal)].stepSeal.st = .closing ∧
    (wSeal .closing).gal[(0 : Gal)].stepSeal.gathered = false ∧ (wSeal .closing).gal[(0 : Gal)].stepSeal.phase < 4 ∧
    galRing (wSeal .closing) 0 0 ≤ 1 ∧
    (modSeal (wSeal .closing) 0 (fun y => { y with losses := [(0, 5)] })).gal[(0 : Gal)].stepSeal.losses = [(0, 5)] ∧
    (0 : BitVec 32) ∉ (wSeal .clean).gal[(0 : Gal)].stepSeal.decided ∧ now wState ≤ 0 + fget wState (colGal 0 0x18) 13 0 * 1000 ∧
    wState.gal[(0 : Gal)].mtx.running = false := by decide

theorem witness_StepSealCloseAndMirror_mirror : isOpen wState 1 = false ∧ isOpen wState 0 = true ∧ bit (wPkt 0 (2 ^ 63) []).w3 63 = true ∧
    isCopy wState 0 (wPkt 0 0 []) = false ∧
    (let s := fset wState (colGal 0 0x30) 39 17 1
     0 + 64 ≤ fget s (colGal 0 0x30) 39 17 * 131072 ∧ fget s (colGal 0 0x40) 47 0 = 0 ∧ translate s 0 0 true = .ok 0x20000) ∧
    (modTx wState 0 false (fun y => { y with running := true, size := 64 })).gal[(0 : Gal)].mtx.running = true ∧
    (virtRead wState 0 0 64).isSome = true ∧ virtRead wState 0 0x20000 64 = none := by decide

theorem witness_ControlRegistersAndTimedWrites : (Instr.csrr core0 3 0).legal = true ∧
    ((0x018 : Nat) ≤ 0x018 ∧ (0x01F : Nat) ≤ 0x01F) ∧ (coreAt wState 0).launchPend = false ∧ coreOwner wState 0 = some 0 ∧
    (fields (engReg 0 0)).isSome = true ∧ (fields (0x05000000 + 8 * 0x3F)).isSome = true ∧ fields (vecReg 0 (8 * 0xFF)) = none ∧
    (bits (0x3E7 : Word) 39 0 < 1000 ∧ 1000 ≤ bits (0x3E8 : Word) 39 0) ∧ wState.mgmt[(0 : Fin 4)].launchPend = false := by decide

/-- FRQ_CTL is locked for Gallery 1, a field with an illegal value, and one write-one-to-clear. -/
theorem witness_RegisterAccess : deviceRuns { wState with chipHold := some 0 } = false ∧ deviceRuns wState = true ∧
    reaches wState (.ctx 0) 0x02001000 true = false ∧ reaches wState (.ctx 0) 0x02000000 true = true ∧
    (portOf 0xFFFFFFF8 = none ∧ fields 0xFFFFFFF8 = none) ∧ (fields 0x02000000).isSome = true ∧ portOf 0x02000000 = none ∧
    (∃ f ∈ (fields (engReg 0 0x20)).getD [], f.2.2 = .rw ∧ fieldLegal wState (engReg 0 0x20) f.2.1 (bits (0 : Word) f.1 f.2.1) 0 = false) ∧
    (∃ f ∈ (fields (engReg 0 0)).getD [], f.2.2 = .w1c ∧ f.1 = f.2.1) := by
  refine ⟨by decide, by decide, by decide, by decide, by decide, by decide, by decide, ?_, ?_⟩ <;> decide

/-- Launch slot 0 armed for 5,000 with a register that may be written; a write of it held. -/
def wSlot : State := rset (rset wState 0x0B002000 5000) 0x0B002018 1
def wHeld (l : List TimedWrite) : State := { wState with tb := { wState.tb with held := l } }

theorem witness_ControlRegistersAndTimedWrites_timed : deviceRuns { wState with chipHold := some 0 } = false ∧
    ((1 : Word).getLsbD 0 = true ∧ bit (rget wState 0x0B000818) 0 = false ∧ (rget wState 0x0B000800).toNat < now wState + 4000) ∧
    writable 0x01000088 = true ∧ writable 0xFFFFFFF8 = false ∧
    (wHeld [⟨0, 5, 0x01000088, 3⟩]).tb.held = [⟨0, 5, 0x01000088, 3⟩] ∧
    (([⟨0, 5, 0, 0⟩, ⟨1, 5, 0, 0⟩] : List TimedWrite).map (fun u => (u.at_, u.slot))).Nodup ∧
    heldBefore wState ⟨0, 5, 0, 0⟩ ⟨1, 5, 0, 0⟩ = true := by decide

theorem witness_ContextControl : (coreAt (wCore (fun c => { c with state := .empty })) 0).state = .empty ∧
    (let a := 0x80000; a % 0x80000 = 0 ∧ a < 2 ^ 41 ∧ coreOwner wState 0 = some 0 ∧ groupOwner wState (a / 2 ^ 37) = some 0) ∧
    (coreAt (wCore (fun c => { c with state := .saving })) 0).state = .saving ∧ (coreAt wState 0).mq.length ≤ 4 ∧
    (∀ ch : Fin 4, (coreAt wState 0).chk[ch].part.length ≤ 128) ∧
    (let m := wState.mem.store 0x80000 (leBytes 8 1) false
     bits (mem64 m 0x80000) 15 0 = 1 ∧ bits (mem64 m 0x80010) 20 16 = 0 ∧ bits (mem64 m 0x80000) 26 24 = (0 : Gal).val ∧
       mem64 m 0x80008 = gen wState 0) ∧
    wState.mem.poison = [] ∧
    ((coreAt (wCore (fun c => { c with state := .halted })) 0).state = .halted ∧ bits (coreAt wState 0).ecause 7 0 = 0) ∧
    tornDown wState 0 = false ∧ (coreAt (wRing 1 0 { reload := true } wState) 0).rq[(0 : Fin 2)].reload = true := by decide

/-- Saved by core 0, the image is restored by core 1. -/
theorem witness_SaveRestoreRoundTrip : let s := wCore (fun c => { c with state := .saving, ctxpa := 0x80000 })
    let x := modCore (rset (wCore (fun c => c)) 0 0) 1 (fun c => { c with state := .restoring, ctxpa := 0x80000 })
    (coreAt s 0).state = .saving ∧ (coreAt s 0).ctxpa.toNat % 0x80000 = 0 ∧ (coreAt s 0).s[0] = 0 ∧ (coreAt s 0).p[0] = 0 ∧
    (rget s (rkgReg 0 0)).toNat % 2 ^ 14 = 0 ∧ (coreAt x 1).state = .restoring ∧ (coreAt x 1).ctxpa = (coreAt s 0).ctxpa := by decide

def wNan (core unit : Nat) : NanEvent := { seisk := true, cycle := 7, core := core, unit := unit, w0 := 0, w1 := 0, w2 := 0, w3 := 0, pc := 0, cls := 2 }

theorem witness_ExceptionsAndNanTraps_arbiter : wState.gal[(0 : Gal)].fired = false ∧
    (modGal wState 0 (fun x => { x with fired := true })).gal[(0 : Gal)].fired = true ∧
    nanWinner [wNan 5 2, wNan 5 1, wNan 6 0] = some (wNan 5 1) ∧ nanWinner [] = none ∧ (15 : Nat) < 16 ∧
    (coreAt wState 5).state = .run ∧ (coreAt (wCore (fun c => { c with state := .stopped })) 0).state = .stopped := by decide

theorem w_chain (h : Nat) : chainOf wState h = if h = 0 then [1] else [] := by
  by_cases e : h = 0
  · subst e; decide
  · have : anchor wState h = 0 := by simp [anchor, wState, look, Ne.symm e]
    simp [chainOf, this, e, bit]

/-- The Frame Map of `wState` is well formed. -/
theorem w_map_ok : FrameMapOk wState := by
  refine ⟨by decide, by decide, by decide, by intro z hz; simp [wState] at hz, ?_⟩
  intro h _
  simp only [w_chain]
  split
  · subst h; refine ⟨by decide, by decide, ?_⟩
    intro i hi; simp only [List.mem_singleton] at hi; subst hi
    refine ⟨by decide, by decide, ?_⟩
    intro j hj _ _; simpa using hj
  · simp

/-- `wState` with FMP_A and FMP_B. -/
def wFmp (a b : Word) : State := rset (rset wState 0x06000010 a) 0x06000018 b

theorem witness_FrameMapCommands :
    -- frame 2 is made ZEROED, frame 3 RETIRED, the rest are neither
    let s := { wFmp 2 5 with walker := { wState.walker with entries := [(1, 0xA000000000000000), (2, 2 ^ 59), (3, 2 ^ 60)] } }
    bits (rget s 0x06000010) 23 0 = 2 ∧ feRetired (frameEntry s 3) = true ∧ feZeroed (frameEntry s 2) = true ∧
    feZeroed (frameEntry s 4) = false ∧ feValid (frameEntry s 2) = false ∧ feValid (frameEntry s 1) = true ∧
    feMigrating (frameEntry s 1) = false ∧ feMigrating (frameEntry (wFrame 0xE000000000000000 []) 1) = true ∧
    walkFrame s 0 5 = none ∧ walkFrame s 0 0 = some 1 ∧ groupOwner s 0 = some 0 ∧ groupOwner s 1 ≠ some 0 ∧
    (chainOf s (anchorIndex 0 5)).length < 16 ∧ 1 ∈ chainOf s (entryHash (frameEntry s 1)) ∧
    (2 ^ 25 ≤ (rget (wFmp (2 ^ 25) 0) 0x06000010).toNat) ∧
    (0 + 8 ≤ backedFrames s 0 ∧ bit (rget s (celReg 0 0)) 14 = false ∧ (8 : Nat) % 2 ^ 20 + 1 ≤ 2 ^ 20) := by decide

theorem witness_WalksAndMigrations : translate wState 0 0x20000 false = .unmapped ∧ translate wState 0 0 true = .ok 0x20000 ∧
    (wState.walker.walks.filter (fun k => k.started)).length < 64 ∧ bit (rget wState 0x06000080) 63 = false ∧
    bit (rget (rset wState 0x06000080 (BitVec.ofNat 64 (2 ^ 63 + 2 * 2 ^ 24 + 1))) 0x06000080) 63 = true ∧ zeroing wState 2 = false ∧
    (wCore (fun c => { c with hold := some { instr := .nop core0, since := 0 } })).walker.stalls = [] ∧
    live (coreAt wState 0) = true := by decide

theorem witness_CellarErrors : let s := rset wState (celReg 0 0) 0
    bit (rget s (celReg 0 0)) 11 = false ∧ celMode s 0 ≠ 2 ∧ s.mem.deadAt 0 = false ∧ (3 : Nat) < 4 ∧
    (wFrame 0xA000000000000000 [0x801]).mem.isPoisoned 0x801 = true ∧
    (let u := { s with group := s.group.set 0 { s.group[(0 : Fin 16)] with reread := [5] } }; 5 ∈ u.group[(0 : Fin 16)].reread) ∧
    bit (rget wState (celReg 0 0x18)) 8 = true ∧ s.group[(0 : Fin 16)].patrol < 2 ^ 31 ∧
    (let u := { s with group := s.group.set 0 { s.group[(0 : Fin 16)] with ch := s.group[(0 : Fin 16)].ch.set 0 { copying := [(2, 0x24, 7)] } } }
     u.group[(0 : Fin 16)].ch[(0 : Fin 16)].copying = [(2, 0x24, 7)]) := by decide

theorem witness_CellarGroups :
    let s := rset wState (celReg 0 0) 0
    (bit (rget s (celReg 0 0)) 11 = false ∧ celMode s 0 ≠ 2 ∧ rising (s.dev.map Prod.fst) = true) ∧
    chState (fset s (celReg 0 0x100) 9 8 0) 0 0 = 0 ∧ chState (fset s (celReg 0 0x100) 9 8 3) 0 0 = 3 ∧
    (let u := (List.range 16).foldl (fun u c => fset u (celReg 0 (0x100 + 8 * c)) 9 8 (if c = 3 then 1 else 0)) s
     (∀ j < 16, chState u 0 j = 1 ↔ j = 3) ∧ (∀ j < 16, chState u 0 j ≠ 2)) ∧
    (∃ e ∈ s.walker.entries, e.1 / 2 ^ 20 = 0 ∧ feValid e.2 = true) ∧ (¬ ∃ e ∈ s.walker.entries, e.1 / 2 ^ 20 = 1 ∧ feValid e.2 = true) ∧
    bit (rget (fset s (celReg 0 0) 13 13 1) (celReg 0 0)) 13 = true ∧
    (groupOwner s 0 = some 0 ∧ isOpen s 0 = true) ∧
    (let u := rset s (celReg 1 0) 0
     groupOwner u 1 = none ∧ rget u (celReg 1 0) = 0 ∧ u.group[1].exiting = false ∧ groupMigrating u 1 = false ∧ u.group[1].patrol = 0) ∧ bits (231 : Word) 7 0 ≤ 231 ∧ 231 < bits (232 : Word) 7 0 := by decide

/-- Port 0 in link state `st`, its Catalogue entry VALID or not. -/
def wLink (p : PortId) (st : Nat) (nbr : Word) : State :=
  fset { wState with catActive := { wState.catActive with nbr := wState.catActive.nbr.set p nbr } } (lnkReg p.val 0) 3 0 st

theorem witness_LinkStates :
    linkState (wLink 0 0xB 0) 0 = 0xB ∧ linkState (wLink 0 5 0) 0 = 5 ∧ linkState (wLink 0 8 0) 0 = 8 ∧ linkState (wLink 0 7 0) 0 = 7 ∧
    catValid wState = false ∧ catValid (fset wState (trlReg 0) 0 0 1) = true ∧
    bit (wLink 0 0xB (2 ^ 63)).catActive.nbr[(0 : PortId)] 63 = true ∧ wState.ports[(0 : PortId)].stopping = false ∧
    optical 7 = false ∧ optical 8 = true ∧ wState.inbox = [] ∧ sharedGals wState 0 = [] ∧ partnerState (wLink 0 5 0) 0 = 0 ∧
    identWhole wState.ports[(0 : PortId)] = none ∧ rising ((wLink 0 5 0).dev.map Prod.fst) = true := by decide

theorem witness_LinkFrames : deviceRuns (wLink 0 7 0) = true ∧ wState.ports[(0 : PortId)].replay = [] ∧
    wState.ports[(0 : PortId)].ackOwed < 4096 ∧ wState.ports[(0 : PortId)].retry.length < 512 ∧
    wState.ports[(0 : PortId)].failedSeq = none ∧ (creditReturn wState.ports[(0 : PortId)]).2 = 0 ∧
    (wPkt 0 0 []).w0 ≠ 0 ∧ (wPkt 0 0 []).payload.length = 32 * (wPkt 0 0 []).len ∧
    frameCrc ⟨List.replicate 8 0, 0⟩ = false := by decide

/-- `wState` with a configuration word of the Catalogue: `hdr0`, and Gallery 0's entry. -/
def wCat (hdr0 gal : Word) : State :=
  { wState with catActive := { wState.catActive with hdr0 := hdr0, gal := wState.catActive.gal.set 0 gal } }

/-- In a ring of 8 on axis 0 the packet for coordinate 3 goes up from 0, one for 5 down, one for 4 either way. -/
theorem witness_TrellisAndRouting :
    agentOwner wState (.cluster 0) = some (some 0) ∧ (some (some (0 : Gal)) : Option (Option Gal)) ≠ some (some 1) ∧
    linkState (fset (wLink 0 5 0) (lnkReg 0 0) 39 36 5) 0 = 5 ∧ partnerState (fset (wLink 0 5 0) (lnkReg 0 0) 39 36 5) 0 = 5 ∧
    (wPkt 0 0 []).type = 5 ∧ (wPkt 0 0 []).len ≤ 66 ∧ (wPkt 0 0 []).dst = 0 ∧
    isOpen wState 0 = true ∧ galResetting wState 0 = false ∧
    (let s := wCat (2 ^ 16 + 7 * 2 ^ 32) (2 ^ 48)
     let go := fun (d : Nat) => productive s (mkPacket s 0 5 d 0 0 [] 0) 0
     go 0 = ⟨false, false⟩ ∧ go 3 = ⟨true, false⟩ ∧ go 5 = ⟨false, true⟩ ∧ go 4 = ⟨true, true⟩) ∧
    (let s := { wState with ports := wState.ports.set 0 { wState.ports[(0 : PortId)] with inbuf := [(0, wPkt 0 0 [])] } }
     s.ports[(0 : PortId)].inbuf = [(0, wPkt 0 0 [])] ∧ deviceRuns s = true) := by decide

theorem witness_CatalogueCommit :
    let up := fun (v : Word) => { wState with catShadow := { wState.catShadow with hdr0 := v } }
    (bit (rget (fset wState 0x08000000 0 0 1) 0x08000000) 0 = true ∧ bit (rget wState 0x08000008) 0 = false) ∧
    bits (up 0).catShadow.hdr0 15 0 ≤ bits wState.catActive.hdr0 15 0 ∧
    bits wState.catActive.hdr0 15 0 < bits (up 1).catShadow.hdr0 15 0 ∧
    bits (up (1 + 8 * 2 ^ 32)).catShadow.hdr0 47 32 % 16 > 7 ∧ bits (up 1).catShadow.hdr0 47 32 % 16 ≤ 7 ∧
    bits wState.catActive.hdr0 63 32 = bits (up 1).catShadow.hdr0 63 32 ∧
    bits wState.catActive.hdr0 63 32 ≠ bits (up (1 + 2 ^ 32)).catShadow.hdr0 63 32 := by decide

theorem witness_TimebaseExchanges :
    deviceRuns { wState with chipHold := some 0 } = false ∧ linkState (wLink 0 5 0) 0 = 5 ∧ linkState wState 0 ≠ 5 ∧
    tmbState (fset wState 0x0B000000 2 0 3) = 3 ∧ tmbState (fset wState 0x0B000000 2 0 4) = 4 ∧
    (rising (State.reset.dev.map Prod.fst) = true ∧ ∀ g : Gal, isOpen State.reset g = false) ∧
    (setPort wState 0 { wState.ports[(0 : PortId)] with tbReq := some (7, 100) }).ports[(0 : PortId)].tbReq = some (7, 100) ∧
    (100 + 50000 * 65536 < (BitVec.ofNat 80 (101 + 50000 * 65536)).toNat) ∧ ((BitVec.ofNat 80 (100 + 50000 * 65536)).toNat ≤ 100 + 50000 * 65536) ∧
    wState.tb.declined = [] ∧ bit (rget (fset wState 0x0B000008 1 1 1) 0x0B000008) 1 = true := by decide

theorem witness_PowerClocksAndHeat :
    bit (rget (fset wState 0x0E000008 0 0 1) 0x0E000008) 0 = true ∧ bit (rget (fset wState 0x0E000008 0 0 0) 0x0E000008) 0 = false ∧
    wState.pins.pwrgood = true ∧ wState.pins.refclk = true ∧ rising (wState.dev.map Prod.fst) = true ∧
    (List.replicate 40 (0 : BitVec 16)).length = 40 ∧ wState.pins.loopCeil ≤ 8 ∧ wState.pins.tripped = false ∧
    bit (rget (fset wState 0x10000008 1 0 3) 0x10000008) 1 = true ∧ bit (rget (fset wState 0x10000008 1 0 3) 0x10000008) 0 = true ∧
    (999 : Nat) < 1000 ∧ wState.pins.resetN = true ∧ wState.chipHold = none ∧ bootState wState ≠ 0 ∧
    ({ wState with chipHold := some 0 } : State).chipHold ≠ none ∧ (720 : Nat) < 725 := by decide

/-- Endpoint `e` holds, in session 7, the accepted command of TAG 5 with operation `op` and its argument words. -/
def wRec (op : Nat) (args : List Word) : ShtCmdRec := { tag := 5, op := op, args := 0 :: args, since := 0 }
def wCmd (e : Ep) (op : Nat) (args : List Word) : State :=
  setEp (fset wState 0x0E000008 0 0 1) e { session := some 7, maxlen := 8192, cmds := [wRec op args] }

/-- Every command named by `HostCommands`, `ManagementCommands` and `StorageServices` starts there. -/
theorem w_starts : (∀ op ∈ [1, 2, 3, 4, 5, 6, 7, 8, 9, 10, 11, 12, 0x10, 0x11, 0x12, 0x13], Starts (wCmd (.host 0) op []) (.host 0) 5 op (wRec op [])) ∧
    (∀ op ∈ [2, 0x20, 0x21, 0x22, 0x23, 0x24, 0x25, 0x30, 0x31, 0x32, 0x33, 0x34, 0x35, 0x36, 0x40, 0x41, 0x43, 0x44, 0x45],
      Starts (wCmd .mgmt op []) .mgmt 5 op (wRec op [])) := by
  unfold Starts; constructor <;> decide

theorem witness_HostCommands :
    findNew (endpoint wState (.host 0)) 5 1 = none ∧ findCmd (endpoint (wCmd (.host 0) 1 []) (.host 0)) 5 1 = some (wRec 1 []) ∧
    (endpoint (wCmd (.host 0) 1 []) (.host 0)).session = some 7 ∧ (wRec 1 []).live = true ∧
    (∀ i < 8, bits (0x1011000F801F0180 : Word) (8 * i + 7) (8 * i) / 32 % 4 = 0) ∧ (127 : Word).toNat ≤ 127 ∧
    (coreAt (wCore (fun c => { c with state := .empty })) 0).state = .empty ∧ (coreAt wState 0).state ≠ .empty ∧
    (2 ^ 17 : Word).toNat % 2 ^ 17 = 0 ∧ (64 : Word).toNat ≤ 64 ∧
    2 ^ 48 < (2 ^ 48 - 2 ^ 17 : Word).toNat + 2 * 2 ^ 17 ∧ walkFrame wState 0 0 = some 1 ∧ walkFrame wState 0 1 = none ∧
    (csrWord wState 0 1).isSome = true ∧ csrWord wState 0 0x3FF = none := by decide

theorem witness_ManagementCommands :
    ((endpoint (wCmd .mgmt 0x20 []) .mgmt).cmds.find? (fun c => decide (c.tag = 5 ∧ c.op = 0x20) && c.started)) = none ∧
    isOpen wState 0 = true ∧ isOpen wState 1 = false ∧ takenOpen wState 1 1 0 = true ∧ takenOpen wState 1 2 2 = false ∧
    tearing wState 1 = false ∧ takenClearing wState 1 2 2 = false ∧ groupsExiting wState 1 = false ∧ tmbState wState ≠ 3 ∧
    catValid wState = false ∧ wState.retire = [] ∧ (0x12000000 : Word).toNat ≥ 0x12000000 ∧ (8 : Word).toNat % 8 = 0 ∧
    (readReg wState .curator 0x0D000000).isSome = true ∧ readReg wState .curator 0x11FFFFF8 = none ∧
    groupOwner wState 0 = some 0 ∧ groupOwner wState 1 = none ∧ bits (BitVec.ofNat 64 (231 * 2 ^ 32)) 39 32 ≤ 231 ∧
    component 0x100 = true ∧ component 0x10000 = false ∧ wState.gal[(0 : Gal)].mtx.running = false ∧ wState.gal[(0 : Gal)].mrx.accept = none := by
  decide

/-- A message of session 7 with SEQ 1 and its MAC, for the host endpoint of Gallery 0. -/
def wMsg (kind : Nat) (body : List Byte) : Datagram := ⟨0xFFFF00000000 + 9, 24201, shtSeal [] (shtBytes (.host 0) kind 7 1 0 body)⟩
def wHost : State := rset (fset (wCmd (.host 0) 1 []) 0x0F000030 1 0 1) 0x0F000020 9

theorem witness_HostMessages :
    InSession wHost (.host 0) (wMsg 0x10 (List.replicate 64 0)) 0x10 ∧ InSession wHost (.host 0) (wMsg 0x03 []) 0x03 ∧
    InSession wHost (.host 0) (wMsg 0x20 (List.replicate 20 0)) 0x20 ∧ InSession wHost (.host 0) (wMsg 0x21 (List.replicate 16 0)) 0x21 ∧
    InSession wHost (.host 0) (wMsg 0x30 (List.replicate 16 0)) 0x30 ∧
    (∃ u, InOrder wHost (.host 0) (wMsg 0x30 (List.replicate 16 0)) u) := by
  refine ⟨by unfold InSession; decide +kernel, by unfold InSession; decide +kernel, by unfold InSession; decide +kernel,
    by unfold InSession; decide +kernel, by unfold InSession; decide +kernel, ?_⟩
  refine ⟨_, by decide +kernel, by decide +kernel, by decide +kernel, by decide +kernel, rfl⟩

theorem witness_StorageServices :
    (wState.gal[(0 : Gal)].targets[(0 : Fin 4)].opening = none ∧ wState.gal[(0 : Gal)].targets[(0 : Fin 4)].set = false) ∧
    (∀ k : Fin 16, wState.streams[k].active = false) ∧
    (match virtGet wState 0 0x1FFF8 8 with | .ok _ => true | _ => false) = true ∧
    (match virtGet wState 0 0x20000 8 with | .error (.unmapped, _) => true | _ => false) = true ∧
    findConn wState 1 = none ∧ (0x1FFF8 : Nat) % 2 ^ 17 + 8 ≤ 2 ^ 17 ∧ outstanding wState 0 = 0 := by decide

/-- Gallery 0 in the phase `t` of a teardown, with a reset or none. -/
def wTear (t : TearPhase) (r : Option (Scope × Nat × Nat)) : State := modGal wState 0 (fun x => { x with tear := t, reset := r })

/-- One entry of a KIND at the front of Gallery 0's queue, of core 0, and its class. -/
def wEntry (kind cls : Nat) (w2 : Word) : State :=
  { wState with frq := wState.frq.set 0 { ents := [⟨mkWord [(56, cls), (48, kind), (43, 1), (39, 1)], 0, w2, 8, 0, 0⟩], handling := true } }

theorem witness_ResetsAndReports :
    isOpen wState 1 = false ∧ isOpen wState 0 = true ∧ wState.gal[(0 : Gal)].tear = .none ∧
    (wTear .draining none).gal[(0 : Gal)].tear = .draining ∧ (wTear .clearing (some (.compute, 5, 0))).gal[(0 : Gal)].reset = some (.compute, 5, 0) ∧
    (wTear .zeroing (some (.gallery, 5, 0))).gal[(0 : Gal)].tear = .zeroing ∧ genref wState 0 = 0 ∧ wState.gal[(0 : Gal)].resetCmds = [] ∧
    (∀ c < 16, ownsGroup wState 0 c = true → bit (rget wState (celReg c 0)) 14 = false) ∧
    rackingBusy (teardownBegin wState 0) 0 = false ∧ ownsCluster wState 0 1 = false ∧
    wState.frq[(1 : Fin 9)].ents = [] ∧ wState.frq[(0 : Fin 9)].handling = false ∧
    (let x := (wEntry 3 0 1).frq[(0 : Fin 9)].ents
     (x.map (fun e => (bits e.w0 55 48, bits e.w0 59 56, bit e.w0 43, bit e.w0 39))) = [(3, 0, true, true)] ∧ translate wState 0 8 false = .ok 0x20008) ∧
    (coreAt (wCore (fun c => { c with state := .stopped })) 0).state = .stopped ∧ coreOwner wState 0 = some 0 ∧ wState.replay.active = false ∧
    ({ wState with replay := { active := true } } : State).replay.active = true ∧
    wState.deferred = [] ∧ ({ wState with deferred := [⟨3, 0, 0, 0, 0, 0⟩] } : State).deferred = [⟨3, 0, 0, 0, 0, 0⟩] ∧ advAllowed wState = true ∧
    replayMode wState 0 = false ∧ winOf (2 ^ 48) 2048 = .cask ∧ winOf (2 ^ 49) 2048 = .reserve := by decide

/-- BOOT WAITMAN (1) or LOADING (2). -/
def wBoot (n : Word) : State := { wState with dev := (0x0D000000, n) :: wState.dev.tail }

theorem witness_BootAndProvenance : wState.pins.pwrgood = true ∧ bootState (wBoot 1) = 1 ∧ bootState (wBoot 2) = 2 ∧
    (wBoot 1).prov.mboxComplete = false ∧ (20684 : BitVec 24).toNat + 1 ≤ 20685 ∧ 20685 < (20684 : BitVec 24).toNat + 2 ∧
    wState.prov.log.length < 256 ∧ (3 : Fin 8).val < 4 ∧ smbSelectable 0x0C000028 = true ∧ smbSelectable 0x10000030 = true ∧
    smbSelectable 0 = false ∧ ({ wState with pins := { wState.pins with smbSel := 0x10000030 } } : State).pins.smbSel.toNat = 0x10000030 ∧
    bit (rget wState 0x0D000000) 14 = false ∧ bit (rget (wBoot (2 ^ 14 + 4)) 0x0D000000) 14 = true ∧
    ({ wState with pins := { wState.pins with pwrgood := false } } : State).pins.pwrgood = false := by decide

theorem witness_StepKeepsTables : Canonical { wState with pending := [.nop core0] } ∧
    ∃ t, step { wState with pending := [.nop core0] } = .next t := by
  refine ⟨?_, _, rfl⟩
  unfold Canonical
  refine ⟨by decide, by decide, by decide, by decide, by decide, by decide, by decide, by decide, by decide, ?_⟩
  intro u h; cases h

theorem witness_SeiskWordsRoundTrip : (Instr.add core0 31 31 31).hart = some core0 ∧ (Instr.add core0 31 31 31).legal = true ∧
    plainInstr (.add core0 31 31 31) = true ∧ (decodeSeisk core0 1).isSome = true := by decide

theorem witness_StepRunsFront : ({ wState with pending := [.nop core0] } : State).pending = [.nop core0] ∧ wState.pending = [] ∧
    deviceRuns wState = true ∧ deviceRuns { wState with chipHold := some 0 } = false := by decide

/-! ### Examples of the spec -/

/-- After R236: an address of group 5, and the same one after channel 3 is retired. -/
theorem test_interleave : cellOf wState 0x00A002461A40 = (9, 2, 0x24) ∧
    cellOf { wState with mem := { wState.mem with ways := [(5, 3)] } } 0x00A002461A40 = (9, 0xA, 0x26) := by decide

/-- After R254: the anchor index of virtual frame 0x802 of Gallery 2. -/
theorem test_anchor : anchorIndex 2 0x802 = 0x400802 := by decide

/-- Table 5-4's example: 464.0 and 472.0 to E4M3 under RN and RZ, with and without SAT. -/
theorem test_e4m3 : (convVal .e4m3 .rn false .f32 (val32 0x43E80000)).1 = 0x7E ∧ (convVal .e4m3 .rn false .f32 (val32 0x43EC0000)).1 = 0x7F ∧
    (convVal .e4m3 .rn true .f32 (val32 0x43EC0000)).1 = 0x7E ∧ (convVal .e4m3 .rz false .f32 (val32 0x43EC0000)).1 = 0x7E := by decide

/-- After R163: block 0 of the microscaling example, its scale and codes. -/
theorem test_mx_block : let b := mxBlock .e4m3 .f32 .rn (([0x44800000, 0x41400000, 0x3FAC0000, 0x3F800000, 0x34000000, 0xBB800000].map val32 ++ List.replicate 26 (val32 0)))
    b.scale = 0x81 ∧ (b.codes.map (·.1)).take 6 = [0x78, 0x44, 0x2B, 0x28, 0, 0] ∧ (b.codes.filter (fun c => c.2.2)).length = 2 := by decide

/-- After R166: the Codec's block. -/
theorem test_codec_block : let b := sfBlock ([0x3B800000, 0xB3000000, 0x34000001].map val32 ++ List.replicate 29 (val32 0))
    b.1 = 0x68 ∧ b.2.1.take 3 = [0x7800, 0xB400, 0x3C00] := by decide

/-- Table 4-3: the tree of four, the sequence, and what the Vat receives. -/
theorem test_dot_product :
    let ps := List.map (fun (c : Nat) => ({ code := c } : Term))
      [0x3F800000, 0x33800000, 0x33800000, 0x33800000, 0xBF800000, 0x33800000, 0x33800000, 0x33800000]
    (groupSum addTerm 2 (ps.take 4)).code = 0x3F800001 ∧ (groupSum addTerm 2 (ps.drop 4)).code = 0xBF7FFFFD ∧
    (sumGroups addTerm 4 2 2 ps {}).code = 0x34A00000 := by decide

/-- After R178: the first six ranks of the TOPK example. -/
theorem test_topk : (topK 6 [(0, 0x40000000), (1, 0x7FA00000), (2, 0x7F800000), (3, 0x40000000), (4, 0x80000000), (5, 0x40600000), (6, 0xBF800000)]).map
      (fun e => (e.1, rankCode e.2)) = [(1, 0x7FC00000), (2, 0x7F800000), (5, 0x40600000), (0, 0x40000000), (3, 0x40000000), (4, 0)] := by decide

/-- Table 10-5: the reduce steps of elements 0 and 1. -/
theorem test_reduce_steps :
    ([0x33800000, 0x33800000, 0xBF800000].foldl (fun acc x => (combineOne .sum false acc x).1) 0x3F800000) = 0 ∧
    ([0x33800000, 0xBF800000, 0x3F800000].foldl (fun acc x => (combineOne .sum false acc x).1) 0x33800000) = 0x34000000 := by decide

/-- Table 9-9: word 0 of the packet's header at injection, its directions at (2, 5, 13, 9), and straight on over the dateline. -/
theorem test_route :
    let at_ := fun (c : Nat) => rset { wState with catActive := { wState.catActive with
      hdr0 := BitVec.ofNat 64 (c * 2 ^ 48 + 0xFF77 * 2 ^ 32 + 0xF * 2 ^ 16 + 7), gal := wState.catActive.gal.set 3 0x8004FB7702000A31 } } 0x0F003060 0x2C
    let p := mkPacket (at_ 0x9D52) 3 1 0x9262 0 0 (List.replicate 2112 0) 0
    p.w0 = 0x0A31672C00004201 ∧ bits p.w1 63 32 = 0x92629D52 ∧
    [0, 1, 2, 3].map (productive (at_ 0x9D52) p) = [⟨false, false⟩, ⟨true, false⟩, ⟨true, false⟩, ⟨false, false⟩] ∧
    productive (at_ 0x9F62) p 2 = ⟨true, false⟩ := by decide

/-- After R359: the first words of the CTX_START message. -/
theorem test_message : ((List.range 7).map (msgWord (shtBytes (.host 2) 0x10 7 12 9
      (leBytes 8 0x5100000004 ++ leBytes 8 0x25 ++ leBytes 8 0x40000000 ++ List.replicate 40 0)))) =
    [0x0110020000000007, 0x0000000C00000009, 0x0000004000000000, 0, 0x0000005100000004, 0x25, 0x40000000] := by decide

/-- Tables 2-8 and 3-1: the guarded vfma, and the word of vcred.topk. -/
theorem test_words : decodeSeisk core0 0x20082363 = some (.vfma core0 ⟨2, false, .none⟩ .f32 .dyn 3 1 2) ∧
    encodeSeisk (.vcred core0 ⟨0, false, .none⟩ .f32 (.topk 6) false 5 6 4) = 0x00001A0003008578 := by decide

/-- Table 12-8: KIND of a stream slot is 0 at reset; Table 11-4: TMB_RATE. -/
theorem test_reset_registers : blockWord State.reset 0x0E000100 = 0 ∧ blockWord State.reset 0x0B000020 = 4569114145 := by decide

/-! ### States in which the completion statements' hypotheses hold -/

theorem witness_CoreEventsComplete :
    (engineRuns (wQueue [wMul]) 0 = true ∧ wMul.finished = false ∧ 0 < ({ wMul with stat := 2 ^ 16 } : MEntry).rows ∧ wMul.drop.getLsbD 0 = false ∧ 0 ∈ wMul.slabCols ∧
      wDone.finished = true ∧ (∃ e ∈ (coreAt (wQueue [wMul]) 0).mq, e.finished = false)) ∧
    (rackingRuns wRun 0 0 = true ∧ tornDown wRun 0 = false ∧ parseEntry wRun.mem (ringSlot wRun 0 0 0) = some wFill ∧
      rackChecks wRun 0 wFill 0 0 = [] ∧ pieceBad wBusy (coreOwner wBusy 0) 0 (wFill.piece 0 0 0) = none) ∧
    (let w : Word := 0x40000002; bits w 31 30 = 1 ∧ 2 ≤ bits w 3 0 ∧ bits w 3 0 ≤ 8 ∧ bits w 23 8 = 0) ∧
    (chkBusy wState 0 0 = false ∧ bit (rget wState (chkReg 0 0 8)) 3 = false) ∧
    (coreOwner wState 0 = some 0 ∧ (coreAt wState 0).state = .run ∧ groupOwner wState 0 = some 0) ∧
    (deviceRuns (wWait (.nop core0) true) = true ∧ (coreAt (wWait (.nop core0) true) 0).launchPend = true) ∧
    ((fields 0x02000000).isSome = true ∧ portOf 0x02000000 = none ∧ (0x02000000 : Nat) / 0x1000000 = 2) := by decide

theorem witness_FabricAndSealEventsComplete :
    (wOps [wOp]).gal[(0 : Gal)].cq[(0 : Fin 16)].ops.find? (fun o => decide (o.fn.axis.val = 0 ∧ o.opseq.toNat = 0)) = some wOp ∧
    recvKey (wPkt 0 0 []) ∉ wOp.recv ∧ wOp.early = [] ∧ isOpen wState 0 = true ∧
    (let o := { wOp with started := true }; o.stalled = false ∧ o.held = [] ∧ o.unacked = [] ∧ o.tasks = []) ∧
    ((0xFFFF : BitVec 16).getLsbD 15 = true) ∧ (wSeal .closing).gal[(0 : Gal)].stepSeal.st = .closing ∧
    (wSeal .closing).gal[(0 : Gal)].stepSeal.cleanWait = false ∧ (wSeal .closing).gal[(0 : Gal)].stepSeal.losses = [] ∧
    (wSeal .closing).gal[(0 : Gal)].mtx.running = false ∧ wState.gal[(0 : Gal)].fired = false ∧ nanWinner [wNan 5 1] = some (wNan 5 1) := by decide

theorem witness_MemoryEventsComplete :
    wState.walker.cmdEnd ≤ wState.clk ∧ wState.walker.badA = [] ∧ celMode wState 0 = 0 ∧ bit (rget (fset wState (celReg 0 0) 11 11 0) (celReg 0 0)) 11 = false ∧
    wState.mem.dead = [] ∧ wState.mem.deadAt 0 = false ∧ wState.mem.isPoisoned 0 = false ∧ chState wState 0 0 ≤ 3 ∧
    translate wState 0 0 false = .ok 0x20000 ∧ backedFrames wState 0 ≠ 0 ∧ zeroing wState 5 = false ∧
    (∀ k < 16, bit (rget wState (0x06000080 + 8 * k)) 63 = false) ∧ frameMigrating wState 0 = false ∧
    groupOwner wState 1 = none ∧ bits (5 : Word) 7 0 ≤ 231 := by decide

theorem witness_FabricEventsComplete :
    (linkState (wLink 0 5 0) 0 = 5 ∧ linkState (wLink 0 11 0) 0 = 11 ∧ linkState (wLink 0 8 0) 0 = 8 ∧ linkState (wLink 0 1 0) 0 = 1) ∧
    deviceRuns (wLink 0 5 0) = true ∧ (wLink 0 5 0).ports[(0 : PortId)].stopping = false ∧ (wLink 0 5 0).ports[(0 : PortId)].failedSeq = none ∧
    (wLink 0 5 0).ports[(0 : PortId)].arrived = [] ∧ catValid (wLink 0 5 0) = false ∧ optical 8 = true ∧ writable 0x01000088 = true ∧
    now wState + 4000 ≤ 2 ^ 40 ∧ galResetting wState 0 = false := by decide

theorem witness_HostEventsComplete :
    InSession wHost (.host 0) (wMsg 0x20 (List.replicate 20 0)) 0x20 ∧ InSession wHost (.host 0) (wMsg 0x03 []) 0x03 ∧
    (∀ k : Fin 16, wState.streams[k].active = false) ∧ walkFrame wState 0 0 = some 1 ∧ walkFrame wState 0 1 = none ∧
    (2 ^ 17 : Word).toNat % 2 ^ 17 = 0 ∧ tearing wState 0 = false ∧ bits (0x200 : Word) 63 2 = 2 ^ 7 ∧
    wState.gal[(0 : Gal)].targets[(0 : Fin 4)].opening = none := by
  refine ⟨by unfold InSession; decide +kernel, by unfold InSession; decide +kernel, by decide, by decide, by decide, by decide, by decide, by decide, by decide⟩

theorem witness_DeviceEventsComplete :
    isOpen wState 0 = true ∧ isOpen wState 1 = false ∧ takenOpen wState 1 2 2 = false ∧ takenClearing wState 1 2 2 = false ∧
    tearing wState 1 = false ∧ groupsExiting wState 1 = false ∧ wState.retire = [] ∧ component 0x100 = true ∧
    (readReg wState .curator 0x0D000000).isSome = true ∧ rowsTaken wState < 2032 ∧ wState.gal[(0 : Gal)].tear = .none ∧
    wState.gal[(0 : Gal)].reset = none ∧ genref wState 0 = 0 ∧ wState.pins.pwrgood = true ∧ wState.pins.refclk = true ∧
    smbSelectable 0x0C000028 = true ∧ smbSelectable 0x0D000000 = true ∧ (List.replicate 40 (0 : BitVec 16)).length = 40 := by decide
end Sys2Proof.Tests
end

section
/-! PROOFS. The organization of the device: what reset leaves, and the grants of routed packets. -/

namespace Sys2Proof.Machine

/-! ### The link ports after reset (Table 9-12) -/

/-- The Reset column of LNK[p]_STATUS gives STATE 0xB, DISABLED. -/
theorem linkState_reset : linkState State.reset 0 = 0xB := by decide

/-- Refutes O52: STATE of LNK[0]_STATUS reads its stated reset value, DISABLED, and not 0. -/
theorem not_resetState : ¬ Obligations.ResetState := by
  unfold Obligations.ResetState
  rintro ⟨-, -, -, -, -, -, -, -, hlink, -⟩
  exact absurd (linkState_reset.symm.trans (hlink 0)) (by decide)

/-! ### A grant on whose port a Codec meets a NaN (R316, R168) -/

/-- A packet of TYPE 1 of Gallery 0 for the next device on axis X. -/
def codecPacket : Packet := ⟨1, mkWord [(48, 1)], 0, 0, []⟩

/-- The encoding it owes: of an operation of core 0 of Gallery 0, with a NaN event. -/
def codecNote : CodecNote := ⟨0, 0, 0, 0, 0, 1, [(0, 1)]⟩

/-- Two devices on axis X, both in the box of Gallery 0; port 0 is ACTIVE at both ends and usable, and the packet waits to be injected. -/
def codecState : State :=
  { State.reset with
    dev := [(lnkReg 0 0, mkWord [(36, 5), (0, 5)])]
    catActive := { hdr0 := mkWord [(32, 1)], gal := Vector.replicate 8 (mkWord [(63, 1), (32, 1)])
                   nbr := Vector.replicate 12 (mkWord [(63, 1), (62, 1), (32, 1)]) }
    injectq := [(codecPacket, some codecNote)] }

/-- Granted on port 0, the packet's encoding raises its NaN event, and core 0 waits for the arbiter. -/
theorem exec_packetRouteGrant_codec : ∃ t, exec (.packetRouteGrant none) codecState = .next t ∧
    (coreAt t 0).nanWait = true := ⟨_, rfl, by decide⟩

/-- Refutes O42: a grant that makes a Codec encode a NaN does not leave the cores as they were. -/
theorem not_trellisAndRouting : ¬ Obligations.TrellisAndRouting := by
  unfold Obligations.TrellisAndRouting
  rintro ⟨-, -, -, hgrant, -⟩
  obtain ⟨t, ht, -, hcores, -⟩ := hgrant none codecState
  obtain ⟨u, hu, hwait⟩ := exec_packetRouteGrant_codec
  have htu : t = u := by rw [hu] at ht; exact (Host.Outcome.next.inj ht).symm
  subst htu
  rw [coreAt, hcores] at hwait
  exact absurd hwait (by decide)

end Sys2Proof.Machine
end

section
/-! PROOFS. What a register reads after a write, what sending a message leaves, and how a command starts. -/

namespace Sys2Proof.Machine

/-! ### Registers after a write -/

/-- Setting a number leaves what a table gives for every other number, in whatever order the table stands. -/
theorem look_put_ne {α : Type} [DecidableEq α] (d d' : α) (i : Nat) (v : α) (t : Tbl α) (j : Nat) (h : j ≠ i) :
    look d' (put d i v t) j = look d' t j := by
  induction t with
  | nil => simp only [put]; split <;> simp [look, Ne.symm h]
  | cons e r ih =>
    obtain ⟨k, w⟩ := e
    simp only [put]
    split_ifs with hk hki hv hv <;> simp_all [look, Ne.symm h]

/-- A value that is listed is found, in whatever order the table stands. -/
theorem look_put_of_ne {α : Type} [DecidableEq α] (d : α) (i : Nat) (v : α) (t : Tbl α) (hv : v ≠ d) :
    look d (put d i v t) i = v := by
  induction t with
  | nil => simp [put, hv, look]
  | cons e r ih =>
    obtain ⟨k, w⟩ := e
    simp only [put]
    split_ifs with hk hki
    · simp [look, ih, hk.ne]
    · simp [look]
    · simp [look]

theorem rget_congr {s t : State} (h : t.dev = s.dev) (o : Nat) : rget t o = rget s o := by simp [rget, h]

theorem rget_rset_ne (s : State) (o p : Nat) (w : Word) (h : o ≠ p) : rget (rset s p w) o = rget s o :=
  look_put_ne _ _ p w s.dev o h

theorem rget_fset_ne (s : State) (o p hi lo v : Nat) (h : o ≠ p) : rget (fset s p hi lo v) o = rget s o :=
  rget_rset_ne s o p _ h

theorem rget_rset (s : State) (o : Nat) (w : Word) (hr : keysRise s.dev) : rget (rset s o w) o = w := by
  simp [rget, look_put _ _ _ _ hr]

theorem rget_fset (s : State) (o hi lo v : Nat) (hr : keysRise s.dev) :
    rget (fset s o hi lo v) o = setBits (rget s o) hi lo v := rget_rset s o _ hr

/-- Where the new value is not the reset value, it is read in whatever order the registers stand. -/
theorem rget_fset_of_ne (s : State) (o hi lo v : Nat) (h : setBits (rget s o) hi lo v ≠ regReset o) :
    rget (fset s o hi lo v) o = setBits (rget s o) hi lo v := look_put_of_ne _ _ _ _ h

theorem rset_rise {s : State} (o : Nat) (w : Word) (hr : keysRise s.dev) : keysRise (rset s o w).dev :=
  put_rise _ _ _ _ hr

theorem fset_rise {s : State} (o hi lo v : Nat) (hr : keysRise s.dev) : keysRise (fset s o hi lo v).dev :=
  put_rise _ _ _ _ hr

/-! ### Fields of a word -/

theorem testBit_bits {n : Nat} (w : BitVec n) (hi lo i : Nat) :
    (bits w hi lo).testBit i = (decide (i < hi + 1 - lo) && w.getLsbD (lo + i)) := by
  rw [bits, Nat.testBit_mod_two_pow, Nat.testBit_shiftRight]; rfl

theorem bits_lt {n : Nat} (w : BitVec n) (hi lo : Nat) : bits w hi lo < 2 ^ (hi + 1 - lo) :=
  Nat.mod_lt _ (Nat.two_pow_pos _)

/-- The bits of a word with a field replaced. -/
theorem getLsbD_setBits (w : Word) (hi lo v i : Nat) (h : lo ≤ hi) (hh : hi < 64) :
    (setBits w hi lo v).getLsbD i = if lo ≤ i ∧ i ≤ hi then v.testBit (i - lo) else w.getLsbD i := by
  by_cases hi64 : i < 64
  · simp only [setBits, BitVec.getLsbD_or, BitVec.getLsbD_and, BitVec.getLsbD_not, BitVec.getLsbD_ofNat,
      Nat.testBit_shiftLeft, Nat.testBit_two_pow_sub_one, Nat.testBit_mod_two_pow, hi64, decide_true, Bool.true_and]
    by_cases h1 : lo ≤ i <;> by_cases h2 : i ≤ hi
    · simp [h1, h2, show i - lo < hi + 1 - lo by omega]
    · simp [h1, h2, show ¬ i - lo < hi + 1 - lo by omega]
    · simp [h1]
    · simp [h1]
  · have h1 : ¬ (lo ≤ i ∧ i ≤ hi) := by omega
    rw [if_neg h1, BitVec.getLsbD_of_ge _ _ (by omega), BitVec.getLsbD_of_ge _ _ (by omega)]

theorem bits_setBits (w : Word) (hi lo v : Nat) (h : lo ≤ hi) (hh : hi < 64) :
    bits (setBits w hi lo v) hi lo = v % 2 ^ (hi + 1 - lo) := by
  apply Nat.eq_of_testBit_eq
  intro i
  rw [testBit_bits, getLsbD_setBits _ _ _ _ _ h hh, Nat.testBit_mod_two_pow]
  by_cases hk : i < hi + 1 - lo
  · rw [if_pos (by omega)]; simp
  · simp [hk]

theorem bits_setBits_of_disjoint (w : Word) (hi lo v hi' lo' : Nat) (h : lo ≤ hi) (hh : hi < 64)
    (hd : hi' < lo ∨ hi < lo') : bits (setBits w hi lo v) hi' lo' = bits w hi' lo' := by
  apply Nat.eq_of_testBit_eq
  intro i
  rw [testBit_bits, testBit_bits, getLsbD_setBits _ _ _ _ _ h hh]
  by_cases hk : i < hi' + 1 - lo'
  · rw [if_neg (by omega)]
  · simp [hk]

/-! ### Messages to hosts (R356 to R361, R366) -/

/-- A register in which sending a message counts: of the Ethernet port, or what a Gallery's endpoint has lost. -/
def CountsSends (o : Nat) : Prop := o / 0x1000000 = 0x0E ∨ o / 0x1000000 = 0x0F ∧ o % 0x1000 = 0x90

/-- What sending messages may change: the endpoints, what leaves the Ethernet port, and its counters. -/
structure Sends (s t : State) : Prop where
  rest : t = { s with dev := t.dev, eps := t.eps, eth := t.eth, out := t.out }
  regs : ∀ o, ¬CountsSends o → rget t o = rget s o
  rise : keysRise s.dev → keysRise t.dev

namespace Sends
variable {s t u : State}

theorem refl (s : State) : Sends s s := ⟨rfl, fun _ _ => rfl, id⟩

theorem trans (h : Sends s t) (k : Sends t u) : Sends s u where
  rest := by rw [k.rest, h.rest]
  regs o ho := (k.regs o ho).trans (h.regs o ho)
  rise hr := k.rise (h.rise hr)

theorem mem (h : Sends s t) : t.mem = s.mem := by rw [h.rest]
theorem cores (h : Sends s t) : t.cores = s.cores := by rw [h.rest]
theorem mgmt (h : Sends s t) : t.mgmt = s.mgmt := by rw [h.rest]
theorem gal (h : Sends s t) : t.gal = s.gal := by rw [h.rest]
theorem prov (h : Sends s t) : t.prov = s.prov := by rw [h.rest]
theorem cr (h : Sends s t) : t.cr = s.cr := by rw [h.rest]
theorem clk (h : Sends s t) : t.clk = s.clk := by rw [h.rest]
theorem retire (h : Sends s t) : t.retire = s.retire := by rw [h.rest]
theorem pending (h : Sends s t) : t.pending = s.pending := by rw [h.rest]

/-- A change of what sending may change in the state, the registers as they were. -/
theorem of_dev (h : t = { s with dev := t.dev, eps := t.eps, eth := t.eth, out := t.out }) (hd : t.dev = s.dev) :
    Sends s t := ⟨h, fun o _ => rget_congr hd o, fun hr => hd ▸ hr⟩

theorem fincr (s : State) {o : Nat} (ho : CountsSends o) (hi lo n : Nat) : Sends s (fincr s o hi lo n) where
  rest := rfl
  regs p hp := rget_fset_ne s p o hi lo _ (fun e => hp (e ▸ ho))
  rise := fset_rise o hi lo _

theorem foldl {α : Type} (f : State → α → State) (hf : ∀ s x, Sends s (f s x)) (l : List α) (s : State) :
    Sends s (l.foldl f s) := by
  induction l generalizing s with
  | nil => exact refl s
  | cons x l ih => exact (hf s x).trans (ih _)

end Sends

theorem countsSends_eth (o : Nat) (ho : o < 0x1000000) : CountsSends (ethReg o) := .inl (by unfold ethReg; omega)
theorem countsSends_gly (g : Gal) : CountsSends (glyReg g.val 0x90) :=
  .inr (by unfold glyReg; have := g.isLt; omega)

theorem setEp_sends (s : State) (e : Ep) (x : Endpoint) : Sends s (setEp s e x) := .of_dev rfl rfl

theorem setEth_sends (s : State) (x : EthPort) : Sends s { s with eth := x } := .of_dev rfl rfl

theorem ethFlush_sends (s : State) : Sends s (ethFlush s) := by
  unfold ethFlush
  split
  · exact .refl s
  · refine (setEth_sends s _).trans (.foldl _ (fun s o => ?_) _ _)
    exact (Sends.fincr s (countsSends_eth 0x48 (by decide)) 31 0 1).trans (.of_dev rfl rfl)

theorem ethSend_sends (s : State) (o : Out) : Sends s (ethSend s o) := (setEth_sends s _).trans (ethFlush_sends _)

theorem shtEmit_sends (s : State) (e : Ep) (m : ShtMsg) : Sends s (shtEmit s e m) := by
  simp only [shtEmit]
  split
  · exact .refl s
  · exact ethSend_sends _ _

theorem shtSend_sends (s : State) (e : Ep) (kind : Nat) (body : List Byte) : Sends s (shtSend s e kind body) := by
  simp only [shtSend]
  split
  · exact .refl s
  · refine .trans (setEp_sends s e _) (.trans (setEp_sends _ e _) (.foldl _ (fun s m => shtEmit_sends s e m) _ _))

theorem recordLost_sends (s : State) (e : Ep) : Sends s (recordLost s e) := by
  cases e with
  | mgmt => exact .refl s
  | host g => exact .fincr s (countsSends_gly g) _ _ _

theorem sendCpl_sends (s : State) (e : Ep) (tag : BitVec 32) (op : Nat) (st : Status) (r1 r2 r3 : Word) :
    Sends s (sendCpl s e tag op st r1 r2 r3) := by
  unfold sendCpl
  split
  · exact shtSend_sends _ _ _ _
  · exact recordLost_sends s e

theorem sendEvent_sends (s : State) (e : Ep) (kind gal core part : Nat) (words : List Word) :
    Sends s (sendEvent s e kind gal core part words) := by
  unfold sendEvent
  split
  · exact shtSend_sends _ _ _ _
  · exact recordLost_sends s e

theorem sendFor_sends (s : State) (e : Ep) (c : ShtCmdRec) (st : Status) (r1 r2 r3 : Word) :
    Sends s (sendFor s e c st r1 r2 r3) := by
  simp only [sendFor]
  split
  · exact (sendCpl_sends s e c.tag c.op st r1 r2 r3).trans (setEp_sends _ e _)
  · split
    · exact recordLost_sends s e
    · exact .refl s

theorem markStarted_sends (s : State) (e : Ep) (c : ShtCmdRec) : Sends s (markStarted s e c) := setEp_sends s e _

/-! ### How a command starts (R360, R361) -/

section starts
variable {s : State} {e : Ep} {tag : BitVec 32} {op : Nat} {c : ShtCmdRec}

/-- No command of the TAG and OP has started and goes on. -/
def NoneWaits (s : State) (e : Ep) (tag : BitVec 32) (op : Nat) : Prop :=
  (endpoint s e).cmds.find? (fun c => decide (c.tag = tag ∧ c.op = op) && c.started) = none

theorem Starts.inTime (h : Starts s e tag op c) : (hostClass op && decide (c.since + hostBound < now s)) = false := by
  obtain ⟨-, -, -, ht⟩ := h
  rw [Bool.and_eq_false_imp, decide_eq_false_iff_not]
  intro hc
  have := ht hc
  unfold hostBound
  omega

/-- A command that starts runs on its arguments. -/
theorem runCmd_of_starts (h : Starts s e tag op c) (f : State → (Nat → Word) → State) :
    runCmd s e tag op f = f (markStarted s e c) (fun i => c.args.getD i 0) := by
  have ht := h.inTime
  obtain ⟨hd, hn, hm, -⟩ := h
  simp only [runCmd, hd, hn, hm, ht, Bool.not_true, Bool.false_eq_true, if_false]

/-- A command that may wait, and need not. -/
theorem runWaiting_of_some (hw : NoneWaits s e tag op) (h : Starts s e tag op c)
    {f : State → (Nat → Word) → Option State} {t : State}
    (hf : f (markStarted s e c) (fun i => c.args.getD i 0) = some t) : runWaiting s e tag op f = t := by
  have ht := h.inTime
  obtain ⟨hd, hn, hm, -⟩ := h
  unfold NoneWaits at hw
  simp only [runWaiting, hw, hd, hn, hm, ht, hf, Bool.not_true, Bool.false_eq_true, if_false]

/-- A command that has to wait does nothing but answer PENDING. -/
theorem runWaiting_of_none (hw : NoneWaits s e tag op) (h : Starts s e tag op c)
    {f : State → (Nat → Word) → Option State}
    (hf : f (markStarted s e c) (fun i => c.args.getD i 0) = none) : Sends s (runWaiting s e tag op f) := by
  have ht := h.inTime
  obtain ⟨hd, hn, hm, -⟩ := h
  unfold NoneWaits at hw
  simp only [runWaiting, hw, hd, hn, hm, ht, hf, Bool.not_true, Bool.false_eq_true, if_false]
  split
  · exact markStarted_sends s e c
  · exact (markStarted_sends s e c).trans ((setEp_sends _ e _).trans (sendFor_sends _ e _ _ _ _ _))

end starts

/-! ### What marking a command as started leaves -/

section marked
variable (s : State) (e : Ep) (c : ShtCmdRec)

@[simp] theorem markStarted_gal : (markStarted s e c).gal = s.gal := rfl
@[simp] theorem markStarted_prov : (markStarted s e c).prov = s.prov := rfl
@[simp] theorem isOpen_markStarted (g : Gal) : isOpen (markStarted s e c) g = isOpen s g := rfl
@[simp] theorem takenOpen_markStarted (g : Gal) (cm gm : Nat) :
    takenOpen (markStarted s e c) g cm gm = takenOpen s g cm gm := rfl
@[simp] theorem takenClearing_markStarted (g : Gal) (cm gm : Nat) :
    takenClearing (markStarted s e c) g cm gm = takenClearing s g cm gm := rfl
@[simp] theorem tearing_markStarted (g : Gal) : tearing (markStarted s e c) g = tearing s g := rfl
@[simp] theorem groupsExiting_markStarted (g : Gal) : groupsExiting (markStarted s e c) g = groupsExiting s g := rfl
@[simp] theorem openStat_markStarted (g : Gal) : openStat (markStarted s e c) g = openStat s g := rfl
@[simp] theorem mirrorHalf_markStarted (g : Gal) (t : BitVec 32) :
    mirrorHalf (markStarted s e c) g t = mirrorHalf s g t := rfl

end marked

/-! ### Arguments -/

theorem argGal_of_lt {a : Word} {g : Gal} (h : a.toNat = g.val) : argGal a = some g := by
  have : a.toNat < 8 := h ▸ g.isLt
  simp [argGal, h]

theorem argGal_of_ge {a : Word} (h : 8 ≤ a.toNat) : argGal a = none := by
  simp [argGal, Nat.not_lt.mpr h]

theorem bits_high_eq_zero {a : Word} {k : Nat} (hk : k < 64) : bits a 63 k = 0 ↔ a.toNat < 2 ^ k := by
  have h := a.isLt
  have hp : 2 ^ k * 2 ^ (64 - k) = 2 ^ 64 := by rw [← pow_add]; congr 1; omega
  have hd : a.toNat / 2 ^ k < 2 ^ (64 - k) := Nat.div_lt_of_lt_mul (by rw [hp]; exact h)
  rw [bits, Nat.shiftRight_eq_div_pow, Nat.mod_eq_of_lt (by simpa using hd), Nat.div_eq_zero_iff]
  simp

end Sys2Proof.Machine
end

section
/-! PROOFS. COMPOSE: the Frame Map's entries, the clusters cleared, and the units taken. -/

namespace Sys2Proof.Machine

/-! ### Frame Map entries and the Gallery that they map (R251, R257) -/

theorem bits_congr {n : Nat} {w x : BitVec n} {hi lo : Nat} (h : ∀ i, lo ≤ i → i ≤ hi → w.getLsbD i = x.getLsbD i) :
    bits w hi lo = bits x hi lo := by
  apply Nat.eq_of_testBit_eq
  intro i
  rw [testBit_bits, testBit_bits]
  by_cases hi : i < hi + 1 - lo
  · rw [h (lo + i) (by omega) (by omega)]
  · simp [hi]

/-- The Gallery for which an entry maps its frame. -/
def entryMaps (e : Word) : Option Nat := if feValid e then some (feGallery e) else none

theorem entryMaps_congr {e x : Word} (h : ∀ i, 56 ≤ i → i ≠ 59 → i < 64 → e.getLsbD i = x.getLsbD i) :
    entryMaps e = entryMaps x := by
  have h1 : feValid e = feValid x := h 63 (by omega) (by omega) (by omega)
  have h2 : feGallery e = feGallery x := bits_congr (fun i hl hh => h i hl (by omega) (by omega))
  rw [entryMaps, entryMaps, h1, h2]

theorem entryMaps_of_not_valid {e : Word} (h : feValid e = false) : entryMaps e = none := by simp [entryMaps, h]

/-- What a table of entries says of a frame; one that is not listed maps nothing. -/
def tableMaps (t : Tbl Word) (f : Nat) : Option Nat := entryMaps (look 0 t f)

theorem look_default {α : Type} (d d' : α) (t : Tbl α) (i : Nat) :
    look d t i = look d' t i ∨ look d t i = d ∧ look d' t i = d' := by
  induction t with
  | nil => exact .inr ⟨rfl, rfl⟩
  | cons x r ih =>
    simp only [look]
    split
    · exact .inl rfl
    · exact ih

theorem tableMaps_of_default {d : Word} (hd : feValid d = false) (t : Tbl Word) (f : Nat) :
    entryMaps (look d t f) = tableMaps t f := by
  rcases look_default d 0 t f with h | ⟨h, h'⟩
  · rw [h]; rfl
  · rw [tableMaps, h, h', entryMaps_of_not_valid hd]; rfl

theorem feValid_frameDefault (s : State) (f : Nat) : feValid (frameDefault s f) = false := by
  simp only [frameDefault]
  split_ifs <;> decide

/-- Being zeroed does not change what an entry maps. -/
theorem entryMaps_frameEntry (s : State) (f : Nat) : entryMaps (frameEntry s f) = tableMaps s.walker.entries f := by
  rw [← tableMaps_of_default (feValid_frameDefault s f)]
  simp only [frameEntry]
  split
  · refine entryMaps_congr (fun i hl h59 hh => ?_)
    rw [BitVec.getLsbD_and]
    have : i ∈ [56, 57, 58, 60, 61, 62, 63] := by simp; omega
    fin_cases this <;> simp
  · rfl

/-- A table of entries after one is set. -/
theorem tableMaps_put {t : Tbl Word} (hr : keysRise t) {d : Word} (hd : feValid d = false) (p : Nat) (w : Word) (f : Nat) :
    tableMaps (put d p w t) f = if f = p then entryMaps w else tableMaps t f := by
  rw [← tableMaps_of_default hd, look_put d p w t hr f]
  split
  · rfl
  · exact tableMaps_of_default hd t f

theorem tableMaps_setFrame {s : State} (hr : keysRise s.walker.entries) (p : Nat) (w : Word) (f : Nat) :
    tableMaps (setFrame s p w).walker.entries f = if f = p then entryMaps w else tableMaps s.walker.entries f := by
  have he : (setFrame s p w).walker.entries = put (frameDefault s p) p w s.walker.entries := by
    simp only [setFrame, healLine]; split <;> rfl
  rw [he, tableMaps_put hr (feValid_frameDefault s p)]

theorem setFrame_rise {s : State} (hr : keysRise s.walker.entries) (p : Nat) (w : Word) :
    keysRise (setFrame s p w).walker.entries := by
  simp only [setFrame, healLine]
  split <;> exact put_rise _ _ _ _ hr

theorem setAnchor_entries (s : State) (h : Nat) (a : BitVec 32) : (setAnchor s h a).walker.entries = s.walker.entries := by
  simp only [setAnchor, healLine]; split <;> rfl

theorem entryMaps_withLink (e link : Word) : entryMaps (withLink e link) = entryMaps e :=
  entryMaps_congr (fun i hl _ hh => by
    have : i ∈ [56, 57, 58, 59, 60, 61, 62, 63] := by simp; omega
    fin_cases this <;> simp [withLink])

/-- Linking a chain past a frame leaves what every frame maps. -/
theorem relink_maps {s : State} (hr : keysRise s.walker.entries) (h f : Nat) (link : Word) :
    keysRise (relink s h f link).walker.entries ∧
      ∀ k, tableMaps (relink s h f link).walker.entries k = tableMaps s.walker.entries k := by
  unfold relink
  split
  · rw [setAnchor_entries]; exact ⟨hr, fun _ => rfl⟩
  · split
    · exact ⟨hr, fun _ => rfl⟩
    · next p _ =>
      refine ⟨setFrame_rise hr _ _, fun k => ?_⟩
      rw [tableMaps_setFrame hr]
      split
      · next hk => rw [hk, entryMaps_withLink, entryMaps_frameEntry]
      · rfl

/-- A frame that is unmapped maps nothing, every other what it did. -/
theorem unmapFrame_maps {s : State} (hr : keysRise s.walker.entries) (f : Nat) :
    keysRise (unmapFrame s f).walker.entries ∧
      ∀ k, tableMaps (unmapFrame s f).walker.entries k = if k = f then none else tableMaps s.walker.entries k := by
  obtain ⟨h1, h2⟩ := relink_maps hr (entryHash (frameEntry s f)) f (frameEntry s f)
  refine ⟨setFrame_rise h1 _ _, fun k => ?_⟩
  rw [unmapFrame, tableMaps_setFrame h1, h2]
  congr 1
  refine entryMaps_of_not_valid ?_
  change (_ : Word).getLsbD 63 = false
  simp

theorem unmapFrames_maps (l : List (Nat × Word)) {s : State} (hr : keysRise s.walker.entries) (k : Nat) :
    tableMaps (l.foldl (fun s e => unmapFrame s e.1) s).walker.entries k =
      if k ∈ l.map Prod.fst then none else tableMaps s.walker.entries k := by
  induction l generalizing s with
  | nil => simp
  | cons x l ih =>
    obtain ⟨h1, h2⟩ := unmapFrame_maps hr x.1
    rw [List.foldl_cons, ih h1, h2]
    by_cases h : k = x.1 <;> simp [h]

theorem mem_of_look_ne {α : Type} {d : α} {t : Tbl α} {i : Nat} (h : look d t i ≠ d) : (i, look d t i) ∈ t := by
  induction t with
  | nil => exact absurd rfl h
  | cons x r ih =>
    obtain ⟨k, v⟩ := x
    by_cases hk : k = i
    · subst hk; simp [look]
    · simp only [look, hk, if_false] at h ⊢
      exact List.mem_cons_of_mem _ (ih h)

/-- A frame still mapped after the unmapping of R28 is mapped as before, for the Gallery that owns its group. -/
theorem unmapForeign_maps {s : State} (hr : keysRise s.walker.entries) {f k : Nat}
    (h : tableMaps (unmapForeign s).walker.entries f = some k) :
    tableMaps s.walker.entries f = some k ∧ (frameOwner s f).map (fun o => o.val) = some k := by
  unfold unmapForeign at h
  rw [unmapFrames_maps _ hr] at h
  split at h
  · exact absurd h (by simp)
  · next hnot =>
    refine ⟨h, ?_⟩
    have hv : feValid (look 0 s.walker.entries f) = true := by
      by_contra hv
      rw [tableMaps, entryMaps_of_not_valid (by simpa using hv)] at h
      exact absurd h (by simp)
    have hk : feGallery (look 0 s.walker.entries f) = k := by
      rw [tableMaps, entryMaps, if_pos hv] at h
      exact Option.some.inj h
    have hm : (f, look 0 s.walker.entries f) ∈ s.walker.entries :=
      mem_of_look_ne (fun e => by rw [e] at hv; exact absurd hv (by decide))
    by_contra hne
    refine hnot (List.mem_map.mpr ⟨_, List.mem_filter.mpr ⟨hm, ?_⟩, rfl⟩)
    simp only [hv, hk, Bool.true_and, decide_eq_true_eq]
    exact hne

/-! ### Clusters cleared (R25, Table 13-6) -/

theorem rget_rclear (s : State) (lo hi o : Nat) :
    rget (rclear s lo hi) o = if o < lo ∨ hi ≤ o then rget s o else regReset o := by
  have h := look_filter (regReset o) s.dev (fun k => decide (k < lo ∨ hi ≤ k)) o
  simpa [rget, rclear] using h

theorem Memory.byte_clear (m : Memory) (a n y : Nat) :
    (m.clear a n).byte y = if y < a ∨ a + n ≤ y then m.byte y else 0 := by
  have h := look_filter (0 : Byte) m.cells (fun k => decide (k < a ∨ a + n ≤ k)) y
  simpa [Memory.byte, Memory.clear] using h

/-- What clearing clusters may change: cores, memory, their registers, logs and pins; no byte that is zero becomes
another. -/
structure Clears (s t : State) : Prop where
  rest : t = { s with cores := t.cores, dev := t.dev, mem := t.mem, engLog := t.engLog, resLog := t.resLog
                      cruLog := t.cruLog, pins := t.pins }
  regs : ∀ o, 0x0F000000 ≤ o → rget t o = rget s o
  zero : ∀ y, s.mem.byte y = 0 → t.mem.byte y = 0

namespace Clears
variable {s t u : State}

theorem refl (s : State) : Clears s s := ⟨rfl, fun _ _ => rfl, fun _ h => h⟩

theorem trans (h : Clears s t) (k : Clears t u) : Clears s u where
  rest := by rw [k.rest, h.rest]
  regs o ho := (k.regs o ho).trans (h.regs o ho)
  zero y hy := k.zero y (h.zero y hy)

theorem clk (h : Clears s t) : t.clk = s.clk := by rw [h.rest]
theorem walker (h : Clears s t) : t.walker = s.walker := by rw [h.rest]

theorem foldl {α : Type} (f : State → α → State) (hf : ∀ s x, Clears s (f s x)) (l : List α) (s : State) :
    Clears s (l.foldl f s) := by
  induction l generalizing s with
  | nil => exact refl s
  | cons x l ih => exact (hf s x).trans (ih _)

end Clears

theorem Memory.byte_clear_zero {m : Memory} {y : Nat} (h : m.byte y = 0) (a n : Nat) : (m.clear a n).byte y = 0 := by
  rw [Memory.byte_clear, h, ite_self]

theorem clearCore_clears (s : State) (n : CoreId) : Clears s (clearCore s n) where
  rest := rfl
  regs o ho := by
    have hn := n.isLt
    have hs : ∀ (t : State) (lo hi : Nat), hi ≤ o → rget (rclear t lo hi) o = rget t o := fun t lo hi h => by
      rw [rget_rclear, if_pos (.inr h)]
    change rget (rclear (rclear (rclear (rclear _ _ _) _ _) _ _) _ _) o = rget s o
    rw [hs _ _ _ (by unfold chkReg; omega), hs _ _ _ (by unfold rkgReg; omega), hs _ _ _ (by unfold vecReg; omega),
      hs _ _ _ (by unfold engReg; omega)]
    rfl
  zero y hy := Memory.byte_clear_zero hy _ _

/-- A core as a compute reset leaves it, its cycle count restarted. -/
def clearedCore (clk : Nat) : Core := { cycleBase := clk }

theorem clearCore_coreAt (s : State) (m n : CoreId) :
    coreAt (clearCore s m) n = if n = m then clearedCore s.clk else coreAt s n := by
  have hc : coreAt (clearCore s m) n = coreAt (setCore s m (clearedCore s.clk)) n := rfl
  rw [hc]
  split
  · next h => rw [h, coreAt_setCore]
  · next h => rw [coreAt_setCore_ne _ _ _ _ h]

theorem clearCores_coreAt (l : List CoreId) (s : State) (n : CoreId) :
    coreAt (l.foldl clearCore s) n = if n ∈ l then clearedCore s.clk else coreAt s n := by
  induction l generalizing s with
  | nil => simp
  | cons m l ih =>
    rw [List.foldl_cons, ih, (clearCore_clears s m).clk]
    by_cases h : n = m
    · subst h; simp [clearCore_coreAt]
    · simp [clearCore_coreAt, h]

/-- A Cask whose core is among those cleared reads as zero. -/
theorem clearCores_cask {l : List CoreId} {n : CoreId} (h : n ∈ l) (s : State) {y : Nat} (h1 : caskBase n.val ≤ y)
    (h2 : y < caskBase n.val + caskSize) : (l.foldl clearCore s).mem.byte y = 0 := by
  induction l generalizing s with
  | nil => exact absurd h (by simp)
  | cons m l ih =>
    rw [List.foldl_cons]
    rcases List.mem_cons.mp h with rfl | h
    · refine (Clears.foldl clearCore clearCore_clears l _).zero y ?_
      change (Memory.clear _ _ _).byte y = 0
      rw [Memory.byte_clear, if_neg]
      unfold caskSize at h2
      omega
    · exact ih h _

theorem mem_allCores (n : CoreId) : n ∈ allCores := by
  refine List.mem_map.mpr ⟨n.val, List.mem_range.mpr n.isLt, ?_⟩
  apply Fin.ext
  simp

theorem clusterOf_lt (n : CoreId) : clusterOf n < 16 := by
  have := n.isLt
  unfold clusterOf
  omega

theorem clearCluster_clears (s : State) (c : Fin 16) : Clears s (clearCluster s c) := by
  refine (Clears.foldl clearCore clearCore_clears (allCores.filter (fun n => decide (clusterOf n = c.val))) s).trans
    ⟨rfl, fun o ho => ?_, fun y hy => Memory.byte_clear_zero hy _ _⟩
  have := c.isLt
  exact rget_rset_ne _ o (cruReg c.val) 0 (by unfold cruReg; omega)

theorem clearCluster_coreAt (s : State) (c : Fin 16) (n : CoreId) :
    coreAt (clearCluster s c) n = if clusterOf n = c.val then clearedCore s.clk else coreAt s n := by
  refine (clearCores_coreAt _ s n).trans ?_
  simp [mem_allCores]

theorem clearCluster_cask (s : State) (c : Fin 16) {n : CoreId} (hc : clusterOf n = c.val) {y : Nat}
    (h1 : caskBase n.val ≤ y) (h2 : y < caskBase n.val + caskSize) : (clearCluster s c).mem.byte y = 0 :=
  Memory.byte_clear_zero (clearCores_cask (by simp [mem_allCores, hc]) s h1 h2) _ _

/-- The clusters of a mask that leave are cleared. -/
def clearLeft (p : Nat → Bool) (l : List Nat) (s : State) : State :=
  l.foldl (fun s c => if p c then clearCluster s (Fin.ofNat 16 c) else s) s

theorem clearLeft_cons (p : Nat → Bool) (c : Nat) (l : List Nat) (s : State) :
    clearLeft p (c :: l) s = clearLeft p l (if p c then clearCluster s (Fin.ofNat 16 c) else s) := rfl

theorem clearLeft_clears (p : Nat → Bool) (l : List Nat) (s : State) : Clears s (clearLeft p l s) :=
  .foldl _ (fun s c => by
    split
    · exact clearCluster_clears s _
    · exact .refl s) l s

theorem clearLeft_coreAt (p : Nat → Bool) {l : List Nat} (hl : ∀ c ∈ l, c < 16) (s : State) (n : CoreId) :
    coreAt (clearLeft p l s) n = if clusterOf n ∈ l ∧ p (clusterOf n) = true then clearedCore s.clk else coreAt s n := by
  induction l generalizing s with
  | nil => simp [clearLeft]
  | cons c l ih =>
    have hc : c % 16 = c := Nat.mod_eq_of_lt (hl c (by simp))
    have hl' : ∀ c ∈ l, c < 16 := fun c h => hl c (by simp [h])
    rw [clearLeft_cons, ih hl']
    by_cases hp : p c = true
    · rw [if_pos hp, (clearCluster_clears s _).clk, clearCluster_coreAt]
      by_cases hn : clusterOf n = c
      · simp [hn, hp, Fin.ofNat, hc]
      · simp [hn, Fin.ofNat, hc]
    · rw [if_neg hp]
      by_cases hn : clusterOf n = c
      · simp [hn, hp]
      · simp [hn]

theorem clearLeft_cask {p : Nat → Bool} {l : List Nat} (hl : ∀ c ∈ l, c < 16) (s : State) {n : CoreId}
    (hn : clusterOf n ∈ l) (hp : p (clusterOf n) = true) {y : Nat} (h1 : caskBase n.val ≤ y)
    (h2 : y < caskBase n.val + caskSize) : (clearLeft p l s).mem.byte y = 0 := by
  induction l generalizing s with
  | nil => exact absurd hn (by simp)
  | cons c l ih =>
    rw [clearLeft_cons]
    rcases List.mem_cons.mp hn with hc | hn
    · rw [← hc, if_pos hp]
      refine (clearLeft_clears p l _).zero y (clearCluster_cask s _ ?_ h1 h2)
      exact (Nat.mod_eq_of_lt (clusterOf_lt n)).symm
    · exact ih (fun c h => hl c (by simp [h])) _ hn

/-! ### The composition of a Gallery (R25, R27, R28) -/

theorem glyReg_lt (g : Gal) (o : Nat) (ho : o < 0x1000) : 0x0F000000 ≤ glyReg g.val o ∧ glyReg g.val o < 0x0F008000 := by
  have := g.isLt
  unfold glyReg
  omega

theorem glyReg_inj {g h : Gal} {o p : Nat} (ho : o < 0x1000) (hp : p < 0x1000) (he : glyReg g.val o = glyReg h.val p) :
    g = h ∧ o = p := by
  unfold glyReg at he
  exact ⟨Fin.ext (by omega), by omega⟩

/-- Gallery `h` loses the clusters and groups of the masks. -/
def loseUnits (cm gm : Nat) (s : State) (h : Gal) : State :=
  fset (fset s (glyReg h.val 0x10) 15 0 (fget s (glyReg h.val 0x10) 15 0 &&& (0xFFFF ^^^ cm)))
    (glyReg h.val 0x18) 15 0 (fget s (glyReg h.val 0x18) 15 0 &&& (0xFFFF ^^^ gm))

/-- The composition registers of every Gallery when `g` takes the units of the masks. -/
def setUnits (s : State) (g : Gal) (cm gm : Nat) : State :=
  fset (fset (allGals.foldl (fun s h => if h = g then s else loseUnits cm gm s h) s) (glyReg g.val 0x10) 15 0 cm)
    (glyReg g.val 0x18) 15 0 gm

/-- The groups of a mask leave self-refresh. -/
def wakeTaken (gm : Nat) (s : State) : State :=
  (List.range 16).foldl (fun s c => if gm.testBit c then wakeGroup s (Fin.ofNat 16 c) else s) s

theorem takeUnits_eq (s : State) (g : Gal) (cm gm : Nat) :
    takeUnits s g cm gm = clearLeft (fun c => (fget s (glyReg g.val 0x10) 15 0).testBit c && !cm.testBit c) (List.range 16)
      (wakeTaken gm (unmapForeign (setUnits s g cm gm))) := rfl

/-- Waking groups changes the groups only. -/
theorem wakeTaken_eq (gm : Nat) (s : State) : wakeTaken gm s = { s with group := (wakeTaken gm s).group } := by
  unfold wakeTaken
  generalize List.range 16 = l
  induction l generalizing s with
  | nil => rfl
  | cons c l ih =>
    rw [List.foldl_cons, ih]
    unfold wakeGroup
    split
    · split <;> rfl
    · rfl

/-- Unmapping frames changes the walker only. -/
theorem unmapForeign_eq (s : State) : unmapForeign s = { s with walker := (unmapForeign s).walker } := by
  unfold unmapForeign
  generalize s.walker.entries.filter _ = l
  induction l generalizing s with
  | nil => rfl
  | cons e l ih =>
    rw [List.foldl_cons, ih]
    have h : unmapFrame s e.1 = { s with walker := (unmapFrame s e.1).walker } := by
      simp only [unmapFrame, relink]
      split
      · rfl
      · split <;> rfl
    rw [h]

/-- A word whose mask has lost the units of `m`. -/
theorem testBit_lost (w : Word) (m i : Nat) (hi : i < 16) :
    (bits (setBits w 15 0 (bits w 15 0 &&& (0xFFFF ^^^ m))) 15 0).testBit i = ((bits w 15 0).testBit i && !m.testBit i) := by
  have hF : Nat.testBit 0xFFFF i = true := by
    rw [show 0xFFFF = 2 ^ 16 - 1 by rfl, Nat.testBit_two_pow_sub_one]; simpa using hi
  rw [bits_setBits _ _ _ _ (by omega) (by omega), Nat.testBit_mod_two_pow, Nat.testBit_and, Nat.testBit_xor, hF]
  simp [hi]

/-! ### What taking units leaves -/

theorem loseUnits_rget {cm gm : Nat} {s : State} {h : Gal} (hr : keysRise s.dev) :
    keysRise (loseUnits cm gm s h).dev ∧
    rget (loseUnits cm gm s h) (glyReg h.val 0x10) =
      setBits (rget s (glyReg h.val 0x10)) 15 0 (fget s (glyReg h.val 0x10) 15 0 &&& (0xFFFF ^^^ cm)) ∧
    rget (loseUnits cm gm s h) (glyReg h.val 0x18) =
      setBits (rget s (glyReg h.val 0x18)) 15 0 (fget s (glyReg h.val 0x18) 15 0 &&& (0xFFFF ^^^ gm)) ∧
    ∀ o, o ≠ glyReg h.val 0x10 → o ≠ glyReg h.val 0x18 → rget (loseUnits cm gm s h) o = rget s o := by
  have hne : glyReg h.val 0x10 ≠ glyReg h.val 0x18 := by unfold glyReg; omega
  unfold loseUnits
  refine ⟨fset_rise _ _ _ _ (fset_rise _ _ _ _ hr), ?_, ?_, fun o h1 h2 => ?_⟩
  · rw [rget_fset_ne _ _ _ _ _ _ hne, rget_fset _ _ _ _ _ hr]
  · rw [rget_fset _ _ _ _ _ (fset_rise _ _ _ _ hr), rget_fset_ne _ _ _ _ _ _ hne.symm]
  · rw [rget_fset_ne _ _ _ _ _ _ h2, rget_fset_ne _ _ _ _ _ _ h1]

/-- What Gallery `h` holds, of clusters (register 0x10) or of groups (0x18). -/
def holds (s : State) (h : Gal) (r : Nat) : Nat := bits (rget s (glyReg h.val r)) 15 0

/-- Every Gallery of a list but `g` loses the units of the masks. -/
theorem loseUnits_foldl {g : Gal} {cm gm : Nat} {l : List Gal} (hl : l.Nodup) {s : State} (hr : keysRise s.dev) :
    let t := l.foldl (fun s h => if h = g then s else loseUnits cm gm s h) s
    keysRise t.dev ∧ t = { s with dev := t.dev } ∧
    (∀ o, (∀ h ∈ l, h ≠ g → o ≠ glyReg h.val 0x10 ∧ o ≠ glyReg h.val 0x18) → rget t o = rget s o) ∧
    ∀ h ∈ l, h ≠ g → ∀ i < 16, (holds t h 0x10).testBit i = ((holds s h 0x10).testBit i && !cm.testBit i) ∧
      (holds t h 0x18).testBit i = ((holds s h 0x18).testBit i && !gm.testBit i) := by
  induction l generalizing s with
  | nil => exact ⟨hr, rfl, fun _ _ => rfl, fun h hh => absurd hh (by simp)⟩
  | cons x l ih =>
    obtain ⟨hx, hl⟩ := List.nodup_cons.mp hl
    rw [List.foldl_cons]
    by_cases hg : x = g
    · rw [if_pos hg]
      obtain ⟨h1, h2, h3, h4⟩ := ih hl hr
      refine ⟨h1, h2, fun o ho => h3 o (fun h hh => ho h (by simp [hh])), fun h hh hne => ?_⟩
      rcases List.mem_cons.mp hh with rfl | hh
      · exact absurd hg hne
      · exact h4 h hh hne
    · rw [if_neg hg]
      obtain ⟨k1, k2, k3, k4⟩ := loseUnits_rget (cm := cm) (gm := gm) (h := x) hr
      obtain ⟨h1, h2, h3, h4⟩ := ih hl k1
      refine ⟨h1, by rw [h2]; rfl, fun o ho => ?_, fun h hh hne i hi => ?_⟩
      · rw [h3 o (fun h hh => ho h (by simp [hh]))]
        obtain ⟨n1, n2⟩ := ho x (by simp) hg
        exact k4 o n1 n2
      · rcases List.mem_cons.mp hh with rfl | hh
        · have hkeep : ∀ r, r < 0x1000 → rget (l.foldl (fun s h => if h = g then s else loseUnits cm gm s h)
              (loseUnits cm gm s h)) (glyReg h.val r) = rget (loseUnits cm gm s h) (glyReg h.val r) := fun r hr =>
            h3 _ (fun k hk _ => ⟨fun e => hx ((glyReg_inj hr (by omega) e).1 ▸ hk),
              fun e => hx ((glyReg_inj hr (by omega) e).1 ▸ hk)⟩)
          simp only [holds]
          rw [hkeep _ (by omega), hkeep _ (by omega), k2, k3]
          exact ⟨testBit_lost _ _ _ hi, testBit_lost _ _ _ hi⟩
        · have hxh : h ≠ x := fun e => hx (e ▸ hh)
          have hkeep : ∀ r, r < 0x1000 → rget (loseUnits cm gm s x) (glyReg h.val r) = rget s (glyReg h.val r) :=
            fun r hr => k4 _ (fun e => hxh (glyReg_inj hr (by omega) e).1) (fun e => hxh (glyReg_inj hr (by omega) e).1)
          have := h4 h hh hne i hi
          simp only [holds] at this ⊢
          rw [hkeep _ (by omega), hkeep _ (by omega)] at this
          exact this

theorem setUnits_holds {s : State} (hr : keysRise s.dev) (g : Gal) (cm gm : Nat) :
    setUnits s g cm gm = { s with dev := (setUnits s g cm gm).dev } ∧
    (∀ i < 16, (holds (setUnits s g cm gm) g 0x10).testBit i = cm.testBit i ∧
      (holds (setUnits s g cm gm) g 0x18).testBit i = gm.testBit i) ∧
    ∀ h, h ≠ g → ∀ i < 16,
      (holds (setUnits s g cm gm) h 0x10).testBit i = ((holds s h 0x10).testBit i && !cm.testBit i) ∧
      (holds (setUnits s g cm gm) h 0x18).testBit i = ((holds s h 0x18).testBit i && !gm.testBit i) := by
  obtain ⟨h1, h2, -, h4⟩ := loseUnits_foldl (g := g) (cm := cm) (gm := gm) (l := allGals) (by decide) hr
  have hne : glyReg g.val 0x10 ≠ glyReg g.val 0x18 := by unfold glyReg; omega
  have hall : ∀ h : Gal, h ∈ allGals := by decide
  refine ⟨?_, fun i hi => ?_, fun h hh i hi => ?_⟩
  · unfold setUnits
    rw [h2]
    rfl
  · unfold holds setUnits
    rw [rget_fset_ne _ _ _ _ _ _ hne, rget_fset _ _ _ _ _ h1, rget_fset _ _ _ _ _ (fset_rise _ _ _ _ h1),
      bits_setBits _ _ _ _ (by omega) (by omega), bits_setBits _ _ _ _ (by omega) (by omega),
      Nat.testBit_mod_two_pow, Nat.testBit_mod_two_pow]
    simp [hi]
  · have hkeep : ∀ r, r < 0x1000 → ∀ (t : State) (a b c d v w : Nat),
        rget (fset (fset t (glyReg g.val 0x10) a b v) (glyReg g.val 0x18) c d w) (glyReg h.val r) = rget t (glyReg h.val r) :=
      fun r hr t a b c d v w => by
        rw [rget_fset_ne _ _ _ _ _ _ (fun e => hh (glyReg_inj hr (by omega) e).1),
          rget_fset_ne _ _ _ _ _ _ (fun e => hh (glyReg_inj hr (by omega) e).1)]
    have := h4 h (hall h) hh i hi
    simp only [holds, setUnits] at this ⊢
    rw [hkeep _ (by omega), hkeep _ (by omega)]
    exact this

section takeUnits
variable {s : State} (hr : keysRise s.dev) (g : Gal) (cm gm : Nat)

/-- The state in which the clusters that leave are cleared. -/
def takenState (s : State) (g : Gal) (cm gm : Nat) : State := wakeTaken gm (unmapForeign (setUnits s g cm gm))

theorem takeUnits_clears : Clears (takenState s g cm gm) (takeUnits s g cm gm) := by
  rw [takeUnits_eq]
  exact clearLeft_clears _ _ _

theorem takenState_dev : (takenState s g cm gm).dev = (setUnits s g cm gm).dev := by
  rw [takenState, wakeTaken_eq, unmapForeign_eq]

/-- The registers of the composition after it. -/
theorem takeUnits_rget (h : Gal) (r : Nat) (hr : r < 0x1000) :
    rget (takeUnits s g cm gm) (glyReg h.val r) = rget (setUnits s g cm gm) (glyReg h.val r) := by
  rw [(takeUnits_clears g cm gm).regs _ (glyReg_lt h r hr).1]
  exact rget_congr (takenState_dev g cm gm) _

theorem takeUnits_holds (h : Gal) (r : Nat) (hr : r < 0x1000) :
    holds (takeUnits s g cm gm) h r = holds (setUnits s g cm gm) h r := by
  rw [holds, takeUnits_rget g cm gm h r hr, holds]

include hr

theorem takenState_cores : (takenState s g cm gm).cores = s.cores ∧ (takenState s g cm gm).clk = s.clk := by
  have := (setUnits_holds hr g cm gm).1
  rw [takenState, wakeTaken_eq, unmapForeign_eq, this]
  exact ⟨rfl, rfl⟩

/-- A core of a cluster that leaves is cleared; every other is as it was. -/
theorem takeUnits_coreAt (n : CoreId) : coreAt (takeUnits s g cm gm) n =
    if ownsCluster s g (clusterOf n) = true ∧ cm.testBit (clusterOf n) = false then clearedCore s.clk else coreAt s n := by
  obtain ⟨hc, hk⟩ := takenState_cores hr g cm gm
  rw [takeUnits_eq, clearLeft_coreAt _ (by simp)]
  change (if _ then clearedCore (takenState s g cm gm).clk else (takenState s g cm gm).cores[n]) = _
  rw [hc, hk]
  refine if_congr ?_ rfl rfl
  simp [clusterOf_lt, ownsCluster]

omit hr in
/-- The Cask of such a core reads as zero. -/
theorem takeUnits_cask {n : CoreId} (ho : ownsCluster s g (clusterOf n) = true) (hm : cm.testBit (clusterOf n) = false)
    {y : Nat} (h1 : caskBase n.val ≤ y) (h2 : y < caskBase n.val + caskSize) : (takeUnits s g cm gm).mem.byte y = 0 := by
  rw [takeUnits_eq]
  exact clearLeft_cask (by simp) _ (by simpa using clusterOf_lt n) (by simpa [hm, ownsCluster] using ho) h1 h2

/-- A frame still mapped was mapped before, and is mapped for the Gallery that now owns its group. -/
theorem takeUnits_maps (hw : keysRise s.walker.entries) {f : Nat}
    (hv : feValid (frameEntry (takeUnits s g cm gm) f) = true) :
    feValid (frameEntry s f) = true ∧
    (frameOwner (takeUnits s g cm gm) f).map (fun o => o.val) = some (feGallery (frameEntry (takeUnits s g cm gm) f)) := by
  have hset := (setUnits_holds hr g cm gm).1
  have hwset : (setUnits s g cm gm).walker = s.walker := by rw [hset]
  have hmap := entryMaps_frameEntry (takeUnits s g cm gm) f
  rw [entryMaps, if_pos hv, (takeUnits_clears g cm gm).walker, takenState, wakeTaken_eq] at hmap
  obtain ⟨h1, h2⟩ := unmapForeign_maps (s := setUnits s g cm gm) (by rw [hwset]; exact hw) hmap.symm
  constructor
  · rw [hwset, ← entryMaps_frameEntry] at h1
    by_contra hn
    rw [entryMaps, if_neg hn] at h1
    exact absurd h1 (by simp)
  · rw [← h2]
    congr 1
    unfold frameOwner groupOwner ownsGroup fget
    congr 1
    funext h
    rw [takeUnits_rget g cm gm h 0x18 (by omega)]

end takeUnits

end Sys2Proof.Machine
end

section
/-! PROOFS. The commands COMPOSE, OPEN, BIND, REG_READ and REG_WRITE. -/

namespace Sys2Proof.Machine

/-! ### The management endpoint's commands: composing, binding and opening a Gallery -/

/-- Argument `i` of a command. -/
abbrev ShtCmdRec.arg (c : ShtCmdRec) (i : Nat) : Word := c.args.getD i 0

/-- An instruction ends command `op` with a status and results, in what state `t` it left. -/
abbrev Answers (s : State) (e : Ep) (tag : BitVec 32) (i : Instr) (op : Nat) (st : Status) (t : State)
    (r1 : Word := 0) (r2 : Word := 0) (r3 : Word := 0) : Prop :=
  exec i s = .next (complete t e tag op st r1 r2 r3)

section commands
variable {s : State} {e : Ep} {tag : BitVec 32} {c : ShtCmdRec}

theorem exec_of_runWaiting {i : Instr} {op : Nat} {f : State → (Nat → Word) → Option State} {t : State}
    (hi : exec i s = .next (runWaiting s e tag op f)) (hw : NoneWaits s e tag op) (h : Starts s e tag op c)
    (hf : f (markStarted s e c) c.arg = some t) : exec i s = .next t := by
  rw [hi, runWaiting_of_some hw h hf]

theorem exec_of_runCmd {i : Instr} {op : Nat} {f : State → (Nat → Word) → State} {t : State}
    (hi : exec i s = .next (runCmd s e tag op f)) (h : Starts s e tag op c) (hf : f (markStarted s e c) c.arg = t) :
    exec i s = .next t := by
  rw [hi, runCmd_of_starts h, ← hf]

/-- An instruction whose command has to wait does nothing but send its PENDING. -/
theorem exec_waits {i : Instr} {op : Nat} {f : State → (Nat → Word) → Option State}
    (hi : exec i s = .next (runWaiting s e tag op f)) (hw : NoneWaits s e tag op) (h : Starts s e tag op c)
    (hf : f (markStarted s e c) c.arg = none) : ∃ t, exec i s = .next t ∧ Sends s t :=
  ⟨_, hi, runWaiting_of_none hw h hf⟩

theorem not_countsSends_gly (g : Gal) (o : Nat) (ho : o < 0x1000) (h : o ≠ 0x90) : ¬CountsSends (glyReg g.val o) := by
  have := g.isLt
  unfold CountsSends glyReg
  omega

/-- The masks of COMPOSE name units that the device has not. -/
def masksWide (c : ShtCmdRec) : Prop := 2 ^ 16 ≤ (c.arg 2).toNat ∨ 2 ^ 16 ≤ (c.arg 3).toNat

theorem masksWide_iff (c : ShtCmdRec) : bits (c.arg 2) 63 16 ≠ 0 ∨ bits (c.arg 3) 63 16 ≠ 0 ↔ masksWide c := by
  rw [ne_eq, ne_eq, bits_high_eq_zero (by omega), bits_high_eq_zero (by omega), not_lt, not_lt]
  rfl

section compose
variable {g : Gal} (hg : (c.arg 1).toNat = g.val) (hw : NoneWaits s e tag 0x20) (h : Starts s e tag 0x20 c)
include hg hw h

theorem exec_compose_of_wide (hm : masksWide c) :
    Answers s e tag (.compose e tag) 0x20 .invalid (markStarted s e c) := by
  refine exec_of_runWaiting rfl hw h ?_
  simp only [argGal_of_lt hg, masksWide_iff, hm, if_true, done]

theorem exec_compose_of_open (hm : ¬masksWide c)
    (ho : isOpen s g = true ∨ takenOpen s g (c.arg 2).toNat (c.arg 3).toNat = true) :
    Answers s e tag (.compose e tag) 0x20 .galleryOpen (markStarted s e c) := by
  refine exec_of_runWaiting rfl hw h ?_
  simp only [argGal_of_lt hg, masksWide_iff, hm, isOpen_markStarted, takenOpen_markStarted, Bool.or_eq_true, ho,
    if_true, if_false, done]

theorem exec_compose_of_not_clear (hm : ¬masksWide c)
    (ho : ¬(isOpen s g = true ∨ takenOpen s g (c.arg 2).toNat (c.arg 3).toNat = true))
    (hc : ¬(tearing s g = false ∧ takenClearing s g (c.arg 2).toNat (c.arg 3).toNat = false)) :
    ∃ t, exec (.compose e tag) s = .next t ∧ Sends s t := by
  refine exec_waits rfl hw h ?_
  have hc' : tearing s g = true ∨ takenClearing s g (c.arg 2).toNat (c.arg 3).toNat = true := by
    simpa only [← Bool.not_eq_true, ← not_or, not_not] using hc
  simp only [argGal_of_lt hg, masksWide_iff, hm, isOpen_markStarted, takenOpen_markStarted, Bool.or_eq_true, ho,
    tearing_markStarted, takenClearing_markStarted, hc', if_true, if_false]

theorem exec_compose_of_clear (hm : ¬masksWide c)
    (ho : ¬(isOpen s g = true ∨ takenOpen s g (c.arg 2).toNat (c.arg 3).toNat = true))
    (hc : tearing s g = false ∧ takenClearing s g (c.arg 2).toNat (c.arg 3).toNat = false) :
    Answers s e tag (.compose e tag) 0x20 .ok (takeUnits (markStarted s e c) g (c.arg 2).toNat (c.arg 3).toNat) := by
  refine exec_of_runWaiting rfl hw h ?_
  simp only [argGal_of_lt hg, masksWide_iff, hm, isOpen_markStarted, takenOpen_markStarted, Bool.or_eq_true, ho,
    tearing_markStarted, takenClearing_markStarted, hc, if_false, Bool.false_eq_true, or_self, done]

end compose

section opening
variable {g : Gal} (hg : (c.arg 1).toNat = g.val) (hw : NoneWaits s e tag 0x22) (h : Starts s e tag 0x22 c)
include hg hw h

theorem exec_open_of_open (ho : isOpen s g = true) :
    Answers s e tag (.open e tag) 0x22 .badState (markStarted s e c) := by
  refine exec_of_runWaiting rfl hw h ?_
  simp only [argGal_of_lt hg, isOpen_markStarted, ho, if_true, done]

theorem exec_open_of_leaving (ho : isOpen s g = false) (hl : tearing s g = true ∨ groupsExiting s g = true) :
    ∃ t, exec (.open e tag) s = .next t ∧ Sends s t := by
  refine exec_waits rfl hw h ?_
  simp only [argGal_of_lt hg, isOpen_markStarted, ho, tearing_markStarted, groupsExiting_markStarted, Bool.or_eq_true,
    hl, Bool.false_eq_true, if_false, if_true]

/-- A closed Gallery that nothing holds back opens, or is refused with the first cause in R349's order. -/
theorem exec_open_of_closed (ho : isOpen s g = false) (hl : ¬(tearing s g = true ∨ groupsExiting s g = true)) :
    Answers s e tag (.open e tag) 0x22 (openStatus (openStat s g)) (openGallery (markStarted s e c) g) := by
  refine exec_of_runWaiting rfl hw h ?_
  simp only [argGal_of_lt hg, isOpen_markStarted, ho, tearing_markStarted, groupsExiting_markStarted, Bool.or_eq_true,
    hl, Bool.false_eq_true, if_false, openStat_markStarted, done]

end opening

/-- An open that is refused leaves its cause in OPENSTAT. -/
theorem openGallery_of_refused {u : State} {g : Gal} {k : Nat} (hk : openStat u g = k) (h0 : k ≠ 0) :
    openGallery u g = fset u (glyReg g.val 0) 23 16 k := by
  simp only [openGallery, hk, h0, if_false]

theorem modGal_modGal (s : State) (g : Gal) (f k : Gallery → Gallery) :
    modGal (modGal s g f) g k = modGal s g (fun x => k (f x)) := by
  simp only [modGal, setGal_gal, Fin.getElem_fin, Vector.getElem_set_self]
  unfold setGal
  rw [Vector.set_set]

/-- An open that succeeds: the Gallery open and locked, its collective queues new, no LOSS notice kept. -/
theorem openGallery_of_ok {u : State} {g : Gal} (hk : openStat u g = 0) :
    openGallery u g = modGal (fset (fset u (glyReg g.val 0) 23 16 0) (glyReg g.val 0) 1 0 3) g
      (fun x => { x with cq := Vector.replicate 16 {}, stepSeal := { x.stepSeal with losses := [] } }) := by
  simp only [openGallery, hk, if_true, modSeal]
  exact modGal_modGal _ _ _ _

end commands

/-! ### OPENSTAT (R349) -/

section openStat
variable {s : State} {g : Gal}

/-- A composition or a binding is empty. -/
abbrev Unbound (s : State) (g : Gal) : Prop :=
  bits (rget s (glyReg g.val 0x10)) 15 0 = 0 ∨ bits (rget s (glyReg g.val 0x18)) 15 0 = 0 ∨
    bits (rget s (glyReg g.val 0x30)) 1 0 = 0

/-- The device has no Catalogue, or lies outside the Gallery's box. -/
abbrev OutsideBox (s : State) (g : Gal) : Prop :=
  catValid s = false ∨ (bit s.catActive.gal[g] 63 = true ∧ inBox s g (coord s) = false)

theorem openStat_eq : openStat s g =
    if Unbound s g then 4 else if tmbState s ≠ 3 then 1 else if OutsideBox s g then 2
      else if s.retire ≠ [] then 3 else 0 := by
  have ho : (!catValid s || (galValid s g && !inBox s g (coord s))) = true ↔ OutsideBox s g := by
    simp [OutsideBox, galValid]
  unfold openStat
  exact if_congr Iff.rfl rfl (if_congr Iff.rfl rfl (if_congr ho rfl rfl))

end openStat

section commands
variable {s : State} {e : Ep} {tag : BitVec 32} {c : ShtCmdRec}

/-! ### BIND, REG_READ and REG_WRITE -/

/-- An illegal binding: a reserved bit, a family that is not, or an IPv4 address that is too long. -/
abbrev badBinding (c : ShtCmdRec) : Prop :=
  bits (c.arg 1) 63 10 ≠ 0 ∨ bits (c.arg 1) 7 3 ≠ 0 ∨ bits (c.arg 1) 9 8 = 0 ∨ bits (c.arg 1) 9 8 = 3 ∨
    (bits (c.arg 1) 9 8 = 1 ∧ (bits (c.arg 2) 63 32 ≠ 0 ∨ c.arg 3 ≠ 0))

theorem exec_bind (h : Starts s e tag 0x21 c) : exec (.bind e tag) s = .next (
    if badBinding c then complete (markStarted s e c) e tag 0x21 .invalid 0 0 0
    else if isOpen s (Fin.ofNat 8 (bits (c.arg 1) 2 0)) = true then complete (markStarted s e c) e tag 0x21 .galleryOpen 0 0 0
    else complete (bindHost (markStarted s e c) (Fin.ofNat 8 (bits (c.arg 1) 2 0)) (bits (c.arg 1) 9 8) (c.arg 2) (c.arg 3)
      (c.arg 4) (c.arg 5) (c.arg 6) (c.arg 7)) e tag 0x21 .ok 0 0 0) :=
  exec_of_runCmd rfl h (if_congr Iff.rfl rfl rfl)

/-- The registers that name a Gallery's host. -/
theorem bindHost_rget {u : State} (hr : keysRise u.dev) (g : Gal) (fam : Nat) (hf : fam < 4) (a2 a3 a4 a5 a6 a7 : Word) :
    bits (rget (bindHost u g fam a2 a3 a4 a5 a6 a7) (glyReg g.val 0x30)) 1 0 = fam ∧
    rget (bindHost u g fam a2 a3 a4 a5 a6 a7) (glyReg g.val 0x20) = a2 ∧
    rget (bindHost u g fam a2 a3 a4 a5 a6 a7) (glyReg g.val 0x28) = a3 ∧
    rget (bindHost u g fam a2 a3 a4 a5 a6 a7) (glyReg g.val 0x38) = a4 ∧
    rget (bindHost u g fam a2 a3 a4 a5 a6 a7) (glyReg g.val 0x40) = a5 ∧
    rget (bindHost u g fam a2 a3 a4 a5 a6 a7) (glyReg g.val 0x48) = a6 ∧
    rget (bindHost u g fam a2 a3 a4 a5 a6 a7) (glyReg g.val 0x50) = a7 := by
  have hne : ∀ o p, o ≠ p → glyReg g.val o ≠ glyReg g.val p := fun o p h e => h (by unfold glyReg at e; omega)
  have hn : ∀ (v : State) (o p : Nat) (w : Word), o ≠ p → rget (rset v (glyReg g.val p) w) (glyReg g.val o) =
      rget v (glyReg g.val o) := fun v o p w h => rget_rset_ne v _ _ w (hne o p h)
  have h1 := fset_rise (glyReg g.val 0x30) 1 0 fam hr
  have h2 := rset_rise (glyReg g.val 0x20) a2 h1
  have h3 := rset_rise (glyReg g.val 0x28) a3 h2
  have h4 := rset_rise (glyReg g.val 0x38) a4 h3
  have h5 := rset_rise (glyReg g.val 0x40) a5 h4
  have h6 := rset_rise (glyReg g.val 0x48) a6 h5
  unfold bindHost
  refine ⟨?_, ?_, ?_, ?_, ?_, ?_, rget_rset _ _ a7 h6⟩
  · rw [hn _ 0x30 0x50 a7 (by decide), hn _ 0x30 0x48 a6 (by decide), hn _ 0x30 0x40 a5 (by decide),
      hn _ 0x30 0x38 a4 (by decide), hn _ 0x30 0x28 a3 (by decide), hn _ 0x30 0x20 a2 (by decide),
      rget_fset u _ 1 0 fam hr, bits_setBits _ 1 0 fam (by omega) (by omega)]
    exact Nat.mod_eq_of_lt hf
  · rw [hn _ 0x20 0x50 a7 (by decide), hn _ 0x20 0x48 a6 (by decide), hn _ 0x20 0x40 a5 (by decide),
      hn _ 0x20 0x38 a4 (by decide), hn _ 0x20 0x28 a3 (by decide), rget_rset _ _ a2 h1]
  · rw [hn _ 0x28 0x50 a7 (by decide), hn _ 0x28 0x48 a6 (by decide), hn _ 0x28 0x40 a5 (by decide),
      hn _ 0x28 0x38 a4 (by decide), rget_rset _ _ a3 h2]
  · rw [hn _ 0x38 0x50 a7 (by decide), hn _ 0x38 0x48 a6 (by decide), hn _ 0x38 0x40 a5 (by decide),
      rget_rset _ _ a4 h3]
  · rw [hn _ 0x40 0x50 a7 (by decide), hn _ 0x40 0x48 a6 (by decide), rget_rset _ _ a5 h4]
  · rw [hn _ 0x48 0x50 a7 (by decide), rget_rset _ _ a6 h5]

/-- An offset outside the device register space. -/
abbrev farOffset (a : Word) : Prop := a.toNat % 8 ≠ 0 ∨ 0x12000000 ≤ a.toNat

theorem regArg_iff (a : Word) : (!regArg a) = true ↔ farOffset a := by
  simp only [regArg, farOffset, Bool.not_eq_true', decide_eq_false_iff_not, not_and_or, not_lt, ne_eq]

theorem exec_regRead (h : Starts s e tag 0x23 c) : exec (.regRead e tag) s = .next (
    if farOffset (c.arg 1) then complete (markStarted s e c) e tag 0x23 .range 0 0 0
    else match readReg (markStarted s e c) .curator (c.arg 1).toNat with
      | some (w, t) => complete t e tag 0x23 .ok w 0 0
      | none => complete (markStarted s e c) e tag 0x23 .ok 0 0 0) := by
  refine exec_of_runCmd rfl h ((if_congr (regArg_iff _) rfl rfl).trans ?_)
  rcases readReg (markStarted s e c) .curator (c.arg 1).toNat with _ | ⟨w, t⟩ <;> rfl

theorem exec_regWrite (h : Starts s e tag 0x24 c) : exec (.regWrite e tag) s = .next (
    if farOffset (c.arg 1) then complete (markStarted s e c) e tag 0x24 .range 0 0 0
    else complete ((writeReg (markStarted s e c) .curator (c.arg 1).toNat (c.arg 2)).getD (markStarted s e c)) e tag 0x24
      .ok 0 0 0) :=
  exec_of_runCmd rfl h (if_congr (regArg_iff _) rfl rfl)

end commands

end Sys2Proof.Machine
end

section
/-! PROOFS. RETIRE_APPLY: records of errors, a row's remap entry, and what the command does. -/

namespace Sys2Proof.Machine

/-! ### Records of errors (R382, R384, R406) -/

theorem crWrite_rest (s : State) (kind : Nat) (x : FEntry) : crWrite s kind x = { s with cr := (crWrite s kind x).cr } := by
  unfold crWrite
  split
  · rfl
  · dsimp only; split <;> rfl

theorem frqPush_rest (s : State) (q : Fin 9) (x : FEntry) (cls : Nat) (g : Option Gal) :
    frqPush s q x cls g = { s with frq := (frqPush s q x cls g).frq, cr := (frqPush s q x cls g).cr } := by
  unfold frqPush
  dsimp only
  split
  · rfl
  · rw [crWrite_rest]; rfl

/-- A record changes the Fault Record Queues and the Condition Report only. -/
theorem record_rest (s : State) (x : Err) (nest cls : Nat) : (record s x nest cls).2 =
    { s with frq := (record s x nest cls).2.frq, cr := (record s x nest cls).2.cr } := by
  simp only [record, takeSeq]
  split
  · rw [crWrite_rest]
    split
    · rw [frqPush_rest]
    · rfl
  · split
    · rw [frqPush_rest]
    · rfl

theorem note_rest (s : State) (x : Err) : note s x = { s with frq := (note s x).frq, cr := (note s x).cr } :=
  record_rest s x 0 x.cls

/-- An error that goes to the Condition Report alone is its newest record. -/
theorem note_of_toCr {s : State} {x : Err} (hq : toFrq x.kind = false) (hc : toCr x.kind = true) :
    note s x = crWrite (takeSeq s).2 x.kind (mkEntry (takeSeq s).2 x 0 x.cls (takeSeq s).1) := by
  simp only [note, record, hq, hc, Bool.false_eq_true, if_false, if_true]

theorem noteFault_keeps (s : State) (x : Err) :
    (noteFault s x).retire = s.retire ∧ ∀ o, ¬CountsSends o → rget (noteFault s x) o = rget s o := by
  have hr := record_rest s x 0 x.cls
  have hd : (record s x 0 x.cls).2.dev = s.dev := by rw [hr]
  have ht : (record s x 0 x.cls).2.retire = s.retire := by rw [hr]
  unfold noteFault
  dsimp only
  split
  · exact ⟨ht, fun o _ => rget_congr hd o⟩
  · refine ⟨?_, fun o ho => ?_⟩
    · rw [galEvent, (sendEvent_sends _ _ _ _ _ _ _).retire, ht]
    · rw [galEvent, (sendEvent_sends _ _ _ _ _ _ _).regs o ho, rget_congr hd]

/-! ### Registers of the Cellar (Table 8-8) -/

theorem celReg_lt {g o : Nat} (hg : g < 16) (ho : o < 0x10000) : 0x07000000 ≤ celReg g o ∧ celReg g o < 0x07100000 := by
  unfold celReg
  omega

theorem not_countsSends_cel {g o : Nat} (hg : g < 16) (ho : o < 0x10000) : ¬CountsSends (celReg g o) := by
  have := celReg_lt hg ho
  unfold CountsSends
  omega

theorem chState_chanFailing {s : State} {g c : Nat} (hg : g < 16) (hc : c < 16) (r : Nat) (h : chState s g c = 0) :
    chState (chanFailing s g c r) g c = 1 := by
  have hset : setBits (rget s (chReg g c)) 9 8 1 ≠ regReset (chReg g c) := fun he => by
    have h1 := bits_setBits (rget s (chReg g c)) 9 8 1 (by omega) (by omega)
    have hreset : regReset (chReg g c) = 0x300 := by
      have hv : chReg g c = 0x07000000 + g * 0x10000 + (0x100 + 8 * c) := rfl
      have hb : chReg g c / 0x1000000 = 0x07 := by omega
      have ho : chReg g c % 0x10000 = 0x100 + 8 * c := by omega
      simp only [regReset, hb, ho]
      simp only [Nat.reduceEqDiff, if_false, if_true]
      rw [if_neg (by omega), if_neg (by omega), if_neg (by omega), if_pos (by omega)]
    rw [he, hreset] at h1
    exact absurd h1 (by decide)
  have hne : chReg g c ≠ celReg g 0 := by unfold chReg celReg; omega
  unfold chanFailing
  rw [if_neg (by omega)]
  dsimp only
  rw [chState, fget, (noteFault_keeps _ _).2 _ (show ¬CountsSends (chReg g c) from not_countsSends_cel hg (by omega)), fbit, rget_fset_ne _ _ _ _ _ _ hne,
    rget_fset_of_ne _ _ _ _ _ hset, bits_setBits _ _ _ _ (by omega) (by omega)]
  rfl

/-! ### Arguments of a row's retirement (Table 12-4) -/

theorem bit_eq_false_iff (w : Word) (i : Nat) : bit w i = false ↔ w.toNat / 2 ^ i % 2 = 0 := by
  rw [bit, Nat.testBit_eq_decide_div_mod_eq, decide_eq_false_iff_not]
  omega

theorem rowArg1_bits {a : Word} (h9 : bits a 63 9 = 0) (h8 : bit a 8 = false) : rowArg1 (bits a 3 0) (bits a 7 4) = a := by
  have ha : a.toNat < 2 ^ 9 := (bits_high_eq_zero (by omega)).mp h9
  rw [bit_eq_false_iff] at h8
  apply BitVec.eq_of_toNat_eq
  simp only [rowArg1, mkWord, List.foldl, bits, BitVec.toNat_ofNat, Nat.shiftLeft_eq, Nat.shiftRight_eq_div_pow]
  omega

theorem rowArg2_bits {a : Word} (h40 : bits a 63 40 = 0) (h25 : bits a 31 25 = 0) (h4 : bits a 7 4 = 0) :
    rowArg2 (bits a 3 0) (bits a 24 8) (bits a 39 32) = a := by
  have ha : a.toNat < 2 ^ 40 := (bits_high_eq_zero (by omega)).mp h40
  apply BitVec.eq_of_toNat_eq
  simp only [bits, Nat.shiftRight_eq_div_pow] at h25 h4
  simp only [rowArg2, mkWord, List.foldl, bits, BitVec.toNat_ofNat, Nat.shiftLeft_eq, Nat.shiftRight_eq_div_pow]
  omega

section remapWord
variable {bank row spare : Nat} (hb : bank < 2 ^ 4) (hr : row < 2 ^ 17) (hs : spare < 2 ^ 8)
include hb hr hs

theorem remapWord_toNat : (remapWord bank row spare).toNat = 2 ^ 63 + (bank * 2 ^ 26 + row * 2 ^ 9 + spare) := by
  simp only [remapWord, mkWord, List.foldl, BitVec.toNat_ofNat, Nat.shiftLeft_eq]
  omega

theorem remapWord_fields : bits (remapWord bank row spare) 29 26 = bank ∧ bits (remapWord bank row spare) 25 9 = row ∧
    bits (remapWord bank row spare) 7 0 = spare := by
  simp only [bits, remapWord_toNat hb hr hs, Nat.shiftRight_eq_div_pow]
  omega

/-- A remap entry has no bit that the register does not hold. -/
theorem remapWord_masked : remapWord bank row spare &&& 0x800000003FFFFEFF = remapWord bank row spare := by
  have hmask : ∀ i < 64, i ≠ 8 → ¬(30 ≤ i ∧ i < 63) → (0x800000003FFFFEFF : Word).getLsbD i = true := by decide
  apply BitVec.eq_of_getLsbD_eq
  intro i hi
  rw [BitVec.getLsbD_and]
  by_cases h8 : i = 8
  · have : (remapWord bank row spare).getLsbD i = false := by
      subst h8
      change bit _ 8 = false
      rw [bit_eq_false_iff, remapWord_toNat hb hr hs]
      omega
    rw [this, Bool.false_and]
  by_cases h30 : 30 ≤ i ∧ i < 63
  · have : (remapWord bank row spare).getLsbD i = false := by
      change (remapWord bank row spare).toNat.testBit i = false
      rw [remapWord_toNat hb hr hs, Nat.testBit_two_pow_add_gt h30.2]
      exact Nat.testBit_lt_two_pow (lt_of_lt_of_le (by omega) (Nat.pow_le_pow_right (by omega) h30.1))
    rw [this, Bool.false_and]
  · rw [hmask i hi h8 h30, Bool.and_true]

end remapWord

/-! ### A row's retirement applied (R248, R406) -/

theorem entryW0_kind {x : Err} (hg : x.gal = none) (hc : x.core = none) (hu : x.unit < 16) (hk : x.kind < 256) (seq : Nat) :
    bits (entryW0 x 0 0 seq) 55 48 = x.kind := by
  simp only [entryW0, hg, hc, mkWord, List.foldl, bits, BitVec.toNat_ofNat, Nat.shiftLeft_eq, Nat.shiftRight_eq_div_pow, b1,
    Option.isSome_none, Option.map_none, Option.getD_none, Bool.false_eq_true, if_false]
  omega

theorem pinRecord_rest (s : State) (kind : Nat) (a b : Word) : pinRecord s kind a b =
    { s with frq := (pinRecord s kind a b).frq, cr := (pinRecord s kind a b).cr } := by
  unfold pinRecord
  split
  · rfl
  · exact note_rest s _

/-- The Condition Report holds the record of a row after pinning it. -/
theorem pinRecord_pinned (s : State) (a b : Word) :
    ∃ r ∈ (pinRecord s 0x0A a b).cr.pinned, bits r.ent.w0 55 48 = 0x0A ∧ r.ent.w2 = a ∧ r.ent.w3 = b := by
  unfold pinRecord
  split
  · next h =>
    obtain ⟨r, hr, hp⟩ := List.any_eq_true.mp h
    exact ⟨r, hr, by simpa using hp⟩
  · rw [note_of_toCr rfl rfl]
    refine ⟨⟨_, _⟩, List.mem_append_right _ (List.mem_singleton.mpr rfl), ?_, rfl, rfl⟩
    exact entryW0_kind rfl rfl (show 8 < 16 by omega) (show 0x0A < 256 by omega) _

theorem scramble_rest (s : State) (ls : List Nat) :
    scramble s ls = { s with mem := (scramble s ls).mem, free := (scramble s ls).free } := by
  unfold scramble
  induction ls generalizing s with
  | nil => rfl
  | cons a ls ih => rw [List.foldl_cons, ih]

theorem not_mem_applied (s : State) (a b : Word) : (a, b) ∉ (applied s a b).retire := by simp [applied]

/-- What writing a remap entry leaves: the entry, the Condition Report, and its retirement no longer waiting. -/
theorem remapWrite_row {s : State} (hr : keysRise s.dev) {g c k bank row spare : Nat} (hk : k < 64) (hc : c < 16)
    (hb : bank < 2 ^ 4) (hrow : row < 2 ^ 17) (hs : spare < 2 ^ 8) :
    let t := remapWrite s g (64 * c + k) (remapWord bank row spare)
    rget t (remapReg g (64 * c + k)) = remapWord bank row spare ∧ t.cr = s.cr ∧
      (rowArg1 g c, rowArg2 bank row spare) ∉ t.retire := by
  have hdiv : (64 * c + k) / 64 = c := by omega
  obtain ⟨f1, f2, f3⟩ := remapWord_fields hb hrow hs
  have hne : remapReg g (64 * c + k) ≠ chReg g c := by unfold remapReg chReg celReg; omega
  have key : ∀ u : State, keysRise u.dev →
      let t := applied (countRemaps (rset u (remapReg g (64 * c + k)) (remapWord bank row spare)) g c) (rowArg1 g c)
        (rowArg2 bank row spare)
      rget t (remapReg g (64 * c + k)) = remapWord bank row spare ∧ t.cr = u.cr ∧
        (rowArg1 g c, rowArg2 bank row spare) ∉ t.retire := fun u hu =>
    ⟨(rget_fset_ne _ _ _ _ _ _ hne).trans (rget_rset _ _ _ hu), rfl, not_mem_applied _ _ _⟩
  simp only [remapWrite, hdiv, remapWord_masked hb hrow hs, f1, f2, f3]
  split
  · exact key s hr
  · generalize (if bit (rget s (remapReg g (64 * c + k))) 63 = true then _ else [] : List Nat) ++ _ = ls
    obtain ⟨k1, k2, k3⟩ := key (scramble s ls) (by rw [scramble_rest]; exact hr)
    exact ⟨k1, by rw [k2, scramble_rest], k3⟩

theorem pickCyclic_isSome {n start : Nat} {p : Nat → Bool} {i : Nat} (hi : i < n) (hp : p i = true) :
    ∃ k < n, pickCyclic n start p = some k := by
  have hmem : i ∈ (List.range n).map (fun j => (start + j) % n) := by
    refine List.mem_map.mpr ⟨(n - start % n + i) % n, List.mem_range.mpr (Nat.mod_lt _ (by omega)), ?_⟩
    have hs := Nat.mod_lt start (show n > 0 by omega)
    rw [Nat.add_mod_mod, ← Nat.mod_add_mod, show start % n + (n - start % n + i) = n + i by omega, Nat.add_mod_left,
      Nat.mod_eq_of_lt hi]
  obtain ⟨k, hk⟩ := Option.isSome_iff_exists.mp (List.find?_isSome.mpr ⟨i, hmem, hp⟩)
  obtain ⟨j, -, hj⟩ := List.mem_map.mp (List.mem_of_find?_eq_some hk)
  exact ⟨k, hj ▸ Nat.mod_lt _ (by omega), hk⟩

section applyRow
variable {s : State} {g c : Nat} {a : Word}

/-- The row records are full, and hold none of the row. -/
abbrev RowsFull (s : State) (g c : Nat) (a : Word) : Prop :=
  hasRecord s 0x0A (rowArg1 g c) (rowArg2 (bits a 3 0) (bits a 24 8) (bits a 39 32)) = false ∧ 2032 ≤ rowsTaken s

theorem rowsFull_iff : (!hasRecord s 0x0A (rowArg1 g c) (rowArg2 (bits a 3 0) (bits a 24 8) (bits a 39 32)) &&
    decide (2032 ≤ rowsTaken s)) = true ↔ RowsFull s g c a := by
  rw [Bool.and_eq_true, Bool.not_eq_true', decide_eq_true_eq]

theorem applyRow_of_full (hf : RowsFull s g c a) : applyRow s g c a =
    applied (chanFailing s g c 1) (rowArg1 g c) (rowArg2 (bits a 3 0) (bits a 24 8) (bits a 39 32)) := by
  simp only [applyRow]
  rw [if_pos (rowsFull_iff.mpr hf)]

/-- A row that finds a place: its record is pinned and its remap entry stands. -/
theorem applyRow_of_room (hr : keysRise s.dev) (hc : c < 16) (hf : ¬RowsFull s g c a)
    (hroom : ∃ i < 64, bit (rget s (remapReg g (64 * c + i))) 63 = false) :
    let t := applyRow s g c a
    (rowArg1 g c, rowArg2 (bits a 3 0) (bits a 24 8) (bits a 39 32)) ∉ t.retire ∧
    (∃ r ∈ t.cr.pinned, bits r.ent.w0 55 48 = 0x0A ∧ r.ent.w2 = rowArg1 g c ∧
      r.ent.w3 = rowArg2 (bits a 3 0) (bits a 24 8) (bits a 39 32)) ∧
    ∃ i < 64, rget t (remapReg g (64 * c + i)) = remapWord (bits a 3 0) (bits a 24 8) (bits a 39 32) := by
  have hpin := pinRecord_rest s 0x0A (rowArg1 g c) (rowArg2 (bits a 3 0) (bits a 24 8) (bits a 39 32))
  have hpinned := pinRecord_pinned s (rowArg1 g c) (rowArg2 (bits a 3 0) (bits a 24 8) (bits a 39 32))
  simp only [applyRow]
  rw [if_neg (mt rowsFull_iff.mp hf)]
  generalize pinRecord s 0x0A (rowArg1 g c) (rowArg2 (bits a 3 0) (bits a 24 8) (bits a 39 32)) = u at hpin hpinned ⊢
  have hdev : u.dev = s.dev := by rw [hpin]
  split
  · next hany =>
    obtain ⟨x, hx, hw⟩ := List.any_eq_true.mp hany
    obtain ⟨i, hi, rfl⟩ := List.mem_map.mp hx
    have hw : rget u (remapReg g (64 * c + i)) = remapWord (bits a 3 0) (bits a 24 8) (bits a 39 32) := by simpa using hw
    exact ⟨not_mem_applied _ _ _, hpinned, i, List.mem_range.mp hi, hw⟩
  · obtain ⟨i, hi, hfree⟩ := hroom
    obtain ⟨k, hk, hpick⟩ := pickCyclic_isSome (start := (freeWord u).1.toNat % 64)
      (p := fun k => !bit (rget u (remapReg g (64 * c + k))) 63) hi (by rw [rget_congr hdev, hfree]; rfl)
    obtain ⟨h1, h2, h3⟩ := remapWrite_row (s := (freeWord u).2) (g := g) (c := c) (k := k) (by rw [← hdev] at hr; exact hr)
      hk hc (bits_lt a 3 0) (bits_lt a 24 8) (bits_lt a 39 32)
    rw [hpick]
    exact ⟨h3, by rw [h2]; exact hpinned, k, hk, h1⟩

end applyRow

/-! ### RETIRE_APPLY (Table 12-4) -/

section retireApply
variable {s : State} {e : Ep} {tag : BitVec 32} {c : ShtCmdRec}

/-- A reserved bit of RETIRE_APPLY's arguments is set. -/
abbrev badRetire (c : ShtCmdRec) : Prop :=
  bits (c.arg 1) 63 9 ≠ 0 ∨ bits (c.arg 2) 63 40 ≠ 0 ∨ bits (c.arg 2) 31 25 ≠ 0 ∨ bits (c.arg 2) 7 4 ≠ 0 ∨
    (bit (c.arg 1) 8 = true ∧ c.arg 2 ≠ 0)

/-- A group belongs to an open Gallery. -/
abbrev GroupOpen (s : State) (g : Nat) : Prop := ∃ o, groupOwner s g = some o ∧ isOpen s o = true

theorem groupOpen_iff (g : Nat) : ((groupOwner s g).any (fun o => isOpen s o) = true) ↔ GroupOpen s g := Option.any_eq_true _ _

/-- The retirement stands among those that wait. -/
def withRetire (s : State) (r : Word × Word) : State :=
  { s with retire := if r ∈ s.retire then s.retire else s.retire ++ [r] }

theorem withRetire_eq (s : State) (r : Word × Word) :
    { s with retire := s.retire ++ (if s.retire.contains r then [] else [r]) } = withRetire s r := by
  unfold withRetire
  by_cases h : r ∈ s.retire <;> simp [h]

theorem mem_withRetire (s : State) (r : Word × Word) : r ∈ (withRetire s r).retire := by
  unfold withRetire
  by_cases h : r ∈ s.retire <;> simp [h]

/-- What RETIRE_APPLY does with a retirement once it is held. -/
def applyRetire (s : State) (a1 a2 : Word) : State :=
  if bit a1 8 then
    (if retiredCh s (bits a1 3 0) = some (bits a1 7 4) then applied s a1 a2
     else celRun (celRun s (bits a1 3 0) 1 (bits a1 7 4) 0 (fun s => failCh s (bits a1 3 0) (bits a1 7 4))) (bits a1 3 0) 2 0 0
       (fun s => rebuild s (bits a1 3 0)))
  else celRun s (bits a1 3 0) 4 (bits a1 7 4) a2 (fun s => applyRow s (bits a1 3 0) (bits a1 7 4) a2)

theorem exec_retireApply (h : Starts s e tag 0x25 c) : exec (.retireApply e tag) s = .next (
    if badRetire c then complete (markStarted s e c) e tag 0x25 .invalid 0 0 0
    else if bit (c.arg 1) 8 = false ∧ 231 < bits (c.arg 2) 39 32 then complete (markStarted s e c) e tag 0x25 .range 0 0 0
    else if GroupOpen s (bits (c.arg 1) 3 0) then complete (markStarted s e c) e tag 0x25 .badState 0 0 0
    else complete (applyRetire (withRetire (markStarted s e c) (c.arg 1, c.arg 2)) (c.arg 1) (c.arg 2)) e tag 0x25 .ok 0 0 0) := by
  refine exec_of_runCmd rfl h ?_
  simp only [withRetire_eq, done]
  refine if_congr Iff.rfl rfl (if_congr ?_ rfl (if_congr (groupOpen_iff _) rfl rfl))
  rw [Bool.and_eq_true, Bool.not_eq_true', decide_eq_true_eq]

theorem applyRetire_of_retired {a1 a2 : Word} (hc : bit a1 8 = true) (hr : retiredCh s (bits a1 3 0) = some (bits a1 7 4)) :
    applyRetire s a1 a2 = applied s a1 a2 := by
  rw [applyRetire, if_pos hc, if_pos hr]

/-- A channel's retirement fails the channel, then rebuilds the group. -/
theorem applyRetire_of_channel {a1 a2 : Word} (hc : bit a1 8 = true) (hr : retiredCh s (bits a1 3 0) ≠ some (bits a1 7 4))
    {w t : State} (hw : exec (.celFailCh (Fin.ofNat 16 (bits a1 3 0)) (Fin.ofNat 16 (bits a1 7 4))) s = .next w)
    (ht : exec (.celRebuild (Fin.ofNat 16 (bits a1 3 0))) w = .next t) : applyRetire s a1 a2 = t := by
  have hg : (Fin.ofNat 16 (bits a1 3 0)).val = bits a1 3 0 := Nat.mod_eq_of_lt (bits_lt a1 3 0)
  have hk : (Fin.ofNat 16 (bits a1 7 4)).val = bits a1 7 4 := Nat.mod_eq_of_lt (bits_lt a1 7 4)
  have hw' : celRun s _ 1 _ 0 (fun s => failCh s _ _) = w := Host.Outcome.next.inj hw
  have ht' : celRun w _ 2 0 0 (fun s => rebuild s _) = t := Host.Outcome.next.inj ht
  rw [hg, hk] at hw'
  rw [hg] at ht'
  rw [applyRetire, if_pos hc, if_neg hr, hw', ht']

section row
variable {a1 a2 : Word} (hrow : bit a1 8 = false)
include hrow

/-- A row of a group in self-refresh waits. -/
theorem applyRetire_of_asleep (h11 : bit (rget s (celReg (bits a1 3 0) 0)) 11 = true) (hm : celMode s (bits a1 3 0) ≠ 2) :
    (applyRetire s a1 a2).retire = s.retire := by
  rw [applyRetire, hrow, if_neg Bool.false_ne_true, celRun, h11, decide_eq_true hm, Bool.and_self, if_pos rfl]
  unfold modGroup wakeGroup
  split <;> rfl

theorem applyRetire_of_awake (h11 : bit (rget s (celReg (bits a1 3 0) 0)) 11 = false) :
    applyRetire s a1 a2 = applyRow s (bits a1 3 0) (bits a1 7 4) a2 := by
  rw [applyRetire, hrow, if_neg Bool.false_ne_true, celRun, h11, Bool.false_and, if_neg Bool.false_ne_true]

end row

theorem chState_withRetire (s : State) (r : Word × Word) (g k : Nat) : chState (withRetire s r) g k = chState s g k := rfl

theorem chState_applied (s : State) (a b : Word) (g k : Nat) : chState (applied s a b) g k = chState s g k := rfl

/-- A row that RETIRE_APPLY takes: it waits while its group sleeps; without a place for its record its channel fails; else it
is recorded and remapped. -/
theorem applyRetire_row {a1 a2 : Word} (hrow : bit a1 8 = false) (h9 : bits a1 63 9 = 0) (h40 : bits a2 63 40 = 0)
    (h25 : bits a2 31 25 = 0) (h4 : bits a2 7 4 = 0) :
    let g := bits a1 3 0
    let k := bits a1 7 4
    let t := applyRetire (withRetire s (a1, a2)) a1 a2
    let full : Prop := hasRecord s 0x0A a1 a2 = false ∧ 2032 ≤ rowsTaken s
    (bit (rget s (celReg g 0)) 11 = true → celMode s g ≠ 2 → (a1, a2) ∈ t.retire) ∧
    (bit (rget s (celReg g 0)) 11 = false → full → (a1, a2) ∉ t.retire ∧ (chState s g k = 0 → chState t g k = 1)) ∧
    (bit (rget s (celReg g 0)) 11 = false → ¬full → (∃ i < 64, bit (rget s (remapReg g (64 * k + i))) 63 = false) →
      keysRise s.dev →
      (a1, a2) ∉ t.retire ∧ (∃ r ∈ t.cr.pinned, bits r.ent.w0 55 48 = 0x0A ∧ r.ent.w2 = a1 ∧ r.ent.w3 = a2) ∧
      ∃ i < 64, rget t (remapReg g (64 * k + i)) =
        mkWord [(63, 1), (26, bits a2 3 0), (9, bits a2 24 8), (0, bits a2 39 32)]) := by
  have e1 := rowArg1_bits h9 hrow
  have e2 := rowArg2_bits h40 h25 h4
  have hfull : RowsFull (withRetire s (a1, a2)) (bits a1 3 0) (bits a1 7 4) a2 ↔ hasRecord s 0x0A a1 a2 = false ∧ 2032 ≤ rowsTaken s := by
    unfold RowsFull
    rw [e1, e2]
    rfl
  refine ⟨fun h11 hm => ?_, fun h11 hf => ?_, fun h11 hf hroom hr => ?_⟩
  · rw [applyRetire_of_asleep (s := withRetire s (a1, a2)) hrow h11 hm]
    exact mem_withRetire _ _
  · rw [applyRetire_of_awake (s := withRetire s (a1, a2)) hrow h11, applyRow_of_full (hfull.mpr hf), e1, e2]
    refine ⟨not_mem_applied _ _ _, fun h0 => ?_⟩
    rw [chState_applied]
    exact chState_chanFailing (bits_lt a1 3 0) (bits_lt a1 7 4) 1 ((chState_withRetire _ _ _ _).trans h0)
  · have h := applyRow_of_room (s := withRetire s (a1, a2)) hr (bits_lt a1 7 4) (mt hfull.mp hf) hroom
    rw [e1, e2] at h
    rw [applyRetire_of_awake (s := withRetire s (a1, a2)) hrow h11]
    exact h

end retireApply

end Sys2Proof.Machine
end

section
/-! PROOFS. The Condition Report, the Appraisal, mirror copies, quotes and updates. -/

namespace Sys2Proof.Machine

section commands
variable {s : State} {e : Ep} {tag : BitVec 32} {c : ShtCmdRec}

/-! ### Condition Report and Appraisal (Table 13-13) -/

theorem crpWord_congr {s t : State} (h : t.cr = s.cr) (o : Nat) (ho : o < 0x40) : crpWord t 0 o = crpWord s 0 o := by
  simp only [crpWord, pinnedRows, h]
  rw [if_neg (Nat.not_le.mpr ho), if_neg (Nat.not_le.mpr ho)]
  rfl

theorem mem_insertRec {r x : CrRec} {l : List CrRec} : x ∈ insertRec r l ↔ x = r ∨ x ∈ l := by
  induction l with
  | nil => simp [insertRec]
  | cons y l ih =>
    rw [insertRec]
    split
    · simp
    · rw [List.mem_cons, ih, List.mem_cons]
      tauto

theorem mem_sortRecs {x : CrRec} {l : List CrRec} : x ∈ l.foldr insertRec [] ↔ x ∈ l := by
  induction l with
  | nil => rfl
  | cons r l ih => rw [List.foldr_cons, mem_insertRec, ih, List.mem_cons]

theorem mem_recordsFrom (s : State) (q : Nat) (r : CrRec) :
    r ∈ recordsFrom s q ↔ (r ∈ s.cr.pinned ∨ r ∈ s.cr.general) ∧ q ≤ bits r.ent.w0 31 0 := by
  rw [recordsFrom, mem_sortRecs, List.mem_filter, List.mem_append, decide_eq_true_eq]
  rfl

/-- A count of entries that READ commands take. -/
abbrev badCount (a : Word) : Prop := a = 0 ∨ 256 < a.toNat

theorem exec_crRead_of_bad (h : Starts s e tag 0x30 c) (hb : badCount (c.arg 2)) :
    Answers s e tag (.crRead e tag) 0x30 .invalid (markStarted s e c) :=
  exec_of_runCmd rfl h (if_pos hb)

/-- The records sent as CR_ENTRY events. -/
def sendRecords (s : State) (l : List CrRec) : State := l.foldl (fun s r => sendEvent s .mgmt 0x10 0 0 0 (recWords s r)) s

theorem sendRecords_sends (s : State) (l : List CrRec) : Sends s (sendRecords s l) :=
  .foldl _ (fun s r => sendEvent_sends s .mgmt 0x10 0 0 0 (recWords s r)) l s

theorem exec_crRead (h : Starts s e tag 0x30 c) (hb : ¬badCount (c.arg 2)) :
    let l := (recordsFrom s (c.arg 1).toNat).take (c.arg 2).toNat
    Answers s e tag (.crRead e tag) 0x30 .ok (sendRecords (markStarted s e c) l) (BitVec.ofNat 64 l.length)
      (crpWord (markStarted s e c) 0 8) (crpWord (markStarted s e c) 0 0x10) := by
  intro l
  refine exec_of_runCmd rfl h ((if_neg hb).trans ?_)
  change complete (sendRecords (markStarted s e c) l) e tag 0x30 .ok (BitVec.ofNat 64 l.length)
    (crpWord (sendRecords (markStarted s e c) l) 0 8) (crpWord (sendRecords (markStarted s e c) l) 0 0x10) = _
  have hcr := (sendRecords_sends (markStarted s e c) l).cr
  rw [crpWord_congr hcr 8 (by omega), crpWord_congr hcr 0x10 (by omega)]

theorem exec_crClear (h : Starts s e tag 0x31 c) :
    Answers s e tag (.crClear e tag) 0x31 .ok { markStarted s e c with cr := { s.cr with
      general := s.cr.general.filter (fun r => decide ((c.arg 1).toNat < bits r.ent.w0 31 0)) } } :=
  exec_of_runCmd rfl h rfl

theorem exec_appraiseRead (h : Starts s e tag 0x32 c) : exec (.appraiseRead e tag) s = .next (
    if (!component (c.arg 1).toNat) = true then complete (markStarted s e c) e tag 0x32 .range 0 0 0
    else complete (markStarted s e c) e tag 0x32 .ok (BitVec.ofNat 64 (score s (c.arg 1).toNat).score)
      (BitVec.ofNat 64 (score s (c.arg 1).toNat).peer) (BitVec.ofNat 64 (score s (c.arg 1).toNat).advn)) :=
  exec_of_runCmd rfl h rfl

/-- The score of a port with its partner's. -/
def withPeer (s : State) (k p : Nat) : State := setScore s k { score s k with peer := p, peerAt := some (now s) }

theorem score_withPeer (s : State) (k p : Nat) :
    score (withPeer s k p) k = { score s k with peer := p, peerAt := some (now s) } :=
  look_put_of_ne _ _ _ _ (fun h => by simpa using congrArg Score.peerAt h)

theorem score_withPeer_ne (s : State) (p : Nat) {j k : Nat} (h : j ≠ k) : score (withPeer s k p) j = score s j :=
  look_put_ne _ _ _ _ _ _ h

theorem exec_appraisePeer (h : Starts s e tag 0x33 c) : exec (.appraisePeer e tag) s = .next (
    if 12 ≤ (c.arg 1).toNat then complete (markStarted s e c) e tag 0x33 .range 0 0 0
    else if 65535 < (c.arg 2).toNat then complete (markStarted s e c) e tag 0x33 .invalid 0 0 0
    else complete (withPeer (markStarted s e c) (0x100 + (c.arg 1).toNat) (c.arg 2).toNat) e tag 0x33 .ok 0 0 0) :=
  exec_of_runCmd rfl h rfl

/-! ### Mirror copies (R399, R400) -/

/-- The half that holds step `t`. -/
abbrev HalfHolds (s : State) (g : Gal) (t : BitVec 32) (h : Bool) : Prop :=
  (if h then s.gal[g].mrx.half1 else s.gal[g].mrx.half0) = some t

theorem mirrorHalf_eq (s : State) (g : Gal) (t : BitVec 32) : mirrorHalf s g t =
    (let named := bit (rget s (colGal g.val 0x50)) 1
     if HalfHolds s g t named then some named else if HalfHolds s g t (!named) then some (!named) else none) := by
  simp only [mirrorHalf, decide_eq_true_eq]

theorem mirrorHalf_of_some {s : State} {g : Gal} {t : BitVec 32} {h : Bool} (hh : mirrorHalf s g t = some h) :
    HalfHolds s g t h := by
  rw [mirrorHalf_eq] at hh
  generalize bit (rget s (colGal g.val 0x50)) 1 = named at hh
  by_cases h1 : HalfHolds s g t named
  · exact Option.some.inj ((if_pos h1).symm.trans hh) ▸ h1
  · by_cases h2 : HalfHolds s g t (!named)
    · exact Option.some.inj ((if_pos h2).symm.trans ((if_neg h1).symm.trans hh)) ▸ h2
    · exact nomatch (if_neg h2).symm.trans ((if_neg h1).symm.trans hh)

theorem mirrorHalf_of_none {s : State} {g : Gal} {t : BitVec 32} (hh : mirrorHalf s g t = none) (h : Bool) :
    ¬HalfHolds s g t h := by
  rw [mirrorHalf_eq] at hh
  generalize bit (rget s (colGal g.val 0x50)) 1 = named at hh
  have h1 : ¬HalfHolds s g t named := fun k => nomatch (if_pos k).symm.trans hh
  have h2 : ¬HalfHolds s g t (!named) := fun k => nomatch (if_pos k).symm.trans ((if_neg h1).symm.trans hh)
  cases h <;> cases named <;> assumption

section mirror
variable {g : Gal} (hg : (c.arg 1).toNat = g.val)

/-- The copy of a committed mirror that MIRROR_SEND begins. -/
def beginCopy (u : State) (g : Gal) (tag step : BitVec 32) (h : Bool) : State :=
  mirrorPump (modGal u g (fun y => { y with mcp := { y.mcp with
    running := true, tag := tag, step := step, half := h, next := 0, size := shardSize u g, unacked := [], commitSent := false } })) g true

section send
variable (hw : NoneWaits s e tag 0x34) (h : Starts s e tag 0x34 c)
include hw h

theorem exec_mirrorSend_of_noGal (hn : 8 ≤ (c.arg 1).toNat) :
    Answers s e tag (.mirrorSend e tag) 0x34 .invalid (markStarted s e c) := by
  refine exec_of_runWaiting rfl hw h ?_
  simp only [argGal_of_ge hn, done]

include hg

theorem exec_mirrorSend_of_busy (hr : s.gal[g].mcp.running = true) (ht : s.gal[g].mcp.tag ≠ tag) :
    ∃ t, exec (.mirrorSend e tag) s = .next t ∧ Sends s t := by
  refine exec_waits rfl hw h ?_
  simp only [argGal_of_lt hg, markStarted_gal, hr, ht, if_true, if_false]

theorem exec_mirrorSend_of_idle (hr : s.gal[g].mcp.running = false) : exec (.mirrorSend e tag) s = .next (
    if bits (c.arg 2) 63 32 ≠ 0 then complete (markStarted s e c) e tag 0x34 .invalid 0 0 0
    else if (!isOpen s g) = true then complete (markStarted s e c) e tag 0x34 .badState 0 0 0
    else match mirrorHalf s g (BitVec.ofNat 32 (c.arg 2).toNat) with
      | none => complete (markStarted s e c) e tag 0x34 .badState 2 0 0
      | some h => beginCopy (markStarted s e c) g tag (BitVec.ofNat 32 (c.arg 2).toNat) h) := by
  refine exec_of_runWaiting rfl hw h ?_
  simp only [argGal_of_lt hg, markStarted_gal, hr, Bool.false_eq_true, if_false, mirrorHalf_markStarted]
  by_cases hb : bits (c.arg 2) 63 32 = 0
  · rw [if_neg (not_not.mpr hb), if_neg (not_not.mpr hb)]
    by_cases ho : (!isOpen (markStarted s e c) g) = true
    · rw [if_pos ho, if_pos ((isOpen_markStarted s e c g) ▸ ho)]
      rfl
    · rw [if_neg ho, if_neg ((isOpen_markStarted s e c g) ▸ ho)]
      rcases mirrorHalf s g (BitVec.ofNat 32 (c.arg 2).toNat) with _ | h <;> rfl
  · rw [if_pos hb, if_pos hb]
    rfl

end send

section accept
variable (h : Starts s e tag 0x35 c)
include h

theorem exec_mirrorAccept_of_noGal (hn : 8 ≤ (c.arg 1).toNat) :
    Answers s e tag (.mirrorAccept e tag) 0x35 .invalid (markStarted s e c) := by
  refine exec_of_runCmd rfl h ?_
  simp only [argGal_of_ge hn, done]

include hg

theorem exec_mirrorAccept : exec (.mirrorAccept e tag) s = .next (
    if bits (c.arg 2) 63 32 ≠ 0 then complete (markStarted s e c) e tag 0x35 .invalid 0 0 0
    else if (!isOpen s g || s.gal[g].mrx.accept.isSome) = true then complete (markStarted s e c) e tag 0x35 .badState 0 0 0
    else modGal (markStarted s e c) g (fun y =>
      { y with mrx := { y.mrx with accept := some (tag, BitVec.ofNat 32 (c.arg 2).toNat, now s) } })) := by
  refine exec_of_runCmd rfl h ?_
  simp only [argGal_of_lt hg]
  rfl

end accept

end mirror

end commands

section commands
variable {s : State} {e : Ep} {tag : BitVec 32} {c : ShtCmdRec}

/-! ### Netboot, quotes, the measurement log and updates (R420, R424 to R428) -/

/-- The size of an image: a header and a body of a multiple of 64 bytes up to 6 MiB (R418). -/
abbrev ImageFits (n : Nat) : Prop := 8192 ≤ n ∧ n ≤ 8192 + 6 * 2 ^ 20 ∧ (n - 8192) % 64 = 0

theorem not_imageSize_iff (n : Nat) : (!imageSize n) = true ↔ ¬ImageFits n := by
  rw [imageSize, Bool.not_eq_true', decide_eq_false_iff_not]

theorem exec_netbootBegin (h : Starts s e tag 0x40 c) : exec (.netbootBegin e tag) s = .next (
    if bootState s ≠ 3 then complete (markStarted s e c) e tag 0x40 .badState 0 0 0
    else if ¬ImageFits (c.arg 1).toNat then complete (markStarted s e c) e tag 0x40 .range 0 0 0
    else complete { markStarted s e c with prov := { s.prov with netSize := some (c.arg 1).toNat, netImage := [] } }
      e tag 0x40 .ok 0 0 0) :=
  exec_of_runCmd rfl h (if_congr Iff.rfl rfl (if_congr (not_imageSize_iff _) rfl rfl))

/-- An image of the window passes the checks, as to its content and its size. -/
abbrev ImageWhole (h : List Byte) (body : Nat → List Byte) (size : Nat) : Prop :=
  imageOk h body = true ∧ size = 8192 + num h 4 4

theorem imageCode_eq (s : State) (h : List Byte) (body : Nat → List Byte) (size : Nat) : imageCode s h body size =
    if ¬ImageWhole h body size then 4 else if num h 2 2 < minVintage s then 5 else 0 := by
  refine if_congr ?_ rfl rfl
  rw [Bool.or_eq_true, Bool.not_eq_true', decide_eq_true_eq, not_and_or, Bool.not_eq_true]

theorem imageCode_eq_zero_iff (s : State) (h : List Byte) (body : Nat → List Byte) (size : Nat) :
    imageCode s h body size = 0 ↔ imageOk h body = true ∧ size = 8192 + num h 4 4 ∧ minVintage s ≤ num h 2 2 := by
  rw [imageCode_eq]
  by_cases hw : ImageWhole h body size
  · rw [if_neg (not_not.mpr hw)]
    by_cases ho : num h 2 2 < minVintage s
    · rw [if_pos ho]
      exact iff_of_false (by omega) (fun k => absurd k.2.2 (by omega))
    · rw [if_neg ho]
      exact iff_of_true rfl ⟨hw.1, hw.2, by omega⟩
  · rw [if_pos hw]
    exact iff_of_false (by omega) (fun k => hw ⟨k.1, k.2.1⟩)

/-- The header and the body that the window holds. -/
abbrev netHeader (s : State) : List Byte := tblBytes 0 s.prov.netImage 0 8192
abbrev netBody (s : State) (k : Nat) : List Byte := tblBytes 0 s.prov.netImage 8192 k

/-- A netboot that fails leaves its FAILCODE, except where STRAP 0b10 keeps the QSPI cause. -/
abbrev netFails (u : State) (k : Nat) : State := if strapBoot u = 2 then u else fset u 0x0D000000 31 24 k

theorem exec_netbootGo_of_closed (h : Starts s e tag 0x41 c) (hn : bootState s ≠ 3 ∨ s.prov.netSize = none) :
    Answers s e tag (.netbootGo e tag) 0x41 .badState (markStarted s e c) := by
  refine exec_of_runCmd rfl h ?_
  change (match s.prov.netSize with | none => _ | some n => _) = _
  rcases hs : s.prov.netSize with _ | n
  · rfl
  · exact if_pos (hn.resolve_right (by rw [hs]; exact Option.some_ne_none n))

section go
variable (h : Starts s e tag 0x41 c) (hb : bootState s = 3) {n : Nat} (hn : s.prov.netSize = some n)
include h hb hn

theorem exec_netbootGo : exec (.netbootGo e tag) s = .next (
    if imageCode s (netHeader s) (netBody s) n = 0 then
      startCurator (complete (markStarted s e c) e tag 0x41 .ok 0 0 0) (netHeader s) (netBody s (num (netHeader s) 4 4)) 2
    else complete (netFails (markStarted s e c) (imageCode s (netHeader s) (netBody s) n)) e tag 0x41 .digest
      (BitVec.ofNat 64 (imageCode s (netHeader s) (netBody s) n)) 0 0) := by
  refine exec_of_runCmd rfl h ?_
  change (match s.prov.netSize with | none => _ | some n => _) = _
  rw [hn]
  exact if_neg (not_not.mpr hb)

end go

/-- QUOTE once its argument is good: it begins when no other is formed. -/
def beginQuote (u : State) (e : Ep) (tag : BitVec 32) (g : Option Gal) (nonce : List Byte) : State :=
  { u with prov := { u.prov with quotes := [⟨e, tag, quoteBody u g nonce⟩] } }

/-- The Gallery that QUOTE names, or none. -/
abbrev quoteArg (g : Option Gal) : Word := match g with | none => 0xFF | some g => BitVec.ofNat 64 g.val

abbrev quoteNonce (c : ShtCmdRec) : List Byte := wordsOf [c.arg 2, c.arg 3, c.arg 4, c.arg 5]

/-- A Gallery holds neither clusters nor groups. -/
abbrev Unheld (s : State) (g : Gal) : Prop :=
  bits (rget s (glyReg g.val 0x10)) 15 0 = 0 ∧ bits (rget s (glyReg g.val 0x18)) 15 0 = 0

theorem ofNat_gal_toNat (g : Gal) : (BitVec.ofNat 64 g.val : Word).toNat = g.val := by
  have := g.isLt
  rw [BitVec.toNat_ofNat]
  omega

theorem ofNat_gal_ne (g : Gal) : (BitVec.ofNat 64 g.val : Word) ≠ 0xFF := fun h => by
  have h1 := congrArg BitVec.toNat h
  rw [ofNat_gal_toNat] at h1
  have := g.isLt
  simp at h1
  omega

section quote
variable (hw : NoneWaits s e tag 0x42) (h : Starts s e tag 0x42 c)
include hw h

theorem exec_quote_of_noGal (h1 : c.arg 1 ≠ 0xFF) (h8 : 8 ≤ (c.arg 1).toNat) :
    Answers s e tag (.quote e tag) 0x42 .invalid (markStarted s e c) := by
  refine exec_of_runWaiting rfl hw h ?_
  simp only [if_neg h1, argGal_of_ge h8, done]

theorem exec_quote_of_unheld {g : Gal} (hg : c.arg 1 = BitVec.ofNat 64 g.val) (hu : Unheld s g) :
    Answers s e tag (.quote e tag) 0x42 .badState (markStarted s e c) := by
  refine exec_of_runWaiting rfl hw h ?_
  have h1 : c.arg 1 ≠ 0xFF := hg ▸ ofNat_gal_ne g
  have hg' : argGal (c.arg 1) = some g := argGal_of_lt (by rw [hg, ofNat_gal_toNat])
  simp only [if_neg h1, hg']
  exact if_pos hu

/-- A quote that may be formed goes by those before it. -/
theorem exec_quote_of_free {g : Option Gal} (hg : c.arg 1 = quoteArg g) (hu : ∀ x, g = some x → ¬Unheld s x)
    (hq : s.prov.quotes = []) : exec (.quote e tag) s = .next (beginQuote (markStarted s e c) e tag g (quoteNonce c)) := by
  refine exec_of_runWaiting rfl hw h ?_
  rcases g with _ | g
  · simp only [hg, if_true, markStarted_prov, hq]
    rfl
  · have h1 : c.arg 1 ≠ 0xFF := hg ▸ ofNat_gal_ne g
    have hg' : argGal (c.arg 1) = some g := argGal_of_lt (by rw [hg, ofNat_gal_toNat])
    simp only [if_neg h1, hg', markStarted_prov, hq]
    exact if_neg (hu g rfl)

theorem exec_quote_of_taken {g : Option Gal} (hg : c.arg 1 = quoteArg g) (hu : ∀ x, g = some x → ¬Unheld s x)
    {q : QuoteJob} {l : List QuoteJob} (hq : s.prov.quotes = q :: l) (hn : ¬(q.tag = tag ∧ q.ep = e)) :
    ∃ t, exec (.quote e tag) s = .next t ∧ Sends s t := by
  refine exec_waits rfl hw h ?_
  rcases g with _ | g
  · simp only [hg, if_true, markStarted_prov, hq, if_neg hn]
  · have h1 : c.arg 1 ≠ 0xFF := hg ▸ ofNat_gal_ne g
    have hg' : argGal (c.arg 1) = some g := argGal_of_lt (by rw [hg, ofNat_gal_toNat])
    simp only [if_neg h1, hg', markStarted_prov, hq, if_neg hn]
    exact if_neg (hu g rfl)

end quote

theorem exec_measlogRead (h : Starts s e tag 0x43 c) : exec (.measlogRead e tag) s = .next (
    let l := (s.prov.log.drop (c.arg 1).toNat).take (c.arg 2).toNat
    if badCount (c.arg 2) then complete (markStarted s e c) e tag 0x43 .invalid 0 0 0
    else complete (sendParts (markStarted s e c) 0x13 l.flatten) e tag 0x43 .ok (BitVec.ofNat 64 l.length) 0 0) := by
  refine exec_of_runCmd rfl h (if_congr Iff.rfl rfl ?_)
  dsimp only
  rw [List.flatMap_id]
  rfl

theorem exec_flashBegin (h : Starts s e tag 0x44 c) : exec (.flashBegin e tag) s = .next (
    let slot := bits (rget s 0x0D000000) 13 12
    let k : Fin 2 := if slot = 0 then 1 else 0
    if 2 ≤ slot then complete (markStarted s e c) e tag 0x44 .badState 0 0 0
    else if ¬ImageFits (c.arg 1).toNat then complete (markStarted s e c) e tag 0x44 .range 0 0 0
    else { markStarted s e c with prov := { s.prov with
      flash := s.prov.flash.set k [], update := some { slot := k, size := (c.arg 1).toNat } } }) :=
  exec_of_runCmd rfl h (if_congr Iff.rfl rfl (if_congr (not_imageSize_iff _) rfl rfl))

/-- The held header stands in the slot, and the update is over. -/
def commitUpdate (s : State) (x : Update) : State :=
  { s with prov := { s.prov with
    flash := s.prov.flash.set x.slot (tblPut 0xFF s.prov.flash[x.slot] 0 (tblBytes 0 x.header 0 8192)), update := none } }

theorem exec_flashCommit (h : Starts s e tag 0x45 c) : exec (.flashCommit e tag) s = .next (
    match s.prov.update with
    | none => complete (markStarted s e c) e tag 0x45 .badState 0 0 0
    | some x =>
      if (!x.erased) = true then complete (markStarted s e c) e tag 0x45 .badState 0 0 0
      else if imageCode s (tblBytes 0 x.header 0 8192) (flashBody s x.slot) x.size = 0 then
        complete (commitUpdate (markStarted s e c) x) e tag 0x45 .ok (BitVec.ofNat 64 x.slot.val)
          (BitVec.ofNat 64 (num (tblBytes 0 x.header 0 8192) 2 2)) 0
      else complete (markStarted s e c) e tag 0x45 .digest 0 0 0) :=
  exec_of_runCmd rfl h (by
    change (match s.prov.update with | none => _ | some x => _) = _
    rcases s.prov.update with _ | x <;> rfl)

theorem tblPut_look {d : Byte} (l : List Byte) {t : Tbl Byte} (hr : keysRise t) (o i : Nat) :
    look d (tblPut d t o l) i = if o ≤ i ∧ i < o + l.length then l.getD (i - o) 0 else look d t i := by
  induction l generalizing t o with
  | nil => rw [tblPut, if_neg (by simp)]
  | cons b l ih =>
    rw [tblPut, ih (put_rise _ _ _ _ hr), look_put _ _ _ _ hr, List.length_cons]
    by_cases hi : i = o
    · subst hi
      rw [if_neg (by omega), if_pos rfl, if_pos (by omega), Nat.sub_self]
      rfl
    · rw [if_neg hi]
      by_cases hl : o + 1 ≤ i ∧ i < o + 1 + l.length
      · rw [if_pos hl, if_pos (by omega), show i - o = (i - (o + 1)) + 1 by omega, List.getD_cons_succ]
      · rw [if_neg hl, if_neg (by omega)]

theorem tblBytes_length (d : Byte) (t : Tbl Byte) (o n : Nat) : (tblBytes d t o n).length = n := by
  rw [tblBytes, List.length_map, List.length_range]

theorem commitUpdate_flash (x : Update) (hr : keysRise s.prov.flash[x.slot]) (o : Nat) :
    look 0xFF (commitUpdate s x).prov.flash[x.slot] o =
      if o < 8192 then (tblBytes 0 x.header 0 8192).getD o 0 else look 0xFF s.prov.flash[x.slot] o := by
  simp only [commitUpdate, Fin.getElem_fin, Vector.getElem_set_self]
  refine (tblPut_look _ (t := s.prov.flash[x.slot]) hr 0 o).trans ?_
  rw [tblBytes_length]
  simp

theorem commitUpdate_flash_ne (x : Update) {k : Fin 2} (hk : k ≠ x.slot) :
    (commitUpdate s x).prov.flash[k] = s.prov.flash[k] :=
  Vector.getElem_set_ne x.slot.isLt k.isLt (fun h => hk (Fin.ext h.symm))

end commands

/-! ### What ends later -/

theorem exec_mirrorAcceptTimeout_of_none {g : Gal} {s : State} (h : s.gal[g].mrx.accept = none) :
    exec (.mirrorAcceptTimeout g) s = .next s := by
  change Host.Outcome.next (match s.gal[g].mrx.accept with | none => _ | some a => _) = _
  rw [h]

theorem exec_mirrorAcceptTimeout_of_some {g : Gal} {s : State} {x : BitVec 32 × BitVec 32 × Nat}
    (h : s.gal[g].mrx.accept = some x) :
    exec (.mirrorAcceptTimeout g) s = .next (mirrorLost (advanceTo s (x.2.2 + 10000000)) g) := by
  change Host.Outcome.next (match s.gal[g].mrx.accept with | none => _ | some a => _) = _
  rw [h]

theorem fixLen_length (n : Nat) (b : List Byte) : (fixLen n b).length = n := by
  rw [fixLen, List.length_append, List.length_take, List.length_replicate]
  omega

/-- A quote's bytes: its signed part, then both signatures (R425). -/
def quoteBytes (s : State) (q : QuoteJob) : List Byte :=
  q.body ++ fixLen 64 (Config.ed25519Sign (s.prov.seeds.getD ([], [])).1 q.body)
    ++ fixLen 3309 (Config.mldsaSign (s.prov.seeds.getD ([], [])).2 q.body)

theorem exec_quoteSigned_of_nil {s : State} (h : s.prov.quotes = []) : exec .quoteSigned s = .next s := by
  change Host.Outcome.next (match s.prov.quotes with | [] => _ | q :: l => _) = _
  rw [h]

theorem exec_quoteSigned_of_cons {s : State} {q : QuoteJob} {l : List QuoteJob} (h : s.prov.quotes = q :: l) :
    exec .quoteSigned s = .next (complete (sendParts { s with prov := { s.prov with quotes := l } } 0x12 (quoteBytes s q))
      q.ep q.tag 0x42 .ok 4013 0 0) := by
  change Host.Outcome.next (match s.prov.quotes with | [] => _ | q :: l => _) = _
  rw [h]
  rfl

theorem quoteBytes_parts (s : State) (q : QuoteJob) :
    (q.body.length = 640 → (quoteBytes s q).length = 4013) ∧ (quoteBytes s q).take q.body.length = q.body ∧
    ∀ k, s.prov.seeds = some k →
      ((quoteBytes s q).drop q.body.length).take 64 = fixLen 64 (Config.ed25519Sign k.1 q.body) ∧
      (quoteBytes s q).drop (q.body.length + 64) = fixLen 3309 (Config.mldsaSign k.2 q.body) := by
  unfold quoteBytes
  refine ⟨fun hl => ?_, ?_, fun k hk => ?_⟩
  · rw [List.length_append, List.length_append, fixLen_length, fixLen_length, hl]
  · rw [List.append_assoc, List.take_left]
  · rw [hk, Option.getD_some, List.append_assoc]
    refine ⟨?_, ?_⟩
    · rw [List.drop_left, List.take_left' (fixLen_length _ _)]
    · rw [← List.drop_drop, List.drop_left, List.drop_left' (fixLen_length _ _)]

theorem exec_flashEraseComplete_of_none {s : State} (h : s.prov.update = none) : exec .flashEraseComplete s = .next s := by
  change Host.Outcome.next (match s.prov.update with | none => _ | some u => _) = _
  rw [h]

theorem exec_flashEraseComplete_of_erased {s : State} {x : Update} (h : s.prov.update = some x) (hx : x.erased = true) :
    exec .flashEraseComplete s = .next s := by
  change Host.Outcome.next (match s.prov.update with | none => _ | some u => _) = _
  rw [h]
  exact congrArg _ (if_pos hx)

/-- The slot is erased: window 1 is open. -/
def eraseDone (s : State) (x : Update) : State := { s with prov := { s.prov with update := some { x with erased := true } } }

theorem exec_flashEraseComplete {s : State} {x : Update} (h : s.prov.update = some x) (hx : x.erased = false) :
    exec .flashEraseComplete s = .next (((endpoint s .mgmt).cmds.filter (fun c => decide (c.op = 0x44) && c.started)).foldl
      (fun s c => complete s .mgmt c.tag 0x44 .ok (BitVec.ofNat 64 x.slot.val) 0 0) (eraseDone s x)) := by
  change Host.Outcome.next (match s.prov.update with | none => _ | some u => _) = _
  rw [h]
  exact congrArg _ (if_neg (Bool.eq_false_iff.mp hx))

end Sys2Proof.Machine
end

section
/-! PROOFS. A chip reset begins. -/

namespace Sys2Proof.Machine

/-! ### A chip reset begins (Table 13-9) -/

/-- The port's neighbours are told by frames alone. -/
theorem announceChipReset_rest (s : State) : announceChipReset s = { s with out := (announceChipReset s).out } := by
  unfold announceChipReset
  induction allPorts generalizing s with
  | nil => rfl
  | cons p l ih =>
    rw [List.foldl_cons, ih]
    split <;> rfl

/-- A new record of the general ring is its newest; the pinned records and the counts of resets stay. -/
theorem crWrite_general (s : State) {kind : Nat} (hk : ¬(kind = 0x0A ∨ kind = 0x0D)) (x : FEntry) :
    (crWrite s kind x).cr.general.getLast? = some ⟨x, crWord6 s⟩ ∧ (crWrite s kind x).cr.pinned = s.cr.pinned ∧
    (crWrite s kind x).cr.boots = s.cr.boots ∧ (crWrite s kind x).cr.cause = s.cr.cause := by
  simp only [crWrite, hk, if_false]
  split
  · next h =>
    refine ⟨?_, rfl, rfl, rfl⟩
    rw [List.length_append, List.length_singleton] at h
    rw [List.drop_append_of_le_length (by omega), List.getLast?_concat]
  · exact ⟨List.getLast?_concat, rfl, rfl, rfl⟩

/-- The error that a chip reset records. -/
def resetErr (cause seq : Nat) : Err :=
  { kind := 0x1D, cls := 0, unit := 13, d0 := mkWord [(0, 2), (8, cause)], d1 := BitVec.ofNat 64 seq }

/-- A chip reset has recorded itself. -/
def resetNoted (s : State) (cause seq : Nat) : State := note { s with cr := { s.cr with cause := cause } } (resetErr cause seq)

theorem resetNoted_rest (s : State) (cause seq : Nat) : resetNoted s cause seq =
    { s with frq := (resetNoted s cause seq).frq, cr := (resetNoted s cause seq).cr } := note_rest _ _

theorem resetNoted_cr (s : State) (cause seq : Nat) :
    (∃ r, (resetNoted s cause seq).cr.general.getLast? = some r ∧ bits r.ent.w0 55 48 = 0x1D ∧
      r.ent.w2 = mkWord [(0, 2), (8, cause)]) ∧
    (resetNoted s cause seq).cr.pinned = s.cr.pinned ∧ (resetNoted s cause seq).cr.boots = s.cr.boots ∧
    (resetNoted s cause seq).cr.cause = cause := by
  rw [resetNoted, note_of_toCr rfl rfl]
  obtain ⟨h1, h2, h3, h4⟩ := crWrite_general (takeSeq { s with cr := { s.cr with cause := cause } }).2
    (kind := (resetErr cause seq).kind) (show ¬(0x1D = 0x0A ∨ 0x1D = 0x0D) by decide)
    (mkEntry (takeSeq { s with cr := { s.cr with cause := cause } }).2 (resetErr cause seq) 0 (resetErr cause seq).cls
      (takeSeq { s with cr := { s.cr with cause := cause } }).1)
  exact ⟨⟨_, h1, entryW0_kind rfl rfl (show 13 < 16 by omega) (show 0x1D < 256 by omega) _, rfl⟩, h2, h3, h4⟩

theorem resetWord (cause : Nat) : mkWord [(0, 2), (8, cause)] = BitVec.ofNat 64 (2 + 256 * cause) := by
  apply BitVec.eq_of_toNat_eq
  simp only [mkWord, List.foldl, BitVec.toNat_ofNat, Nat.shiftLeft_eq]
  omega

/-- Of the memory a chip reset leaves the Cellar's bytes and marks. -/
theorem chipCleared_mem (s : State) :
    (∀ y, (chipCleared s).mem.byte y = if y < 2 ^ 41 then s.mem.byte y else 0) ∧
    ∀ l, (chipCleared s).mem.isPoisoned l = (decide (l < 2 ^ 35) && s.mem.poison.contains l) := by
  refine ⟨fun y => ?_, fun l => ?_⟩
  · have h := look_filter (0 : Byte) s.mem.cells (fun k => decide (k < cellarEnd)) y
    simp only [decide_eq_true_eq] at h
    exact h
  · have hdead : (chipCleared s).mem.deadAt (64 * l) = false := by
      unfold Memory.deadAt
      split <;> rfl
    rw [Memory.isPoisoned, hdead, Bool.or_false, Bool.eq_iff_iff, List.contains_iff_mem, Bool.and_eq_true, List.contains_iff_mem,
      decide_eq_true_eq]
    change l ∈ s.mem.poison.filter _ ↔ _
    rw [List.mem_filter, decide_eq_true_eq, and_comm]
    rfl

/-- Registers after a chip reset have their reset values, but for PWR_STATUS. -/
theorem rget_chipCleared (s : State) {o : Nat} (ho : o ≠ 0x10000000) : rget (chipCleared s) o = regReset o :=
  look_put_ne (regReset (pwrReg 0)) (regReset o) (pwrReg 0) _ [] o ho

theorem chipReset_chipResets (s : State) (cause : Nat) (seq : Nat) : ChipResets s (chipReset s cause seq) cause (some 0) := by
  obtain ⟨⟨r, hr, hkind, hword⟩, hpin, hboots, hcause⟩ := resetNoted_cr s cause seq
  have hann := announceChipReset_rest (resetNoted s cause seq)
  have hrest := resetNoted_rest s cause seq
  have hcr : (announceChipReset (resetNoted s cause seq)).cr = (resetNoted s cause seq).cr := by rw [hann]
  have hmem : (announceChipReset (resetNoted s cause seq)).mem = s.mem := by rw [hann, hrest]
  have hclk : (announceChipReset (resetNoted s cause seq)).clk = s.clk := by rw [hann, hrest]
  have hpend : (announceChipReset (resetNoted s cause seq)).pending = s.pending := by rw [hann, hrest]
  have hprov : (announceChipReset (resetNoted s cause seq)).prov = s.prov := by rw [hann, hrest]
  change ChipResets s { chipCleared (announceChipReset (resetNoted s cause seq)) with
    chipHold := some 0, retire := pinnedRetirements (announceChipReset (resetNoted s cause seq)) } cause (some 0)
  generalize announceChipReset (resetNoted s cause seq) = u at hcr hmem hclk hpend hprov ⊢
  obtain ⟨hbyte, hpoison⟩ := chipCleared_mem u
  rw [hmem] at hbyte hpoison
  rw [← hcr] at hr hpin hboots hcause
  exact ⟨rfl, hcause, hpin, hboots, ⟨r, hr, hkind, hword.trans (resetWord cause)⟩, by rw [← hclk]; rfl, rfl, rfl, rfl, rfl, rfl, rfl,
    rfl, rfl, rfl, rfl, rfl, rfl, by rw [← hprov]; rfl, hbyte, hpoison, fun o ho => rget_chipCleared u ho, hpend,
    congrArg (List.map _) hpin⟩

/-- SHT_CHIP_RESET completes, then resets. -/
theorem exec_shtChipReset {s : State} {e : Ep} {tag : BitVec 32} {c : ShtCmdRec} (h : Starts s e tag 0x36 c) :
    exec (.shtChipReset e tag) s = .next (chipReset (complete (markStarted s e c) e tag 0x36 .ok 0 0 0) 2 0) :=
  exec_of_runCmd rfl h rfl

end Sys2Proof.Machine
end

section
/-! PROOFS. The Curator starts from an image. -/

namespace Sys2Proof.Machine

/-! ### The Curator starts (R418, R421, R423) -/

/-- What readiness may change: registers below the Provenance block, the ports, the Timebase's state, and the ZEROs that
begin. -/
structure Readies (s t : State) : Prop where
  rest : t = { s with dev := t.dev, ports := t.ports, tb := t.tb, walker := t.walker, group := t.group }
  regs : ∀ o, 0x0D000000 ≤ o → rget t o = rget s o

namespace Readies
variable {s t u : State}

theorem refl (s : State) : Readies s s := ⟨rfl, fun _ _ => rfl⟩

theorem trans (h : Readies s t) (k : Readies t u) : Readies s u where
  rest := by rw [k.rest, h.rest]
  regs o ho := (k.regs o ho).trans (h.regs o ho)

theorem of_dev (h : t = { s with dev := t.dev, ports := t.ports, tb := t.tb, walker := t.walker, group := t.group })
    (hd : t.dev = s.dev) : Readies s t := ⟨h, fun o _ => rget_congr hd o⟩

theorem fset (s : State) {o : Nat} (ho : o < 0x0D000000) (hi lo v : Nat) : Readies s (fset s o hi lo v) where
  rest := rfl
  regs p hp := rget_fset_ne s p o hi lo v (by omega)

theorem modPort (s : State) (p : PortId) (f : Port → Port) : Readies s (modPort s p f) := .of_dev rfl rfl

theorem setWalker (s : State) (x : Walker) : Readies s { s with walker := x } := .of_dev rfl rfl

theorem setTb (s : State) (x : Timebase) : Readies s { s with tb := x } := .of_dev rfl rfl

theorem foldl {α : Type} (f : State → α → State) {l : List α} (hf : ∀ x ∈ l, ∀ s, Readies s (f s x)) (s : State) :
    Readies s (l.foldl f s) := by
  induction l generalizing s with
  | nil => exact refl s
  | cons x l ih =>
    exact (hf x List.mem_cons_self s).trans (ih (fun y hy => hf y (List.mem_cons_of_mem x hy)) _)

end Readies

theorem lnkReg_lt (p : PortId) : lnkReg p.val 0 < 0x0D000000 := by
  have := p.isLt
  unfold lnkReg
  omega

theorem rootSelf_readies (s : State) : Readies s (rootSelf s) where
  rest := rfl
  regs o ho := rget_rset_ne s o _ _ (by unfold tmbReg; omega)

theorem tbPort_readies (s : State) (p : PortId) (st : Nat) : Readies s (tbPort s p st) := by
  have hreg : tmbReg 0 < 0x0D000000 := by decide
  unfold tbPort
  split
  · split
    · exact (rootSelf_readies s).trans (.fset _ hreg _ _ _)
    · exact .refl s
  · dsimp only
    split
    · exact (Readies.modPort s p _).trans ((Readies.setTb _ _).trans (.fset _ hreg _ _ _))
    · exact .modPort s p _

theorem peerState_readies (s : State) (p : PortId) (greset : Nat) (chiprst : Bool) : Readies s (peerState s p greset chiprst) := by
  unfold peerState sendMgmt
  exact .modPort s p _

theorem enterState_readies (s : State) (p : PortId) (st reason : Nat) : Readies s (enterState s p st reason) :=
  (Readies.fset s (lnkReg_lt p) 3 0 st).trans ((Readies.fset _ (lnkReg_lt p) 43 40 reason).trans ((tbPort_readies _ p st).trans
    (peerState_readies _ p 0 false)))

theorem enablePort_readies (s : State) (p : PortId) : Readies s (enablePort s p) := by
  unfold enablePort
  split
  · exact .fset s (lnkReg_lt p) _ _ _
  · exact (enterState_readies s p _ _).trans (.modPort _ p _)

theorem wakeGroup_readies (s : State) (g : Fin 16) : Readies s (wakeGroup s g) := by
  unfold wakeGroup
  split
  · exact .of_dev rfl rfl
  · exact .refl s

theorem zeroStart_readies (s : State) {g : Nat} (hg : g < 16) (count : Nat) : Readies s (zeroStart s (g * 2 ^ 20) count) := by
  have hreg : celReg (g * 2 ^ 20 / 2 ^ 20) 0 < 0x0D000000 := by
    rw [Nat.mul_div_cancel _ (Nat.two_pow_pos 20)]
    unfold celReg
    omega
  exact (Readies.setWalker s _).trans ((Readies.fset _ hreg 14 14 1).trans (wakeGroup_readies _ _))

/-- What becoming ready keeps: memory, cores, processors of management, the measurements, and Provenance's registers. -/
theorem becomeReady_keeps (s : State) :
    (becomeReady s).mem = s.mem ∧ (becomeReady s).cores = s.cores ∧ (becomeReady s).mgmt = s.mgmt ∧
    (becomeReady s).prov.meas = s.prov.meas ∧ ∀ o, 0x0D000000 ≤ o → rget (becomeReady s) o = rget s o := by
  unfold becomeReady
  split
  · exact ⟨rfl, rfl, rfl, rfl, fun _ _ => rfl⟩
  · dsimp only
    generalize hv : ({ s with prov := { s.prov with selfTest := some (now s) } } : State) = v
    generalize hw : allPorts.foldl (fun s p => if s.ports[p].enableWait then enablePort s p else s) v = w
    have h1 : Readies v w := hw ▸ Readies.foldl _ (fun p _ t => by
      split
      · exact enablePort_readies t p
      · exact .refl t) v
    have h2 := h1.trans (Readies.foldl (fun t g => zeroStart t (g * 2 ^ 20) (backedFrames t g)) (l := List.range 16)
      (fun g hg t => zeroStart_readies t (List.mem_range.mp hg) _) w)
    refine ⟨?_, ?_, ?_, ?_, fun o ho => (h2.regs o ho).trans (rget_congr (by rw [← hv]) o)⟩ <;> rw [h2.rest, ← hv]

/-! #### Measurement -/

theorem extendMeas_rest (s : State) (i : Fin 8) (type : Nat) (d : List Byte) : extendMeas s i type d =
    { s with dev := (extendMeas s i type d).dev, prov := (extendMeas s i type d).prov } := by
  simp only [extendMeas]
  split <;> rfl

theorem extendMeas_meas (s : State) (i : Fin 8) (type : Nat) (d : List Byte) :
    (extendMeas s i type d).prov.meas = s.prov.meas.set i (sha512 (s.prov.meas[i] ++ d)) := by
  simp only [extendMeas]
  split <;> rfl

theorem rget_extendMeas (s : State) (i : Fin 8) (type : Nat) (d : List Byte) {o : Nat} (ho : o ≠ 0x0D000020) :
    rget (extendMeas s i type d) o = rget s o := by
  simp only [extendMeas]
  split
  · rfl
  · exact rget_fset_ne _ _ _ _ _ _ ho

theorem extendMeas_rise {s : State} (i : Fin 8) (type : Nat) (d : List Byte) (hr : keysRise s.dev) :
    keysRise (extendMeas s i type d).dev := by
  simp only [extendMeas]
  split
  · exact hr
  · exact fset_rise _ _ _ _ hr

/-! #### BOOT and SLOT -/

/-- PRV_BOOT's fields other than ROMREV are zero at reset. -/
theorem bits_bootReset {hi : Nat} (hh : hi < 48) (lo : Nat) : bits (regReset 0x0D000000) hi lo = 0 := by
  have hval : regReset 0x0D000000 = BitVec.ofNat 64 (Config.romRev.toNat <<< 48) := by
    simp [regReset, mkWord]
  apply Nat.eq_of_testBit_eq
  intro i
  rw [testBit_bits, hval, BitVec.getLsbD_ofNat, Nat.testBit_shiftLeft, Nat.zero_testBit]
  by_cases hi' : i < hi + 1 - lo
  · simp [show ¬48 ≤ lo + i by omega]
  · simp [hi']

/-- A field of PRV_BOOT that is set to another value than zero is read back. -/
theorem rget_fset_boot (s : State) {hi lo v : Nat} (hl : lo ≤ hi) (hh : hi < 48) (hv : v % 2 ^ (hi + 1 - lo) ≠ 0) :
    rget (fset s 0x0D000000 hi lo v) 0x0D000000 = setBits (rget s 0x0D000000) hi lo v :=
  rget_fset_of_ne _ _ _ _ _ (fun he => hv (by
    rw [← bits_setBits (rget s 0x0D000000) hi lo v hl (by omega), he, bits_bootReset hh]))

/-- SLOT, FAILCODE and BOOT as the Curator's start writes them. -/
def showBoot (s : State) (slot : Nat) : State := setBoot (fset (fset s (prvReg 0) 13 12 slot) (prvReg 0) 31 24 0) 4

theorem rget_showBoot (s : State) {slot : Nat} (h0 : slot ≠ 0) (h4 : slot < 4) :
    bootState (showBoot s slot) = 4 ∧ bits (rget (showBoot s slot) 0x0D000000) 13 12 = slot := by
  have hslot : slot % 2 ^ (13 + 1 - 12) = slot := Nat.mod_eq_of_lt h4
  have h1 : bits (rget (fset s 0x0D000000 13 12 slot) 0x0D000000) 13 12 = slot := by
    rw [rget_fset_boot s (by omega) (by omega) (by omega), bits_setBits _ _ _ _ (by omega) (by omega), hslot]
  have h2 : bits (rget (fset (fset s 0x0D000000 13 12 slot) 0x0D000000 31 24 0) 0x0D000000) 13 12 = slot := by
    have hb := bits_setBits_of_disjoint (rget (fset s 0x0D000000 13 12 slot) 0x0D000000) 31 24 0 13 12 (by omega) (by omega)
      (by omega)
    rw [rget_fset_of_ne _ _ _ _ _ (fun he => h0 (by rw [← h1, ← hb, he, bits_bootReset (by omega)])), hb, h1]
  have h3 := rget_fset_boot (fset (fset s 0x0D000000 13 12 slot) 0x0D000000 31 24 0) (hi := 2) (lo := 0) (v := 4) (by omega)
    (by omega) (by decide)
  constructor
  · exact (congrArg (fun w => bits w 2 0) h3).trans (bits_setBits _ 2 0 4 (by omega) (by omega))
  · refine (congrArg (fun w => bits w 13 12) h3).trans ?_
    rw [bits_setBits_of_disjoint _ 2 0 4 13 12 (by omega) (by omega) (by omega), h2]

/-! #### The Curator started -/

/-- The Curator's image in memory, and measured with the DEBUG state. -/
def measureImage (s : State) (h body : List Byte) : State :=
  let s := extendMeas { s with mem := s.mem.write curatorBase body } 2 3 (sha512 (cut h 0 80))
  extendMeas s 3 4 (sha512 (leBytes 8 (fget s (prvReg 0) 14 14)))

/-- The image is loaded: VINTAGE shows, and the processors of management start at ENTRY. -/
def loadImage (s : State) (h body : List Byte) : State :=
  { fset (measureImage s h body) (prvReg 8) 15 0 (num h 2 2) with
    mgmt := (measureImage s h body).mgmt.map (fun m => { m with pc := BitVec.ofNat 64 (num h 8 8), halted := false }) }

theorem startCurator_eq (s : State) (h body : List Byte) (slot : Nat) :
    startCurator s h body slot = becomeReady (showBoot (loadImage s h body) slot) := rfl

theorem measureImage_rest (s : State) (h body : List Byte) : measureImage s h body =
    { s with mem := s.mem.write curatorBase body, dev := (measureImage s h body).dev, prov := (measureImage s h body).prov } := by
  unfold measureImage
  dsimp only
  rw [extendMeas_rest, extendMeas_rest]

theorem measureImage_meas (s : State) (h body : List Byte) : (measureImage s h body).prov.meas =
    (s.prov.meas.set 2 (sha512 (s.prov.meas[2] ++ sha512 (h.take 80)))).set 3
      (sha512 (s.prov.meas[3] ++ sha512 (leBytes 8 (bits (rget s 0x0D000000) 14 14)))) := by
  unfold measureImage
  dsimp only
  rw [extendMeas_meas, extendMeas_meas, fget, rget_extendMeas _ _ _ _ (show prvReg 0 ≠ 0x0D000020 by decide)]
  have h3 : (s.prov.meas.set 2 (sha512 (s.prov.meas[2] ++ sha512 (h.take 80))))[3] = s.prov.meas[3] :=
    Vector.getElem_set_ne (by omega) (by omega) (by omega)
  rw [← h3]
  rfl

theorem measureImage_rise {s : State} (h body : List Byte) (hr : keysRise s.dev) : keysRise (measureImage s h body).dev :=
  extendMeas_rise _ _ _ (extendMeas_rise (s := { s with mem := s.mem.write curatorBase body }) _ _ _ hr)

theorem leNat_lt (l : List Byte) : leNat l < 256 ^ l.length := by
  induction l with
  | nil => exact Nat.one_pos
  | cons b l ih =>
    have := b.isLt
    rw [leNat, List.length_cons, Nat.pow_succ]
    omega

/-- A number of two bytes fits a field of sixteen bits. -/
theorem num_lt (h : List Byte) (o n : Nat) : num h o n < 256 ^ n :=
  lt_of_lt_of_le (leNat_lt _) (Nat.pow_le_pow_right (by omega) (List.length_take_le _ _))

theorem loadImage_rget {s : State} (hr : keysRise s.dev) (h body : List Byte) :
    bits (rget (loadImage s h body) 0x0D000008) 15 0 = num h 2 2 := by
  have hset := rget_fset (measureImage s h body) (prvReg 8) 15 0 (num h 2 2) (measureImage_rise h body hr)
  refine (congrArg (fun w => bits w 15 0) hset).trans ?_
  rw [bits_setBits _ _ _ _ (by omega) (by omega)]
  exact Nat.mod_eq_of_lt (num_lt h 2 2)

theorem loadImage_keeps (s : State) (h body : List Byte) :
    (loadImage s h body).mem = s.mem.write curatorBase body ∧ (loadImage s h body).cores = s.cores ∧
    (loadImage s h body).mgmt = s.mgmt.map (fun m => { m with pc := BitVec.ofNat 64 (num h 8 8), halted := false }) ∧
    (loadImage s h body).prov = (measureImage s h body).prov := by
  have hrest := measureImage_rest s h body
  have hmem : (measureImage s h body).mem = s.mem.write curatorBase body := by rw [hrest]
  have hcores : (measureImage s h body).cores = s.cores := by rw [hrest]
  have hmgmt : (measureImage s h body).mgmt = s.mgmt := by rw [hrest]
  exact ⟨hmem, hcores, by rw [← hmgmt]; rfl, rfl⟩

theorem rget_showBoot_ne (s : State) (slot : Nat) {o : Nat} (ho : o ≠ prvReg 0) : rget (showBoot s slot) o = rget s o := by
  rw [showBoot, setBoot, rget_fset_ne _ _ _ _ _ _ ho, rget_fset_ne _ _ _ _ _ _ ho, rget_fset_ne _ _ _ _ _ _ ho]

theorem startCurator_starts (s : State) (h body : List Byte) {slot : Nat} (h0 : slot ≠ 0) (h4 : slot < 4) :
    CuratorStarts s (startCurator s h body slot) h body slot := by
  rw [startCurator_eq]
  obtain ⟨hmem, hcores, hmgmt, hmeas, hregs⟩ := becomeReady_keeps (showBoot (loadImage s h body) slot)
  obtain ⟨hboot, hslot⟩ := rget_showBoot (loadImage s h body) h0 h4
  obtain ⟨lmem, lcores, lmgmt, lprov⟩ := loadImage_keeps s h body
  generalize becomeReady (showBoot (loadImage s h body) slot) = t at hmem hcores hmgmt hmeas hregs ⊢
  refine ⟨?_, ?_, fun hr => ?_, fun k => ?_, hcores.trans lcores, ?_, fun hd y => ?_⟩
  · exact (congrArg (fun w => bits w 2 0) (hregs (prvReg 0) (by decide))).trans hboot
  · rw [hregs _ (by omega), hslot]
  · rw [hregs _ (by omega), rget_showBoot_ne _ _ (by decide), loadImage_rget ((rising_map_iff _).mp hr)]
  · rw [hmgmt.trans lmgmt]
    exact Vector.getElem_map _ _
  · rw [hmeas]
    exact (congrArg Prov.meas lprov).trans (measureImage_meas s h body)
  · rw [hmem.trans lmem, Memory.write, if_pos hd, Memory.byte_patch]

end Sys2Proof.Machine
end

section
/-! PROOFS. The clauses of O47, and the obligation. -/

namespace Sys2Proof.Machine

/-! ### The obligation's clauses, a command each -/

section clauses
variable {s : State} {e : Ep} {tag : BitVec 32} {c : ShtCmdRec}

/-! #### COMPOSE, OPEN and BIND -/

/-- A command that waits leaves the composition of every Gallery. -/
theorem Sends.keepsUnits {s t : State} (h : Sends s t) : t.gal = s.gal ∧ t.cores = s.cores ∧ t.mem = s.mem ∧
    ∀ g : Gal, rget t (glyReg g.val 0x10) = rget s (glyReg g.val 0x10) :=
  ⟨h.gal, h.cores, h.mem, fun g => h.regs _ (not_countsSends_gly g 0x10 (by omega) (by omega))⟩

theorem Sends.isOpen {s t : State} (h : Sends s t) (g : Gal) : Machine.isOpen t g = Machine.isOpen s g :=
  congrArg (fun w => bit w 0) (h.regs _ (not_countsSends_gly g 0 (by omega) (by omega)))

/-- The composition of a Gallery that COMPOSE gave its units, of the others, and what it cleared and unmapped. -/
theorem takeUnits_composes (hr : keysRise s.dev) (g : Gal) (cm gm : Nat) :
    let t := takeUnits (markStarted s e c) g cm gm
    (∀ i < 16, (bits (rget t (glyReg g.val 0x10)) 15 0).testBit i = cm.testBit i ∧
      (bits (rget t (glyReg g.val 0x18)) 15 0).testBit i = gm.testBit i) ∧
    (∀ (h : Gal) (i : Nat), h ≠ g → i < 16 →
      (bits (rget t (glyReg h.val 0x10)) 15 0).testBit i = ((bits (rget s (glyReg h.val 0x10)) 15 0).testBit i && !cm.testBit i) ∧
      (bits (rget t (glyReg h.val 0x18)) 15 0).testBit i = ((bits (rget s (glyReg h.val 0x18)) 15 0).testBit i && !gm.testBit i)) ∧
    (∀ n : CoreId, ownsCluster s g (n.val / 8) = true → cm.testBit (n.val / 8) = false →
      coreAt t n = { cycleBase := s.clk } ∧ ∀ y, caskBase n.val ≤ y → y < caskBase n.val + caskSize → t.mem.byte y = 0) ∧
    (∀ n : CoreId, ownsCluster s g (n.val / 8) = false ∨ cm.testBit (n.val / 8) = true → coreAt t n = coreAt s n) ∧
    (FrameMapOk s → (∀ f < 2 ^ 24, feValid (frameEntry t f) = true →
      feValid (frameEntry s f) = true ∧ (frameOwner t f).map (fun o => o.val) = some (feGallery (frameEntry t f)))) := by
  have hru : keysRise (markStarted s e c).dev := hr
  obtain ⟨-, hown, hother⟩ := setUnits_holds hru g cm gm
  have hholds := takeUnits_holds (s := markStarted s e c) g cm gm
  have hcore := takeUnits_coreAt hru g cm gm
  refine ⟨fun i hi => ?_, fun h i hne hi => ?_, fun n ho hm => ⟨?_, fun y h1 h2 =>
      takeUnits_cask (s := markStarted s e c) g cm gm ho hm h1 h2⟩,
    fun n hn => ?_, fun hfm f _ hv => ?_⟩
  · have := hown i hi
    rw [← hholds g 0x10 (by omega), ← hholds g 0x18 (by omega)] at this
    exact this
  · have := hother h hne i hi
    rw [← hholds h 0x10 (by omega), ← hholds h 0x18 (by omega)] at this
    exact this
  · exact (hcore n).trans (if_pos ⟨ho, hm⟩)
  · refine (hcore n).trans (if_neg (fun ⟨ho, hm⟩ => ?_))
    rcases hn with hn | hn
    · exact absurd (ho.symm.trans hn) (by decide)
    · exact absurd (hn.symm.trans hm) (by decide)
  · exact takeUnits_maps hru g cm gm ((rising_map_iff _).mp hfm.1) hv

theorem modGal_gal_ne (s : State) (g : Gal) (f : Gallery → Gallery) {h : Gal} (hh : h ≠ g) : (modGal s g f).gal[h] = s.gal[h] :=
  Vector.getElem_set_ne g.isLt h.isLt (fun k => hh (Fin.ext k.symm))

theorem modGal_gal_self (s : State) (g : Gal) (f : Gallery → Gallery) : (modGal s g f).gal[g] = f s.gal[g] :=
  Vector.getElem_set_self g.isLt

/-- OPEN of a Gallery that nothing refuses. -/
theorem openGallery_opens {g : Gal} (hk : openStat s g = 0) :
    let t := openGallery (markStarted s e c) g
    t = { fset (fset (markStarted s e c) (glyReg g.val 0) 23 16 0) (glyReg g.val 0) 1 0 3 with gal := t.gal } ∧
      (∀ h, h ≠ g → t.gal[h] = s.gal[h]) ∧
      t.gal[g] = { s.gal[g] with cq := Vector.replicate 16 {}, stepSeal := { s.gal[g].stepSeal with losses := [] } } := by
  have h := openGallery_of_ok (u := markStarted s e c) hk
  intro t
  refine ⟨by rw [show t = _ from h]; rfl, fun g' hg' => ?_, ?_⟩
  · rw [show t = _ from h, modGal_gal_ne _ _ _ hg']
    rfl
  · rw [show t = _ from h, modGal_gal_self]
    rfl

/-- The answer of OPEN for a cause of R349. -/
theorem exec_open_of_refused {g : Gal} (hg : (c.arg 1).toNat = g.val) (hw : NoneWaits s e tag 0x22) (h : Starts s e tag 0x22 c)
    (ho : isOpen s g = false) (hl : ¬(tearing s g = true ∨ groupsExiting s g = true)) {k : Nat} (hk : openStat s g = k)
    (h0 : k ≠ 0) : Answers s e tag (.open e tag) 0x22 (openStatus k) (fset (markStarted s e c) (glyReg g.val 0) 23 16 k) := by
  have hx := exec_open_of_closed hg hw h ho hl
  rw [hk, openGallery_of_refused (u := markStarted s e c) hk h0] at hx
  exact hx

end clauses

section clauses
variable {s : State} {e : Ep} {tag : BitVec 32} {c : ShtCmdRec}

theorem compose_answers {g : Gal} (hg : (c.arg 1).toNat = g.val) (hw : NoneWaits s e tag 0x20) (h : Starts s e tag 0x20 c) :
    let cm := (c.arg 2).toNat
    let gm := (c.arg 3).toNat
    let u := markStarted s e c
    let open_ : Prop := isOpen s g = true ∨ takenOpen s g cm gm = true
    let clear : Prop := tearing s g = false ∧ takenClearing s g cm gm = false
    (masksWide c → Answers s e tag (.compose e tag) 0x20 .invalid u) ∧
    (¬masksWide c → open_ → Answers s e tag (.compose e tag) 0x20 .galleryOpen u) ∧
    (¬masksWide c → ¬open_ → ¬clear → ∃ t, exec (.compose e tag) s = .next t ∧ t.gal = s.gal ∧ t.cores = s.cores ∧ t.mem = s.mem ∧
      ∀ h : Gal, rget t (glyReg h.val 0x10) = rget s (glyReg h.val 0x10)) := by
  refine ⟨exec_compose_of_wide hg hw h, exec_compose_of_open hg hw h, fun hm ho hc => ?_⟩
  obtain ⟨t, ht, hs⟩ := exec_compose_of_not_clear hg hw h hm ho hc
  exact ⟨t, ht, hs.keepsUnits⟩

theorem compose_of_noGal (hn : 8 ≤ (c.arg 1).toNat) (hw : NoneWaits s e tag 0x20) (h : Starts s e tag 0x20 c) :
    Answers s e tag (.compose e tag) 0x20 .invalid (markStarted s e c) := by
  refine exec_of_runWaiting rfl hw h ?_
  simp only [argGal_of_ge hn, done]

theorem open_of_noGal (hn : 8 ≤ (c.arg 1).toNat) (hw : NoneWaits s e tag 0x22) (h : Starts s e tag 0x22 c) :
    Answers s e tag (.open e tag) 0x22 .invalid (markStarted s e c) := by
  refine exec_of_runWaiting rfl hw h ?_
  simp only [argGal_of_ge hn, done]

theorem open_answers {g : Gal} (hg : (c.arg 1).toNat = g.val) (hw : NoneWaits s e tag 0x22) (h : Starts s e tag 0x22 c) :
    let leaving : Prop := tearing s g = true ∨ groupsExiting s g = true
    let u := markStarted s e c
    let stat := fun (k : Nat) => fset u (glyReg g.val 0) 23 16 k
    (isOpen s g = true → Answers s e tag (.open e tag) 0x22 .badState u) ∧
    (isOpen s g = false → leaving → ∃ t, exec (.open e tag) s = .next t ∧ isOpen t g = false ∧ t.mem = s.mem ∧ t.cores = s.cores) ∧
    (isOpen s g = false → ¬leaving → Unbound s g → Answers s e tag (.open e tag) 0x22 .badState (stat 4)) ∧
    (isOpen s g = false → ¬leaving → ¬Unbound s g → tmbState s ≠ 3 → Answers s e tag (.open e tag) 0x22 .notreadyTb (stat 1)) ∧
    (isOpen s g = false → ¬leaving → ¬Unbound s g → tmbState s = 3 → OutsideBox s g →
      Answers s e tag (.open e tag) 0x22 .notreadyCat (stat 2)) ∧
    (isOpen s g = false → ¬leaving → ¬Unbound s g → tmbState s = 3 → ¬OutsideBox s g → s.retire ≠ [] →
      Answers s e tag (.open e tag) 0x22 .notreadyRetire (stat 3)) ∧
    (isOpen s g = false → ¬leaving → ¬Unbound s g → tmbState s = 3 → ¬OutsideBox s g → s.retire = [] →
      ∃ t, Answers s e tag (.open e tag) 0x22 .ok t ∧ t = { fset (stat 0) (glyReg g.val 0) 1 0 3 with gal := t.gal } ∧
        (∀ h, h ≠ g → t.gal[h] = s.gal[h]) ∧
        t.gal[g] = { s.gal[g] with cq := Vector.replicate 16 {}, stepSeal := { s.gal[g].stepSeal with losses := [] } }) := by
  refine ⟨exec_open_of_open hg hw h, fun ho hl => ?_, fun ho hl hu => ?_, fun ho hl hu ht => ?_, fun ho hl hu ht hb => ?_,
    fun ho hl hu ht hb hr => ?_, fun ho hl hu ht hb hr => ?_⟩
  · obtain ⟨t, ht, hs⟩ := exec_open_of_leaving hg hw h ho hl
    exact ⟨t, ht, (hs.isOpen g).trans ho, hs.mem, hs.cores⟩
  · exact exec_open_of_refused hg hw h ho hl (k := 4) (by rw [openStat_eq, if_pos hu]) (by decide)
  · exact exec_open_of_refused hg hw h ho hl (k := 1) (by rw [openStat_eq, if_neg hu, if_pos ht]) (by decide)
  · exact exec_open_of_refused hg hw h ho hl (k := 2)
      (by rw [openStat_eq, if_neg hu, if_neg (not_not.mpr ht), if_pos hb]) (by decide)
  · exact exec_open_of_refused hg hw h ho hl (k := 3)
      (by rw [openStat_eq, if_neg hu, if_neg (not_not.mpr ht), if_neg hb, if_pos hr]) (by decide)
  · have hk : openStat s g = 0 := by
      rw [openStat_eq, if_neg hu, if_neg (not_not.mpr ht), if_neg hb, if_neg (not_not.mpr hr)]
    have hx := exec_open_of_closed hg hw h ho hl
    rw [hk] at hx
    exact ⟨_, hx, openGallery_opens hk⟩

/-- A state differs from another in registers alone. -/
def RegsOnly (s t : State) : Prop := t = { s with dev := t.dev }

theorem RegsOnly.rset {s t : State} (h : RegsOnly s t) (o : Nat) (w : Word) : RegsOnly s (rset t o w) := by
  unfold RegsOnly at h
  rw [h]
  rfl

theorem bindHost_rest (u : State) (g : Gal) (fam : Nat) (a2 a3 a4 a5 a6 a7 : Word) :
    RegsOnly u (bindHost u g fam a2 a3 a4 a5 a6 a7) :=
  RegsOnly.rset (.rset (.rset (.rset (.rset (.rset (.rset (Eq.refl u) _ _) _ _) _ _) _ _) _ _) _ _) _ _

theorem bind_answers (h : Starts s e tag 0x21 c) :
    let g : Gal := Fin.ofNat 8 (bits (c.arg 1) 2 0)
    let u := markStarted s e c
    (badBinding c → Answers s e tag (.bind e tag) 0x21 .invalid u) ∧
    (¬badBinding c → isOpen s g = true → Answers s e tag (.bind e tag) 0x21 .galleryOpen u) ∧
    (¬badBinding c → isOpen s g = false → rising (s.dev.map Prod.fst) = true → ∃ t, Answers s e tag (.bind e tag) 0x21 .ok t ∧
      t = { u with dev := t.dev } ∧
      bits (rget t (glyReg g.val 0x30)) 1 0 = bits (c.arg 1) 9 8 ∧ rget t (glyReg g.val 0x20) = c.arg 2 ∧
      rget t (glyReg g.val 0x28) = c.arg 3 ∧ ∀ i < 4, rget t (glyReg g.val (0x38 + 8 * i)) = c.arg (4 + i)) := by
  have hx := exec_bind h
  refine ⟨fun hb => ?_, fun hb ho => ?_, fun hb ho hr => ?_⟩
  · exact hx.trans (by rw [if_pos hb])
  · exact hx.trans (by rw [if_neg hb, if_pos ho])
  · rw [if_neg hb, if_neg (Bool.eq_false_iff.mp ho)] at hx
    have hrest := bindHost_rest (markStarted s e c) (Fin.ofNat 8 (bits (c.arg 1) 2 0)) (bits (c.arg 1) 9 8) (c.arg 2) (c.arg 3)
      (c.arg 4) (c.arg 5) (c.arg 6) (c.arg 7)
    obtain ⟨hfam, h20, h28, h38, h40, h48, h50⟩ := bindHost_rget (u := markStarted s e c) ((rising_map_iff _).mp hr)
      (Fin.ofNat 8 (bits (c.arg 1) 2 0)) (bits (c.arg 1) 9 8) (bits_lt (c.arg 1) 9 8) (c.arg 2) (c.arg 3) (c.arg 4) (c.arg 5)
      (c.arg 6) (c.arg 7)
    generalize bindHost (markStarted s e c) (Fin.ofNat 8 (bits (c.arg 1) 2 0)) (bits (c.arg 1) 9 8) (c.arg 2) (c.arg 3)
      (c.arg 4) (c.arg 5) (c.arg 6) (c.arg 7) = t at hx hrest hfam h20 h28 h38 h40 h48 h50
    refine ⟨t, hx, hrest, hfam, h20, h28, fun i hi => ?_⟩
    match i, hi with
    | 0, _ => exact h38
    | 1, _ => exact h40
    | 2, _ => exact h48
    | 3, _ => exact h50

/-! #### Registers and retirement -/

theorem regRead_answers (h : Starts s e tag 0x23 c) :
    let u := markStarted s e c
    (farOffset (c.arg 1) → Answers s e tag (.regRead e tag) 0x23 .range u) ∧
    (∀ w t, ¬farOffset (c.arg 1) → readReg u .curator (c.arg 1).toNat = some (w, t) → Answers s e tag (.regRead e tag) 0x23 .ok t w) ∧
    (¬farOffset (c.arg 1) → readReg u .curator (c.arg 1).toNat = none → Answers s e tag (.regRead e tag) 0x23 .ok u) := by
  have hx := exec_regRead h
  refine ⟨fun hf => ?_, fun w t hf hr => ?_, fun hf hr => ?_⟩
  · exact hx.trans (by rw [if_pos hf])
  · exact hx.trans (by rw [if_neg hf, hr])
  · exact hx.trans (by rw [if_neg hf, hr])

theorem regWrite_answers (h : Starts s e tag 0x24 c) :
    let u := markStarted s e c
    (farOffset (c.arg 1) → Answers s e tag (.regWrite e tag) 0x24 .range u) ∧
    (∀ t, ¬farOffset (c.arg 1) → writeReg u .curator (c.arg 1).toNat (c.arg 2) = some t →
      Answers s e tag (.regWrite e tag) 0x24 .ok t) ∧
    (¬farOffset (c.arg 1) → writeReg u .curator (c.arg 1).toNat (c.arg 2) = none →
      Answers s e tag (.regWrite e tag) 0x24 .ok u) := by
  have hx := exec_regWrite h
  refine ⟨fun hf => ?_, fun t hf hr => ?_, fun hf hr => ?_⟩
  · exact hx.trans (by rw [if_pos hf])
  · exact hx.trans (by rw [if_neg hf, hr, Option.getD_some])
  · exact hx.trans (by rw [if_neg hf, hr, Option.getD_none])

theorem retireApply_answers (h : Starts s e tag 0x25 c) :
    let g := bits (c.arg 1) 3 0
    let k := bits (c.arg 1) 7 4
    let chan : Prop := bit (c.arg 1) 8 = true
    let u := markStarted s e c
    let v := withRetire u (c.arg 1, c.arg 2)
    (badRetire c → Answers s e tag (.retireApply e tag) 0x25 .invalid u) ∧
    (¬badRetire c → ¬chan → 231 < bits (c.arg 2) 39 32 → Answers s e tag (.retireApply e tag) 0x25 .range u) ∧
    (¬badRetire c → chan ∨ bits (c.arg 2) 39 32 ≤ 231 → GroupOpen s g → Answers s e tag (.retireApply e tag) 0x25 .badState u) ∧
    (¬badRetire c → chan → ¬GroupOpen s g → retiredCh s g = some k → Answers s e tag (.retireApply e tag) 0x25 .ok
      (applied v (c.arg 1) (c.arg 2))) ∧
    (∀ w t, ¬badRetire c → chan → ¬GroupOpen s g → retiredCh s g ≠ some k →
      exec (.celFailCh (Fin.ofNat 16 g) (Fin.ofNat 16 k)) v = .next w → exec (.celRebuild (Fin.ofNat 16 g)) w = .next t →
      Answers s e tag (.retireApply e tag) 0x25 .ok t) ∧
    (¬badRetire c → ¬chan → bits (c.arg 2) 39 32 ≤ 231 → ¬GroupOpen s g →
      Answers s e tag (.retireApply e tag) 0x25 .ok (applyRetire (withRetire u (c.arg 1, c.arg 2)) (c.arg 1) (c.arg 2))) := by
  have hx := exec_retireApply h
  have hrow : bit (c.arg 1) 8 = true ∨ bits (c.arg 2) 39 32 ≤ 231 → ¬(bit (c.arg 1) 8 = false ∧ 231 < bits (c.arg 2) 39 32) :=
    fun hn ⟨hc, hs⟩ => hn.elim (fun k => absurd (hc.symm.trans k) (by decide)) (fun k => by omega)
  refine ⟨fun hb => ?_, fun hb hc hs => ?_, fun hb hc ho => ?_, fun hb hc ho hr => ?_, fun w t hb hc ho hr hw ht => ?_,
    fun hb hc hs ho => ?_⟩
  · exact hx.trans (by rw [if_pos hb])
  · exact hx.trans (by rw [if_neg hb, if_pos ⟨Bool.eq_false_iff.mpr hc, hs⟩])
  · exact hx.trans (by rw [if_neg hb, if_neg (hrow hc), if_pos ho])
  · exact hx.trans (by rw [if_neg hb, if_neg (hrow (.inl hc)), if_neg ho, applyRetire_of_retired (s := withRetire (markStarted s e c) (c.arg 1, c.arg 2)) hc hr])
  · exact hx.trans (by rw [if_neg hb, if_neg (hrow (.inl hc)), if_neg ho,
      applyRetire_of_channel (s := withRetire (markStarted s e c) (c.arg 1, c.arg 2)) hc hr hw ht])
  · exact hx.trans (by rw [if_neg hb, if_neg (hrow (.inr hs)), if_neg ho])

end clauses

section clauses
variable {s : State} {e : Ep} {tag : BitVec 32} {c : ShtCmdRec}

/-! #### Appraisal and mirror copies -/

theorem appraiseRead_answers (h : Starts s e tag 0x32 c) :
    let u := markStarted s e c
    let x := score s (c.arg 1).toNat
    (component (c.arg 1).toNat = false → Answers s e tag (.appraiseRead e tag) 0x32 .range u) ∧
    (component (c.arg 1).toNat = true → Answers s e tag (.appraiseRead e tag) 0x32 .ok u (BitVec.ofNat 64 x.score)
      (BitVec.ofNat 64 x.peer) (BitVec.ofNat 64 x.advn)) := by
  have hx := exec_appraiseRead h
  exact ⟨fun hc => hx.trans (by rw [if_pos (by rw [hc]; rfl)]), fun hc => hx.trans (by rw [if_neg (by rw [hc]; decide)])⟩

theorem withPeer_rest (u : State) (k p : Nat) : withPeer u k p = { u with scores := (withPeer u k p).scores } := rfl

theorem appraisePeer_answers (h : Starts s e tag 0x33 c) :
    let u := markStarted s e c
    (12 ≤ (c.arg 1).toNat → Answers s e tag (.appraisePeer e tag) 0x33 .range u) ∧
    ((c.arg 1).toNat < 12 → 65535 < (c.arg 2).toNat → Answers s e tag (.appraisePeer e tag) 0x33 .invalid u) ∧
    ((c.arg 1).toNat < 12 → (c.arg 2).toNat ≤ 65535 → ∃ t, Answers s e tag (.appraisePeer e tag) 0x33 .ok t ∧
      t = { u with scores := t.scores } ∧
      score t (0x100 + (c.arg 1).toNat) =
        { score s (0x100 + (c.arg 1).toNat) with peer := (c.arg 2).toNat, peerAt := some (now s) } ∧
      ∀ k, k ≠ 0x100 + (c.arg 1).toNat → score t k = score s k) := by
  have hx := exec_appraisePeer h
  refine ⟨fun h1 => ?_, fun h1 h2 => ?_, fun h1 h2 => ?_⟩
  · exact hx.trans (by rw [if_pos h1])
  · exact hx.trans (by rw [if_neg (by omega), if_pos h2])
  · rw [if_neg (by omega), if_neg (by omega)] at hx
    exact ⟨_, hx, withPeer_rest _ _ _, score_withPeer _ _ _, fun k hk => score_withPeer_ne _ _ hk⟩

/-- A step that MIRROR commands name is of 32 bits. -/
theorem step_fits {a : Word} (h : a.toNat < 2 ^ 32) : ¬bits a 63 32 ≠ 0 := not_not.mpr ((bits_high_eq_zero (by omega)).mpr h)

theorem mirrorSend_answers {g : Gal} (hg : (c.arg 1).toNat = g.val) (hs : (c.arg 2).toNat < 2 ^ 32)
    (hw : NoneWaits s e tag 0x34) (h : Starts s e tag 0x34 c) (hr : s.gal[g].mcp.running = false) :
    let u := markStarted s e c
    let step := BitVec.ofNat 32 (c.arg 2).toNat
    let x := s.gal[g].mrx
    (isOpen s g = false → Answers s e tag (.mirrorSend e tag) 0x34 .badState u) ∧
    (isOpen s g = true → x.half0 ≠ some step → x.half1 ≠ some step → Answers s e tag (.mirrorSend e tag) 0x34 .badState u 2) ∧
    (isOpen s g = true → x.half0 = some step ∨ x.half1 = some step → ∃ h : Bool, (if h then x.half1 else x.half0) = some step ∧
      exec (.mirrorSend e tag) s = .next (beginCopy u g tag step h)) := by
  have hx := exec_mirrorSend_of_idle hg hw h hr
  rw [if_neg (step_fits hs)] at hx
  refine ⟨fun ho => ?_, fun ho h0 h1 => ?_, fun ho hh => ?_⟩
  · exact hx.trans (by rw [if_pos (by rw [ho]; rfl)])
  · rw [if_neg (by rw [ho]; decide)] at hx
    rcases hm : mirrorHalf s g (BitVec.ofNat 32 (c.arg 2).toNat) with _ | half
    · exact hx.trans (by rw [hm])
    · have := mirrorHalf_of_some hm
      cases half
      · exact absurd this h0
      · exact absurd this h1
  · rw [if_neg (by rw [ho]; decide)] at hx
    rcases hm : mirrorHalf s g (BitVec.ofNat 32 (c.arg 2).toNat) with _ | half
    · have := mirrorHalf_of_none hm
      exact absurd hh (not_or.mpr ⟨this false, this true⟩)
    · exact ⟨half, mirrorHalf_of_some hm, hx.trans (by rw [hm])⟩

theorem mirrorSend_waits {g : Gal} (hg : (c.arg 1).toNat = g.val) (hw : NoneWaits s e tag 0x34) (h : Starts s e tag 0x34 c)
    (hr : s.gal[g].mcp.running = true) (ht : s.gal[g].mcp.tag ≠ tag) :
    ∃ t, exec (.mirrorSend e tag) s = .next t ∧ t.gal = s.gal ∧ t.mem = s.mem := by
  obtain ⟨t, hx, hs⟩ := exec_mirrorSend_of_busy hg hw h hr ht
  exact ⟨t, hx, hs.gal, hs.mem⟩

theorem mirrorAccept_answers {g : Gal} (hg : (c.arg 1).toNat = g.val) (hs : (c.arg 2).toNat < 2 ^ 32)
    (h : Starts s e tag 0x35 c) :
    let u := markStarted s e c
    let x := s.gal[g].mrx
    (isOpen s g = false ∨ x.accept ≠ none → Answers s e tag (.mirrorAccept e tag) 0x35 .badState u) ∧
    (isOpen s g = true → x.accept = none → exec (.mirrorAccept e tag) s = .next (modGal u g (fun y =>
      { y with mrx := { y.mrx with accept := some (tag, BitVec.ofNat 32 (c.arg 2).toNat, now s) } }))) := by
  have hx := exec_mirrorAccept hg h
  rw [if_neg (step_fits hs)] at hx
  have hbusy : (!isOpen s g || s.gal[g].mrx.accept.isSome) = true ↔ isOpen s g = false ∨ s.gal[g].mrx.accept ≠ none := by
    rw [Bool.or_eq_true, Bool.not_eq_true', Option.isSome_iff_ne_none]
  exact ⟨fun hb => hx.trans (by rw [if_pos (hbusy.mpr hb)]),
    fun ho ha => hx.trans (by rw [if_neg (mt hbusy.mp (not_or.mpr ⟨by rw [ho]; decide, not_not.mpr ha⟩))])⟩

/-- A mirror command whose Gallery or step is none. -/
theorem mirror_of_noArg (hn : 8 ≤ (c.arg 1).toNat ∨ (2 ^ 32 ≤ (c.arg 2).toNat ∧ ∀ g : Gal, s.gal[g].mcp.running = false)) :
    (NoneWaits s e tag 0x34 → Starts s e tag 0x34 c → Answers s e tag (.mirrorSend e tag) 0x34 .invalid (markStarted s e c)) ∧
    (Starts s e tag 0x35 c → Answers s e tag (.mirrorAccept e tag) 0x35 .invalid (markStarted s e c)) := by
  by_cases h8 : 8 ≤ (c.arg 1).toNat
  · exact ⟨fun hw h => exec_mirrorSend_of_noGal hw h h8, fun h => exec_mirrorAccept_of_noGal h h8⟩
  · obtain ⟨hlong, hidle⟩ := hn.resolve_left h8
    have hbits : bits (c.arg 2) 63 32 ≠ 0 := fun h0 => by
      have := (bits_high_eq_zero (by omega)).mp h0
      omega
    have hg : (c.arg 1).toNat = (⟨(c.arg 1).toNat, by omega⟩ : Gal).val := rfl
    exact ⟨fun hw h => (exec_mirrorSend_of_idle hg hw h (hidle _)).trans (by rw [if_pos hbits]),
      fun h => (exec_mirrorAccept hg h).trans (by rw [if_pos hbits])⟩

/-! #### Netboot, quotes and updates -/

theorem netbootBegin_answers (h : Starts s e tag 0x40 c) :
    let u := markStarted s e c
    let size := (c.arg 1).toNat
    (bootState s ≠ 3 → Answers s e tag (.netbootBegin e tag) 0x40 .badState u) ∧
    (bootState s = 3 → ¬ImageFits size → Answers s e tag (.netbootBegin e tag) 0x40 .range u) ∧
    (bootState s = 3 → ImageFits size → Answers s e tag (.netbootBegin e tag) 0x40 .ok
      { u with prov := { s.prov with netSize := some size, netImage := [] } }) := by
  have hx := exec_netbootBegin h
  exact ⟨fun hb => hx.trans (by rw [if_pos hb]), fun hb hf => hx.trans (by rw [if_neg (not_not.mpr hb), if_pos hf]),
    fun hb hf => hx.trans (by rw [if_neg (not_not.mpr hb), if_neg (not_not.mpr hf)])⟩

theorem netbootGo_answers (h : Starts s e tag 0x41 c) :
    let u := markStarted s e c
    let whole : Prop := imageOk (netHeader s) (netBody s) = true ∧ s.prov.netSize = some (8192 + num (netHeader s) 4 4)
    let old : Prop := num (netHeader s) 2 2 < minVintage s
    let fail := fun (k : Nat) => Answers s e tag (.netbootGo e tag) 0x41 .digest (netFails u k) (BitVec.ofNat 64 k)
    (bootState s ≠ 3 ∨ s.prov.netSize = none → Answers s e tag (.netbootGo e tag) 0x41 .badState u) ∧
    (bootState s = 3 → s.prov.netSize ≠ none → ¬whole → fail 4) ∧
    (bootState s = 3 → s.prov.netSize ≠ none → whole → old → fail 5) ∧
    (bootState s = 3 → whole → ¬old → ∃ t, exec (.netbootGo e tag) s = .next t ∧
      CuratorStarts (complete u e tag 0x41 .ok 0 0 0) t (netHeader s) (netBody s (num (netHeader s) 4 4)) 2) := by
  have hwhole : ∀ n, s.prov.netSize = some n → (ImageWhole (netHeader s) (netBody s) n ↔
      imageOk (netHeader s) (netBody s) = true ∧ s.prov.netSize = some (8192 + num (netHeader s) 4 4)) := fun n hn => by
    rw [hn, Option.some.injEq]
  refine ⟨exec_netbootGo_of_closed h, fun hb hn hw => ?_, fun hb hn hw ho => ?_, fun hb hw ho => ?_⟩
  · obtain ⟨n, hn⟩ := Option.ne_none_iff_exists'.mp hn
    have hcode : imageCode s (netHeader s) (netBody s) n = 4 := by rw [imageCode_eq, if_pos (mt (hwhole n hn).mp hw)]
    exact (exec_netbootGo h hb hn).trans (by rw [hcode]; rfl)
  · obtain ⟨n, hn⟩ := Option.ne_none_iff_exists'.mp hn
    have hcode : imageCode s (netHeader s) (netBody s) n = 5 := by
      rw [imageCode_eq, if_neg (not_not.mpr ((hwhole n hn).mpr hw)), if_pos ho]
    exact (exec_netbootGo h hb hn).trans (by rw [hcode]; rfl)
  · have hcode : imageCode s (netHeader s) (netBody s) (8192 + num (netHeader s) 4 4) = 0 := by
      rw [imageCode_eq, if_neg (not_not.mpr ⟨hw.1, rfl⟩), if_neg ho]
    have hx := exec_netbootGo h hb hw.2
    rw [hcode, if_pos rfl] at hx
    exact ⟨_, hx, startCurator_starts _ _ _ (slot := 2) (by decide) (by decide)⟩

theorem quote_taken {g : Option Gal} (hg : c.arg 1 = quoteArg g) (hu : ∀ x, g = some x → ¬Unheld s x)
    (hw : NoneWaits s e tag 0x42) (h : Starts s e tag 0x42 c) {q : QuoteJob} {l : List QuoteJob}
    (hq : s.prov.quotes = q :: l) (hn : ¬(q.tag = tag ∧ q.ep = e)) :
    ∃ t, exec (.quote e tag) s = .next t ∧ t.prov = s.prov ∧ t.mem = s.mem := by
  obtain ⟨t, hx, hs⟩ := exec_quote_of_taken hw h hg hu hq hn
  exact ⟨t, hx, hs.prov, hs.mem⟩

theorem measlogRead_answers (h : Starts s e tag 0x43 c) :
    let u := markStarted s e c
    let l := (s.prov.log.drop (c.arg 1).toNat).take (c.arg 2).toNat
    (badCount (c.arg 2) → Answers s e tag (.measlogRead e tag) 0x43 .invalid u) ∧
    (¬badCount (c.arg 2) → Answers s e tag (.measlogRead e tag) 0x43 .ok (sendParts u 0x13 l.flatten) (BitVec.ofNat 64 l.length)) := by
  have hx := exec_measlogRead h
  exact ⟨fun hb => hx.trans (by dsimp only; rw [if_pos hb]), fun hb => hx.trans (by dsimp only; rw [if_neg hb])⟩

theorem flashBegin_answers (h : Starts s e tag 0x44 c) :
    let u := markStarted s e c
    let slot := bits (rget s 0x0D000000) 13 12
    let size := (c.arg 1).toNat
    let k : Fin 2 := if slot = 0 then 1 else 0
    (2 ≤ slot → Answers s e tag (.flashBegin e tag) 0x44 .badState u) ∧
    (slot < 2 → ¬ImageFits size → Answers s e tag (.flashBegin e tag) 0x44 .range u) ∧
    (slot < 2 → ImageFits size → exec (.flashBegin e tag) s = .next { u with prov := { s.prov with
      flash := s.prov.flash.set k [], update := some { slot := k, size := size } } }) := by
  have hx := exec_flashBegin h
  exact ⟨fun hs => hx.trans (by dsimp only; rw [if_pos hs]),
    fun hs hf => hx.trans (by dsimp only; rw [if_neg (Nat.not_le.mpr hs), if_pos hf]),
    fun hs hf => hx.trans (by dsimp only; rw [if_neg (Nat.not_le.mpr hs), if_neg (not_not.mpr hf)])⟩

/-- What an update's header and body are held to. -/
abbrev UpdateGood (s : State) (x : Update) : Prop :=
  imageOk (tblBytes 0 x.header 0 8192) (flashBody s x.slot) = true ∧ x.size = 8192 + num (tblBytes 0 x.header 0 8192) 4 4 ∧
    minVintage s ≤ num (tblBytes 0 x.header 0 8192) 2 2

theorem commitUpdate_rest (u : State) (x : Update) : commitUpdate u x = { u with prov := (commitUpdate u x).prov } := rfl

theorem flashCommit_answers (h : Starts s e tag 0x45 c) :
    let u := markStarted s e c
    (s.prov.update = none → Answers s e tag (.flashCommit e tag) 0x45 .badState u) ∧
    (∀ x, s.prov.update = some x → x.erased = false → Answers s e tag (.flashCommit e tag) 0x45 .badState u) ∧
    (∀ x, s.prov.update = some x → x.erased = true →
      (¬UpdateGood s x → Answers s e tag (.flashCommit e tag) 0x45 .digest u) ∧
      (UpdateGood s x → Answers s e tag (.flashCommit e tag) 0x45 .ok (commitUpdate u x) (BitVec.ofNat 64 x.slot.val)
        (BitVec.ofNat 64 (num (tblBytes 0 x.header 0 8192) 2 2)))) := by
  have hx := exec_flashCommit h
  refine ⟨fun hn => hx.trans (by rw [hn]), fun x hn he => hx.trans (by rw [hn]; dsimp only; rw [if_pos (by rw [he]; rfl)]),
    fun x hn he => ?_⟩
  rw [hn] at hx
  dsimp only at hx
  rw [if_neg (by rw [he]; decide)] at hx
  exact ⟨fun hg => hx.trans (by rw [if_neg (mt (imageCode_eq_zero_iff _ _ _ _).mp hg)]),
    fun hg => hx.trans (by rw [if_pos ((imageCode_eq_zero_iff _ _ _ _).mpr hg)])⟩

end clauses

section clauses
variable {s : State} {e : Ep} {tag : BitVec 32} {c : ShtCmdRec}

theorem compose_composes {g : Gal} (hg : (c.arg 1).toNat = g.val) (hw : NoneWaits s e tag 0x20) (h : Starts s e tag 0x20 c) :
    let cm := (c.arg 2).toNat
    let gm := (c.arg 3).toNat
    let open_ : Prop := isOpen s g = true ∨ takenOpen s g cm gm = true
    let clear : Prop := tearing s g = false ∧ takenClearing s g cm gm = false
    ¬masksWide c → ¬open_ → clear → rising (s.dev.map Prod.fst) = true → ∃ t, Answers s e tag (.compose e tag) 0x20 .ok t ∧
      (∀ i < 16, (bits (rget t (glyReg g.val 0x10)) 15 0).testBit i = cm.testBit i ∧
        (bits (rget t (glyReg g.val 0x18)) 15 0).testBit i = gm.testBit i) ∧
      (∀ (h : Gal) (i : Nat), h ≠ g → i < 16 →
        (bits (rget t (glyReg h.val 0x10)) 15 0).testBit i = ((bits (rget s (glyReg h.val 0x10)) 15 0).testBit i && !cm.testBit i) ∧
        (bits (rget t (glyReg h.val 0x18)) 15 0).testBit i = ((bits (rget s (glyReg h.val 0x18)) 15 0).testBit i && !gm.testBit i)) ∧
      (∀ n : CoreId, ownsCluster s g (n.val / 8) = true → cm.testBit (n.val / 8) = false →
        coreAt t n = { cycleBase := s.clk } ∧ ∀ y, caskBase n.val ≤ y → y < caskBase n.val + caskSize → t.mem.byte y = 0) ∧
      (∀ n : CoreId, ownsCluster s g (n.val / 8) = false ∨ cm.testBit (n.val / 8) = true → coreAt t n = coreAt s n) ∧
      (FrameMapOk s → (∀ f < 2 ^ 24, feValid (frameEntry t f) = true →
        feValid (frameEntry s f) = true ∧ (frameOwner t f).map (fun o => o.val) = some (feGallery (frameEntry t f)))) :=
  fun hm ho hc hr => ⟨_, exec_compose_of_clear hg hw h hm ho hc, takeUnits_composes ((rising_map_iff _).mp hr) g _ _⟩

theorem crRead_answers (h : Starts s e tag 0x30 c) :
    let u := markStarted s e c
    let l := (recordsFrom s (c.arg 1).toNat).take (c.arg 2).toNat
    (badCount (c.arg 2) → Answers s e tag (.crRead e tag) 0x30 .invalid u) ∧
    (c.arg 2 ≠ 0 → (c.arg 2).toNat ≤ 256 → Answers s e tag (.crRead e tag) 0x30 .ok (sendRecords u l) (BitVec.ofNat 64 l.length)
      (crpWord u 0 8) (crpWord u 0 0x10)) :=
  ⟨exec_crRead_of_bad h, fun h0 h256 => exec_crRead h (not_or.mpr ⟨h0, Nat.not_lt.mpr h256⟩)⟩

/-- RETIRE_APPLY of a row. -/
theorem retireApply_row (h : Starts s e tag 0x25 c) (hb : ¬badRetire c) (hc : ¬bit (c.arg 1) 8 = true)
    (hs : bits (c.arg 2) 39 32 ≤ 231) (ho : ¬GroupOpen s (bits (c.arg 1) 3 0)) :
    let g := bits (c.arg 1) 3 0
    let k := bits (c.arg 1) 7 4
    ∃ t, Answers s e tag (.retireApply e tag) 0x25 .ok t ∧
      (bit (rget s (celReg g 0)) 11 = true → celMode s g ≠ 2 → (c.arg 1, c.arg 2) ∈ t.retire) ∧
      let full : Prop := hasRecord s 0x0A (c.arg 1) (c.arg 2) = false ∧ 2032 ≤ rowsTaken s
      (bit (rget s (celReg g 0)) 11 = false → full → (c.arg 1, c.arg 2) ∉ t.retire ∧ (chState s g k = 0 → chState t g k = 1)) ∧
      (bit (rget s (celReg g 0)) 11 = false → ¬full → (∃ i < 64, bit (rget s (remapReg g (64 * k + i))) 63 = false) →
        rising (s.dev.map Prod.fst) = true →
        (c.arg 1, c.arg 2) ∉ t.retire ∧ (∃ r ∈ t.cr.pinned, bits r.ent.w0 55 48 = 0x0A ∧ r.ent.w2 = c.arg 1 ∧ r.ent.w3 = c.arg 2) ∧
        ∃ i < 64, rget t (remapReg g (64 * k + i)) =
          mkWord [(63, 1), (26, bits (c.arg 2) 3 0), (9, bits (c.arg 2) 24 8), (0, bits (c.arg 2) 39 32)]) := by
  obtain ⟨h9, h40, h25, h4, -⟩ : bits (c.arg 1) 63 9 = 0 ∧ bits (c.arg 2) 63 40 = 0 ∧ bits (c.arg 2) 31 25 = 0 ∧
      bits (c.arg 2) 7 4 = 0 ∧ ¬(bit (c.arg 1) 8 = true ∧ c.arg 2 ≠ 0) := by
    simpa only [badRetire, not_or, ne_eq, not_not] using hb
  obtain ⟨-, -, -, -, -, hrow⟩ := retireApply_answers h
  obtain ⟨hasleep, hfull, hroom⟩ := applyRetire_row (s := markStarted s e c) (Bool.eq_false_iff.mpr hc) h9 h40 h25 h4
  exact ⟨_, hrow hb hc hs ho, hasleep, hfull, fun h11 hf hk hr => hroom h11 hf hk ((rising_map_iff _).mp hr)⟩

/-- FLASH_COMMIT of a good update: the header stands before the body. -/
theorem flashCommit_commits (h : Starts s e tag 0x45 c) {x : Update} (hx : s.prov.update = some x) (he : x.erased = true)
    (hgood : UpdateGood s x) :
    let u := markStarted s e c
    ∃ t, Answers s e tag (.flashCommit e tag) 0x45 .ok t (BitVec.ofNat 64 x.slot.val)
        (BitVec.ofNat 64 (num (tblBytes 0 x.header 0 8192) 2 2)) ∧
      t = { u with prov := t.prov } ∧ t.prov.update = none ∧
      (rising (s.prov.flash[x.slot].map Prod.fst) = true → ∀ o, look 0xFF t.prov.flash[x.slot] o =
        if o < 8192 then (tblBytes 0 x.header 0 8192).getD o 0 else look 0xFF s.prov.flash[x.slot] o) ∧
      ∀ k, k ≠ x.slot → t.prov.flash[k] = s.prov.flash[k] := by
  obtain ⟨-, -, hcommit⟩ := flashCommit_answers h
  exact ⟨_, (hcommit x hx he).2 hgood, commitUpdate_rest _ _, rfl,
    fun hr o => commitUpdate_flash (s := markStarted s e c) x ((rising_map_iff _).mp hr) o,
    fun k hk => commitUpdate_flash_ne x hk⟩

end clauses

/-- Settles O47: a clause for each command, from what its instruction does once it starts. -/
theorem managementCommands : Obligations.ManagementCommands := by
  unfold Obligations.ManagementCommands
  refine ⟨fun e tag s c => ?_, fun g s => ?_, fun s => ?_⟩
  · refine ⟨fun g hg => ⟨fun hw h => ?_, open_answers hg⟩, fun hn => ⟨compose_of_noGal hn, open_of_noGal hn⟩, bind_answers,
      ⟨regRead_answers, regWrite_answers⟩, fun h => ?_, crRead_answers, mem_recordsFrom s, exec_crClear, appraiseRead_answers,
      appraisePeer_answers, fun g hg hs => ⟨?_, ?_, mirrorAccept_answers hg hs⟩, mirror_of_noArg, fun h => ?_, netbootBegin_answers,
      netbootGo_answers, ?_, ?_, ?_, ?_, ?_, ?_⟩
    · obtain ⟨hwide, hopen, hwaits⟩ := compose_answers hg hw h
      exact ⟨hwide, hopen, hwaits, compose_composes hg hw h⟩
    · obtain ⟨hbad, hrange, howned, hretired, hchan, -⟩ := retireApply_answers h
      exact ⟨hbad, hrange, howned, hretired, hchan, retireApply_row h⟩
    · exact fun hw h hr => mirrorSend_answers hg hs hw h hr
    · exact fun hw h hr ht => mirrorSend_waits hg hw h hr ht
    · exact ⟨_, exec_shtChipReset h, chipReset_chipResets _ 2 0⟩
    · exact fun g hg hu hw h => ⟨exec_quote_of_free hw h hg (fun x hx k => (hu x hx).elim (· k.1) (· k.2)),
        fun q l hq hn => quote_taken hg (fun x hx k => (hu x hx).elim (· k.1) (· k.2)) hw h hq hn⟩
    · exact fun g hg h10 h18 hw h => exec_quote_of_unheld hw h hg ⟨h10, h18⟩
    · exact fun hw h h1 h8 => exec_quote_of_noGal hw h h1 h8
    · intro h
      obtain ⟨hbad, hgood⟩ := measlogRead_answers h
      exact ⟨hbad, fun h0 h256 => hgood (not_or.mpr ⟨h0, Nat.not_lt.mpr h256⟩)⟩
    · exact flashBegin_answers
    · intro h
      obtain ⟨hnone, herased, hcommit⟩ := flashCommit_answers h
      exact ⟨hnone, herased, fun x hx he => ⟨(hcommit x hx he).1, flashCommit_commits h hx he⟩⟩
  · exact ⟨exec_mirrorAcceptTimeout_of_none, fun x => exec_mirrorAcceptTimeout_of_some⟩
  · refine ⟨exec_quoteSigned_of_nil, fun q l hq => ⟨_, exec_quoteSigned_of_cons hq, quoteBytes_parts s q⟩,
      exec_flashEraseComplete_of_none, fun x => exec_flashEraseComplete_of_erased, fun x hx he => ⟨fun c hc => ?_, fun hc => ?_⟩⟩
    · exact (exec_flashEraseComplete hx he).trans (by rw [hc]; rfl)
    · exact (exec_flashEraseComplete hx he).trans (by rw [hc]; rfl)

end Sys2Proof.Machine
end

section
/-! PROOFS. The words of the Seisk instructions: packing and splitting fields, their codes, and the two round trips. -/

namespace Sys2Proof.Machine

/-! ### Fields packed and split -/

/-- Each value fits the width of its field. -/
def FieldsFit : List Nat → List Nat → Prop
  | [], [] => True
  | w :: ws, v :: vs => v < 2 ^ w ∧ FieldsFit ws vs
  | _, _ => False

theorem packFields_lt : ∀ {ws vs : List Nat}, FieldsFit ws vs → packFields (ws.zip vs) < 2 ^ ws.sum
  | [], [], _ => by simp [packFields]
  | w :: ws, v :: vs, ⟨hv, h⟩ => by
    have ih := packFields_lt h
    simp only [List.zip_cons_cons, packFields, List.sum_cons, pow_add]
    nlinarith [Nat.two_pow_pos w]

theorem splitFields_packFields : ∀ {ws vs : List Nat}, FieldsFit ws vs → splitFields ws (packFields (ws.zip vs)) = vs
  | [], [], _ => rfl
  | w :: ws, v :: vs, ⟨hv, h⟩ => by
    have hd : (v + 2 ^ w * packFields (ws.zip vs)) / 2 ^ w = packFields (ws.zip vs) := by
      rw [Nat.add_mul_div_left _ _ (Nat.two_pow_pos w), Nat.div_eq_of_lt hv, Nat.zero_add]
    simp only [List.zip_cons_cons, packFields, splitFields, Nat.add_mul_mod_self_left, Nat.mod_eq_of_lt hv, hd,
      splitFields_packFields h]

theorem packFields_splitFields : ∀ (ws : List Nat) (n : Nat), packFields (ws.zip (splitFields ws n)) = n % 2 ^ ws.sum
  | [], n => by simp [packFields, Nat.mod_one]
  | w :: ws, n => by
    simp only [splitFields, List.zip_cons_cons, packFields, packFields_splitFields ws, List.sum_cons, pow_add, Nat.mod_mul]

theorem splitFields_fit : ∀ (ws : List Nat) (n : Nat), FieldsFit ws (splitFields ws n)
  | [], _ => trivial
  | w :: ws, _ => ⟨Nat.mod_lt _ (Nat.two_pow_pos w), splitFields_fit ws _⟩

theorem splitFields_packWord {ws vs : List Nat} (h : ws.sum = 64) (hf : FieldsFit ws vs) :
    splitFields ws (packWord ws vs).toNat = vs := by
  have hlt := packFields_lt hf
  rw [h] at hlt
  rw [packWord, BitVec.toNat_ofNat, Nat.mod_eq_of_lt hlt, splitFields_packFields hf]

theorem packWord_splitFields {ws : List Nat} (h : ws.sum = 64) (w : Word) : packWord ws (splitFields ws w.toNat) = w := by
  rw [packWord, packFields_splitFields, h, Nat.mod_eq_of_lt w.isLt, BitVec.ofNat_toNat, BitVec.setWidth_eq]

/-! ### The word of each format, decoded -/

/-- What a word spells by its fields in the format that its opcode selects (Table 2-9). -/
theorem decodeSeisk_eq (h : Hart) {w : Word} {o : Nat} (ho : w.toNat % 256 = o) :
    (o < 0x30 → ∀ sd sa sb sc fn, splitFields srWidths w.toNat = [o, sd, sa, sb, sc, fn, 0] →
      decodeSeisk h w = decodeSR h o sd sa sb sc fn) ∧
    (0x30 ≤ o → o < 0x40 → ∀ sd sa fn imm, splitFields siWidths w.toNat = [o, sd, sa, fn, imm] →
      decodeSeisk h w = decodeSI h o sd sa fn imm) ∧
    (0x40 ≤ o → o < 0x50 → ∀ sa sb cond disp, splitFields bWidths w.toNat = [o, sa, sb, cond, 0, disp] →
      decodeSeisk h w = decodeB h o sa sb cond disp) ∧
    ((0x60 ≤ o ∧ o < 0xA0) ∨ o = 0xF3 → ∀ vd va vb vc pg pgn fmt rm fn sa,
      splitFields vWidths w.toNat = [o, vd, va, vb, vc, pg, pgn, fmt, rm, fn, sa, 0] →
      decodeSeisk h w = decodeV h o vd va vb vc pg pgn fmt rm fn sa) ∧
    (0xA0 ≤ o → o < 0xC0 → ∀ ts tw buf mode sa sb, splitFields mWidths w.toNat = [o, ts, tw, 0, buf, mode, sa, sb, 0] →
      decodeSeisk h w = decodeM h o ts tw buf mode sa sb) ∧
    (0xC0 ≤ o → o < 0xE0 → ∀ qh ta tb sa sb fn tag, splitFields qWidths w.toNat = [o, qh, ta, tb, sa, sb, fn, tag] →
      decodeSeisk h w = decodeQ h o qh ta tb sa sb fn tag) ∧
    (0xE0 ≤ o → o ≠ 0xF3 → ∀ sd sa sb csr fn imm, splitFields yWidths w.toNat = [o, sd, sa, sb, csr, fn, imm] →
      decodeSeisk h w = decodeY h o sd sa sb csr fn imm) := by
  unfold decodeSeisk
  simp only [ho]
  refine ⟨fun h1 _ _ _ _ _ hs => ?_, fun h0 h1 _ _ _ _ hs => ?_, fun h0 h1 _ _ _ _ hs => ?_,
    fun hv _ _ _ _ _ _ _ _ _ _ hs => ?_, fun h0 h1 _ _ _ _ _ _ hs => ?_, fun h0 h1 _ _ _ _ _ _ _ hs => ?_,
    fun h0 hv _ _ _ _ _ _ hs => ?_⟩
  · simp only [hs, if_pos h1]
  · simp only [hs, if_neg (show ¬o < 0x30 by omega), if_pos h1]
  · simp only [hs, if_neg (show ¬o < 0x30 by omega), if_neg (show ¬o < 0x40 by omega), if_pos h1]
  · simp only [hs, if_neg (show ¬o < 0x30 by omega), if_neg (show ¬o < 0x40 by omega), if_neg (show ¬o < 0x50 by omega), if_pos hv]
  · simp only [hs, if_neg (show ¬o < 0x30 by omega), if_neg (show ¬o < 0x40 by omega), if_neg (show ¬o < 0x50 by omega),
      if_neg (show ¬((0x60 ≤ o ∧ o < 0xA0) ∨ o = 0xF3) by omega), if_pos (And.intro h0 h1)]
  · simp only [hs, if_neg (show ¬o < 0x30 by omega), if_neg (show ¬o < 0x40 by omega), if_neg (show ¬o < 0x50 by omega),
      if_neg (show ¬((0x60 ≤ o ∧ o < 0xA0) ∨ o = 0xF3) by omega), if_neg (show ¬(0xA0 ≤ o ∧ o < 0xC0) by omega), if_pos (And.intro h0 h1)]
  · simp only [hs, if_neg (show ¬o < 0x30 by omega), if_neg (show ¬o < 0x40 by omega), if_neg (show ¬o < 0x50 by omega),
      if_neg (show ¬((0x60 ≤ o ∧ o < 0xA0) ∨ o = 0xF3) by omega), if_neg (show ¬(0xA0 ≤ o ∧ o < 0xC0) by omega),
      if_neg (show ¬(0xC0 ≤ o ∧ o < 0xE0) by omega), if_pos h0]

/-! ### Codes of the fields: a code is read exactly where it is written -/

theorem relOf_eq_some {n : Nat} {r : Rel} : relOf n = some r ↔ n = relCode r := by
  refine ⟨?_, by rintro rfl; cases r <;> rfl⟩
  unfold relOf; split <;> rintro ⟨⟩ <;> rfl

theorem frelOf_eq_some {n : Nat} {r : FRel} : frelOf n = some r ↔ n = frelCode r := by
  refine ⟨?_, by rintro rfl; cases r <;> rfl⟩
  unfold frelOf; split <;> rintro ⟨⟩ <;> rfl

theorem vrelOf_eq_some {n : Nat} {r : VRel} : vrelOf n = some r ↔ n = vrelCode r := by
  refine ⟨?_, by rintro rfl; cases r <;> rfl⟩
  unfold vrelOf; split <;> rintro ⟨⟩ <;> rfl

theorem condOf_eq_some {n : Nat} {r : Cond} : condOf n = some r ↔ n = condCode r := by
  refine ⟨?_, by rintro rfl; cases r <;> rfl⟩
  unfold condOf; split <;> rintro ⟨⟩ <;> rfl

theorem pcondOf_eq_some {n : Nat} {r : PCond} : pcondOf n = some r ↔ n = pcondCode r := by
  refine ⟨?_, by rintro rfl; cases r <;> rfl⟩
  unfold pcondOf; split <;> rintro ⟨⟩ <;> rfl

theorem amoOf_eq_some {n : Nat} {r : AmoOp} : amoOf n = some r ↔ n = amoCode r := by
  refine ⟨?_, by rintro rfl; cases r <;> rfl⟩
  unfold amoOf; split <;> rintro ⟨⟩ <;> rfl

theorem rmOf_eq_some {n : Nat} {r : RmField} : rmOf n = some r ↔ n = rmCode r := by
  refine ⟨?_, by rintro rfl; cases r <;> rfl⟩
  unfold rmOf; split <;> rintro ⟨⟩ <;> rfl

theorem fmtOf_eq_some {n : Nat} {r : Fmt} : fmtOf n = some r ↔ n = fmtCode r := by
  refine ⟨?_, by rintro rfl; cases r <;> rfl⟩
  unfold fmtOf; split <;> rintro ⟨⟩ <;> rfl

theorem redOf_eq_some {n : Nat} {r : RedFn} : redOf n = some r ↔ n = redCode r := by
  refine ⟨?_, by rintro rfl; cases r <;> rfl⟩
  unfold redOf; split <;> rintro ⟨⟩ <;> rfl

theorem plogOf_eq_some {n : Nat} {r : PlogFn} : plogOf n = some r ↔ n = plogCode r := by
  refine ⟨?_, by rintro rfl; cases r <;> rfl⟩
  unfold plogOf; split <;> rintro ⟨⟩ <;> rfl

theorem algOf_eq_some {n : Nat} {r : OptAlg} : algOf n = some r ↔ n = algCode r := by
  refine ⟨?_, by rintro rfl; cases r <;> rfl⟩
  unfold algOf; split <;> rintro ⟨⟩ <;> rfl

theorem fenceOf_eq_some {n : Nat} {r : FenceKind} : fenceOf n = some r ↔ n = fenceCode r := by
  refine ⟨?_, by rintro rfl; cases r <;> rfl⟩
  unfold fenceOf; split <;> rintro ⟨⟩ <;> rfl

theorem wcondOf_eq_some {n : Nat} {r : WCond} : wcondOf n = some r ↔ n = wcondCode r := by
  refine ⟨?_, by rintro rfl; cases r <;> rfl⟩
  unfold wcondOf; split <;> rintro ⟨⟩ <;> rfl

theorem csrOf_eq_some {n : Nat} {r : CsrOp} : csrOf n = some r ↔ n = csrCode r := by
  refine ⟨?_, by rintro rfl; cases r <;> rfl⟩
  unfold csrOf; split <;> rintro ⟨⟩ <;> rfl

theorem sizeCode_sizeOf_mod (n : Nat) : sizeCode (sizeOf n) = n % 4 := by
  have h := Nat.mod_lt n (show 4 > 0 by decide)
  unfold sizeOf
  interval_cases n % 4 <;> rfl

theorem sizeCode_sizeOf {n : Nat} (h : n < 4) : sizeCode (sizeOf n) = n := by
  rw [sizeCode_sizeOf_mod, Nat.mod_eq_of_lt h]

theorem actCode_actOf {n : Nat} (h : n < 8) : actCode (actOf n) = n := by
  interval_cases n <;> rfl

theorem actOf_actCode (f : ActFn) : actOf (actCode f) = f := by cases f <;> rfl

theorem credOf_eq_some {n : Nat} {op : CredOp} : credOf n = some op ↔ n = credCode op := by
  constructor
  · unfold credOf
    split_ifs with h0 h1 h2 <;> rintro ⟨⟩
    · exact h0
    · exact h1
    · have : n / 4 < 16 := by omega
      simp only [credCode, Fin.ofNat, Nat.mod_eq_of_lt this]
      omega
  · rintro rfl
    cases op with
    | sum => rfl
    | max => rfl
    | topk k =>
      have h4 : (4 * k.val + 2) % 4 = 2 ∧ 4 * k.val + 2 < 64 := by omega
      have hk : (4 * k.val + 2) / 4 = k.val := by omega
      rw [credCode, credOf, if_neg (by omega), if_neg (by omega), if_pos h4, hk]
      simp

theorem b1_decide_one {n : Nat} (h : n < 2) : b1 (decide (n = 1)) = n := by
  interval_cases n <;> rfl

theorem decide_b1 (b : Bool) : decide (b1 b = 1) = b := by cases b <;> rfl

theorem modeOf_eq_some {n : Nat} {m : MMode} (hn : n < 2 ^ 17) : modeOf n = some m ↔ n = modeCode m := by
  constructor
  · intro h
    have ha := b1_decide_one (n := n / 65536) (by omega)
    have ht := b1_decide_one (n := n / 8192 % 2) (by omega)
    unfold modeOf at h
    split at h
    case isTrue => contradiction
    split at h
    case h_4 => contradiction
    all_goals cases h; simp only [modeCode, ha, ht]; omega
  · rintro rfl
    obtain ⟨a, g, t⟩ := m
    cases a <;> cases g <;> cases t <;> rfl

theorem colOf_eq_some {n : Nat} {f : ColFn} : colOf n = some f ↔ n = colCode f := by
  constructor
  · intro h
    unfold colOf at h
    split at h
    case isTrue => contradiction
    have hc := b1_decide_one (n := n / 32 % 2) (by omega)
    have hb := b1_decide_one (n := n / 64 % 2) (by omega)
    have hr := b1_decide_one (n := n / 128) (by omega)
    split at h
    case h_4 => contradiction
    all_goals cases h; simp only [colCode, hc, hb, hr, Fin.ofNat]; omega
  · rintro rfl
    obtain ⟨op, axis, codec, bidir, ragged⟩ := f
    revert axis codec bidir ragged
    cases op <;> decide

theorem modeCode_lt (m : MMode) : modeCode m < 131072 := by
  obtain ⟨a, g, t⟩ := m
  cases a <;> cases g <;> cases t <;> decide

theorem colCode_lt (f : ColFn) : colCode f < 2048 := by
  obtain ⟨op, axis, codec, bidir, ragged⟩ := f
  revert axis codec bidir ragged
  cases op <;> decide

theorem req_eq_some {b : Bool} {i j : Instr} : req b i = some j ↔ b = true ∧ i = j := by
  cases b <;> simp [req]

section numbers
variable {n : Nat}
theorem val_f1 (h : n < 2) : (f1 n).val = n := Nat.mod_eq_of_lt h
theorem val_f2 (h : n < 4) : (f2 n).val = n := Nat.mod_eq_of_lt h
theorem val_f3 (h : n < 8) : (f3 n).val = n := Nat.mod_eq_of_lt h
theorem val_f4 (h : n < 16) : (f4 n).val = n := Nat.mod_eq_of_lt h
theorem val_f5 (h : n < 32) : (f5 n).val = n := Nat.mod_eq_of_lt h
theorem val_f7 (h : n < 128) : (f7 n).val = n := Nat.mod_eq_of_lt h
end numbers

/-! Fields within FN (R101, Table 3-7), put together again. -/

section parts
variable {fn : Nat}

theorem fn_axis (h : fn < 32) (h8 : fn % 8 = 0) : 8 * (f2 (fn / 8)).val = fn := by
  rw [val_f2 (by omega)]; omega

theorem fn_axis_bidir_ragged (h : fn < 256) (h8 : fn % 8 = 0) (h32 : fn / 32 % 2 = 0) :
    8 * (f2 (fn / 8)).val + 64 * b1 (decide (fn / 64 % 2 = 1)) + 128 * b1 (decide (fn / 128 = 1)) = fn := by
  rw [b1_decide_one (by omega), b1_decide_one (by omega), show (f2 (fn / 8)).val = fn / 8 % 4 from rfl]; omega

theorem fn_axis_ragged (h : fn < 256) (h8 : fn % 8 = 0) (h32 : fn / 32 % 4 = 0) :
    8 * (f2 (fn / 8)).val + 128 * b1 (decide (fn / 128 = 1)) = fn := by
  rw [b1_decide_one (by omega), show (f2 (fn / 8)).val = fn / 8 % 4 from rfl]; omega

theorem fn_axis_minus (h : fn < 512) (h8 : fn % 8 = 0) (h32 : fn / 32 % 8 = 0) :
    8 * (f2 (fn / 8)).val + 256 * b1 (decide (fn / 256 = 1)) = fn := by
  rw [b1_decide_one (by omega), show (f2 (fn / 8)).val = fn / 8 % 4 from rfl]; omega

theorem fn_act_input (h : fn < 32) : fn % 16 + 16 * b1 (decide (fn / 16 = 1)) = fn := by
  rw [b1_decide_one (by omega)]; omega

theorem fn_src_sat_mx {c : Nat} (h : fn < 64) (hc : fn % 16 = c) :
    c + 16 * b1 (decide (fn / 16 % 2 = 1)) + 32 * b1 (decide (fn / 32 = 1)) = fn := by
  rw [b1_decide_one (by omega), b1_decide_one (by omega)]; omega

theorem fn_size_signed (h : fn < 8) : sizeCode (sizeOf fn) + 4 * b1 (decide (fn / 4 = 1)) = fn := by
  rw [sizeCode_sizeOf_mod, b1_decide_one (by omega)]; omega
end parts

/-- Instruction `i` of hart `h` is what the word `w` spells. -/
def Spells (h : Hart) (w : Word) (i : Instr) : Prop := encodeSeisk i = w ∧ i.hart = some h ∧ plainInstr i = true

theorem word_of_split {ws vs : List Nat} {w : Word} (h : ws.sum = 64) (hs : splitFields ws w.toNat = vs) :
    packWord ws vs = w ∧ FieldsFit ws vs :=
  ⟨hs ▸ packWord_splitFields h w, hs ▸ splitFields_fit ws _⟩

section spells
variable {h : Hart} {i : Instr}

theorem decodeSR_spells {o sd sa sb sc fn : Nat} (hf : FieldsFit srWidths [o, sd, sa, sb, sc, fn, 0])
    (hd : decodeSR h o sd sa sb sc fn = some i) : Spells h (wSR o sd sa sb sc fn) i := by
  obtain ⟨-, hsd, hsa, hsb, hsc, -⟩ := hf
  have esd := val_f5 hsd
  have esa := val_f5 hsa
  have esb := val_f5 hsb
  have esc := val_f5 hsc
  have efn : fn < 2 → (if fn = 0 then 0 else 1) = fn := fun h => by split <;> omega
  unfold decodeSR at hd
  split at hd
  all_goals simp only [req_eq_some, Option.bind_eq_some_iff, Bool.and_eq_true, decide_eq_true_eq, relOf_eq_some,
    frelOf_eq_some, reduceCtorEq] at hd
  all_goals casesm* ∃ _, _, _ ∧ _
  all_goals subst_vars
  all_goals simp [Spells, encodeSeisk, Instr.hart, plainInstr, val_f2, val_f4, *]

theorem decodeSI_spells {o sd sa fn imm : Nat} (hf : FieldsFit siWidths [o, sd, sa, fn, imm])
    (hd : decodeSI h o sd sa fn imm = some i) : Spells h (wSI o sd sa fn imm) i := by
  obtain ⟨-, hsd, hsa, -, himm, -⟩ := hf
  have esd := val_f5 hsd
  have esa := val_f5 hsa
  have eimm := Nat.mod_eq_of_lt himm
  have ecnt : imm < 64 → imm % 64 = imm := Nat.mod_eq_of_lt
  unfold decodeSI at hd
  split at hd
  all_goals simp only [req_eq_some, Option.bind_eq_some_iff, Bool.and_eq_true, decide_eq_true_eq, relOf_eq_some,
    amoOf_eq_some, reduceCtorEq, Option.some.injEq] at hd
  all_goals casesm* ∃ _, _, _ ∧ _
  all_goals subst_vars
  all_goals simp [Spells, encodeSeisk, Instr.hart, plainInstr, sizeCode_sizeOf, fn_size_signed, val_f4, -Nat.reducePow, *]

theorem decodeB_spells {o sa sb cond disp : Nat} (hf : FieldsFit bWidths [o, sa, sb, cond, 0, disp])
    (hd : decodeB h o sa sb cond disp = some i) : Spells h (wB o sa sb cond disp) i := by
  obtain ⟨-, hsa, hsb, -, -, hdisp, -⟩ := hf
  have esa := val_f5 hsa
  have esb := val_f5 hsb
  have edisp := Nat.mod_eq_of_lt hdisp
  unfold decodeB at hd
  split at hd
  all_goals simp only [req_eq_some, Option.bind_eq_some_iff, Bool.and_eq_true, decide_eq_true_eq, condOf_eq_some,
    pcondOf_eq_some, reduceCtorEq, Option.some.injEq] at hd
  all_goals casesm* ∃ _, _, _ ∧ _
  all_goals subst_vars
  all_goals simp [Spells, encodeSeisk, Instr.hart, plainInstr, val_f3, -Nat.reducePow, *]

theorem decodeVWith_spells {o vd va vb vc pg pgn fmt rm fn sa : Nat} {f : Fmt} {m : RmField}
    (hf : FieldsFit vWidths [o, vd, va, vb, vc, pg, pgn, fmt, rm, fn, sa, 0]) (hfmt : fmt = fmtCode f) (hrm : rm = rmCode m)
    (hd : decodeVWith h { p := f3 pg, neg := decide (pgn = 1) } f m o vd va vb vc fmt rm fn sa = some i) :
    Spells h (packWord vWidths [o, vd, va, vb, vc, pg, pgn, fmt, rm, fn, sa, 0]) i := by
  obtain ⟨-, hvd, hva, hvb, hvc, hpg, hpgn, -, -, hfn, hsa, -⟩ := hf
  have evd := val_f5 hvd
  have eva := val_f5 hva
  have evb := val_f5 hvb
  have evc := val_f5 hvc
  have esa := val_f5 hsa
  have epg := val_f3 hpg
  have epgn := b1_decide_one hpgn
  have efn := Nat.mod_eq_of_lt hfn
  have ef32 : fmtCode .f32 = 0 := rfl
  unfold decodeVWith at hd
  split at hd
  all_goals simp only [req_eq_some, Option.bind_eq_some_iff, Bool.and_eq_true, decide_eq_true_eq, vrelOf_eq_some, fmtOf_eq_some,
    redOf_eq_some, credOf_eq_some, plogOf_eq_some, algOf_eq_some, reduceCtorEq] at hd
  all_goals casesm* ∃ _, _, _ ∧ _
  all_goals subst_vars
  all_goals simp [Spells, encodeSeisk, Instr.hart, plainInstr, wV, val_f3, val_f7, b1_decide_one, actCode_actOf, fn_act_input, fn_src_sat_mx, -Nat.reducePow, *]

theorem decodeM_spells {o ts tw buf mode sa sb : Nat} (hf : FieldsFit mWidths [o, ts, tw, 0, buf, mode, sa, sb, 0])
    (hd : decodeM h o ts tw buf mode sa sb = some i) : Spells h (packWord mWidths [o, ts, tw, 0, buf, mode, sa, sb, 0]) i := by
  obtain ⟨-, hts, htw, -, hbuf, hmode, hsa, hsb, -⟩ := hf
  have ets := val_f4 hts
  have etw := val_f4 htw
  have ebuf := val_f1 hbuf
  have esa := val_f5 hsa
  have esb := val_f5 hsb
  unfold decodeM at hd
  split at hd
  all_goals simp only [req_eq_some, Option.bind_eq_some_iff, Bool.and_eq_true, decide_eq_true_eq, modeOf_eq_some hmode,
    reduceCtorEq, Option.some.injEq] at hd
  all_goals casesm* ∃ _, _, _ ∧ _
  all_goals subst_vars
  all_goals simp [Spells, encodeSeisk, Instr.hart, plainInstr, wM, -Nat.reducePow, *]

theorem decodeQ_spells {o qh ta tb sa sb fn tag : Nat} (hf : FieldsFit qWidths [o, qh, ta, tb, sa, sb, fn, tag])
    (hd : decodeQ h o qh ta tb sa sb fn tag = some i) : Spells h (packWord qWidths [o, qh, ta, tb, sa, sb, fn, tag]) i := by
  obtain ⟨-, hqh, hta, htb, hsa, hsb, -, htag, -⟩ := hf
  have eqh := val_f3 hqh
  have eta := val_f4 hta
  have etb := val_f4 htb
  have esa := val_f5 hsa
  have esb := val_f5 hsb
  have etag := Nat.mod_eq_of_lt htag
  unfold decodeQ at hd
  split at hd
  all_goals simp only [req_eq_some, Option.bind_eq_some_iff, Bool.and_eq_true, decide_eq_true_eq, colOf_eq_some,
    reduceCtorEq] at hd
  all_goals casesm* ∃ _, _, _ ∧ _
  all_goals subst_vars
  all_goals simp [Spells, encodeSeisk, Instr.hart, plainInstr, wQ, b1_decide_one, fn_axis, fn_axis_bidir_ragged, fn_axis_ragged, fn_axis_minus, -Nat.reducePow, *]

theorem decodeY_spells {o sd sa sb csr fn imm : Nat} (hf : FieldsFit yWidths [o, sd, sa, sb, csr, fn, imm])
    (hd : decodeY h o sd sa sb csr fn imm = some i) : Spells h (wY o sd sa sb csr fn imm) i := by
  obtain ⟨-, hsd, hsa, hsb, hcsr, -, himm, -⟩ := hf
  have esd := val_f5 hsd
  have esa := val_f5 hsa
  have esb := val_f5 hsb
  have ecsr := Nat.mod_eq_of_lt hcsr
  have eimm := Nat.mod_eq_of_lt himm
  unfold decodeY at hd
  split at hd
  all_goals simp only [req_eq_some, Option.bind_eq_some_iff, Bool.and_eq_true, decide_eq_true_eq, fenceOf_eq_some,
    wcondOf_eq_some, csrOf_eq_some, reduceCtorEq] at hd
  all_goals casesm* ∃ _, _, _ ∧ _
  all_goals subst_vars
  all_goals simp [Spells, encodeSeisk, Instr.hart, plainInstr, val_f3, b1_decide_one, -Nat.reducePow, *]
end spells

section spells
variable {h : Hart} {i : Instr}

theorem decodeV_spells {o vd va vb vc pg pgn fmt rm fn sa : Nat}
    (hf : FieldsFit vWidths [o, vd, va, vb, vc, pg, pgn, fmt, rm, fn, sa, 0])
    (hd : decodeV h o vd va vb vc pg pgn fmt rm fn sa = some i) :
    Spells h (packWord vWidths [o, vd, va, vb, vc, pg, pgn, fmt, rm, fn, sa, 0]) i := by
  simp only [decodeV, Option.bind_eq_some_iff] at hd
  obtain ⟨f, hfmt, m, hrm, hd⟩ := hd
  exact decodeVWith_spells hf (fmtOf_eq_some.mp hfmt) (rmOf_eq_some.mp hrm) hd

theorem opcode_of_split {ws vs : List Nat} {n o : Nat} (hs : splitFields (8 :: ws) n = o :: vs) : n % 256 = o :=
  (List.cons.inj hs).1

/-- A word that decodes is spelled by the instruction that it decodes to. -/
theorem decodeSeisk_spells {w : Word} (hd : decodeSeisk h w = some i) : Spells h w i := by
  unfold decodeSeisk at hd
  simp only at hd
  split_ifs at hd
  all_goals split at hd
  all_goals try contradiction
  all_goals
    rename_i hs
    rw [opcode_of_split hs] at hd
    obtain ⟨hw, hf⟩ := word_of_split rfl hs
    rw [← hw]
  · exact decodeSR_spells hf hd
  · exact decodeSI_spells hf hd
  · exact decodeB_spells hf hd
  · exact decodeV_spells hf hd
  · exact decodeM_spells hf hd
  · exact decodeQ_spells hf hd
  · exact decodeY_spells hf hd
end spells

/-! ### The word of an instruction, decoded -/

section words
variable (h : Hart)

theorem decodeSeisk_wSR {o sd sa sb sc fn : Nat} (ho : o < 0x30) (hf : FieldsFit srWidths [o, sd, sa, sb, sc, fn, 0]) :
    decodeSeisk h (wSR o sd sa sb sc fn) = decodeSR h o sd sa sb sc fn := by
  have hs := splitFields_packWord rfl hf
  exact (decodeSeisk_eq h (opcode_of_split hs)).1 ho _ _ _ _ _ hs

theorem decodeSeisk_wSI {o sd sa fn imm : Nat} (ho : 0x30 ≤ o ∧ o < 0x40) (hf : FieldsFit siWidths [o, sd, sa, fn, imm]) :
    decodeSeisk h (wSI o sd sa fn imm) = decodeSI h o sd sa fn imm := by
  have hs := splitFields_packWord rfl hf
  exact (decodeSeisk_eq h (opcode_of_split hs)).2.1 ho.1 ho.2 _ _ _ _ hs

theorem decodeSeisk_wB {o sa sb cond disp : Nat} (ho : 0x40 ≤ o ∧ o < 0x50) (hf : FieldsFit bWidths [o, sa, sb, cond, 0, disp]) :
    decodeSeisk h (wB o sa sb cond disp) = decodeB h o sa sb cond disp := by
  have hs := splitFields_packWord rfl hf
  exact (decodeSeisk_eq h (opcode_of_split hs)).2.2.1 ho.1 ho.2 _ _ _ _ hs

/-- A word of format V, its guard, format and rounding mode read back. -/
theorem decodeSeisk_wV {o vd va vb vc fn sa : Nat} {g : Guard} {f : Fmt} (m : RmField) (ho : (0x60 ≤ o ∧ o < 0xA0) ∨ o = 0xF3)
    (hg : g.err = .none) (hf : FieldsFit vWidths [o, vd, va, vb, vc, g.p.val, b1 g.neg, fmtCode f, rmCode m, fn, sa, 0]) :
    decodeSeisk h (wV o vd va vb vc g f (rmCode m) fn sa) = decodeVWith h g f m o vd va vb vc (fmtCode f) (rmCode m) fn sa := by
  have hs := splitFields_packWord rfl hf
  obtain ⟨p, neg, err⟩ := g
  cases hg
  rw [wV, (decodeSeisk_eq h (opcode_of_split hs)).2.2.2.1 ho _ _ _ _ _ _ _ _ _ _ hs, decodeV, fmtOf_eq_some.mpr rfl,
    rmOf_eq_some.mpr rfl]
  simp [f3, decide_b1]

theorem decodeSeisk_wV_dyn {o vd va vb vc fn sa : Nat} {g : Guard} {f : Fmt} (ho : (0x60 ≤ o ∧ o < 0xA0) ∨ o = 0xF3)
    (hg : g.err = .none) (hf : FieldsFit vWidths [o, vd, va, vb, vc, g.p.val, b1 g.neg, fmtCode f, 0, fn, sa, 0]) :
    decodeSeisk h (wV o vd va vb vc g f 0 fn sa) = decodeVWith h g f .dyn o vd va vb vc (fmtCode f) 0 fn sa :=
  decodeSeisk_wV h .dyn ho hg hf

theorem decodeSeisk_wM {o ts tw mode sa sb : Nat} {buf : Fin 2} (ho : 0xA0 ≤ o ∧ o < 0xC0)
    (hf : FieldsFit mWidths [o, ts, tw, 0, buf.val, mode, sa, sb, 0]) :
    decodeSeisk h (wM o ts tw buf mode sa sb) = decodeM h o ts tw buf.val mode sa sb := by
  have hs := splitFields_packWord rfl hf
  exact (decodeSeisk_eq h (opcode_of_split hs)).2.2.2.2.1 ho.1 ho.2 _ _ _ _ _ _ hs

theorem decodeSeisk_wQ {o qh ta tb sa sb fn : Nat} {tag : BitVec 24} (ho : 0xC0 ≤ o ∧ o < 0xE0)
    (hf : FieldsFit qWidths [o, qh, ta, tb, sa, sb, fn, tag.toNat]) :
    decodeSeisk h (wQ o qh ta tb sa sb fn tag) = decodeQ h o qh ta tb sa sb fn tag.toNat := by
  have hs := splitFields_packWord rfl hf
  exact (decodeSeisk_eq h (opcode_of_split hs)).2.2.2.2.2.1 ho.1 ho.2 _ _ _ _ _ _ _ hs

theorem decodeSeisk_wY {o sd sa sb csr fn imm : Nat} (ho : 0xE0 ≤ o ∧ o ≠ 0xF3) (hf : FieldsFit yWidths [o, sd, sa, sb, csr, fn, imm]) :
    decodeSeisk h (wY o sd sa sb csr fn imm) = decodeY h o sd sa sb csr fn imm := by
  have hs := splitFields_packWord rfl hf
  exact (decodeSeisk_eq h (opcode_of_split hs)).2.2.2.2.2.2 ho.1 ho.2 _ _ _ _ _ _ hs

end words

/-! ### Codes fit their fields -/

section bounds
variable {n : Nat}
theorem relCode_lt (r : Rel) (hn : 16 ≤ n) : relCode r < n := lt_of_lt_of_le (by cases r <;> decide) hn
theorem frelCode_lt (r : FRel) (hn : 16 ≤ n) : frelCode r < n := lt_of_lt_of_le (by cases r <;> decide) hn
theorem vrelCode_lt (r : VRel) (hn : 16 ≤ n) : vrelCode r < n := lt_of_lt_of_le (by cases r <;> decide) hn
theorem condCode_lt (r : Cond) (hn : 16 ≤ n) : condCode r < n := lt_of_lt_of_le (by cases r <;> decide) hn
theorem pcondCode_lt (r : PCond) (hn : 16 ≤ n) : pcondCode r < n := lt_of_lt_of_le (by cases r <;> decide) hn
theorem amoCode_lt (r : AmoOp) (hn : 16 ≤ n) : amoCode r < n := lt_of_lt_of_le (by cases r <;> decide) hn
theorem rmCode_lt (r : RmField) (hn : 16 ≤ n) : rmCode r < n := lt_of_lt_of_le (by cases r <;> decide) hn
theorem fmtCode_lt (r : Fmt) (hn : 16 ≤ n) : fmtCode r < n := lt_of_lt_of_le (by cases r <;> decide) hn
theorem redCode_lt (r : RedFn) (hn : 16 ≤ n) : redCode r < n := lt_of_lt_of_le (by cases r <;> decide) hn
theorem plogCode_lt (r : PlogFn) (hn : 16 ≤ n) : plogCode r < n := lt_of_lt_of_le (by cases r <;> decide) hn
theorem algCode_lt (r : OptAlg) (hn : 16 ≤ n) : algCode r < n := lt_of_lt_of_le (by cases r <;> decide) hn
theorem fenceCode_lt (r : FenceKind) (hn : 16 ≤ n) : fenceCode r < n := lt_of_lt_of_le (by cases r <;> decide) hn
theorem wcondCode_lt (r : WCond) (hn : 16 ≤ n) : wcondCode r < n := lt_of_lt_of_le (by cases r <;> decide) hn
theorem csrCode_lt (r : CsrOp) (hn : 16 ≤ n) : csrCode r < n := lt_of_lt_of_le (by cases r <;> decide) hn
theorem sizeCode_lt (r : Size) (hn : 4 ≤ n) : sizeCode r < n := lt_of_lt_of_le (by cases r <;> decide) hn
theorem actCode_lt (r : ActFn) (hn : 8 ≤ n) : actCode r < n := lt_of_lt_of_le (by cases r <;> decide) hn
theorem credCode_lt (op : CredOp) : credCode op < 4096 := by
  cases op with
  | topk k => simp only [credCode]; omega
  | _ => decide
end bounds

/-! Fields within FN (R101, Table 3-7), read back. -/

theorem sizeSigned_lt (s : Size) (g : Bool) {n : Nat} (hn : 8 ≤ n) : sizeCode s + 4 * b1 g < n :=
  lt_of_lt_of_le (by cases s <;> cases g <;> decide) hn

theorem sizeSigned_read (s : Size) (g : Bool) :
    sizeOf (sizeCode s + 4 * b1 g) = s ∧ decide ((sizeCode s + 4 * b1 g) / 4 = 1) = g := by
  cases s <;> cases g <;> decide

theorem sizeOf_sizeCode (s : Size) : sizeOf (sizeCode s) = s := by cases s <;> rfl

theorem actInput_lt (f : ActFn) (b : Bool) {n : Nat} (hn : 32 ≤ n) : actCode f + 16 * b1 b < n :=
  lt_of_lt_of_le (by cases f <;> cases b <;> decide) hn

theorem actInput_read (f : ActFn) (b : Bool) :
    (actCode f + 16 * b1 b) % 16 = actCode f ∧ decide ((actCode f + 16 * b1 b) / 16 = 1) = b := by
  cases f <;> cases b <;> decide

theorem srcSatMx_lt (f : Fmt) (b c : Bool) {n : Nat} (hn : 64 ≤ n) : fmtCode f + 16 * b1 b + 32 * b1 c < n :=
  lt_of_lt_of_le (by cases f <;> cases b <;> cases c <;> decide) hn

theorem srcSatMx_read (f : Fmt) (b c : Bool) : fmtOf ((fmtCode f + 16 * b1 b + 32 * b1 c) % 16) = some f ∧
    decide ((fmtCode f + 16 * b1 b + 32 * b1 c) / 16 % 2 = 1) = b ∧ decide ((fmtCode f + 16 * b1 b + 32 * b1 c) / 32 = 1) = c := by
  cases f <;> cases b <;> cases c <;> decide

theorem axis_lt (a : Axis) {n : Nat} (hn : 32 ≤ n) : 8 * a.val < n := by omega

theorem axisBidirRagged_lt (a : Axis) (b c : Bool) {n : Nat} (hn : 256 ≤ n) : 8 * a.val + 64 * b1 b + 128 * b1 c < n :=
  lt_of_lt_of_le (by revert a b c; decide) hn

theorem axisBidirRagged_read (a : Axis) (b c : Bool) :
    let n := 8 * a.val + 64 * b1 b + 128 * b1 c
    n % 8 = 0 ∧ n / 32 % 2 = 0 ∧ f2 (n / 8) = a ∧ decide (n / 64 % 2 = 1) = b ∧ decide (n / 128 = 1) = c := by
  revert a b c; decide

theorem axisRagged_lt (a : Axis) (b : Bool) {n : Nat} (hn : 256 ≤ n) : 8 * a.val + 128 * b1 b < n :=
  lt_of_lt_of_le (by revert a b; decide) hn

theorem axisRagged_read (a : Axis) (b : Bool) :
    let n := 8 * a.val + 128 * b1 b
    n % 8 = 0 ∧ n / 32 % 4 = 0 ∧ f2 (n / 8) = a ∧ decide (n / 128 = 1) = b := by
  revert a b; decide

theorem axisMinus_lt (a : Axis) (b : Bool) {n : Nat} (hn : 512 ≤ n) : 8 * a.val + 256 * b1 b < n :=
  lt_of_lt_of_le (by revert a b; decide) hn

theorem axisMinus_read (a : Axis) (b : Bool) :
    let n := 8 * a.val + 256 * b1 b
    n % 8 = 0 ∧ n / 32 % 8 = 0 ∧ f2 (n / 8) = a ∧ decide (n / 256 = 1) = b := by
  revert a b; decide

theorem fcvtKind_read (k : FcvtKind) : (if k = .toInt then 0 else 1) < 2 ∧
    (if (if k = .toInt then 0 else 1) = 0 then FcvtKind.toInt else .toFp) = k := by cases k <;> decide

theorem b1_le (b : Bool) : b1 b ≤ 1 := by cases b <;> decide

theorem b1_lt (b : Bool) {n : Nat} (hn : 2 ≤ n) : b1 b < n := (Nat.lt_succ_of_le (b1_le b)).trans_le hn

theorem bitVec_lt {w n : Nat} (x : BitVec w) (hn : 2 ^ w ≤ n) : x.toNat < n := x.isLt.trans_le hn

theorem actCode_mod (f : ActFn) : actCode f % 16 = actCode f := by cases f <;> rfl

theorem fin2_le (r : Fin 2) : r.val ≤ 1 := by omega

theorem fin_lt {k n : Nat} (r : Fin k) (hn : k ≤ n) : r.val < n := lt_of_lt_of_le r.isLt hn

/-- Decoding gives a legal instruction back, format by format. -/
theorem decodeSeisk_encodeSeisk {h : Hart} {i : Instr} (hh : i.hart = some h) (hl : i.legal = true) (hp : plainInstr i = true) :
    decodeSeisk h (encodeSeisk i) = some i := by
  cases i
  -- Format SR: three registers.
  case add | sub | mullo | mulhss | mulhuu | mulhsu | quos | quou | rmds | rmdu | and | or | xor | andc | shl |
      shr | shra | ror | mins | maxs | minu | maxu | fadd | fsub | fmul | fmin | fmax | cset | sel | madd |
      ffma | zlead | ztrail | ones | fcmp | tset | tget =>
    cases hh
    rw [encodeSeisk, decodeSeisk_wSR h (by decide)
      (by simp [FieldsFit, srWidths, relCode_lt, frelCode_lt, fin_lt])]
    simp [decodeSR, req, f2, f4, f5, relOf_eq_some.mpr rfl, frelOf_eq_some.mpr rfl]
  case fcvt k _ _ =>
    cases hh
    rw [encodeSeisk, decodeSeisk_wSR h (by decide) (by cases k <;> simp [FieldsFit, srWidths])]
    cases k <;> simp [decodeSR, req, f5]
  -- Format SI: two registers and an immediate.
  case addi | andi | ori | xori | lih | shli | shri | shrai | st | amo | cseti | tld | tst =>
    cases hh
    rw [encodeSeisk, decodeSeisk_wSI h (by decide)
      (by simp [FieldsFit, siWidths, relCode_lt, amoCode_lt, sizeCode_lt, fin_lt, bitVec_lt])]
    simp [decodeSI, req, f4, f5, relOf_eq_some.mpr rfl, amoOf_eq_some.mpr rfl, sizeCode_lt, sizeOf_sizeCode, bitVec_lt]
  case ld =>
    cases hh
    obtain rfl : _ = SramErr.none := by simpa [plainInstr] using hp
    rw [encodeSeisk, decodeSeisk_wSI h (by decide) (by simp [FieldsFit, siWidths, sizeSigned_lt, bitVec_lt])]
    simp [decodeSI, req, f5, sizeSigned_lt, sizeSigned_read]
  -- Format B: branches.
  case br | call | callr | bp | loop =>
    cases hh
    rw [encodeSeisk, decodeSeisk_wB h (by decide) (by simp [FieldsFit, bWidths, condCode_lt, pcondCode_lt, fin_lt, bitVec_lt])]
    simp [decodeB, req, f3, f5, condOf_eq_some.mpr rfl, pcondOf_eq_some.mpr rfl]
  -- Format V with a rounding mode.
  case vadd | vsub | vmul | vfma | vsqrt | vact | vactd | vcvt | vred | vmuls =>
    cases hh
    rw [encodeSeisk, decodeSeisk_wV h _ (by decide) (by simpa [plainInstr] using hp)
      (by simp [FieldsFit, vWidths, fmtCode_lt, rmCode_lt, actCode_lt, actInput_lt, srcSatMx_lt, redCode_lt, b1_le])]
    simp [decodeVWith, req, f5, redOf_eq_some.mpr rfl, actOf_actCode, actCode_lt, actInput_lt, actInput_read, actCode_mod,
      srcSatMx_lt, srcSatMx_read]
  -- Format V without one.
  case vmin | vmax | vand | vor | vxor | vshl | viadd | vperm | vrcp | vrsqrt | vcmp | vsel | vshr | vbcast |
      vext |  vst | vrdvat | vwrvat | plog | pset | vidx | ostep =>
    cases hh
    rw [encodeSeisk, decodeSeisk_wV_dyn h (by decide) (by simpa [plainInstr] using hp)
      (by simp [FieldsFit, vWidths, fmtCode_lt, plogCode_lt, algCode_lt, vrelCode_lt, b1_le, b1_lt, fin_lt, bitVec_lt])]
    simp [decodeVWith, req, f3, f5, f7, vrelOf_eq_some.mpr rfl, plogOf_eq_some.mpr rfl, algOf_eq_some.mpr rfl,
      show fmtCode .f32 = 0 from rfl, b1_le, decide_b1]
  case vcred | vld =>
    cases hh
    obtain ⟨he, hg⟩ : _ ∧ _ := by simpa [plainInstr] using hp
    rw [encodeSeisk, decodeSeisk_wV_dyn h (by decide) hg
      (by simp [FieldsFit, vWidths, fmtCode_lt, credCode_lt, b1_le, bitVec_lt])]
    simp [decodeVWith, req, f5, credOf_eq_some.mpr rfl, he]
  -- Format M: the matrix engine.
  case mload | mmul | mgemm | mzero =>
    cases hh
    rw [encodeSeisk, decodeSeisk_wM h (by decide) (by simp [FieldsFit, mWidths, modeCode_lt, fin2_le])]
    simp [decodeM, req, f1, f4, f5, (modeOf_eq_some (modeCode_lt _)).mpr rfl]
  -- Format Q: queues.
  case rcopy | rgather | rscatter | rfill =>
    cases hh
    rw [encodeSeisk, decodeSeisk_wQ h (by decide) (by simp [FieldsFit, qWidths, b1_lt, bitVec_lt])]
    simp [decodeQ, req, f3, f4, f5, b1_le, decide_b1]
  case callreduce | creducescatter =>
    cases hh
    obtain rfl : _ = SramErr.none := by simpa [plainInstr] using hp
    rw [encodeSeisk, decodeSeisk_wQ h (by decide) (by simp [FieldsFit, qWidths, colCode_lt, bitVec_lt])]
    simp [decodeQ, req, f3, f4, f5, colOf_eq_some.mpr rfl]
  case callgather axis bidir ragged _ _ _ =>
    cases hh
    obtain rfl : _ = SramErr.none := by simpa [plainInstr] using hp
    rw [encodeSeisk, decodeSeisk_wQ h (by decide) (by simp [FieldsFit, qWidths, axisBidirRagged_lt, bitVec_lt])]
    have hn := axisBidirRagged_lt axis bidir ragged (le_refl 256)
    obtain ⟨h8, h32, ha, hb, hr⟩ := axisBidirRagged_read axis bidir ragged
    simp only [decodeQ, req, hn, h8, h32, ha, hb, hr]
    simp [f3, f4, f5]
  case calltoall axis ragged _ _ _ =>
    cases hh
    obtain rfl : _ = SramErr.none := by simpa [plainInstr] using hp
    rw [encodeSeisk, decodeSeisk_wQ h (by decide) (by simp [FieldsFit, qWidths, axisRagged_lt, bitVec_lt])]
    have hn := axisRagged_lt axis ragged (le_refl 256)
    obtain ⟨h8, h32, ha, hr⟩ := axisRagged_read axis ragged
    simp only [decodeQ, req, hn, h8, h32, ha, hr]
    simp [f3, f4, f5]
  case csend axis minus _ | crecv axis minus _ =>
    cases hh
    rw [encodeSeisk, decodeSeisk_wQ h (by decide) (by simp [FieldsFit, qWidths, axisMinus_lt, bitVec_lt])]
    have hn := axisMinus_lt axis minus (le_refl 512)
    obtain ⟨h8, h32, ha, hr⟩ := axisMinus_read axis minus
    simp only [decodeQ, req, hn, h8, h32, ha, hr]
    simp [f3, f4]
  case cbcast axis _ _ | cbarrier axis _ =>
    cases hh
    rw [encodeSeisk, decodeSeisk_wQ h (by decide) (by simp [FieldsFit, qWidths, axis_lt, bitVec_lt])]
    simp [decodeQ, req, f2, f3, f4, f5, axis_lt]
  -- Format Y: the system.
  case fence | wait | launch | waitm | qcopy | qread | sopen | sclose | sstat | sadv | smark | csrr | csrw |
      halt | brk | nop | cinv | tinv =>
    cases hh
    rw [encodeSeisk, decodeSeisk_wY h (by decide) (by simp [FieldsFit, yWidths, fenceCode_lt, wcondCode_lt, csrCode_lt, b1_lt, fin_lt, bitVec_lt])]
    simp [decodeY, req, f3, f5, fenceOf_eq_some.mpr rfl, wcondOf_eq_some.mpr rfl, csrOf_eq_some.mpr rfl, b1_le, decide_b1]
  case illegal => cases hl
  -- A happening has no hart.
  all_goals cases hh

/-- Settles O54: the word of a legal instruction decodes to it, and a word is spelled by the instruction it decodes to. -/
theorem seiskWordsRoundTrip : Obligations.SeiskWordsRoundTrip := by
  unfold Obligations.SeiskWordsRoundTrip
  exact ⟨fun _ _ => decodeSeisk_encodeSeisk, fun _ _ _ => decodeSeisk_spells, fun _ _ => rfl⟩

end Sys2Proof.Machine
end

section
/-! PROOFS. Memory: the bytes a store leaves, poison and failed channels, and runs of bytes that stand in it. -/

namespace Sys2Proof.Machine

/-! ### Little-endian values (R8) -/

@[simp] theorem length_leBytes (k v : Nat) : (leBytes k v).length = k := by
  induction k generalizing v with
  | zero => rfl
  | succ k ih => simp [leBytes, ih]

theorem leNat_leBytes (k v : Nat) : leNat (leBytes k v) = v % 2 ^ (8 * k) := by
  induction k generalizing v with
  | zero => simp [leBytes, leNat, Nat.mod_one]
  | succ k ih =>
    rw [leBytes, leNat, ih, BitVec.toNat_ofNat, show 2 ^ (8 * (k + 1)) = 256 * 2 ^ (8 * k) by rw [Nat.mul_succ, pow_add]; ring,
      Nat.mod_mul]
    simp

/-! ### Runs of bytes -/

@[simp] theorem Memory.length_bytes (m : Memory) (a n : Nat) : (m.bytes a n).length = n := by
  induction n generalizing a with
  | zero => rfl
  | succ n ih => simp [Memory.bytes, ih]

theorem Memory.bytes_add (m : Memory) (a j k : Nat) : m.bytes a (j + k) = m.bytes a j ++ m.bytes (a + j) k := by
  induction j generalizing a with
  | zero => simp [Memory.bytes]
  | succ j ih => rw [Nat.add_right_comm, Memory.bytes, ih, Memory.bytes, List.cons_append, Nat.add_assoc, Nat.add_comm 1 j]

theorem Memory.bytes_eq_ofFn (m : Memory) (a n : Nat) : m.bytes a n = List.ofFn (fun i : Fin n => m.byte (a + i.val)) := by
  induction n generalizing a with
  | zero => simp [Memory.bytes]
  | succ n ih => simp [Memory.bytes, ih, List.ofFn_succ, Nat.add_assoc, Nat.add_comm 1]

theorem Memory.bytes_congr {m m' : Memory} {a n : Nat} (h : ∀ i < n, m.byte (a + i) = m'.byte (a + i)) :
    m.bytes a n = m'.bytes a n := by
  rw [m.bytes_eq_ofFn, m'.bytes_eq_ofFn]
  exact congrArg List.ofFn (funext fun i => h i i.isLt)

theorem Memory.getD_bytes (m : Memory) {a n i : Nat} (h : i < n) : (m.bytes a n).getD i 0 = m.byte (a + i) := by
  rw [m.bytes_eq_ofFn]
  simp [List.getD_eq_getElem?_getD, h]

/-! ### Failed channels (R241): whether an address lies in one does not change with what is stored -/

@[simp] theorem Memory.patch_dead (m : Memory) (a : Nat) (bs : List Byte) : (m.patch a bs).dead = m.dead := rfl
@[simp] theorem Memory.patch_ways (m : Memory) (a : Nat) (bs : List Byte) : (m.patch a bs).ways = m.ways := rfl
@[simp] theorem Memory.patch_poison (m : Memory) (a : Nat) (bs : List Byte) : (m.patch a bs).poison = m.poison := rfl

theorem Memory.writeAlive_rest (m : Memory) (a : Nat) (bs : List Byte) :
    m.writeAlive a bs = { m with cells := (m.writeAlive a bs).cells } := by
  induction bs generalizing m a with
  | nil => rfl
  | cons b bs ih =>
    rw [Memory.writeAlive, ih]
    split <;> rfl

theorem Memory.write_rest (m : Memory) (a : Nat) (bs : List Byte) : m.write a bs = { m with cells := (m.write a bs).cells } := by
  unfold Memory.write
  split
  · rfl
  · exact m.writeAlive_rest a bs

theorem Memory.setPoison_rest (m : Memory) (l : Nat) (b : Bool) : m.setPoison l b = { m with poison := (m.setPoison l b).poison } := by
  unfold Memory.setPoison
  split <;> rfl

theorem Memory.linePoison_rest (m : Memory) (a n : Nat) (p : Bool) (l : Nat) :
    m.linePoison a n p l = { m with poison := (m.linePoison a n p l).poison } := by
  unfold Memory.linePoison
  split
  · exact m.setPoison_rest l true
  · split
    · exact m.setPoison_rest l false
    · rfl

theorem Memory.linePoisons_rest (a n : Nat) (p : Bool) (ls : List Nat) (m : Memory) :
    ls.foldl (fun m l => m.linePoison a n p l) m = { m with poison := (ls.foldl (fun m l => m.linePoison a n p l) m).poison } := by
  induction ls generalizing m with
  | nil => rfl
  | cons l ls ih => rw [List.foldl_cons, ih, m.linePoison_rest]

theorem Memory.store_rest (m : Memory) (a : Nat) (bs : List Byte) (p : Bool) :
    m.store a bs p = { m with cells := (m.store a bs p).cells, poison := (m.store a bs p).poison } := by
  unfold Memory.store
  rw [Memory.linePoisons_rest, m.write_rest]

@[simp] theorem Memory.store_dead (m : Memory) (a : Nat) (bs : List Byte) (p : Bool) : (m.store a bs p).dead = m.dead := by
  rw [m.store_rest]

@[simp] theorem Memory.store_ways (m : Memory) (a : Nat) (bs : List Byte) (p : Bool) : (m.store a bs p).ways = m.ways := by
  rw [m.store_rest]

theorem Memory.deadAt_congr {m m' : Memory} (hd : m'.dead = m.dead) (hw : m'.ways = m.ways) (x : Nat) :
    m'.deadAt x = m.deadAt x := by
  simp only [Memory.deadAt, hd, hw]

@[simp] theorem Memory.deadAt_store (m : Memory) (a : Nat) (bs : List Byte) (p : Bool) (x : Nat) :
    (m.store a bs p).deadAt x = m.deadAt x :=
  Memory.deadAt_congr (m.store_dead a bs p) (m.store_ways a bs p) x

/-- No byte of the `n` from `a` lies in a failed channel. -/
def Memory.Alive (m : Memory) (a n : Nat) : Prop := ∀ x, a ≤ x → x < a + n → m.deadAt x = false

theorem Memory.alive_of_dead_nil {m : Memory} (h : m.dead = []) (a n : Nat) : m.Alive a n := fun x _ _ => by
  simp [Memory.deadAt, h]

/-- A write to live channels is read back. -/
theorem Memory.byte_write_inside {m : Memory} {a : Nat} {bs : List Byte} (h : m.Alive a bs.length) {i : Nat} (h0 : a ≤ i)
    (h1 : i < a + bs.length) : (m.write a bs).byte i = bs.getD (i - a) 0 := by
  unfold Memory.write
  split
  · rw [Memory.byte_patch, if_pos ⟨h0, h1⟩]
  · induction bs generalizing m a with
    | nil => simp at h1; omega
    | cons b bs ih =>
      have hlen : (b :: bs).length = bs.length + 1 := rfl
      have ha : m.deadAt a = false := h a le_rfl (by omega)
      have hrest : (m.patch a [b]).Alive (a + 1) bs.length := fun x h2 h3 =>
        (Memory.deadAt_congr rfl rfl x).trans (h x (by omega) (by omega))
      rw [Memory.writeAlive, ha, if_neg Bool.false_ne_true]
      rcases Nat.eq_or_lt_of_le h0 with rfl | hlt
      · have hout : ((m.patch a [b]).writeAlive (a + 1) bs).byte a = (m.patch a [b]).byte a := by
          have := (m.patch a [b]).byte_write_outside (a + 1) bs a (by omega)
          unfold Memory.write at this
          rw [if_neg (by assumption)] at this
          exact this
        rw [hout, Memory.byte_patch, if_pos (by simp)]
        simp
      · rw [ih hrest hlt (by omega) (by assumption)]
        rw [show i - a = i - (a + 1) + 1 by omega, List.getD_cons_succ]

theorem Memory.byte_store_inside {m : Memory} {a : Nat} {bs : List Byte} (h : m.Alive a bs.length) (p : Bool) {i : Nat}
    (h0 : a ≤ i) (h1 : i < a + bs.length) : (m.store a bs p).byte i = bs.getD (i - a) 0 := by
  rw [Memory.byte_store, Memory.byte_write_inside h h0 h1]

theorem Memory.byte_store_outside (m : Memory) {a : Nat} {bs : List Byte} (p : Bool) {i : Nat} (h : ¬(a ≤ i ∧ i < a + bs.length)) :
    (m.store a bs p).byte i = m.byte i := by
  rw [Memory.byte_store, Memory.byte_write_outside m a bs i h]

/-! ### Poison (R38, R239) -/

theorem mem_linesOf {a n l : Nat} : l ∈ linesOf a n ↔ 64 * l < a + n ∧ a < 64 * l + 64 ∧ n ≠ 0 := by
  unfold linesOf
  split
  · simp [*]
  · simp only [List.mem_map, List.mem_range]
    constructor
    · rintro ⟨i, hi, rfl⟩; omega
    · rintro ⟨h1, h2, -⟩; exact ⟨l - a / 64, by omega, by omega⟩

theorem Memory.mem_setPoison (m : Memory) (l : Nat) (b : Bool) (x : Nat) :
    x ∈ (m.setPoison l b).poison ↔ if x = l then b = true else x ∈ m.poison := by
  unfold Memory.setPoison
  by_cases hx : x = l <;> cases b <;> simp [insertNat_mem, hx]

theorem Memory.mem_linePoison (m : Memory) (a n : Nat) (p : Bool) (l x : Nat) : x ∈ (m.linePoison a n p l).poison ↔
    if x = l then p = true ∨ (¬(a ≤ 64 * l ∧ 64 * l + 64 ≤ a + n) ∧ x ∈ m.poison) else x ∈ m.poison := by
  unfold Memory.linePoison
  cases p
  · simp only [Bool.false_eq_true, if_false, false_or]
    split
    · simp [Memory.mem_setPoison, *]
    · simp [*]
  · simp [Memory.mem_setPoison]

/-- The marks after a store: a poisoned one marks its lines, a clean one clears those that it covers. -/
theorem Memory.mem_poison_store (m : Memory) (a : Nat) (bs : List Byte) (p : Bool) (x : Nat) :
    x ∈ (m.store a bs p).poison ↔ if x ∈ linesOf a bs.length
      then p = true ∨ (¬(a ≤ 64 * x ∧ 64 * x + 64 ≤ a + bs.length) ∧ x ∈ m.poison) else x ∈ m.poison := by
  have hfold : ∀ (ls : List Nat) (w : Memory), x ∈ (ls.foldl (fun m l => m.linePoison a bs.length p l) w).poison ↔
      if x ∈ ls then p = true ∨ (¬(a ≤ 64 * x ∧ 64 * x + 64 ≤ a + bs.length) ∧ x ∈ w.poison) else x ∈ w.poison := by
    intro ls
    induction ls with
    | nil => simp
    | cons l ls ih =>
      intro w
      rw [List.foldl_cons, ih]
      by_cases hl : x = l
      · subst hl
        by_cases hm : x ∈ ls
        · simp only [hm, if_true, Memory.mem_linePoison, List.mem_cons_self]
          tauto
        · simp [hm, Memory.mem_linePoison]
      · simp only [Memory.mem_linePoison, hl, if_false, List.mem_cons, false_or]
  unfold Memory.store
  rw [hfold, m.write_rest]

/-! ### Values written byte by byte -/

theorem leBytes_leNat (l : List Byte) : leBytes l.length (leNat l) = l := by
  induction l with
  | nil => rfl
  | cons b l ih =>
    have h1 : (b.toNat + 256 * leNat l) % 256 = b.toNat := by omega
    have h2 : (b.toNat + 256 * leNat l) / 256 = leNat l := by omega
    simp [leNat, leBytes, h1, h2, ih]

/-- The bytes `bs` stand in memory from `a`. -/
def Memory.Holds (m : Memory) (a : Nat) (bs : List Byte) : Prop := m.bytes a bs.length = bs

section holds
variable {m : Memory} {a : Nat}

theorem Memory.holds_append {b c : List Byte} : m.Holds a (b ++ c) ↔ m.Holds a b ∧ m.Holds (a + b.length) c := by
  unfold Memory.Holds
  rw [List.length_append, Memory.bytes_add]
  refine ⟨fun h => List.append_inj h (by simp), fun ⟨h1, h2⟩ => by rw [h1, h2]⟩

theorem Memory.Holds.value {k v : Nat} (h : m.Holds a (leBytes k v)) : leNat (m.bytes a k) = v % 2 ^ (8 * k) := by
  have hb : m.bytes a k = leBytes k v := by simpa [Memory.Holds] using h
  rw [hb, leNat_leBytes]

/-- A value of `w` bits read from its `k` bytes. -/
theorem Memory.Holds.ofNat {w k : Nat} {v : BitVec w} (hk : w ≤ 8 * k) (h : m.Holds a (leBytes k v.toNat)) :
    BitVec.ofNat w (leNat (m.bytes a k)) = v := by
  rw [h.value, Nat.mod_eq_of_lt (v.isLt.trans_le (Nat.pow_le_pow_right (by decide) hk)), BitVec.ofNat_toNat, BitVec.setWidth_eq]

theorem Memory.Holds.word64 {v : Word} (h : m.Holds a (leBytes 8 v.toNat)) : mem64 m a = v := h.ofNat (by decide)
theorem Memory.Holds.word256 {v : BitVec 256} (h : m.Holds a (leBytes 32 v.toNat)) : mem256 m a = v := h.ofNat (by decide)

theorem Memory.holds_rowsBytes_cons {w k : Nat} {v : BitVec w} {l : List (BitVec w)} :
    m.Holds a (rowsBytes k (v :: l)) ↔ m.Holds a (leBytes k v.toNat) ∧ m.Holds (a + k) (rowsBytes k l) := by
  rw [rowsBytes, List.flatMap_cons, Memory.holds_append, length_leBytes]
  rfl

/-- Row `i` of a run of rows. -/
theorem Memory.Holds.row {w k : Nat} (hk : w ≤ 8 * k) {l : List (BitVec w)} (h : m.Holds a (rowsBytes k l)) {i : Nat}
    (hi : i < l.length) : BitVec.ofNat w (leNat (m.bytes (a + k * i) k)) = l[i] := by
  induction l generalizing a i with
  | nil => simp at hi
  | cons v l ih =>
    obtain ⟨hv, hl⟩ := Memory.holds_rowsBytes_cons.mp h
    cases i with
    | zero => exact hv.ofNat hk
    | succ i =>
      rw [show a + k * (i + 1) = a + k + k * i by rw [Nat.mul_succ]; omega, ih hl (by simpa using hi), List.getElem_cons_succ]

theorem Memory.Holds.rows {w k : Nat} (hk : w ≤ 8 * k) {l : List (BitVec w)} (h : m.Holds a (rowsBytes k l)) :
    imgVals m w a k l.length = l :=
  List.ext_getElem (by simp [imgVals]) fun i _ hi => by
    simp only [imgVals, List.getElem_map, List.getElem_range, h.row hk hi]

theorem wordsOf_eq (ws : List Word) : wordsOf ws = rowsBytes 8 ws := rfl

theorem length_rowsBytes {w : Nat} (k : Nat) (l : List (BitVec w)) : (rowsBytes k l).length = k * l.length := by
  simp [rowsBytes, List.length_flatMap, Nat.mul_comm]

@[simp] theorem length_wordsOf (ws : List Word) : (wordsOf ws).length = 8 * ws.length := length_rowsBytes 8 ws

theorem Memory.Holds.wordsOf_cons {w : Word} {ws : List Word} (h : m.Holds a (wordsOf (w :: ws))) :
    mem64 m a = w ∧ m.Holds (a + 8) (wordsOf ws) :=
  (Memory.holds_rowsBytes_cons.mp h).imp Memory.Holds.word64 id

/-- Word `i` of a run of words. -/
theorem Memory.Holds.word {ws : List Word} (h : m.Holds a (wordsOf ws)) {i : Nat} (hi : i < ws.length) :
    mem64 m (a + 8 * i) = ws[i] := Memory.Holds.row (by decide) h hi

/-! ### Parts stored one after another -/

/-- What lies outside a store stays. -/
theorem Memory.Holds.store {bs : List Byte} (h : m.Holds a bs) {b : Nat} {cs : List Byte} (p : Bool)
    (hd : a + bs.length ≤ b ∨ b + cs.length ≤ a) : (m.store b cs p).Holds a bs := by
  refine (Memory.bytes_congr fun i hi => ?_).trans h
  exact m.byte_store_outside p (by omega)

theorem Memory.holds_store {bs : List Byte} (h : m.Alive a bs.length) (p : Bool) : (m.store a bs p).Holds a bs := by
  refine List.ext_getElem (by simp) fun i h1 h2 => ?_
  have hi := Memory.getD_bytes (m.store a bs p) (a := a) (n := bs.length) (i := i) h2
  rw [Memory.byte_store_inside h p (by omega) (by omega), Nat.add_sub_cancel_left] at hi
  simpa [List.getD_eq_getElem?_getD, h2] using hi

/-- The parts of an image, each at its offset from `a`, stored one after another. -/
def storeParts (a : Nat) (ps : List (Nat × List Byte)) (m : Memory) : Memory :=
  ps.foldl (fun m p => m.store (a + p.1) p.2 false) m

/-- The parts of an image lie apart, each wholly before the next. -/
def PartsRise (ps : List (Nat × List Byte)) : Prop := ps.Pairwise (fun p q => p.1 + p.2.length ≤ q.1)

theorem storeParts_keeps {ps : List (Nat × List Byte)} {bs : List Byte} {b : Nat} (hd : ∀ p ∈ ps, b + bs.length ≤ a + p.1)
    (h : m.Holds b bs) : (storeParts a ps m).Holds b bs := by
  induction ps generalizing m with
  | nil => exact h
  | cons p ps ih =>
    exact ih (fun q hq => hd q (List.mem_cons_of_mem _ hq)) (h.store false (.inl (hd p List.mem_cons_self)))

theorem storeParts_holds {ps : List (Nat × List Byte)} (hr : PartsRise ps) (hal : ∀ p ∈ ps, m.Alive (a + p.1) p.2.length)
    {p : Nat × List Byte} (hp : p ∈ ps) : (storeParts a ps m).Holds (a + p.1) p.2 := by
  induction ps generalizing m with
  | nil => simp at hp
  | cons q ps ih =>
    obtain ⟨hq, hr⟩ := List.pairwise_cons.mp hr
    rcases List.mem_cons.mp hp with rfl | hp
    · change (storeParts a ps (m.store (a + p.1) p.2 false)).Holds (a + p.1) p.2
      refine storeParts_keeps (fun r h => ?_) (Memory.holds_store (hal _ List.mem_cons_self) false)
      have := hq r h
      omega
    · refine ih hr (fun r hr x h0 h1 => ?_) hp
      rw [Memory.deadAt_store]
      exact hal r (List.mem_cons_of_mem _ hr) x h0 h1

theorem storeParts_dead (ps : List (Nat × List Byte)) (m : Memory) :
    (storeParts a ps m).dead = m.dead ∧ (storeParts a ps m).ways = m.ways := by
  induction ps generalizing m with
  | nil => exact ⟨rfl, rfl⟩
  | cons p ps ih =>
    obtain ⟨hd, hw⟩ := ih (m.store (a + p.1) p.2 false)
    exact ⟨hd.trans (by simp), hw.trans (by simp)⟩

/-- A line outside every part keeps its mark. -/
theorem storeParts_byte_outside {ps : List (Nat × List Byte)} {x : Nat} (hx : ∀ p ∈ ps, ¬(a + p.1 ≤ x ∧ x < a + p.1 + p.2.length)) :
    (storeParts a ps m).byte x = m.byte x := by
  induction ps generalizing m with
  | nil => rfl
  | cons p ps ih =>
    exact (ih fun q hq => hx q (List.mem_cons_of_mem _ hq)).trans (m.byte_store_outside false (hx p List.mem_cons_self))

/-- A line that a part covers has no mark. -/
theorem storeParts_not_poisoned {ps : List (Nat × List Byte)} {p : Nat × List Byte} (hp : p ∈ ps) {l : Nat}
    (hl : a + p.1 ≤ 64 * l ∧ 64 * l + 64 ≤ a + p.1 + p.2.length) : l ∉ (storeParts a ps m).poison := by
  have clean : ∀ (qs : List (Nat × List Byte)) (m : Memory), l ∉ m.poison → l ∉ (storeParts a qs m).poison := by
    intro qs
    induction qs with
    | nil => exact fun _ h => h
    | cons q qs ih =>
      intro m h
      refine ih _ ?_
      rw [Memory.mem_poison_store]
      split <;> simp [h]
  induction ps generalizing m with
  | nil => simp at hp
  | cons q ps ih =>
    rcases List.mem_cons.mp hp with rfl | hp
    · refine clean ps _ ?_
      rw [Memory.mem_poison_store, if_pos (mem_linesOf.mpr (by omega))]
      simp [hl]
    · exact ih hp

end holds

end Sys2Proof.Machine
end

section
/-! PROOFS. The save image and its restoration (Table 2-13). -/

namespace Sys2Proof.Machine

/-! ### The image's channels (R235, R236, R241) -/

/-- Every channel of a group is reached within 16 chunks from an aligned place, as it is from any other chunk. -/
theorem interleave_reached (r : Option Nat) {A : Nat} (hA : A % 2048 = 0) (X : Nat) :
    ∃ j < 16, (interleave r (256 * (A + j))).1 = (interleave r (256 * X)).1 := by
  cases r with
  | none =>
    obtain ⟨c, hc⟩ : ∃ c, c = (interleave none (256 * X)).1 := ⟨_, rfl⟩
    have hc16 : c < 2 ^ 4 := by
      rw [hc]
      simp only [interleave]
      refine Nat.xor_lt_two_pow (Nat.xor_lt_two_pow (Nat.xor_lt_two_pow ?_ ?_) ?_) ?_ <;> omega
    obtain ⟨K, hK⟩ : ∃ K, K = A / 256 % 16 ^^^ (A / 4096 % 16) := ⟨_, rfl⟩
    have hK16 : K < 2 ^ 4 := by rw [hK]; exact Nat.xor_lt_two_pow (by omega) (by omega)
    have hj : c ^^^ K < 2 ^ 4 := Nat.xor_lt_two_pow hc16 hK16
    refine ⟨c ^^^ K, hj, ?_⟩
    rw [← hc]
    simp only [interleave, Nat.mul_div_cancel_left _ (show 0 < 256 by decide)]
    rw [show (A + (c ^^^ K)) % 16 = c ^^^ K by omega, show (A + (c ^^^ K)) / 16 % 16 = 0 by omega,
      show (A + (c ^^^ K)) / 256 % 16 = A / 256 % 16 by omega, show (A + (c ^^^ K)) / 4096 % 16 = A / 4096 % 16 by omega,
      Nat.xor_zero, Nat.xor_assoc, ← hK, Nat.xor_assoc, Nat.xor_self, Nat.xor_zero]
  | some r =>
    refine ⟨(X % 15 + 15 - A % 15) % 15, by omega, ?_⟩
    simp only [interleave, Nat.mul_div_cancel_left _ (show 0 < 256 by decide)]
    congr 1
    omega

/-- A control section without poison shows that every channel of the image is live. -/
theorem alive_of_control {m : Memory} {a : Nat} (ha : a % 0x80000 = 0) (hp : m.anyPoison a 0x10000 = false) :
    m.Alive a 0x80000 := by
  intro x h0 h1
  by_cases hx : 2 ^ 41 ≤ x
  · rw [Memory.deadAt, if_pos hx]
  have hg : x / 2 ^ 37 = a / 2 ^ 37 := by omega
  obtain ⟨j, hj, hch⟩ := interleave_reached ((m.ways.find? (fun w => decide (w.1 = a / 2 ^ 37))).map Prod.snd)
    (A := a % 2 ^ 37 / 256) (by omega) (x % 2 ^ 37 / 256)
  have hline : m.isPoisoned (a / 64 + 4 * j) = false := by
    refine Bool.eq_false_iff.mpr (List.any_eq_false.mp hp _ (mem_linesOf.mpr (by omega)))
  have hy : m.deadAt (64 * (a / 64 + 4 * j)) = false := (Bool.or_eq_false_iff.mp hline).2
  have chunk (r : Option Nat) (o : Nat) : interleave r o = interleave r (256 * (o / 256)) := by simp [interleave]
  have hya : 64 * (a / 64 + 4 * j) < 2 ^ 41 := by omega
  have hyg : 64 * (a / 64 + 4 * j) / 2 ^ 37 = a / 2 ^ 37 := by omega
  have hyo : 64 * (a / 64 + 4 * j) % 2 ^ 37 / 256 = a % 2 ^ 37 / 256 + j := by omega
  unfold Memory.deadAt at hy ⊢
  rw [if_neg (by omega)] at hy ⊢
  simp only [hyg, hg] at hy ⊢
  rw [chunk, hyo, hch, ← chunk] at hy
  exact hy

/-! ### The parts of an image (Table 2-13) -/

section parts
variable {s : State} {n : CoreId}

theorem length_chkSection {ch : Fin 4} (h : (coreAt s n).chk[ch].part.length ≤ 128) : (chkSection s n ch).length = 240 := by
  simp only [chkSection, List.length_append, length_wordsOf, List.length_replicate, List.length_cons, List.length_nil,
    List.length_map, List.length_range]
  simp only [Fin.getElem_fin] at h ⊢
  omega

theorem length_mqSection (e : MEntry) : (mqSection e).length = 192 := by
  simp [mqSection, List.length_append]

/-- The header of an image whose sections met no error. -/
def headerWords (s : State) (n : CoreId) : List Word :=
  [mkWord [(0, 1), (16, n.val), (24, ((coreOwner s n).map (fun g => g.val)).getD 0)],
   ((coreOwner s n).map (gen s)).getD 0, mkWord [(0, (coreAt s n).atStop.code), (8, b1 (coreAt s n).launchPend), (16, 0)],
   BitVec.ofNat 64 (now s)]

/-- The sections after the control section: the vector file, the stationary buffers and the Vat. -/
def bufferParts (s : State) (n : CoreId) : List (Nat × List Byte) :=
  let c := coreAt s n
  [(0x10000, rowsBytes 2048 c.v.toList), (0x20000, rowsBytes 512 c.stb[0].toList), (0x30000, rowsBytes 512 c.stb[1].toList),
   (0x40000, rowsBytes 2048 c.vat.toList)]

theorem imageParts_zero (s : State) (n : CoreId) :
    imageParts s n 0 = (0, wordsOf (headerWords s n)) :: (controlParts s n ++ bufferParts s n) := by
  simp [imageParts, headerWords, bufferParts, bit]

/-- Where the parts of an image lie, and how long they are. -/
def imageLayout : List (Nat × Nat) :=
  [(0, 32), (0x100, 256), (0x200, 88), (0x300, 1024), (0x700, 64), (0x800, 512), (0xC00, 104), (0xD00, 80), (0xD80, 96),
   (0xE00, 128), (0xE80, 976), (0x1300, 768), (0x10000, 0x10000), (0x20000, 0x10000), (0x30000, 0x10000), (0x40000, 0x40000)]

theorem imageParts_layout (hm : (coreAt s n).mq.length ≤ 4) (hc : ∀ ch : Fin 4, (coreAt s n).chk[ch].part.length ≤ 128) :
    (imageParts s n 0).map (fun p => (p.1, p.2.length)) = imageLayout := by
  have hmq : 192 * (coreAt s n).mq.length + 192 * (4 - (coreAt s n).mq.length) = 768 := by omega
  have hmqs : ((coreAt s n).mq.flatMap mqSection).length = 192 * (coreAt s n).mq.length := by
    simp [List.length_flatMap, length_mqSection, Nat.mul_comm]
  have hchk := fun ch => length_chkSection (hc ch)
  rw [imageParts_zero]
  simp [headerWords, bufferParts, controlParts, rackSection, engSection, vecSection, imageLayout, length_rowsBytes, List.length_flatMap, allChans, hmq, hmqs, hchk]

theorem imageParts_rise (hm : (coreAt s n).mq.length ≤ 4) (hc : ∀ ch : Fin 4, (coreAt s n).chk[ch].part.length ≤ 128) :
    PartsRise (imageParts s n 0) := by
  have h : imageLayout.Pairwise (fun p q => p.1 + p.2 ≤ q.1) := by decide
  rw [← imageParts_layout hm hc, List.pairwise_map] at h
  exact h

/-- The parts of the image of core `n` in state `s` stand in memory `m` from `a`. -/
def ImageAt (s : State) (n : CoreId) (m : Memory) (a : Nat) : Prop := ∀ p ∈ imageParts s n 0, m.Holds (a + p.1) p.2

theorem imageAt_of_save (hm : (coreAt s n).mq.length ≤ 4) (hc : ∀ ch : Fin 4, (coreAt s n).chk[ch].part.length ≤ 128)
    {m : Memory} {a : Nat} (h : m.Alive a 0x80000) : ImageAt s n (storeParts a (imageParts s n 0) m) a := by
  refine fun p hp => storeParts_holds (imageParts_rise hm hc) (fun q hq x h0 h1 => h x (by omega) ?_) hp
  have hl : ∀ q ∈ imageLayout, q.1 + q.2 ≤ 0x80000 := by decide
  have := hl (q.1, q.2.length) (imageParts_layout hm hc ▸ List.mem_map_of_mem hq)
  simp only at this
  omega

end parts

/-! ### What is read back from an image -/

theorem vecOfList_toList {α : Type} {k : Nat} (d : α) (v : Vector α k) : vecOfList k d v.toList = v := by
  ext i hi
  simp [vecOfList, List.getD_eq_getElem?_getD]

theorem vecOfList_set_zero {α : Type} {k : Nat} (d x : α) (v : Vector α (k + 1)) :
    (vecOfList (k + 1) d (x :: v.toList.drop 1)).set 0 v[0] = v := by
  ext i hi
  rcases Nat.eq_zero_or_pos i with rfl | h0
  · simp
  · obtain ⟨j, rfl⟩ := Nat.exists_eq_succ_of_ne_zero h0.ne'
    simp [vecOfList, List.getD_eq_getElem?_getD, hi]

section image
variable {s : State} {n : CoreId} {m : Memory} {a : Nat} (h : ImageAt s n m a)
include h

theorem ImageAt.header : m.Holds (a + 0) (wordsOf (headerWords s n)) := h (0, _) (by rw [imageParts_zero]; exact List.mem_cons_self)

theorem ImageAt.control {i : Nat} {p : Nat × List Byte} (hp : (controlParts s n)[i]? = some p) : m.Holds (a + p.1) p.2 :=
  h p (by rw [imageParts_zero]; exact List.mem_cons_of_mem _ (List.mem_append_left _ (List.mem_of_getElem? hp)))

theorem ImageAt.buffer {i : Nat} {p : Nat × List Byte} (hp : (bufferParts s n)[i]? = some p) : m.Holds (a + p.1) p.2 :=
  h p (by rw [imageParts_zero]; exact List.mem_cons_of_mem _ (List.mem_append_right _ (List.mem_of_getElem? hp)))

end image

section fields
variable {m : Memory} {a : Nat}

/-- Word `i` of the part of an image at offset `o`. -/
theorem Memory.Holds.imgWord {o : Nat} {ws : List Word} (h : m.Holds (a + o) (wordsOf ws)) (i : Nat) (hi : i < ws.length) :
    imgWord m a (o + 8 * i) = ws[i] := by
  rw [Machine.imgWord, ← Nat.add_assoc, h.word hi]

theorem Memory.Holds.scalars {v : Vector Word 32} (h : m.Holds a (wordsOf ((0 : Word) :: v.toList.drop 1))) (h0 : v[0] = 0) :
    (vecOfList 32 0 (imgVals m 64 a 8 32)).set 0 0 = v := by
  have := Memory.Holds.rows (by decide) h
  rw [show ((0 : Word) :: v.toList.drop 1).length = 32 by simp] at this
  have e := vecOfList_set_zero 0 (0 : Word) v
  rw [h0] at e
  rw [this, e]

theorem Memory.Holds.predicates {v : Vector (BitVec 1024) 8} (h0 : v[0] = 0)
    (h : m.Holds a (leBytes 128 ((-1 : BitVec 1024).toNat) ++ (v.toList.drop 1).flatMap (fun (p : BitVec 1024) => leBytes 128 p.toNat))) :
    (vecOfList 8 0 (imgVals m 1024 a 128 8)).set 0 0 = v := by
  have h : m.Holds a (rowsBytes 128 ((-1 : BitVec 1024) :: v.toList.drop 1)) := h
  have := h.rows (by decide)
  rw [show ((-1 : BitVec 1024) :: v.toList.drop 1).length = 8 by simp] at this
  rw [this]
  have e := vecOfList_set_zero 0 (-1 : BitVec 1024) v
  rw [h0] at e
  exact e

theorem Memory.Holds.handles {v : Vector Word 8} {k : Word} (hk : ∀ i : Fin 8, v[i] &&& k = v[i]) (h : m.Holds a (wordsOf v.toList)) :
    vecOfList 8 0 ((imgVals m 64 a 8 8).map (fun w => w &&& k)) = v := by
  have := Memory.Holds.rows (by decide) h
  rw [show v.toList.length = 8 by simp] at this
  rw [this]
  have e : v.toList.map (fun w => w &&& k) = v.toList :=
    List.ext_getElem (by simp) fun i hi _ => by simpa using hk ⟨i, by simpa using hi⟩
  rw [e, vecOfList_toList]

/-- A vector of values written as rows. -/
theorem Memory.Holds.vector {w k c : Nat} (hk : w ≤ 8 * k) {v : Vector (BitVec w) c} (h : m.Holds a (rowsBytes k v.toList)) :
    vecOfList c 0 (imgVals m w a k c) = v := by
  have := h.rows hk
  rw [show v.toList.length = c by simp] at this
  rw [this, vecOfList_toList]

/-- A matrix queue entry of an image. -/
def imgEntry (m : Memory) (b : Nat) : MEntry :=
  { word := mem64 m b, pc := mem64 m (b + 8), progress := mem64 m (b + 16), drop := BitVec.ofNat 128 (leNat (m.bytes (b + 32) 16))
    stat := mem64 m (b + 48), ts := mem256 m (b + 64), tsScale := mem256 m (b + 96), tw := mem256 m (b + 128)
    twScale := mem256 m (b + 160) }

theorem Memory.Holds.entry {e : MEntry} (h : m.Holds a (mqSection e)) : bit (mem64 m (a + 24)) 0 = true ∧ imgEntry m a = e := by
  simp only [mqSection, Memory.holds_append, List.length_append, length_leBytes, length_wordsOf, List.length_cons,
    List.length_nil] at h
  obtain ⟨⟨⟨⟨⟨⟨hw, hdrop⟩, hstat⟩, hts⟩, htss⟩, htw⟩, htws⟩ := h
  have h0 : mem64 m a = e.word := hw.word (i := 0) (by simp)
  have h8 : mem64 m (a + 8) = e.pc := hw.word (i := 1) (by simp)
  have h16 : mem64 m (a + 16) = e.progress := hw.word (i := 2) (by simp)
  have h24 : mem64 m (a + 24) = 1 := hw.word (i := 3) (by simp)
  have h32 : BitVec.ofNat 128 (leNat (m.bytes (a + 32) 16)) = e.drop := hdrop.ofNat (by decide)
  have h48 : mem64 m (a + 48) = e.stat := hstat.word (i := 0) (by simp)
  refine ⟨by rw [h24]; rfl, ?_⟩
  rw [imgEntry, h0, h8, h16, h32, h48, hts.word256, htss.word256, htw.word256, htws.word256]

/-- Item `i` of items written one after another, each in `k` bytes. -/
theorem Memory.Holds.item {α : Type} {f : α → List Byte} {k : Nat} {l : List α} (hk : ∀ x ∈ l, (f x).length = k)
    (h : m.Holds a (l.flatMap f)) {i : Nat} (hi : i < l.length) : m.Holds (a + k * i) (f l[i]) := by
  induction l generalizing a i with
  | nil => simp at hi
  | cons x l ih =>
    rw [List.flatMap_cons, Memory.holds_append, hk x List.mem_cons_self] at h
    cases i with
    | zero => exact h.1
    | succ i =>
      have := ih (fun y hy => hk y (List.mem_cons_of_mem _ hy)) h.2 (by simpa using hi)
      rwa [show a + k * (i + 1) = a + k + k * i by rw [Nat.mul_succ]; omega]

theorem leNat_replicate_zero (k : Nat) : leNat (List.replicate k 0) = 0 := by
  induction k with
  | zero => rfl
  | succ k ih => rw [List.replicate_succ, leNat, ih]; rfl

theorem Memory.Holds.zeroWord {k b : Nat} (h : m.Holds a (List.replicate k 0)) (hb : b + 8 ≤ k) : mem64 m (a + b) = 0 := by
  have e : List.replicate k (0 : Byte) = List.replicate b 0 ++ (List.replicate 8 0 ++ List.replicate (k - b - 8) 0) := by
    rw [List.replicate_append_replicate, List.replicate_append_replicate]
    congr 1; omega
  rw [e, Memory.holds_append, Memory.holds_append, List.length_replicate] at h
  have h8 : m.bytes (a + b) 8 = List.replicate 8 0 := h.2.1
  rw [mem64, h8, leNat_replicate_zero]
  rfl

theorem Memory.Holds.queue {l : List MEntry} (hl : l.length ≤ 4)
    (h : m.Holds (a + 0x1300) (l.flatMap mqSection ++ List.replicate (192 * (4 - l.length)) 0)) : imgQueue m a = l := by
  obtain ⟨hq, hz⟩ := Memory.holds_append.mp h
  have hlen : (l.flatMap mqSection).length = 192 * l.length := by simp [List.length_flatMap, length_mqSection, Nat.mul_comm]
  have slot (i : Nat) (hi : i < 4) : (if bit (mem64 m (a + 0x1300 + 192 * i + 24)) 0 = true
      then some (imgEntry m (a + 0x1300 + 192 * i)) else none) = l[i]? := by
    by_cases hil : i < l.length
    · obtain ⟨hv, he⟩ := (hq.item (fun _ _ => length_mqSection _) hil).entry
      rw [if_pos hv, he, List.getElem?_eq_getElem hil]
    · have := hz.zeroWord (b := 192 * (i - l.length) + 24) (by omega)
      rw [show a + 0x1300 + 192 * i + 24 = a + 0x1300 + (l.flatMap mqSection).length + (192 * (i - l.length) + 24) by omega,
        this, List.getElem?_eq_none (by omega)]
      rfl
  have e : imgQueue m a = (List.range 4).filterMap (fun i => l[i]?) := by
    unfold imgQueue
    rw [List.filterMap_map]
    exact List.filterMap_congr fun i hi => slot i (List.mem_range.mp hi)
  rw [e]
  clear e slot hz hlen hq h
  match l, hl with
  | [], _ | [_], _ | [_, _], _ | [_, _, _], _ | [_, _, _, _], _ => rfl

/-! Poison of the rows of an image -/

theorem imgPoison_zero {w k cnt : Nat} (h : ∀ i < cnt, m.anyPoison (a + k * i) k = false) : imgPoison m w a k cnt = 0 := by
  have : ∀ l : List Nat, (∀ i ∈ l, i < cnt) → l.foldl (fun x i => x + b1 (m.anyPoison (a + k * i) k) * 2 ^ i) 0 = 0 := by
    intro l
    induction l with
    | nil => exact fun _ => rfl
    | cons i l ih =>
      intro hl
      rw [List.foldl_cons, h i (hl i List.mem_cons_self)]
      simpa [b1] using ih fun j hj => hl j (List.mem_cons_of_mem _ hj)
  rw [imgPoison, this _ fun i hi => List.mem_range.mp hi]
  rfl

end fields

/-! ### Fields of words written by position -/

theorem b1_bit (b : Bool) : decide (b1 b % 2 = 1) = b := by cases b <;> rfl

theorem bit_eq_decide {k : Nat} (w : BitVec k) (i : Nat) : bit w i = decide (w.toNat / 2 ^ i % 2 = 1) := by
  rw [bit, Nat.testBit_eq_decide_div_mod_eq]

theorem bits_eq_div {k : Nat} (w : BitVec k) (hi lo : Nat) : bits w hi lo = w.toNat / 2 ^ lo % 2 ^ (hi + 1 - lo) := by
  rw [bits, Nat.shiftRight_eq_div_pow]

theorem bit_field {w : Word} {i : Nat} {b : Bool} (h : w.toNat / 2 ^ i % 2 = b1 b) : bit w i = b := by
  rw [bit_eq_decide, h]; cases b <;> rfl

theorem RunState.code_lt (r : RunState) : r.code < 8 := by cases r <;> decide

/-- The registers of the image's header: the state at stop and the pending launch. -/
theorem header_fields (r : RunState) (p : Bool) :
    let w := mkWord [(0, r.code), (8, b1 p), (16, 0)]
    bits w 3 0 = r.code ∧ bit w 8 = p ∧ bits w 20 16 = 0 := by
  have h1 := r.code_lt
  have h2 := b1_le p
  refine ⟨?_, bit_field ?_, ?_⟩ <;> simp [mkWord, bits_eq_div, Nat.shiftLeft_eq] <;> omega

theorem format_fields (n : CoreId) (g : Gal) :
    let w := mkWord [(0, 1), (16, n.val), (24, g.val)]
    bits w 15 0 = 1 ∧ bits w 26 24 = g.val := by
  have h1 : n.val < 128 := n.isLt
  have h2 : g.val < 8 := g.isLt
  have e : (mkWord [(0, 1), (16, n.val), (24, g.val)]).toNat = 1 + n.val * 65536 + g.val * 16777216 := by
    rw [mkWord, BitVec.toNat_ofNat, List.foldl_cons, List.foldl_cons, List.foldl_cons, List.foldl_nil]
    simp only [Nat.shiftLeft_eq]
    omega
  simp only [bits_eq_div, e]
  omega

theorem cstat_fields {c : Core} (hm : c.mq.length ≤ 4) :
    bit (cstatWord c) 12 = c.ctxerr ∧ bit (cstatWord c) 11 = c.badcmd ∧ bit (cstatWord c) 6 = c.dz ∧ bit (cstatWord c) 4 = c.late := by
  have h0 := c.state.code_lt
  have h1 := b1_le c.ctxerr
  have h2 := b1_le c.badcmd
  have h3 := b1_le c.dz
  have h4 := b1_le c.preq
  have h5 := b1_le c.late
  have e : (cstatWord c).toNat = c.state.code + 16 * b1 c.late + 32 * b1 c.preq + 64 * b1 c.dz + 256 * c.mq.length
      + 2048 * b1 c.badcmd + 4096 * b1 c.ctxerr := by
    simp only [cstatWord, mkWord, List.foldl_cons, List.foldl_nil, Nat.shiftLeft_eq, BitVec.toNat_ofNat]
    omega
  refine ⟨bit_field ?_, bit_field ?_, bit_field ?_, bit_field ?_⟩ <;> rw [e] <;> omega

theorem toNat_bufWord (a b : BufRec) : (bufWord a b).toNat = a.fmt.toNat + b1 a.mx * 2 ^ 4 + b1 a.valid * 2 ^ 7
    + b.fmt.toNat * 2 ^ 8 + b1 b.mx * 2 ^ 12 + b1 b.valid * 2 ^ 15 + a.rows.toNat * 2 ^ 16 + a.cols.toNat * 2 ^ 24
    + b.rows.toNat * 2 ^ 32 + b.cols.toNat * 2 ^ 40 := by
  have h1 := b1_le a.mx
  have h2 := b1_le a.valid
  have h3 := b1_le b.mx
  have h4 := b1_le b.valid
  have f1 := a.fmt.isLt
  have f2 := b.fmt.isLt
  have r1 := a.rows.isLt
  have r2 := a.cols.isLt
  have r3 := b.rows.isLt
  have r4 := b.cols.isLt
  rw [bufWord, mkWord, BitVec.toNat_ofNat]
  iterate 10 rw [List.foldl_cons]
  rw [List.foldl_nil]
  simp only [Nat.shiftLeft_eq]
  omega

theorem bufOf_bufWord (a b : BufRec) : bufOf (bufWord a b) 0 16 = a ∧ bufOf (bufWord a b) 8 32 = b := by
  have h1 := b1_le a.mx
  have h2 := b1_le a.valid
  have h3 := b1_le b.mx
  have h4 := b1_le b.valid
  have f1 := a.fmt.isLt
  have f2 := b.fmt.isLt
  have r1 := a.rows.isLt
  have r2 := a.cols.isLt
  have r3 := b.rows.isLt
  have r4 := b.cols.isLt
  have e := toNat_bufWord a b
  obtain ⟨af, am, av, ar, ac⟩ := a
  obtain ⟨bf, bm, bv, br, bc⟩ := b
  have nat {k x : Nat} {v : BitVec k} (h : x = v.toNat) : BitVec.ofNat k x = v := by rw [h, BitVec.ofNat_toNat, BitVec.setWidth_eq]
  simp only at *
  constructor <;> rw [bufOf, BufRec.mk.injEq] <;>
    refine ⟨nat ?_, bit_field ?_, bit_field ?_, nat ?_, nat ?_⟩ <;> simp only [bits_eq_div, e] <;> omega

theorem progress_fields {x : RQueue} (h : x.row < 2 ^ 48) (h' : x.elem < 2 ^ 16) :
    bits (rkgProgress x) 63 16 = x.row ∧ bits (rkgProgress x) 15 0 = x.elem := by
  constructor <;>
    simp only [rkgProgress, mkWord, bits_eq_div, List.foldl_cons, List.foldl_nil, Nat.shiftLeft_eq, BitVec.toNat_ofNat] <;> omega

theorem reject_fields (x : RQueue) :
    let w := mkWord [(15, b1 x.poisoned), (8, min x.reject 127)]
    bits w 14 8 = min x.reject 127 ∧ bit w 15 = x.poisoned := by
  have h1 := b1_le x.poisoned
  refine ⟨?_, bit_field ?_⟩ <;>
    simp only [mkWord, bits_eq_div, List.foldl_cons, List.foldl_nil, Nat.shiftLeft_eq, BitVec.toNat_ofNat] <;> omega

theorem rkgQ_lt (x : RQueue) : rkgQ x < 16 := by
  have h1 := b1_le x.tfault
  have h2 := b1_le x.mstall
  have h3 := b1_le (x.held && (x.cur.isSome || x.reload))
  have h4 := b1_le (x.cur.isSome || x.reload)
  simp only [rkgQ]
  omega

theorem rkgQ_bits (x : RQueue) :
    (rkgQ x).testBit 3 = x.tfault ∧ (rkgQ x).testBit 2 = x.mstall ∧ (rkgQ x).testBit 0 = (x.cur.isSome || x.reload) := by
  unfold rkgQ
  generalize (x.cur.isSome || x.reload) = act
  cases x.tfault <;> cases x.mstall <;> cases x.held <;> cases act <;> decide

theorem rkgStatus_fields {s : State} {n : CoreId} (h : (rget s (rkgReg n.val 0)).toNat % 2 ^ 14 = 0) (q : Fin 2) :
    bits (rkgStatus s n) (8 * q.val + 3) (8 * q.val) = rkgQ (coreAt s n).rq[q] := by
  have l0 := rkgQ_lt (coreAt s n).rq[0]
  have l1 := rkgQ_lt (coreAt s n).rq[1]
  have e : (rkgStatus s n).toNat = (rget s (rkgReg n.val 0)).toNat ||| (256 * rkgQ (coreAt s n).rq[1] + rkgQ (coreAt s n).rq[0]) := by
    rw [rkgStatus, BitVec.toNat_or]
    congr 1
    simp only [mkWord, List.foldl_cons, List.foldl_nil, Nat.shiftLeft_eq, BitVec.toNat_ofNat]
    omega
  have low : (rkgStatus s n).toNat % 2 ^ 14 = 256 * rkgQ (coreAt s n).rq[1] + rkgQ (coreAt s n).rq[0] := by
    rw [e, Nat.or_mod_two_pow, h, Nat.zero_or, Nat.mod_eq_of_lt (by omega)]
  rw [bits_eq_div]
  obtain ⟨x, hx⟩ : ∃ x, x = (rkgStatus s n).toNat := ⟨_, rfl⟩
  rw [← hx] at low ⊢
  match q with
  | 0 => change x / 2 ^ 0 % 2 ^ 4 = rkgQ (coreAt s n).rq[0]; omega
  | 1 => change x / 2 ^ 8 % 2 ^ 4 = rkgQ (coreAt s n).rq[1]; omega

/-! ### The restored core -/

theorem vector_eq_ofFn {α : Type} {k : Nat} {v : Vector α k} {f : Fin k → α} (h : ∀ i : Fin k, f i = v[i]) : Vector.ofFn f = v := by
  ext i hi
  simpa using h ⟨i, hi⟩

theorem Memory.anyPoison_iff {m : Memory} {a k : Nat} :
    m.anyPoison a k = false ↔ ∀ l ∈ linesOf a k, l ∉ m.poison ∧ m.deadAt (64 * l) = false := by
  simp [Memory.anyPoison, Memory.isPoisoned]

section restored
variable {s x : State} {n m : CoreId} (h : ImageAt s n x.mem (coreAt x m).ctxpa.toNat)
include h

theorem restored_scalars (h0 : (coreAt s n).s[0] = 0) : (imgCore x m).s = (coreAt s n).s :=
  (h.control (i := 0) rfl).scalars h0

theorem restored_predicates (h0 : (coreAt s n).p[0] = 0) : (imgCore x m).p = (coreAt s n).p :=
  (h.control (i := 2) rfl).predicates h0

theorem restored_handles (hq : ∀ i : Fin 8, (coreAt s n).q[i] &&& 0x80000007_07FFFFFF = (coreAt s n).q[i]) :
    (imgCore x m).q = (coreAt s n).q :=
  (h.control (i := 3) rfl).handles hq

theorem restored_descriptors : (imgCore x m).t = (coreAt s n).t :=
  Memory.Holds.vector (k := 32) (by decide) (h.control (i := 4) rfl)

theorem restored_queue (hm : (coreAt s n).mq.length ≤ 4) : (imgCore x m).mq = (coreAt s n).mq :=
  (h.control (i := 10) rfl).queue hm

theorem restored_vectors : (imgCore x m).v = (coreAt s n).v :=
  Memory.Holds.vector (k := 2048) (by decide) (h.buffer (i := 0) rfl)

theorem ImageAt.stationary (i : Fin 2) :
    x.mem.Holds ((coreAt x m).ctxpa.toNat + 0x20000 + 0x10000 * i.val) (rowsBytes 512 (coreAt s n).stb[i].toList) := by
  rw [Nat.add_assoc]
  match i with
  | 0 => exact h.buffer (i := 1) rfl
  | 1 => exact h.buffer (i := 2) rfl

theorem restored_buffers : (imgCore x m).stb = (coreAt s n).stb :=
  vector_eq_ofFn fun i => (h.stationary i).vector (by decide)

theorem restored_vat : (imgCore x m).vat = (coreAt s n).vat :=
  Memory.Holds.vector (k := 2048) (by decide) (h.buffer (i := 3) rfl)

/-- Word `i` of the registers part of the control section. -/
theorem ImageAt.word {i o : Nat} {ws : List Word} (hp : (controlParts s n)[i]? = some (o, wordsOf ws)) (j : Nat) (hj : j < ws.length) :
    imgWord x.mem (coreAt x m).ctxpa.toNat (o + 8 * j) = ws[j] := (h.control hp).imgWord j hj

theorem restored_pc : (imgCore x m).pc = (coreAt s n).pc ∧ (imgCore x m).resumepc = (coreAt s n).resumepc :=
  ⟨h.word (i := 1) rfl 0 (by simp), h.word (i := 1) rfl 1 (by simp)⟩

theorem restored_control (hf : (coreAt s n).fpctl &&& 0xF03 = (coreAt s n).fpctl)
    (he : (coreAt s n).ecause &&& 0xF0FFF = (coreAt s n).ecause) :
    (imgCore x m).fpctl = (coreAt s n).fpctl ∧ (imgCore x m).ecause = (coreAt s n).ecause ∧ (imgCore x m).epc = (coreAt s n).epc ∧
    (imgCore x m).eaddr = (coreAt s n).eaddr ∧ (imgCore x m).einfo = (coreAt s n).einfo ∧
    (imgCore x m).waitlim = (coreAt s n).waitlim ∧ (imgCore x m).launchat = (coreAt s n).launchat ∧
    (imgCore x m).launchPend = (coreAt s n).launchPend ∧ (imgCore x m).retired = (coreAt s n).retired := by
  have w (j : Nat) (hj : j < 11) := h.word (i := 1) rfl j hj
  refine ⟨(congrArg (· &&& 0xF03) (w 3 (by decide))).trans hf, (congrArg (· &&& 0xF0FFF) (w 4 (by decide))).trans he,
    w 5 (by decide), w 6 (by decide), w 7 (by decide), ?_, w 9 (by decide), ?_, w 10 (by decide)⟩
  · have hw : imgWord x.mem (coreAt x m).ctxpa.toNat 0x240 = BitVec.ofNat 64 (coreAt s n).waitlim.toNat := w 8 (by decide)
    change BitVec.ofNat 40 (bits (imgWord x.mem (coreAt x m).ctxpa.toNat 0x240) 39 0) = _
    have hl := (coreAt s n).waitlim.isLt
    rw [hw, bits_eq_div, BitVec.toNat_ofNat]
    apply BitVec.eq_of_toNat_eq
    rw [BitVec.toNat_ofNat]
    omega
  · have hw : imgWord x.mem (coreAt x m).ctxpa.toNat 0x10 = _ := h.header.imgWord 2 (by simp [headerWords])
    change bit (imgWord x.mem (coreAt x m).ctxpa.toNat 0x10) 8 = _
    rw [hw]
    exact (header_fields _ _).2.1

theorem restored_flags (hm : (coreAt s n).mq.length ≤ 4) :
    (imgCore x m).ctxerr = (coreAt s n).ctxerr ∧ (imgCore x m).badcmd = (coreAt s n).badcmd ∧
    (imgCore x m).dz = (coreAt s n).dz ∧ (imgCore x m).late = (coreAt s n).late := by
  have hw : imgWord x.mem (coreAt x m).ctxpa.toNat 0x210 = cstatWord (coreAt s n) := h.word (i := 1) rfl 2 (by simp)
  have := cstat_fields hm
  rw [← hw] at this
  exact this

theorem restored_bufRecs : (imgCore x m).stbRec = (coreAt s n).stbRec := by
  have hw : imgWord x.mem (coreAt x m).ctxpa.toNat 0xD18 = bufWord (coreAt s n).stbRec[0] (coreAt s n).stbRec[1] := by
    have he := h.control (i := 6) rfl
    simp only [engSection, Memory.holds_append] at he
    obtain ⟨⟨⟨hw, -⟩, -⟩, -⟩ := he
    exact hw.imgWord 3 (by simp)
  obtain ⟨ha, hb⟩ := bufOf_bufWord (coreAt s n).stbRec[0] (coreAt s n).stbRec[1]
  change #v[bufOf (imgWord x.mem (coreAt x m).ctxpa.toNat 0xD18) 0 16, bufOf (imgWord x.mem (coreAt x m).ctxpa.toNat 0xD18) 8 32] = _
  rw [hw, ha, hb]
  ext i hi
  match i, hi with
  | 0, _ | 1, _ => rfl

end restored

/-! ### Poison of the restored buffers -/

/-- No line of the image after its control section is poisoned. -/
def Memory.CleanBuffers (m : Memory) (a : Nat) : Prop :=
  ∀ b k, 0x10000 ≤ b → b + k ≤ 0x80000 → b % 64 = 0 → k % 64 = 0 → m.anyPoison (a + b) k = false

/-- The save clears the lines that it covers. -/
theorem cleanBuffers_of_save {s : State} {n : CoreId} {m : Memory} {a : Nat} (ha : a % 0x80000 = 0) (h : m.Alive a 0x80000) :
    (storeParts a (imageParts s n 0) m).CleanBuffers a := by
  intro b k h0 h1 hb hk
  refine Memory.anyPoison_iff.mpr fun l hl => ?_
  obtain ⟨hl1, hl2, -⟩ := mem_linesOf.mp hl
  obtain ⟨hd, hw⟩ := storeParts_dead (a := a) (imageParts s n 0) m
  refine ⟨?_, (Memory.deadAt_congr hd hw _).trans (h _ (by omega) (by omega))⟩
  have covered {o k : Nat} {bs : List Byte} (hp : (o, bs) ∈ bufferParts s n) (hk : bs.length = k) (h2 : a + o ≤ 64 * l)
      (h3 : 64 * l + 64 ≤ a + o + k) : l ∉ (storeParts a (imageParts s n 0) m).poison :=
    storeParts_not_poisoned (by rw [imageParts_zero]; exact List.mem_cons_of_mem _ (List.mem_append_right _ hp)) ⟨h2, by rwa [hk]⟩
  have vectors := covered (o := 0x10000) (k := 0x10000) (.head _) (by simp [length_rowsBytes])
  have first := covered (o := 0x20000) (k := 0x10000) (.tail _ (.head _)) (by simp [length_rowsBytes])
  have second := covered (o := 0x30000) (k := 0x10000) (.tail _ (.tail _ (.head _))) (by simp [length_rowsBytes])
  have vat := covered (o := 0x40000) (k := 0x40000) (.tail _ (.tail _ (.tail _ (.head _)))) (by simp [length_rowsBytes])
  by_cases h4 : 64 * l < a + 0x20000
  · exact vectors (by omega) (by omega)
  by_cases h5 : 64 * l < a + 0x30000
  · exact first (by omega) (by omega)
  by_cases h6 : 64 * l < a + 0x40000
  · exact second (by omega) (by omega)
  · exact vat (by omega) (by omega)

theorem Memory.CleanBuffers.imgPoison {m : Memory} {a : Nat} (h : m.CleanBuffers a) {w b k cnt : Nat} (h0 : 0x10000 ≤ b)
    (h1 : b + k * cnt ≤ 0x80000) (hb : b % 64 = 0) (hk : k % 64 = 0) : Machine.imgPoison m w (a + b) k cnt = 0#w := by
  refine imgPoison_zero fun i hi => ?_
  have hki : k * i + k ≤ k * cnt := by rw [← Nat.mul_succ]; exact Nat.mul_le_mul_left k hi
  rw [Nat.add_assoc]
  exact h _ _ (by omega) (by omega) (by rw [Nat.add_mod, hb, Nat.mul_mod, hk]; simp) hk

section poison
variable {s x : State} {n m : CoreId} (h : ImageAt s n x.mem (coreAt x m).ctxpa.toNat)
include h

theorem ImageAt.engine : x.mem.Holds ((coreAt x m).ctxpa.toNat + 0xD20) (leBytes 16 (coreAt s n).vatPsn.toNat) ∧
    ∀ i : Fin 2, x.mem.Holds ((coreAt x m).ctxpa.toNat + 0xD30 + 16 * i.val) (leBytes 16 (coreAt s n).stbPsn[i].toNat) := by
  have he := h.control (i := 6) rfl
  simp only [engSection, Memory.holds_append, List.length_append, length_leBytes, length_wordsOf, List.length_cons,
    List.length_nil] at he
  obtain ⟨⟨⟨-, hv⟩, h0⟩, h1⟩ := he
  refine ⟨hv, fun i => ?_⟩
  match i with
  | 0 => exact h0
  | 1 => exact h1

variable (hc : x.mem.CleanBuffers (coreAt x m).ctxpa.toNat)
include hc

theorem restored_vectorPoison : (imgCore x m).vpsn = (coreAt s n).vpsn := by
  refine vector_eq_ofFn fun i => ?_
  have hi := i.isLt
  have hv : x.mem.Holds ((coreAt x m).ctxpa.toNat + 0xE00) (rowsBytes 4 (coreAt s n).vpsn.toList) := h.control (i := 8) rfl
  have hr := hv.row (by decide) (i := i.val) (by simp)
  rw [hr, Nat.add_assoc, hc.imgPoison (by omega) (by omega) (by omega) (by decide), BitVec.or_zero]
  simp

theorem restored_bufferPoison : (imgCore x m).stbPsn = (coreAt s n).stbPsn := by
  refine vector_eq_ofFn fun i => ?_
  have hi := i.isLt
  have hr := h.engine.2 i
  rw [hr.ofNat (by decide), Nat.add_assoc, hc.imgPoison (by omega) (by omega) (by omega) (by decide), BitVec.or_zero]

theorem restored_vatPoison : (imgCore x m).vatPsn = (coreAt s n).vatPsn := by
  have hr := h.engine.1
  change BitVec.ofNat 128 (leNat (x.mem.bytes ((coreAt x m).ctxpa.toNat + 0xD20) 16)) |||
    imgPoison x.mem 128 ((coreAt x m).ctxpa.toNat + 0x40000) 2048 128 = _
  rw [hr.ofNat (by decide), hc.imgPoison (by omega) (by omega) (by omega) (by decide), BitVec.or_zero]

end poison

/-! ### The Racking queues and the snoop tap -/

section units
variable {s x : State} {n m : CoreId} (h : ImageAt s n x.mem (coreAt x m).ctxpa.toNat)
include h

theorem ImageAt.rack (i : Nat) (hi : i < 13) : imgWord x.mem (coreAt x m).ctxpa.toNat (0xC00 + 8 * i) =
    ([rkgStatus s n, rget s (rkgReg n.val 8), rget s (rkgReg n.val 16), rget s (rkgReg n.val 24), rget s (rkgReg n.val 32),
      rget s (rkgReg n.val 40), rget s (rkgReg n.val 48), rkgProgress (coreAt s n).rq[0], rkgProgress (coreAt s n).rq[1],
      rget s (faddrOff n 0), rget s (faddrOff n 1),
      mkWord [(15, b1 (coreAt s n).rq[0].poisoned), (8, min (coreAt s n).rq[0].reject 127)],
      mkWord [(15, b1 (coreAt s n).rq[1].poisoned), (8, min (coreAt s n).rq[1].reject 127)]] : List Word)[i] :=
  (h.control (i := 5) rfl).imgWord i hi

theorem restored_racking (hz : (rget s (rkgReg n.val 0)).toNat % 2 ^ 14 = 0) (q : Fin 2)
    (hr : (coreAt s n).rq[q].row < 2 ^ 48) (he : (coreAt s n).rq[q].elem < 2 ^ 16) :
    (imgCore x m).rq[q].row = (coreAt s n).rq[q].row ∧ (imgCore x m).rq[q].elem = (coreAt s n).rq[q].elem ∧
    (imgCore x m).rq[q].poisoned = (coreAt s n).rq[q].poisoned ∧ (imgCore x m).rq[q].reject = min (coreAt s n).rq[q].reject 127 ∧
    (imgCore x m).rq[q].tfault = (coreAt s n).rq[q].tfault ∧ (imgCore x m).rq[q].mstall = (coreAt s n).rq[q].mstall ∧
    (imgCore x m).rq[q].reload = ((coreAt s n).rq[q].cur.isSome || (coreAt s n).rq[q].reload) := by
  have e : (imgCore x m).rq[q] = imgRq x (coreAt x m).ctxpa.toNat q := by match q with | 0 | 1 => rfl
  have hst : imgWord x.mem (coreAt x m).ctxpa.toNat 0xC00 = rkgStatus s n := h.rack 0 (by decide)
  have hpr : imgWord x.mem (coreAt x m).ctxpa.toNat (0xC38 + 8 * q.val) = rkgProgress (coreAt s n).rq[q] := by
    match q with | 0 => exact h.rack 7 (by decide) | 1 => exact h.rack 8 (by decide)
  have hw : imgWord x.mem (coreAt x m).ctxpa.toNat (0xC58 + 8 * q.val) =
      mkWord [(15, b1 (coreAt s n).rq[q].poisoned), (8, min (coreAt s n).rq[q].reject 127)] := by
    match q with | 0 => exact h.rack 11 (by decide) | 1 => exact h.rack 12 (by decide)
  obtain ⟨hrow, helem⟩ := progress_fields hr he
  obtain ⟨hrej, hpsn⟩ := reject_fields (coreAt s n).rq[q]
  obtain ⟨ht, hm, ha⟩ := rkgQ_bits (coreAt s n).rq[q]
  rw [e]
  simp only [imgRq, hst, hpr, hw, rkgStatus_fields hz]
  exact ⟨hrow, helem, hpsn, hrej, ht, hm, ha⟩

theorem restored_snoop (hp : ∀ ch : Fin 4, (coreAt s n).chk[ch].part.length ≤ 128) (ch : Fin 4) :
    (imgCore x m).chk[ch].ctl = (coreAt s n).chk[ch].ctl &&& 0xFFFFFFFFFFFF3FFC ∧ (imgCore x m).chk[ch].poly = (coreAt s n).chk[ch].poly ∧
    (imgCore x m).chk[ch].init = (coreAt s n).chk[ch].init ∧ (imgCore x m).chk[ch].xorout = (coreAt s n).chk[ch].xorout := by
  have hs := h.control (i := 9) rfl
  rw [Memory.holds_append, List.length_replicate] at hs
  have item (i : Nat) (hi : i < 4) := hs.2.item (k := 240) (fun c _ => length_chkSection (hp c)) (i := i) hi
  have hi : x.mem.Holds ((coreAt x m).ctxpa.toNat + 0xE90 + 240 * ch.val) (chkSection s n ch) := by
    match ch with
    | 0 => exact item 0 (by decide)
    | 1 => exact item 1 (by decide)
    | 2 => exact item 2 (by decide)
    | 3 => exact item 3 (by decide)
  simp only [chkSection, Memory.holds_append] at hi
  obtain ⟨⟨hw, -⟩, -⟩ := hi
  have e : (imgCore x m).chk[ch] = imgChk x.mem ((coreAt x m).ctxpa.toNat + 0xE90 + 240 * ch.val) := by
    simp [imgCore]
  rw [e]
  exact ⟨congrArg (· &&& 0xFFFFFFFFFFFF3FFC) (hw.word (i := 0) (by simp)), hw.word (i := 3) (by simp), hw.word (i := 4) (by simp),
    hw.word (i := 5) (by simp)⟩

end units

/-! ### The restored registers -/

/-- Registers set one after another: each reads as set where they are distinct. -/
theorem rget_rsets {α : Type} (key : α → Nat) (val : α → Word) {l : List α} (hn : (l.map key).Nodup) {t : State}
    (hr : keysRise t.dev) {r : α} (hm : r ∈ l) : rget (l.foldl (fun t r => rset t (key r) (val r)) t) (key r) = val r := by
  have other : ∀ (l : List α) (t : State), key r ∉ l.map key →
      rget (l.foldl (fun t r => rset t (key r) (val r)) t) (key r) = rget t (key r) := by
    intro l
    induction l with
    | nil => exact fun _ _ => rfl
    | cons a l ih =>
      intro t h
      rw [List.map_cons, List.mem_cons, not_or] at h
      exact (ih _ h.2).trans (rget_rset_ne t _ _ _ h.1)
  induction l generalizing t with
  | nil => simp at hm
  | cons a l ih =>
    rw [List.map_cons, List.nodup_cons] at hn
    rcases List.mem_cons.mp hm with rfl | hm
    · exact (other l _ hn.1).trans (rget_rset t _ _ hr)
    · exact ih hn.2 (rset_rise _ _ hr) hm

theorem imgRegs_nodup (m : CoreId) : ((imgRegs m).map (fun r => r.2.1)).Nodup := by
  have e : (imgRegs m).map (fun r => r.2.1) = ((imgRegs 0).map (fun r => r.2.1)).map (fun k => k + m.val * 0x1000) := by
    simp [imgRegs, engReg, vecReg, rkgReg, chkReg, List.range_succ]
    omega
  have h0 : ((imgRegs 0).map (fun r => r.2.1)).Nodup := by decide
  rw [e]
  exact h0.map (fun a b h => Nat.add_right_cancel h)

/-- A state with the registers of an image loaded. -/
def loadRegs (x : State) (m : CoreId) (t : State) : State :=
  (imgRegs m).foldl (fun t r => rset t r.2.1 (imgWord x.mem (coreAt x m).ctxpa.toNat r.1 &&& r.2.2)) t

@[simp] theorem cores_loadRegs (x : State) (m : CoreId) (t : State) : (loadRegs x m t).cores = t.cores := by
  unfold loadRegs
  induction imgRegs m generalizing t with
  | nil => rfl
  | cons a l ih => exact ih _

theorem rget_loadRegs {x t : State} {m : CoreId} (hr : keysRise t.dev) {r : Nat × Nat × Word} (hm : r ∈ imgRegs m) :
    rget (loadRegs x m t) r.2.1 = imgWord x.mem (coreAt x m).ctxpa.toNat r.1 &&& r.2.2 := by
  have h := rget_rsets (fun r : Nat × Nat × Word => r.2.1) (fun r => imgWord x.mem (coreAt x m).ctxpa.toNat r.1 &&& r.2.2)
    (imgRegs_nodup m) hr hm
  beta_reduce at h
  exact h

/-- The restore of an image that passes the checks. -/
theorem exec_restoreComplete {x : State} {m : CoreId} (hs : (coreAt x m).state = .restoring) (hok : restoreOk x m = true) :
    exec (.contextRestoreComplete m) x = .next { loadRegs x m (setCore x m (imgCore x m)) with
      free := (loadRegs x m (setCore x m (imgCore x m))).free + 2 } := by
  change execContextRestoreComplete m x = _
  rw [execContextRestoreComplete, if_pos hs, hok, if_neg (by decide)]
  rfl

/-- The restored core and its units' registers are the image's. -/
theorem restoreComplete_of_ok {x u : State} {m : CoreId} (hs : (coreAt x m).state = .restoring) (hok : restoreOk x m = true)
    (hr : keysRise x.dev) (h : exec (.contextRestoreComplete m) x = .next u) :
    coreAt u m = imgCore x m ∧ ∀ r ∈ imgRegs m, rget u r.2.1 = imgWord x.mem (coreAt x m).ctxpa.toNat r.1 &&& r.2.2 := by
  rw [exec_restoreComplete hs hok] at h
  have hu := Host.Outcome.next.inj h
  have hc := congrArg State.cores hu
  have hd := congrArg State.dev hu
  dsimp only at hc hd
  refine ⟨by simp [coreAt, ← hc], fun r hm => ?_⟩
  rw [rget_congr hd.symm, rget_loadRegs (t := setCore x m (imgCore x m)) hr hm]

/-- The save without an error writes the image's parts. -/
theorem mem_of_save {s t : State} {n : CoreId} (hs : (coreAt s n).state = .saving)
    (h : exec (.contextSaveComplete n 0) s = .next t) :
    t.mem = storeParts (coreAt s n).ctxpa.toNat (imageParts s n 0) s.mem := by
  change execContextSaveComplete n 0 s = .next t at h
  rw [execContextSaveComplete, if_pos hs] at h
  obtain rfl := Host.Outcome.next.inj h
  rfl

/-- An image passes the checks of R68 in its own Gallery and generation. -/
theorem restoreOk_of_image {s x : State} {n m : CoreId} {g : Gal} (h : ImageAt s n x.mem (coreAt x m).ctxpa.toNat)
    (ha : (coreAt x m).ctxpa.toNat % 0x80000 = 0) (ht : (coreAt x m).ctxpa.toNat < 2 ^ 41) (hs : coreOwner s n = some g)
    (hx : coreOwner x m = some g) (hg : groupOwner x ((coreAt x m).ctxpa.toNat / 2 ^ 37) = some g) (hgen : gen x g = gen s g)
    (hp : x.mem.anyPoison (coreAt x m).ctxpa.toNat 0x10000 = false) : restoreOk x m = true := by
  have e : headerWords s n = [mkWord [(0, 1), (16, n.val), (24, g.val)], gen s g,
      mkWord [(0, (coreAt s n).atStop.code), (8, b1 (coreAt s n).launchPend), (16, 0)], BitVec.ofNat 64 (now s)] := by
    simp only [headerWords, hs, Option.map_some, Option.getD_some]
  have hh := h.header
  rw [e] at hh
  have h0 : imgWord x.mem (coreAt x m).ctxpa.toNat 0 = _ := hh.imgWord 0 (by simp)
  have h1 : imgWord x.mem (coreAt x m).ctxpa.toNat 8 = _ := hh.imgWord 1 (by simp)
  have h2 : imgWord x.mem (coreAt x m).ctxpa.toNat 0x10 = _ := hh.imgWord 2 (by simp)
  obtain ⟨hf, hgal⟩ := format_fields n g
  obtain ⟨-, -, hue⟩ := header_fields (coreAt s n).atStop (coreAt s n).launchPend
  simp only [List.getElem_cons_zero, List.getElem_cons_succ] at h0 h1 h2
  simp [restoreOk, ctxpaOk, h0, h1, h2, hf, hgal, hue, hx, hg, hgen, hp, ha, cellarEnd, ht, -Nat.reducePow]

section registers
variable {s x u : State} {n m : CoreId} (h : ImageAt s n x.mem (coreAt x m).ctxpa.toNat)
  (hu : ∀ r ∈ imgRegs m, rget u r.2.1 = imgWord x.mem (coreAt x m).ctxpa.toNat r.1 &&& r.2.2)

include hu in
/-- A register whose word in the image is known. -/
theorem restored_reg (i : Nat) {r : Nat × Nat × Word} (hr : (imgRegs m)[i]? = some r) {w : Word}
    (hw : imgWord x.mem (coreAt x m).ctxpa.toNat r.1 = w) : rget u r.2.1 = w &&& r.2.2 :=
  hw ▸ hu r (List.mem_of_getElem? hr)

include h in
theorem ImageAt.engineWord (j : Nat) (hj : j < 4) : imgWord x.mem (coreAt x m).ctxpa.toNat (0xD00 + 8 * j) =
    ([engStatus s n, rget s (engReg n.val 8), rget s (engReg n.val 0x10),
      bufWord (coreAt s n).stbRec[0] (coreAt s n).stbRec[1]] : List Word)[j] := by
  have he := h.control (i := 6) rfl
  simp only [engSection, Memory.holds_append] at he
  obtain ⟨⟨⟨hw, -⟩, -⟩, -⟩ := he
  exact hw.imgWord j hj

include h in
theorem ImageAt.vectorWord (j : Nat) (hj : j < 12) : imgWord x.mem (coreAt x m).ctxpa.toNat (0xD80 + 8 * j) =
    (vecStatus s n :: [0x18, 0x20, 0x28, 0x30, 0x38, 0x40, 0x48, 0x50, 0x58, 0x08, 0x10].map
      (fun o => rget s (vecReg n.val o)))[j] := (h.control (i := 7) rfl).imgWord j hj

include h hu

theorem restored_engineRegs : ∀ o ∈ [8, 0x10], rget u (engReg m.val o) = rget s (engReg n.val o) &&& 0xFFFFFFFF := by
  simp only [List.forall_mem_cons]
  exact ⟨restored_reg hu 1 rfl (h.engineWord 1 (by decide)), restored_reg hu 2 rfl (h.engineWord 2 (by decide)), by simp⟩

theorem restored_vectorRegs : ∀ o ∈ [8, 0x10, 0x18, 0x20, 0x28, 0x30, 0x38, 0x40, 0x48, 0x58],
    rget u (vecReg m.val o) = rget s (vecReg n.val o) &&& 0xFFFFFFFF := by
  have word (j : Nat) (hj : j < 12) := h.vectorWord j hj
  simp only [List.forall_mem_cons]
  exact ⟨restored_reg hu 4 rfl (word 10 (by decide)), restored_reg hu 5 rfl (word 11 (by decide)),
    restored_reg hu 8 rfl (word 1 (by decide)), restored_reg hu 9 rfl (word 2 (by decide)), restored_reg hu 10 rfl (word 3 (by decide)),
    restored_reg hu 11 rfl (word 4 (by decide)), restored_reg hu 12 rfl (word 5 (by decide)), restored_reg hu 13 rfl (word 6 (by decide)),
    restored_reg hu 14 rfl (word 7 (by decide)), restored_reg hu 7 rfl (word 9 (by decide)), by simp⟩

theorem restored_vectorMode : rget u (vecReg m.val 0x50) = rget s (vecReg n.val 0x50) &&& 0xFF :=
  restored_reg hu 6 rfl (h.vectorWord 8 (by decide))

theorem restored_rackingRegs :
    (∀ o ∈ [8, 0x10], rget u (rkgReg m.val o) = rget s (rkgReg n.val o) &&& 0xC0FFFF0F) ∧
    (∀ o ∈ [0x18, 0x20, 0x28, 0x30], rget u (rkgReg m.val o) = rget s (rkgReg n.val o) &&& 0xFFFFFFFFFFFF) ∧
    (∀ o ∈ [0x48, 0x50], rget u (rkgReg m.val o) = rget s (rkgReg n.val o) &&& 0x8000FFFFFFFFFFFF) := by
  simp only [List.forall_mem_cons]
  exact ⟨⟨restored_reg hu 16 rfl (h.rack 1 (by decide)), restored_reg hu 17 rfl (h.rack 2 (by decide)), by simp⟩,
    ⟨restored_reg hu 18 rfl (h.rack 3 (by decide)), restored_reg hu 19 rfl (h.rack 4 (by decide)),
      restored_reg hu 20 rfl (h.rack 5 (by decide)), restored_reg hu 21 rfl (h.rack 6 (by decide)), by simp⟩,
    restored_reg hu 22 rfl (h.rack 9 (by decide)), restored_reg hu 23 rfl (h.rack 10 (by decide)), by simp⟩

end registers

/-- Settles O35: every part of the image stands in memory after the save, apart from the others and free of poison, and
the restore reads each field of the core and of its units' registers back from its part. -/
theorem saveRestoreRoundTrip : Obligations.SaveRestoreRoundTrip := by
  intro n m s t x u c d a hq hfp hec hrise ha hpsn ⟨g, hs, hx, hg, hgen⟩ hsav hal hs0 hp0 hmq hchk hrkg hsave hmem hres hpa hrest
  have hmem := hmem.trans (mem_of_save hsav hsave)
  have hlive : s.mem.Alive a 0x80000 := by
    have hx := alive_of_control (m := x.mem) hal hpsn
    obtain ⟨hd, hw⟩ := storeParts_dead (a := a) (imageParts s n 0) s.mem
    intro y h0 h1
    rw [← Memory.deadAt_congr hd hw, ← hmem]
    exact hx y h0 h1
  have himg : ImageAt s n x.mem (coreAt x m).ctxpa.toNat := by
    rw [hpa, hmem]
    exact imageAt_of_save hmq hchk hlive
  have hclean : x.mem.CleanBuffers (coreAt x m).ctxpa.toNat := by
    rw [hpa, hmem]
    exact cleanBuffers_of_save hal hlive
  have hok : restoreOk x m = true := by
    refine restoreOk_of_image himg ?_ ?_ hs hx ?_ hgen ?_ <;> rw [hpa] <;> assumption
  obtain ⟨hcore, hregs⟩ := restoreComplete_of_ok hres hok ((rising_map_iff _).mp hrise) hrest
  obtain ⟨hpc, hrpc⟩ := restored_pc himg
  obtain ⟨hfpctl, hecause, hepc, headdr, heinfo, hwait, hlat, hlpend, hret⟩ := restored_control himg hfp hec
  obtain ⟨hctxerr, hbadcmd, hdz, hlate⟩ := restored_flags himg hmq
  have hd : d = imgCore x m := hcore
  rw [hd]
  refine ⟨⟨restored_scalars himg hs0, restored_vectors himg, restored_vectorPoison himg hclean, restored_predicates himg hp0,
    restored_descriptors himg, restored_handles himg hq, hpc, hrpc⟩,
    ⟨hfpctl, hecause, hepc, headdr, heinfo, hwait, hlat, hlpend, hret, hctxerr, hbadcmd, hdz, hlate⟩,
    ⟨restored_queue himg hmq, restored_buffers himg, restored_bufRecs himg, restored_bufferPoison himg hclean, restored_vat himg,
      restored_vatPoison himg hclean⟩, fun q => restored_racking himg hrkg q, restored_snoop himg hchk,
    restored_engineRegs himg hregs, restored_vectorRegs himg hregs, restored_vectorMode himg hregs, restored_rackingRegs himg hregs⟩

end Sys2Proof.Machine
end

section
/-! PROOFS. The register files, and vector words with the reserved guard (R35). -/

namespace Sys2Proof.Machine

/-! ### The guard (R35) -/

theorem getP_p0 (n : CoreId) (s : State) : getP n 0 s = BitVec.allOnes 1024 := (getP_zero n s).trans BitVec.neg_one_eq_allOnes

theorem governs_p0 (n : CoreId) {w i : Nat} (s : State) (hi : i * w < 16384) :
    governs n { p := 0, neg := false } w s i = true := by
  have hb : i * w / 16 < 1024 := by omega
  rw [governs, getP_p0, BitVec.getLsbD_allOnes, decide_eq_true hb]
  rfl

/-- A vector instruction with a reserved guard is not legal. -/
theorem guard_ok_of_legal {h : Hart} {G : Guard} {F : Fmt} {M : RmField} {o vd va vb vc fmt rm fn sa : Nat} {i : Instr}
    (hd : decodeVWith h G F M o vd va vb vc fmt rm fn sa = some i) (hl : i.legal = true) : G.ok = true := by
  have none_ok (h : G.none = true) : G.ok = true := by
    rw [Guard.none, Bool.and_eq_true, Bool.not_eq_true'] at h
    rw [Guard.ok, h.2, Bool.and_false, Bool.not_false]
  unfold decodeVWith at hd
  split at hd
  all_goals simp only [req_eq_some, Option.bind_eq_some_iff, reduceCtorEq] at hd
  all_goals casesm* ∃ _, _, _ ∧ _
  all_goals subst_vars
  all_goals simp only [Instr.legal, Bool.and_eq_true] at hl
  all_goals tauto

theorem illegalWord_p0_negated (h : Hart) {w : Word} (ho : (0x60 ≤ bits w 7 0 ∧ bits w 7 0 ≤ 0x9F) ∨ bits w 7 0 = 0xF3)
    (hp : bits w 30 28 = 0) (hn : bit w 31 = true) : illegalWord h w = true := by
  have hop : w.toNat % 256 = bits w 7 0 := by rw [bits_eq_div]; simp
  unfold illegalWord
  split
  · rfl
  rename_i i hd
  refine Bool.not_eq_true' .. |>.mpr (Bool.eq_false_iff.mpr fun hl => ?_)
  unfold decodeSeisk at hd
  simp only [hop] at hd
  rw [if_neg (by omega), if_neg (by omega), if_neg (by omega), if_pos (by omega)] at hd
  split at hd
  · rename_i _ _ _ _ _ pg pgn _ _ _ _ hs
    simp only [decodeV, Option.bind_eq_some_iff] at hd
    obtain ⟨f, -, m, -, hd⟩ := hd
    have := guard_ok_of_legal hd hl
    simp only [vWidths, splitFields, List.cons.injEq] at hs
    obtain ⟨-, -, -, -, -, hg, hgn, -⟩ := hs
    rw [bits_eq_div] at hp
    rw [bit_eq_decide, decide_eq_true_eq] at hn
    have hpg : pg = 0 := by omega
    have hpgn : pgn = 1 := by omega
    rw [hpg, hpgn] at this
    exact absurd this (by decide)
  · contradiction

/-- A word of class V that holds no instruction stops the core with ILLEGAL. -/
theorem exec_illegal_vector {n : CoreId} {w : Word} {s : State} (ho : (0x60 ≤ bits w 7 0 ∧ bits w 7 0 ≤ 0x9F) ∨ bits w 7 0 = 0xF3)
    (hw : illegalWord (.core n) w = true) (hc : canIssue s n (.illegal (.core n) w) = true) (hf : fetchFault s n = none) :
    exec (.illegal (.core n) w) s = .next (takeExc (disarm s n) n { code := 1 } 2 true (coreAt s n).pc (coreAt s n).pc) := by
  have hcls : wordClass w = some 2 := by
    unfold wordClass
    simp only
    generalize bits w 7 0 = o at ho
    rcases ho with ho | rfl
    · rw [if_neg (by omega), if_neg (by omega), if_neg (by omega), if_pos ho.2]
    · rfl
  change execIllegal (.core n) w s = _
  simp only [execIllegal, hw, hcls, if_true, issue, issueCore, hc, fetchFault_disarm, hf, Instr.legal, Bool.not_false, disarm_pc]
  rfl

/-- Settles O2: a register file read after a write, the guard bits of p0, and the decoder, which gives a vector word with
the reserved guard no legal instruction. -/
theorem zeroRegister : Obligations.ZeroRegister := by
  refine ⟨fun h s v => ⟨getS_zero h s, setS_zero h v s⟩, fun h r q v s => getS_setS h r q v s,
    fun n s v => ⟨getP_p0 n s, setP_zero n v s⟩, fun n r q v s => getP_setP n r q v s,
    fun n w i s _ hi => governs_p0 n s hi, fun n w s ho hp hn => ?_⟩
  have hw := illegalWord_p0_negated (.core n) ho hp hn
  exact ⟨hw, fun hc hf => exec_illegal_vector ho hw hc hf⟩

end Sys2Proof.Machine
end

section
/-! PROOFS. Accesses of a core: where they go, what they log, and their outcomes (R43 to R45, R81, R388). -/

namespace Sys2Proof.Machine

/-! ### What disarming a launch leaves -/

@[simp] theorem coreOwner_disarm (s : State) (n m : CoreId) : coreOwner (disarm s n) m = coreOwner s m := rfl
@[simp] theorem translate_disarm (s : State) (n : CoreId) (g : Gal) (a : Nat) (w : Bool) :
    translate (disarm s n) g a w = translate s g a w := rfl
@[simp] theorem mem_disarm (s : State) (n : CoreId) : (disarm s n).mem = s.mem := rfl
@[simp] theorem spotOf_disarm (s : State) (n : CoreId) (a k : Nat) (w : Bool) : spotOf (disarm s n) n a k w = spotOf s n a k w := rfl

theorem coreAt_disarm (s : State) (n : CoreId) : coreAt (disarm s n) n = disarmC (coreAt s n) := by
  rw [disarm_eq, coreAt_modCore]

@[simp] theorem mq_disarm (s : State) (n : CoreId) : (coreAt (disarm s n) n).mq = (coreAt s n).mq := by
  rw [coreAt_disarm, disarmC]; split <;> rfl
@[simp] theorem t_disarm (s : State) (n : CoreId) : (coreAt (disarm s n) n).t = (coreAt s n).t := by
  rw [coreAt_disarm, disarmC]; split <;> rfl

@[simp] theorem getS_disarm (s : State) (n : CoreId) (r : SReg) : getS (.core n) r (disarm s n) = getS (.core n) r s :=
  getS_disarmed (.core n) r s

@[simp] theorem effAddr_disarm (s : State) (n : CoreId) (sa : SReg) (imm : BitVec 40) :
    effAddr (.core n) sa imm (disarm s n) = effAddr (.core n) sa imm s := by
  rw [effAddr, effAddr, getS_disarm]

theorem useOf_disarm (s : State) (n : CoreId) (i : Instr) (ds : List (BitVec 256)) : useOf (disarm s n) n i ds = useOf s n i ds := by
  unfold useOf
  rw [disarm_pc]
  rfl

theorem logReserve_disarm (s : State) (n : CoreId) (i : Instr) (ds : List (BitVec 256)) :
    logReserve (disarm s n) n i ds = disarm (logReserve s n i ds) n := by
  unfold logReserve logReserveOf
  rw [useOf_disarm]
  cases useOf s n i ds <;> rfl

theorem logSram_disarm (s : State) (n : CoreId) (i : Instr) (a : Nat) :
    logSram (disarm s n) n i a = disarm (logSram s n i a) n := by
  unfold logSram
  rw [logReserve_disarm]
  split <;> rfl

/-! ### The attribution log of the Reserve (R388) -/

theorem logReserve_rest (s : State) (n : CoreId) (i : Instr) (ds : List (BitVec 256)) :
    logReserve s n i ds = { s with resLog := (logReserve s n i ds).resLog } := by
  unfold logReserve logReserveOf
  cases useOf s n i ds <;> rfl

@[simp] theorem mem_logReserve (s : State) (n : CoreId) (i : Instr) (ds : List (BitVec 256)) : (logReserve s n i ds).mem = s.mem := by
  rw [logReserve_rest]
@[simp] theorem cores_logReserve (s : State) (n : CoreId) (i : Instr) (ds : List (BitVec 256)) :
    (logReserve s n i ds).cores = s.cores := by
  rw [logReserve_rest]

theorem logSram_reserve {a : Nat} (h0 : 2 ^ 49 ≤ a) (h1 : a < 2 ^ 49 + 0x1000000) (s : State) (n : CoreId) (i : Instr) :
    logSram s n i a = logReserve s n i [] := if_pos ⟨h0, h1⟩

theorem logSram_below {a : Nat} (h : a < 2 ^ 49) (s : State) (n : CoreId) (i : Instr) : logSram s n i a = s :=
  if_neg fun hc => absurd hc.1 (Nat.not_le.mpr h)

@[simp] theorem mem_logSram (s : State) (n : CoreId) (i : Instr) (a : Nat) : (logSram s n i a).mem = s.mem := by
  unfold logSram; split <;> simp
@[simp] theorem cores_logSram (s : State) (n : CoreId) (i : Instr) (a : Nat) : (logSram s n i a).cores = s.cores := by
  unfold logSram; split <;> simp
@[simp] theorem coreAt_logSram (s : State) (n m : CoreId) (i : Instr) (a : Nat) : coreAt (logSram s n i a) m = coreAt s m := by
  simp [coreAt]

/-! ### Where an access goes (R43 to R45, R81) -/

section spots
variable {s : State} {n : CoreId} {a k : Nat} {w : Bool}

theorem winOf_gallery (h : a + k ≤ 2 ^ 48) : winOf a k = .gallery := if_pos h

theorem winOf_cask (h0 : 2 ^ 48 ≤ a) (h1 : a + k ≤ 2 ^ 48 + 0x600000) (hk : 0 < k) : winOf a k = .cask := by
  rw [winOf, if_neg (by omega), if_pos ⟨h0, h1⟩]

theorem winOf_reserve (h0 : 2 ^ 49 ≤ a) (h1 : a + k ≤ 2 ^ 49 + 0x1000000) (hk : 0 < k) : winOf a k = .reserve := by
  rw [winOf, if_neg (by omega), if_neg (by omega), if_pos ⟨h0, h1⟩]

theorem winOf_register (h0 : 3 * 2 ^ 48 ≤ a) (h1 : a + k ≤ 3 * 2 ^ 48 + 2 ^ 32) (hk : 0 < k) : winOf a k = .register := by
  rw [winOf, if_neg (by omega), if_neg (by omega), if_neg (by omega), if_pos ⟨h0, h1⟩]

theorem winOf_none (h0 : ¬ a + k ≤ 2 ^ 48) (h1 : ¬ (2 ^ 48 ≤ a ∧ a + k ≤ 2 ^ 48 + 0x600000))
    (h2 : ¬ (2 ^ 49 ≤ a ∧ a + k ≤ 2 ^ 49 + 0x1000000)) (h3 : ¬ (3 * 2 ^ 48 ≤ a ∧ a + k ≤ 3 * 2 ^ 48 + 2 ^ 32)) :
    winOf a k = .none :=
  (if_neg h0).trans ((if_neg h1).trans ((if_neg h2).trans (if_neg h3)))

/-- Where a translation leads. -/
theorem spotOf_gallery (h : a + k ≤ 2 ^ 48) (ha : a % k = 0) {g : Gal} (ho : coreOwner s n = some g) {r : Xlate}
    (ht : translate s g a w = r) : spotOf s n a k w = match r with
      | .ok pa => .mem pa false
      | .unmapped => .fault (excTranslation a 1)
      | .readOnly => .fault (excPermission a)
      | .fmapUe => .fault (excTranslation a 4)
      | .migrating => .stall g := by
  rw [spotOf, winOf_gallery h]
  simp only [ha, ho, ht, ne_eq, not_true_eq_false, if_false]
  cases r <;> rfl

theorem spotOf_cask (h0 : 2 ^ 48 ≤ a) (h1 : a + k ≤ 2 ^ 48 + 0x600000) (hk : 0 < k) (ha : a % k = 0) :
    spotOf s n a k w = .mem (caskBase n.val + (a - 2 ^ 48)) true := by
  rw [spotOf, winOf_cask h0 h1 hk]
  simp only [ha, ne_eq, not_true_eq_false, if_false, localAddr]
  rw [show a % 2 ^ 48 = a - 2 ^ 48 by omega]

theorem spotOf_reserve (h0 : 2 ^ 49 ≤ a) (h1 : a + k ≤ 2 ^ 49 + 0x1000000) (hk : 0 < k) (ha : a % k = 0) :
    spotOf s n a k w = .mem (reserveBase (n.val / 8) + (a - 2 ^ 49)) true := by
  rw [spotOf, winOf_reserve h0 h1 hk]
  simp only [ha, ne_eq, not_true_eq_false, if_false, localAddr]
  rw [show a % 2 ^ 48 = a - 2 ^ 49 by omega]
  rfl

theorem spotOf_register (h0 : 3 * 2 ^ 48 ≤ a) (h1 : a + k ≤ 3 * 2 ^ 48 + 2 ^ 32) (hk : 0 < k) : spotOf s n a k w = .register := by
  rw [spotOf, winOf_register h0 h1 hk]

theorem spotOf_misaligned (h : a + k ≤ 2 ^ 49 + 0x1000000) (ha : a % k ≠ 0) : spotOf s n a k w = .fault (excAddress a) := by
  rw [spotOf, winOf]
  rw [if_neg (show ¬ (0x3000000000000 ≤ a ∧ a + k ≤ 0x3000100000000) by omega)]
  split_ifs <;> rfl

theorem spotOf_outside (h : winOf a k = .none) : spotOf s n a k w = .fault (excAddress a) := by
  rw [spotOf, h]

end spots

/-! ### Loads, stores and atomics as their place decides -/

section access
variable {n : CoreId} {s : State} {pa : Nat} {sram : Bool} {x : Exc} {sd sa : SReg} {tn : TReg} {imm : BitVec 40} {size : Size}
  {signed : Bool}

/-- The retirement of a load into a scalar register. -/
theorem retire_setS_logSram (s : State) (n : CoreId) (i : Instr) (a : Nat) (r : SReg) (v : Word) (dst : Word) :
    retireTo (settle (setS (.core n) r v (logSram (disarm s n) n i a)) n) n dst =
      setS (.core n) r v (retired (.core n) dst (logSram s n i a)) := by
  rw [logSram_disarm, retire_setS]

/-- The retirement of a load into a tile register. -/
theorem retire_setT (s : State) (n : CoreId) (tn : TReg) (v : BitVec 256) (dst : Word) :
    retireTo (settle (setT n tn v (disarm s n)) n) n dst = setT n tn v (retired (.core n) dst s) :=
  retire_modCore s n dst _ (fun c => by cases h : c.launchPend <;> simp [endC, disarmC, retiredCore, h])

/-- The retirement of an instruction that puts memory in place. -/
theorem retire_mem (s : State) (n : CoreId) (m : Memory) (dst : Word) :
    retireTo (settle { disarm s n with mem := m } n) n dst = { retired (.core n) dst s with mem := m } :=
  retire_disarm { s with mem := m } n dst

theorem loadFrom_none {s : State} {n : CoreId} {i : Instr} {a k pa : Nat} {sram : Bool} {r : Nat → State → State}
    (hl : sram = true ∨ a < 2 ^ 49) : loadFrom s n i a k pa sram .none r =
      if s.mem.isPoisoned (pa / 64) then .fault (excPoison a) else .done (r (leNat (s.mem.bytes pa k)) (logSram s n i a)) := by
  have ht : (if sram then lineMet (logSram s n i a) n a .none else s) = logSram s n i a := by
    rcases hl with rfl | hl
    · rfl
    · rw [logSram_below hl]; cases sram <;> rfl
  simp only [loadFrom, ht, mem_logSram, reduceCtorEq, false_and, and_false, if_false]

theorem fell_logSram (s : State) (n : CoreId) (i : Instr) (a : Nat) :
    fell (.core n) (logSram s n i a) = retired (.core n) ((coreAt s n).pc + 8) (logSram s n i a) := by
  rw [fell, getPc, coreAt_logSram]

/-- What an access of a core does at issue, as its place decides: `mem` and `reg` say what it does in memory and in
device register space. -/
def accessEff (n : CoreId) (sa : SReg) (imm : BitVec 40) (k : Nat) (w : Bool) (mem : Nat → Bool → Nat → State → Eff)
    (reg : Nat → State → Eff) (s : State) : Eff :=
  let a := effAddr (.core n) sa imm s
  match spotOf s n a k w with
  | .mem pa sram => mem pa sram a s
  | .register => reg a s
  | .fault x => .fault x
  | .stall g => .hold (addStall s (.core n) g a w false 0)

theorem exec_ld_core (n : CoreId) (size : Size) (signed : Bool) (sd sa : SReg) (imm : BitVec 40) (s : State) :
    exec (.ld (.core n) size signed .none sd sa imm) s = .next (issueCore n (.ld (.core n) size signed .none sd sa imm) 0
      (accessEff n sa imm (Size.bytes size) false
        (fun pa sram a s => loadFrom s n (.ld (.core n) size signed .none sd sa imm) a (Size.bytes size) pa sram .none
          (fun v t => setS (.core n) sd (extendLoad (Size.bytes size) signed v) t))
        (fun a s => loadReg (.core n) size sd a s)) s) := rfl

theorem exec_st_core (n : CoreId) (size : Size) (sd sa : SReg) (imm : BitVec 40) (s : State) :
    exec (.st (.core n) size sd sa imm) s = .next (issueCore n (.st (.core n) size sd sa imm) 0
      (accessEff n sa imm (Size.bytes size) true
        (fun pa _ a s => storeTo s n (.st (.core n) size sd sa imm) a pa (leBytes (Size.bytes size) (getS (.core n) sd s).toNat))
        (fun a s => storeReg (.core n) size a (getS (.core n) sd s) s)) s) := rfl

theorem exec_tld_core (n : CoreId) (tn : TReg) (sa : SReg) (imm : BitVec 40) (s : State) :
    exec (.tld (.core n) tn sa imm) s = .next (issueCore n (.tld (.core n) tn sa imm) 0
      (accessEff n sa imm 32 false
        (fun pa sram a s => loadFrom s n (.tld (.core n) tn sa imm) a 32 pa sram .none (fun v t => setT n tn (BitVec.ofNat 256 v) t))
        (fun a s => .trap (setT n tn 0 s) (excAccess a))) s) := rfl

theorem exec_tst_core (n : CoreId) (tn : TReg) (sa : SReg) (imm : BitVec 40) (s : State) :
    exec (.tst (.core n) tn sa imm) s = .next (issueCore n (.tst (.core n) tn sa imm) 0
      (accessEff n sa imm 32 true
        (fun pa _ a s => storeTo s n (.tst (.core n) tn sa imm) a pa (leBytes 32 (coreAt s n).t[tn].toNat))
        (fun a s => .trap s (excAccess a))) s) := rfl

section outcomes
variable {i : Instr} {k : Nat} {w : Bool} {mem : Nat → Bool → Nat → State → Eff} {reg : Nat → State → Eff} {g : Gal}

theorem accessEff_mem (h : spotOf s n (effAddr (.core n) sa imm s) k w = .mem pa sram) :
    accessEff n sa imm k w mem reg (disarm s n) = mem pa sram (effAddr (.core n) sa imm s) (disarm s n) := by
  simp only [accessEff, effAddr_disarm, spotOf_disarm, h]

theorem accessEff_register (h : spotOf s n (effAddr (.core n) sa imm s) k w = .register) :
    accessEff n sa imm k w mem reg (disarm s n) = reg (effAddr (.core n) sa imm s) (disarm s n) := by
  simp only [accessEff, effAddr_disarm, spotOf_disarm, h]

theorem accessEff_fault (h : spotOf s n (effAddr (.core n) sa imm s) k w = .fault x) :
    accessEff n sa imm k w mem reg (disarm s n) = .fault x := by
  simp only [accessEff, effAddr_disarm, spotOf_disarm, h]

theorem accessEff_stall (h : spotOf s n (effAddr (.core n) sa imm s) k w = .stall g) :
    accessEff n sa imm k w mem reg (disarm s n) =
      .hold (addStall (disarm s n) (.core n) g (effAddr (.core n) sa imm s) w false 0) := by
  simp only [accessEff, effAddr_disarm, spotOf_disarm, h]

/-- An access that a fault meets. -/
theorem access_fault (hr : Ready (.core n) i s) (h : spotOf s n (effAddr (.core n) sa imm s) k w = .fault x) :
    issueCore n i 0 (accessEff n sa imm k w mem reg) s = takeExc (disarm s n) n x 0 true (coreAt s n).pc (coreAt s n).pc :=
  issueCore_fault hr (accessEff_fault h)

theorem access_stall (hr : Ready (.core n) i s) (h : spotOf s n (effAddr (.core n) sa imm s) k w = .stall g) :
    issueCore n i 0 (accessEff n sa imm k w mem reg) s =
      holdFor (addStall (disarm s n) (.core n) g (effAddr (.core n) sa imm s) w false 0) n i :=
  issueCore_hold hr (accessEff_stall h)

/-- A load from a poisoned line. -/
theorem load_poisoned {j : Instr} {r : Nat → State → State} (hr : Ready (.core n) i s)
    (h : spotOf s n (effAddr (.core n) sa imm s) k w = .mem pa sram)
    (hl : sram = true ∨ effAddr (.core n) sa imm s < 2 ^ 49) (hp : s.mem.isPoisoned (pa / 64) = true) :
    issueCore n i 0 (accessEff n sa imm k w (fun pa sram a s => loadFrom s n j a k pa sram .none r) reg) s =
      takeExc (disarm s n) n (excPoison (effAddr (.core n) sa imm s)) 0 true (coreAt s n).pc (coreAt s n).pc := by
  refine issueCore_fault hr ?_
  rw [accessEff_mem h, loadFrom_none hl, mem_disarm, if_pos hp]

theorem load_done {j : Instr} {r : Nat → State → State} (hr : Ready (.core n) i s)
    (h : spotOf s n (effAddr (.core n) sa imm s) k w = .mem pa sram)
    (hl : sram = true ∨ effAddr (.core n) sa imm s < 2 ^ 49) (hp : s.mem.isPoisoned (pa / 64) = false) :
    issueCore n i 0 (accessEff n sa imm k w (fun pa sram a s => loadFrom s n j a k pa sram .none r) reg) s =
      retireTo (settle (r (leNat (s.mem.bytes pa k)) (disarm (logSram s n j (effAddr (.core n) sa imm s)) n)) n) n
        ((coreAt s n).pc + 8) := by
  refine issueCore_done hr ?_
  rw [accessEff_mem h, loadFrom_none hl, mem_disarm, if_neg (by rw [hp]; decide), logSram_disarm]

/-- A store that no queued matrix instruction stops. -/
theorem store_done {j : Instr} {bs : State → List Byte} (hr : Ready (.core n) i s) (hb : bs (disarm s n) = bs s)
    (h : spotOf s n (effAddr (.core n) sa imm s) k w = .mem pa sram)
    (hq : queueReads (coreAt s n) (effAddr (.core n) sa imm s) (bs s).length = false) :
    issueCore n i 0 (accessEff n sa imm k w (fun pa _ a s => storeTo s n j a pa (bs s)) reg) s =
      { fell (.core n) (logSram s n j (effAddr (.core n) sa imm s)) with mem := s.mem.store pa (bs s) false } := by
  have he : accessEff n sa imm k w (fun pa _ a s => storeTo s n j a pa (bs s)) reg (disarm s n) =
      .done { disarm (logSram s n j (effAddr (.core n) sa imm s)) n with mem := s.mem.store pa (bs s) false } := by
    rw [accessEff_mem h, hb, storeTo, queueReads, mq_disarm, ← queueReads, hq, if_neg (by decide), logSram_disarm, mem_disarm]
  rw [issueCore_done hr he, retire_mem, fell_logSram]

theorem store_hold {j : Instr} {bs : State → List Byte} (hr : Ready (.core n) i s) (hb : bs (disarm s n) = bs s)
    (h : spotOf s n (effAddr (.core n) sa imm s) k w = .mem pa sram)
    (hq : queueReads (coreAt s n) (effAddr (.core n) sa imm s) (bs s).length = true) :
    issueCore n i 0 (accessEff n sa imm k w (fun pa _ a s => storeTo s n j a pa (bs s)) reg) s = holdFor (disarm s n) n i := by
  refine issueCore_hold hr ?_
  rw [accessEff_mem h, hb, storeTo, queueReads, mq_disarm, ← queueReads, hq, if_pos rfl]

end outcomes

end access

end Sys2Proof.Machine
end

section
/-! PROOFS. Loads, stores, atomics and the faults of an access (Table 3-5). -/

namespace Sys2Proof.Machine

/-! ### Loads from memory -/

theorem extendLoad_eq (k : Nat) (signed : Bool) {v : Nat} (hv : v < 2 ^ (8 * k)) (hk : 0 < k) :
    extendLoad k signed v = if signed then (BitVec.ofNat (8 * k) v).signExtend 64 else BitVec.ofNat 64 v := by
  unfold extendLoad
  split
  · rw [BitVec.signExtend, BitVec.toInt_eq_toNat_cond, BitVec.toNat_ofNat, signedOf, Nat.mod_eq_of_lt hv]
    obtain ⟨m, hm⟩ : ∃ m, 8 * k = m + 1 := ⟨8 * k - 1, by omega⟩
    rw [hm, Nat.add_sub_cancel, pow_succ]
    congr 1
    split <;> split <;> omega
  · rfl

section loads
variable {n : CoreId} {s : State} {pa : Nat} {sa : SReg} {imm : BitVec 40}

/-- The address of an access lies in the Gallery window, or in the Cask. -/
theorem spot_outside_reserve {k : Nat} {w : Bool} (hk : 0 < k) (ha : effAddr (.core n) sa imm s % k = 0)
    (h : (effAddr (.core n) sa imm s + k ≤ 2 ^ 48 ∧ ∃ g, coreOwner s n = some g ∧ translate s g (effAddr (.core n) sa imm s) w = .ok pa) ∨
      (2 ^ 48 ≤ effAddr (.core n) sa imm s ∧ effAddr (.core n) sa imm s + k ≤ 2 ^ 48 + 0x600000 ∧
        pa = caskBase n.val + (effAddr (.core n) sa imm s - 2 ^ 48))) :
    (∃ sram, spotOf s n (effAddr (.core n) sa imm s) k w = .mem pa sram) ∧ effAddr (.core n) sa imm s < 2 ^ 49 := by
  rcases h with ⟨hg, g, ho, ht⟩ | ⟨h0, h1, h⟩
  · exact ⟨⟨false, spotOf_gallery hg ha ho ht⟩, by omega⟩
  · exact ⟨⟨true, h ▸ spotOf_cask h0 h1 hk ha⟩, by omega⟩

end loads

theorem size_pos (size : Size) : 0 < Size.bytes size := by cases size <;> decide

/-- Settles O9: the place of the access, the value read there, and the retirement of a load. -/
theorem loadsFromMemory : Obligations.LoadsFromMemory := by
  intro n size signed sd sa tn imm s pa h ea k gal cask reserve ext i j hp
  have hk : k = Size.bytes size := by cases size <;> rfl
  have hext : ext (leNat (s.mem.bytes pa k)) = extendLoad (Size.bytes size) signed (leNat (s.mem.bytes pa (Size.bytes size))) := by
    rw [← hk, extendLoad_eq]
    · have := leNat_lt (s.mem.bytes pa k)
      rwa [Memory.length_bytes, show 256 = 2 ^ 8 from rfl, ← pow_mul] at this
    · rw [hk]; exact size_pos size
  rw [hext]
  clear_value k
  subst hk
  refine ⟨fun ha hm hr => ?_, fun ha hm hr => ?_, fun ha hm hr => ?_, fun ha hm hr => ?_⟩
  · obtain ⟨⟨sram, hs⟩, hl⟩ := spot_outside_reserve (size_pos size) ha hm
    rw [exec_ld_core, load_done hr hs (.inr hl) hp, logSram_below hl, retire_setS]
    rfl
  · obtain ⟨h0, h1, hpa⟩ := hm
    have hs := spotOf_reserve (s := s) (n := n) (w := false) h0 h1 (size_pos size) ha
    rw [← hpa] at hs
    have h2 : effAddr (.core n) sa imm s < 2 ^ 49 + 0x1000000 := by have := size_pos size; change ea < _; omega
    rw [exec_ld_core, load_done hr hs (.inl rfl) hp, retire_setS, ← fell_logSram, logSram_reserve (a := effAddr (.core n) sa imm s) h0 h2]
  · obtain ⟨⟨sram, hs⟩, hl⟩ := spot_outside_reserve (by decide) ha hm
    rw [exec_tld_core, load_done hr hs (.inr hl) hp, logSram_below hl, retire_setT]
    rfl
  · obtain ⟨h0, h1, hpa⟩ := hm
    have hs := spotOf_reserve (s := s) (n := n) (w := false) h0 h1 (by decide) ha
    rw [← hpa] at hs
    have h2 : effAddr (.core n) sa imm s < 2 ^ 49 + 0x1000000 := by change ea < _; omega
    rw [exec_tld_core, load_done hr hs (.inl rfl) hp, retire_setT, ← fell_logSram, logSram_reserve (a := effAddr (.core n) sa imm s) h0 h2]

/-! ### Stores, atomics and the faults of an access -/

/-- The Reserve's place of an access (R44). -/
theorem spot_reserve {n : CoreId} {s : State} {pa a k : Nat} {w : Bool} (hk : 0 < k) (ha : a % k = 0)
    (h : 2 ^ 49 ≤ a ∧ a + k ≤ 2 ^ 49 + 0x1000000 ∧ pa = reserveBase (n.val / 8) + (a - 2 ^ 49)) (i : Instr) :
    spotOf s n a k w = .mem pa true ∧ queueReads (coreAt s n) a k = false ∧ logSram s n i a = logReserve s n i [] := by
  obtain ⟨h0, h1, hpa⟩ := h
  refine ⟨hpa ▸ spotOf_reserve h0 h1 hk ha, ?_, logSram_reserve h0 (by omega) s n i⟩
  rw [queueReads, decide_eq_false (by omega), Bool.false_and]

theorem queueReads_gallery (c : Core) {a : Nat} (k : Nat) (h : a < 2 ^ 48) : queueReads c a k = false := by
  rw [queueReads, decide_eq_false (by omega), Bool.false_and]

section stores
variable {n : CoreId} {s : State} {pa a k : Nat} {sa : SReg} {imm : BitVec 40} {i : Instr} {bs : State → List Byte}
  {reg : Nat → State → Eff}

/-- A store in the Gallery window or the Cask. -/
theorem store_outside_reserve (hr : Ready (.core n) i s) (hb : bs (disarm s n) = bs s) (hk : 0 < k) (hlen : (bs s).length = k)
    (hea : effAddr (.core n) sa imm s = a) (ha : a % k = 0)
    (h : (a + k ≤ 2 ^ 48 ∧ ∃ g, coreOwner s n = some g ∧ translate s g a true = .ok pa) ∨
      ((2 ^ 48 ≤ a ∧ a + k ≤ 2 ^ 48 + 0x600000 ∧ pa = caskBase n.val + (a - 2 ^ 48)) ∧ queueReads (coreAt s n) a k = false)) :
    issueCore n i 0 (accessEff n sa imm k true (fun pa _ a s => storeTo s n i a pa (bs s)) reg) s =
      { fell (.core n) s with mem := s.mem.store pa (bs s) false } := by
  subst hea
  have hq : queueReads (coreAt s n) (effAddr (.core n) sa imm s) k = false :=
    h.elim (fun h => queueReads_gallery _ _ (by omega)) And.right
  obtain ⟨⟨sram, hs⟩, hl⟩ := spot_outside_reserve hk ha (h.imp_right And.left)
  rw [store_done hr hb hs (by rw [hlen]; exact hq), logSram_below hl]

theorem store_reserve (hr : Ready (.core n) i s) (hb : bs (disarm s n) = bs s) (hk : 0 < k) (hlen : (bs s).length = k)
    (hea : effAddr (.core n) sa imm s = a) (ha : a % k = 0)
    (h : 2 ^ 49 ≤ a ∧ a + k ≤ 2 ^ 49 + 0x1000000 ∧ pa = reserveBase (n.val / 8) + (a - 2 ^ 49)) :
    issueCore n i 0 (accessEff n sa imm k true (fun pa _ a s => storeTo s n i a pa (bs s)) reg) s =
      { fell (.core n) (logReserve s n i []) with mem := s.mem.store pa (bs s) false } := by
  subst hea
  obtain ⟨hs, hq, hl⟩ := spot_reserve hk ha h i
  rw [store_done hr hb hs (by rw [hlen]; exact hq), hl]

end stores

theorem amoOp_eq (op : AmoOp) (old x : Word) : amoOp op old x = match op with
    | .add => old + x
    | .swap => x
    | .maxs => if old.toInt ≤ x.toInt then x else old
    | .mins => if old.toInt ≤ x.toInt then old else x
    | .or => old ||| x
    | .and => old &&& x := by
  rcases eq_or_ne old x with rfl | hne
  · cases op <;> simp [amoOp, maxS, minS]
  · have hlt : old.toInt < x.toInt ↔ old.toInt ≤ x.toInt :=
      ⟨le_of_lt, fun h => lt_of_le_of_ne h fun he => hne (BitVec.eq_of_toInt_eq he)⟩
    cases op <;> simp only [amoOp, maxS, minS, BitVec.slt_iff_toInt_lt, hlt]

section amo
variable {n : CoreId} {s : State} {pa : Nat} {op : AmoOp} {sd sa : SReg} {imm : BitVec 40}

/-- What amo does at issue. -/
def amoEff (n : CoreId) (op : AmoOp) (sd sa : SReg) (imm : BitVec 40) (s : State) : Eff :=
  let a := effAddr (.core n) sa imm s
  if a % 8 ≠ 0 ∨ inCaskOrReserve a (a + 7) = false then .fault (excAddress a)
  else
    let pa := sramAt n a
    if s.mem.isPoisoned (pa / 64) then .fault (excPoison a)
    else if queueReads (coreAt s n) a 8 then .hold s
    else
      let old := mem64 s.mem pa
      .done (setS (.core n) sd old { logSram s n (.amo (.core n) op sd sa imm) a with
        mem := s.mem.store pa (leBytes 8 (amoOp op old (getS (.core n) sd s)).toNat) false })

theorem exec_amo_core (n : CoreId) (op : AmoOp) (sd sa : SReg) (imm : BitVec 40) (s : State) :
    exec (.amo (.core n) op sd sa imm) s = .next (issueCore n (.amo (.core n) op sd sa imm) 0 (amoEff n op sd sa imm) s) := rfl

theorem inCaskOrReserve_iff (a : Nat) : inCaskOrReserve a (a + 7) = true ↔
    (2 ^ 48 ≤ a ∧ a + 8 ≤ 2 ^ 48 + 0x600000) ∨ (2 ^ 49 ≤ a ∧ a + 8 ≤ 2 ^ 49 + 0x1000000) := by
  simp only [inCaskOrReserve, inCask, inReserve, Bool.or_eq_true, decide_eq_true_eq]
  omega

theorem amo_done (hr : Ready (.core n) (.amo (.core n) op sd sa imm) s) (ha : effAddr (.core n) sa imm s % 8 = 0)
    (hin : inCaskOrReserve (effAddr (.core n) sa imm s) (effAddr (.core n) sa imm s + 7) = true)
    (hpa : sramAt n (effAddr (.core n) sa imm s) = pa) (hp : s.mem.isPoisoned (pa / 64) = false)
    (hq : queueReads (coreAt s n) (effAddr (.core n) sa imm s) 8 = false) :
    exec (.amo (.core n) op sd sa imm) s = .next (setS (.core n) sd (mem64 s.mem pa)
      { fell (.core n) (logSram s n (.amo (.core n) op sd sa imm) (effAddr (.core n) sa imm s)) with
        mem := s.mem.store pa (leBytes 8 (amoOp op (mem64 s.mem pa) (getS (.core n) sd s)).toNat) false }) := by
  have hq' : queueReads (coreAt (disarm s n) n) (effAddr (.core n) sa imm s) 8 = false := by
    rw [queueReads, mq_disarm, ← queueReads, hq]
  have he : amoEff n op sd sa imm (disarm s n) = .done (setS (.core n) sd (mem64 s.mem pa)
      (disarm { logSram s n (.amo (.core n) op sd sa imm) (effAddr (.core n) sa imm s) with
        mem := s.mem.store pa (leBytes 8 (amoOp op (mem64 s.mem pa) (getS (.core n) sd s)).toNat) false } n)) := by
    simp only [amoEff, effAddr_disarm, ha, hin, hpa, mem_disarm, hp, hq', getS_disarm, logSram_disarm, ne_eq, not_true_eq_false,
      reduceCtorEq, or_self, if_false, Bool.false_eq_true]
    rfl
  rw [exec_amo_core, issueCore_done hr he, retire_setS, fell_logSram]
  rfl

theorem amo_address (hr : Ready (.core n) (.amo (.core n) op sd sa imm) s)
    (h : effAddr (.core n) sa imm s % 8 ≠ 0 ∨ inCaskOrReserve (effAddr (.core n) sa imm s) (effAddr (.core n) sa imm s + 7) = false) :
    exec (.amo (.core n) op sd sa imm) s = .next (takeExc (disarm s n) n (excAddress (effAddr (.core n) sa imm s)) 0 true
      (coreAt s n).pc (coreAt s n).pc) := by
  rw [exec_amo_core, issueCore_fault hr]
  simp only [amoEff, effAddr_disarm, if_pos h]

end amo

section storeOf
variable {n : CoreId} {size : Size} {sd sa : SReg} {tn : TReg} {imm : BitVec 40} {s : State} {pa : Nat} {sram : Bool}

/-- The bytes of st and of tst do not change as a launch is disarmed. -/
theorem bytesOf_st (n : CoreId) (size : Size) (sd : SReg) (s : State) :
    leBytes (Size.bytes size) (getS (.core n) sd (disarm s n)).toNat = leBytes (Size.bytes size) (getS (.core n) sd s).toNat := by
  rw [getS_disarm]
theorem bytesOf_tst (n : CoreId) (tn : TReg) (s : State) :
    leBytes 32 (coreAt (disarm s n) n).t[tn].toNat = leBytes 32 (coreAt s n).t[tn].toNat := by
  rw [t_disarm]

/-- A memory access of st goes where the store's bytes go, or holds. -/
theorem st_hold (hr : Ready (.core n) (.st (.core n) size sd sa imm) s)
    (hs : spotOf s n (effAddr (.core n) sa imm s) (Size.bytes size) true = .mem pa sram)
    (hq : queueReads (coreAt s n) (effAddr (.core n) sa imm s) (Size.bytes size) = true) :
    exec (.st (.core n) size sd sa imm) s = .next (holdFor (disarm s n) n (.st (.core n) size sd sa imm)) := by
  rw [exec_st_core, store_hold (bs := fun s => leBytes (Size.bytes size) (getS (.core n) sd s).toNat) hr (bytesOf_st n size sd s) hs]
  rwa [length_leBytes]

end storeOf

section faults
variable {n : CoreId} {size : Size} {signed : Bool} {sd sa : SReg} {tn : TReg} {imm : BitVec 40} {s : State} {x : Exc}

/-- A load and a store of any size, and of a tile register, whose place is a fault. -/
theorem ld_fault (hs : spotOf s n (effAddr (.core n) sa imm s) (Size.bytes size) false = .fault x) :
    Gives (.core n) (.ld (.core n) size signed .none sd sa imm) s (takeExc (disarm s n) n x 0 true (coreAt s n).pc (coreAt s n).pc) := by
  intro hr
  rw [exec_ld_core, access_fault hr hs]
theorem st_fault (hs : spotOf s n (effAddr (.core n) sa imm s) (Size.bytes size) true = .fault x) :
    Gives (.core n) (.st (.core n) size sd sa imm) s (takeExc (disarm s n) n x 0 true (coreAt s n).pc (coreAt s n).pc) := by
  intro hr
  rw [exec_st_core, access_fault hr hs]
theorem tld_fault (hs : spotOf s n (effAddr (.core n) sa imm s) 32 false = .fault x) :
    Gives (.core n) (.tld (.core n) tn sa imm) s (takeExc (disarm s n) n x 0 true (coreAt s n).pc (coreAt s n).pc) := by
  intro hr
  rw [exec_tld_core, access_fault hr hs]
theorem tst_fault (hs : spotOf s n (effAddr (.core n) sa imm s) 32 true = .fault x) :
    Gives (.core n) (.tst (.core n) tn sa imm) s (takeExc (disarm s n) n x 0 true (coreAt s n).pc (coreAt s n).pc) := by
  intro hr
  rw [exec_tst_core, access_fault hr hs]

theorem ld_stall {g : Gal} (hs : spotOf s n (effAddr (.core n) sa imm s) (Size.bytes size) false = .stall g) :
    Gives (.core n) (.ld (.core n) size signed .none sd sa imm) s (holdFor (addStall (disarm s n) (.core n) g
      (effAddr (.core n) sa imm s) false false 0) n (.ld (.core n) size signed .none sd sa imm)) := by
  intro hr
  rw [exec_ld_core, access_stall hr hs]
theorem st_stall {g : Gal} (hs : spotOf s n (effAddr (.core n) sa imm s) (Size.bytes size) true = .stall g) :
    Gives (.core n) (.st (.core n) size sd sa imm) s (holdFor (addStall (disarm s n) (.core n) g
      (effAddr (.core n) sa imm s) true false 0) n (.st (.core n) size sd sa imm)) := by
  intro hr
  rw [exec_st_core, access_stall hr hs]

/-- A load from a poisoned line. -/
theorem ld_poisoned {pa : Nat} {sram : Bool} (hs : spotOf s n (effAddr (.core n) sa imm s) (Size.bytes size) false = .mem pa sram)
    (hl : sram = true ∨ effAddr (.core n) sa imm s < 2 ^ 49) (hp : s.mem.isPoisoned (pa / 64) = true) :
    Gives (.core n) (.ld (.core n) size signed .none sd sa imm) s
      (takeExc (disarm s n) n (excPoison (effAddr (.core n) sa imm s)) 0 true (coreAt s n).pc (coreAt s n).pc) := by
  intro hr
  rw [exec_ld_core, load_poisoned hr hs hl hp]
theorem tld_poisoned {pa : Nat} {sram : Bool} (hs : spotOf s n (effAddr (.core n) sa imm s) 32 false = .mem pa sram)
    (hl : sram = true ∨ effAddr (.core n) sa imm s < 2 ^ 49) (hp : s.mem.isPoisoned (pa / 64) = true) :
    Gives (.core n) (.tld (.core n) tn sa imm) s
      (takeExc (disarm s n) n (excPoison (effAddr (.core n) sa imm s)) 0 true (coreAt s n).pc (coreAt s n).pc) := by
  intro hr
  rw [exec_tld_core, load_poisoned hr hs hl hp]

/-- An access of 32 bytes in device register space traps. -/
theorem tld_register (hs : spotOf s n (effAddr (.core n) sa imm s) 32 false = .register) :
    Gives (.core n) (.tld (.core n) tn sa imm) s (takeExc (setT n tn 0 (fell (.core n) s)) n
      (excAccess (effAddr (.core n) sa imm s)) 0 false (coreAt s n).pc ((coreAt s n).pc + 8)) := by
  intro hr
  rw [exec_tld_core, issueCore_trap hr (accessEff_register hs), retire_setT]
  rfl
theorem tst_register (hs : spotOf s n (effAddr (.core n) sa imm s) 32 true = .register) :
    Gives (.core n) (.tst (.core n) tn sa imm) s (takeExc (fell (.core n) s) n
      (excAccess (effAddr (.core n) sa imm s)) 0 false (coreAt s n).pc ((coreAt s n).pc + 8)) := by
  intro hr
  rw [exec_tst_core, issueCore_trap hr (accessEff_register hs), retire_disarm]
  rfl

/-- Where an access in the Cask or the Reserve lies. -/
theorem spot_local {a k pa : Nat} {w : Bool} (hk : 0 < k) (ha : a % k = 0)
    (h : (2 ^ 48 ≤ a ∧ a + k ≤ 2 ^ 48 + 0x600000 ∧ pa = caskBase n.val + (a - 2 ^ 48)) ∨
      (2 ^ 49 ≤ a ∧ a + k ≤ 2 ^ 49 + 0x1000000 ∧ pa = reserveBase (n.val / 8) + (a - 2 ^ 49))) :
    spotOf s n a k w = .mem pa true := by
  rcases h with ⟨h0, h1, hpa⟩ | ⟨h0, h1, hpa⟩
  · exact hpa ▸ spotOf_cask h0 h1 hk ha
  · exact hpa ▸ spotOf_reserve h0 h1 hk ha

/-- An access outside every window, or in a memory window and not aligned. -/
theorem spot_address {a k : Nat} {w : Bool}
    (h : (¬ (a + k ≤ 2 ^ 48) ∧ ¬ (2 ^ 48 ≤ a ∧ a + k ≤ 2 ^ 48 + 0x600000) ∧ ¬ (2 ^ 49 ≤ a ∧ a + k ≤ 2 ^ 49 + 0x1000000) ∧
        ¬ (3 * 2 ^ 48 ≤ a ∧ a + k ≤ 3 * 2 ^ 48 + 2 ^ 32)) ∨ (a + k ≤ 2 ^ 49 + 0x1000000 ∧ a % k ≠ 0)) :
    spotOf s n a k w = .fault (excAddress a) := by
  rcases h with ⟨h0, h1, h2, h3⟩ | ⟨h, ha⟩
  · exact spotOf_outside (winOf_none h0 h1 h2 h3)
  · exact spotOf_misaligned h ha

end faults

theorem sramAt_cask {n : CoreId} {a : Nat} (h0 : 2 ^ 48 ≤ a) (h1 : a < 2 ^ 49) : sramAt n a = caskBase n.val + (a - 2 ^ 48) := by
  rw [sramAt]
  refine (if_pos h1).trans ?_
  change caskBase n.val + a % 2 ^ 48 = _
  omega

theorem sramAt_reserve {n : CoreId} {a : Nat} (h0 : 2 ^ 49 ≤ a) (h1 : a < 3 * 2 ^ 48) :
    sramAt n a = reserveBase (n.val / 8) + (a - 2 ^ 49) := by
  rw [sramAt]
  refine (if_neg (Nat.not_lt.mpr h0)).trans ?_
  change reserveBase (n.val / 8) + a % 2 ^ 48 = _
  omega

/-- Settles O10: the place of an access decides between its effect in memory and its fault. -/
theorem storesAtomicsAndFaults : Obligations.StoresAtomicsAndFaults := by
  refine ⟨⟨?_, fun m pa x bs => ⟨fun hx => m.byte_store_outside false hx, fun hd h0 h1 => ?_⟩,
    fun k v => ⟨length_leBytes k v, leNat_leBytes k v⟩⟩, ?_, ?_⟩
  · intro n size sd sa tn imm s pa h ea k gal cask reserve i j put bs ts
    have hk : k = Size.bytes size := by cases size <;> rfl
    clear_value k
    subst hk
    have hb := bytesOf_st n size sd s
    have ht := bytesOf_tst n tn s
    refine ⟨fun ha hm hr => ?_, fun ha hm hr => ?_, fun ha hm hr => ?_, fun ha hm hr => ?_, fun ha hm hq hr => ?_⟩
    · rw [exec_st_core]
      exact congrArg Host.Outcome.next (store_outside_reserve (bs := fun s => leBytes (Size.bytes size) (getS (.core n) sd s).toNat) hr hb
        (size_pos size) (length_leBytes _ _) rfl ha hm)
    · rw [exec_st_core]
      exact congrArg Host.Outcome.next (store_reserve (bs := fun s => leBytes (Size.bytes size) (getS (.core n) sd s).toNat) hr hb
        (size_pos size) (length_leBytes _ _) rfl ha hm)
    · rw [exec_tst_core]
      exact congrArg Host.Outcome.next (store_outside_reserve (bs := fun s => leBytes 32 (coreAt s n).t[tn].toNat) hr ht (by decide)
        (length_leBytes _ _) rfl ha hm)
    · rw [exec_tst_core]
      exact congrArg Host.Outcome.next (store_reserve (bs := fun s => leBytes 32 (coreAt s n).t[tn].toNat) hr ht (by decide)
        (length_leBytes _ _) rfl ha hm)
    · exact st_hold hr (spot_local (size_pos size) ha (.inl hm)) hq
  · exact Memory.byte_store_inside (Memory.alive_of_dead_nil hd _ _) false h0 h1
  · intro n op sd sa imm s pa h ea i old x new put
    have hnew : amoOp op old x = new := amoOp_eq op old x
    refine ⟨fun ha h0 h1 hpa hp hq hr => ?_, fun ha h0 h1 hpa hp hr => ?_, fun ho hr => ?_⟩
    · have hin := (inCaskOrReserve_iff ea).mpr (.inl ⟨h0, h1⟩)
      have hs : sramAt n ea = pa := (sramAt_cask h0 (by omega)).trans hpa.symm
      refine (amo_done hr ha hin hs hp hq).trans ?_
      rw [show amoOp op (mem64 s.mem pa) (getS (.core n) sd s) = new from hnew,
        logSram_below (a := effAddr (.core n) sa imm s) (show ea < 2 ^ 49 by omega)]
      rfl
    · have hin := (inCaskOrReserve_iff ea).mpr (.inr ⟨h0, h1⟩)
      obtain ⟨-, hq, hl⟩ := spot_reserve (s := s) (n := n) (w := true) (k := 8) (by decide) ha ⟨h0, h1, hpa⟩ i
      have hs : sramAt n ea = pa := (sramAt_reserve h0 (by omega)).trans hpa.symm
      refine (amo_done hr ha hin hs hp hq).trans ?_
      rw [show amoOp op (mem64 s.mem pa) (getS (.core n) sd s) = new from hnew,
        show logSram s n (.amo (.core n) op sd sa imm) (effAddr (.core n) sa imm s) = logReserve s n i [] from hl]
      rfl
    · refine amo_address hr (ho.imp_right fun ho => Bool.eq_false_iff.mpr fun hin => ?_)
      have := (inCaskOrReserve_iff ea).mp hin
      omega
  · intro n size signed sd sa tn imm s h ea a k pc ld st tl ts exc outside inMemory
    have hk : k = Size.bytes size := by cases size <;> rfl
    clear_value k
    subst hk
    refine ⟨fun ho => ⟨ld_fault (spot_address ho), st_fault (spot_address ho)⟩,
      fun ho => ⟨tld_fault (spot_address ho), tst_fault (spot_address ho)⟩, fun g ho => ⟨fun hg ha => ?_, fun hg ha => ?_⟩,
      fun pa hp => ⟨fun ha hl => ld_poisoned (spot_local (size_pos size) ha hl) (.inl rfl) hp,
        fun ha hl => tld_poisoned (spot_local (by decide) ha hl) (.inl rfl) hp⟩,
      fun h0 h1 => ⟨tld_register (spotOf_register h0 h1 (by decide)), tst_register (spotOf_register h0 h1 (by decide))⟩⟩
    · have spot {w : Bool} {r : Xlate} := spotOf_gallery (s := s) (n := n) (w := w) (r := r) hg ha ho
      exact ⟨fun ht => ld_fault (spot ht), fun ht => st_fault (spot ht), fun ht => ld_fault (spot ht),
        fun ht => st_fault (spot ht), fun ht => st_fault (spot ht), fun ht => ld_stall (spot ht),
        fun ht => st_stall (spot ht),
        fun pa ht hp => ld_poisoned (spot ht) (.inr (show ea < 2 ^ 49 by omega)) hp⟩
    · have spot {w : Bool} {r : Xlate} := spotOf_gallery (s := s) (n := n) (w := w) (r := r) hg ha ho
      exact ⟨fun ht => tst_fault (spot ht),
        fun pa ht hp => tld_poisoned (spot ht) (.inr (show ea < 2 ^ 49 by omega)) hp⟩

end Sys2Proof.Machine
end

section
/-! PROOFS. Tile descriptors: element addresses, extremes, the checks at acceptance, and the moves of tile registers. -/

namespace Sys2Proof.Machine

/-! ### Element addresses (R195, R200) and the extremes of a descriptor (R196) -/

theorem fmtBits_cases (f : Fmt) : fmtBits f = 4 ∧ f = .e2m1 ∨ fmtBits f = 8 ∨ fmtBits f = 16 ∨ fmtBits f = 32 := by
  cases f <;> decide

theorem cdiv_128 (n : Nat) : cdiv n 128 = (n + 127) / 128 := by unfold cdiv; omega

section addresses
variable (t : Tile) (i0 i1 i2 i3 : Nat)

theorem bitAddr_linear (h : t.layout = 0) : t.bitAddr i0 i1 i2 i3 =
    8 * (t.base : Int) + i0 * t.s0 * t.ebits + 512 * (i1 * t.s1 + i2 * t.s2 + i3 * t.s3) := if_pos h

/-- The number of the tile that holds an element, and its byte within its tile (R200). -/
def Tile.tileIdx (t : Tile) (i0 i1 : Nat) : Nat := if t.layout = 1 then i1 / 128 * t.colsT + i0 / 128 else i0 / 128 * t.rowsT + i1 / 128
def Tile.inTile (t : Tile) (i0 i1 : Nat) : Nat := 4 * (128 * (i0 % 128 / t.quad) + i1 % 128)

theorem bitAddr_blocked (h : t.layout ≠ 0) : t.bitAddr i0 i1 i2 i3 =
    8 * ((t.base + (t.tbytes * t.tileIdx i0 i1 + t.inTile i0 i1) : Nat) : Int) + (i0 % 128 % t.quad * t.ebits : Nat)
      + 512 * (i2 * t.s2 + i3 * t.s3) := if_neg h

/-- A dimension's contribution lies between its extremes. -/
theorem span_bounds {n i : Nat} (hi : i < n) (s : Int) : spanLo n s ≤ i * s ∧ (i : Int) * s ≤ spanHi n s := by
  have h0 : (0 : Int) ≤ i := by omega
  have h1 : (i : Int) ≤ (n : Int) - 1 := by omega
  rcases le_total 0 s with hs | hs
  · exact ⟨min_le_of_left_le (mul_nonneg h0 hs), le_max_of_le_right (mul_le_mul_of_nonneg_right h1 hs)⟩
  · exact ⟨min_le_of_right_le (mul_le_mul_of_nonpos_right h1 hs), le_max_of_le_left (mul_nonpos_of_nonneg_of_nonpos h0 hs)⟩

/-- An element of a Blocked-128 descriptor lies in its tile, and its tile in the plane. -/
theorem blocked_fits {t : Tile} {i0 i1 : Nat} (h0 : i0 < t.n0) (h1 : i1 < t.n1) :
    8 * (t.tbytes * t.tileIdx i0 i1 + t.inTile i0 i1) + i0 % 128 % t.quad * t.ebits + t.ebits ≤ 8 * (t.tbytes * t.rowsT * t.colsT) := by
  have hidx : t.tileIdx i0 i1 + 1 ≤ t.rowsT * t.colsT := by
    have hr : i1 / 128 + 1 ≤ t.rowsT := by rw [Tile.rowsT, cdiv_128]; omega
    have hc : i0 / 128 + 1 ≤ t.colsT := by rw [Tile.colsT, cdiv_128]; omega
    unfold Tile.tileIdx
    split
    · nlinarith [Nat.mul_le_mul_right t.colsT hr]
    · nlinarith [Nat.mul_le_mul_left t.rowsT hc]
  have hin : 8 * t.inTile i0 i1 + i0 % 128 % t.quad * t.ebits + t.ebits ≤ 8 * t.tbytes := by
    unfold Tile.inTile Tile.tbytes Tile.quad Tile.ebits
    rcases fmtBits_cases t.format with ⟨h, -⟩ | h | h | h <;> rw [h] <;> omega
  have := Nat.mul_le_mul_left t.tbytes hidx
  rw [Nat.mul_succ, ← Nat.mul_assoc] at this
  omega

theorem element_in_range {t : Tile} {i0 i1 i2 i3 : Nat} (h0 : i0 < t.n0) (h1 : i1 < t.n1) (h2 : i2 < t.n2) (h3 : i3 < t.n3)
    (hf : t.format ≠ .sf16) :
    t.range.1 ≤ t.bitAddr i0 i1 i2 i3 / 8 ∧ (t.bitAddr i0 i1 i2 i3 + t.ebits - 1) / 8 ≤ t.range.2 := by
  obtain ⟨l2, u2⟩ := span_bounds h2 t.s2
  obtain ⟨l3, u3⟩ := span_bounds h3 t.s3
  by_cases hl : t.layout = 0
  · obtain ⟨l0, u0⟩ := span_bounds h0 t.s0
    obtain ⟨l1, u1⟩ := span_bounds h1 t.s1
    have he : (0 : Int) ≤ t.ebits := by omega
    have l0 := mul_le_mul_of_nonneg_right l0 he
    have u0 := mul_le_mul_of_nonneg_right u0 he
    rw [bitAddr_linear _ _ _ _ _ hl, Tile.range, if_neg hf, if_pos hl]
    exact ⟨Int.ediv_le_ediv (by decide) (by omega), Int.ediv_le_ediv (by decide) (by omega)⟩
  · have hfit := blocked_fits h0 h1
    rw [bitAddr_blocked _ _ _ _ _ hl, Tile.range, if_neg hf, if_neg hl]
    have hcast : (t.tbytes : Int) * t.rowsT * t.colsT = (t.tbytes * t.rowsT * t.colsT : Nat) := by push_cast; rfl
    rw [hcast]
    generalize t.tbytes * t.rowsT * t.colsT = plane at hfit ⊢
    generalize t.tbytes * t.tileIdx i0 i1 + t.inTile i0 i1 = off at hfit ⊢
    generalize i0 % 128 % t.quad * t.ebits = inner at hfit ⊢
    constructor <;> omega
end addresses

/-! ### The checks at acceptance (R197, R201, R206, R222) -/

theorem basicChecks_eq_nil {d : BitVec 256} {one : Bool} {ok : Int → Int → Bool} : basicChecks (tileOf d) one ok = [] ↔
    bit d 255 = true ∧ bits d 254 229 = 0 ∧ (tileOf d).fmt < 12 ∧ (tileOf d).pad < 2 ∧ (tileOf d).layout < 3 ∧
      0 < (tileOf d).n0 ∧ 0 < (tileOf d).n1 ∧ 0 < (tileOf d).n2 ∧ 0 < (tileOf d).n3 ∧
      ok (tileOf d).range.1 (tileOf d).range.2 = true ∧ (tileOf d).base % 64 = 0 ∧
      ((tileOf d).layout = 0 → one = true ∨ (tileOf d).format = .e2m1 → (tileOf d).s0 = 1) ∧
      ((tileOf d).layout ≠ 0 → (tileOf d).base % (2048 * (tileOf d).ebits) = 0 ∧ (tileOf d).s0 = 1 ∧ (tileOf d).s1 = 0 ∧
        ((32 * (tileOf d).ebits : Nat) : Int) ∣ (tileOf d).s2 ∧ ((32 * (tileOf d).ebits : Nat) : Int) ∣ (tileOf d).s3 ∧
        (tileOf d).format ≠ .e8m0 ∧ (tileOf d).format ≠ .sf16) := by
  have hl : (tileOf d).layout < 4 := bits_lt d 225 224
  have hb : (tileOf d).tbytes / 64 = 32 * (tileOf d).ebits := by unfold Tile.tbytes; omega
  have hv : (tileOf d).valid = bit d 255 := rfl
  have hr : (tileOf d).reserved = bits d 254 229 := rfl
  generalize tileOf d = t at hl hb hv hr ⊢
  have nil {c : Prop} [Decidable c] {k : Nat} : (if c then [k] else []) = ([] : List Nat) ↔ ¬c := by split <;> simp_all
  have nil' {c : Prop} [Decidable c] {k : Nat} : (if c then [] else [k]) = ([] : List Nat) ↔ c := by split <;> simp_all
  simp only [basicChecks, List.append_eq_nil_iff, nil, nil', hv, hr, hb, Int.dvd_iff_emod_eq_zero]
  have h3 : ¬t.layout = 3 ↔ t.layout < 3 := by omega
  by_cases h0 : t.layout = 0
  · simp only [h0, Tile.tbytes, if_true, Bool.or_eq_true, Bool.not_eq_true', Bool.and_eq_true, decide_eq_true_eq, not_or, not_and, not_not,
      ne_eq, not_true_eq_false, false_and, false_imp_iff, or_false, and_true, not_le, Nat.pos_iff_ne_zero, Bool.not_eq_false]
    tauto
  · simp only [h0, h3, Tile.tbytes, if_false, Bool.or_eq_true, Bool.not_eq_true', decide_eq_true_eq, not_or, not_not,
      ne_eq, not_false_eq_true, true_and, false_imp_iff, true_imp_iff, not_le, Nat.pos_iff_ne_zero, Bool.not_eq_false]
    tauto

theorem operandChecks_eq_nil {reg : Nat} {d sc : BitVec 256} {one : Bool} {ok : Int → Int → Bool} :
    operandChecks reg d sc one ok = [] ↔ basicChecks (tileOf d) one ok = [] ∧
      ((tileOf d).mx = true → reg % 2 = 0 ∧ basicChecks (tileOf sc) true ok = [] ∧ (tileOf d).format.isMx = true ∧
        (tileOf sc).mx = false ∧ (tileOf sc).fmt = 10 ∧ (tileOf sc).layout = 0 ∧ (tileOf sc).n2 = (tileOf d).n2 ∧
        (tileOf sc).n3 = (tileOf d).n3 ∧
        (((tileOf sc).n0 = ((tileOf d).n0 + 31) / 32 ∧ (tileOf sc).n1 = (tileOf d).n1) ∨
          ((tileOf sc).n0 = (tileOf d).n0 ∧ (tileOf sc).n1 = ((tileOf d).n1 + 31) / 32))) := by
  have h32 (n : Nat) : cdiv n 32 = (n + 31) / 32 := by unfold cdiv; omega
  unfold operandChecks
  generalize tileOf d = t
  generalize tileOf sc = u
  have hdim : blockDim t u ≠ none ↔ u.n2 = t.n2 ∧ u.n3 = t.n3 ∧
      ((u.n0 = (t.n0 + 31) / 32 ∧ u.n1 = t.n1) ∨ (u.n0 = t.n0 ∧ u.n1 = (t.n1 + 31) / 32)) := by
    simp only [blockDim, h32]
    split_ifs <;> simp_all
  simp only [List.append_eq_nil_iff, List.map_eq_nil_iff]
  cases t.mx
  · simp
  · rcases Nat.mod_two_eq_zero_or_one reg with hr | hr
    · simp only [hr, ← hdim]
      simp [and_assoc]
    · simp [hr]

theorem lowestCode_eq_none {l : List (Nat × Nat)} : lowestCode l = none ↔ l = [] := by
  cases l with
  | nil => simp [lowestCode]
  | cons f l =>
    obtain ⟨k, r⟩ := f
    simp only [lowestCode, reduceCtorEq, iff_false]
    split <;> simp

/-- The lowest code of a list of failures occurs in it. -/
theorem lowestCode_eq_some {l : List (Nat × Nat)} {c : Nat} (h : lowestCode l = some c) :
    (∃ r, (c, r) ∈ l) ∧ ∀ f ∈ l, c ≤ f.1 := by
  induction l generalizing c with
  | nil => simp [lowestCode] at h
  | cons f l ih =>
    obtain ⟨k, r⟩ := f
    simp only [lowestCode] at h
    cases hl : lowestCode l with
    | none =>
      rw [hl] at h
      obtain rfl := Option.some.inj h
      refine ⟨⟨r, List.mem_cons_self⟩, fun f hf => ?_⟩
      rcases List.mem_cons.mp hf with rfl | hf
      · exact le_rfl
      · exact absurd hf (by rw [lowestCode_eq_none.mp hl]; exact List.not_mem_nil)
    | some e =>
      obtain ⟨⟨q, hq⟩, hlow⟩ := ih hl
      rw [hl] at h
      obtain rfl := Option.some.inj h
      refine ⟨?_, fun f hf => ?_⟩
      · rcases min_choice k e with hm | hm <;> rw [hm]
        · exact ⟨r, List.mem_cons_self⟩
        · exact ⟨q, List.mem_cons_of_mem _ hq⟩
      · rcases List.mem_cons.mp hf with rfl | hf
        · exact min_le_left _ _
        · exact (min_le_right _ _).trans (hlow f hf)

theorem descFault_eq_some {s : State} {fails : List (Nat × Nat)} {x : Exc} (h : descFault s fails = some x) :
    ∃ c r, (c, r) ∈ fails ∧ (∀ f ∈ fails, c ≤ f.1) ∧ x = { code := 7, einfo := mkWord [(0, r), (8, c)] } := by
  unfold descFault at h
  obtain ⟨c, hc, rfl⟩ := Option.map_eq_some_iff.mp h
  obtain ⟨⟨r, hr⟩, hlow⟩ := lowestCode_eq_some hc
  generalize hregs : (fails.filter (fun f => decide (f.1 = c))).map Prod.snd = regs
  have hpos : 0 < regs.length := by
    rw [← hregs]
    refine List.length_pos_of_mem (a := r) (List.mem_map.mpr ⟨(c, r), ?_, rfl⟩)
    simp [hr]
  have hidx := Nat.mod_lt (Config.freeWord s.free).toNat hpos
  have hmem := List.getElem_mem hidx
  have hmap : regs[(Config.freeWord s.free).toNat % regs.length] ∈ (fails.filter (fun f => decide (f.1 = c))).map Prod.snd := by
    rw [hregs]
    exact hmem
  obtain ⟨f, hf, hfr⟩ := List.mem_map.mp hmap
  obtain ⟨hfm, hfc⟩ := List.mem_filter.mp hf
  refine ⟨c, f.2, ?_, hlow, ?_⟩
  · rw [← of_decide_eq_true hfc]
    exact hfm
  · change excDescriptor (regs.getD ((Config.freeWord s.free).toNat % regs.length) 0) c = _
    rw [List.getD_eq_getElem _ _ hidx, ← hfr]
    rfl

/-! ### The words of a tile register (R79) -/

/-- The words of a descriptor determine it. -/
theorem desc_ext {v w : BitVec 256} (h : ∀ k : Fin 4, v.extractLsb' (64 * k.val) 64 = w.extractLsb' (64 * k.val) 64) : v = w := by
  apply BitVec.eq_of_getLsbD_eq
  intro i hi
  have := congrArg (fun x => x.getLsbD (i % 64)) (h ⟨i / 64, by omega⟩)
  simpa [Nat.mod_lt, Nat.div_add_mod] using this

theorem descWord_setDescWord (d : BitVec 256) (w k : Fin 4) (v : Word) :
    (setDescWord d w v).extractLsb' (64 * k.val) 64 = if k = w then v else d.extractLsb' (64 * k.val) 64 := by
  apply BitVec.eq_of_getLsbD_eq
  intro i hi
  simp only [setDescWord, BitVec.getLsbD_extractLsb', BitVec.getLsbD_or, BitVec.getLsbD_and, BitVec.getLsbD_not, BitVec.getLsbD_shiftLeft,
    BitVec.getLsbD_setWidth, BitVec.getLsbD_ofNat, Nat.testBit_shiftLeft, Nat.testBit_two_pow_sub_one]
  have hk : 64 * k.val + i < 256 := by omega
  simp only [hi, hk, decide_true, Bool.true_and]
  rcases lt_trichotomy k w with hlt | rfl | hgt
  · have hlt' : 64 * k.val + i < 64 * w.val := by have : k.val < w.val := hlt; omega
    simp [hlt.ne, hlt', hi]
  · simp [hi, show i < 256 by omega]
  · have hge : 64 * w.val + 64 ≤ 64 * k.val + i := by have : w.val < k.val := hgt; omega
    rw [if_neg hgt.ne', BitVec.getLsbD_of_ge v _ (by omega), decide_eq_false (show ¬64 * k.val + i - 64 * w.val < 64 by omega)]
    simp [hi]


/-- An instruction that only a context has, on a management core. -/
theorem issue_ctxOnly_mgmt {k : Fin 4} {i : Instr} {cls : Nat} {f : CoreId → State → Eff} {s : State} (hr : Ready (.mgmt k) i s) :
    issue (.mgmt k) i cls (ctxOnly (.mgmt k) f) s = report (disarmed (.mgmt k) s) { kind := 0x1A, cls := 5, unit := 13 } := by
  obtain ⟨hl, hc⟩ := hr
  simp only at hc
  simp [issue, issueMgmt, hc, hl, ctxOnly, disarmed, mgmtExc]

section moves
variable {n : CoreId} {sd sa : SReg} {tn : TReg} {w : Fin 4} {s : State}

theorem exec_tset_core : exec (.tset (.core n) tn sa w) s = .next (issueCore n (.tset (.core n) tn sa w) 0
    (fun s => .done (setT n tn (setDescWord (coreAt s n).t[tn] w (getS (.core n) sa s)) s)) s) := rfl

theorem exec_tget_core : exec (.tget (.core n) sd tn w) s = .next (issueCore n (.tget (.core n) sd tn w) 0
    (fun s => .done (setS (.core n) sd (descWord (coreAt s n).t[tn] w) s)) s) := rfl

theorem tset_retires {v : BitVec 256} (hr : Ready (.core n) (.tset (.core n) tn sa w) s)
    (hv : ∀ k : Fin 4, v.extractLsb' (64 * k.val) 64
      = if k = w then getS (.core n) sa s else (coreAt s n).t[tn].extractLsb' (64 * k.val) 64) :
    exec (.tset (.core n) tn sa w) s = .next (setT n tn v (fell (.core n) s)) := by
  have hd : setDescWord (coreAt s n).t[tn] w (getS (.core n) sa s) = v :=
    desc_ext fun k => (descWord_setDescWord _ w k _).trans (hv k).symm
  rw [exec_tset_core, issueCore_done hr (t := setT n tn v (disarm s n)) ?_, retire_setT]
  · rfl
  · simp only [t_disarm, getS_disarm, hd]

theorem tget_retires (hr : Ready (.core n) (.tget (.core n) sd tn w) s) : exec (.tget (.core n) sd tn w) s =
    .next (setS (.core n) sd ((coreAt s n).t[tn].extractLsb' (64 * w.val) 64) (fell (.core n) s)) := by
  rw [exec_tget_core, issueCore_done hr (t := setS (.core n) sd ((coreAt s n).t[tn].extractLsb' (64 * w.val) 64) (disarm s n)) ?_, retire_setS]
  · rfl
  · simp only [descWord, t_disarm]

end moves

/-- Settles O19: the addresses and extremes by layout, each check by its code, and the words of a tile register. -/
theorem tileDescriptors : Obligations.TileDescriptors := by
  refine ⟨⟨fun d i0 i1 i2 i3 => ?_, fun d one ok => basicChecks_eq_nil, fun reg d sc one ok => operandChecks_eq_nil,
    fun s fails x => descFault_eq_some⟩, fun n tn sa w s v hv hr => ?_, fun n sd tn w s hr => ?_, fun k sd sa tn w s => ⟨fun hr => ?_, fun hr => ?_⟩⟩
  · generalize tileOf d = t
    refine ⟨fun hl he => ?_, fun hl hf hs => ?_, fun hl1 hl2 _ _ _ => ?_, fun h0 h1 h2 h3 hf _ _ => element_in_range h0 h1 h2 h3 hf⟩
    · rw [bitAddr_linear t _ _ _ _ hl]
      have h8 : (t.ebits : Int) = 8 * (t.ebits / 8 : Nat) := by
        unfold Tile.ebits at he ⊢
        rcases fmtBits_cases t.format with ⟨h, -⟩ | h | h | h <;> rw [h] at he ⊢ <;> omega
      rw [h8]
      ring
    · have h4 : (t.ebits : Int) = 4 := by rw [Tile.ebits, hf]; rfl
      have h2 : (i0 : Int) = 2 * (i0 / 2 : Nat) + (i0 % 2 : Nat) := by omega
      rw [bitAddr_linear t _ _ _ _ hl, hs, h4]
      linear_combination 4 * h2
    · rw [bitAddr_blocked t _ _ _ _ (by omega)]
      have hb : 16384 * t.ebits / 8 = t.tbytes := by unfold Tile.tbytes; omega
      simp only [hb, Tile.tileIdx, Tile.inTile, Tile.quad, Tile.colsT, Tile.rowsT, cdiv_128]
      push_cast
      ring
  · exact tset_retires hr hv
  · exact tget_retires hr
  · exact congrArg Host.Outcome.next (issue_ctxOnly_mgmt hr)
  · exact congrArg Host.Outcome.next (issue_ctxOnly_mgmt hr)

end Sys2Proof.Machine
end

section
/-! PROOFS. Acceptance of the matrix instructions (R52, R91 to R97, R118, R204, R207). -/

namespace Sys2Proof.Machine

/-! ### Uses logged beside a change of the core that leaves its pc (R388) -/

section uses
variable (s : State) (n : CoreId) (i : Instr) (ds : List (BitVec 256)) {f : Core → Core}

theorem useOf_modCore (hf : ∀ c, (f c).pc = c.pc) : useOf (modCore s n f) n i ds = useOf s n i ds := by
  unfold useOf
  rw [coreAt_modCore, hf]
  rfl

theorem logEngine_modCore (hf : ∀ c, (f c).pc = c.pc) : logEngine (modCore s n f) n i ds = modCore (logEngine s n i ds) n f := by
  unfold logEngine
  rw [useOf_modCore s n i ds hf]
  cases useOf s n i ds <;> rfl

theorem logReserve_modCore (hf : ∀ c, (f c).pc = c.pc) : logReserve (modCore s n f) n i ds = modCore (logReserve s n i ds) n f := by
  unfold logReserve logReserveOf
  rw [useOf_modCore s n i ds hf]
  cases useOf s n i ds <;> rfl

theorem logEngine_rest : logEngine s n i ds = { s with engLog := (logEngine s n i ds).engLog } := by
  unfold logEngine
  cases useOf s n i ds <;> rfl

end uses

/-- The uses that a matrix instruction logs. -/
def matrixUse (n : CoreId) (i : Instr) (e : MEntry) (x : State) : State :=
  let y := logEngine x n i ([e.ts, e.tsScale, e.tw, e.twScale].filter (fun d => decide (d ≠ 0)))
  if inReserve (tileOf e.tw).range.1 (tileOf e.tw).range.2 = true ∧ e.tw ≠ 0 then logReserve y n i [e.tw, e.twScale] else y

theorem matrixUse_modCore (s : State) (n : CoreId) (i : Instr) (e : MEntry) {f : Core → Core} (hf : ∀ c, (f c).pc = c.pc) :
    matrixUse n i e (modCore s n f) = modCore (matrixUse n i e s) n f := by
  unfold matrixUse
  simp only [logEngine_modCore s n i _ hf, logReserve_modCore _ n i _ hf]
  split <;> rfl

theorem matrixUse_disarm (s : State) (n : CoreId) (i : Instr) (e : MEntry) :
    matrixUse n i e (disarm s n) = disarm (matrixUse n i e s) n :=
  matrixUse_modCore s n i e fun c => by cases h : c.launchPend <;> simp

@[simp] theorem cores_matrixUse (s : State) (n : CoreId) (i : Instr) (e : MEntry) : (matrixUse n i e s).cores = s.cores := by
  unfold matrixUse
  simp only
  split
  · rw [cores_logReserve, logEngine_rest]
  · rw [logEngine_rest]

@[simp] theorem coreAt_matrixUse (s : State) (n m : CoreId) (i : Instr) (e : MEntry) : coreAt (matrixUse n i e s) m = coreAt s m := by
  simp [coreAt]

/-! ### Acceptance into the matrix queue (R52, R91) -/

theorem descFault_eq_none {s : State} {l : List (Nat × Nat)} : descFault s l = none ↔ l = [] := by
  rw [descFault, Option.map_eq_none_iff, lowestCode_eq_none]

/-- A core with another matrix queue, and with other records of its buffers. -/
def queueCore (q : List MEntry) (c : Core) : Core := { c with mq := q }
def recsCore (r : Vector BufRec 2) (c : Core) : Core := { c with stbRec := r }

/-- What a matrix instruction does at issue. -/
def acceptEff (i : Instr) (checks : CoreId → State → List (Nat × Nat)) (entry : CoreId → State → MEntry)
    (after : CoreId → State → State) (n : CoreId) (s : State) : Eff :=
  if 4 ≤ (coreAt s n).mq.length then .hold s
  else
    match descFault s (checks n s) with
    | some x => .fault x
    | none => .done (after n (matrixUse n i (entry n s) (modCore s n (fun c => queueCore (c.mq ++ [entry n s]) c))))

theorem acceptM_core (n : CoreId) (i : Instr) (checks : CoreId → State → List (Nat × Nat)) (entry : CoreId → State → MEntry)
    (after : CoreId → State → State) (s : State) :
    acceptM (.core n) i checks entry after s = issueCore n i 3 (acceptEff i checks entry after n) s := rfl

section accept
variable {n : CoreId} {i : Instr} {checks : CoreId → State → List (Nat × Nat)} {entry : CoreId → State → MEntry}
  {after : CoreId → State → State} {s : State}

theorem acceptM_fault {ck : List (Nat × Nat)} (hlen : (coreAt s n).mq.length < 4) (hck : checks n (disarm s n) = ck) (hne : ck ≠ []) :
    ∃ code r, (code, r) ∈ ck ∧ (∀ x ∈ ck, code ≤ x.1) ∧ (Ready (.core n) i s → acceptM (.core n) i checks entry after s =
      takeExc (disarm s n) n { code := 7, einfo := mkWord [(0, r), (8, code)] } 3 true (coreAt s n).pc (coreAt s n).pc) := by
  obtain ⟨x, hx⟩ : ∃ x, descFault (disarm s n) ck = some x :=
    Option.ne_none_iff_exists'.mp fun h => hne (descFault_eq_none.mp h)
  obtain ⟨code, r, hm, hlow, rfl⟩ := descFault_eq_some hx
  refine ⟨code, r, hm, hlow, fun hr => ?_⟩
  rw [acceptM_core, issueCore_fault hr]
  simp only [acceptEff, mq_disarm, if_neg (Nat.not_le.mpr hlen), hck, hx]

section ready
variable (hr : Ready (.core n) i s)
include hr

theorem acceptM_hold (hlen : 4 ≤ (coreAt s n).mq.length) : acceptM (.core n) i checks entry after s = holdFor (disarm s n) n i := by
  rw [acceptM_core, issueCore_hold hr]
  simp only [acceptEff, mq_disarm, if_pos hlen]

/-- The instruction is accepted: its entry joins the queue, and the records of the buffers are `recs`. -/
theorem acceptM_done (hlen : (coreAt s n).mq.length < 4) (hck : checks n (disarm s n) = []) {e : MEntry} (he : entry n (disarm s n) = e)
    {recs : Vector BufRec 2} (ha : ∀ x, coreAt x n = queueCore ((coreAt s n).mq ++ [e]) (disarmC (coreAt s n)) →
      after n x = modCore x n (recsCore recs)) :
    acceptM (.core n) i checks entry after s = modCore (fell (.core n) (matrixUse n i e s)) n
      (fun c => recsCore recs (queueCore ((coreAt s n).mq ++ [e]) c)) := by
  have hq : modCore (disarm s n) n (fun c => queueCore (c.mq ++ [e]) c) = modCore (disarm s n) n (queueCore ((coreAt s n).mq ++ [e])) :=
    modCore_congr _ _ _ _ (by rw [mq_disarm])
  have hx : coreAt (matrixUse n i e (modCore (disarm s n) n (queueCore ((coreAt s n).mq ++ [e])))) n =
      queueCore ((coreAt s n).mq ++ [e]) (disarmC (coreAt s n)) := by
    rw [coreAt_matrixUse, coreAt_modCore, coreAt_disarm]
  have hdone : after n (matrixUse n i e (modCore (disarm s n) n (queueCore ((coreAt s n).mq ++ [e])))) =
      modCore (disarm (matrixUse n i e s) n) n (fun c => recsCore recs (queueCore ((coreAt s n).mq ++ [e]) c)) := by
    rw [ha _ hx, matrixUse_modCore (disarm s n) n i e (f := queueCore _) (fun _ => rfl), matrixUse_disarm, modCore_modCore]
  have heff : acceptEff i checks entry after n (disarm s n) =
      .done (modCore (disarm (matrixUse n i e s) n) n (fun c => recsCore recs (queueCore ((coreAt s n).mq ++ [e]) c))) := by
    simp only [acceptEff, mq_disarm, if_neg (Nat.not_le.mpr hlen), hck, descFault_eq_none.mpr, he, hq, hdone]
  rw [acceptM_core, issueCore_done hr heff, retire_modCore]
  · rw [fell, getPc, coreAt_matrixUse]
  · intro c
    cases h : c.launchPend <;> simp [endC, disarmC, retiredCore, recsCore, queueCore, h]

end ready

/-- The three outcomes of a matrix instruction: it holds, joins the queue, or raises DESCRIPTOR. -/
theorem accept_outcome (hi : exec i s = .next (acceptM (.core n) i checks entry after s)) {ck : List (Nat × Nat)}
    (hck : checks n (disarm s n) = ck) {e : MEntry} (he : entry n (disarm s n) = e) {recs : Vector BufRec 2}
    (ha : ∀ x, coreAt x n = queueCore ((coreAt s n).mq ++ [e]) (disarmC (coreAt s n)) → after n x = modCore x n (recsCore recs)) :
    (4 ≤ (coreAt s n).mq.length → Gives (.core n) i s (holdFor (disarm s n) n i)) ∧
    ((coreAt s n).mq.length < 4 → ck = [] → Gives (.core n) i s (modCore (fell (.core n) (matrixUse n i e s)) n
      (fun c => recsCore recs (queueCore ((coreAt s n).mq ++ [e]) c)))) ∧
    ((coreAt s n).mq.length < 4 → ck ≠ [] → ∃ code r, (code, r) ∈ ck ∧ (∀ x ∈ ck, code ≤ x.1) ∧ Gives (.core n) i s
      (takeExc (disarm s n) n { code := 7, einfo := mkWord [(0, r), (8, code)] } 3 true (coreAt s n).pc (coreAt s n).pc)) := by
  refine ⟨fun hl hr => ?_, fun hl h0 hr => ?_, fun hl hne => ?_⟩
  · rw [hi, acceptM_hold hr hl]
  · rw [hi, acceptM_done hr hl (hck.trans h0) he ha]
  · obtain ⟨code, r, hm, hlow, hf⟩ := acceptM_fault (entry := entry) (after := after) hl hck hne
    exact ⟨code, r, hm, hlow, fun hr => by rw [hi, hf hr]⟩

end accept

/-! ### The checks of the matrix operands (R93, R118, R204, R207) -/

theorem pairOk_iff (a b : Fmt) (x y : Bool) : pairOk a x b y = true ↔ x = y ∧
    ((a = .e2m1 ∧ b = .e2m1) ∨ (a ∈ [.e2m3, .e3m2] ∧ b ∈ [.e2m3, .e3m2]) ∨ (a ∈ [.e4m3, .e5m2] ∧ b ∈ [.e4m3, .e5m2]) ∨
      (x = false ∧ a = b ∧ a ∈ [.i8, .bf16, .f16, .f32])) := by
  cases a <;> cases b <;> cases x <;> simp [pairOk, engClass]

theorem dimOk_iff {t u : Tile} {k : Nat} : dimOk t u k = true ↔ (t.mx = true → blockDim t u = some k) := by
  unfold dimOk
  cases t.mx <;> simp

theorem single_eq_nil {α : Type} {c : Prop} [Decidable c] {x : α} : (if c then [] else [x]) = ([] : List α) ↔ c := by
  split <;> simp [*]

theorem statChecks_eq_nil {reg : Nat} {d sc : BitVec 256} {gemm : Bool} : statChecks reg d sc gemm = [] ↔
    operandChecks reg d sc true inCask = [] ∧ (tileOf d).n1 ≤ 128 ∧ (tileOf d).n2 = 1 ∧ (tileOf d).n3 = 1 ∧
      (if gemm then (tileOf d).n0 % 128 = 0 else (tileOf d).n0 ≤ 128) ∧
      pairOk (tileOf d).format (tileOf d).mx (tileOf d).format (tileOf d).mx = true ∧
      ((tileOf d).mx = true → blockDim (tileOf d) (tileOf sc) = some 0) := by
  have hk : (if gemm then decide ((tileOf d).n0 % 128 = 0) else decide ((tileOf d).n0 ≤ 128)) = true ↔
      if gemm then (tileOf d).n0 % 128 = 0 else (tileOf d).n0 ≤ 128 := by cases gemm <;> simp
  simp only [statChecks, List.append_eq_nil_iff, single_eq_nil, Bool.and_eq_true, stationaryOk, operandOk, dimOk_iff, hk,
    decide_eq_true_eq, and_assoc]

theorem streamChecks_eq_nil {reg : Nat} {d sc : BitVec 256} {trans : Bool} : streamChecks reg d sc trans = [] ↔
    operandChecks reg d sc true inCaskOrReserve = [] ∧ (if trans then (tileOf d).n1 else (tileOf d).n0) ≤ 512 ∧
      (tileOf d).n2 = 1 ∧ (tileOf d).n3 = 1 ∧ pairOk (tileOf d).format (tileOf d).mx (tileOf d).format (tileOf d).mx = true ∧
      ((tileOf d).mx = true → blockDim (tileOf d) (tileOf sc) = some (if trans then 0 else 1)) ∧
      (trans = true → (tileOf d).layout ≠ 0 ∧ inCask (tileOf d).range.1 (tileOf d).range.2 = true) := by
  have htrans : (!trans || decide ((tileOf d).layout ≠ 0) && inCask (tileOf d).range.1 (tileOf d).range.2) = true ↔
      (trans = true → (tileOf d).layout ≠ 0 ∧ inCask (tileOf d).range.1 (tileOf d).range.2 = true) := by cases trans <;> simp
  simp only [streamChecks, List.append_eq_nil_iff, single_eq_nil, htrans, Bool.and_eq_true, operandOk, dimOk_iff,
    decide_eq_true_eq, and_assoc]
  rfl

/-! ### The four instructions -/

@[simp] theorem stbRec_disarm (s : State) (n : CoreId) : (coreAt (disarm s n) n).stbRec = (coreAt s n).stbRec := by
  rw [coreAt_disarm, disarmC]; split <;> rfl

@[simp] theorem partner_disarm (s : State) (n : CoreId) (r : TReg) : partner n r (disarm s n) = partner n r s := by
  rw [partner, partner, t_disarm]

theorem dropMask_disarm (s : State) (n : CoreId) (sa sb : SReg) :
    dropMask (.core n) sa sb (disarm s n) = dropMask (.core n) sa sb s := by
  rw [dropMask, dropMask, getS_disarm, getS_disarm]

theorem disarmC_t (c : Core) : (disarmC c).t = c.t := by rw [disarmC]; split <;> rfl
theorem disarmC_stbRec (c : Core) : (disarmC c).stbRec = c.stbRec := by rw [disarmC]; split <;> rfl

/-- The records of the buffers after an instruction leaves a block of format and shape `r` in buffer `b`. -/
theorem setRec_of_core {x : State} {n : CoreId} {b : Fin 2} {r : BufRec} {recs : Vector BufRec 2} (h : (coreAt x n).stbRec = recs) :
    setRec n b r x = modCore x n (recsCore (recs.set b r)) :=
  modCore_congr _ _ _ _ (by subst h; rfl)

theorem modCore_of_fixed {x : State} {n : CoreId} {f : Core → Core} (h : f (coreAt x n) = coreAt x n) : modCore x n f = x := by
  rw [modCore, h, setCore, coreAt]
  simp

/-- Both buffers take the record. -/
theorem set_both (b : Fin 2) (v : Vector BufRec 2) (r : BufRec) : (v.set b r).set (f1 (b.val + 1)) r = Vector.replicate 2 r := by
  ext1 i hi
  have hb : (f1 (b.val + 1)).val = (b.val + 1) % 2 := rfl
  rw [Vector.getElem_set, Vector.getElem_set, Vector.getElem_replicate]
  split
  · rfl
  · rw [if_pos (by omega)]

theorem recsCore_stbRec {x : State} {n : CoreId} {recs : Vector BufRec 2} (h : (coreAt x n).stbRec = recs) :
    x = modCore x n (recsCore recs) :=
  (modCore_of_fixed (by subst h; rfl)).symm

/-- Settles O20: the three outcomes of acceptance for each instruction, and the checks by what they ask. -/
theorem matrixAcceptance : Obligations.MatrixAcceptance := by
  refine ⟨fun n s ts tw buf mode sa sb => ?_, fun reg d sc gemm => statChecks_eq_nil, fun reg d sc trans => streamChecks_eq_nil, pairOk_iff⟩
  intro h c w a t load mul gemm zero rec0 recG eLoad eMul eGemm ckLoad ckMul ckGemm uses outcome
  have core {x : State} {e : MEntry} (hx : coreAt x n = queueCore ((coreAt s n).mq ++ [e]) (disarmC (coreAt s n))) :
      (coreAt x n).t = c.t ∧ (coreAt x n).stbRec = c.stbRec := by
    rw [hx]
    exact ⟨disarmC_t _, disarmC_stbRec _⟩
  refine ⟨accept_outcome (i := load) rfl ?_ ?_ fun x hx => ?_, accept_outcome (i := mul) rfl ?_ ?_ fun x hx => ?_,
    accept_outcome (i := gemm) rfl ?_ ?_ fun x hx => ?_, accept_outcome (i := zero) rfl rfl ?_ fun x hx => ?_⟩
  · simp only [t_disarm, partner_disarm]; rfl
  · simp only [t_disarm, partner_disarm, disarm_pc]; rfl
  · rw [(core hx).1]
    exact setRec_of_core (core hx).2
  · simp only [t_disarm, partner_disarm, stbRec_disarm]; rfl
  · simp only [t_disarm, partner_disarm, stbRec_disarm, mq_disarm, disarm_pc, h, dropMask_disarm]; rfl
  · exact recsCore_stbRec (core hx).2
  · simp only [t_disarm, partner_disarm]; rfl
  · simp only [t_disarm, partner_disarm, disarm_pc, h, dropMask_disarm]; rfl
  · simp only [(core hx).1]
    rw [setRec_of_core (core hx).2]
    split
    · rw [setRec_of_core (recs := c.stbRec.set buf recG) (by rw [coreAt_modCore]; rfl), modCore_modCore]
      exact modCore_congr _ _ _ _ (congrArg (recsCore · _) (set_both buf c.stbRec recG))
    · rfl
  · simp only [disarm_pc]; rfl
  · exact recsCore_stbRec (core hx).2

end Sys2Proof.Machine
end

section
/-! PROOFS. Acceptance of the Racking instructions (R52, R99, R100, R208, R209, R212 to R217, R222, R224). -/

namespace Sys2Proof.Machine

/-! ### Uses of several Reserves (R388) -/

theorem logReserveOf_disarm (s : State) (c : Fin 16) (n : CoreId) (i : Instr) (ds : List (BitVec 256)) :
    logReserveOf (disarm s n) c n i ds = disarm (logReserveOf s c n i ds) n := by
  unfold logReserveOf
  rw [useOf_disarm]
  cases useOf s n i ds <;> rfl

theorem logReserveOf_rest (s : State) (c : Fin 16) (n : CoreId) (i : Instr) (ds : List (BitVec 256)) :
    logReserveOf s c n i ds = { s with resLog := (logReserveOf s c n i ds).resLog } := by
  unfold logReserveOf
  cases useOf s n i ds <;> rfl

theorem foldl_logReserveOf_disarm (cs : List Nat) (s : State) (n : CoreId) (i : Instr) (ds : List (BitVec 256)) :
    cs.foldl (fun s c => logReserveOf s (Fin.ofNat 16 c) n i ds) (disarm s n) =
      disarm (cs.foldl (fun s c => logReserveOf s (Fin.ofNat 16 c) n i ds) s) n := by
  induction cs generalizing s with
  | nil => rfl
  | cons c cs ih => rw [List.foldl_cons, List.foldl_cons, logReserveOf_disarm, ih]

theorem foldl_logReserveOf_rest (cs : List Nat) (s : State) (n : CoreId) (i : Instr) (ds : List (BitVec 256)) :
    ∃ r, cs.foldl (fun s c => logReserveOf s (Fin.ofNat 16 c) n i ds) s = { s with resLog := r } := by
  induction cs generalizing s with
  | nil => exact ⟨s.resLog, rfl⟩
  | cons c cs ih =>
    obtain ⟨r, hr⟩ := ih (logReserveOf s (Fin.ofNat 16 c) n i ds)
    exact ⟨r, by rw [List.foldl_cons, hr, logReserveOf_rest]⟩

theorem logRack_disarm (s : State) (n : CoreId) (i : Instr) (ds : List (BitVec 256)) :
    logRack (disarm s n) n i ds = disarm (logRack s n i ds) n := foldl_logReserveOf_disarm _ s n i _

theorem logRack_rest (s : State) (n : CoreId) (i : Instr) (ds : List (BitVec 256)) :
    ∃ r, logRack s n i ds = { s with resLog := r } := foldl_logReserveOf_rest _ s n i _

theorem eraseDups_of_forall_eq {α : Type} [BEq α] [LawfulBEq α] {l : List α} {c : α} (hne : l ≠ []) (h : ∀ x ∈ l, x = c) :
    l.eraseDups = [c] := by
  obtain _ | ⟨x, l⟩ := l
  · exact absurd rfl hne
  · obtain rfl := h x (List.mem_cons_self ..)
    have hl : l.filter (fun y => !y == x) = [] :=
      List.filter_eq_nil_iff.mpr fun y hy => by simp [h y (List.mem_cons_of_mem _ hy)]
    rw [List.eraseDups_cons, hl, List.eraseDups_nil]

/-- The descriptors that are not zero, and the Reserve window. -/
theorem logRack_none {s : State} {n : CoreId} {i : Instr} {ds : List (BitVec 256)}
    (h : ∀ w ∈ ds.filter (fun w => decide (w ≠ 0)), ¬ (tileOf w).base / 2 ^ 48 = 2) : logRack s n i ds = s := by
  have hl : (ds.filter (fun w => decide (w ≠ 0))).filter (fun w => decide ((tileOf w).base / 2 ^ 48 = 2)) = [] :=
    List.filter_eq_nil_iff.mpr fun w hw => by simpa using h w hw
  rw [logRack, hl, List.map_nil, List.eraseDups_nil, List.foldl_nil]

theorem logRack_one {s : State} {n : CoreId} {i : Instr} {ds : List (BitVec 256)} (c : Fin 16)
    (hex : ∃ w ∈ ds.filter (fun w => decide (w ≠ 0)), (tileOf w).base / 2 ^ 48 = 2)
    (hall : ∀ w ∈ ds.filter (fun w => decide (w ≠ 0)), (tileOf w).base / 2 ^ 48 = 2 → reserveOf n (tileOf w).base = c.val) :
    logRack s n i ds = logReserveOf s c n i (ds.filter (fun w => decide (w ≠ 0))) := by
  rw [logRack, eraseDups_of_forall_eq (c := c.val)]
  · rw [List.foldl_cons, List.foldl_nil, Fin.ofNat_val_eq_self]
  · obtain ⟨w, hw, hr⟩ := hex
    exact List.ne_nil_of_mem (List.mem_map_of_mem (List.mem_filter.mpr ⟨hw, by simpa using hr⟩))
  · intro x hx
    obtain ⟨w, hw, rfl⟩ := List.mem_map.mp hx
    obtain ⟨hw, hr⟩ := List.mem_filter.mp hw
    exact hall w hw (by simpa using hr)

/-! ### The handle and the checks (R99, R100, R208, R212, R213, R216, R217) -/

theorem rackHandle_eq_some {n : CoreId} {w : Word} {s : State} {q : Fin 2} : rackHandle n w s = some q ↔
    ∃ g, coreOwner s n = some g ∧ bit w 63 = true ∧ bits w 23 16 = genLow s g ∧ bits w 34 32 = 0 ∧ bits w 15 0 = q.val ∧
      fget s (rkgReg n.val (8 + 8 * q.val)) 31 30 ≠ 0 := by
  unfold rackHandle
  cases coreOwner s n with
  | none => simp
  | some g =>
    have hq : bits w 15 0 ≤ 1 → (f1 (bits w 15 0) = q ↔ bits w 15 0 = q.val) := fun h => by
      have hv : (f1 (bits w 15 0)).val = bits w 15 0 := Nat.mod_eq_of_lt (by omega)
      rw [Fin.ext_iff, hv]
    simp only [Option.some.injEq, Bool.and_eq_true, decide_eq_true_eq]
    constructor
    · intro h
      split at h
      · next hw =>
        obtain ⟨h63, hg, hk, hle⟩ := hw
        split at h
        · cases h
        · next hp =>
          obtain rfl := Option.some.inj h
          exact ⟨g, rfl, h63, hg, hk, (hq hle).mp rfl, hp⟩
      · cases h
    · rintro ⟨_, rfl, h63, hg, hk, hi, hp⟩
      have hle : bits w 15 0 ≤ 1 := by omega
      rw [if_pos ⟨h63, hg, hk, hle⟩, (hq hle).mpr hi, if_neg hp]

theorem notDim0_eq_false {t u : Tile} : notDim0 t u = false ↔ (t.mx = true → blockDim t u = some 0) := by
  unfold notDim0
  cases t.mx <;> simp

theorem if_single_eq_nil {α : Type} {c : Prop} [Decidable c] {l : List α} (hl : l ≠ []) : (if c then [] else l) = [] ↔ c := by
  split <;> simp [*]

theorem if_eq_nil {α : Type} {b : Bool} {l : List α} (hl : l ≠ []) : (if b then l else []) = [] ↔ b = false := by
  cases b <;> simp [hl]

theorem rackChecks_eq_nil (s : State) (n : CoreId) (d : RDesc) (ra rb : Nat) : rackChecks s n d ra rb = [] ↔
    operandChecks rb d.tb d.tbScale false (rackWin s n) = [] ∧
    (d.kind = 3 → (tileOf d.tb).mx = false ∧ (tileOf d.tb).format ≠ .sf16) ∧
    (d.kind ≠ 3 → operandChecks ra d.ta d.taScale false (rackWin s n) = [] ∧
      rackPair (decide (d.kind = 0)) d.add (tileOf d.ta) (tileOf d.taScale) (tileOf d.tb) (tileOf d.tbScale) = true ∧
      (d.kind = 0 → (tileOf d.ta).n0 ≤ (tileOf d.tb).n0 ∧ (tileOf d.ta).n1 ≤ (tileOf d.tb).n1 ∧
        (tileOf d.ta).n2 ≤ (tileOf d.tb).n2 ∧ (tileOf d.ta).n3 ≤ (tileOf d.tb).n3) ∧
      (d.kind ≠ 0 → (tileOf d.ta).n2 = 1 ∧ (tileOf d.ta).n3 = 1 ∧ (tileOf d.tb).n2 = 1 ∧ (tileOf d.tb).n3 = 1 ∧
        (tileOf d.ta).n0 ≤ (tileOf d.tb).n0 ∧ d.count ≤ (if d.kind = 1 then (tileOf d.tb).n1 else (tileOf d.ta).n1) ∧
        ((tileOf d.ta).mx = true → blockDim (tileOf d.ta) (tileOf d.taScale) = some 0) ∧
        ((tileOf d.tb).mx = true → blockDim (tileOf d.tb) (tileOf d.tbScale) = some 0) ∧
        1 ≤ d.count ∧ d.count ≤ 65535 ∧ 4 ∣ d.list.toNat ∧
        inCaskOrReserve d.list.toNat (d.list.toNat + 4 * d.count - 1) = true)) := by
  by_cases h3 : d.kind = 3
  · simp only [rackChecks, h3, if_true, List.append_eq_nil_iff, if_eq_nil (List.cons_ne_nil _ _), Bool.or_eq_false_iff,
      decide_eq_false_iff_not, ne_eq, not_true_eq_false, false_implies, and_true, true_implies]
  · by_cases h0 : d.kind = 0
    · simp only [rackChecks, if_neg h3, if_pos h0, List.append_eq_nil_iff, if_single_eq_nil (List.cons_ne_nil _ _)]
      exact ⟨fun ⟨⟨⟨ha, hb⟩, hn⟩, hp⟩ => ⟨hb, fun h => absurd h h3, fun _ => ⟨ha, hp, fun _ => hn, fun h => absurd h0 h⟩⟩,
        fun ⟨hb, _, h⟩ => have ⟨ha, hp, hn, _⟩ := h h3
          ⟨⟨⟨ha, hb⟩, hn h0⟩, hp⟩⟩
    · simp only [rackChecks, if_neg h3, if_neg h0, List.append_eq_nil_iff, if_single_eq_nil (List.cons_ne_nil _ _),
        if_eq_nil (List.cons_ne_nil _ _), notDim0_eq_false, Nat.dvd_iff_mod_eq_zero]
      exact ⟨fun ⟨⟨⟨ha, hb⟩, ⟨⟨⟨⟨⟨⟨⟨ha2, ha3⟩, hb2, hb3⟩, hn⟩, hc⟩, da⟩, db⟩, h1, hm, h4, hin⟩⟩, hp⟩ =>
          ⟨hb, fun h => absurd h h3, fun _ => ⟨ha, hp, fun h => absurd h h0,
            fun _ => ⟨ha2, ha3, hb2, hb3, hn, hc, da, db, h1, hm, h4, hin⟩⟩⟩,
        fun ⟨hb, _, h⟩ => have ⟨ha, hp, _, hr⟩ := h h3
          have ⟨ha2, ha3, hb2, hb3, hn, hc, da, db, h1, hm, h4, hin⟩ := hr h0
          ⟨⟨⟨ha, hb⟩, ⟨⟨⟨⟨⟨⟨⟨ha2, ha3⟩, hb2, hb3⟩, hn⟩, hc⟩, da⟩, db⟩, h1, hm, h4, hin⟩⟩, hp⟩⟩

/-! ### An entry in its slot (Table 7-4) -/

theorem Memory.alive_above {m : Memory} {a : Nat} (n : Nat) (h : m.dead = [] ∨ 2 ^ 41 ≤ a) : m.Alive a n := by
  rcases h with h | h
  · exact Memory.alive_of_dead_nil h a n
  · exact fun x hx _ => if_pos (h.trans hx)

/-- The fields of an entry's first word. -/
theorem entry_header {d : RDesc} (k : Nat) (hk : d.kind ≤ 3) :
    let w := mkWord [(40, d.tag.toNat), (16, k % 2 ^ 24), (8, b1 d.add), (7, 1), (0, d.kind)]
    bits w 63 40 = d.tag.toNat ∧ bits w 39 16 = k % 2 ^ 24 ∧ bits w 15 9 = 0 ∧ bit w 8 = d.add ∧ bit w 7 = true ∧ bits w 6 0 = d.kind := by
  have ht := d.tag.isLt
  have ha := b1_le d.add
  have e : (mkWord [(40, d.tag.toNat), (16, k % 2 ^ 24), (8, b1 d.add), (7, 1), (0, d.kind)]).toNat =
      d.tag.toNat * 2 ^ 40 + k % 2 ^ 24 * 2 ^ 16 + b1 d.add * 2 ^ 8 + 2 ^ 7 + d.kind := by
    rw [mkWord, BitVec.toNat_ofNat, List.foldl_cons, List.foldl_cons, List.foldl_cons, List.foldl_cons, List.foldl_cons, List.foldl_nil]
    simp only [Nat.shiftLeft_eq]
    omega
  have hbit : bit (mkWord [(40, d.tag.toNat), (16, k % 2 ^ 24), (8, b1 d.add), (7, 1), (0, d.kind)]) 7 = true := by
    rw [bit_eq_decide, e, decide_eq_true_eq]; omega
  refine ⟨?_, ?_, ?_, bit_field (by rw [e]; omega), hbit, ?_⟩ <;> rw [bits_eq_div, e] <;> omega

/-- The fields of its third word. -/
theorem entry_place {c : Nat} {pc : Word} (hc : c < 2 ^ 16) (hp : pc.toNat < 2 ^ 48) :
    let w := mkWord [(48, c), (0, bits pc 47 0)]
    bits w 47 0 = pc.toNat ∧ bits w 63 48 = c := by
  have hb : bits pc 47 0 = pc.toNat := by rw [bits_eq_div]; omega
  have e : (mkWord [(48, c), (0, pc.toNat)]).toNat = c * 2 ^ 48 + pc.toNat := by
    rw [mkWord, BitVec.toNat_ofNat, List.foldl_cons, List.foldl_cons, List.foldl_nil]
    simp only [Nat.shiftLeft_eq]
    omega
  rw [hb]
  constructor <;> rw [bits_eq_div, e] <;> omega

theorem length_entryBytes (d : RDesc) (k : Nat) : (entryBytes d k).length = 256 := by
  simp [entryBytes]

/-- What an entry that stands in memory reads. -/
theorem entry_reads {m : Memory} {a k : Nat} {d : RDesc} (h : m.Holds a (entryBytes d k)) :
    mem64 m a = mkWord [(40, d.tag.toNat), (16, k % 2 ^ 24), (8, b1 d.add), (7, 1), (0, d.kind)] ∧
    mem64 m (a + 8) = (if d.kind = 3 then d.fill else d.list) ∧ mem64 m (a + 16) = mkWord [(48, d.count), (0, bits d.pc 47 0)] ∧
    mem256 m (a + 32) = d.ta ∧ mem256 m (a + 64) = d.taScale ∧ mem256 m (a + 96) = d.tb ∧ mem256 m (a + 128) = d.tbScale := by
  simp only [entryBytes, Memory.holds_append, length_leBytes, List.length_append, Nat.reduceAdd] at h
  obtain ⟨⟨⟨⟨⟨⟨⟨⟨h0, h1⟩, h2⟩, _⟩, h3⟩, h4⟩, h5⟩, h6⟩, _⟩ := h
  exact ⟨h0.word64, h1.word64, h2.word64, h3.word256, h4.word256, h5.word256, h6.word256⟩

/-- An entry reads back as its descriptor. -/
theorem parseEntry_of_holds {m : Memory} {a k : Nat} {d : RDesc} (h : m.Holds a (entryBytes d k)) (hk : d.kind ≤ 3)
    (hc : d.count < 2 ^ 16) (hp : d.pc.toNat < 2 ^ 48) (hadd : d.add = true → d.kind = 0 ∨ d.kind = 2)
    (hl : d.kind = 0 ∨ d.kind = 3 → d.list = 0) (hf : d.kind ≠ 3 → d.fill = 0) : parseEntry m a = some d := by
  obtain ⟨h0, h1, h2, h3, h4, h5, h6⟩ := entry_reads h
  obtain ⟨ht, _, _, h8, _, hkind⟩ := entry_header k hk
  obtain ⟨hpc, hcount⟩ := entry_place hc hp
  simp only [parseEntry, h0, h1, h2, h3, h4, h5, h6, ht, h8, hkind, hpc, hcount, BitVec.ofNat_toNat, BitVec.setWidth_eq,
    if_neg (Nat.not_lt.mpr hk)]
  have ha : (d.add && decide (d.kind = 0 ∨ d.kind = 2)) = d.add := by
    cases h : d.add
    · rfl
    · simp [hadd h]
  have hlist : (if d.kind = 1 ∨ d.kind = 2 then (if d.kind = 3 then d.fill else d.list) else 0) = d.list := by
    by_cases h3 : d.kind = 3
    · rw [if_neg (by omega), hl (.inr h3)]
    · rw [if_neg h3]
      split
      · rfl
      · rw [hl (by omega)]
  have hfill : (if d.kind = 3 then (if d.kind = 3 then d.fill else d.list) else 0) = d.fill := by
    split
    · rfl
    · next h3 => rw [hf h3]
  rw [ha, hlist, hfill]

/-! ### Acceptance into a Racking queue (R52, R208, R209, R222, R224) -/

/-- The entry of descriptor `d` joins the queue, and its use is logged. -/
def enqueue (i : Instr) (n : CoreId) (q : Fin 2) (d : RDesc) (s : State) : State :=
  let u := logRack s n i [d.ta, d.taScale, d.tb, d.tbScale]
  fincr { u with mem := u.mem.store (ringSlot u n q (enqCount s n q)) (entryBytes d (enqCount s n q + 1)) false } (enqOff n q) 47 0 1

/-- What a Racking instruction does at issue. -/
def rackEff (i : Instr) (qh : QReg) (ra rb : Nat) (desc : CoreId → State → RDesc) (n : CoreId) (s : State) : Eff :=
  match rackHandle n (coreAt s n).q[qh] s with
  | none => .fault excQueue
  | some q =>
    if ringSize s n q ≤ enqCount s n q - doneCount s n q then
      match needFault n q s with
      | some t => .stop t
      | none => .hold s
    else
      match descFault s (rackChecks s n (desc n s) ra rb) with
      | some x => .fault x
      | none => .done (enqueue i n q (desc n s) s)

theorem acceptR_core (n : CoreId) (i : Instr) (qh : QReg) (ra rb : Nat) (desc : CoreId → State → RDesc) (s : State) :
    acceptR (.core n) i qh ra rb desc s = issueCore n i 4 (rackEff i qh ra rb desc n) s := rfl

section disarmed
variable (s : State) (n : CoreId)

@[simp] theorem q_disarm : (coreAt (disarm s n) n).q = (coreAt s n).q := by rw [coreAt_disarm, disarmC]; split <;> rfl
@[simp] theorem rq_disarm : (coreAt (disarm s n) n).rq = (coreAt s n).rq := by rw [coreAt_disarm, disarmC]; split <;> rfl
@[simp] theorem rackHandle_disarm (w : Word) : rackHandle n w (disarm s n) = rackHandle n w s := rfl
@[simp] theorem ringSize_disarm (q : Fin 2) : ringSize (disarm s n) n q = ringSize s n q := rfl
@[simp] theorem enqCount_disarm (q : Fin 2) : enqCount (disarm s n) n q = enqCount s n q := rfl
@[simp] theorem doneCount_disarm (q : Fin 2) : doneCount (disarm s n) n q = doneCount s n q := rfl
@[simp] theorem rackChecks_disarm (d : RDesc) (ra rb : Nat) : rackChecks (disarm s n) n d ra rb = rackChecks s n d ra rb := rfl

end disarmed

/-- The entry of descriptor `d` stands in its slot, ENQ has risen, and all else is as in `u`. -/
def enqueued (s : State) (n : CoreId) (q : Fin 2) (d : RDesc) (u : State) : State :=
  fset { u with mem := s.mem.store (ringSlot s n q (enqCount s n q)) (entryBytes d (enqCount s n q + 1)) false } (enqOff n q) 47 0
    (min (enqCount s n q + 1) (2 ^ 48 - 1))

theorem enqueue_eq (i : Instr) (n : CoreId) (q : Fin 2) (d : RDesc) (s : State) :
    enqueue i n q d s = enqueued s n q d (logRack s n i [d.ta, d.taScale, d.tb, d.tbScale]) := by
  obtain ⟨r, hr⟩ := logRack_rest s n i [d.ta, d.taScale, d.tb, d.tbScale]
  rw [enqueue, hr]
  rfl

theorem retire_enqueued (s : State) (n : CoreId) (q : Fin 2) (d : RDesc) (u : State) (dst : Word) :
    retireTo (settle (enqueued (disarm s n) n q d (disarm u n)) n) n dst = enqueued s n q d (retired (.core n) dst u) :=
  retire_disarm (enqueued s n q d u) n dst

theorem fell_logRack (s : State) (n : CoreId) (i : Instr) (ds : List (BitVec 256)) :
    fell (.core n) (logRack s n i ds) = retired (.core n) ((coreAt s n).pc + 8) (logRack s n i ds) := by
  obtain ⟨r, hr⟩ := logRack_rest s n i ds
  rw [fell, hr]
  rfl

theorem issueCore_stop {n : CoreId} {i : Instr} {cls : Nat} {f : State → Eff} {s t : State} (hr : Ready (.core n) i s)
    (hf : f (disarm s n) = .stop t) : issueCore n i cls f s = t := by
  obtain ⟨hl, hc, hx⟩ := hr
  simp [issueCore, hl, hc, hx, hf]

/-- A queue that has not stopped asks for nothing. -/
theorem needFault_none {n : CoreId} {q : Fin 2} {s : State}
    (h : (coreAt s n).rq[q].tfault = false ∨ (coreAt s n).rq[q].fault = none) : needFault n q (disarm s n) = none := by
  simp only [needFault, rq_disarm]
  rcases h with h | h
  · rw [h]
  · rw [h]; cases (coreAt s n).rq[q].tfault <;> rfl

/-- A queue that has stopped on a fault stops its core. -/
theorem needFault_some {n : CoreId} {q : Fin 2} {s : State} (ht : (coreAt s n).rq[q].tfault = true) {cls : Nat} {w : Bool} {x : Word}
    (hx : (coreAt s n).rq[q].fault = some (cls, w, x)) {r : RDesc} (hc : (coreAt s n).rq[q].cur = some r) :
    needFault n q (disarm s n) = some (takeExc (disarm s n) n
      { code := 5, src := 3, eaddr := x, einfo := BitVec.ofNat 64 q.val, fclass := cls } 4 false r.pc (coreAt s n).pc) := by
  simp only [needFault, rq_disarm, ht, hx, hc, disarm_pc, Option.map_some, Option.getD_some]

section accept
variable {n : CoreId} {i : Instr} {qh : QReg} {ra rb : Nat} {desc : CoreId → State → RDesc} {s : State} {q : Fin 2}

theorem acceptR_queue (hr : Ready (.core n) i s) (hq : rackHandle n (coreAt s n).q[qh] s = none) :
    acceptR (.core n) i qh ra rb desc s = takeExc (disarm s n) n { code := 8 } 4 true (coreAt s n).pc (coreAt s n).pc := by
  rw [acceptR_core, issueCore_fault hr]
  simp only [rackEff, q_disarm, rackHandle_disarm, hq]
  rfl

section named
variable (hq : rackHandle n (coreAt s n).q[qh] s = some q)
include hq

/-- On a full ring the instruction holds, or its core takes the fault that its queue has stopped on. -/
theorem rackEff_full (hf : ringSize s n q ≤ enqCount s n q - doneCount s n q) : rackEff i qh ra rb desc n (disarm s n) =
    match needFault n q (disarm s n) with
    | some t => .stop t
    | none => .hold (disarm s n) := by
  simp only [rackEff, q_disarm, rackHandle_disarm, hq, ringSize_disarm, enqCount_disarm, doneCount_disarm]
  exact if_pos hf

theorem rackEff_room (hf : ¬ ringSize s n q ≤ enqCount s n q - doneCount s n q) {d : RDesc} (hd : desc n (disarm s n) = d) :
    rackEff i qh ra rb desc n (disarm s n) =
    match descFault (disarm s n) (rackChecks s n d ra rb) with
    | some x => .fault x
    | none => .done (enqueue i n q d (disarm s n)) := by
  simp only [rackEff, q_disarm, rackHandle_disarm, hq, ringSize_disarm, enqCount_disarm, doneCount_disarm, if_neg hf, hd,
    rackChecks_disarm]

theorem acceptR_hold (hr : Ready (.core n) i s) (hf : ringSize s n q ≤ enqCount s n q - doneCount s n q)
    (h0 : (coreAt s n).rq[q].tfault = false ∨ (coreAt s n).rq[q].fault = none) :
    acceptR (.core n) i qh ra rb desc s = holdFor (disarm s n) n i := by
  rw [acceptR_core, issueCore_hold hr]
  rw [rackEff_full hq hf, needFault_none h0]

theorem acceptR_stop (hr : Ready (.core n) i s) (hf : ringSize s n q ≤ enqCount s n q - doneCount s n q)
    (ht : (coreAt s n).rq[q].tfault = true) {cls : Nat} {w : Bool} {x : Word} (hx : (coreAt s n).rq[q].fault = some (cls, w, x))
    {r : RDesc} (hc : (coreAt s n).rq[q].cur = some r) :
    acceptR (.core n) i qh ra rb desc s = takeExc (disarm s n) n
      { code := 5, src := 3, eaddr := x, einfo := BitVec.ofNat 64 q.val, fclass := cls } 4 false r.pc (coreAt s n).pc := by
  rw [acceptR_core, issueCore_stop hr]
  rw [rackEff_full hq hf, needFault_some ht hx hc]

theorem acceptR_fault (hf : ¬ ringSize s n q ≤ enqCount s n q - doneCount s n q) {d : RDesc} (hd : desc n (disarm s n) = d)
    (hne : rackChecks s n d ra rb ≠ []) :
    ∃ code r, (code, r) ∈ rackChecks s n d ra rb ∧ (∀ x ∈ rackChecks s n d ra rb, code ≤ x.1) ∧
      (Ready (.core n) i s → acceptR (.core n) i qh ra rb desc s =
        takeExc (disarm s n) n { code := 7, einfo := mkWord [(0, r), (8, code)] } 4 true (coreAt s n).pc (coreAt s n).pc) := by
  obtain ⟨x, hx⟩ : ∃ x, descFault (disarm s n) (rackChecks s n d ra rb) = some x :=
    Option.ne_none_iff_exists'.mp fun h => hne (descFault_eq_none.mp h)
  obtain ⟨code, r, hm, hlow, rfl⟩ := descFault_eq_some hx
  refine ⟨code, r, hm, hlow, fun hr => ?_⟩
  rw [acceptR_core, issueCore_fault hr]
  rw [rackEff_room hq hf hd, hx]

theorem acceptR_done (hr : Ready (.core n) i s) (hf : ¬ ringSize s n q ≤ enqCount s n q - doneCount s n q) {d : RDesc}
    (hd : desc n (disarm s n) = d) (hck : rackChecks s n d ra rb = []) : acceptR (.core n) i qh ra rb desc s =
      enqueued s n q d (fell (.core n) (logRack s n i [d.ta, d.taScale, d.tb, d.tbScale])) := by
  rw [acceptR_core, issueCore_done hr (t := enqueue i n q d (disarm s n))]
  · rw [enqueue_eq, logRack_disarm, retire_enqueued, fell_logRack]
  · rw [rackEff_room hq hf hd, hck, descFault_eq_none.mpr rfl]

end named

/-- The outcomes of a Racking instruction. -/
theorem acceptR_outcome (hi : exec i s = .next (acceptR (.core n) i qh ra rb desc s)) {d : RDesc} (hd : desc n (disarm s n) = d) :
    (rackHandle n (coreAt s n).q[qh] s = none →
      Gives (.core n) i s (takeExc (disarm s n) n { code := 8 } 4 true (coreAt s n).pc (coreAt s n).pc)) ∧
    (∀ q, rackHandle n (coreAt s n).q[qh] s = some q →
      let full : Prop := ringSize s n q ≤ enqCount s n q - doneCount s n q
      (full → ((coreAt s n).rq[q].tfault = false ∨ (coreAt s n).rq[q].fault = none) → Gives (.core n) i s (holdFor (disarm s n) n i)) ∧
      (full → (coreAt s n).rq[q].tfault = true → ∀ cls w x r, (coreAt s n).rq[q].fault = some (cls, w, x) →
        (coreAt s n).rq[q].cur = some r → Gives (.core n) i s (takeExc (disarm s n) n
          { code := 5, src := 3, eaddr := x, einfo := BitVec.ofNat 64 q.val, fclass := cls } 4 false r.pc (coreAt s n).pc)) ∧
      (¬ full → rackChecks s n d ra rb ≠ [] → ∃ code r, (code, r) ∈ rackChecks s n d ra rb ∧
        (∀ x ∈ rackChecks s n d ra rb, code ≤ x.1) ∧ Gives (.core n) i s
          (takeExc (disarm s n) n { code := 7, einfo := mkWord [(0, r), (8, code)] } 4 true (coreAt s n).pc (coreAt s n).pc)) ∧
      (¬ full → rackChecks s n d ra rb = [] → Gives (.core n) i s
        (enqueued s n q d (fell (.core n) (logRack s n i [d.ta, d.taScale, d.tb, d.tbScale]))))) := by
  refine ⟨fun hq hr => by rw [hi, acceptR_queue hr hq], fun q hq => ?_⟩
  refine ⟨fun hf h0 hr => by rw [hi, acceptR_hold hq hr hf h0], fun hf ht cls w x r hx hc hr => ?_, fun hf hne => ?_,
    fun hf hck hr => by rw [hi, acceptR_done hq hr hf hd hck]⟩
  · rw [hi, acceptR_stop hq hr hf ht hx hc]
  · obtain ⟨code, r, hm, hlow, he⟩ := acceptR_fault hq hf hd hne
    exact ⟨code, r, hm, hlow, fun hr => by rw [hi, he hr]⟩

end accept

/-- Settles O24: the outcomes of acceptance for each instruction; the uses logged; the handle; the entry read back; and the
checks by what they ask. -/
theorem rackingAcceptance : Obligations.RackingAcceptance := by
  refine ⟨fun n s qh ta tb sa sb add tag => ?_, fun n i ds s => ⟨logRack_none, fun c => logRack_one c⟩,
    fun n w s q => rackHandle_eq_some, fun m a k d hal _ hk hc hp hadd hl hf => ?_, rackChecks_eq_nil⟩
  · refine ⟨acceptR_outcome rfl ?_, acceptR_outcome rfl ?_, acceptR_outcome rfl ?_, acceptR_outcome rfl ?_⟩ <;>
      simp only [getT, t_disarm, partner_disarm, disarm_pc, getS_disarm]
  · have hst := Memory.holds_store (Memory.alive_above _ hal) (m := m) (a := a) (bs := entryBytes d k) false
    obtain ⟨h63, h39, h15, h8, h7, h6⟩ := entry_header k hk
    simp only [(entry_reads hst).1]
    refine ⟨parseEntry_of_holds hst hk hc hp hadd hl hf, h63, h39, h15, h8, h7, h6, fun y hy => ?_⟩
    exact m.byte_store_outside false (by rw [length_entryBytes]; omega)

end Sys2Proof.Machine
end

section
/-! PROOFS. Fences, waits, the timed launch and the handle copies (R57 to R60, R104 to R106). -/

namespace Sys2Proof.Machine

/-! ### Time that passes (R333) -/

theorem rate_lt (s : State) : max 1 (fget s (tmbReg 0x20) 39 0) < 2 ^ 41 := by
  have := bits_lt (rget s (tmbReg 0x20)) 39 0
  simp only [fget]
  omega

/-- A moment that has not passed is reached. -/
theorem le_now_advanceTo {s : State} {ns : Nat} (hc : s.tb.count < 2 ^ 96) (h0 : now s ≤ ns) (h1 : ns < 2 ^ 63) :
    ns ≤ now (advanceTo s ns) := by
  have hr := rate_lt s
  have hr1 : 1 ≤ max 1 (fget s (tmbReg 0x20) 39 0) := le_max_left ..
  unfold now at h0
  simp only [now, advanceTo]
  generalize max 1 (fget s (tmbReg 0x20) 39 0) = rate at hr hr1 ⊢
  have hmul := Nat.div_add_mod (ns * 2 ^ 32 - s.tb.count + rate - 1) rate
  have hmod := Nat.mod_lt (ns * 2 ^ 32 - s.tb.count + rate - 1) (Nat.pos_of_ne_zero (by omega : rate ≠ 0))
  rw [Nat.mul_comm] at hmul
  generalize (ns * 2 ^ 32 - s.tb.count + rate - 1) / rate * rate = p at hmul ⊢
  omega

theorem cores_advanceTo (s : State) (ns : Nat) : (advanceTo s ns).cores = s.cores := by rw [advanceTo]

@[simp] theorem coreAt_advanceTo (s : State) (ns : Nat) (n : CoreId) : coreAt (advanceTo s ns) n = coreAt s n := by
  rw [coreAt, coreAt, cores_advanceTo]

theorem now_modCore (s : State) (n : CoreId) (f : Core → Core) : now (modCore s n f) = now s := rfl

theorem coreAt_modCore_of_ne (s : State) {n m : CoreId} (f : Core → Core) (h : m ≠ n) : coreAt (modCore s n f) m = coreAt s m :=
  coreAt_setCore_ne s n m _ h

/-! ### fence (R57, R224) -/

theorem mem_allQueues (q : Fin 16) : q ∈ allQueues := by
  have h : ∀ q : Fin 16, q ∈ allQueues := by decide
  exact h q

theorem collBusy_eq_false {s : State} {n : CoreId} : collBusy s n = false ↔
    ∀ g, coreOwner s n = some g → ∀ q : Fin 16, ∀ o ∈ s.gal[g].cq[q].ops, o.core ≠ n := by
  unfold collBusy
  cases coreOwner s n with
  | none => simp
  | some g =>
    simp only [List.any_eq_false, List.any_eq_true, decide_eq_true_eq, not_exists, not_and, Option.some.injEq, forall_eq']
    exact ⟨fun h q o => h q (mem_allQueues q) o, fun h q _ o => h q o⟩

theorem fenceMet_iff {k : FenceKind} {n : CoreId} {s : State} : fenceMet k n s = true ↔
    ((k = .m ∨ k = .a) → (coreAt s n).mq = []) ∧
    ((k = .d ∨ k = .a) → doneCount s n 0 = enqCount s n 0 ∧ doneCount s n 1 = enqCount s n 1) ∧
    ((k = .c ∨ k = .a) → ∀ g, coreOwner s n = some g → ∀ q : Fin 16, ∀ o ∈ s.gal[g].cq[q].ops, o.core ≠ n) := by
  simp only [fenceMet, fenceM, fenceD, fenceC, rackingIdle, ← collBusy_eq_false, Bool.and_eq_true, Bool.or_eq_true, Bool.not_eq_true',
    decide_eq_true_eq, decide_eq_false_iff_not, and_assoc, ← imp_iff_not_or]

/-- What a fence does at issue. -/
def fenceEff (k : FenceKind) (n : CoreId) (s : State) : Eff :=
  match fenceFault k n s with
  | some t => .stop t
  | none => if fenceMet k n s then .done s else .hold s

theorem exec_fence_core (n : CoreId) (k : FenceKind) (s : State) :
    exec (.fence (.core n) k) s = .next (issueCore n (.fence (.core n) k) 6 (fenceEff k n) s) := rfl

theorem fenceMet_disarm (k : FenceKind) (n : CoreId) (s : State) : fenceMet k n (disarm s n) = fenceMet k n s := by
  simp only [fenceMet, mq_disarm]; rfl

theorem fenceFault_none {k : FenceKind} {n : CoreId} {s : State}
    (h : ¬((k = .d ∨ k = .a) ∧ ∃ q : Fin 2, (coreAt s n).rq[q].tfault = true)) : fenceFault k n (disarm s n) = none := by
  by_cases hk : k = .d ∨ k = .a
  · have hq (q : Fin 2) : needFault n q (disarm s n) = none :=
      needFault_none (.inl (Bool.eq_false_iff.mpr fun ht => h ⟨hk, q, ht⟩))
    rw [fenceFault, hq, hq]
    exact ite_self none
  · rw [fenceFault, fenceD, decide_eq_false hk]; rfl

theorem fenceFault_some {k : FenceKind} {n : CoreId} {s t : State} {q : Fin 2} (hk : k = .d ∨ k = .a)
    (h0 : q = 1 → (coreAt s n).rq[(0 : Fin 2)].tfault = false) (ht : needFault n q (disarm s n) = some t) :
    fenceFault k n (disarm s n) = some t := by
  rw [fenceFault, fenceD, decide_eq_true hk, if_pos rfl]
  obtain rfl | rfl : q = 0 ∨ q = 1 := by omega
  · rw [ht]; rfl
  · rw [needFault_none (.inl (h0 rfl)), ht]; rfl

section fence
variable {n : CoreId} {k : FenceKind} {s : State} (hr : Ready (.core n) (.fence (.core n) k) s)
include hr

theorem fence_done (h : fenceFault k n (disarm s n) = none) (hm : fenceMet k n s = true) :
    exec (.fence (.core n) k) s = .next (fell (.core n) s) := by
  rw [exec_fence_core, issueCore_done hr (t := disarm s n), retire_disarm]
  · rfl
  · rw [fenceEff, h, fenceMet_disarm, if_pos hm]

theorem fence_hold (h : fenceFault k n (disarm s n) = none) (hm : ¬ fenceMet k n s = true) :
    exec (.fence (.core n) k) s = .next (holdFor (disarm s n) n (.fence (.core n) k)) := by
  rw [exec_fence_core, issueCore_hold hr (t := disarm s n)]
  rw [fenceEff, h, fenceMet_disarm, if_neg hm]

theorem fence_stop {t : State} (h : fenceFault k n (disarm s n) = some t) : exec (.fence (.core n) k) s = .next t := by
  rw [exec_fence_core, issueCore_stop hr (t := t)]
  rw [fenceEff, h]

end fence

/-! ### wait (R58, R221, R307) -/

/-- What wait does at issue. -/
def waitEff (n : CoreId) (sd : SReg) (qn : QReg) (sb : SReg) (s : State) : Eff :=
  match coreOwner s n with
  | none => .fault excQueue
  | some g =>
    match queueOf s g (coreAt s n).q[qn] with
    | .bad => .fault excQueue
    | .racking q =>
      if (getS (.core n) sb s).toNat = 0 then .done (setS (.core n) sd 0x0F s)
      else if (getS (.core n) sb s).toNat ≤ doneCount s n q then
        .done (setS (.core n) sd (rackRecord s n q (getS (.core n) sb s).toNat) s)
      else
        match needFault n q s with
        | some t => .stop t
        | none => .hold s
    | .coll q =>
      if (getS (.core n) sb s).toNat = 0 then .done (setS (.core n) sd 0x0F s)
      else if (getS (.core n) sb s).toNat ≤ s.gal[g].cq[q].count then
        .done (setS (.core n) sd (collRecord s.gal[g].cq[q] (getS (.core n) sb s).toNat) s)
      else .hold s

theorem exec_wait_core (n : CoreId) (sd : SReg) (qn : QReg) (sb : SReg) (s : State) :
    exec (.wait (.core n) sd qn sb) s = .next (issueCore n (.wait (.core n) sd qn sb) 6 (waitEff n sd qn sb) s) := rfl

@[simp] theorem queueOf_disarm (s : State) (n : CoreId) (g : Gal) (w : Word) : queueOf (disarm s n) g w = queueOf s g w := rfl
@[simp] theorem rackRecord_disarm (s : State) (n : CoreId) (q : Fin 2) (k : Nat) :
    rackRecord (disarm s n) n q k = rackRecord s n q k := rfl
@[simp] theorem gal_disarm (s : State) (n : CoreId) : (disarm s n).gal = s.gal := rfl

section wait
variable {n : CoreId} {g : Gal} {sd : SReg} {qn : QReg} {sb : SReg} {s : State} (hg : coreOwner s n = some g)
include hg

theorem waitEff_bad (hq : queueOf s g (coreAt s n).q[qn] = .bad) : waitEff n sd qn sb (disarm s n) = .fault excQueue := by
  simp only [waitEff, coreOwner_disarm, hg, queueOf_disarm, q_disarm, hq]

theorem waitEff_zero (hq : queueOf s g (coreAt s n).q[qn] ≠ .bad) (hk : (getS (.core n) sb s).toNat = 0) :
    waitEff n sd qn sb (disarm s n) = .done (setS (.core n) sd 0x0F (disarm s n)) := by
  simp only [waitEff, coreOwner_disarm, hg, queueOf_disarm, q_disarm, getS_disarm, hk]
  cases h : queueOf s g (coreAt s n).q[qn] with
  | bad => exact absurd h hq
  | racking q => rfl
  | coll q => rfl

theorem waitEff_racking {q : Fin 2} (hq : queueOf s g (coreAt s n).q[qn] = .racking q) (hk : (getS (.core n) sb s).toNat ≠ 0) :
    waitEff n sd qn sb (disarm s n) =
      if (getS (.core n) sb s).toNat ≤ doneCount s n q then
        .done (setS (.core n) sd (rackRecord s n q (getS (.core n) sb s).toNat) (disarm s n))
      else
        match needFault n q (disarm s n) with
        | some t => .stop t
        | none => .hold (disarm s n) := by
  simp only [waitEff, coreOwner_disarm, hg, queueOf_disarm, q_disarm, hq, getS_disarm, doneCount_disarm, rackRecord_disarm]
  exact if_neg hk

theorem waitEff_coll {q : Fin 16} (hq : queueOf s g (coreAt s n).q[qn] = .coll q) (hk : (getS (.core n) sb s).toNat ≠ 0) :
    waitEff n sd qn sb (disarm s n) =
      if (getS (.core n) sb s).toNat ≤ s.gal[g].cq[q].count then
        .done (setS (.core n) sd (collRecord s.gal[g].cq[q] (getS (.core n) sb s).toNat) (disarm s n))
      else .hold (disarm s n) := by
  simp only [waitEff, coreOwner_disarm, hg, queueOf_disarm, q_disarm, hq, getS_disarm, gal_disarm]
  exact if_neg hk

end wait

section outcome
variable {n : CoreId} {i : Instr} {cls : Nat} {f : State → Eff} {s : State} (hi : exec i s = .next (issueCore n i cls f s))
include hi

/-- An instruction that writes one scalar register, holds, takes a fault or stops its core. -/
theorem gives_setS {sd : SReg} {v : Word} (hf : f (disarm s n) = .done (setS (.core n) sd v (disarm s n))) :
    Gives (.core n) i s (setS (.core n) sd v (fell (.core n) s)) := fun hr => by
  rw [hi, issueCore_done hr hf, retire_setS]; rfl

theorem gives_hold (hf : f (disarm s n) = .hold (disarm s n)) : Gives (.core n) i s (holdFor (disarm s n) n i) := fun hr => by
  rw [hi, issueCore_hold hr hf]

theorem gives_fault {x : Exc} (hf : f (disarm s n) = .fault x) :
    Gives (.core n) i s (takeExc (disarm s n) n x cls true (coreAt s n).pc (coreAt s n).pc) := fun hr => by
  rw [hi, issueCore_fault hr hf]

theorem gives_stop {t : State} (hf : f (disarm s n) = .stop t) : Gives (.core n) i s t := fun hr => by
  rw [hi, issueCore_stop hr hf]

end outcome

/-! ### waitm (R105) -/

/-- What waitm does at issue, at address `a`. -/
def waitmAt (n : CoreId) (cc : WCond) (sd sb : SReg) (a : Nat) (s : State) : Eff :=
  if a % 8 ≠ 0 ∨ inCaskOrReserve a (a + 7) = false then .fault (excAddress a)
  else if s.mem.isPoisoned (sramAt n a / 64) then .fault (excPoison a)
  else if wcondHolds cc (mem64 s.mem (sramAt n a)) (getS (.core n) sb s) then
    .done (setS (.core n) sd (mem64 s.mem (sramAt n a)) s)
  else .hold s

theorem waitmEff_core (n : CoreId) (cc : WCond) (sd sa sb : SReg) (imm : BitVec 24) (s : State) :
    waitmEff (.core n) cc sd sa sb imm s = waitmAt n cc sd sb (getS (.core n) sa s + imm.setWidth 64).toNat s := rfl

theorem waitmEff_disarm (n : CoreId) (cc : WCond) (sd sa sb : SReg) (imm : BitVec 24) (s : State) :
    waitmEff (.core n) cc sd sa sb imm (disarm s n) =
      waitmAt n cc sd sb (getS (.core n) sa s + imm.setWidth 64).toNat (disarm s n) := by
  rw [waitmEff_core, getS_disarm]

theorem exec_waitm_core (n : CoreId) (cc : WCond) (sd sa sb : SReg) (imm : BitVec 24) (s : State) :
    exec (.waitm (.core n) cc sd sa sb imm) s =
      .next (issueCore n (.waitm (.core n) cc sd sa sb imm) 6 (waitmEff (.core n) cc sd sa sb imm) s) := rfl

section waitm
variable {n : CoreId} {cc : WCond} {sd sb : SReg} {a : Nat} {s : State}

theorem waitmAt_address (h : ¬(a % 8 = 0 ∧ (2 ^ 48 ≤ a ∧ a + 8 ≤ 2 ^ 48 + 0x600000 ∨ 2 ^ 49 ≤ a ∧ a + 8 ≤ 2 ^ 49 + 0x1000000))) :
    waitmAt n cc sd sb a s = .fault (excAddress a) := by
  rw [← inCaskOrReserve_iff, not_and_or, Bool.not_eq_true] at h
  exact if_pos h

variable (h : a % 8 = 0 ∧ (2 ^ 48 ≤ a ∧ a + 8 ≤ 2 ^ 48 + 0x600000 ∨ 2 ^ 49 ≤ a ∧ a + 8 ≤ 2 ^ 49 + 0x1000000))
include h

theorem waitmAt_poison (hp : s.mem.isPoisoned (sramAt n a / 64) = true) : waitmAt n cc sd sb a s = .fault (excPoison a) := by
  rw [← inCaskOrReserve_iff] at h
  rw [waitmAt, if_neg (by simp [h]), if_pos hp]

theorem waitmAt_clean (hp : s.mem.isPoisoned (sramAt n a / 64) = false) : waitmAt n cc sd sb a s =
    if wcondHolds cc (mem64 s.mem (sramAt n a)) (getS (.core n) sb s) then .done (setS (.core n) sd (mem64 s.mem (sramAt n a)) s)
    else .hold s := by
  rw [← inCaskOrReserve_iff] at h
  rw [waitmAt, if_neg (by simp [h]), if_neg (by simp [hp])]

end waitm

theorem wcondHolds_iff (cc : WCond) (v b : Word) : wcondHolds cc v b = true ↔
    match cc with
    | .eq => v = b
    | .ne => v ≠ b
    | .geu => b.toNat ≤ v.toNat
    | .ltu => v.toNat < b.toNat := by
  cases cc <;> simp [wcondHolds, BitVec.ult]

/-! ### The outcomes of waitm (R105) -/

section waitm
variable {n : CoreId} {cc : WCond} {sd sa sb : SReg} {imm : BitVec 24} {s : State} {a : Nat}
  (ha : (getS (.core n) sa s + imm.setWidth 64).toNat = a)
include ha

theorem waitm_address
    (h : ¬(a % 8 = 0 ∧ (2 ^ 48 ≤ a ∧ a + 8 ≤ 2 ^ 48 + 0x600000 ∨ 2 ^ 49 ≤ a ∧ a + 8 ≤ 2 ^ 49 + 0x1000000))) :
    Gives (.core n) (.waitm (.core n) cc sd sa sb imm) s
      (takeExc (disarm s n) n { code := 4, eaddr := BitVec.ofNat 64 a } 6 true (coreAt s n).pc (coreAt s n).pc) :=
  gives_fault (exec_waitm_core n cc sd sa sb imm s) (by rw [waitmEff_disarm, ha, waitmAt_address h]; rfl)

variable (h : a % 8 = 0 ∧ (2 ^ 48 ≤ a ∧ a + 8 ≤ 2 ^ 48 + 0x600000 ∨ 2 ^ 49 ≤ a ∧ a + 8 ≤ 2 ^ 49 + 0x1000000))
include h

theorem waitm_poison (hp : s.mem.isPoisoned (sramAt n a / 64) = true) : Gives (.core n) (.waitm (.core n) cc sd sa sb imm) s
      (takeExc (disarm s n) n { code := 0xA, eaddr := BitVec.ofNat 64 a } 6 true (coreAt s n).pc (coreAt s n).pc) :=
  gives_fault (exec_waitm_core n cc sd sa sb imm s) (by rw [waitmEff_disarm, ha, waitmAt_poison (s := disarm s n) h hp]; rfl)

theorem waitm_met (hp : s.mem.isPoisoned (sramAt n a / 64) = false)
    (hm : wcondHolds cc (mem64 s.mem (sramAt n a)) (getS (.core n) sb s) = true) :
    Gives (.core n) (.waitm (.core n) cc sd sa sb imm) s (setS (.core n) sd (mem64 s.mem (sramAt n a)) (fell (.core n) s)) :=
  gives_setS (exec_waitm_core n cc sd sa sb imm s)
    (by rw [waitmEff_disarm, ha, waitmAt_clean (s := disarm s n) h hp, getS_disarm, mem_disarm, if_pos hm])

theorem waitm_unmet (hp : s.mem.isPoisoned (sramAt n a / 64) = false)
    (hm : ¬ wcondHolds cc (mem64 s.mem (sramAt n a)) (getS (.core n) sb s) = true) :
    Gives (.core n) (.waitm (.core n) cc sd sa sb imm) s (holdFor (disarm s n) n (.waitm (.core n) cc sd sa sb imm)) :=
  gives_hold (exec_waitm_core n cc sd sa sb imm s)
    (by rw [waitmEff_disarm, ha, waitmAt_clean (s := disarm s n) h hp, getS_disarm, mem_disarm, if_neg hm])

end waitm

/-! ### launch and the handle copies (R60, R106) -/

theorem exec_launch_core (n : CoreId) (sa : SReg) (s : State) : exec (.launch (.core n) sa) s =
    .next (issueCore n (.launch (.core n) sa) 6 (fun s => .done (armLaunch (.core n) (getS (.core n) sa s) s)) s) := rfl

theorem exec_qcopy_core (n : CoreId) (qd qn : QReg) (s : State) : exec (.qcopy (.core n) qd qn) s =
    .next (issueCore n (.qcopy (.core n) qd qn) 6 (fun s => .done (setQ n qd (coreAt s n).q[qn] s)) s) := rfl

theorem exec_qread_core (n : CoreId) (sd : SReg) (qn : QReg) (s : State) : exec (.qread (.core n) sd qn) s =
    .next (issueCore n (.qread (.core n) sd qn) 6 (fun s => .done (setS (.core n) sd (coreAt s n).q[qn] s)) s) := rfl

/-- An instruction whose effect is a change `f` of its core, which becomes `g` beside the retirement. -/
theorem gives_modCore {n : CoreId} {i : Instr} {cls : Nat} {e : State → Eff} {s : State} {f : Core → Core}
    (hi : exec i s = .next (issueCore n i cls e s)) (he : e (disarm s n) = .done (modCore (disarm s n) n f)) {g : Core → Core}
    (hf : ∀ c dst, endC dst (f (disarmC c)) = g (retiredCore c dst)) : Gives (.core n) i s (modCore (fell (.core n) s) n g) := by
  intro hr
  rw [hi, issueCore_done hr he, retireTo_settle, fell, retired_eq, disarm_eq, dropStalls_modCore, dropStalls_modCore, modCore_modCore,
    modCore_modCore, modCore_modCore]
  exact congrArg _ (modCore_congr _ _ _ _ (hf _ _))

theorem now_disarm (s : State) (n : CoreId) : now (disarm s n) = now s := rfl

theorem launch_late {n : CoreId} {sa : SReg} {s : State} (h : (getS (.core n) sa s).toNat ≤ now s) :
    Gives (.core n) (.launch (.core n) sa) s (modCore (fell (.core n) s) n (fun c => { c with late := true })) := by
  refine gives_modCore (exec_launch_core n sa s) (f := fun c => { c with late := true }) ?_ fun c dst => ?_
  · rw [getS_disarm, armLaunch, now_disarm, if_pos h]
  · cases hp : c.launchPend <;> simp [endC, disarmC, retiredCore, hp]

theorem launch_arms {n : CoreId} {sa : SReg} {s : State} (h : now s < (getS (.core n) sa s).toNat) :
    Gives (.core n) (.launch (.core n) sa) s (modCore (fell (.core n) s) n
      (fun c => { c with launchat := getS (.core n) sa s, launchPend := true, state := .wait })) := by
  refine gives_modCore (exec_launch_core n sa s) (f := fun c => { c with launchat := getS (.core n) sa s, launchPend := true }) ?_
    fun c dst => ?_
  · rw [getS_disarm, armLaunch, now_disarm, if_neg (Nat.not_le.mpr h)]
  · cases hp : c.launchPend <;> simp [endC, disarmC, retiredCore, hp]

theorem qcopy_done (n : CoreId) (qd qn : QReg) (s : State) : Gives (.core n) (.qcopy (.core n) qd qn) s
    (modCore (fell (.core n) s) n (fun x => { x with q := x.q.set qd (coreAt s n).q[qn] })) := by
  refine gives_modCore (exec_qcopy_core n qd qn s) (f := fun x => { x with q := x.q.set qd (coreAt s n).q[qn] }) ?_ fun c dst => ?_
  · rw [q_disarm]; rfl
  · cases hp : c.launchPend <;> simp [endC, disarmC, retiredCore, hp]

/-! ### The moment of a launch, and the limit of a hold (R58, R60) -/

section launchTarget
variable {n : CoreId} {s : State}

theorem launchTargetReached_idle (h : ¬(deviceRuns s = true ∧ (coreAt s n).launchPend = true ∧
    ((coreAt s n).state = .run ∨ (coreAt s n).state = .wait))) : exec (.launchTargetReached (.core n)) s = .next s := by
  have hc : ¬(deviceRuns s && (coreAt s n).launchPend && live (coreAt s n)) = true := by
    simpa [live, Bool.and_eq_true, decide_eq_true_eq, and_assoc] using h
  exact congrArg Host.Outcome.next (if_neg hc)

theorem launchTargetReached_goes (hd : deviceRuns s = true) (hp : (coreAt s n).launchPend = true)
    (hl : (coreAt s n).state = .run ∨ (coreAt s n).state = .wait) : exec (.launchTargetReached (.core n)) s =
      .next (modCore (advanceTo s (coreAt s n).launchat.toNat) n
        (fun c => { c with launchPend := false, launchat := 0, state := .run })) := by
  have hc : (deviceRuns s && (coreAt s n).launchPend && live (coreAt s n)) = true := by
    simpa [live, Bool.and_eq_true, decide_eq_true_eq, and_assoc] using ⟨hd, hp, hl⟩
  exact congrArg Host.Outcome.next (if_pos hc)

end launchTarget

section timeout
variable {n : CoreId} {s : State}

/-- What a hold that lasts too long leads to. -/
def heldTooLong (n : CoreId) (s : State) (k : Hold) : State :=
  if deviceRuns s && live (coreAt s n) && waitLimited k.instr && decide ((coreAt s n).waitlim ≠ 0) then
    takeExc (advanceTo s (k.since + (coreAt s n).waitlim.toNat + 1)) n excTimeout 6 true (coreAt s n).pc (coreAt s n).pc
  else s

theorem exec_waitTimeout_core (n : CoreId) (s : State) :
    exec (.waitTimeout (.core n)) s = .next (((coreAt s n).hold.map (heldTooLong n s)).getD s) := by
  change Host.Outcome.next (match (coreAt s n).hold with | some k => heldTooLong n s k | none => s) = _
  cases (coreAt s n).hold <;> rfl

theorem waitTimeout_none (h : (coreAt s n).hold = none ∨ (coreAt s n).waitlim = 0) : exec (.waitTimeout (.core n)) s = .next s := by
  rw [exec_waitTimeout_core]
  rcases h with h | h
  · rw [h]; rfl
  · cases (coreAt s n).hold with
    | none => rfl
    | some k => simp [heldTooLong, h]

variable {hd : Hold} (hh : (coreAt s n).hold = some hd)
include hh

theorem waitTimeout_fires (hdev : deviceRuns s = true) (hl : (coreAt s n).state = .run ∨ (coreAt s n).state = .wait)
    (hw : (coreAt s n).waitlim ≠ 0) (hi : waitLimited hd.instr = true) : exec (.waitTimeout (.core n)) s =
      .next (takeExc (advanceTo s (hd.since + (coreAt s n).waitlim.toNat + 1)) n { code := 0xC, src := 5 } 6 true
        (coreAt s n).pc (coreAt s n).pc) := by
  have hc : (deviceRuns s && live (coreAt s n) && waitLimited hd.instr && decide ((coreAt s n).waitlim ≠ 0)) = true := by
    rw [live, hdev, hi, decide_eq_true hw, decide_eq_true hl]; rfl
  rw [exec_waitTimeout_core, hh]
  exact congrArg Host.Outcome.next (if_pos hc)

theorem waitTimeout_unlimited (hi : waitLimited hd.instr = false) : exec (.waitTimeout (.core n)) s = .next s := by
  rw [exec_waitTimeout_core, hh]
  simp [heldTooLong, hi]

end timeout

section reread
variable {n : CoreId} {s : State}

/-- The held waitm reads its word again. -/
theorem waitmReread_holds {cc : WCond} {sd sa sb : SReg} {imm : BitVec 24} {hd : Hold} (hh : (coreAt s n).hold = some hd)
    (hi : hd.instr = .waitm (.core n) cc sd sa sb imm) :
    exec (.waitmReread (.core n)) s = exec (.waitm (.core n) cc sd sa sb imm) s := by
  obtain ⟨instr, since⟩ := hd
  obtain rfl : instr = _ := hi
  change execWaitmReread (.core n) s = _
  rw [execWaitmReread, holdOf, hh]
  exact congrArg Host.Outcome.next (if_pos rfl)

theorem waitmReread_none (hh : (coreAt s n).hold = none) : exec (.waitmReread (.core n)) s = .next s := by
  change execWaitmReread (.core n) s = _
  rw [execWaitmReread, holdOf, hh]

end reread

/-! ### The management core (R51, log entry 8) -/

section mgmt
variable {k : Fin 4} {s : State}

theorem issue_mgmt_fault {i : Instr} {cls : Nat} {f : State → Eff} {x : Exc} (hr : Ready (.mgmt k) i s)
    (hf : f (disarmed (.mgmt k) s) = .fault x) :
    issue (.mgmt k) i cls f s = report (disarmed (.mgmt k) s) { kind := 0x1A, cls := 5, unit := 13 } := by
  obtain ⟨hl, hc⟩ := hr
  change mgmtCanIssue s k i = true at hc
  simp only [disarmed] at hf
  simp only [issue, issueMgmt, if_pos hc, hl, Bool.not_true, Bool.false_eq_true, if_false, hf, mgmtExc, disarmed]

theorem disarmed_mgmt (h : s.mgmt[k].launchPend = false) : disarmed (.mgmt k) s = s :=
  if_neg (by rw [h]; decide)

/-- The retirement on a management core. -/
theorem issue_mgmt_done {i : Instr} {cls : Nat} {f : State → Eff} {t : State} (hr : Ready (.mgmt k) i s)
    (hf : f (disarmed (.mgmt k) s) = .done t) : issue (.mgmt k) i cls f s =
      setMgmt t k { t.mgmt[k] with pc := getPc (.mgmt k) s + 8, hold := none } := issue_done hr hf

theorem fell_mgmt : fell (.mgmt k) s =
    setMgmt (disarmed (.mgmt k) s) k { (disarmed (.mgmt k) s).mgmt[k] with pc := getPc (.mgmt k) s + 8, hold := none } := by
  rw [fell, retired]
  by_cases hp : s.mgmt[k].launchPend = true
  · rw [disarmed, if_pos hp, if_pos hp]
    simp [setMgmt]
  · rw [disarmed_mgmt (Bool.eq_false_iff.mpr hp), if_neg hp]
    have hf : s.mgmt[k.val].launchPend = false := Bool.eq_false_iff.mpr hp
    simp [setMgmt, hf]

theorem now_disarmed_mgmt : now (disarmed (.mgmt k) s) = now s := by
  rw [disarmed]
  split <;> rfl

theorem launch_mgmt_late {sa : SReg} (hr : Ready (.mgmt k) (.launch (.mgmt k) sa) s) (hv : (getS (.mgmt k) sa s).toNat ≤ now s) :
    issue (.mgmt k) (.launch (.mgmt k) sa) 6 (fun s => .done (armLaunch (.mgmt k) (getS (.mgmt k) sa s) s)) s = fell (.mgmt k) s := by
  refine (issue_mgmt_done hr (t := armLaunch (.mgmt k) (getS (.mgmt k) sa (disarmed (.mgmt k) s)) (disarmed (.mgmt k) s)) rfl).trans ?_
  rw [getS_disarmed, armLaunch, now_disarmed_mgmt, if_pos hv, fell_mgmt]

theorem launch_mgmt_arms {sa : SReg} (hr : Ready (.mgmt k) (.launch (.mgmt k) sa) s) (hv : now s < (getS (.mgmt k) sa s).toNat) :
    issue (.mgmt k) (.launch (.mgmt k) sa) 6 (fun s => .done (armLaunch (.mgmt k) (getS (.mgmt k) sa s) s)) s =
      setMgmt (fell (.mgmt k) s) k { (fell (.mgmt k) s).mgmt[k] with launchat := getS (.mgmt k) sa s, launchPend := true } := by
  refine (issue_mgmt_done hr (t := armLaunch (.mgmt k) (getS (.mgmt k) sa (disarmed (.mgmt k) s)) (disarmed (.mgmt k) s)) rfl).trans ?_
  rw [getS_disarmed, armLaunch, now_disarmed_mgmt, if_neg (Nat.not_le.mpr hv), fell_mgmt]
  simp [setMgmt]

end mgmt

/-! ### The statement -/

theorem fences (n : CoreId) (k : FenceKind) (s : State) :
    let h : Hart := .core n
    let c := coreAt s n
    let racking := fun (q : Fin 2) => doneCount s n q = enqCount s n q
    let collDone : Prop := ∀ g, coreOwner s n = some g → ∀ q : Fin 16, ∀ o ∈ s.gal[g].cq[q].ops, o.core ≠ n
    let ok : Prop := ((k = .m ∨ k = .a) → c.mq = []) ∧ ((k = .d ∨ k = .a) → racking 0 ∧ racking 1) ∧
      ((k = .c ∨ k = .a) → collDone)
    let stopped : Prop := (k = .d ∨ k = .a) ∧ ∃ q : Fin 2, c.rq[q].tfault = true
    (¬ stopped → ok → Gives h (.fence h k) s (fell h s)) ∧
    (¬ stopped → ¬ ok → Gives h (.fence h k) s (holdFor (disarm s n) n (.fence h k))) ∧
    (∀ (q : Fin 2) (cls : Nat) (w : Bool) (a : Word) (d : RDesc), (k = .d ∨ k = .a) → c.rq[q].tfault = true →
      (q = 1 → c.rq[(0 : Fin 2)].tfault = false) → c.rq[q].fault = some (cls, w, a) → c.rq[q].cur = some d →
      Gives h (.fence h k) s (takeExc (disarm s n) n
        { code := 5, src := 3, eaddr := a, einfo := BitVec.ofNat 64 q.val, fclass := cls } 4 false d.pc c.pc)) :=
  ⟨fun hs ho hr => fence_done hr (fenceFault_none hs) (fenceMet_iff.mpr ho),
    fun hs ho hr => fence_hold hr (fenceFault_none hs) (mt fenceMet_iff.mp ho),
    fun _ _ _ _ _ hk ht h0 hx hc hr => fence_stop hr (fenceFault_some hk h0 (needFault_some ht hx hc))⟩

/-- Settles O29: each instruction by its effect at issue, each event by its condition. -/
theorem fencesAndWaits : Obligations.FencesAndWaits := by
  refine ⟨fences, fun n g sd qn sb s hg => ?_, fun n cc sd sa sb imm s => ?_, fun n sa qd qn sd s => ?_,
    fun k kind cc sd sa sb qd qn imm s => ?_⟩
  · intro h c i k old gives
    have hi := exec_wait_core n sd qn sb s
    refine ⟨fun hq => gives_fault hi (waitEff_bad hg hq), fun hq hk => gives_setS hi (waitEff_zero hg hq hk), fun q hq hk => ?_,
      fun q hq hk => ?_⟩
    · have he := waitEff_racking hg (sd := sd) hq hk
      refine ⟨fun hd ho => gives_setS hi ?_, fun hd ho => gives_setS hi ?_, fun hd ht => gives_hold hi ?_,
        fun hd ht cls w a d hx hc => gives_stop hi ?_⟩
      · rw [he, if_pos hd, rackRecord, if_pos ho]; rfl
      · rw [he, if_pos hd, rackRecord, if_neg (Nat.not_le.mpr ho)]
      · rw [he, if_neg (Nat.not_le.mpr hd), needFault_none (.inl ht)]
      · rw [he, if_neg (Nat.not_le.mpr hd), needFault_some ht hx hc]
    · have he := waitEff_coll hg (sd := sd) hq hk
      intro x w kept
      refine ⟨fun hd hx => gives_setS hi ?_, fun hd hx => gives_setS hi ?_, fun hd => gives_hold hi ?_⟩
      · rw [he, if_pos hd, collRecord, if_pos hx]
      · rw [he, if_pos hd, collRecord, if_neg hx]; rfl
      · rw [he, if_neg (Nat.not_le.mpr hd)]
  · intro h c i a inside pa v b met
    have hm : wcondHolds cc v b = true ↔ met := wcondHolds_iff cc v b
    refine ⟨waitm_address rfl, waitm_poison rfl, fun hin hp hv => waitm_met rfl hin hp (hm.mpr hv),
      fun hin hp hv => waitm_unmet rfl hin hp (mt hm.mp hv), fun hd hh hins => ?_, waitmReread_none⟩
    · exact waitmReread_holds hh hins
  · intro h c v
    refine ⟨launch_late, launch_arms, qcopy_done n qd qn s, gives_setS (exec_qread_core n sd qn s) (by rw [q_disarm]),
      launchTargetReached_idle, fun hd hp hl => ⟨_, launchTargetReached_goes hd hp hl, ?_, ?_, fun m hm => ?_, ?_, ?_⟩,
      fun hd hh hdev hl hw => ⟨fun sd qn sb hi => ?_, fun sd hi => ?_, fun cc sd sa sb imm hi => ?_, fun k hi => ?_⟩, waitTimeout_none⟩
    · rw [coreAt_modCore, coreAt_advanceTo]
    · rw [now_modCore]
      exact le_now_advanceTo
    · rw [coreAt_modCore_of_ne _ _ hm, coreAt_advanceTo]
    · rw [modCore_mem, advanceTo]
    · rw [modCore_dev, advanceTo]
    · exact waitTimeout_fires hh hdev hl hw (by rw [hi]; rfl)
    · exact waitTimeout_fires hh hdev hl hw (by rw [hi]; rfl)
    · exact waitTimeout_fires hh hdev hl hw (by rw [hi]; rfl)
    · exact waitTimeout_unlimited hh (by rw [hi]; rfl)
  · intro h fault
    refine ⟨fun hp => ⟨fun hr => ?_, fun hr => ?_, fun hr => ?_, fun hr => ?_⟩, fun hd hp => ?_, fun hr => ?_, rfl, fun hv hr => ?_,
      fun hv hr => ?_⟩
    · exact congrArg Host.Outcome.next ((issue_ctxOnly_mgmt hr).trans (by rw [disarmed_mgmt hp]))
    · exact congrArg Host.Outcome.next ((issue_mgmt_fault (f := waitmEff h cc sd sa sb imm) hr rfl).trans (by rw [disarmed_mgmt hp]))
    · exact congrArg Host.Outcome.next ((issue_ctxOnly_mgmt hr).trans (by rw [disarmed_mgmt hp]))
    · exact congrArg Host.Outcome.next ((issue_ctxOnly_mgmt hr).trans (by rw [disarmed_mgmt hp]))
    · exact congrArg Host.Outcome.next (if_pos (by rw [hd, hp]; rfl))
    · exact congrArg Host.Outcome.next ((issue_mgmt_done hr rfl).trans fell_mgmt.symm)
    · exact congrArg Host.Outcome.next (launch_mgmt_late hr hv)
    · exact congrArg Host.Outcome.next (launch_mgmt_arms hr hv)

end Sys2Proof.Machine
end

section
/-! PROOFS. A save into a channel that failed training (R66, R241). -/

namespace Sys2Proof.Machine

/-! ### Writes to a failed channel (R241) -/

theorem Memory.byte_writeAlive_dead {m : Memory} {i : Nat} (h : m.deadAt i = true) (a : Nat) (bs : List Byte) :
    (m.writeAlive a bs).byte i = m.byte i := by
  induction bs generalizing m a with
  | nil => rfl
  | cons b bs ih =>
    rw [Memory.writeAlive]
    split
    · exact ih h (a + 1)
    · next ha =>
      have hne : ¬(a ≤ i ∧ i < a + 1) := fun hi => ha (by rwa [show a = i by omega])
      rw [ih ((Memory.deadAt_congr (m.patch_dead a [b]) (m.patch_ways a [b]) i).trans h), Memory.byte_patch]
      exact if_neg hne

/-- What lies in a failed channel is not written. -/
theorem Memory.byte_store_dead {m : Memory} {i : Nat} (h : m.deadAt i = true) (a : Nat) (bs : List Byte) (p : Bool) :
    (m.store a bs p).byte i = m.byte i := by
  rw [Memory.byte_store, Memory.write]
  split
  · next hd => simp [Memory.deadAt, hd] at h
  · exact Memory.byte_writeAlive_dead h a bs

theorem storeParts_byte_dead {m : Memory} {i : Nat} (h : m.deadAt i = true) (a : Nat) (ps : List (Nat × List Byte)) :
    (storeParts a ps m).byte i = m.byte i := by
  induction ps generalizing m with
  | nil => rfl
  | cons p ps ih => exact (ih (by rw [Memory.deadAt_store, h])).trans (Memory.byte_store_dead h _ _ _)

/-! ### A save into a failed channel -/

/-- Core 0 saves its context to address 0, in channel 0 of group 0, which failed training. -/
def deadSave : State :=
  { State.reset with cores := State.reset.cores.set 0 { State.reset.cores[0] with state := .saving }
                     mem := { State.reset.mem with dead := [(0, 0)] } }

theorem deadSave_core : coreAt deadSave 0 = { cycleBase := 0, state := .saving } := by
  simp [coreAt, deadSave, State.reset]

theorem deadSave_dead : deadSave.mem.deadAt 0 = true ∧ deadSave.mem.deadAt 1 = true := by
  simp [deadSave, Memory.deadAt, State.reset, interleave]

/-- The first word of the image, whose low half is the format. -/
theorem mem64_eq_zero_of_bytes {m : Memory} {a : Nat} (h0 : m.byte a = 0) (h1 : m.byte (a + 1) = 0) : bits (mem64 m a) 15 0 = 0 := by
  rw [bits_eq_div, mem64, BitVec.toNat_ofNat, Memory.bytes, Memory.bytes, leNat, leNat, h0, h1]
  change (0 + 256 * (0 + 256 * _)) % 2 ^ 64 / 2 ^ 0 % 2 ^ 16 = 0
  omega

/-- Refutes O34: a save to an address in a channel that failed training. Its writes are discarded (R241), so the image's
format does not read 1, though the save met no uncorrectable error. -/
theorem not_contextControl : ¬ Obligations.ContextControl := by
  intro h
  obtain ⟨-, -, -, -, -, hsave, -⟩ := h.1 0 deadSave
  obtain ⟨t, -, -, -, -, hformat, -, -, -, hexec, -⟩ := hsave 0 (by rw [deadSave_core]) (by rw [deadSave_core]; decide)
    (by rw [deadSave_core]; decide)
  have hmem : t.mem = storeParts 0 (imageParts deadSave 0 0) deadSave.mem := by
    rw [mem_of_save (by rw [deadSave_core]) (hexec rfl), deadSave_core]
    rfl
  have hz : (coreAt deadSave 0).ctxpa.toNat = 0 := by rw [deadSave_core]; rfl
  have hbyte {i : Nat} (hi : deadSave.mem.deadAt i = true) : t.mem.byte i = 0 := by
    rw [hmem, storeParts_byte_dead hi]
    rfl
  obtain ⟨h0, h1⟩ := deadSave_dead
  rw [hz, mem64_eq_zero_of_bytes (hbyte h0) (hbyte h1)] at hformat
  exact absurd hformat (by decide)

end Sys2Proof.Machine
end

section
/-! PROOFS. Exceptions and the NaN trap (R61 to R63, R167 to R171). -/

namespace Sys2Proof.Machine

/-! ### An entry that joins its queue (R382, R383) -/

/-- A Fault Record Queue with one more entry, in handling where it is fatal. -/
def Frq.joined (f : Frq) (x : FEntry) (fatal : Bool) (cause : Nat) : Frq :=
  { f with ents := f.ents ++ [x], handling := f.handling || fatal, cause := cause }

/-- A recorded error joins a queue that has room, and the Condition Report may take its record. -/
theorem record_joins {s : State} {e : Err} (hk : toFrq e.kind = true) (hroom : s.frq[frqOf e.gal].ents.length < 8) (nest cls : Nat) :
    ∃ cr, (record s e nest cls).2 = { s with
      frq := s.frq.set (frqOf e.gal) (s.frq[frqOf e.gal].joined (mkEntry s e nest cls (s.cr.head + 1)) false s.frq[frqOf e.gal].cause)
      cr := cr } := by
  have hpush : frqPush (takeSeq s).2 (frqOf e.gal) (mkEntry s e nest cls (s.cr.head + 1)) cls e.gal = { (takeSeq s).2 with
      frq := s.frq.set (frqOf e.gal)
        (s.frq[frqOf e.gal].joined (mkEntry s e nest cls (s.cr.head + 1)) false s.frq[frqOf e.gal].cause) } := by
    refine (if_pos hroom).trans ?_
    simp [setFrq, Frq.joined, takeSeq]
  have hrec : (record s e nest cls).2 = if toCr e.kind then
      crWrite (frqPush (takeSeq s).2 (frqOf e.gal) (mkEntry s e nest cls (s.cr.head + 1)) cls e.gal) e.kind
        (mkEntry s e nest cls (s.cr.head + 1))
    else frqPush (takeSeq s).2 (frqOf e.gal) (mkEntry s e nest cls (s.cr.head + 1)) cls e.gal := by
    simp only [record, hk, if_true]
    rfl
  rw [hrec, hpush]
  split
  · exact ⟨_, crWrite_rest _ _ _⟩
  · exact ⟨_, rfl⟩

/-- A queue's fatal entry goes into handling. -/
def handled (s : State) (q : Fin 9) (cause : Nat) : State := setFrq s q { s.frq[q] with handling := true, cause := cause }

/-- A Gallery that is neither torn down nor reset. -/
def Quiet (s : State) (g : Gal) : Prop := s.gal[g].tear = .none ∧ s.gal[g].reset = none

theorem tearing_of_quiet {s : State} {g : Gal} (hq : Quiet s g) : tearing s g = false := by
  obtain ⟨htear, hreset⟩ := hq
  rw [tearing, htear, hreset]
  rfl

theorem effClass_of_quiet {s : State} {e : Err} {g : Gal} (hg : e.gal = some g) (hq : Quiet s g) : effClass s e = e.cls := by
  have ht : ¬(tearing s g = true ∧ [1, 2, 3, 0x16].contains e.kind = true) := fun h => by simp [tearing_of_quiet hq] at h
  rw [effClass, hg]
  exact if_neg ht

theorem galResetting_of_quiet {s : State} {g : Gal} (hq : Quiet s g) : galResetting s g = false := by
  rw [galResetting, hq.2]

/-- An error that is not fatal, or that is the first to be, joins a queue that has room and is not in handling. -/
theorem report_joins {s : State} {e : Err} {g : Gal} (hg : e.gal = some g) (hq : Quiet s g) (hk : toFrq e.kind = true)
    (hcls : e.cls ≤ 3) (h23 : e.kind ≠ 0x23) (hroom : s.frq[frqOf (some g)].ents.length < 8)
    (hhand : s.frq[frqOf (some g)].handling = false) : ∃ cr cause, report s e = { s with
      frq := s.frq.set (frqOf (some g))
        (s.frq[frqOf (some g)].joined (mkEntry s e 0 e.cls (s.cr.head + 1)) (decide (e.cls = 3)) cause), cr := cr } := by
  have heff := effClass_of_quiet hg hq
  have hreset := galResetting_of_quiet hq
  obtain ⟨kind, cls, unit, gal, core, d0, d1, d2, d3⟩ := e
  obtain rfl : gal = some g := hg
  obtain ⟨cr, hrec⟩ := record_joins hk hroom 0 cls
  simp only at hcls h23 heff
  simp only [report, heff, h23, or_false]
  by_cases h3 : cls < 3
  · rw [if_pos h3, decide_eq_false (by omega)]
    exact ⟨cr, _, hrec⟩
  · obtain rfl : cls = 3 := by omega
    rw [if_neg h3, hreset, if_neg (by decide), if_neg (by decide), hhand, decide_eq_false (Nat.not_le.mpr hroom),
      if_neg (by decide), if_neg (by decide)]
    refine ⟨cr, (record s ⟨kind, 3, unit, some g, core, d0, d1, d2, d3⟩ 0 3).1, ?_⟩
    change handled (record s ⟨kind, 3, unit, some g, core, d0, d1, d2, d3⟩ 0 3).2 (frqOf (some g)) _ = _
    rw [hrec]
    simp [handled, setFrq, Frq.joined]

/-- The fields of an entry's first word that name its error (Table 13-3). -/
theorem entryW0_fields {e : Err} {g : Gal} {n : CoreId} (hg : e.gal = some g) (hc : e.core = some n) (hk : e.kind < 256)
    (hu : e.unit < 16) {cls : Nat} (hcls : cls < 8) (seq : Nat) :
    bits (entryW0 e 0 cls seq) 55 48 = e.kind ∧ bits (entryW0 e 0 cls seq) 58 56 = cls ∧
    bits (entryW0 e 0 cls seq) 42 40 = g.val ∧ bits (entryW0 e 0 cls seq) 38 32 = n.val := by
  have hgl : g.val < 8 := g.isLt
  have hn : n.val < 128 := n.isLt
  have hw : (entryW0 e 0 cls seq).toNat = 2 ^ 63 + cls * 2 ^ 56 + e.kind * 2 ^ 48 + e.unit * 2 ^ 44 + 2 ^ 43 + g.val * 2 ^ 40 + 2 ^ 39 +
      n.val * 2 ^ 32 + seq % 2 ^ 32 := by
    rw [entryW0, hg, hc, mkWord, BitVec.toNat_ofNat, List.foldl_cons, List.foldl_cons, List.foldl_cons, List.foldl_cons, List.foldl_cons,
      List.foldl_cons, List.foldl_cons, List.foldl_cons, List.foldl_cons, List.foldl_cons, List.foldl_nil]
    simp only [Nat.shiftLeft_eq, Option.isSome_some, b1, Option.map_some, Option.getD_some, if_true]
    omega
  simp only [bits_eq_div, hw]
  omega

/-! ### Stopping a core (R61 to R63) -/

section stop
variable (s : State) (n : CoreId) (x : Exc) (cls : Nat) (restart : Bool) (epc resume : Word)

theorem stopAt_rest : stopAt s n x cls restart epc resume = { s with cores := (stopAt s n x cls restart epc resume).cores } := by
  unfold stopAt
  split <;> rfl

theorem excSeal_rest : excSeal s n x = { s with gal := (excSeal s n x).gal } := by
  unfold excSeal
  split
  · rfl
  · split
    · rfl
    · split <;> rfl

theorem modSeal_quiet (g k : Gal) (f : Seal → Seal) : (modSeal s g f).gal[k].tear = s.gal[k].tear ∧
    (modSeal s g f).gal[k].reset = s.gal[k].reset := by
  by_cases h : k = g
  · subst h
    rw [modSeal, modGal_gal_self]
    exact ⟨rfl, rfl⟩
  · rw [modSeal, modGal_gal_ne _ _ _ h]
    exact ⟨rfl, rfl⟩

theorem excSeal_quiet (k : Gal) : (excSeal s n x).gal[k].tear = s.gal[k].tear ∧ (excSeal s n x).gal[k].reset = s.gal[k].reset := by
  unfold excSeal
  split
  · exact ⟨rfl, rfl⟩
  · split
    · exact modSeal_quiet s _ k _
    · split
      · exact modSeal_quiet s _ k _
      · exact ⟨rfl, rfl⟩

/-- The core after an exception stops it. -/
def stoppedCore (c : Core) : Core :=
  { c with state := .stopped, hold := none, ecause := causeWord x cls restart, epc := epc, eaddr := x.eaddr
           einfo := if x.code = 0x07 ∨ x.code = 0x09 then x.einfo else 0, resumepc := resume, pc := resume }

theorem coreAt_stopAt_live (h : (coreAt s n).state = .run ∨ (coreAt s n).state = .wait) :
    coreAt (stopAt s n x cls restart epc resume) n = stoppedCore x cls restart epc resume (coreAt s n) := by
  rw [stopAt, live, if_pos (decide_eq_true h), coreAt_modCore]
  rfl

theorem stopAt_not_live (h : ¬((coreAt s n).state = .run ∨ (coreAt s n).state = .wait)) :
    stopAt s n x cls restart epc resume = s := by
  rw [stopAt, live, decide_eq_false h]
  rfl

theorem coreAt_stopAt_ne {m : CoreId} (h : m ≠ n) : coreAt (stopAt s n x cls restart epc resume) m = coreAt s m := by
  unfold stopAt
  split
  · exact coreAt_modCore_of_ne s _ h
  · rfl

/-- The state in which an exception is taken: a free value is used up, and the core waits on no frame. -/
def excStart : State := dropStalls { s with free := s.free + 1 } (.core n)

theorem coreAt_excStart (m : CoreId) : coreAt (excStart s n) m = coreAt s m := rfl

/-- The state in which an exception is reported. -/
def excState : State := excSeal (stopAt (excStart s n) n x cls restart epc resume) n x

theorem excState_rest : excState s n x cls restart epc resume = { s with
    free := s.free + 1, walker := (dropStalls s (.core n)).walker
    cores := (stopAt (excStart s n) n x cls restart epc resume).cores
    gal := (excState s n x cls restart epc resume).gal } := by
  rw [excState, excSeal_rest, stopAt_rest]
  rfl

theorem takeExc_eq : takeExc s n x cls restart epc resume =
    report (excState s n x cls restart epc resume) (excErr s n x (causeWord x cls restart) epc) := by
  have howner : coreOwner (stopAt (excStart s n) n x cls restart epc resume) n = coreOwner s n := by
    rw [stopAt_rest]
    rfl
  change report (excSeal (stopAt (excStart s n) n x cls restart epc resume) n x)
    (excErr (stopAt (excStart s n) n x cls restart epc resume) n x (causeWord x cls restart) epc) = _
  rw [excState, excErr, excErr, howner]

theorem coreAt_excState (m : CoreId) : coreAt (excState s n x cls restart epc resume) m =
    coreAt (stopAt (excStart s n) n x cls restart epc resume) m := by
  rw [excState, excSeal_rest]
  rfl

theorem excState_quiet {g : Gal} (h : Quiet s g) : Quiet (excState s n x cls restart epc resume) g := by
  obtain ⟨htear, hreset⟩ := excSeal_quiet (stopAt (excStart s n) n x cls restart epc resume) n x g
  rw [Quiet, excState, htear, hreset, stopAt_rest]
  exact h

end stop

/-- The fields of the cause (Table 2-18). -/
theorem causeWord_fields {x : Exc} {cls : Nat} {restart : Bool} (hcode : x.code < 256) (hsrc : x.src < 8) :
    bits (causeWord x cls restart) 7 0 = x.code ∧ (causeWord x cls restart).getLsbD 8 = restart ∧
    bits (causeWord x cls restart) 11 9 = x.src ∧ bits (causeWord x cls restart) 15 12 = 0 ∧
    (cls < 8 → bits (causeWord x cls restart) 63 16 = cls) := by
  have hr := b1_le restart
  have hw : (causeWord x cls restart).toNat = (cls * 2 ^ 16 + x.src * 2 ^ 9 + b1 restart * 2 ^ 8 + x.code) % 2 ^ 64 := by
    rw [causeWord, mkWord, BitVec.toNat_ofNat, List.foldl_cons, List.foldl_cons, List.foldl_cons, List.foldl_cons, List.foldl_nil]
    simp only [Nat.shiftLeft_eq]
    omega
  have hbit : (causeWord x cls restart).getLsbD 8 = restart := by
    change bit _ _ = _
    exact bit_field (by rw [hw]; omega)
  refine ⟨?_, hbit, ?_, ?_, fun hcls => ?_⟩ <;> rw [bits_eq_div, hw] <;> omega

/-! ### The entry of an exception (Tables 13-2 to 13-4) -/

/-- The codes of an exception that a unit or the sequencer raises. -/
theorem excCode_cases {x : Exc} (h : x.code ∈ [1, 2, 3, 4, 5, 6, 7, 8, 0xA, 0xB, 0xC, 0xD]) :
    excKind x.code = (if x.code = 5 then 3 else if x.code = 0xB then 5 else if x.code ∈ [3, 0xC, 0xD] then 2 else 1) ∧
    excClass x.code = (if excKind x.code = 1 ∨ excKind x.code = 5 then 3 else 0) ∧ toFrq (excKind x.code) = true ∧
    excKind x.code < 6 ∧ (excKind x.code = 3 → x.code = 5) ∧ x.code ≠ 9 ∧ x.code < 256 := by
  have key : ∀ k ∈ [1, 2, 3, 4, 5, 6, 7, 8, 0xA, 0xB, 0xC, 0xD],
      excKind k = (if k = 5 then 3 else if k = 0xB then 5 else if k ∈ [3, 0xC, 0xD] then 2 else 1) ∧
      excClass k = (if excKind k = 1 ∨ excKind k = 5 then 3 else 0) ∧ toFrq (excKind k) = true ∧
      excKind k < 6 ∧ (excKind k = 3 → k = 5) ∧ k ≠ 9 ∧ k < 256 := by decide
  exact key _ h

theorem srcUnit_lt (k : Nat) : srcUnit k < 16 := by
  unfold srcUnit
  split <;> [decide; split <;> [decide; split <;> [decide; split <;> decide]]]

/-- The error of an exception that is no walk error. -/
theorem excErr_fields {s : State} {n : CoreId} {x : Exc} {cause epc : Word} (hw : excKind x.code = 3 → x.fclass ≠ 4) :
    (excErr s n x cause epc).kind = excKind x.code ∧ (excErr s n x cause epc).cls = excClass x.code ∧
    (excErr s n x cause epc).unit = srcUnit x.src ∧ (excErr s n x cause epc).gal = coreOwner s n ∧
    (excErr s n x cause epc).core = some n ∧
    (excKind x.code ≠ 3 → (excErr s n x cause epc).d0 = cause ∧ (excErr s n x cause epc).d1 = epc ∧
      (excErr s n x cause epc).d2 = x.eaddr ∧ (excErr s n x cause epc).d3 = x.einfo) ∧
    (excKind x.code = 3 → (excErr s n x cause epc).d1 = x.eaddr ∧ (excErr s n x cause epc).d2 = epc) := by
  have hcls : ¬(if excKind x.code = 3 then x.fclass else 0) = 4 := by
    split
    · next h => exact hw h
    · decide
  simp only [excErr, Err.ofWalk, if_neg hcls]
  refine ⟨trivial, trivial, trivial, trivial, trivial, fun h => ?_, fun h => ?_⟩
  · simp only [if_neg h, and_self]
  · simp only [if_pos h, and_self]

/-- The error of a walk that met uncorrectable structure lines (R255, Table 13-2). -/
theorem excErr_walk {s : State} {n : CoreId} {x : Exc} {cause epc : Word} (h5 : x.code = 5) (h4 : x.fclass = 4) :
    (excErr s n x cause epc).kind = 0x0E ∧ (excErr s n x cause epc).cls = 5 ∧ (excErr s n x cause epc).gal = coreOwner s n := by
  have hk : excKind x.code = 3 := by rw [h5]; decide
  simp only [excErr, Err.ofWalk, hk, if_true, h4, and_self]

/-! ### Taking an exception -/

section taken
variable {n : CoreId} {g : Gal} {x : Exc} {cls : Nat} {restart : Bool} {epc resume : Word} {s : State}

/-- An exception that is no walk error leaves the stopped core and the entry in its Gallery's queue. -/
theorem takeExc_joins (hg : coreOwner s n = some g) (hcode : x.code ∈ [1, 2, 3, 4, 5, 6, 7, 8, 0xA, 0xB, 0xC, 0xD])
    (hhand : s.frq[frqOf (some g)].handling = false) (hroom : s.frq[frqOf (some g)].ents.length < 8) (hq : Quiet s g)
    (hw : x.code = 5 → x.fclass ≠ 4) : ∃ cr cause, takeExc s n x cls restart epc resume =
      { excState s n x cls restart epc resume with
        frq := s.frq.set (frqOf (some g)) (s.frq[frqOf (some g)].joined
          (mkEntry s (excErr s n x (causeWord x cls restart) epc) 0 (excClass x.code) (s.cr.head + 1))
          (decide (excClass x.code = 3)) cause), cr := cr } := by
  obtain ⟨-, hclass, hto, hlt, h5, -, -⟩ := excCode_cases hcode
  obtain ⟨hek, hec, -, heg, -, -, -⟩ := excErr_fields (s := s) (n := n) (cause := causeWord x cls restart) (epc := epc)
    (fun h => hw (h5 h))
  rw [takeExc_eq]
  have hfrq : (excState s n x cls restart epc resume).frq = s.frq := by rw [excState_rest]
  have hhead : (excState s n x cls restart epc resume).cr = s.cr := by rw [excState_rest]
  have hnow : mkEntry (excState s n x cls restart epc resume) = mkEntry s := by rw [excState_rest]; rfl
  have hcls3 : excClass x.code ≤ 3 := by rw [hclass]; split <;> decide
  have := report_joins (s := excState s n x cls restart epc resume) (heg.trans hg) (excState_quiet s n x cls restart epc resume hq)
    (by rw [hek]; exact hto) (by rw [hec]; exact hcls3) (by rw [hek]; omega) (by rw [hfrq]; exact hroom) (by rw [hfrq]; exact hhand)
  rw [hec, hnow] at this
  simpa only [hfrq, hhead] using this

end taken

/-! ### A device-wide fatal error (R255) -/

/-- What a chip reset leaves depends on nothing else of the state before it. -/
theorem ChipResets.of_like {s s' t : State} {cause : Nat} {hold : Option Nat} (h : ChipResets s' t cause hold)
    (hpin : s'.cr.pinned = s.cr.pinned) (hboots : s'.cr.boots = s.cr.boots) (hclk : s'.clk = s.clk) (hprov : s'.prov = s.prov)
    (hmem : s'.mem = s.mem) (hpend : s'.pending = s.pending) : ChipResets s t cause hold := by
  unfold ChipResets at h ⊢
  rwa [hpin, hboots, hclk, hprov, hmem, hpend] at h

theorem report_fatal {s : State} {e : Err} {g : Gal} (hg : e.gal = some g) (hq : Quiet s g) (hcls : e.cls = 5) (h23 : e.kind ≠ 0x23) :
    report s e = chipReset (record s e 0 5).2 4 (record s e 0 5).1 := by
  have heff := effClass_of_quiet hg hq
  have hreset := galResetting_of_quiet hq
  obtain ⟨kind, cls, unit, gal, core, d0, d1, d2, d3⟩ := e
  obtain rfl : gal = some g := hg
  obtain rfl : cls = 5 := hcls
  simp only [report, heff, hreset]
  rw [if_neg (by simpa using h23)]
  rfl

/-- A walk error that the Condition Report alone takes leaves what a chip reset keeps. -/
theorem report_chipResets {s : State} {e : Err} {g : Gal} (hg : e.gal = some g) (hq : Quiet s g) (hcls : e.cls = 5) (hk : e.kind = 0x0E) :
    ChipResets s (report s e) 4 (some 0) := by
  rw [report_fatal hg hq hcls (by rw [hk]; decide)]
  have hrec : (record s e 0 5).2 = crWrite (takeSeq s).2 e.kind (mkEntry (takeSeq s).2 e 0 5 (takeSeq s).1) := by
    simp only [record, hk]
    rfl
  obtain ⟨-, hpin, hboots, -⟩ := crWrite_general (takeSeq s).2 (kind := e.kind) (by rw [hk]; decide)
    (mkEntry (takeSeq s).2 e 0 5 (takeSeq s).1)
  rw [← hrec] at hpin hboots
  refine (chipReset_chipResets (record s e 0 5).2 4 _).of_like hpin hboots ?_ ?_ ?_ ?_ <;> rw [record_rest]

theorem takeExc_walk {n : CoreId} {g : Gal} {x : Exc} {s : State} (cls : Nat) (restart : Bool) (epc resume : Word)
    (hg : coreOwner s n = some g) (h5 : x.code = 5) (h4 : x.fclass = 4) (hq : Quiet s g) :
    ChipResets s (takeExc s n x cls restart epc resume) 4 (some 0) := by
  obtain ⟨hk, hc, heg⟩ := excErr_walk (s := s) (n := n) (cause := causeWord x cls restart) (epc := epc) h5 h4
  rw [takeExc_eq]
  refine (report_chipResets (heg.trans hg) (excState_quiet s n x cls restart epc resume hq) hc hk).of_like ?_ ?_ ?_ ?_ ?_ ?_ <;>
    rw [excState_rest]

/-! ### The statement on exceptions -/

theorem exceptions_taken (n : CoreId) (g : Gal) (q : Fin 9) (x : Exc) (cls : Nat) (restart : Bool) (epc resume : Word) (s : State)
    (hg : coreOwner s n = some g) (hqg : q.val = g.val) (hcode : x.code ∈ [1, 2, 3, 4, 5, 6, 7, 8, 0xA, 0xB, 0xC, 0xD])
    (hsrc : x.src < 8) (hcls : cls < 8) (hhand : s.frq[q].handling = false) (hroom : s.frq[q].ents.length < 8)
    (htear : s.gal[g].tear = .none) (hreset : s.gal[g].reset = none) (hw : x.code = 5 → x.fclass ≠ 4) :
    let t := takeExc s n x cls restart epc resume
    let kind := if x.code = 5 then 3 else if x.code = 0xB then 5 else if x.code ∈ [3, 0xC, 0xD] then 2 else 1
    ((coreAt s n).state = .run ∨ (coreAt s n).state = .wait →
      ∃ w : Word, bits w 7 0 = x.code ∧ w.getLsbD 8 = restart ∧ bits w 11 9 = x.src ∧ bits w 15 12 = 0 ∧
        bits w 63 16 = cls ∧
        coreAt t n = { coreAt s n with
          state := .stopped, hold := none, ecause := w, epc := epc, eaddr := x.eaddr
          einfo := if x.code = 7 then x.einfo else 0, resumepc := resume, pc := resume } ∧
        ∃ e : FEntry, t.frq[q].ents = s.frq[q].ents ++ [e] ∧ t.frq[q].handling = decide (kind = 1 ∨ kind = 5) ∧
          bits e.w0 55 48 = kind ∧ bits e.w0 58 56 = (if kind = 1 ∨ kind = 5 then 3 else 0) ∧
          bits e.w0 42 40 = g.val ∧ bits e.w0 38 32 = n.val ∧ e.w1 = BitVec.ofNat 64 (now s) ∧
          (kind ≠ 3 → e.w2 = w ∧ e.w3 = epc ∧ e.w4 = x.eaddr ∧ e.w5 = x.einfo) ∧
          (kind = 3 → e.w3 = x.eaddr ∧ e.w4 = epc)) ∧
    (¬ ((coreAt s n).state = .run ∨ (coreAt s n).state = .wait) → coreAt t n = coreAt s n) ∧
    (∀ m, m ≠ n → coreAt t m = coreAt s m) ∧ t.mem = s.mem ∧ t.dev = s.dev ∧ t.pending = s.pending ∧
    (∀ p : Fin 9, p ≠ q → t.frq[p] = s.frq[p]) := by
  obtain rfl : q = frqOf (some g) := Fin.ext hqg
  intro t kind
  obtain ⟨hkind, hclass, -, hlt, h5, h9, h256⟩ := excCode_cases hcode
  obtain ⟨hek, -, heu, heg, hec, hd, hd3⟩ := excErr_fields (s := s) (n := n) (cause := causeWord x cls restart) (epc := epc)
    (fun h => hw (h5 h))
  obtain ⟨cr, cause, ht⟩ := takeExc_joins (cls := cls) (restart := restart) (epc := epc) (resume := resume) hg hcode hhand hroom
    ⟨htear, hreset⟩ hw
  have hk : excKind x.code = kind := hkind
  have hcore (m : CoreId) : coreAt t m =
      coreAt (stopAt (excStart s n) n x cls restart epc resume) m := by
    refine Eq.trans ?_ (coreAt_excState s n x cls restart epc resume m)
    change coreAt (takeExc s n x cls restart epc resume) m = _
    rw [ht]
    rfl
  have hfrq : t.frq = s.frq.set (frqOf (some g)) (s.frq[frqOf (some g)].joined
      (mkEntry s (excErr s n x (causeWord x cls restart) epc) 0 (excClass x.code) (s.cr.head + 1))
      (decide (excClass x.code = 3)) cause) := congrArg State.frq ht
  have hself : t.frq[frqOf (some g)] = s.frq[frqOf (some g)].joined
      (mkEntry s (excErr s n x (causeWord x cls restart) epc) 0 (excClass x.code) (s.cr.head + 1))
      (decide (excClass x.code = 3)) cause := by
    simp [hfrq]
  have hclass' : excClass x.code = if kind = 1 ∨ kind = 5 then 3 else 0 := by rw [hclass, hk]
  refine ⟨fun hlive => ?_, fun hlive => ?_, fun m hm => ?_, ?_, ?_, ?_, fun p hp => ?_⟩
  · obtain ⟨w1, w2, w3, w4, w5⟩ := causeWord_fields (cls := cls) (restart := restart) h256 hsrc
    obtain ⟨f1, f2, f3, f4⟩ := entryW0_fields (heg.trans hg) hec (by rw [hek]; omega) (by rw [heu]; exact srcUnit_lt _)
      (cls := excClass x.code) (by rw [hclass]; split <;> decide) (s.cr.head + 1)
    refine ⟨causeWord x cls restart, w1, w2, w3, w4, w5 hcls, ?_, _, congrArg Frq.ents hself, ?_, f1.trans (hek.trans hk),
      f2.trans hclass', f3, f4, rfl, fun h3 => hd (by rwa [hk]), fun h3 => hd3 (by rwa [hk])⟩
    · rw [hcore, coreAt_stopAt_live (excStart s n) _ _ _ _ _ _ hlive, coreAt_excStart]
      simp only [stoppedCore, h9, or_false]
    · rw [hself, Frq.joined, hhand, Bool.false_or, hclass']
      by_cases hf : kind = 1 ∨ kind = 5
      · rw [if_pos hf, decide_eq_true hf]; rfl
      · rw [if_neg hf, decide_eq_false hf]; rfl
  · rw [hcore, stopAt_not_live (excStart s n) _ _ _ _ _ _ hlive, coreAt_excStart]
  · rw [hcore, coreAt_stopAt_ne (excStart s n) _ _ _ _ _ _ hm, coreAt_excStart]
  · change (takeExc s n x cls restart epc resume).mem = _
    rw [ht, excState_rest]
  · change (takeExc s n x cls restart epc resume).dev = _
    rw [ht, excState_rest]
  · change (takeExc s n x cls restart epc resume).pending = _
    rw [ht, excState_rest]
  · rw [hfrq]
    exact Vector.getElem_set_ne _ _ (fun h => hp (Fin.ext h.symm))

/-! ### A NaN event meets the trap (R167 to R170) -/

/-- The words of a NaN trap record (Table 5-7). -/
theorem nanW0_fields {s : State} {g : Gal} {unit cls cause : Nat} {n : CoreId} (hu : unit < 16) (hc : cls < 16) (hk : cause < 16) :
    bit (nanW0 s g unit cls cause n) 63 = true ∧ bits (nanW0 s g unit cls cause n) 58 56 = g.val ∧
    bits (nanW0 s g unit cls cause n) 55 52 = unit ∧ bits (nanW0 s g unit cls cause n) 51 48 = cls ∧
    bits (nanW0 s g unit cls cause n) 47 44 = cause := by
  have hg : g.val < 8 := g.isLt
  have hn : n.val < 128 := n.isLt
  have hx : (if catValid s then coord s else 0) < 2 ^ 16 := by
    split
    · exact bits_lt _ 63 48
    · decide
  unfold nanW0
  generalize (if catValid s then coord s else 0) = x at hx
  have hw : (mkWord [(63, 1), (56, g.val), (52, unit), (48, cls), (44, cause), (16, x), (0, n.val)]).toNat =
      2 ^ 63 + g.val * 2 ^ 56 + unit * 2 ^ 52 + cls * 2 ^ 48 + cause * 2 ^ 44 + x * 2 ^ 16 + n.val := by
    rw [mkWord, BitVec.toNat_ofNat, List.foldl_cons, List.foldl_cons, List.foldl_cons, List.foldl_cons, List.foldl_cons, List.foldl_cons,
      List.foldl_cons, List.foldl_nil]
    simp only [Nat.shiftLeft_eq]
    omega
  refine ⟨?_, ?_, ?_, ?_, ?_⟩
  · rw [bit_eq_decide, hw, decide_eq_true_eq]; omega
  all_goals rw [bits_eq_div, hw]; omega

theorem nanW0_core (s : State) (g : Gal) (unit cls cause : Nat) (n : CoreId) : bits (nanW0 s g unit cls cause n) 6 0 = n.val := by
  have hn : n.val < 128 := n.isLt
  unfold nanW0
  generalize (if catValid s then coord s else 0) = x
  rw [bits_eq_div, mkWord, BitVec.toNat_ofNat, List.foldl_cons, List.foldl_cons, List.foldl_cons, List.foldl_cons, List.foldl_cons,
    List.foldl_cons, List.foldl_cons, List.foldl_nil]
  simp only [Nat.shiftLeft_eq]
  omega

theorem nanW2_fields (kstep port col row : Nat) :
    (port < 16 → bits (nanW2 kstep port col row) 63 48 = kstep % 65536 ∧ bits (nanW2 kstep port col row) 47 44 = port) ∧
    bits (nanW2 kstep port col row) 31 16 = col % 65536 ∧ bits (nanW2 kstep port col row) 15 0 = row % 65536 := by
  have hw : (nanW2 kstep port col row).toNat =
      (kstep % 65536 * 2 ^ 48 + port * 2 ^ 44 + col % 65536 * 2 ^ 16 + row % 65536) % 2 ^ 64 := by
    rw [nanW2, mkWord, BitVec.toNat_ofNat, List.foldl_cons, List.foldl_cons, List.foldl_cons, List.foldl_cons, List.foldl_nil]
    simp only [Nat.shiftLeft_eq]
    omega
  simp only [bits_eq_div, hw]
  omega

/-- The event that goes to the arbiter. -/
def nanEventOf (s : State) (g : Gal) (n : CoreId) (unit cls cause kstep port col row : Nat) (pc : Word) : NanEvent :=
  { cycle := s.clk / 2, core := n.val, unit := unit, seisk := decide (unit ≤ 3)
    w0 := nanW0 s g unit cls cause n, w1 := BitVec.ofNat 64 (pc.toNat % 2 ^ 48)
    w2 := nanW2 kstep port col row, w3 := BitVec.ofNat 64 (now s), pc := pc, cls := cls }

/-- The event waits for the arbiter, and its core with it. -/
def nanQueued (s : State) (g : Gal) (n : CoreId) (e : NanEvent) : State :=
  modCore (modGal s g (fun x => { x with nanQ := x.nanQ ++ [e] })) n (fun c => { c with nanWait := true })

theorem nanQueued_gal (s : State) (g : Gal) (n : CoreId) (e : NanEvent) :
    (nanQueued s g n e).gal[g] = { s.gal[g] with nanQ := s.gal[g].nanQ ++ [e] } := by
  rw [nanQueued, modCore_gal, modGal_gal_self]

theorem nanQueued_core (s : State) (g : Gal) (n : CoreId) (e : NanEvent) :
    coreAt (nanQueued s g n e) n = { coreAt s n with nanWait := true } := coreAt_modCore _ _ _

theorem nanQueued_core_ne (s : State) (g : Gal) {n m : CoreId} (e : NanEvent) (h : m ≠ n) :
    coreAt (nanQueued s g n e) m = coreAt s m := coreAt_modCore_of_ne _ _ h

section meet
variable {s : State} {g : Gal} {n : CoreId} {unit cls cause kstep port col row : Nat} {pc : Word}

theorem sealMark_gal (r : BitVec 8) (sw : Option (BitVec 8)) :
    ∃ x, (sealMark s g r sw).gal[g] = { s.gal[g] with stepSeal := x } := ⟨_, modGal_gal_self _ _ _⟩

theorem nanMeet_fired (h : s.gal[g].fired = true) : nanMeet s g n unit cls cause kstep port col row pc = sealMark s g 1 none := by
  obtain ⟨x, hx⟩ := sealMark_gal (s := s) (g := g) 1 none
  exact if_pos ((congrArg Gallery.fired hx).trans h)

theorem nanMeet_waits (h : s.gal[g].fired = false) : nanMeet s g n unit cls cause kstep port col row pc =
    nanQueued (sealMark s g 1 none) g n (nanEventOf s g n unit cls cause kstep port col row pc) := by
  obtain ⟨x, hx⟩ := sealMark_gal (s := s) (g := g) 1 none
  have hf : (sealMark s g 1 none).gal[g].fired = false := (congrArg Gallery.fired hx).trans h
  exact if_neg (Bool.eq_false_iff.mp hf)

theorem nanMeet_meets :
    let t := nanMeet s g n unit cls cause kstep port col row pc
    t.gal[g].stepSeal = (sealMark s g 1 none).gal[g].stepSeal ∧ t.mem = s.mem ∧ (∀ m, m ≠ n → coreAt t m = coreAt s m) ∧
    (s.gal[g].fired = true → t = sealMark s g 1 none) ∧
    (s.gal[g].fired = false → coreAt t n = { coreAt s n with nanWait := true } ∧ ∃ e : NanEvent,
      t.gal[g].nanQ = s.gal[g].nanQ ++ [e] ∧ e.core = n.val ∧ e.unit = unit ∧ e.cycle = s.clk / 2 ∧ e.pc = pc ∧ e.cls = cls ∧
      (unit < 16 → cls < 16 → cause < 16 → bit e.w0 63 = true ∧ bits e.w0 58 56 = g.val ∧ bits e.w0 55 52 = unit ∧
        bits e.w0 51 48 = cls ∧ bits e.w0 47 44 = cause) ∧ bits e.w0 6 0 = n.val ∧ bits e.w1 47 0 = pc.toNat % 2 ^ 48 ∧
      (port < 16 → bits e.w2 63 48 = kstep % 65536 ∧ bits e.w2 47 44 = port) ∧ bits e.w2 31 16 = col % 65536 ∧ bits e.w2 15 0 = row % 65536 ∧
      e.w3 = BitVec.ofNat 64 (now s)) := by
  by_cases hf : s.gal[g].fired = true
  · rw [nanMeet_fired hf]
    exact ⟨rfl, rfl, fun _ _ => rfl, fun _ => rfl, fun h => absurd (hf.symm.trans h) (by decide)⟩
  · have hf : s.gal[g].fired = false := Bool.eq_false_iff.mpr hf
    obtain ⟨w2, w2c, w2r⟩ := nanW2_fields kstep port col row
    obtain ⟨x, hx⟩ := sealMark_gal (s := s) (g := g) 1 none
    have hw1 : bits (BitVec.ofNat 64 (pc.toNat % 2 ^ 48)) 47 0 = pc.toNat % 2 ^ 48 := by
      rw [bits_eq_div, BitVec.toNat_ofNat]; omega
    rw [nanMeet_waits hf]
    dsimp only
    rw [nanQueued_gal, nanQueued_core]
    refine ⟨rfl, rfl, fun m hm => nanQueued_core_ne _ g _ hm, fun h => absurd (hf.symm.trans h) (by decide),
      fun _ => ⟨rfl, nanEventOf s g n unit cls cause kstep port col row pc, by rw [hx], rfl, rfl, rfl, rfl, rfl,
        nanW0_fields, nanW0_core s g unit cls cause n, hw1, w2, w2c, w2r, rfl⟩⟩

end meet

/-! ### The arbiter (R169 to R171) -/

theorem nanBefore_iff (a b : NanEvent) : nanBefore a b = true ↔
    a.cycle < b.cycle ∨ (a.cycle = b.cycle ∧ (a.core < b.core ∨ (a.core = b.core ∧ a.unit < b.unit))) := by
  rw [nanBefore, decide_eq_true_eq]

theorem nanBefore_self (a : NanEvent) : nanBefore a a = false := by
  rw [Bool.eq_false_iff, Ne, nanBefore_iff]; omega

theorem nanBefore_trans {a b c : NanEvent} (h : nanBefore a b = true) (k : nanBefore b c = true) : nanBefore a c = true := by
  rw [nanBefore_iff] at *; omega

/-- The better of two events, the present one first. -/
def nanBest (b : Option NanEvent) (e : NanEvent) : Option NanEvent :=
  match b with
  | none => some e
  | some x => if nanBefore e x then some e else b

theorem nanWinner_eq (l : List NanEvent) : nanWinner l = l.foldl nanBest none := rfl

/-- From an event that nothing in `p` comes before, the fold finds one that nothing in `p` or `l` comes before. -/
theorem foldl_nanBest {l : List NanEvent} {x : NanEvent} {p : NanEvent → Prop} (hx : ∀ y, p y → nanBefore y x = false) :
    ∃ w, l.foldl nanBest (some x) = some w ∧ (w = x ∨ w ∈ l) ∧ nanBefore x w = false ∧ (∀ y, p y → nanBefore y w = false) ∧
      ∀ y ∈ l, nanBefore y w = false := by
  induction l generalizing x p with
  | nil => exact ⟨x, rfl, .inl rfl, nanBefore_self x, hx, fun y hy => absurd hy (List.not_mem_nil)⟩
  | cons e l ih =>
    by_cases he : nanBefore e x = true
    · obtain ⟨w, hw, hmem, hew, hp, hl⟩ := ih (x := e) (p := fun y => p y ∨ y = x) (fun y hy => by
        rw [Bool.eq_false_iff]
        rintro hlt
        rcases hy with hy | rfl
        · exact absurd (hx y hy) (by rw [nanBefore_trans hlt he]; decide)
        · exact absurd (nanBefore_self y) (by rw [nanBefore_trans hlt he]; decide))
      refine ⟨w, ?_, .inr ?_, hp x (.inr rfl), fun y hy => hp y (.inl hy), fun y hy => ?_⟩
      · rw [List.foldl_cons, nanBest, if_pos he, hw]
      · rcases hmem with rfl | hmem
        · exact List.mem_cons_self
        · exact List.mem_cons_of_mem _ hmem
      · rcases List.mem_cons.mp hy with rfl | hy
        · exact hew
        · exact hl y hy
    · obtain ⟨w, hw, hmem, hxw, hp, hl⟩ := ih (x := x) (p := fun y => p y ∨ y = e) (fun y hy => by
        rcases hy with hy | rfl
        · exact hx y hy
        · exact Bool.eq_false_iff.mpr he)
      refine ⟨w, ?_, hmem.imp_right (List.mem_cons_of_mem _), hxw, fun y hy => hp y (.inl hy), fun y hy => ?_⟩
      · rw [List.foldl_cons, nanBest, if_neg he, hw]
      · rcases List.mem_cons.mp hy with rfl | hy
        · exact hp y (.inr rfl)
        · exact hl y hy

theorem nanWinner_cons (e : NanEvent) (l : List NanEvent) : ∃ w, nanWinner (e :: l) = some w ∧ w ∈ e :: l ∧
    ∀ x ∈ e :: l, nanBefore x w = false := by
  obtain ⟨w, hw, hmem, hew, -, hl⟩ := foldl_nanBest (l := l) (x := e) (p := fun _ => False) (fun _ h => h.elim)
  refine ⟨w, hw, ?_, fun x hx => ?_⟩
  · rcases hmem with rfl | hmem
    · exact List.mem_cons_self
    · exact List.mem_cons_of_mem _ hmem
  · rcases List.mem_cons.mp hx with rfl | hx
    · exact hew
    · exact hl x hx

theorem nanWinner_wins {l : List NanEvent} {e : NanEvent} (h : nanWinner l = some e) : e ∈ l ∧ ∀ x ∈ l, nanBefore x e = false := by
  cases l with
  | nil => cases h
  | cons a l =>
    obtain ⟨w, hw, hmem, hl⟩ := nanWinner_cons a l
    obtain rfl : w = e := Option.some.inj (hw.symm.trans h)
    exact ⟨hmem, hl⟩

theorem nanWinner_eq_none (l : List NanEvent) : nanWinner l = none ↔ l = [] := by
  cases l with
  | nil => exact ⟨fun _ => rfl, fun _ => rfl⟩
  | cons a l =>
    obtain ⟨w, hw, -⟩ := nanWinner_cons a l
    exact ⟨fun h => absurd (hw.symm.trans h) (Option.some_ne_none w), fun h => absurd h (List.cons_ne_nil a l)⟩

/-! ### The arbiter answers (R170) -/

/-- Every core whose event the arbiter has issues again. -/
def answered (l : List NanEvent) (s : State) : State :=
  l.foldl (fun s e => modCore s (Fin.ofNat 128 e.core) (fun c => { c with nanWait := false })) s

theorem answered_rest (l : List NanEvent) (s : State) : answered l s = { s with cores := (answered l s).cores } := by
  induction l generalizing s with
  | nil => rfl
  | cons e l ih =>
    change answered l (modCore s (Fin.ofNat 128 e.core) (fun c => { c with nanWait := false })) = _
    rw [ih]
    rfl

theorem coreAt_answered (l : List NanEvent) (s : State) (n : CoreId) : coreAt (answered l s) n =
    { coreAt s n with nanWait := (coreAt s n).nanWait && !decide (∃ e ∈ l, e.core % 128 = n.val) } := by
  induction l generalizing s with
  | nil => simp [answered]
  | cons e l ih =>
    change coreAt (answered l (modCore s (Fin.ofNat 128 e.core) (fun c => { c with nanWait := false }))) n = _
    rw [ih]
    by_cases he : e.core % 128 = n.val
    · obtain rfl : n = Fin.ofNat 128 e.core := Fin.ext he.symm
      have hex : ∃ x ∈ e :: l, x.core % 128 = (Fin.ofNat 128 e.core).val := ⟨e, List.mem_cons_self, he⟩
      rw [coreAt_modCore, decide_eq_true hex]
      simp
    · have hne : n ≠ Fin.ofNat 128 e.core := fun h => he (by rw [h]; rfl)
      have hex : (∃ x ∈ e :: l, x.core % 128 = n.val) ↔ ∃ x ∈ l, x.core % 128 = n.val := by simp [he]
      rw [coreAt_modCore_of_ne _ _ hne, decide_eq_decide.mpr hex]

/-! ### The trap fires (R169 to R171) -/

/-- FIRED and the words of the record, held in GLY[g]_NANREC (Table 5-7). -/
def nanHeld (s : State) (g : Gal) (e : NanEvent) : State :=
  rset (rset (rset (rset (fset s (glyReg g.val 0) 4 4 1) (glyReg g.val 0x70) e.w0) (glyReg g.val 0x78) e.w1) (glyReg g.val 0x80) e.w2)
    (glyReg g.val 0x88) e.w3

theorem gly_ne (g : Gal) {a b : Nat} (h : a ≠ b) : glyReg g.val a ≠ glyReg g.val b := by
  unfold glyReg
  omega

theorem nanHeld_regs {s : State} (hr : keysRise s.dev) (g : Gal) (e : NanEvent) :
    bit (rget (nanHeld s g e) (glyReg g.val 0)) 4 = true ∧ rget (nanHeld s g e) (glyReg g.val 0x70) = e.w0 ∧
    rget (nanHeld s g e) (glyReg g.val 0x78) = e.w1 ∧ rget (nanHeld s g e) (glyReg g.val 0x80) = e.w2 ∧
    rget (nanHeld s g e) (glyReg g.val 0x88) = e.w3 := by
  have h0 := fset_rise (glyReg g.val 0) 4 4 1 hr
  have h1 := rset_rise (glyReg g.val 0x70) e.w0 h0
  have h2 := rset_rise (glyReg g.val 0x78) e.w1 h1
  have h3 := rset_rise (glyReg g.val 0x80) e.w2 h2
  have hn (t : State) (a b : Nat) (w : Word) (h : a ≠ b) : rget (rset t (glyReg g.val b) w) (glyReg g.val a) = rget t (glyReg g.val a) :=
    rget_rset_ne t _ _ w (gly_ne g h)
  unfold nanHeld
  refine ⟨?_, ?_, ?_, ?_, rget_rset _ _ _ h3⟩
  · rw [hn _ 0 0x88 _ (by decide), hn _ 0 0x80 _ (by decide), hn _ 0 0x78 _ (by decide), hn _ 0 0x70 _ (by decide), rget_fset _ _ _ _ _ hr]
    change (setBits _ 4 4 1).getLsbD 4 = true
    rw [getLsbD_setBits _ 4 4 1 4 (by decide) (by decide)]
    rfl
  · rw [hn _ 0x70 0x88 _ (by decide), hn _ 0x70 0x80 _ (by decide), hn _ 0x70 0x78 _ (by decide), rget_rset _ _ _ h0]
  · rw [hn _ 0x78 0x88 _ (by decide), hn _ 0x78 0x80 _ (by decide), rget_rset _ _ _ h1]
  · rw [hn _ 0x80 0x88 _ (by decide), rget_rset _ _ _ h2]

/-- The exception of a core for whose event the trap fires, and the entry. -/
def nanExc (e : NanEvent) : Exc :=
  { code := 9, src := if e.unit = 0 then 0 else if e.unit = 2 then 2 else if e.unit ≤ 3 then 1 else 4, einfo := e.w2 }
def nanErr (g : Gal) (e : NanEvent) : Err :=
  { kind := 4, cls := 2, unit := e.unit, gal := some g, core := some (Fin.ofNat 128 e.core), d0 := e.w0, d1 := e.w1, d2 := e.w2, d3 := e.w3 }

/-- A Gallery whose trap has fired. -/
def firedGal (x : Gallery) : Gallery := { x with fired := true }

/-- The trap has fired; its core has not stopped yet. -/
def nanStart (s : State) (g : Gal) (e : NanEvent) : State :=
  dropStalls (nanHeld (modGal s g firedGal) g e) (.core (Fin.ofNat 128 e.core))

theorem coreAt_nanStart (s : State) (g : Gal) (e : NanEvent) (m : CoreId) : coreAt (nanStart s g e) m = coreAt s m := by
  simp [coreAt, nanStart, dropStalls, nanHeld, fset]

/-- The trap has fired and its core has stopped. -/
def nanStopped (s : State) (g : Gal) (e : NanEvent) : State :=
  stopAt (nanStart s g e) (Fin.ofNat 128 e.core) (nanExc e) e.cls false e.pc (coreAt s (Fin.ofNat 128 e.core)).pc

theorem nanFire_eq (s : State) (g : Gal) (e : NanEvent) : nanFire s g e =
    galEvent (report (nanStopped s g e) (nanErr g e)) g 2 (Fin.ofNat 128 e.core).val [e.w0, e.w1, e.w2, e.w3] := rfl

/-- The entry is not fatal. -/
theorem report_nanErr (s : State) (g : Gal) (e : NanEvent) : report s (nanErr g e) = (record s (nanErr g e) 0 2).2 := by
  have hc : effClass s (nanErr g e) = 2 := if_neg (by simp [nanErr])
  simp only [report, hc]
  rfl

theorem nanFire_rest (s : State) (g : Gal) (e : NanEvent) : (nanFire s g e).cores = (nanStopped s g e).cores ∧
    (nanFire s g e).gal = (nanStopped s g e).gal ∧ (nanFire s g e).mem = (nanStopped s g e).mem ∧
    ∀ o < 0x90, rget (nanFire s g e) (glyReg g.val o) = rget (nanStopped s g e) (glyReg g.val o) := by
  have hs := sendEvent_sends (report (nanStopped s g e) (nanErr g e)) (.host g) 2 g.val (Fin.ofNat 128 e.core).val 0
    [e.w0, e.w1, e.w2, e.w3]
  have hr : report (nanStopped s g e) (nanErr g e) = { nanStopped s g e with
      frq := (report (nanStopped s g e) (nanErr g e)).frq, cr := (report (nanStopped s g e) (nanErr g e)).cr } := by
    rw [report_nanErr]
    exact record_rest _ _ _ _
  rw [nanFire_eq]
  refine ⟨hs.cores.trans (by rw [hr]), hs.gal.trans (by rw [hr]), hs.mem.trans (by rw [hr]), fun o ho => ?_⟩
  refine (hs.regs _ (not_countsSends_gly g o (by omega) (by omega))).trans ?_
  exact rget_congr (by rw [hr]) _

theorem nanStopped_rest (s : State) (g : Gal) (e : NanEvent) :
    (nanStopped s g e).gal = (modGal s g firedGal).gal ∧ (nanStopped s g e).mem = s.mem ∧
    (nanStopped s g e).dev = (nanHeld (modGal s g firedGal) g e).dev := by
  unfold nanStopped
  rw [stopAt_rest]
  simp [nanStart, dropStalls, nanHeld, fset]

/-- What the trap holds and how it leaves the cores. -/
theorem nanFire_fires {s : State} (hr : keysRise s.dev) (g : Gal) (e : NanEvent) :
    let t := nanFire s g e
    let n : CoreId := Fin.ofNat 128 e.core
    t.gal[g].fired = true ∧ bit (rget t (glyReg g.val 0)) 4 = true ∧ rget t (glyReg g.val 0x70) = e.w0 ∧
    rget t (glyReg g.val 0x78) = e.w1 ∧ rget t (glyReg g.val 0x80) = e.w2 ∧ rget t (glyReg g.val 0x88) = e.w3 ∧
    (∀ m, m ≠ n → coreAt t m = coreAt s m) ∧ t.mem = s.mem ∧
    (¬ ((coreAt s n).state = .run ∨ (coreAt s n).state = .wait) → coreAt t n = coreAt s n) ∧
    ((coreAt s n).state = .run ∨ (coreAt s n).state = .wait →
      coreAt t n = stoppedCore (nanExc e) e.cls false e.pc (coreAt s n).pc (coreAt s n)) := by
  intro t n
  obtain ⟨hcores, hgal, hmem, hregs⟩ := nanFire_rest s g e
  obtain ⟨sgal, smem, sdev⟩ := nanStopped_rest s g e
  obtain ⟨r0, r1, r2, r3, r4⟩ := nanHeld_regs (s := modGal s g firedGal) hr g e
  have hreg (o : Nat) (ho : o < 0x90) : rget t (glyReg g.val o) = rget (nanHeld (modGal s g firedGal) g e)
      (glyReg g.val o) := (hregs o ho).trans (rget_congr sdev _)
  have hcore (m : CoreId) : coreAt t m = coreAt (nanStopped s g e) m := congrArg (fun v => v[m]) hcores
  rw [hreg 0 (by decide), hreg 0x70 (by decide), hreg 0x78 (by decide), hreg 0x80 (by decide), hreg 0x88 (by decide)]
  refine ⟨?_, r0, r1, r2, r3, r4, fun m hm => ?_, hmem.trans smem, fun hl => ?_, fun hl => ?_⟩
  · change (nanFire s g e).gal[g].fired = true
    rw [hgal, sgal, modGal_gal_self]; rfl
  · rw [hcore, nanStopped, coreAt_stopAt_ne _ _ _ _ _ _ _ hm, coreAt_nanStart]
  · rw [hcore, nanStopped, stopAt_not_live (nanStart s g e) _ _ _ _ _ _ (by rw [coreAt_nanStart]; exact hl), coreAt_nanStart]
  · rw [hcore, nanStopped, coreAt_stopAt_live (nanStart s g e) _ _ _ _ _ _ (by rw [coreAt_nanStart]; exact hl), coreAt_nanStart]

/-- A Gallery whose arbiter holds no event. -/
def nanless (x : Gallery) : Gallery := { x with nanQ := [] }

/-- What the arbiter's answer leaves before the trap. -/
def arbitrated (g : Gal) (s : State) : State := answered s.gal[g].nanQ (modGal s g nanless)

theorem arbitrated_rest (g : Gal) (s : State) : (arbitrated g s).gal = (modGal s g nanless).gal ∧ (arbitrated g s).dev = s.dev ∧
    (arbitrated g s).mem = s.mem := by
  rw [arbitrated, answered_rest]
  simp

theorem arbitrated_gal (g : Gal) (s : State) : (arbitrated g s).gal[g] = nanless s.gal[g] := by
  rw [(arbitrated_rest g s).1, modGal_gal_self]

theorem exec_nanTrapArbitrate (g : Gal) (s : State) : exec (.nanTrapArbitrate g) s = .next (if s.gal[g].fired then arbitrated g s
    else match nanWinner s.gal[g].nanQ with
      | none => arbitrated g s
      | some e => nanFire (arbitrated g s) g e) := by
  have hf : (arbitrated g s).gal[g].fired = s.gal[g].fired := by rw [arbitrated_gal]; rfl
  rw [← hf]
  rfl

theorem coreAt_modGal (s : State) (g : Gal) (f : Gallery → Gallery) (n : CoreId) : coreAt (modGal s g f) n = coreAt s n := by
  simp [coreAt]

theorem coreAt_arbitrated (g : Gal) (s : State) (n : CoreId) :
    let l := s.gal[g].nanQ
    coreAt (arbitrated g s) n = { coreAt s n with
      nanWait := (coreAt s n).nanWait && !decide (∃ e ∈ l, e.core % 128 = n.val) } := by
  rw [arbitrated, coreAt_answered, coreAt_modGal]

theorem arbitrated_state (g : Gal) (s : State) (n : CoreId) : (coreAt (arbitrated g s) n).state = (coreAt s n).state := by
  rw [arbitrated, coreAt_answered, coreAt_modGal]

theorem arbitrated_pc (g : Gal) (s : State) (n : CoreId) : (coreAt (arbitrated g s) n).pc = (coreAt s n).pc := by
  rw [arbitrated, coreAt_answered, coreAt_modGal]

theorem nanExc_src (e : NanEvent) : (nanExc e).src < 8 := by
  unfold nanExc
  dsimp only
  split <;> [decide; split <;> [decide; split <;> decide]]

/-- The trap fires for the winning event. -/
theorem arbitrated_fires {g : Gal} {s : State} (hr : keysRise s.dev) (e : NanEvent) :
    let t := nanFire (arbitrated g s) g e
    let n : CoreId := Fin.ofNat 128 e.core
    t.gal[g].fired = true ∧ bit (rget t (glyReg g.val 0)) 4 = true ∧ rget t (glyReg g.val 0x70) = e.w0 ∧
    rget t (glyReg g.val 0x78) = e.w1 ∧ rget t (glyReg g.val 0x80) = e.w2 ∧ rget t (glyReg g.val 0x88) = e.w3 ∧
    (∀ m, m ≠ n → coreAt t m = coreAt (arbitrated g s) m) ∧ t.mem = s.mem ∧
    (¬ ((coreAt s n).state = .run ∨ (coreAt s n).state = .wait) → coreAt t n = coreAt (arbitrated g s) n) ∧
    ((coreAt s n).state = .run ∨ (coreAt s n).state = .wait → ∃ w : Word,
      bits w 7 0 = 9 ∧ bit w 8 = false ∧
      bits w 11 9 = (if e.unit = 0 then 0 else if e.unit = 2 then 2 else if e.unit ≤ 3 then 1 else 4) ∧
      coreAt t n = { coreAt (arbitrated g s) n with state := .stopped, hold := none, ecause := w, epc := e.pc, eaddr := 0
                                                    einfo := e.w2, resumepc := (coreAt s n).pc }) := by
  obtain ⟨-, hdev, hmem'⟩ := arbitrated_rest g s
  have hstate := arbitrated_state g s (Fin.ofNat 128 e.core)
  have hpc := arbitrated_pc g s (Fin.ofNat 128 e.core)
  obtain ⟨hfired, hbit, h0, h1, h2, h3, hother, hmem, hnot, hlive⟩ := nanFire_fires (s := arbitrated g s) (by rw [hdev]; exact hr) g e
  obtain ⟨w1, w2, w3, -, -⟩ := causeWord_fields (x := nanExc e) (cls := e.cls) (restart := false) (show 9 < 256 by decide) (nanExc_src e)
  rw [hstate] at hnot hlive
  refine ⟨hfired, hbit, h0, h1, h2, h3, hother, hmem.trans hmem', hnot, fun hl => ⟨_, w1, w2, w3, ?_⟩⟩
  rw [hlive hl, ← hpc]
  rfl

/-- Settles O13: exceptions by the entry that joins the queue, the arbiter by the fold that keeps the earliest event. -/
theorem exceptionsAndNanTraps : Obligations.ExceptionsAndNanTraps := by
  refine ⟨exceptions_taken, fun n g x cls restart epc resume s hg h5 h4 ht hr => takeExc_walk cls restart epc resume hg h5 h4 ⟨ht, hr⟩,
    fun s g n unit cls cause kstep port col row pc => nanMeet_meets, fun l e => nanWinner_wins, nanWinner_eq_none, nanBefore_iff,
    fun g s => ?_⟩
  obtain ⟨hgal, hdev, hmem⟩ := arbitrated_rest g s
  refine ⟨arbitrated g s, coreAt_arbitrated g s, arbitrated_gal g s, fun k hk => ?_, hdev, hmem, fun h => ?_,
    fun hf hr e he => ⟨nanFire (arbitrated g s) g e, ?_, arbitrated_fires ((rising_map_iff _).mp hr) e⟩⟩
  · rw [hgal]
    exact modGal_gal_ne _ _ _ hk
  · rw [exec_nanTrapArbitrate]
    rcases h with h | h
    · rw [if_pos h]
    · rw [(nanWinner_eq_none _).mpr h]
      exact congrArg Host.Outcome.next (ite_self _)
  · rw [exec_nanTrapArbitrate, if_neg (Bool.eq_false_iff.mp hf), he]

end Sys2Proof.Machine
end

section
/-! PROOFS. Control registers, and the timed writes (R70, R114, R345, R346). -/

namespace Sys2Proof.Machine

/-! ### Which control registers there are (Tables 2-15, 3-15) -/

/-- The block register that a control register number from 0x100 names. -/
def csrOffset (n : CoreId) (k : Nat) : Nat :=
  if 0x100 ≤ k ∧ k ≤ 0x1FF then engReg n.val (8 * (k - 0x100))
  else if 0x200 ≤ k ∧ k ≤ 0x2FF then vecReg n.val (8 * (k - 0x200))
  else if 0x300 ≤ k ∧ k ≤ 0x3FF then rkgReg n.val (8 * (k - 0x300))
  else 0x05000000 + n.val * 0x1000 + 8 * (k - 0x400)

theorem csrBlock_eq {n : CoreId} {k : Nat} (h0 : 0x100 ≤ k) (h1 : k < 0x440) :
    csrBlock n k = if (fields (csrOffset n k)).isSome then some (csrOffset n k) else none := by
  have hoff : (if 0x100 ≤ k ∧ k ≤ 0x1FF then engReg n.val (8 * (k - 0x100))
      else if 0x200 ≤ k ∧ k ≤ 0x2FF then vecReg n.val (8 * (k - 0x200))
      else if 0x300 ≤ k ∧ k ≤ 0x3FF then rkgReg n.val (8 * (k - 0x300))
      else if 0x400 ≤ k ∧ k ≤ 0x43F then 0x05000000 + n.val * 0x1000 + 8 * (k - 0x400)
      else 1) = csrOffset n k := by
    unfold csrOffset
    split
    · rfl
    · split
      · rfl
      · split
        · rfl
        · exact if_pos (by omega)
  rw [csrBlock, hoff]

theorem csrBlock_none {n : CoreId} {k : Nat} (h : k < 0x100 ∨ 0x440 ≤ k) : csrBlock n k = none := by
  have hoff : (if 0x100 ≤ k ∧ k ≤ 0x1FF then engReg n.val (8 * (k - 0x100))
      else if 0x200 ≤ k ∧ k ≤ 0x2FF then vecReg n.val (8 * (k - 0x200))
      else if 0x300 ≤ k ∧ k ≤ 0x3FF then rkgReg n.val (8 * (k - 0x300))
      else if 0x400 ≤ k ∧ k ≤ 0x43F then 0x05000000 + n.val * 0x1000 + 8 * (k - 0x400)
      else 1) = 1 := by
    rw [if_neg (by omega), if_neg (by omega), if_neg (by omega), if_neg (by omega)]
  rw [csrBlock, hoff]
  rfl

/-! The fields of a core's own registers are those of its unit's table. -/

theorem fields_eng (n : CoreId) {o : Nat} (h : o < 0x1000) (h8 : o % 8 = 0) : fields (engReg n.val o) = engFields o := by
  have hn : n.val < 128 := n.isLt
  have hb : engReg n.val o / 0x1000000 = 2 ∧ engReg n.val o % 0x1000000 < 0x80000 ∧ engReg n.val o % 0x1000000 % 0x1000 = o ∧
      engReg n.val o % 8 = 0 := by
    unfold engReg; omega
  obtain ⟨b, h1, h2, h3⟩ := hb
  simp only [fields, b, h2, h3]
  exact if_pos h1

theorem fields_vec (n : CoreId) {o : Nat} (h : o < 0x1000) (h8 : o % 8 = 0) : fields (vecReg n.val o) = vecFields o := by
  have hn : n.val < 128 := n.isLt
  have hb : vecReg n.val o / 0x1000000 = 3 ∧ vecReg n.val o % 0x1000000 < 0x80000 ∧ vecReg n.val o % 0x1000000 % 0x1000 = o ∧
      vecReg n.val o % 8 = 0 := by
    unfold vecReg; omega
  obtain ⟨b, h1, h2, h3⟩ := hb
  simp only [fields, b, h2, h3]
  exact if_pos h1

theorem fields_rkg (n : CoreId) {o : Nat} (h : o < 0x1000) (h8 : o % 8 = 0) : fields (rkgReg n.val o) = rkgFields o := by
  have hn : n.val < 128 := n.isLt
  have hb : rkgReg n.val o / 0x1000000 = 4 ∧ rkgReg n.val o % 0x1000000 < 0x80000 ∧ rkgReg n.val o % 0x1000000 % 0x1000 = o ∧
      rkgReg n.val o % 8 = 0 := by
    unfold rkgReg; omega
  obtain ⟨b, h1, h2, h3⟩ := hb
  simp only [fields, b, h2, h3]
  exact if_pos h1

/-- The registers whose Context column is "—". -/
theorem csrDenied_iff (k : Nat) : csrDenied k = true ↔
    k = 0x010 ∨ k = 0x011 ∨ (0x018 ≤ k ∧ k ≤ 0x01F) ∨ k ∈ [0x103, 0x104, 0x20C, 0x30B, 0x30C] := by
  simp [csrDenied]

theorem csrWord_none {s : State} {n : CoreId} {k : Nat} (h0 : 0xD < k) (h1 : k ≠ 0x10 ∧ k ≠ 0x11 ∧ ¬(0x18 ≤ k ∧ k ≤ 0x1F)) :
    csrWord s n k = none := by
  rw [csrWord]
  iterate 14 rw [if_neg (by omega)]
  rw [if_neg h1.1, if_neg h1.2.1, if_neg h1.2.2]

/-- Every register that is denied exists. -/
theorem csr_exists_of_denied {s : State} {n : CoreId} {k : Nat} (h : csrDenied k = true) :
    (∃ x, csrWord s n k = some x) ∨ (csrWord s n k = none ∧ ∃ off, csrBlock n k = some off) := by
  rw [csrDenied_iff] at h
  have hn : n.val < 128 := n.isLt
  rcases h with rfl | rfl | ⟨h0, h1⟩ | h
  · exact .inl ⟨_, rfl⟩
  · exact .inl ⟨_, rfl⟩
  · refine .inl ⟨(coreAt s n).q[Fin.ofNat 8 (k - 0x18)], ?_⟩
    rw [csrWord]
    iterate 16 rw [if_neg (by omega)]
    exact if_pos ⟨h0, h1⟩
  · simp only [List.mem_cons, List.not_mem_nil, or_false] at h
    have hblock {off : Nat} {fs : List Fld} (hoff : csrOffset n k = off) (hf : fields off = some fs) :
        csrBlock n k = some off := by
      rw [csrBlock_eq (by omega) (by omega), hoff, hf]
      rfl
    refine .inr ⟨csrWord_none (by omega) (by omega), ?_⟩
    rcases h with rfl | rfl | rfl | rfl | rfl
    · exact ⟨_, hblock (off := engReg n.val 0x18) rfl (fields_eng n (by decide) (by decide))⟩
    · exact ⟨_, hblock (off := engReg n.val 0x20) rfl (fields_eng n (by decide) (by decide))⟩
    · exact ⟨_, hblock (off := vecReg n.val 0x60) rfl (fields_vec n (by decide) (by decide))⟩
    · exact ⟨_, hblock (off := rkgReg n.val 0x58) rfl (fields_rkg n (by decide) (by decide))⟩
    · exact ⟨_, hblock (off := rkgReg n.val 0x60) rfl (fields_rkg n (by decide) (by decide))⟩

/-! ### csrr and csrw at issue (R70, R114) -/

/-- What csrr and csrw of register `k` do at issue on a core. -/
def csrrEff (n : CoreId) (sd : SReg) (k : Nat) (s : State) : Eff :=
  match csrWord s n k, csrBlock n k with
  | some w, _ => if csrDenied k then .fault excPrivilege else .done (setS (.core n) sd w s)
  | none, some off =>
    if csrDenied k then .fault excPrivilege
    else .done (setS (.core n) sd (blockWord s off) (afterRead s off ((fields off).getD [])))
  | none, none => .fault excIllegal

def csrwEff (n : CoreId) (op : CsrOp) (k : Nat) (sa : SReg) (s : State) : Eff :=
  match csrWord s n k, csrBlock n k with
  | some old, _ =>
    if csrDenied k then .fault excPrivilege
    else .done (csrShared s n k (csrValue op old (csrW1c k) (getS (.core n) sa s)))
  | none, some off =>
    if csrDenied k then .fault excPrivilege
    else .done (writeBlock s true off (csrValue op (blockWord s off) (blockW1c ((fields off).getD [])) (getS (.core n) sa s))
      ((fields off).getD []))
  | none, none => .fault excIllegal

theorem exec_csrr_core (n : CoreId) (sd : SReg) (csr : BitVec 12) (s : State) : exec (.csrr (.core n) sd csr) s =
    .next (issueCore n (.csrr (.core n) sd csr) 7 (csrrEff n sd csr.toNat) s) := rfl

theorem exec_csrw_core (n : CoreId) (op : CsrOp) (csr : BitVec 12) (sa : SReg) (s : State) : exec (.csrw (.core n) op csr sa) s =
    .next (issueCore n (.csrw (.core n) op csr sa) 7 (csrwEff n op csr.toNat sa) s) := rfl

section core
variable {n : CoreId} {op : CsrOp} {sd sa : SReg} {k : Nat} {s : State}

theorem csrEff_denied (h : csrDenied k = true) :
    csrrEff n sd k s = .fault excPrivilege ∧ csrwEff n op k sa s = .fault excPrivilege := by
  rcases csr_exists_of_denied (s := s) (n := n) h with ⟨x, hx⟩ | ⟨hw, off, hb⟩
  · simp [csrrEff, csrwEff, hx, h]
  · simp [csrrEff, csrwEff, hw, hb, h]

theorem csrEff_missing (hw : csrWord s n k = none) (hb : csrBlock n k = none) :
    csrrEff n sd k s = .fault excIllegal ∧ csrwEff n op k sa s = .fault excIllegal := by
  simp [csrrEff, csrwEff, hw, hb]

/-- A register below 0x100. -/
theorem csrEff_word (h : csrDenied k = false) {x : Word} (hw : csrWord s n k = some x) :
    csrrEff n sd k s = .done (setS (.core n) sd x s) ∧
    csrwEff n op k sa s = .done (csrShared s n k (csrValue op x (csrW1c k) (getS (.core n) sa s))) := by
  simp [csrrEff, csrwEff, hw, h]

/-- A register of the core's own units. -/
theorem csrEff_block (h : csrDenied k = false) (hw : csrWord s n k = none) {off : Nat} {fs : List Fld} (hb : csrBlock n k = some off)
    (hf : fields off = some fs) : csrrEff n sd k s = .done (setS (.core n) sd (blockWord s off) (afterRead s off fs)) ∧
    csrwEff n op k sa s = .done (writeBlock s true off (csrValue op (blockWord s off) (blockW1c fs) (getS (.core n) sa s)) fs) := by
  simp [csrrEff, csrwEff, hw, hb, h, hf]

end core

/-! ### What a register's write leaves of issue -/

/-- An instruction whose effect `t` keeps the pc of its core and pends no launch. -/
theorem retire_of_kept {s t : State} {n : CoreId} (hp : (coreAt s n).launchPend = false) (hpc : (coreAt t n).pc = (coreAt s n).pc)
    (hl : (coreAt t n).launchPend = (coreAt s n).launchPend) : retireTo (settle t n) n ((coreAt s n).pc + 8) = fell (.core n) t := by
  have hl : (coreAt (dropStalls t (.core n)) n).launchPend = false := hl.trans hp
  rw [retireTo_settle, fell, retired_eq, getPc, hpc]
  exact modCore_congr _ _ _ _ (by simp [endC, retiredCore, hl])

theorem disarm_of_unarmed {s : State} {n : CoreId} (h : (coreAt s n).launchPend = false) : disarm s n = s :=
  modCore_of_fixed (by simp [h])

/-- The core issues as before. -/
def IssueKept (s t : State) (n : CoreId) : Prop :=
  (coreAt t n).pc = (coreAt s n).pc ∧ (coreAt t n).launchPend = (coreAt s n).launchPend

theorem IssueKept.of_cores {s t : State} (h : t.cores = s.cores) (n : CoreId) : IssueKept s t n := by
  simp [IssueKept, coreAt, h]

theorem IssueKept.trans {s t u : State} {n : CoreId} (h : IssueKept s t n) (k : IssueKept t u n) : IssueKept s u n :=
  ⟨k.1.trans h.1, k.2.trans h.2⟩

theorem cores_afterRead (s : State) (off : Nat) (fs : List Fld) : (afterRead s off fs).cores = s.cores := by
  unfold afterRead
  dsimp only
  split
  · split <;> rfl
  · split
    · rfl
    · split
      · rfl
      · split <;> rfl

theorem cores_ite {p : Prop} [Decidable p] {a b s : State} (ha : a.cores = s.cores) (hb : b.cores = s.cores) :
    (if p then a else b).cores = s.cores := by
  split
  · exact ha
  · exact hb

theorem cores_refused (s : State) (off : Nat) : (refused s off).cores = s.cores := by
  unfold refused
  dsimp only
  repeat' apply cores_ite
  all_goals rfl

theorem cores_writeField (s : State) (off : Nat) (w : Word) (t : State) (f : Fld) : (writeField s off w t f).cores = t.cores := by
  unfold writeField
  split
  · dsimp only
    split
    · rfl
    · exact cores_refused t off
  · dsimp only
    split <;> rfl
  · dsimp only
    split
    · rfl
    · split
      · rfl
      · exact cores_refused t off
  · rfl

theorem cores_writeStored (s : State) (off : Nat) (w : Word) (fs : List Fld) : (writeStored s off w fs).cores = s.cores := by
  unfold writeStored
  split
  · exact cores_refused s off
  · have hfold : ∀ (l : List Fld) (t : State), (l.foldl (writeField s off w) t).cores = t.cores := by
      intro l
      induction l with
      | nil => exact fun _ => rfl
      | cons f l ih => exact fun t => (ih _).trans (cores_writeField s off w t f)
    exact hfold fs s

theorem issueKept_modCore (s : State) (n : CoreId) {f : Core → Core} (hp : (f (coreAt s n)).pc = (coreAt s n).pc)
    (hl : (f (coreAt s n)).launchPend = (coreAt s n).launchPend) : IssueKept s (modCore s n f) n := by
  rw [IssueKept, coreAt_modCore]
  exact ⟨hp, hl⟩

theorem issueKept_setChk (s : State) (n : CoreId) (ch : Fin 4) (x : ChkCh) : IssueKept s (setChk s n ch x) n :=
  issueKept_modCore s n rfl rfl

theorem issueKept_chkReset (s : State) (n : CoreId) (ch : Fin 4) : IssueKept s (nextOf s (execChkReset n ch s)) n := by
  simp only [execChkReset, nextOf]
  split
  · exact .of_cores rfl n
  · exact IssueKept.trans (issueKept_setChk s n ch _) (.of_cores rfl n)

theorem issueKept_chkFinish (s : State) (n : CoreId) (ch : Fin 4) : IssueKept s (nextOf s (execChkFinish n ch s)) n := by
  simp only [execChkFinish, nextOf]
  split
  · exact .of_cores rfl n
  · split
    · exact .of_cores rfl n
    · exact IssueKept.trans (issueKept_setChk s n ch _) (.of_cores rfl n)

theorem issueKept_chkWrite (s : State) (n : CoreId) (ch : Fin 4) (off : Nat) (w : Word) (fs : List Fld) :
    IssueKept s (chkWrite s n ch off w fs) n := by
  have hs : IssueKept s (writeStored s off w fs) n := .of_cores (cores_writeStored s off w fs) n
  unfold chkWrite
  dsimp only
  split
  · exact hs
  · split
    · exact hs.trans (issueKept_chkReset _ n ch)
    · split
      · exact hs.trans (issueKept_chkFinish _ n ch)
      · exact hs.trans (.of_cores (cores_refused _ off) n)

/-- The core of a register of its own units. -/
theorem csrOffset_place {n : CoreId} {k : Nat} (h0 : 0x100 ≤ k) (h1 : k < 0x440) :
    (csrOffset n k / 0x1000000 = 2 ∨ csrOffset n k / 0x1000000 = 3 ∨ csrOffset n k / 0x1000000 = 4 ∨ csrOffset n k / 0x1000000 = 5) ∧
    csrOffset n k % 0x1000000 < 0x80000 ∧ csrOffset n k / 0x1000 % 128 = n.val ∧
    (csrOffset n k / 0x1000000 = 4 → csrOffset n k % 0x1000 = 8 * (k - 0x300) ∧ 0x300 ≤ k ∧ k ≤ 0x3FF) := by
  have hn : n.val < 128 := n.isLt
  unfold csrOffset engReg vecReg rkgReg
  split <;> [skip; split <;> [skip; split]] <;> omega

/-- A context's write of a register of its own units leaves its core to issue as before. -/
theorem issueKept_writeBlock (s : State) {n : CoreId} {k : Nat} (h0 : 0x100 ≤ k) (h1 : k < 0x440) (hk : k ≠ 0x30B ∧ k ≠ 0x30C)
    (w : Word) (fs : List Fld) : IssueKept s (writeBlock s true (csrOffset n k) w fs) n := by
  obtain ⟨hb, hlt, hn, hr⟩ := csrOffset_place (n := n) h0 h1
  have hs : IssueKept s (writeStored s (csrOffset n k) w fs) n := .of_cores (cores_writeStored s _ w fs) n
  have hcore : offCore (csrOffset n k) = n := Fin.ext (by
    change csrOffset n k / 0x1000 % 128 % 128 = n.val
    omega)
  rcases hb with hb | hb | hb | hb
  · simp only [writeBlock, hb]
    exact hs
  · simp only [writeBlock, hb]
    exact hs
  · obtain ⟨hr, h3, h4⟩ := hr hb
    simp only [writeBlock, hb, hlt, true_and, reduceIte, Nat.reduceEqDiff]
    rw [if_neg (show ¬(csrOffset n k % 0x1000000 % 0x1000 = 0x58 ∨ csrOffset n k % 0x1000000 % 0x1000 = 0x60) by omega)]
    split
    · exact ⟨rfl, rfl⟩
    · exact hs
  · simp only [writeBlock, hb, hcore, false_and, true_and, reduceIte, Nat.reduceEqDiff]
    split
    · exact issueKept_chkWrite s n _ _ w fs
    · exact hs

/-! ### What csrr gives, and what csrw writes (R70, R114) -/

section word
variable {n : CoreId} {op : CsrOp} {sd sa : SReg} {csr : BitVec 12} {k : Nat} {s : State}

theorem csrWord_disarm (h : k ≠ 8) : csrWord (disarm s n) n k = csrWord s n k := by
  by_cases hp : (coreAt s n).launchPend = true
  · simp only [csrWord, coreAt_disarm, disarmC, if_pos hp, if_neg h]
    rfl
  · rw [disarm_of_unarmed (Bool.eq_false_iff.mpr hp)]

theorem csrWord_launchat : csrWord (disarm s n) n 8 = some (if (coreAt s n).launchPend then 0 else (coreAt s n).launchat) := by
  have hw (t : State) : csrWord t n 8 = some (coreAt t n).launchat := rfl
  rw [hw, coreAt_disarm, disarmC]
  split <;> rfl

theorem csrDenied_low (h : k ≤ 0xD) : csrDenied k = false := by
  rw [Bool.eq_false_iff, ne_eq, csrDenied_iff]
  simp only [List.mem_cons, List.not_mem_nil, or_false]
  omega

/-- csrr of a register below 0x100. -/
theorem csrr_word {x : Word} (hk : csr.toNat = k) (h : k ≤ 0xD) (hw : csrWord (disarm s n) n k = some x) :
    Gives (.core n) (.csrr (.core n) sd csr) s (setS (.core n) sd x (fell (.core n) s)) :=
  gives_setS (exec_csrr_core n sd csr s) (by rw [hk]; exact (csrEff_word (op := .write) (sa := sd) (csrDenied_low h) hw).1)

/-- csrr of a register below 0x100 that a launch whose moment has come leaves. -/
theorem csrr_same {x : Word} (hk : csr.toNat = k) (h : k ≤ 0xD) (h8 : k ≠ 8) (hw : csrWord s n k = some x) :
    Gives (.core n) (.csrr (.core n) sd csr) s (setS (.core n) sd x (fell (.core n) s)) :=
  csrr_word hk h ((csrWord_disarm h8).trans hw)

/-- csrw of a register below 0x100 whose write changes its core by `f`, which becomes `g` beside the retirement. -/
theorem csrw_word {x : Word} {f g : Core → Core} (hk : csr.toNat = k) (h : k ≤ 0xD) (hw : csrWord (disarm s n) n k = some x)
    (hs : csrShared (disarm s n) n k (csrValue op x (csrW1c k) (getS (.core n) sa s)) = modCore (disarm s n) n f)
    (hf : ∀ dst, endC dst (f (disarmC (coreAt s n))) = g (retiredCore (coreAt s n) dst)) :
    Gives (.core n) (.csrw (.core n) op csr sa) s (modCore (fell (.core n) s) n g) := by
  intro hr
  have he : csrwEff n op csr.toNat sa (disarm s n) = .done (modCore (disarm s n) n f) := by
    rw [hk, (csrEff_word (sd := sa) (csrDenied_low h) hw).2, getS_disarm, hs]
  rw [exec_csrw_core, issueCore_done hr he, retireTo_settle, fell, retired_eq, disarm_eq, dropStalls_modCore, dropStalls_modCore,
    modCore_modCore, modCore_modCore, modCore_modCore]
  exact congrArg _ (modCore_congr _ _ _ _ (hf _))

/-- csrw of a register that is only read. -/
theorem csrw_readOnly (hk : csr.toNat = k) (h : k ≤ 0xD) (h017 : k ≠ 0 ∧ k ≠ 1 ∧ k ≠ 7) {x : Word} (hw : csrWord (disarm s n) n k = some x) :
    Gives (.core n) (.csrw (.core n) op csr sa) s (fell (.core n) s) := by
  obtain ⟨h0, h1, h7⟩ := h017
  intro hr
  have he : csrwEff n op csr.toNat sa (disarm s n) = .done (disarm s n) := by
    rw [hk, (csrEff_word (sd := sa) (csrDenied_low h) hw).2, csrShared, if_neg h0, if_neg h1, if_neg h7]
  rw [exec_csrw_core, issueCore_done hr he, retire_disarm]
  rfl

theorem csrWord_low_isSome (h : k ≤ 0xD) : ∃ x, csrWord s n k = some x := by
  interval_cases k <;> exact ⟨_, rfl⟩

end word

/-- A core whose cstat, or fpctl, is written `w`. -/
def cstatCore (w : Word) (c : Core) : Core :=
  { c with ctxerr := c.ctxerr && !bit w 12, badcmd := c.badcmd && !bit w 11, dz := c.dz && !bit w 6, late := c.late && !bit w 4 }
def fpctlCore (w : Word) (c : Core) : Core :=
  { c with fpctl := (c.fpctl &&& ~~~(w &&& 0xF00) &&& ~~~(3 : Word)) ||| (w &&& 3) }

theorem csrShared_cstat (s : State) (n : CoreId) (w : Word) : csrShared s n 0 w = modCore s n (cstatCore w) := rfl
theorem csrShared_fpctl (s : State) (n : CoreId) (w : Word) : csrShared s n 1 w = modCore s n (fpctlCore w) := rfl

section registers
variable {n : CoreId} {op : CsrOp} {sa : SReg} {csr : BitVec 12} {s : State}

theorem csrw_cstat (hk : csr.toNat = 0) : Gives (.core n) (.csrw (.core n) op csr sa) s (modCore (fell (.core n) s) n (fun y =>
    let c := coreAt s n
    let x := csrValue op (cstatWord c) 0x1850 (getS (.core n) sa s)
    { y with ctxerr := c.ctxerr && !x.getLsbD 12, badcmd := c.badcmd && !x.getLsbD 11
             dz := c.dz && !x.getLsbD 6, late := c.late && !x.getLsbD 4 })) := by
  refine csrw_word hk (by decide) (csrWord_disarm (by decide)) (csrShared_cstat _ n _) fun dst => ?_
  cases hp : (coreAt s n).launchPend <;> simp [endC, disarmC, retiredCore, hp, cstatCore, bit, csrW1c, BitVec.testBit_toNat]

theorem csrw_fpctl (hk : csr.toNat = 1) : Gives (.core n) (.csrw (.core n) op csr sa) s (modCore (fell (.core n) s) n (fun y =>
    let c := coreAt s n
    let x := csrValue op c.fpctl 0xF00 (getS (.core n) sa s)
    { y with fpctl := (c.fpctl &&& ~~~(x &&& 0xF00) &&& ~~~(3 : Word)) ||| (x &&& 3) })) := by
  refine csrw_word hk (by decide) (csrWord_disarm (by decide)) (csrShared_fpctl _ n _) fun dst => ?_
  cases hp : (coreAt s n).launchPend <;> simp [endC, disarmC, retiredCore, hp, fpctlCore, csrW1c]

theorem csrw_waitlim (hk : csr.toNat = 7) {x : Nat}
    (hx : bits (csrValue op ((coreAt s n).waitlim.setWidth 64) 0 (getS (.core n) sa s)) 39 0 = x) :
    Gives (.core n) (.csrw (.core n) op csr sa) s (modCore (fell (.core n) s) n (fun y =>
      if x = 0 ∨ 1000 ≤ x then { y with waitlim := BitVec.ofNat 40 x } else { y with badcmd := true })) := by
  refine csrw_word hk (by decide) (csrWord_disarm (by decide))
    (f := fun y => if x = 0 ∨ 1000 ≤ x then { y with waitlim := BitVec.ofNat 40 x } else { y with badcmd := true }) ?_ fun dst => ?_
  · have hok : waitlimOk x = true ↔ x = 0 ∨ 1000 ≤ x := by simp [waitlimOk]
    have hx : bits (csrValue op ((coreAt s n).waitlim.setWidth 64) (csrW1c 7) (getS (.core n) sa s)) 39 0 = x := hx
    simp only [csrShared, Nat.reduceEqDiff, if_false, if_true, hx, hok, setBadcmd]
    split <;> rfl
  · split <;> cases hp : (coreAt s n).launchPend <;> simp [endC, disarmC, retiredCore, hp]

end registers

/-! ### Registers of the core's own units -/

section block
variable {n : CoreId} {op : CsrOp} {sd sa : SReg} {csr : BitVec 12} {s : State}

theorem gives_kept {i : Instr} {cls : Nat} {e : State → Eff} {t : State} (hi : exec i s = .next (issueCore n i cls e s))
    (hp : (coreAt s n).launchPend = false) (he : e s = .done t) (hk : IssueKept s t n) : Gives (.core n) i s (fell (.core n) t) := by
  intro hr
  rw [hi, issueCore_done hr (by rw [disarm_of_unarmed hp, he]), retire_of_kept hp hk.1 hk.2]

theorem issueKept_setS {t : State} (h : IssueKept s t n) (v : Word) : IssueKept s (setS (.core n) sd v t) n := by
  refine h.trans ?_
  unfold setS
  split
  · exact ⟨rfl, rfl⟩
  · exact issueKept_modCore t n rfl rfl

theorem csrr_block {fs : List Fld} (h0 : 0x100 ≤ csr.toNat) (h1 : csr.toNat < 0x440) (hd : csrDenied csr.toNat = false)
    (hf : fields (csrOffset n csr.toNat) = some fs) (hp : (coreAt s n).launchPend = false) :
    Gives (.core n) (.csrr (.core n) sd csr) s
      (fell (.core n) (setS (.core n) sd (blockWord s (csrOffset n csr.toNat)) (afterRead s (csrOffset n csr.toNat) fs))) := by
  refine gives_kept (exec_csrr_core n sd csr s) hp (csrEff_block (op := .write) (sa := sd) hd (csrWord_none (by omega) (by omega)) ?_ hf).1
    (issueKept_setS (.of_cores (cores_afterRead s _ fs) n) _)
  rw [csrBlock_eq h0 h1, hf]
  rfl

theorem csrw_block {fs : List Fld} (h0 : 0x100 ≤ csr.toNat) (h1 : csr.toNat < 0x440) (hd : csrDenied csr.toNat = false)
    (hf : fields (csrOffset n csr.toNat) = some fs) (hp : (coreAt s n).launchPend = false) :
    Gives (.core n) (.csrw (.core n) op csr sa) s (fell (.core n) (writeBlock s true (csrOffset n csr.toNat)
      (csrValue op (blockWord s (csrOffset n csr.toNat)) (blockW1c fs) (getS (.core n) sa s)) fs)) := by
  have hk : csr.toNat ≠ 0x30B ∧ csr.toNat ≠ 0x30C := by
    rw [Bool.eq_false_iff, ne_eq, csrDenied_iff] at hd
    simp only [List.mem_cons, List.not_mem_nil, or_false] at hd
    omega
  refine gives_kept (exec_csrw_core n op csr sa s) hp (csrEff_block (sd := sa) hd (csrWord_none (by omega) (by omega)) ?_ hf).2
    (issueKept_writeBlock s h0 h1 hk _ fs)
  rw [csrBlock_eq h0 h1, hf]
  rfl

end block

/-! ### The launch slots (R345, Table 11-4) -/

/-- `t` is `s` but for the register at offset `c`. -/
structure OnlyReg (c : Nat) (s t : State) : Prop where
  rest : t = { s with dev := t.dev }
  others : ∀ o, o ≠ c → rget t o = rget s o
  rise : keysRise t.dev

namespace OnlyReg
variable {c : Nat} {s t u : State}

theorem refl (hr : keysRise s.dev) : OnlyReg c s s := ⟨rfl, fun _ _ => rfl, hr⟩

theorem trans (h : OnlyReg c s t) (k : OnlyReg c t u) : OnlyReg c s u where
  rest := by rw [k.rest, h.rest]
  others o ho := (k.others o ho).trans (h.others o ho)
  rise := k.rise

theorem fset (h : OnlyReg c s t) (hi lo v : Nat) : OnlyReg c s (fset t c hi lo v) :=
  h.trans ⟨rfl, fun o ho => rget_fset_ne t o c hi lo v ho, fset_rise c hi lo v h.rise⟩

theorem tb (h : OnlyReg c s t) : t.tb = s.tb := by rw [h.rest]
theorem mem (h : OnlyReg c s t) : t.mem = s.mem := by rw [h.rest]
theorem cores (h : OnlyReg c s t) : t.cores = s.cores := by rw [h.rest]

end OnlyReg

/-- A bit of a register after one of its bits is written. -/
theorem bit_fset {s : State} (hr : keysRise s.dev) (c j v : Nat) {k : Nat} (hk : k < 64) :
    bit (rget (fset s c k k v) c) j = if j = k then v.testBit 0 else bit (rget s c) j := by
  rw [rget_fset _ _ _ _ _ hr]
  refine (getLsbD_setBits _ k k v j le_rfl hk).trans ?_
  by_cases h : j = k
  · rw [if_pos h, if_pos (by omega), h, Nat.sub_self]
  · rw [if_neg h, if_neg (by omega)]
    rfl

theorem bit_fbit {s : State} (hr : keysRise s.dev) (c j : Nat) {k : Nat} (hk : k < 64) :
    bit (rget (fbit s c k) c) j = if j = k then true else bit (rget s c) j := bit_fset hr c j 1 hk

/-- The W1C bits of a slot's control written. -/
def clearBits (w : Word) (c : Nat) (l : List Nat) (s : State) : State :=
  l.foldl (fun s k => if bit w k then fset s c k k 0 else s) s

theorem clearBits_only (w : Word) (c : Nat) (l : List Nat) {s : State} (hr : keysRise s.dev) : OnlyReg c s (clearBits w c l s) := by
  induction l generalizing s with
  | nil => exact .refl hr
  | cons k l ih =>
    have h : OnlyReg c s (if bit w k then fset s c k k 0 else s) := by
      split
      · exact (OnlyReg.refl hr).fset k k 0
      · exact .refl hr
    exact h.trans (ih h.rise)

theorem bit_clearBits (w : Word) (c j : Nat) {l : List Nat} (hl : ∀ k ∈ l, k < 64) {s : State} (hr : keysRise s.dev) :
    bit (rget (clearBits w c l s) c) j = (bit (rget s c) j && !(decide (j ∈ l) && bit w j)) := by
  induction l generalizing s with
  | nil => simp [clearBits]
  | cons k l ih =>
    obtain ⟨hk, hl⟩ := List.forall_mem_cons.mp hl
    by_cases hb : bit w k = true
    · have hs : clearBits w c (k :: l) s = clearBits w c l (fset s c k k 0) := congrArg (clearBits w c l) (if_pos hb)
      rw [hs, ih hl (fset_rise c k k 0 hr), bit_fset hr c j 0 hk]
      by_cases h : j = k
      · simp [h, hb]
      · simp [h]
    · have hs : clearBits w c (k :: l) s = clearBits w c l s := congrArg (clearBits w c l) (if_neg hb)
      rw [hs, ih hl hr]
      by_cases h : j = k
      · simp [h, Bool.eq_false_iff.mpr hb]
      · simp [h]

/-- The write of slot `i` that its block holds until `at_`. -/
def slotWrite (s : State) (i at_ : Nat) : TimedWrite :=
  { slot := i, at_ := at_, addr := BitVec.ofNat 64 (fget s (launchReg i 8) 31 0), data := rget s (launchReg i 0x10) }

/-- `t` is `s` after slot `i` has sent its write, to be applied at `at_`. -/
structure SlotSent (s t : State) (i at_ : Nat) : Prop where
  disarmed : bit (rget t (launchReg i 0x18)) 0 = false
  error : writable (fget s (launchReg i 8) 31 0) = false → bit (rget t (launchReg i 0x18)) 1 = true
  fired : writable (fget s (launchReg i 8) 31 0) = true → bit (rget t (launchReg i 0x18)) 2 = true
  held : t.tb.held = s.tb.held ++ if writable (fget s (launchReg i 8) 31 0) then [slotWrite s i at_] else []
  others : ∀ o, o ≠ launchReg i 0x18 → rget t o = rget s o
  rise : keysRise t.dev
  mem : t.mem = s.mem
  cores : t.cores = s.cores

theorem launchReg_ne (i : Nat) {o p : Nat} (h : o ≠ p) : launchReg i o ≠ launchReg i p := by
  unfold launchReg tmbReg; omega

theorem slotSent {s : State} (hr : keysRise s.dev) (i at_ : Nat) : SlotSent s (launchSend s i at_) i at_ := by
  have hoff : OnlyReg (launchReg i 0x18) s (fset s (launchReg i 0x18) 0 0 0) := (OnlyReg.refl hr).fset 0 0 0
  have hbit : bit (rget (fset s (launchReg i 0x18) 0 0 0) (launchReg i 0x18)) 0 = false := bit_fset hr _ 0 0 (by decide)
  by_cases hw : writable (fget s (launchReg i 8) 31 0) = true
  · have hs : launchSend s i at_ = { fbit (fset s (launchReg i 0x18) 0 0 0) (launchReg i 0x18) 2 with
        tb := { s.tb with held := s.tb.held ++ [slotWrite s i at_] } } := by
      have hdata := hoff.others (launchReg i 0x10) (launchReg_ne i (by decide))
      simp only [launchSend, hw, Bool.not_true, Bool.false_eq_true, if_false, hdata]
      rfl
    have h2 : OnlyReg (launchReg i 0x18) s (fbit (fset s (launchReg i 0x18) 0 0 0) (launchReg i 0x18) 2) := hoff.fset 2 2 1
    have hb (j : Nat) : bit (rget (launchSend s i at_) (launchReg i 0x18)) j = if j = 2 then true else
        bit (rget (fset s (launchReg i 0x18) 0 0 0) (launchReg i 0x18)) j := by
      rw [hs]; exact bit_fbit hoff.rise _ j (by decide)
    refine ⟨(hb 0).trans hbit, fun h => ?_, fun _ => hb 2, ?_, ?_, ?_, ?_, ?_⟩
    · rw [hw] at h; cases h
    · rw [if_pos hw, hs]
    · intro o ho
      rw [hs]; exact h2.others o ho
    · rw [hs]; exact h2.rise
    · rw [hs]; rfl
    · rw [hs]; rfl
  · have hs : launchSend s i at_ = fbit (fset s (launchReg i 0x18) 0 0 0) (launchReg i 0x18) 1 := by
      simp only [launchSend, Bool.eq_false_iff.mpr hw, Bool.not_false, if_true]
    have h1 : OnlyReg (launchReg i 0x18) s (fbit (fset s (launchReg i 0x18) 0 0 0) (launchReg i 0x18) 1) := hoff.fset 1 1 1
    have hb (j : Nat) : bit (rget (launchSend s i at_) (launchReg i 0x18)) j = if j = 1 then true else
        bit (rget (fset s (launchReg i 0x18) 0 0 0) (launchReg i 0x18)) j := by
      rw [hs]; exact bit_fbit hoff.rise _ j (by decide)
    refine ⟨(hb 0).trans hbit, fun _ => hb 1, fun h => absurd h hw, ?_, ?_, ?_, ?_, ?_⟩
    · rw [if_neg hw, List.append_nil, hs, h1.tb]
    · intro o ho
      rw [hs]; exact h1.others o ho
    · rw [hs]; exact h1.rise
    · rw [hs, h1.mem]
    · rw [hs, h1.cores]

namespace SlotSent
variable {s t : State} {i at_ : Nat}

theorem held_of_error (h : SlotSent s t i at_) (hw : writable (fget s (launchReg i 8) 31 0) = false) : t.tb.held = s.tb.held := by
  rw [h.held, hw]
  exact List.append_nil _

theorem held_of_writable (h : SlotSent s t i at_) (hw : writable (fget s (launchReg i 8) 31 0) = true) :
    t.tb.held = s.tb.held ++ [slotWrite s i at_] := by
  rw [h.held, if_pos hw]

end SlotSent

theorem advanceTo_eq (s : State) (ns : Nat) :
    ∃ clk count, advanceTo s ns = { s with clk := clk, tb := { s.tb with count := count } } := ⟨_, _, rfl⟩
theorem held_advanceTo (s : State) (ns : Nat) : (advanceTo s ns).tb.held = s.tb.held := by
  obtain ⟨clk, count, h⟩ := advanceTo_eq s ns
  rw [h]
theorem dev_advanceTo (s : State) (ns : Nat) : (advanceTo s ns).dev = s.dev := by rw [advanceTo]
theorem rget_advanceTo (s : State) (ns o : Nat) : rget (advanceTo s ns) o = rget s o := rget_congr (dev_advanceTo s ns) o
theorem mem_advanceTo (s : State) (ns : Nat) : (advanceTo s ns).mem = s.mem := by rw [advanceTo]

/-- A slot that sends later sends what it holds now. -/
theorem slotSent_later {s : State} (hr : keysRise s.dev) (i at_ ns : Nat) : SlotSent s (launchSend (advanceTo s ns) i at_) i at_ := by
  have h := slotSent (s := advanceTo s ns) (by rw [dev_advanceTo]; exact hr) i at_
  have hreg := rget_advanceTo s ns
  have hoff : fget (advanceTo s ns) (launchReg i 8) 31 0 = fget s (launchReg i 8) 31 0 := congrArg (bits · 31 0) (hreg _)
  have hwrite : slotWrite (advanceTo s ns) i at_ = slotWrite s i at_ := by rw [slotWrite, slotWrite, hoff, hreg]
  refine ⟨h.disarmed, hoff ▸ h.error, hoff ▸ h.fired, ?_, fun o ho => (h.others o ho).trans (hreg o), h.rise,
    h.mem.trans (mem_advanceTo s ns), h.cores.trans (cores_advanceTo s ns)⟩
  rw [h.held, hoff, hwrite, held_advanceTo]

/-- A slot's control after its W1C bits and ARM are written. -/
def armedSlot (s : State) (i : Nat) (w : Word) : State :=
  fset (clearBits w (launchReg i 0x18) [1, 2, 3] s) (launchReg i 0x18) 0 0 (b1 (bit w 0))

section slot
variable {s : State} {i : Nat} {w : Word} (hr : keysRise s.dev)
include hr

theorem armedSlot_only : OnlyReg (launchReg i 0x18) s (armedSlot s i w) :=
  (clearBits_only w _ _ hr).fset 0 0 _

theorem bit_armedSlot (j : Nat) : bit (rget (armedSlot s i w) (launchReg i 0x18)) j =
    if j = 0 then bit w 0 else (bit (rget s (launchReg i 0x18)) j && !(decide (j ∈ [1, 2, 3]) && bit w j)) := by
  rw [armedSlot, bit_fset (clearBits_only w _ _ hr).rise _ _ _ (by decide), bit_clearBits w _ _ (by decide) hr]
  cases bit w 0 <;> rfl

theorem launchWrite_eq : launchWrite s i w =
    if w.getLsbD 0 = true ∧ bit (rget s (launchReg i 0x18)) 0 = false ∧ (rget s (launchReg i 0)).toNat < now s + 4000 then
      fbit (launchSend (armedSlot s i w) i (now s)) (launchReg i 0x18) 3
    else armedSlot s i w := by
  have ho := armedSlot_only (i := i) (w := w) hr
  have hn : now (armedSlot s i w) = now s := by rw [now, now, ho.tb]
  change (if (bit w 0 && !bit (rget s (launchReg i 0x18)) 0 &&
    decide ((rget (armedSlot s i w) (launchReg i 0)).toNat < now (armedSlot s i w) + 4000)) = true then
      fbit (launchSend (armedSlot s i w) i (now (armedSlot s i w))) (launchReg i 0x18) 3 else armedSlot s i w) = _
  rw [hn, ho.others _ (launchReg_ne i (by decide))]
  refine if_congr ?_ rfl rfl
  rw [Bool.and_eq_true, Bool.and_eq_true, Bool.not_eq_true', decide_eq_true_eq, and_assoc]
  rfl

theorem launchWrite_kept (h : ¬(w.getLsbD 0 = true ∧ bit (rget s (launchReg i 0x18)) 0 = false ∧
    (rget s (launchReg i 0)).toNat < now s + 4000)) : launchWrite s i w = armedSlot s i w := by
  rw [launchWrite_eq hr, if_neg h]

/-- A slot armed too late sends at once. -/
theorem launchWrite_soon (h : w.getLsbD 0 = true ∧ bit (rget s (launchReg i 0x18)) 0 = false ∧
      (rget s (launchReg i 0)).toNat < now s + 4000) :
    SlotSent s (launchWrite s i w) i (now s) ∧ bit (rget (launchWrite s i w) (launchReg i 0x18)) 3 = true := by
  have ho := armedSlot_only (i := i) (w := w) hr
  have hs := slotSent ho.rise i (now s)
  have h8 : fget (armedSlot s i w) (launchReg i 8) 31 0 = fget s (launchReg i 8) 31 0 :=
    congrArg (bits · 31 0) (ho.others _ (launchReg_ne i (by decide)))
  have hw : slotWrite (armedSlot s i w) i (now s) = slotWrite s i (now s) := by
    rw [slotWrite, slotWrite, h8, ho.others _ (launchReg_ne i (by decide))]
  have hb (j : Nat) := bit_fbit hs.rise (launchReg i 0x18) j (k := 3) (by decide)
  rw [launchWrite_eq hr, if_pos h]
  have h3 : OnlyReg (launchReg i 0x18) (launchSend (armedSlot s i w) i (now s))
      (fbit (launchSend (armedSlot s i w) i (now s)) (launchReg i 0x18) 3) := (OnlyReg.refl hs.rise).fset 3 3 1
  refine ⟨⟨(hb 0).trans hs.disarmed, fun h => (hb 1).trans (hs.error (h8 ▸ h)), fun h => (hb 2).trans (hs.fired (h8 ▸ h)), ?_, ?_,
    h3.rise, ?_, ?_⟩, hb 3⟩
  · rw [h3.tb, hs.held, ho.tb, h8, hw]
  · exact fun o h => (h3.others o h).trans ((hs.others o h).trans (ho.others o h))
  · rw [h3.mem, hs.mem, ho.mem]
  · rw [h3.cores, hs.cores, ho.cores]

end slot

theorem exec_launchArm {i : Fin 8} {w : Word} {s : State} (hd : deviceRuns s = true) :
    exec (.launchArm i w) s = .next (launchWrite s i.val w) := congrArg Host.Outcome.next (if_pos hd)

theorem exec_launchSlotSend {i : Fin 8} {s : State} (hd : deviceRuns s = true) (ha : bit (rget s (launchReg i.val 0x18)) 0 = true) :
    exec (.launchSlotSend i) s = .next (launchSend (advanceTo s ((rget s (launchReg i.val 0)).toNat - 4000)) i.val
      (rget s (launchReg i.val 0)).toNat) := congrArg Host.Outcome.next (if_pos (by rw [hd, ha]; rfl))

theorem exec_launchSlotSend_off {i : Fin 8} {s : State} (h : deviceRuns s = false ∨ bit (rget s (launchReg i.val 0x18)) 0 = false) :
    exec (.launchSlotSend i) s = .next s :=
  congrArg Host.Outcome.next (if_neg (by rcases h with h | h <;> simp [h]))

/-! ### The order of the held writes (R346) -/

theorem heldBefore_iff (s : State) (a b : TimedWrite) : heldBefore s a b = true ↔
    heldCycle s a < heldCycle s b ∨ (heldCycle s a = heldCycle s b ∧ a.slot < b.slot) := decide_eq_true_iff

theorem heldBefore_irrefl (s : State) (a : TimedWrite) : heldBefore s a a = false := by
  simp [heldBefore]

theorem heldBefore_trans {s : State} {a b c : TimedWrite} (h : heldBefore s a b = true) (k : heldBefore s b c = true) :
    heldBefore s a c = true := by
  rw [heldBefore_iff] at *
  omega

theorem heldBefore_of_not {s : State} {a b : TimedWrite} (h : heldBefore s a b = false)
    (hne : (heldCycle s a, a.slot) ≠ (heldCycle s b, b.slot)) : heldBefore s b a = true := by
  rw [Bool.eq_false_iff, ne_eq, heldBefore_iff] at h
  rw [heldBefore_iff]
  simp only [ne_eq, Prod.mk.injEq] at hne
  omega

/-- The cycle in which a moment to come is reached: the first whose Timebase is at or after it. -/
theorem heldCycle_iff {s : State} {t : TimedWrite} (h : s.tb.count < t.at_ * 2 ^ 32) (k : Nat) : heldCycle s t = k ↔
    k ≠ 0 ∧ s.tb.count + (k - 1) * max 1 (fget s (tmbReg 0x20) 39 0) < t.at_ * 2 ^ 32 ∧
      t.at_ * 2 ^ 32 ≤ s.tb.count + k * max 1 (fget s (tmbReg 0x20) 39 0) := by
  have hpos : 0 < max 1 (fget s (tmbReg 0x20) 39 0) := lt_max_of_lt_left one_pos
  unfold heldCycle
  generalize max 1 (fget s (tmbReg 0x20) 39 0) = r at hpos ⊢
  have hcast : ((t.at_ : Int) * 2 ^ 32) = ((t.at_ * 2 ^ 32 : Nat) : Int) := by push_cast; rfl
  rw [hcast]
  generalize t.at_ * 2 ^ 32 = m at h ⊢
  have hr : (0 : Int) < (r : Int) := by exact_mod_cast hpos
  have hdiv : -(((s.tb.count : Int) - (m : Int)) / (r : Int)) = k ↔
      -(k : Int) * r ≤ (s.tb.count : Int) - m ∧ (s.tb.count : Int) - m < (-(k : Int) + 1) * r := by
    rw [← Int.le_ediv_iff_mul_le hr, ← Int.ediv_lt_iff_lt_mul hr]
    omega
  rw [hdiv]
  cases k with
  | zero => simp only [Nat.cast_zero, neg_zero, zero_mul, zero_add, one_mul]; omega
  | succ k =>
    have e1 : -((k + 1 : Nat) : Int) * r = -((k * r : Nat) : Int) - r := by push_cast; ring
    have e2 : (-((k + 1 : Nat) : Int) + 1) * r = -((k * r : Nat) : Int) := by push_cast; ring
    rw [e1, e2, Nat.add_sub_cancel, Nat.add_mul, Nat.one_mul]
    omega

theorem mem_insertHeld {s : State} {t u : TimedWrite} {l : List TimedWrite} : u ∈ insertHeld s t l ↔ u = t ∨ u ∈ l := by
  induction l with
  | nil => simp [insertHeld]
  | cons v l ih =>
    rw [insertHeld]
    split
    · simp
    · rw [List.mem_cons, ih, List.mem_cons, or_left_comm]

/-- Insertion keeps the order, where no two writes have one cycle and slot. -/
theorem pairwise_insertHeld {s : State} {t : TimedWrite} {l : List TimedWrite} (hl : l.Pairwise (fun a b => heldBefore s a b = true))
    (hne : ∀ u ∈ l, (heldCycle s t, t.slot) ≠ (heldCycle s u, u.slot)) :
    (insertHeld s t l).Pairwise (fun a b => heldBefore s a b = true) := by
  induction l with
  | nil => exact List.pairwise_singleton _ t
  | cons v l ih =>
    obtain ⟨hv, hl'⟩ := List.pairwise_cons.mp hl
    obtain ⟨hnev, hne'⟩ := List.forall_mem_cons.mp hne
    rw [insertHeld]
    split
    case isTrue htv =>
      refine List.pairwise_cons.mpr ⟨fun u hu => ?_, hl⟩
      rcases List.mem_cons.mp hu with rfl | hu
      · exact htv
      · exact heldBefore_trans htv (hv u hu)
    case isFalse htv =>
      refine List.pairwise_cons.mpr ⟨fun u hu => ?_, ih hl' hne'⟩
      rcases mem_insertHeld.mp hu with rfl | hu
      · exact heldBefore_of_not (Bool.eq_false_iff.mpr htv) hnev
      · exact hv u hu

/-- The held writes inserted one by one. -/
def sortHeld (s : State) (l : List TimedWrite) (acc : List TimedWrite) : List TimedWrite :=
  l.foldl (fun l u => insertHeld s u l) acc

theorem mem_sortHeld {s : State} {u : TimedWrite} {l acc : List TimedWrite} : u ∈ sortHeld s l acc ↔ u ∈ l ∨ u ∈ acc := by
  induction l generalizing acc with
  | nil => simp [sortHeld]
  | cons v l ih =>
    rw [sortHeld, List.foldl_cons]
    refine ih.trans ?_
    rw [mem_insertHeld, List.mem_cons]
    tauto

theorem insertHeld_perm (s : State) (t : TimedWrite) (l : List TimedWrite) : (insertHeld s t l).Perm (t :: l) := by
  induction l with
  | nil => exact .refl _
  | cons u l ih =>
    rw [insertHeld]
    split
    · exact .refl _
    · exact (ih.cons u).trans (.swap t u l)

theorem pairwise_sortHeld {s : State} {l acc : List TimedWrite} (hacc : acc.Pairwise (fun a b => heldBefore s a b = true))
    (hn : ((l ++ acc).map (fun u => (heldCycle s u, u.slot))).Nodup) :
    (sortHeld s l acc).Pairwise (fun a b => heldBefore s a b = true) := by
  induction l generalizing acc with
  | nil => exact hacc
  | cons v l ih =>
    have hperm : (l ++ insertHeld s v acc).Perm (v :: l ++ acc) := ((insertHeld_perm s v acc).append_left l).trans List.perm_middle
    have hne : ∀ u ∈ acc, (heldCycle s v, v.slot) ≠ (heldCycle s u, u.slot) := by
      intro u hu he
      rw [List.cons_append, List.map_cons, List.nodup_cons] at hn
      exact hn.1 (List.mem_map.mpr ⟨u, List.mem_append_right l hu, he.symm⟩)
    exact ih (pairwise_insertHeld hacc hne) ((hperm.map _).nodup_iff.mpr hn)

section due
variable {s : State} {t : TimedWrite}

theorem mem_dueBefore {u : TimedWrite} : u ∈ dueBefore s t ↔ u = t ∨ (u ∈ s.tb.held ∧ heldBefore s u t = true) := by
  change u ∈ sortHeld s (s.tb.held.filter (fun u => heldBefore s u t)) [] ++ [t] ↔ _
  rw [List.mem_append, mem_sortHeld, List.mem_filter, List.mem_singleton]
  rw [or_iff_left List.not_mem_nil, or_comm]

theorem pairwise_dueBefore (hn : (s.tb.held.map (fun u => (heldCycle s u, u.slot))).Nodup) :
    (dueBefore s t).Pairwise (fun a b => heldBefore s a b = true) := by
  change (sortHeld s (s.tb.held.filter (fun u => heldBefore s u t)) [] ++ [t]).Pairwise _
  refine List.pairwise_append.mpr ⟨pairwise_sortHeld .nil ?_, List.pairwise_singleton _ t, ?_⟩
  · rw [List.append_nil]
    exact hn.sublist (List.filter_sublist.map _)
  · intro u hu v hv
    obtain rfl := List.mem_singleton.mp hv
    rcases mem_sortHeld.mp hu with hu | hu
    · exact (List.mem_filter.mp hu).2
    · exact absurd hu List.not_mem_nil

theorem dueBefore_single (h : s.tb.held = [t]) : dueBefore s t = [t] := by
  rw [dueBefore, h, List.filter_cons_of_neg (by simp [heldBefore_irrefl]), List.filter_nil]
  rfl

end due

/-! ### LAUNCH_WRITE_APPLY -/

section apply_
variable {i : Fin 8} {s : State} (hd : deviceRuns s = true)
include hd

theorem exec_launchWriteApply : exec (.launchWriteApply i) s =
    .next (match s.tb.held.find? (fun t => decide (t.slot = i.val)) with
      | none => s
      | some t => (dueBefore s t).foldl (fun s u => applyHeld (advanceTo s u.at_) u) s) :=
  congrArg Host.Outcome.next (if_neg (by rw [hd]; decide))

theorem launchWriteApply_none (h : ∀ t ∈ s.tb.held, t.slot ≠ i.val) : exec (.launchWriteApply i) s = .next s := by
  rw [exec_launchWriteApply hd, List.find?_eq_none.mpr (by simpa using h)]

theorem launchWriteApply_some {t : TimedWrite} (h : s.tb.held.find? (fun t => decide (t.slot = i.val)) = some t) :
    exec (.launchWriteApply i) s = .next ((dueBefore s t).foldl (fun s u => applyHeld (advanceTo s u.at_) u) s) := by
  rw [exec_launchWriteApply hd, h]

theorem launchWriteApply_single {t : TimedWrite} (h : s.tb.held = [t]) (ht : t.slot = i.val) :
    exec (.launchWriteApply i) s = .next (applyHeld (advanceTo s t.at_) t) := by
  rw [launchWriteApply_some hd (t := t) (by simp [h, ht]), dueBefore_single h]
  rfl

end apply_

theorem applyHeld_single {s : State} {t : TimedWrite} (h : s.tb.held = [t]) : applyHeld s t =
    (writeReg { s with tb := { s.tb with held := [] } } .curator t.addr.toNat t.data).getD { s with tb := { s.tb with held := [] } } := by
  have he : s.tb.held.erase t = [] := by rw [h, List.erase_cons_head]
  rw [applyHeld, he]

/-! ### The management core's control registers (log entry 8) -/

section mgmt
variable {m : Fin 4} {op : CsrOp} {csr : BitVec 12} {sd sa : SReg} {s : State}

/-- What csrr and csrw do at issue on a management core. -/
def mgmtCsrr (m : Fin 4) (sd : SReg) (k : Nat) (s : State) : Eff :=
  match mgmtCsr s m k with
  | some w => .done (setS (.mgmt m) sd w s)
  | none => .fault excIllegal

def mgmtCsrw (m : Fin 4) (op : CsrOp) (k : Nat) (sa : SReg) (s : State) : Eff :=
  if k = 0x008 then
    .done (setMgmt s m { s.mgmt[m] with
      launchat := csrValue op s.mgmt[m].launchat 0 (getS (.mgmt m) sa s)
      launchPend := decide (csrValue op s.mgmt[m].launchat 0 (getS (.mgmt m) sa s) ≠ 0) })
  else if (mgmtCsr s m k).isSome then .done s else .fault excIllegal

theorem exec_csrr_mgmt : exec (.csrr (.mgmt m) sd csr) s =
    .next (issue (.mgmt m) (.csrr (.mgmt m) sd csr) 7 (mgmtCsrr m sd csr.toNat) s) := rfl

theorem exec_csrw_mgmt : exec (.csrw (.mgmt m) op csr sa) s =
    .next (issue (.mgmt m) (.csrw (.mgmt m) op csr sa) 7 (mgmtCsrw m op csr.toNat sa) s) := rfl

theorem launchat_disarmed :
    (disarmed (.mgmt m) s).mgmt[m].launchat = if s.mgmt[m].launchPend then 0 else s.mgmt[m].launchat := by
  rw [disarmed]
  split <;> simp [setMgmt]

theorem mgmt_count_disarmed : (disarmed (.mgmt m) s).tb = s.tb := by
  rw [disarmed]
  split <;> rfl

theorem csrr_mgmt {k : Nat} (hk : csr.toNat = k) {x : Word} (hx : mgmtCsr (disarmed (.mgmt m) s) m k = some x) :
    Gives (.mgmt m) (.csrr (.mgmt m) sd csr) s (setS (.mgmt m) sd x (fell (.mgmt m) s)) := by
  intro hr
  have he : mgmtCsrr m sd csr.toNat (disarmed (.mgmt m) s) = .done (setS (.mgmt m) sd x (disarmed (.mgmt m) s)) := by
    rw [mgmtCsrr, hk, hx]
  rw [exec_csrr_mgmt]
  exact congrArg _ (issue_setS hr he)

theorem csrw_mgmt_launchat (hk : csr.toNat = 8) {w : Word}
    (hw : csrValue op (if s.mgmt[m].launchPend then 0 else s.mgmt[m].launchat) 0 (getS (.mgmt m) sa s) = w) :
    Gives (.mgmt m) (.csrw (.mgmt m) op csr sa) s (setMgmt (fell (.mgmt m) s) m
      { (fell (.mgmt m) s).mgmt[m] with launchat := w, launchPend := decide (w ≠ 0) }) := by
  intro hr
  have he : mgmtCsrw m op csr.toNat sa (disarmed (.mgmt m) s) = .done (setMgmt (disarmed (.mgmt m) s) m
      { (disarmed (.mgmt m) s).mgmt[m] with launchat := w, launchPend := decide (w ≠ 0) }) := by
    rw [mgmtCsrw, if_pos hk, launchat_disarmed, getS_disarmed, hw]
  rw [exec_csrw_mgmt, issue_mgmt_done hr he, fell_mgmt]
  simp [setMgmt]

theorem csrw_mgmt_ignored {k : Nat} (hk : csr.toNat = k) (h8 : k ≠ 8) (hx : (mgmtCsr (disarmed (.mgmt m) s) m k).isSome = true) :
    Gives (.mgmt m) (.csrw (.mgmt m) op csr sa) s (fell (.mgmt m) s) := by
  intro hr
  have he : mgmtCsrw m op csr.toNat sa (disarmed (.mgmt m) s) = .done (disarmed (.mgmt m) s) := by
    rw [mgmtCsrw, hk, if_neg h8, if_pos hx]
  rw [exec_csrw_mgmt, issue_mgmt_done hr he, fell_mgmt]

theorem mgmtCsr_none {k : Nat} (hk : k ∉ [8, 0x00A, 0x00B]) : mgmtCsr s m k = none := by
  simp only [List.mem_cons, List.not_mem_nil, or_false, not_or] at hk
  obtain ⟨h8, ha, hb⟩ := hk
  rw [mgmtCsr, if_neg h8, if_neg ha, if_neg hb]

theorem csr_mgmt_fault (hk : csr.toNat ∉ [8, 0x00A, 0x00B]) (hp : s.mgmt[m].launchPend = false) :
    Gives (.mgmt m) (.csrr (.mgmt m) sd csr) s (report s { kind := 0x1A, cls := 5, unit := 13 }) ∧
    Gives (.mgmt m) (.csrw (.mgmt m) op csr sa) s (report s { kind := 0x1A, cls := 5, unit := 13 }) := by
  have hn := mgmtCsr_none (s := disarmed (.mgmt m) s) (m := m) hk
  have h8 : csr.toNat ≠ 8 := fun h => hk (h ▸ List.mem_cons_self)
  refine ⟨fun hr => ?_, fun hr => ?_⟩
  · rw [exec_csrr_mgmt, issue_mgmt_fault (x := excIllegal) hr (by rw [mgmtCsrr, hn]), disarmed_mgmt hp]
  · rw [exec_csrw_mgmt, issue_mgmt_fault (x := excIllegal) hr (by rw [mgmtCsrw, if_neg h8, hn]; rfl), disarmed_mgmt hp]

end mgmt

/-! ### The statement -/

section core
variable {n : CoreId} {op : CsrOp} {sd sa : SReg} {csr : BitVec 12} {s : State}

theorem csr_hidden (h : csrDenied csr.toNat = true) :
    Gives (.core n) (.csrr (.core n) sd csr) s (takeExc (disarm s n) n { code := 2 } 7 true (coreAt s n).pc (coreAt s n).pc) ∧
    Gives (.core n) (.csrw (.core n) op csr sa) s (takeExc (disarm s n) n { code := 2 } 7 true (coreAt s n).pc (coreAt s n).pc) :=
  ⟨gives_fault (exec_csrr_core n sd csr s) (csrEff_denied (op := op) (sa := sa) h).1,
    gives_fault (exec_csrw_core n op csr sa s) (csrEff_denied (sd := sd) h).2⟩

theorem csr_missing (hl : 0xD < csr.toNat) (hd : csrDenied csr.toNat = false) (hb : csrBlock n csr.toNat = none) :
    Gives (.core n) (.csrr (.core n) sd csr) s (takeExc (disarm s n) n { code := 1 } 7 true (coreAt s n).pc (coreAt s n).pc) ∧
    Gives (.core n) (.csrw (.core n) op csr sa) s (takeExc (disarm s n) n { code := 1 } 7 true (coreAt s n).pc (coreAt s n).pc) := by
  rw [Bool.eq_false_iff, ne_eq, csrDenied_iff] at hd
  have hw : csrWord (disarm s n) n csr.toNat = none := csrWord_none hl (by omega)
  exact ⟨gives_fault (exec_csrr_core n sd csr s) (csrEff_missing (op := op) (sa := sa) hw hb).1,
    gives_fault (exec_csrw_core n op csr sa s) (csrEff_missing (sd := sd) hw hb).2⟩

/-- The statement's way to name the register of a core's own units. -/
theorem csrOffset_eq (k : Nat) : (if 0x100 ≤ k ∧ k < 0x200 then engReg n.val (8 * (k - 0x100))
      else if 0x200 ≤ k ∧ k < 0x300 then vecReg n.val (8 * (k - 0x200))
      else if 0x300 ≤ k ∧ k < 0x400 then rkgReg n.val (8 * (k - 0x300))
      else 0x05000000 + n.val * 0x1000 + 8 * (k - 0x400)) = csrOffset n k := by
  simp only [csrOffset, Nat.lt_iff_le_pred (show 0 < 0x200 by decide), Nat.lt_iff_le_pred (show 0 < 0x300 by decide),
    Nat.lt_iff_le_pred (show 0 < 0x400 by decide)]

/-- The statement's way to name the value that csrw writes. -/
theorem csrValue_eq (op : CsrOp) (old w1c v : Word) : (match op with
      | .write => v
      | .set => (old ||| v) &&& ~~~w1c
      | .clear => (old &&& ~~~v) &&& ~~~w1c) = csrValue op old w1c v := by
  cases op <;> rfl

theorem csrValue_plain (op : CsrOp) (old v : Word) : csrValue op old 0 v = match op with
      | .write => v
      | .set => old ||| v
      | .clear => old &&& ~~~v := by
  cases op
  case write => rfl
  case set => exact BitVec.and_allOnes
  case clear => exact BitVec.and_allOnes

end core

/-- Settles O32: each control register by the rule of its kind, the launch slots by the bits of their control, and the held
writes by insertion in the order of cycle and slot. -/
theorem controlRegistersAndTimedWrites : Obligations.ControlRegistersAndTimedWrites := by
  unfold Obligations.ControlRegistersAndTimedWrites
  refine ⟨?_, ?_, ?_⟩
  · intro n op csr sd sa s h c k r w v reads hidden low block new
    have hblock : block = csrOffset n k := csrOffset_eq k
    have hhid : csrDenied k = true ↔ hidden := csrDenied_iff k
    refine ⟨fun hh => csr_hidden (hhid.mpr hh), fun hk => csrr_same hk (by decide) (by decide) rfl,
      fun hk => csrr_same hk (by decide) (by decide) rfl, fun hk => csrr_same hk (by decide) (by decide) rfl,
      fun hk => csrr_same hk (by decide) (by decide) rfl, fun hk => csrr_same hk (by decide) (by decide) rfl,
      fun hk => csrr_same hk (by decide) (by decide) rfl, fun hk => csrr_same hk (by decide) (by decide) rfl,
      fun hk => csrr_same hk (by decide) (by decide) rfl, fun hk => csrr_word hk (by decide) csrWord_launchat,
      fun hk g hg => csrr_same hk (by decide) (by decide) ?_, fun hk => csrr_same hk (by decide) (by decide) rfl,
      fun hk => csrr_same hk (by decide) (by decide) rfl, fun hk => csrr_same hk (by decide) (by decide) rfl,
      fun hk => csrr_same hk (by decide) (by decide) rfl, ?_, ?_, ?_, ?_, ?_, ?_⟩
    · change some (mkWord [(16, ((coreOwner s n).map (fun g => g.val)).getD 0), (0, n.val)]) = _
      rw [hg]; rfl
    · intro hl hb
      obtain ⟨hlow, hnot⟩ := not_or.mp hl
      refine csr_missing (Nat.not_le.mp hlow) (Bool.eq_false_iff.mpr fun hd => hnot (hhid.mp hd)) ?_
      by_cases hk : csr.toNat < 0x100 ∨ 0x440 ≤ csr.toNat
      · exact csrBlock_none hk
      · have hf : fields (csrOffset n csr.toNat) = none := hblock ▸ (or_assoc.mpr hb).resolve_left hk
        rw [csrBlock_eq (by omega) (by omega), hf]
        rfl
    · intro fs h0 h1 hh hf hp
      have hd : csrDenied k = false := Bool.eq_false_iff.mpr fun hd => hh (hhid.mp hd)
      have hnew (old w1c : Word) : new old w1c = csrValue op old w1c v := csrValue_eq op old w1c v
      rw [hblock] at hf
      rw [hnew, hblock]
      exact ⟨csrr_block h0 h1 hd hf hp, csrw_block h0 h1 hd hf hp⟩
    · intro hk x
      have hx : x = csrValue op (cstatWord c) 0x1850 v := csrValue_eq op _ _ v
      rw [hx]
      exact csrw_cstat hk
    · intro hk x
      have hx : x = csrValue op c.fpctl 0xF00 v := csrValue_eq op _ _ v
      rw [hx]
      exact csrw_fpctl hk
    · intro hk x
      have hx : bits (csrValue op (c.waitlim.setWidth 64) 0 v) 39 0 = x := congrArg (bits · 39 0) (csrValue_eq op _ _ v).symm
      have hg := csrw_waitlim hk hx
      refine ⟨fun ho => ?_, fun h0 h1 => ?_⟩
      · simpa only [if_pos ho] using hg
      · simpa only [if_neg (show ¬(x = 0 ∨ 1000 ≤ x) by omega)] using hg
    · intro hk
      simp only [List.mem_cons, List.not_mem_nil, or_false] at hk
      obtain ⟨x, hx⟩ := csrWord_low_isSome (s := disarm s n) (n := n) (k := csr.toNat) (by omega)
      exact csrw_readOnly rfl (by omega) (by omega) hx
  · intro m op csr sd sa s h k pend
    refine ⟨fun hk => csrr_mgmt hk (congrArg some launchat_disarmed), fun hk => csrr_mgmt hk ?_, fun hk => csrr_mgmt hk ?_,
      fun hk => csrw_mgmt_launchat hk ?_, fun hk => ?_, csr_mgmt_fault⟩
    · exact congrArg (fun x => some (BitVec.ofNat 64 x)) now_disarmed_mgmt
    · exact congrArg (fun x : Timebase => some (BitVec.ofNat 64 (x.count / 2 ^ 16 % 2 ^ 16))) mgmt_count_disarmed
    · exact csrValue_plain op _ _
    · simp only [List.mem_cons, List.not_mem_nil, or_false] at hk
      rcases hk with hk | hk
      · exact csrw_mgmt_ignored hk (by decide) rfl
      · exact csrw_mgmt_ignored hk (by decide) rfl
  · intro i v s r target ctl soon addr held
    refine ⟨?_, ?_, ?_, ?_, launchWriteApply_none, ?_, heldBefore_iff s, fun t k ht => heldCycle_iff ht k, ?_⟩
    · intro hd
      exact ⟨congrArg Host.Outcome.next (if_neg (by rw [hd]; decide)), exec_launchSlotSend_off (.inl hd),
        congrArg Host.Outcome.next (if_pos (by rw [hd]; decide))⟩
    · intro hd hr
      have hr : keysRise s.dev := (rising_map_iff _).mp hr
      refine ⟨launchWrite s i.val v, exec_launchArm hd, ?_⟩
      by_cases hs : soon
      · obtain ⟨hsent, hlate⟩ := launchWrite_soon hr hs
        exact ⟨fun h => absurd hs h, fun _ => ⟨hsent.disarmed, hlate, hsent.fired, hsent.error, hsent.held⟩, hsent.others, hsent.mem,
          hsent.cores⟩
      · have ho := armedSlot_only (i := i.val) (w := v) hr
        have hb := bit_armedSlot (i := i.val) (w := v) hr
        rw [launchWrite_kept hr hs]
        refine ⟨fun _ => ⟨hb 0, ho.tb, fun k hk => ?_⟩, fun h => absurd h hs, ho.others, ho.mem, ho.cores⟩
        have hk0 : k ≠ 0 := by rintro rfl; exact absurd hk (by decide)
        refine (hb k).trans ?_
        rw [if_neg hk0, decide_eq_true hk]
        rfl
    · exact fun _ hb => exec_launchSlotSend_off (.inr hb)
    · intro hd hb hr
      have hsent := slotSent_later ((rising_map_iff _).mp hr) i.val target (target - 4000)
      exact ⟨_, exec_launchSlotSend hd hb, hsent.disarmed, fun hw => ⟨hsent.error hw, hsent.held_of_error hw⟩,
        fun hw => ⟨hsent.fired hw, hsent.held_of_writable hw⟩, hsent.others, hsent.mem, hsent.cores⟩
    · intro hd t ht hs
      rw [launchWriteApply_single hd ht hs, applyHeld_single ((held_advanceTo s t.at_).trans ht)]
    · exact fun t _ hn => ⟨pairwise_dueBefore hn, fun u => mem_dueBefore, fun hd => launchWriteApply_some hd⟩

end Sys2Proof.Machine
end

section
/-! PROOFS. Element by element vector instructions (R85, R88, R90, R180 to R183). -/

namespace Sys2Proof.Machine

/-! ### Elements packed into a number (R9, R36) -/

theorem packElems_lt (w : Nat) (l : List Nat) : packElems w l < 2 ^ (w * l.length) := by
  induction l with
  | nil => exact Nat.one_pos
  | cons c l ih =>
    rw [packElems, List.length_cons, Nat.mul_succ, Nat.add_comm (w * _), Nat.pow_add]
    calc c % 2 ^ w + 2 ^ w * packElems w l < 2 ^ w + 2 ^ w * packElems w l :=
          Nat.add_lt_add_right (Nat.mod_lt _ (Nat.two_pow_pos w)) _
      _ = 2 ^ w * (packElems w l + 1) := by rw [Nat.mul_succ, Nat.add_comm]
      _ ≤ 2 ^ w * 2 ^ (w * l.length) := Nat.mul_le_mul_left _ ih

/-- Element `i` of the packed number. -/
theorem packElems_elem (w : Nat) {l : List Nat} {i : Nat} (h : i < l.length) :
    packElems w l / 2 ^ (w * i) % 2 ^ w = l[i] % 2 ^ w := by
  induction l generalizing i with
  | nil => exact absurd h (Nat.not_lt_zero i)
  | cons c l ih =>
    cases i with
    | zero => rw [Nat.mul_zero, Nat.pow_zero, Nat.div_one, packElems, Nat.add_mul_mod_self_left, Nat.mod_mod, List.getElem_cons_zero]
    | succ i =>
      have hdiv : packElems w (c :: l) / 2 ^ w = packElems w l := by
        rw [packElems, Nat.add_mul_div_left _ _ (Nat.two_pow_pos w), Nat.div_eq_of_lt (Nat.mod_lt _ (Nat.two_pow_pos w)), Nat.zero_add]
      rw [Nat.mul_succ, Nat.add_comm, Nat.pow_add, ← Nat.div_div_eq_div_mul, hdiv, ih (Nat.lt_of_succ_lt_succ h),
        List.getElem_cons_succ]

theorem testBit_packElems {l : List Bool} {k : Nat} (h : k < l.length) : (packElems 1 (l.map b1)).testBit k = l[k] := by
  have he := packElems_elem 1 (l := l.map b1) (i := k) (by rw [List.length_map]; exact h)
  rw [Nat.one_mul, Nat.pow_one, List.getElem_map] at he
  rw [Nat.testBit_eq_decide_div_mod_eq, he]
  cases l[k] <;> rfl

/-- A word of `m` bits given bit by bit. -/
theorem getLsbD_ofBits {m : Nat} (f : Nat → Bool) {k : Nat} (h : k < m) :
    (BitVec.ofNat m (packElems 1 ((List.range m).map (fun j => b1 (f j))))).getLsbD k = f k := by
  have hmap : (List.range m).map (fun j => b1 (f j)) = ((List.range m).map f).map b1 := by rw [List.map_map]; rfl
  rw [BitVec.getLsbD_ofNat, decide_eq_true h, Bool.true_and, hmap, testBit_packElems (by simpa using h), List.getElem_map,
    List.getElem_range]

theorem getLsbD_psnAfter (w : Nat) (old : BitVec 32) (on src : Nat → Bool) {k : Nat} (h : k < 32) : (psnAfter w old on src).getLsbD k =
    if (segElems w k).any (fun i => on i && src i) then true else if (segElems w k).all on then false else old.getLsbD k :=
  getLsbD_ofBits _ h

theorem fmtBits_width (f : Fmt) : fmtBits f = 4 ∨ fmtBits f = 8 ∨ fmtBits f = 16 ∨ fmtBits f = 32 := by
  cases f <;> decide

section width
variable {w : Nat} (hw : w = 4 ∨ w = 8 ∨ w = 16 ∨ w = 32)
include hw

theorem elemOf_vecOf (f : Nat → Nat) {i : Nat} (h : i < 16384 / w) : elemOf w (vecOf w f) i = f i % 2 ^ w := by
  have hsize : w * (16384 / w) = 16384 := by rcases hw with rfl | rfl | rfl | rfl <;> rfl
  have hlt := packElems_lt w ((List.range (16384 / w)).map f)
  rw [List.length_map, List.length_range, hsize] at hlt
  rw [elemOf, vecOf, BitVec.toNat_ofNat, Nat.mod_eq_of_lt hlt, packElems_elem w (by simpa using h), List.getElem_map, List.getElem_range]

/-- The elements of a segment are those whose bits lie in it. -/
theorem mem_segElems {k i : Nat} : i ∈ segElems w k ↔ k * 512 ≤ i * w ∧ i * w < k * 512 + 512 := by
  simp only [segElems, List.mem_map, List.mem_range]
  rcases hw with rfl | rfl | rfl | rfl
  all_goals
    constructor
    · rintro ⟨j, hj, rfl⟩
      omega
    · intro h
      exact ⟨i - k * _, by omega, Nat.add_sub_cancel' (by omega)⟩

/-- A governed write is a write of lanes (R37, R38). -/
theorem laneWrite_commit {old : VReg} {oldPsn : BitVec 32} {on src : Nat → Bool} {f f' : Nat → Nat} (hf : ∀ i, f i % 2 ^ w = f' i % 2 ^ w) :
    LaneWrite old oldPsn w on f' src (vecOf w (fun i => if on i then f i else elemOf w old i)) (psnAfter w oldPsn on src) := by
  refine ⟨fun i hi => ?_, fun k hk => ⟨?_, ?_, ?_⟩⟩
  · rw [elemOf_vecOf hw _ hi]
    split
    · exact hf i
    · exact Nat.mod_mod _ _
  · rintro ⟨i, hseg, hon, hsrc⟩
    rw [getLsbD_psnAfter w _ _ _ hk, if_pos (List.any_eq_true.mpr ⟨i, (mem_segElems hw).mpr hseg, by rw [hon, hsrc]; rfl⟩)]
  · intro hall
    have hany : ¬(segElems w k).any (fun i => on i && src i) = true := by
      rw [List.any_eq_true]
      rintro ⟨i, hi, hos⟩
      rw [(hall i ((mem_segElems hw).mp hi)).2, Bool.and_false] at hos
      exact Bool.false_ne_true hos
    rw [getLsbD_psnAfter w _ _ _ hk, if_neg hany, if_pos (List.all_eq_true.mpr fun i hi => (hall i ((mem_segElems hw).mp hi)).1)]
  · rintro hclean ⟨i, hseg, hoff⟩
    have hany : ¬(segElems w k).any (fun i => on i && src i) = true := by
      rw [List.any_eq_true]
      rintro ⟨i, hi, hos⟩
      obtain ⟨hon, hsrc⟩ := Bool.and_eq_true_iff.mp hos
      rw [hclean i ((mem_segElems hw).mp hi) hon] at hsrc
      exact Bool.false_ne_true hsrc
    have hall : ¬(segElems w k).all on = true := fun h =>
      Bool.false_ne_true (hoff.symm.trans (List.all_eq_true.mp h i ((mem_segElems hw).mpr hseg)))
    rw [getLsbD_psnAfter w _ _ _ hk, if_neg hany, if_neg hall]

end width

/-! ### The retirement beside what floating-point results leave -/

/-- Core `n` retires its instruction and goes on at `dst`. -/
def retireAt (n : CoreId) (dst : Word) (t : State) : State := retireTo (settle t n) n dst

theorem retireAt_eq (n : CoreId) (dst : Word) (t : State) : retireAt n dst t = modCore (dropStalls t (.core n)) n (endC dst) :=
  retireTo_settle t n dst

theorem retireAt_disarm (n : CoreId) (s : State) : retireAt n ((coreAt s n).pc + 8) (disarm s n) = fell (.core n) s :=
  retire_disarm s n _

/-- A change of the core that retiring neither reads nor makes. -/
theorem retireAt_modCore (n : CoreId) (dst : Word) (t : State) {f : Core → Core} (hf : ∀ c, endC dst (f c) = f (endC dst c)) :
    retireAt n dst (modCore t n f) = modCore (retireAt n dst t) n f := by
  rw [retireAt_eq, retireAt_eq, dropStalls_modCore, modCore_modCore, modCore_modCore]
  exact modCore_congr _ _ _ _ (hf _)

theorem retireAt_setV (n : CoreId) (dst : Word) (r : VNum) (v : VReg) (p : BitVec 32) (t : State) :
    retireAt n dst (setV n r v p t) = setV n r v p (retireAt n dst t) :=
  retireAt_modCore n dst t fun _ => rfl

theorem retireAt_setFlags (n : CoreId) (dst : Word) (f : Fl) (t : State) :
    retireAt n dst (setFlags n f t) = setFlags n f (retireAt n dst t) :=
  retireAt_modCore n dst t fun _ => rfl

theorem retireAt_setP (n : CoreId) (dst : Word) (r : PReg) (v : BitVec 1024) (t : State) :
    retireAt n dst (setP n r v t) = setP n r v (retireAt n dst t) := by
  unfold setP
  split
  · rfl
  · exact retireAt_modCore n dst t fun _ => rfl

theorem retireAt_fset (n : CoreId) (dst : Word) (o hi lo v : Nat) (t : State) :
    retireAt n dst (fset t o hi lo v) = fset (retireAt n dst t) o hi lo v := rfl

theorem retireAt_nanQueued (n : CoreId) (dst : Word) (g : Gal) (e : NanEvent) (t : State) :
    retireAt n dst (nanQueued t g n e) = nanQueued (retireAt n dst t) g n e :=
  retireAt_modCore n dst (modGal t g (fun x => { x with nanQ := x.nanQ ++ [e] })) fun _ => rfl

theorem retireAt_nanEvent (n : CoreId) (dst : Word) (unit cls cause kstep col row : Nat) (pc : Word) (t : State) :
    retireAt n dst (nanEvent t n unit cls cause kstep col row pc) = nanEvent (retireAt n dst t) n unit cls cause kstep col row pc := by
  have ho : coreOwner (retireAt n dst t) n = coreOwner t n := rfl
  rw [nanEvent, nanEvent, ho]
  cases coreOwner t n with
  | none => rfl
  | some g =>
    by_cases hf : t.gal[g].fired = true
    · have hf' : (retireAt n dst t).gal[g].fired = true := hf
      exact (congrArg (retireAt n dst) (nanMeet_fired hf)).trans (nanMeet_fired hf').symm
    · have hf : t.gal[g].fired = false := Bool.eq_false_iff.mpr hf
      have hf' : (retireAt n dst t).gal[g].fired = false := hf
      refine (congrArg (retireAt n dst) (nanMeet_waits hf)).trans (Eq.trans ?_ (nanMeet_waits hf').symm)
      exact retireAt_nanQueued n dst g _ _

theorem retireAt_noteOut (n : CoreId) (dst : Word) (vs : List Val) (t : State) :
    retireAt n dst (noteOut n vs t) = noteOut n vs (retireAt n dst t) := by
  have hset (p : Prop) [Decidable p] (u : State) (b : Nat) : retireAt n dst (if p then fbit u (vecReg n.val 0) b else u) =
      if p then fbit (retireAt n dst u) (vecReg n.val 0) b else retireAt n dst u := by
    split <;> rfl
  unfold noteOut
  dsimp only
  rw [hset, hset]

theorem retireAt_vecEvents (n : CoreId) (dst : Word) (unit : Nat) (fl : Fl) (ev : Option (Nat × Nat)) (vs : List Val) (pc : Word)
    (t : State) : retireAt n dst (vecEvents n unit fl ev vs pc t) = vecEvents n unit fl ev vs pc (retireAt n dst t) := by
  have hnote : retireAt n dst (noteOut n vs (setFlags n fl t)) = noteOut n vs (setFlags n fl (retireAt n dst t)) := by
    rw [retireAt_noteOut, retireAt_setFlags]
  cases ev with
  | none => exact hnote
  | some e => exact (retireAt_nanEvent ..).trans (congrArg (nanEvent · n unit 2 e.2 0 e.1 0 pc) hnote)

/-! ### The flags, the values and the event of a list of results (R90, R153, R172) -/

theorem allFlags_any (p : Fl → Bool) (hp : ∀ a b : Fl, p (a.or b) = (p a || p b)) (h0 : p {} = false) (l : List (Nat × Fl)) :
    p (allFlags l) = l.any (fun r => p r.2) := by
  have hfold : ∀ a : Fl, p (l.foldl (fun a r => a.or r.2) a) = (p a || l.any (fun r => p r.2)) := by
    induction l with
    | nil => exact fun a => (Bool.or_false _).symm
    | cons x l ih => exact fun a => by rw [List.foldl_cons, ih, hp, List.any_cons, Bool.or_assoc]
  exact (hfold {}).trans (by rw [h0, Bool.false_or])

theorem firstEvent_none {l : List (Nat × Fl)} : firstEvent l = none ↔ ∀ r ∈ l, r.2.cause = none := by
  induction l with
  | nil => simp [firstEvent]
  | cons x l ih =>
    rw [firstEvent, List.forall_mem_cons, ← ih]
    cases x.2.cause <;> simp

/-- The elements below `count` that are governed, in order. -/
def governed (count : Nat) (on : Nat → Bool) : List Nat := (List.range count).filter on

theorem mem_governed {count i : Nat} {on : Nat → Bool} : i ∈ governed count on ↔ i < count ∧ on i = true := by
  rw [governed, List.mem_filter, List.mem_range]

theorem firstEvent_map_some {l : List Nat} (hl : l.Pairwise (· < ·)) {fl : Nat → Fl} {i c : Nat} (hi : i ∈ l) (hc : (fl i).cause = some c)
    (hb : ∀ j ∈ l, j < i → (fl j).cause = none) : firstEvent (l.map (fun k => (k, fl k))) = some (i, c) := by
  induction l with
  | nil => exact absurd hi List.not_mem_nil
  | cons x l ih =>
    obtain ⟨hx, hl⟩ := List.pairwise_cons.mp hl
    rw [List.map_cons, firstEvent]
    rcases List.mem_cons.mp hi with rfl | hi
    · rw [hc]
    · rw [hb x List.mem_cons_self (hx i hi)]
      exact ih hl hi fun j hj => hb j (List.mem_cons_of_mem x hj)

/-- What vecEvents does is what floating-point results leave. -/
theorem floatDone_vecEvents {n : CoreId} {unit count : Nat} {fmt : Fmt} {on : Nat → Bool} {r : Nat → Nat × Fl} {more : Prop} {pc : Word}
    {vs : List Val} (hnan : vs.any isNanV = true ↔ more ∨ ∃ i < count, on i = true ∧ decodeElem fmt (r i).1 = .nan)
    (hinf : vs.any isInfV = true ↔ ∃ i < count, on i = true ∧ ∃ b, decodeElem fmt (r i).1 = .inf b) (s : State) :
    let fls := (governed count on).map (fun k => (k, (r k).2))
    FloatDone n unit count fmt on r more pc s (vecEvents n unit (allFlags fls) (firstEvent fls) vs pc s) := by
  intro fls
  have hany (p : Fl → Bool) (hp : ∀ a b : Fl, p (a.or b) = (p a || p b)) (h0 : p {} = false) :
      p (allFlags fls) = true ↔ ∃ i < count, on i = true ∧ p (r i).2 = true := by
    rw [allFlags_any p hp h0, List.any_map, List.any_eq_true]
    simp only [mem_governed, Function.comp_apply, and_assoc]
  refine ⟨(allFlags fls).nx, (allFlags fls).uf, (allFlags fls).of, (allFlags fls).nv, vs.any isNanV, vs.any isInfV,
    hany Fl.nx (fun _ _ => rfl) rfl, hany Fl.uf (fun _ _ => rfl) rfl, hany Fl.of (fun _ _ => rfl) rfl,
    hany Fl.nv (fun _ _ => rfl) rfl, hnan, hinf, fun hc => ?_, fun i hi c hon hc hb => ?_⟩
  · have hnone : firstEvent fls = none := firstEvent_none.mpr fun x hx => by
      obtain ⟨i, hi, rfl⟩ := List.mem_map.mp hx
      exact hc i (mem_governed.mp hi).1 (mem_governed.mp hi).2
    rw [hnone]
    rfl
  · have hsome : firstEvent fls = some (i, c) := firstEvent_map_some (List.pairwise_lt_range.filter _) (mem_governed.mpr ⟨hi, hon⟩) hc
      fun j hj hji => hb j hji (mem_governed.mp hj).2
    rw [hsome]
    rfl

/-! ### Issue on the vector unit without errors of storage (R90) -/

section disarm
variable (s : State) (n : CoreId)

@[simp] theorem v_disarm : (coreAt (disarm s n) n).v = (coreAt s n).v := by rw [coreAt_disarm, disarmC]; split <;> rfl
@[simp] theorem vpsn_disarm : (coreAt (disarm s n) n).vpsn = (coreAt s n).vpsn := by rw [coreAt_disarm, disarmC]; split <;> rfl
@[simp] theorem p_disarm : (coreAt (disarm s n) n).p = (coreAt s n).p := by rw [coreAt_disarm, disarmC]; split <;> rfl
@[simp] theorem fpctl_disarm : (coreAt (disarm s n) n).fpctl = (coreAt s n).fpctl := by rw [coreAt_disarm, disarmC]; split <;> rfl
@[simp] theorem getV_disarm (r : VNum) : getV n r (disarm s n) = (coreAt s n).v[r] := by rw [getV, v_disarm]
@[simp] theorem getPsn_disarm (r : VNum) : getPsn n r (disarm s n) = (coreAt s n).vpsn[r] := by rw [getPsn, vpsn_disarm]
@[simp] theorem getP_disarm (r : PReg) : getP n r (disarm s n) = getP n r s := by rw [getP, getP, p_disarm]
@[simp] theorem guardOn_disarm (g : Guard) (w : Nat) : guardOn n g (disarm s n) w = governs n g w s := by
  funext i
  rw [guardOn, unitOn, getP_disarm]
  rfl
@[simp] theorem elemPsn_disarm (r : VNum) (w i : Nat) : elemPsn n r (disarm s n) w i = inPoison n r w s i := by
  rw [elemPsn, getPsn_disarm]
  rfl
@[simp] theorem elemVal_disarm (fmt : Fmt) (r : VNum) (i : Nat) :
    elemVal n fmt r (disarm s n) i = decodeElem fmt (elemOf (fmtBits fmt) (coreAt s n).v[r] i) := by
  rw [elemVal, getV_disarm]
@[simp] theorem fieldRm_disarm (rm : RmField) : fieldRm rm n (disarm s n) = fieldRm rm n s := by
  cases rm
  case dyn => exact congrArg ctlRm (fpctl_disarm s n)
  all_goals rfl
@[simp] theorem alphaVal_disarm : alphaVal n (disarm s n) = alphaVal n s := rfl

end disarm

theorem withErr_none (n : CoreId) (rs : List VNum) (row : Option (Fin 128)) (f : State → Eff) (s : State) :
    withErr n .none rs row f s = match f s with
      | .hold _ => .hold s
      | r => r := by
  unfold withErr
  have hm : meetErr n .none rs row s = s := by unfold meetErr; rfl
  have hu : ueMet .none rs row = false := rfl
  rw [hm, hu]
  cases f s <;> simp

section issueV
variable {n : CoreId} {i : Instr} {g : Guard} {rs : List VNum} {row : Option (Fin 128)} {f : CoreId → State → Eff} {s : State}
  (hi : exec i s = .next (issueV (.core n) i g rs row f s)) (he : g.err = .none)
include hi he

theorem issueV_core : exec i s = .next (issueCore n i 2 (withErr n .none rs row (f n)) s) := by
  rw [hi, ← he]; rfl

/-- A vector instruction that completes, takes a fault or holds. -/
theorem gives_issueV {t : State} (hf : f n (disarm s n) = .done t) : Gives (.core n) i s (retireAt n ((coreAt s n).pc + 8) t) := by
  intro hr
  rw [issueV_core hi he, issueCore_done hr (by rw [withErr_none, hf])]
  rfl

theorem gives_issueV_fault {x : Exc} (hf : f n (disarm s n) = .fault x) :
    Gives (.core n) i s (takeExc (disarm s n) n x 2 true (coreAt s n).pc (coreAt s n).pc) :=
  gives_fault (issueV_core hi he) (by rw [withErr_none, hf])

theorem gives_issueV_hold (hf : f n (disarm s n) = .hold (disarm s n)) : Gives (.core n) i s (holdFor (disarm s n) n i) :=
  gives_hold (issueV_core hi he) (by rw [withErr_none, hf])

end issueV

/-! ### Element by element -/

theorem commitV_disarm (n : CoreId) (vd : VNum) (w : Nat) (on : Nat → Bool) (f : Nat → Nat) (src : Nat → Bool) (s : State) :
    retireAt n ((coreAt s n).pc + 8) (commitV n vd w on f src (disarm s n)) =
      setV n vd (vecOf w (fun i => if on i then f i else elemOf w (coreAt s n).v[vd] i)) (psnAfter w (coreAt s n).vpsn[vd] on src)
        (fell (.core n) s) := by
  rw [commitV, retireAt_setV, retireAt_disarm, getV_disarm, getPsn_disarm]

/-- An instruction that moves or computes bits: each governed element is `f' i` mod 2^w. -/
theorem bitsOp_gives {n : CoreId} {i : Instr} {g : Guard} {rs : List VNum} {fmt : Fmt} {vd : VNum} {f : CoreId → State → Nat → Nat}
    {src : CoreId → State → Nat → Bool} {s : State} (hi : exec i s = .next (bitsOp (.core n) i g rs fmt vd f src s)) (he : g.err = .none)
    {w : Nat} (hw : fmtBits fmt = w) {f' : Nat → Nat} {src' : Nat → Bool} (hf : ∀ k, f n (disarm s n) k % 2 ^ w = f' k % 2 ^ w)
    (hsrc : ∀ k, src n (disarm s n) k = src' k) : ∃ (v : VReg) (p : BitVec 32),
      LaneWrite (coreAt s n).v[vd] (coreAt s n).vpsn[vd] w (governs n g w s) f' src' v p ∧
      Gives (.core n) i s (setV n vd v p (fell (.core n) s)) := by
  have hsrc : src n (disarm s n) = src' := funext hsrc
  refine ⟨_, _, laneWrite_commit (hw ▸ fmtBits_width fmt) hf, ?_⟩
  rw [← commitV_disarm]
  exact gives_issueV hi he (by rw [guardOn_disarm, hw, hsrc])

theorem isNanV_iff {v : Val} : isNanV v = true ↔ v = .nan := by cases v <;> simp [isNanV]
theorem isInfV_iff {v : Val} : isInfV v = true ↔ ∃ b, v = .inf b := by cases v <;> simp [isInfV]

theorem any_isNanV {count : Nat} {on : Nat → Bool} {x : Nat → Val} :
    ((governed count on).map x).any isNanV = true ↔ ∃ i < count, on i = true ∧ x i = .nan := by
  rw [List.any_map, List.any_eq_true]
  simp only [mem_governed, Function.comp_apply, isNanV_iff, and_assoc]

theorem any_isInfV {count : Nat} {on : Nat → Bool} {x : Nat → Val} :
    ((governed count on).map x).any isInfV = true ↔ ∃ i < count, on i = true ∧ ∃ b, x i = .inf b := by
  rw [List.any_map, List.any_eq_true]
  simp only [mem_governed, Function.comp_apply, isInfV_iff, and_assoc]

/-- An element-wise floating-point instruction: each governed element is `r i`. -/
theorem fpOp_gives {n : CoreId} {i : Instr} {g : Guard} {rs : List VNum} {fmt : Fmt} {vd : VNum} {f : CoreId → State → Nat → Nat × Fl}
    {src : CoreId → State → Nat → Bool} {s : State} (hi : exec i s = .next (fpOp (.core n) i g rs fmt vd f src s)) (he : g.err = .none)
    {r : Nat → Nat × Fl} {src' : Nat → Bool} (hf : ∀ k, f n (disarm s n) k = r k) (hsrc : ∀ k, src n (disarm s n) k = src' k) :
    ∃ (v : VReg) (p : BitVec 32) (t : State),
      LaneWrite (coreAt s n).v[vd] (coreAt s n).vpsn[vd] (fmtBits fmt) (governs n g (fmtBits fmt) s) (fun k => (r k).1) src' v p ∧
      FloatDone n 1 (16384 / fmtBits fmt) fmt (governs n g (fmtBits fmt) s) r False (coreAt s n).pc
        (setV n vd v p (fell (.core n) s)) t ∧ Gives (.core n) i s t := by
  have hf : f n (disarm s n) = r := funext hf
  have hsrc : src n (disarm s n) = src' := funext hsrc
  refine ⟨_, _, _, laneWrite_commit (fmtBits_width fmt) fun _ => rfl, floatDone_vecEvents (by rw [any_isNanV, false_or]) any_isInfV _, ?_⟩
  rw [← commitV_disarm, ← retireAt_vecEvents]
  refine gives_issueV hi he ?_
  dsimp only
  rw [guardOn_disarm, hf, hsrc, List.map_map, List.map_map, disarm_pc]
  rfl

/-! ### Predicates and single elements -/

theorem gives_retireAt {n : CoreId} {i : Instr} {cls : Nat} {f : State → Eff} {s t : State}
    (hi : exec i s = .next (issueCore n i cls f s)) (hf : f (disarm s n) = .done t) :
    Gives (.core n) i s (retireAt n ((coreAt s n).pc + 8) t) := fun hr => by
  rw [hi, issueCore_done hr hf]; rfl

/-- A predicate instruction writes the governed bits of pd and keeps the others. -/
theorem putPred_gives {n : CoreId} {i : Instr} {g : Guard} {pd : PReg} {v : State → BitVec 1024} {s : State}
    (hi : exec i s = .next (issueCore n i 2 (fun s => .done (putPred n g pd (v s) s)) s)) {f : Nat → Bool}
    (hv : ∀ j < 1024, (v (disarm s n)).getLsbD j = f j) (q : BitVec 1024)
    (hq : ∀ j < 1024, q.getLsbD j = if (getP n g.p s).getLsbD j != g.neg then f j else (getP n pd s).getLsbD j) :
    Gives (.core n) i s (setP n pd q (fell (.core n) s)) := by
  have hput : putPred n g pd (v (disarm s n)) (disarm s n) = setP n pd q (disarm s n) := by
    rw [putPred, getP_disarm, getP_disarm]
    refine congrArg (setP n pd · (disarm s n)) (BitVec.eq_of_getLsbD_eq fun j hj => ?_)
    have hm : (if g.neg then ~~~getP n g.p s else getP n g.p s).getLsbD j = ((getP n g.p s).getLsbD j != g.neg) := by
      cases g.neg <;> simp [hj]
    rw [BitVec.getLsbD_or, BitVec.getLsbD_and, BitVec.getLsbD_and, BitVec.getLsbD_not, hm, hq j hj, ← hv j hj, decide_eq_true hj]
    cases (getP n g.p s).getLsbD j != g.neg <;> simp
  rw [← retireAt_disarm, ← retireAt_setP, ← hput]
  exact gives_retireAt hi rfl

theorem excPoison_vector : { excPoison 0 with src := 1 } = ({ code := 0xA, src := 1 } : Exc) := rfl

theorem opFlags_pair (x y : Val) : opFlags [x, y] zeroVal =
    (if x = .nan ∨ y = .nan then ((0, { nv := true, cause := some 1 }) : Nat × Fl) else (0, {})).2 := by
  have hx : isNanV x = decide (x = .nan) := by cases x <;> rfl
  have hy : isNanV y = decide (y = .nan) := by cases y <;> rfl
  by_cases h : x = .nan ∨ y = .nan
  · rw [if_pos h, opFlags, if_pos (by simpa [hx, hy] using h)]; rfl
  · rw [if_neg h, opFlags, if_neg (by simpa [hx, hy] using h)]; rfl

section compare
variable {n : CoreId} {g : Guard} {fmt : Fmt} {cc : VRel} {pd : PReg} {va vb : VNum} {s : State} (he : g.err = .none)
include he

theorem vcmp_poison (h : ∃ i < 16384 / fmtBits fmt, governs n g (fmtBits fmt) s i = true ∧
      (inPoison n va (fmtBits fmt) s i || inPoison n vb (fmtBits fmt) s i) = true) :
    Gives (.core n) (.vcmp (.core n) g fmt cc pd va vb) s
      (takeExc (disarm s n) n { code := 0xA, src := 1 } 2 true (coreAt s n).pc (coreAt s n).pc) := by
  obtain ⟨i, hi, hon, hp⟩ := h
  refine gives_issueV_fault (s := s) (i := .vcmp (.core n) g fmt cc pd va vb) rfl he ?_
  dsimp only
  rw [guardOn_disarm]
  refine if_pos (List.any_eq_true.mpr ⟨i, mem_governed.mpr ⟨hi, hon⟩, ?_⟩)
  rw [psn2, elemPsn_disarm, elemPsn_disarm, hp]

theorem vcmp_done (h : ∀ i < 16384 / fmtBits fmt, governs n g (fmtBits fmt) s i = true →
      (inPoison n va (fmtBits fmt) s i || inPoison n vb (fmtBits fmt) s i) = false) {q : BitVec 1024}
    (hq : ∀ j < 1024, q.getLsbD j = if governs n g (fmtBits fmt) s (j * 16 / fmtBits fmt) then
        vrelHolds cc (decodeElem fmt (elemOf (fmtBits fmt) (coreAt s n).v[va] (j * 16 / fmtBits fmt)))
          (decodeElem fmt (elemOf (fmtBits fmt) (coreAt s n).v[vb] (j * 16 / fmtBits fmt)))
      else (getP n pd s).getLsbD j) : ∃ t,
    FloatDone n 1 (16384 / fmtBits fmt) .i32 (governs n g (fmtBits fmt) s)
      (fun i => if decodeElem fmt (elemOf (fmtBits fmt) (coreAt s n).v[va] i) = .nan ∨
        decodeElem fmt (elemOf (fmtBits fmt) (coreAt s n).v[vb] i) = .nan then (0, { nv := true, cause := some 1 }) else (0, {})) False
      (coreAt s n).pc (setP n pd q (fell (.core n) s)) t ∧
    Gives (.core n) (.vcmp (.core n) g fmt cc pd va vb) s t := by
  have hcode (p : Prop) [Decidable p] : decodeElem .i32 (if p then ((0, { nv := true, cause := some 1 }) : Nat × Fl) else (0, {})).1 =
      .fin false 0 0 := by split <;> rfl
  refine ⟨_, floatDone_vecEvents (vs := []) ?_ ?_ _, ?_⟩
  · simp [hcode]
  · simp [hcode]
  rw [← retireAt_disarm, ← retireAt_setP, ← retireAt_vecEvents]
  refine gives_issueV (s := s) (i := .vcmp (.core n) g fmt cc pd va vb) rfl he ?_
  have hany : ¬(governed (16384 / fmtBits fmt) (governs n g (fmtBits fmt) s)).any (psn2 (fmtBits fmt) va vb n (disarm s n)) = true := by
    rw [List.any_eq_true]
    rintro ⟨i, hi, hp⟩
    rw [psn2, elemPsn_disarm, elemPsn_disarm, h i (mem_governed.mp hi).1 (mem_governed.mp hi).2] at hp
    exact Bool.false_ne_true hp
  dsimp only
  rw [guardOn_disarm]
  refine (if_neg hany).trans ?_
  have hp : BitVec.ofNat 1024 (packElems 1 ((List.range 1024).map (fun j =>
      b1 (if governs n g (fmtBits fmt) s (j * 16 / fmtBits fmt) then
        vrelHolds cc (elemVal n fmt va (disarm s n) (j * 16 / fmtBits fmt)) (elemVal n fmt vb (disarm s n) (j * 16 / fmtBits fmt))
        else (getP n pd (disarm s n)).toNat.testBit j)))) = q := by
    refine BitVec.eq_of_getLsbD_eq fun j hj => ?_
    rw [getLsbD_ofBits _ hj, hq j hj, elemVal_disarm, elemVal_disarm, getP_disarm]
    rfl
  rw [hp]
  simp only [elemVal_disarm, opFlags_pair, disarm_pc]
  rfl

end compare

section extract
variable {n : CoreId} {g : Guard} {fmt : Fmt} {sa : SReg} {va : VNum} {idx : BitVec 12} {s : State} (he : g.err = .none)
include he

theorem vext_skips (h : governs n g (fmtBits fmt) s idx.toNat = false) :
    Gives (.core n) (.vext (.core n) g fmt sa va idx) s (fell (.core n) s) := by
  rw [← retireAt_disarm]
  refine gives_issueV (s := s) (i := .vext (.core n) g fmt sa va idx) rfl he ?_
  dsimp only
  rw [guardOn_disarm, h]
  rfl

theorem vext_poison (h : governs n g (fmtBits fmt) s idx.toNat = true) (hp : inPoison n va (fmtBits fmt) s idx.toNat = true) :
    Gives (.core n) (.vext (.core n) g fmt sa va idx) s
      (takeExc (disarm s n) n { code := 0xA, src := 1 } 2 true (coreAt s n).pc (coreAt s n).pc) := by
  refine gives_issueV_fault (s := s) (i := .vext (.core n) g fmt sa va idx) rfl he ?_
  dsimp only
  rw [guardOn_disarm, elemPsn_disarm, h, hp]
  rfl

theorem vext_done (h : governs n g (fmtBits fmt) s idx.toNat = true) (hp : inPoison n va (fmtBits fmt) s idx.toNat = false) :
    Gives (.core n) (.vext (.core n) g fmt sa va idx) s
      (setS (.core n) sa (BitVec.ofNat 64 (elemOf (fmtBits fmt) (coreAt s n).v[va] idx.toNat)) (fell (.core n) s)) := by
  refine gives_setS (issueV_core (i := .vext (.core n) g fmt sa va idx) rfl he) ?_
  rw [withErr_none]
  dsimp only
  rw [guardOn_disarm, elemPsn_disarm, h, hp, getV_disarm]
  rfl

end extract

/-! ### Integers -/

theorem vshr_arith (a b : Nat) : unsignedOf 32 (signedOf 32 a / (2 ^ (b % 32) : Nat)) % 2 ^ 32 =
    ((BitVec.ofNat 32 a).sshiftRight (b % 32)).toNat % 2 ^ 32 := by
  have hs : signedOf 32 a = (BitVec.ofNat 32 a).toInt := by
    rw [BitVec.toInt_eq_toNat_cond, BitVec.toNat_ofNat, signedOf]
    split <;> split <;> omega
  have hn (x : BitVec 32) : unsignedOf 32 x.toInt = x.toNat := by
    rw [unsignedOf, BitVec.toInt_eq_toNat_cond]
    have := x.isLt
    split <;> omega
  rw [hs, ← Int.shiftRight_eq_div_pow, ← BitVec.toInt_sshiftRight, hn]

/-! ### The statement -/

/-- The rounding mode of an instruction (Table 2-17). -/
theorem fieldRm_eq (rm : RmField) (n : CoreId) (s : State) : fieldRm rm n s = (match rm with
      | .rn => .rn | .rz => .rz | .ru => .ru | .rd => .rd
      | .dyn => match ((coreAt s n).fpctl.extractLsb' 0 2).toNat with
        | 0 => .rn | 1 => .rz | 2 => .ru | _ => .rd) := by
  cases rm
  case dyn =>
    have h : bits (coreAt s n).fpctl 1 0 = ((coreAt s n).fpctl.extractLsb' 0 2).toNat := by
      rw [bits_eq_div, BitVec.extractLsb'_toNat, Nat.shiftRight_eq_div_pow]
    rw [fieldRm, ctlRm, h] <;> rfl
  all_goals rfl

theorem isLane_width {fmt : Fmt} (h : fmt.isLane = true) : fmtBits fmt = 32 := by
  cases fmt
  case f32 => rfl
  case i32 => rfl
  all_goals exact absurd h (by decide)

/-- A 32-bit operation on two registers. -/
theorem laneOp_gives {n : CoreId} {i : Instr} {g : Guard} {vd va vb : VNum} {f : Nat → Nat → Nat} {s : State}
    (hi : exec i s = .next (laneOp (.core n) i g .i32 vd va vb f s)) (he : g.err = .none) {f' : Nat → Nat}
    (hf : ∀ k, f (elemOf 32 (coreAt s n).v[va] k) (elemOf 32 (coreAt s n).v[vb] k) % 2 ^ 32 = f' k % 2 ^ 32) :
    ∃ (v : VReg) (p : BitVec 32),
      LaneWrite (coreAt s n).v[vd] (coreAt s n).vpsn[vd] 32 (governs n g 32 s) f'
        (fun k => inPoison n va 32 s k || inPoison n vb 32 s k) v p ∧
      Gives (.core n) i s (setV n vd v p (fell (.core n) s)) :=
  bitsOp_gives (fmt := .i32) hi he rfl (fun k => by rw [getV_disarm, getV_disarm]; exact hf k)
    (fun k => by rw [psn2, elemPsn_disarm, elemPsn_disarm])

theorem exec_plog_core (n : CoreId) (g : Guard) (fn : PlogFn) (pd pa pb : PReg) (s : State) : exec (.plog (.core n) g fn pd pa pb) s =
    .next (issueCore n (.plog (.core n) g fn pd pa pb) 2
      (fun s => .done (putPred n g pd (plogVal fn (getP n pa s) (getP n pb s)) s)) s) := rfl

theorem exec_pset_core (n : CoreId) (g : Guard) (pd : PReg) (sa : SReg) (s : State) : exec (.pset (.core n) g pd sa) s =
    .next (issueCore n (.pset (.core n) g pd sa) 2
      (fun s => .done (putPred n g pd (BitVec.ofNat 1024 (2 ^ min (getS (.core n) sa s).toNat 1024 - 1)) s)) s) := rfl

section predicate
variable {n : CoreId} {g : Guard} {fn : PlogFn} {pd pa pb : PReg} {sa : SReg} {s : State} (q : BitVec 1024)

theorem plog_gives {f : Nat → Bool} (hf : ∀ j < 1024, (plogVal fn (getP n pa s) (getP n pb s)).getLsbD j = f j)
    (hq : ∀ j < 1024, q.getLsbD j = if (getP n g.p s).getLsbD j != g.neg then f j else (getP n pd s).getLsbD j) :
    Gives (.core n) (.plog (.core n) g fn pd pa pb) s (setP n pd q (fell (.core n) s)) := by
  refine putPred_gives (exec_plog_core n g fn pd pa pb s) (fun j hj => ?_) q hq
  rw [getP_disarm, getP_disarm, hf j hj]

theorem pset_gives (hq : ∀ j < 1024, q.getLsbD j = if (getP n g.p s).getLsbD j != g.neg then
      decide (j < (getS (.core n) sa s).toNat) else (getP n pd s).getLsbD j) :
    Gives (.core n) (.pset (.core n) g pd sa) s (setP n pd q (fell (.core n) s)) := by
  refine putPred_gives (exec_pset_core n g pd sa s) (fun j hj => ?_) q hq
  rw [getS_disarm, BitVec.getLsbD_ofNat, Nat.testBit_two_pow_sub_one, decide_eq_true hj, Bool.true_and]
  exact decide_eq_decide.mpr (by omega)

end predicate

/-- Settles O14: an element-wise instruction by the lane write and the results it leaves, a predicate bit by bit. -/
theorem vectorElementwise : Obligations.VectorElementwise := by
  unfold Obligations.VectorElementwise
  refine ⟨?_, ?_, ?_⟩
  · intro n g fmt rm fn input vd va vb sa s he h w on mode el x y z c alpha fp pa pab does
    have hrm : fieldRm rm n (disarm s n) = mode := (fieldRm_disarm s n rm).trans (fieldRm_eq rm n s)
    have hx (k : Nat) : elemVal n fmt va (disarm s n) k = x k := elemVal_disarm s n fmt va k
    have hy (k : Nat) : elemVal n fmt vb (disarm s n) k = y k := elemVal_disarm s n fmt vb k
    have hz (k : Nat) : elemVal n fmt vd (disarm s n) k = z k := elemVal_disarm s n fmt vd k
    have hc : val32 (getS h sa (disarm s n)).toNat = c := by rw [getS_disarm]; rfl
    have ha : alphaVal n (disarm s n) = alpha := rfl
    have h1 (k : Nat) : psn1 w va n (disarm s n) k = pa k := elemPsn_disarm s n va w k
    have h2 (k : Nat) : psn2 w va vb n (disarm s n) k = pab k := by rw [psn2, elemPsn_disarm, elemPsn_disarm]
    have h3 (k : Nat) : (psn2 w va vb n (disarm s n) k || psn1 w vd n (disarm s n) k) = (pab k || inPoison n vd w s k) := by
      rw [h2, psn1, elemPsn_disarm]
    refine ⟨fpOp_gives rfl he (fun k => ?_) h2, fpOp_gives rfl he (fun k => ?_) h2, fpOp_gives rfl he (fun k => ?_) h2,
      fpOp_gives rfl he (fun k => ?_) h3, fpOp_gives rfl he (fun k => ?_) h2, fpOp_gives rfl he (fun k => ?_) h2,
      fpOp_gives rfl he (fun k => ?_) h1, fpOp_gives rfl he (fun k => ?_) h1, fpOp_gives rfl he (fun k => ?_) h1,
      fpOp_gives rfl he (fun k => ?_) h1, fpOp_gives rfl he (fun k => ?_) h2, fpOp_gives rfl he (fun k => ?_) h1⟩
    all_goals simp only [hrm, hx, hy, hz, hc, ha]
    all_goals rfl
  · intro n g fmt arith vd va vb sa pn s he h w a b pab sh pick does
    have hsel (k : Nat) : (if (getP n pn (disarm s n)).toNat.testBit (k * w / 16) then va else vb) = if pick k then va else vb := by
      rw [getP_disarm]; rfl
    refine ⟨bitsOp_gives (i := .vsel h g fmt vd va vb pn) (fmt := fmt) rfl he rfl (fun k => ?_) (fun k => ?_),
      laneOp_gives (i := .vand h g .i32 vd va vb) rfl he (fun _ => rfl), laneOp_gives (i := .vor h g .i32 vd va vb) rfl he (fun _ => rfl),
      laneOp_gives (i := .vxor h g .i32 vd va vb) rfl he (fun _ => rfl), laneOp_gives (i := .vshl h g .i32 vd va vb) rfl he (fun k => ?_),
      laneOp_gives (i := .vshr h g .i32 arith vd va vb) rfl he (fun k => ?_),
      laneOp_gives (i := .viadd h g .i32 vd va vb) rfl he (fun _ => rfl),
      bitsOp_gives (i := .vbcast h g fmt vd sa) (fmt := fmt) rfl he rfl
        (fun _ => congrArg (fun v : Word => v.toNat % _) (getS_disarm s n sa)) (fun _ => rfl),
      bitsOp_gives (i := .vidx h g .i32 vd) (fmt := .i32) rfl he rfl (fun _ => rfl) (fun _ => rfl), ?_⟩
    · dsimp only
      rw [hsel, getV_disarm]
      split <;> rfl
    · dsimp only
      rw [hsel, elemPsn_disarm]
      split <;> rfl
    · rw [Nat.shiftLeft_eq]
    · cases arith
      · exact congrArg (· % _) (Nat.shiftRight_eq_div_pow _ _).symm
      · exact vshr_arith _ _
    · by_cases hw : fmtBits fmt = 32
      · refine bitsOp_gives (i := .vperm h g fmt vd va vb) (fmt := fmt) rfl he hw (fun k => ?_) (fun k => ?_)
        · dsimp only
          rw [getV_disarm, getV_disarm]
        · dsimp only
          rw [elemPsn_disarm, elemPsn_disarm, getV_disarm]
      · exact ⟨_, _, laneWrite_commit (.inr (.inr (.inr rfl))) (fun _ => rfl),
          fun hr => absurd (isLane_width (Bool.and_eq_true_iff.mp hr.1).2) hw⟩
  · intro n g fmt cc pd pa pb va vb sa idx s he h w on pc x y psn poison holds nans gbit writes
    have hholds (i : Nat) : vrelHolds cc (x i) (y i) = holds i := by cases cc <;> rfl
    refine ⟨fun hp q hq => vcmp_done he hp ?_, vcmp_poison he, vext_skips he, vext_poison he, vext_done he,
      ⟨fun q hq => plog_gives q (fun j hj => ?_) hq, fun q hq => plog_gives q (fun j hj => ?_) hq,
        fun q hq => plog_gives q (fun j hj => ?_) hq, fun q hq => plog_gives q (fun j hj => ?_) hq,
        fun q hq => plog_gives q (fun j hj => ?_) hq⟩, fun q hq => pset_gives q hq⟩
    · intro j hj
      rw [hq j hj, ← hholds]
    · exact BitVec.getLsbD_and
    · exact BitVec.getLsbD_or
    · exact BitVec.getLsbD_xor
    · simp [plogVal, hj]
    · simp [plogVal, hj]

end Sys2Proof.Machine
end

section
/-! PROOFS. Vector loads and stores, the Vat and errors of the register file (O18). -/

namespace Sys2Proof.Machine

/-! ### The bytes and the poison that a vector store leaves (R87, R239) -/

section line
variable {n : CoreId} {g : Guard} {w : Nat} {vd : VNum} {pa k : Nat} {s : State} {m : Memory}

/-- The bytes that a line of a vector store writes. -/
def lineBytes (n : CoreId) (g : Guard) (w : Nat) (vd : VNum) (pa k : Nat) (s : State) (m : Memory) : List Byte :=
  (List.range 64).map (fun j => if governs n g w s (8 * (64 * k + j) / w) then
    (coreAt s n).v[vd].extractLsb' (8 * (64 * k + j)) 8 else m.byte (pa + (64 * k + j)))

@[simp] theorem length_lineBytes : (lineBytes n g w vd pa k s m).length = 64 := by simp [lineBytes]

theorem elemOf_byte (v : VReg) (b : Nat) : BitVec.ofNat 8 (elemOf 8 v b) = v.extractLsb' (8 * b) 8 := by
  apply BitVec.eq_of_toNat_eq
  rw [BitVec.toNat_ofNat, elemOf, BitVec.extractLsb'_toNat, Nat.shiftRight_eq_div_pow, Nat.mod_mod]

theorem storeLine_eq : storeLine n g w vd pa k s m =
    if (segElems w k).all (fun i => !governs n g w s i) then m
    else if (coreAt s n).vpsn[vd].getLsbD k then (m.write (pa + 64 * k) (lineBytes n g w vd pa k s m)).setPoison (pa / 64 + k) true
    else if (segElems w k).all (governs n g w s) then
      (m.write (pa + 64 * k) (lineBytes n g w vd pa k s m)).setPoison (pa / 64 + k) false
    else m.write (pa + 64 * k) (lineBytes n g w vd pa k s m) := by
  have hb : (List.range 64).map (fun j =>
      if guardOn n g s w (8 * (64 * k + j) / w) then BitVec.ofNat 8 (elemOf 8 (getV n vd s) (64 * k + j))
      else m.byte (pa + (64 * k + j))) = lineBytes n g w vd pa k s m := by
    simp only [elemOf_byte]
    rfl
  rw [storeLine, hb]
  rfl

theorem storeLine_disarm : storeLine n g w vd pa k (disarm s n) m = storeLine n g w vd pa k s m := by
  unfold storeLine
  rw [guardOn_disarm, getV_disarm, getPsn_disarm]
  rfl

theorem storeLine_rest : storeLine n g w vd pa k s m =
    { m with cells := (storeLine n g w vd pa k s m).cells, poison := (storeLine n g w vd pa k s m).poison } := by
  rw [storeLine_eq]
  split
  · rfl
  · split
    · rw [Memory.setPoison_rest, Memory.write_rest]
    · split
      · rw [Memory.setPoison_rest, Memory.write_rest]
      · rw [Memory.write_rest]

theorem storeLine_dead : (storeLine n g w vd pa k s m).dead = m.dead := by rw [storeLine_rest]
theorem storeLine_ways : (storeLine n g w vd pa k s m).ways = m.ways := by rw [storeLine_rest]

theorem storeLine_outside {y : Nat} (h : ¬(pa + 64 * k ≤ y ∧ y < pa + 64 * k + 64)) :
    (storeLine n g w vd pa k s m).byte y = m.byte y := by
  have hw : (m.write (pa + 64 * k) (lineBytes n g w vd pa k s m)).byte y = m.byte y :=
    Memory.byte_write_outside _ _ _ _ (by rwa [length_lineBytes])
  rw [storeLine_eq]
  split
  · rfl
  · split
    · rw [Memory.setPoison_byte, hw]
    · split
      · rw [Memory.setPoison_byte, hw]
      · exact hw

/-- The elements of line `k` are those of segment `k`. -/
theorem elem_mem_segElems (hw : w = 4 ∨ w = 8 ∨ w = 16 ∨ w = 32) {j : Nat} (hj : j < 64) : 8 * (64 * k + j) / w ∈ segElems w k := by
  rw [mem_segElems hw]
  rcases hw with rfl | rfl | rfl | rfl <;> omega

theorem storeLine_inside (hw : w = 4 ∨ w = 8 ∨ w = 16 ∨ w = 32) (hd : m.dead = []) {j : Nat} (hj : j < 64) :
    (storeLine n g w vd pa k s m).byte (pa + (64 * k + j)) = if governs n g w s (8 * (64 * k + j) / w) then
      (coreAt s n).v[vd].extractLsb' (8 * (64 * k + j)) 8 else m.byte (pa + (64 * k + j)) := by
  have hwr : (m.write (pa + 64 * k) (lineBytes n g w vd pa k s m)).byte (pa + (64 * k + j)) =
      if governs n g w s (8 * (64 * k + j) / w) then (coreAt s n).v[vd].extractLsb' (8 * (64 * k + j)) 8
      else m.byte (pa + (64 * k + j)) := by
    have hin := Memory.byte_write_inside (m := m) (a := pa + 64 * k) (bs := lineBytes n g w vd pa k s m)
      (Memory.alive_of_dead_nil hd _ _) (i := pa + (64 * k + j)) (by omega) (by rw [length_lineBytes]; omega)
    rw [hin, show pa + (64 * k + j) - (pa + 64 * k) = j by omega, lineBytes]
    simp [hj]
  rw [storeLine_eq]
  split
  case isTrue h =>
    have hoff := List.all_eq_true.mp h _ (elem_mem_segElems hw hj)
    rw [Bool.not_eq_true'] at hoff
    rw [hoff]
    rfl
  case isFalse h =>
    split
    · rw [Memory.setPoison_byte, hwr]
    · split
      · rw [Memory.setPoison_byte, hwr]
      · exact hwr

theorem storeLine_poison (l : Nat) : (storeLine n g w vd pa k s m).poison.contains l =
    if l = pa / 64 + k ∧ ¬(segElems w k).all (fun i => !governs n g w s i) = true then
      (if (coreAt s n).vpsn[vd].getLsbD k then true
       else if (segElems w k).all (governs n g w s) then false else m.poison.contains l)
    else m.poison.contains l := by
  have hset (b : Bool) : ((m.write (pa + 64 * k) (lineBytes n g w vd pa k s m)).setPoison (pa / 64 + k) b).poison.contains l =
      if l = pa / 64 + k then b else m.poison.contains l := by
    have hp : (m.write (pa + 64 * k) (lineBytes n g w vd pa k s m)).poison = m.poison := by rw [Memory.write_rest]
    rw [Bool.eq_iff_iff, List.contains_iff_mem, Memory.mem_setPoison, hp]
    split
    · rfl
    · exact List.contains_iff_mem.symm
  have hw : (m.write (pa + 64 * k) (lineBytes n g w vd pa k s m)).poison = m.poison := by rw [Memory.write_rest]
  rw [storeLine_eq]
  by_cases h0 : (segElems w k).all (fun i => !governs n g w s i) = true
  · rw [if_pos h0, if_neg (fun h => h.2 h0)]
  · rw [if_neg h0]
    simp only [and_iff_left h0]
    by_cases hp : (coreAt s n).vpsn[vd].getLsbD k = true
    · rw [if_pos hp, if_pos hp, hset]
    · rw [if_neg hp, if_neg hp]
      by_cases ha : (segElems w k).all (governs n g w s) = true
      · rw [if_pos ha, if_pos ha, hset]
      · rw [if_neg ha, if_neg ha, hw, ite_self]

end line

/-- The first `c` lines of a vector store. -/
def vecLines (n : CoreId) (g : Guard) (w : Nat) (vd : VNum) (pa : Nat) (s : State) (c : Nat) (m : Memory) : Memory :=
  (List.range c).foldl (fun m k => storeLine n g w vd pa k s m) m

section lines
variable {n : CoreId} {g : Guard} {w : Nat} {vd : VNum} {pa : Nat} {s : State} {m : Memory}

theorem vecLines_succ (c : Nat) :
    vecLines n g w vd pa s (c + 1) m = storeLine n g w vd pa c s (vecLines n g w vd pa s c m) := by
  rw [vecLines, List.range_succ, List.foldl_append]
  rfl

theorem vecLines_disarm (c : Nat) : vecLines n g w vd pa (disarm s n) c m = vecLines n g w vd pa s c m := by
  unfold vecLines
  simp only [storeLine_disarm]

theorem vecLines_dead (c : Nat) : (vecLines n g w vd pa s c m).dead = m.dead := by
  induction c with
  | zero => rfl
  | succ c ih => rw [vecLines_succ, storeLine_dead, ih]

theorem vecLines_ways (c : Nat) : (vecLines n g w vd pa s c m).ways = m.ways := by
  induction c with
  | zero => rfl
  | succ c ih => rw [vecLines_succ, storeLine_ways, ih]

theorem vecLines_outside {c y : Nat} (h : ¬(pa ≤ y ∧ y < pa + 64 * c)) : (vecLines n g w vd pa s c m).byte y = m.byte y := by
  induction c with
  | zero => rfl
  | succ c ih => rw [vecLines_succ, storeLine_outside (by omega), ih (by omega)]

theorem vecLines_inside (hw : w = 4 ∨ w = 8 ∨ w = 16 ∨ w = 32) (hd : m.dead = []) {c b : Nat} (hb : b < 64 * c) :
    (vecLines n g w vd pa s c m).byte (pa + b) = if governs n g w s (8 * b / w) then
      (coreAt s n).v[vd].extractLsb' (8 * b) 8 else m.byte (pa + b) := by
  induction c with
  | zero => exact absurd hb (Nat.not_lt_zero b)
  | succ c ih =>
    rw [vecLines_succ]
    by_cases h : b < 64 * c
    · rw [storeLine_outside (by omega), ih h]
    · obtain ⟨j, rfl⟩ := Nat.exists_eq_add_of_le (Nat.not_lt.mp h)
      rw [storeLine_inside hw (by rw [vecLines_dead, hd]) (by omega), vecLines_outside (by omega)]

theorem vecLines_poison {c : Nat} (k : Nat) : (vecLines n g w vd pa s c m).poison.contains (pa / 64 + k) =
    if k < c ∧ ¬(segElems w k).all (fun i => !governs n g w s i) = true then
      (if (coreAt s n).vpsn[vd].getLsbD k then true
       else if (segElems w k).all (governs n g w s) then false else m.poison.contains (pa / 64 + k))
    else m.poison.contains (pa / 64 + k) := by
  induction c with
  | zero => exact (if_neg (fun h => Nat.not_lt_zero k h.1)).symm
  | succ c ih =>
    rw [vecLines_succ, storeLine_poison, ih]
    by_cases hk : k = c
    · subst hk
      simp only [Nat.lt_irrefl, Nat.lt_succ_self, true_and, false_and, if_false]
    · have h1 : pa / 64 + k ≠ pa / 64 + c := by omega
      have h2 : k < c + 1 ↔ k < c := by omega
      simp only [h1, h2, false_and, if_false]

/-- No element of a segment is governed, or all are. -/
theorem segElems_none (hw : w = 4 ∨ w = 8 ∨ w = 16 ∨ w = 32) {k : Nat} (hk : k < 32) (on : Nat → Bool) :
    ¬(segElems w k).all (fun i => !on i) = true ↔ ∃ i < 16384 / w, (512 * k ≤ i * w ∧ i * w < 512 * k + 512) ∧ on i = true := by
  simp only [List.all_eq_true, Bool.not_eq_true', mem_segElems hw, not_forall, Bool.not_eq_false, exists_prop]
  refine exists_congr fun i => ⟨fun ⟨h, hon⟩ => ⟨?_, by omega, hon⟩, fun ⟨_, h, hon⟩ => ⟨by omega, hon⟩⟩
  rcases hw with rfl | rfl | rfl | rfl <;> omega

theorem segElems_all (hw : w = 4 ∨ w = 8 ∨ w = 16 ∨ w = 32) {k : Nat} (hk : k < 32) (on : Nat → Bool) :
    ¬(segElems w k).all on = true ↔ ∃ i < 16384 / w, (512 * k ≤ i * w ∧ i * w < 512 * k + 512) ∧ on i = false := by
  have h := segElems_none hw hk (fun i => !on i)
  simpa only [Bool.not_not, Bool.not_eq_true'] using h

end lines

/-! ### Vector loads and stores (R87) -/

theorem queueReads_disarm (s : State) (n : CoreId) (a k : Nat) : queueReads (coreAt (disarm s n) n) a k = queueReads (coreAt s n) a k := by
  rw [queueReads, queueReads, mq_disarm]

section address
variable {n : CoreId} {g : Guard} {fmt : Fmt} {vd : VNum} {sa : SReg} {off : BitVec 12} {s : State} (he : g.err = .none) {ea : Nat}
  (hea : (getS (.core n) sa s + off.signExtend 64 * 64).toNat = ea)

theorem vecAddrOk_iff (a : Nat) : vecAddrOk a 2048 = true ↔
    a % 64 = 0 ∧ ((2 ^ 48 ≤ a ∧ a + 2048 ≤ 2 ^ 48 + 0x600000) ∨ (2 ^ 49 ≤ a ∧ a + 2048 ≤ 2 ^ 49 + 0x1000000)) := by
  rw [vecAddrOk, decide_eq_true_eq]
  refine and_congr_right fun _ => ?_
  unfold winOf
  constructor
  · intro h
    split at h
    · rcases h with h | h <;> cases h
    · split at h
      · omega
      · split at h
        · omega
        · split at h <;> rcases h with h | h <;> cases h
  · rintro (h | h)
    · rw [if_neg (by omega), if_pos (by omega)]
      exact .inl rfl
    · rw [if_neg (by omega), if_neg (by omega), if_pos (by omega)]
      exact .inr rfl

include hea in
theorem vaddr_disarm : vaddr (.core n) sa off (disarm s n) = ea := by
  rw [vaddr, getS_disarm, ← hea, BitVec.shiftLeft_eq_mul_twoPow]
  rfl

theorem toNat_ofNat_bytes {w k : Nat} (hw : w = 8 * k) (m : Memory) (pa : Nat) :
    (BitVec.ofNat w (leNat (m.bytes pa k))).toNat = leNat (m.bytes pa k) := by
  have hlt := leNat_lt (m.bytes pa k)
  rw [Memory.length_bytes, show (256 : Nat) = 2 ^ 8 from rfl, ← Nat.pow_mul] at hlt
  subst hw
  rw [BitVec.toNat_ofNat, Nat.mod_eq_of_lt hlt]

theorem elemOf_memVec (m : Memory) (pa w i : Nat) : elemOf w (memVec m pa) i = leNat (m.bytes pa 2048) / 2 ^ (w * i) % 2 ^ w := by
  rw [elemOf, memVec, toNat_ofNat_bytes (by decide)]

include he hea

theorem vld_address (h : ¬(ea % 64 = 0 ∧ ((2 ^ 48 ≤ ea ∧ ea + 2048 ≤ 2 ^ 48 + 0x600000) ∨ (2 ^ 49 ≤ ea ∧ ea + 2048 ≤ 2 ^ 49 + 0x1000000)))) :
    Gives (.core n) (.vld (.core n) g fmt .none vd sa off) s
      (takeExc (disarm s n) n { code := 4, eaddr := BitVec.ofNat 64 ea } 2 true (coreAt s n).pc (coreAt s n).pc) := by
  rw [← vecAddrOk_iff] at h
  refine gives_issueV_fault (s := s) (i := .vld (.core n) g fmt .none vd sa off) rfl he (x := excAddress ea) ?_
  dsimp only
  rw [vaddr_disarm hea, Bool.eq_false_iff.mpr h]
  rfl

theorem vst_address (h : ¬(ea % 64 = 0 ∧ ((2 ^ 48 ≤ ea ∧ ea + 2048 ≤ 2 ^ 48 + 0x600000) ∨ (2 ^ 49 ≤ ea ∧ ea + 2048 ≤ 2 ^ 49 + 0x1000000)))) :
    Gives (.core n) (.vst (.core n) g fmt vd sa off) s
      (takeExc (disarm s n) n { code := 4, eaddr := BitVec.ofNat 64 ea } 2 true (coreAt s n).pc (coreAt s n).pc) := by
  rw [← vecAddrOk_iff] at h
  refine gives_issueV_fault (s := s) (i := .vst (.core n) g fmt vd sa off) rfl he (x := excAddress ea) ?_
  dsimp only
  rw [vaddr_disarm hea, Bool.eq_false_iff.mpr h]
  rfl

theorem vld_done (h : vecAddrOk ea 2048 = true) : ∃ (v : VReg) (p : BitVec 32),
    LaneWrite (coreAt s n).v[vd] (coreAt s n).vpsn[vd] (fmtBits fmt) (governs n g (fmtBits fmt) s)
      (fun i => leNat (s.mem.bytes (sramAt n ea) 2048) / 2 ^ (fmtBits fmt * i) % 2 ^ fmtBits fmt)
      (fun i => s.mem.isPoisoned (sramAt n ea / 64 + i * fmtBits fmt / 512)) v p ∧
    Gives (.core n) (.vld (.core n) g fmt .none vd sa off) s
      (setV n vd v p (fell (.core n) (logSram s n (.vld (.core n) g fmt .none vd sa off) ea))) := by
  let i : Instr := .vld (.core n) g fmt .none vd sa off
  refine ⟨_, _, laneWrite_commit (f := fun k => elemOf (fmtBits fmt) (memVec s.mem (sramAt n ea)) k) (fmtBits_width fmt)
    fun k => by rw [elemOf_memVec], ?_⟩
  have hc := commitV_disarm n vd (fmtBits fmt) (governs n g (fmtBits fmt) s) (fun k => elemOf (fmtBits fmt) (memVec s.mem (sramAt n ea)) k)
    (fun k => s.mem.isPoisoned (sramAt n ea / 64 + k * fmtBits fmt / 512)) (logSram s n i ea)
  rw [coreAt_logSram] at hc
  rw [← hc]
  refine gives_issueV (s := s) (i := i) rfl he ?_
  dsimp only
  rw [vaddr_disarm hea, h, guardOn_disarm, mem_disarm, ← logSram_disarm]
  have hm : (lineMet (logSram (disarm s n) n i ea) n ea .none).mem = s.mem := by
    rw [lineMet, mem_logSram, mem_disarm]
  rw [hm]
  rfl

theorem vst_hold (h : vecAddrOk ea 2048 = true) (hq : queueReads (coreAt s n) ea 2048 = true) :
    Gives (.core n) (.vst (.core n) g fmt vd sa off) s (holdFor (disarm s n) n (.vst (.core n) g fmt vd sa off)) := by
  refine gives_issueV_hold (s := s) (i := .vst (.core n) g fmt vd sa off) rfl he ?_
  dsimp only
  rw [vaddr_disarm hea, h, queueReads_disarm, hq]
  rfl

theorem vst_done (h : vecAddrOk ea 2048 = true) (hq : queueReads (coreAt s n) ea 2048 = false) :
    Gives (.core n) (.vst (.core n) g fmt vd sa off) s
      { fell (.core n) (logSram s n (.vst (.core n) g fmt vd sa off) ea) with
        mem := vecLines n g (fmtBits fmt) vd (sramAt n ea) s 32 s.mem } := by
  let i : Instr := .vst (.core n) g fmt vd sa off
  have hr := retire_mem (logSram s n i ea) n (vecLines n g (fmtBits fmt) vd (sramAt n ea) s 32 s.mem) ((coreAt s n).pc + 8)
  rw [← logSram_disarm, ← fell_logSram] at hr
  rw [← hr]
  refine gives_issueV (s := s) (i := i) rfl he ?_
  dsimp only
  rw [vaddr_disarm hea, h, queueReads_disarm, hq, mem_disarm, ← vecLines_disarm]
  rfl

end address

/-! ### The Vat (R89, R133) -/

section vat
variable {n : CoreId} {g : Guard} {vd : VNum} {row : Fin 128} {s : State} (he : g.err = .none)

@[simp] theorem vat_disarm (s : State) (n : CoreId) : (coreAt (disarm s n) n).vat = (coreAt s n).vat := by
  rw [coreAt_disarm, disarmC]; split <;> rfl
@[simp] theorem vatPsn_disarm (s : State) (n : CoreId) : (coreAt (disarm s n) n).vatPsn = (coreAt s n).vatPsn := by
  rw [coreAt_disarm, disarmC]; split <;> rfl

theorem getLsbD_setRow (p : BitVec 128) (row r : Fin 128) (b : Bool) :
    (setRow p row b).getLsbD r.val = if r = row then b else p.getLsbD r.val := by
  have hr := r.isLt
  have hm : ((1 : BitVec 128) <<< row.val).getLsbD r.val = decide (r = row) := by
    rw [BitVec.getLsbD_shiftLeft]
    by_cases h : r = row
    · subst h; simp [hr]
    · have hne : r.val ≠ row.val := fun he => h (Fin.ext he)
      by_cases hlt : r.val < row.val
      · simp [h, hlt]
      · simp [h, hlt, show r.val - row.val ≠ 0 by omega]
  unfold setRow
  cases b
  · rw [if_neg Bool.false_ne_true, BitVec.getLsbD_and, BitVec.getLsbD_not, hm, decide_eq_true hr]
    by_cases h : r = row <;> simp [h]
  · rw [if_pos rfl, BitVec.getLsbD_or, hm]
    by_cases h : r = row <;> simp [h]

/-- A core whose Vat row is written, and one whose row takes the elements of `x` that `on` governs, and poison `b`. -/
def vatWritten (row : Fin 128) (x : VReg) (p : BitVec 128) (c : Core) : Core := { c with vat := c.vat.set row x, vatPsn := p }
def vatCore (on : Nat → Bool) (x : VReg) (row : Fin 128) (b : Bool) (c : Core) : Core :=
  { c with vat := c.vat.set row (vecOf 32 (fun i => if on i then elemOf 32 x i else elemOf 32 c.vat[row] i))
           vatPsn := setRow c.vatPsn row b }

/-- The poison bit of a Vat row after a governed write. -/
def rowPsn (n : CoreId) (g : Guard) (vd : VNum) (row : Fin 128) (s : State) : Bool :=
  if (List.range 512).any (fun i => governs n g 32 s i && inPoison n vd 32 s i) then true
  else if (List.range 512).all (governs n g 32 s) then false else (coreAt s n).vatPsn.getLsbD row.val

include he

theorem vat_hold (hq : (coreAt s n).mq ≠ []) :
    Gives (.core n) (.vrdvat (.core n) g .f32 vd row) s (holdFor (disarm s n) n (.vrdvat (.core n) g .f32 vd row)) ∧
    Gives (.core n) (.vwrvat (.core n) g .f32 vd row) s (holdFor (disarm s n) n (.vwrvat (.core n) g .f32 vd row)) := by
  have hq : (coreAt (disarm s n) n).mq ≠ [] := by rwa [mq_disarm]
  exact ⟨gives_issueV_hold (s := s) (i := .vrdvat (.core n) g .f32 vd row) rfl he (if_pos hq),
    gives_issueV_hold (s := s) (i := .vwrvat (.core n) g .f32 vd row) rfl he (if_pos hq)⟩

theorem vrdvat_done (hq : (coreAt s n).mq = []) : ∃ (v : VReg) (p : BitVec 32),
    LaneWrite (coreAt s n).v[vd] (coreAt s n).vpsn[vd] 32 (governs n g 32 s) (fun i => elemOf 32 (coreAt s n).vat[row] i)
      (fun _ => (coreAt s n).vatPsn.getLsbD row.val) v p ∧
    Gives (.core n) (.vrdvat (.core n) g .f32 vd row) s (setV n vd v p (fell (.core n) s)) := by
  refine ⟨_, _, laneWrite_commit (.inr (.inr (.inr rfl))) fun _ => rfl, ?_⟩
  rw [← commitV_disarm]
  refine gives_issueV (s := s) (i := .vrdvat (.core n) g .f32 vd row) rfl he ?_
  dsimp only
  rw [mq_disarm, vat_disarm, vatPsn_disarm, guardOn_disarm]
  exact if_neg (fun h => h hq)

theorem vwrvat_done (hq : (coreAt s n).mq = []) :
    Gives (.core n) (.vwrvat (.core n) g .f32 vd row) s (modCore (fell (.core n) s) n (vatWritten row
      (vecOf 32 (fun i => if governs n g 32 s i then elemOf 32 (coreAt s n).v[vd] i else elemOf 32 (coreAt s n).vat[row] i))
      (setRow (coreAt s n).vatPsn row (rowPsn n g vd row s)))) := by
  have hcore : modCore (fell (.core n) s) n (vatCore (governs n g 32 s) (coreAt s n).v[vd] row (rowPsn n g vd row s)) =
      modCore (fell (.core n) s) n (vatWritten row
        (vecOf 32 (fun i => if governs n g 32 s i then elemOf 32 (coreAt s n).v[vd] i else elemOf 32 (coreAt s n).vat[row] i))
        (setRow (coreAt s n).vatPsn row (rowPsn n g vd row s))) := by
    refine modCore_congr _ _ _ _ ?_
    rw [fell, retired_eq, coreAt_modCore]
    rfl
  rw [← hcore, ← retireAt_disarm, ← retireAt_modCore _ _ _ (f := vatCore _ _ _ _) (fun _ => rfl)]
  refine gives_issueV (s := s) (i := .vwrvat (.core n) g .f32 vd row) rfl he ?_
  dsimp only
  rw [mq_disarm, vatPsn_disarm, guardOn_disarm, getV_disarm]
  simp only [elemPsn_disarm]
  exact if_neg (fun h => h hq)

end vat

theorem rowPsn_write {n : CoreId} {g : Guard} {vd : VNum} {row : Fin 128} {s : State} :
    ((∃ i < 512, governs n g 32 s i = true ∧ inPoison n vd 32 s i = true) → rowPsn n g vd row s = true) ∧
    ((∀ i < 512, governs n g 32 s i = true ∧ inPoison n vd 32 s i = false) → rowPsn n g vd row s = false) ∧
    ((∀ i < 512, governs n g 32 s i = true → inPoison n vd 32 s i = false) → (∃ i < 512, governs n g 32 s i = false) →
      rowPsn n g vd row s = (coreAt s n).vatPsn.getLsbD row.val) := by
  have hany : (List.range 512).any (fun i => governs n g 32 s i && inPoison n vd 32 s i) = true ↔
      ∃ i < 512, governs n g 32 s i = true ∧ inPoison n vd 32 s i = true := by
    simp only [List.any_eq_true, List.mem_range, Bool.and_eq_true]
  have hall : (List.range 512).all (governs n g 32 s) = true ↔ ∀ i < 512, governs n g 32 s i = true := by
    simp only [List.all_eq_true, List.mem_range]
  refine ⟨fun h => ?_, fun h => ?_, fun h ⟨i, hi, hoff⟩ => ?_⟩
  · exact if_pos (hany.mpr h)
  · have h1 : ¬ ∃ i < 512, governs n g 32 s i = true ∧ inPoison n vd 32 s i = true := fun ⟨i, hi, _, hp⟩ =>
      Bool.false_ne_true ((h i hi).2.symm.trans hp)
    rw [rowPsn, if_neg (hany.not.mpr h1), if_pos (hall.mpr fun i hi => (h i hi).1)]
  · have h1 : ¬ ∃ i < 512, governs n g 32 s i = true ∧ inPoison n vd 32 s i = true := fun ⟨i, hi, hon, hp⟩ =>
      Bool.false_ne_true ((h i hi hon).symm.trans hp)
    have h2 : ¬ ∀ i < 512, governs n g 32 s i = true := fun h => Bool.false_ne_true (hoff.symm.trans (h i hi))
    rw [rowPsn, if_neg (hany.not.mpr h1), if_neg (hall.not.mpr h2)]

/-! ### What faults leave of the cores: none of them starts to run, and none arms a launch (R60, R61, R383 to R396) -/

/-- Core `n` runs in `t` only where it runs in `s`, and has a launch pending only where it has one in `s`. -/
def Idles (n : CoreId) (s t : State) : Prop :=
  ((coreAt t n).state = .run → (coreAt s n).state = .run) ∧ ((coreAt t n).launchPend = true → (coreAt s n).launchPend = true)

namespace Idles
variable {n : CoreId} {s t u : State}

theorem refl : Idles n s s := ⟨id, id⟩

theorem of_cores (h : t.cores = s.cores) : Idles n s t := by
  have hc : coreAt t n = coreAt s n := by rw [coreAt, h, coreAt]
  constructor <;> rw [hc] <;> exact id

theorem trans (h : Idles n s t) (k : Idles n t u) : Idles n s u := ⟨fun hr => h.1 (k.1 hr), fun hl => h.2 (k.2 hl)⟩

theorem foldl {α : Type} (f : State → α → State) (hf : ∀ s x, Idles n s (f s x)) (l : List α) (s : State) : Idles n s (l.foldl f s) := by
  induction l generalizing s with
  | nil => exact refl
  | cons x l ih => exact (hf s x).trans (ih _)

/-- A change of one core that neither makes it run nor arms its launch. -/
theorem modCore (s : State) (m : CoreId) {f : Core → Core} (hr : ∀ c, (f c).state = .run → c.state = .run)
    (hl : ∀ c, (f c).launchPend = true → c.launchPend = true) : Idles n s (modCore s m f) := by
  by_cases h : n = m
  · subst h
    constructor <;> rw [coreAt_modCore]
    · exact hr _
    · exact hl _
  · constructor <;> rw [coreAt_modCore_of_ne _ _ h] <;> exact id

theorem ite {p : Prop} [Decidable p] (h : Idles n s t) (k : Idles n s u) : Idles n s (if p then t else u) := by
  split
  · exact h
  · exact k

end Idles

/-! Records, events, packets and the seal leave the cores alone. -/

section cores
variable (s : State) (g : Gal)

theorem foldl_cores {α : Type} (f : State → α → State) (hf : ∀ s x, (f s x).cores = s.cores) (l : List α) (s : State) :
    (l.foldl f s).cores = s.cores := by
  induction l generalizing s with
  | nil => rfl
  | cons x l ih => exact (ih _).trans (hf s x)

theorem record_cores (e : Err) (nest cls : Nat) : (record s e nest cls).2.cores = s.cores := by rw [record_rest]
theorem note_cores (e : Err) : (note s e).cores = s.cores := record_cores s e 0 e.cls

theorem noteFault_cores (e : Err) : (noteFault s e).cores = s.cores := by
  rw [noteFault]
  split
  · exact record_cores s e 0 e.cls
  · exact (sendEvent_sends _ _ _ _ _ _ _).cores.trans (record_cores s e 0 e.cls)

theorem inject_cores (p : Packet) : (inject s p).cores = s.cores := by
  rw [inject, injectNoted]
  split <;> rfl

theorem abortOp_cores (q : Nat) (o : CollOp) (st : Nat) : (abortOp s g q o st).cores = s.cores :=
  foldl_cores _ (fun s _ => inject_cores s _) _ s

theorem collSeal_cores (st : Nat) : (collSeal s g st).cores = s.cores := by
  rw [collSeal]
  split
  · rfl
  · split <;> rfl

theorem collEnd_cores (q : Fin 16) (o : CollOp) (st : Nat) : (collEnd s g q o st).cores = s.cores := by
  rw [collEnd]
  dsimp only
  split
  · rfl
  · rw [note_cores, collSeal_cores]
    rfl

theorem killQueues_cores (mask : Nat) : (killQueues s g mask).cores = s.cores :=
  foldl_cores _ (fun s q => foldl_cores _ (fun s o => (collEnd_cores _ g q o _).trans (abortOp_cores s g _ o _)) _ s) _ s

theorem chkIncomplete_cores (n : CoreId) (q : Fin 2) (d : RDesc) : (chkIncomplete s n q d).cores = s.cores :=
  foldl_cores _ (fun s _ => by dsimp only; split <;> rfl) _ s

theorem sealDecide_cores (clean : Bool) (r : BitVec 8) (teff : Option Nat) : (sealDecide s g clean r teff).cores = s.cores := by
  have hev (t : State) (ws : List Word) : (if clean then t else galEvent t g 0x03 0 ws).cores = t.cores := by
    split
    · rfl
    · exact (sendEvent_sends _ _ _ _ _ _ _).cores
  have hnote (t : State) (p : Prop) [Decidable p] (e : Err) : (if p then noteFault t e else t).cores = t.cores := by
    split
    · exact noteFault_cores t e
    · rfl
  unfold sealDecide
  dsimp only
  split
  · exact (hnote _ _ _).trans (hev _ _)
  · exact (hnote _ _ _).trans (hev _ _)

theorem sealGathered_cores : (sealGathered s g).cores = s.cores := by
  unfold sealGathered
  dsimp only
  split
  · exact (noteFault_cores _ _).trans (sealDecide_cores _ g _ _ _)
  · rfl

theorem sendPhase_cores (ph : Nat) (r : BitVec 8) (tc : Nat) : (sendPhase s g ph r tc).cores = s.cores :=
  foldl_cores _ (fun s _ => inject_cores s _) _ s

theorem sealAdvance_cores (fuel : Nat) (s : State) : (sealAdvance fuel s g).cores = s.cores := by
  induction fuel generalizing s with
  | zero => rfl
  | succ fuel ih =>
    unfold sealAdvance
    dsimp only
    split
    · rfl
    · split
      · exact sealGathered_cores s g
      · split
        · exact ih _
        · split
          · split
            · exact ih _
            · rfl
          · split
            · exact (ih _).trans (sendPhase_cores _ g _ _ _)
            · exact sendPhase_cores _ g _ _ _

theorem sealContribute_cores : (sealContribute s g).cores = s.cores := sealAdvance_cores g 6 _

theorem complete_cores (e : Ep) (tag : BitVec 32) (op : Nat) (st : Status) (r1 r2 r3 : Word) :
    (complete s e tag op st r1 r2 r3).cores = s.cores := by
  have htime (t : State) (st : Status) : (countTimeout t e st).cores = t.cores := by
    unfold countTimeout
    split
    · cases e <;> rfl
    · rfl
  unfold complete
  dsimp only
  split
  · exact (sendCpl_sends _ _ _ _ _ _ _ _).cores
  · exact (sendFor_sends _ _ _ _ _ _ _).cores.trans (htime _ _)

theorem abortStreams_cores : (abortStreams s g).cores = s.cores :=
  foldl_cores _ (fun s _ => by
    dsimp only
    split
    · exact (complete_cores _ _ _ _ _ _ _ _).trans rfl
    · rfl) _ s

theorem peerState_cores (p : PortId) (greset : Nat) (chiprst : Bool) : (peerState s p greset chiprst).cores = s.cores := by
  rw [(peerState_readies s p greset chiprst).rest]

end cores

/-! ### Teardown, resets and reports (R227, R383 to R396) -/

section idles
variable {n : CoreId} (s : State) (g : Gal)

theorem setRq_idles (m : CoreId) (q : Fin 2) (x : RQueue) : Idles n s (setRq s m q x) := .modCore s m (fun _ h => h) fun _ h => h

theorem writeRecord_idles (m : CoreId) (q : Fin 2) (status : Nat) : Idles n s (writeRecord s m q status) := by
  unfold writeRecord
  dsimp only
  refine .trans (.of_cores ?_) (.trans (setRq_idles _ m q _) (.of_cores rfl))
  change State.cores (match startedDesc s m q with
    | some r => _
    | none => s) = s.cores
  split
  · split
    · exact chkIncomplete_cores s m q _
    · rfl
  · rfl

theorem fset_idles {t : State} (h : Idles n s t) (o hi lo v : Nat) : Idles n s (fset t o hi lo v) := h.trans (.of_cores rfl)
theorem fincr_idles {t : State} (h : Idles n s t) (o hi lo k : Nat) : Idles n s (fincr t o hi lo k) := fset_idles s h o hi lo _

theorem stopActive_idles (m : CoreId) (q : Fin 2) : Idles n s (stopActive s m q) := by
  have hset (mem : Memory) (x : RQueue) : Idles n s (setRq { s with mem := mem, free := s.free + 1 } m q x) :=
    .trans (.of_cores rfl) (setRq_idles _ m q x)
  unfold stopActive
  dsimp only
  split
  · exact .refl
  · exact .ite .refl (fincr_idles s (fincr_idles s (.ite (fset_idles s (hset _ _) _ _ _ _) (hset _ _)) _ _ _ _) _ _ _ _)

theorem killRecords_idles (fuel : Nat) (s : State) (m : CoreId) (q : Fin 2) : Idles n s (killRecords fuel s m q) := by
  induction fuel generalizing s with
  | zero => exact .refl
  | succ fuel ih => exact .ite ((writeRecord_idles s m q 2).trans (ih _)) .refl

theorem killPair_idles (m : CoreId) : Idles n s (killPair s m) :=
  have hkill (t : State) (q : Fin 2) : Idles n t (killRacking 257 t m q) := (stopActive_idles t m q).trans (killRecords_idles _ _ m q)
  (hkill s 0).trans (hkill _ 1)

theorem emptyCore_idles (m : CoreId) : Idles n s (emptyCore s m) :=
  .modCore s m (fun _ h => by cases h) fun _ h => by cases h

theorem stopCore_idles (m : CoreId) : Idles n s (stopCore s m) := by
  refine .modCore s m (fun c h => ?_) (fun c h => ?_) <;> by_cases hc : c.state = .run ∨ c.state = .wait
  · rw [if_pos hc] at h
    cases h
  · rwa [if_neg hc] at h
  · rwa [if_pos hc] at h
  · rwa [if_neg hc] at h

theorem clearCore_idles (m : CoreId) : Idles n s (clearCore s m) := by
  constructor <;> intro h <;> rw [clearCore_coreAt] at h <;> split at h
  · cases h
  · exact h
  · cases h
  · exact h

/-- The Reserve and the reduction unit of a cluster of Gallery `g` cleared. -/
def clusterCleared (g : Gal) (s : State) (c : Nat) : State :=
  if ownsCluster s g c then
    { rset s (cruReg c) 0 with
      mem := s.mem.clear (reserveBase c) (2 ^ 24)
      resLog := s.resLog.set (BitVec.toFin (BitVec.ofNat 4 c)) []
      cruLog := s.cruLog.set (BitVec.toFin (BitVec.ofNat 4 c)) [] }
  else s

theorem clearClusters_eq : clearClusters s g = (List.range 16).foldl (clusterCleared g) ((galCores s g).foldl clearCore s) := rfl

theorem clusterCleared_cores (c : Nat) : (clusterCleared g s c).cores = s.cores := by
  unfold clusterCleared
  split <;> rfl

theorem clearClusters_idles : Idles n s (clearClusters s g) := by
  rw [clearClusters_eq]
  exact (Idles.foldl clearCore clearCore_idles _ s).trans (.of_cores (foldl_cores _ (fun t c => clusterCleared_cores t g c) _ _))

/-- The seal of a Gallery whose cores are gone. -/
def sealTorn (s : State) (g : Gal) : State :=
  if s.gal[g].stepSeal.st = .open then
    sealContribute (modSeal s g (fun y => { y with parts := [], reason := y.reason ||| rsnSmark, sw := y.sw <|> some 0 })) g
  else if s.gal[g].stepSeal.st = .closing then modSeal s g (fun y => { y with parts := [], torn := true })
  else modSeal s g (fun y => { y with parts := [] })

/-- The cores of a Gallery with their queues killed, and emptied. -/
def coresEmptied (s : State) (g : Gal) : State := (galCores s g).foldl (fun s n => emptyCore (killPair s n) n) s

/-- The generation raised, the collective queues begun anew. -/
def generationRaised (s : State) (g : Gal) : State :=
  modGal (rset s (glyReg g.val 0x60) (gen s g + 1)) g (fun x => { x with cq := Vector.replicate 16 {}, tear := .none })

theorem teardownEnd_eq : teardownEnd s g = sealTorn (abortStreams (generationRaised (coresEmptied s g) g) g) g := by
  unfold teardownEnd sealTorn generationRaised coresEmptied
  dsimp only

theorem sealTorn_cores : (sealTorn s g).cores = s.cores := by
  unfold sealTorn
  split
  · exact sealContribute_cores _ g
  · split <;> rfl

theorem teardownEnd_idles : Idles n s (teardownEnd s g) := by
  have hcores : Idles n s (coresEmptied s g) := .foldl _ (fun t m => (killPair_idles t m).trans (emptyCore_idles _ m)) _ s
  have hraised : (generationRaised (coresEmptied s g) g).cores = (coresEmptied s g).cores := rfl
  rw [teardownEnd_eq]
  exact hcores.trans (.of_cores ((sealTorn_cores _ g).trans ((abortStreams_cores _ g).trans hraised)))

/-- A Gallery begins to drain, its replay dropped. -/
def draining (s : State) (g : Gal) : State := modGal s g (fun x => { x with tear := .draining })
def replayDropped (s : State) (g : Gal) : State := if s.replay.active ∧ s.replay.gallery = g then { s with replay := {} } else s

theorem teardownBegin_eq : teardownBegin s g = if s.gal[g].tear ≠ .none then s else
    replayDropped (draining (killQueues ((galCores s g).foldl stopCore s) g 0xFFFF) g) g := rfl

theorem replayDropped_cores : (replayDropped s g).cores = s.cores := by
  unfold replayDropped
  split <;> rfl

theorem teardownBegin_idles : Idles n s (teardownBegin s g) := by
  have hstop : Idles n s ((galCores s g).foldl stopCore s) := .foldl stopCore stopCore_idles _ s
  have hdrain (t : State) : (draining t g).cores = t.cores := rfl
  rw [teardownBegin_eq]
  exact .ite .refl (hstop.trans (.of_cores ((replayDropped_cores _ g).trans ((hdrain _).trans (killQueues_cores _ g _)))))

/-- What a reset clears of its Gallery beside the clusters. -/
def resetFields (s : State) (g : Gal) : State :=
  modSeal (setFrq (rclear (fset (modGal s g (fun x => { x with fired := false, nanQ := [], tear := .clearing })) (glyReg g.val 0) 4 4 0)
    (glyReg g.val 0x70) (glyReg g.val 0x90)) (frqOf (some g)) {}) g
    (fun x => if x.st = .closing then { x with idleAfter := true, pendReason := 0, pendSw := none } else sealReset x)

theorem resetFields_cores : (resetFields s g).cores = s.cores := rfl

theorem resetClear_idles : Idles n s (resetClear s g) := by
  unfold resetClear
  generalize hc : clearClusters s g = t
  exact (hc ▸ clearClusters_idles s g).trans (.of_cores (resetFields_cores t g))

theorem teardownFinish_idles : Idles n s (teardownFinish s g) := by
  have hend := teardownEnd_idles (n := n) s g
  unfold teardownFinish
  generalize teardownEnd s g = t at hend ⊢
  exact .ite (hend.trans (resetClear_idles t g)) hend

/-- The neighbours told of a Gallery's reset. -/
def resetTold (s : State) (g : Gal) (sc : Scope) : State :=
  if sc = .gallery then allPorts.foldl (fun s p => if portWorks s p then peerState s p (2 ^ g.val) false else s) s else s

/-- A reset noted with its Gallery, after its STATUS bit is set. -/
def resetSet (s : State) (g : Gal) (sc : Scope) (cause seq : Nat) : State :=
  modGal (fbit s (glyReg g.val 0) 5) g (fun x => { x with
    reset := some (sc, cause, seq)
    tear := if x.tear = .clearing then .none else x.tear })

theorem galReset_eq (sc : Scope) (cause seq : Nat) : galReset s g sc cause seq = if resetCovers s.gal[g].reset sc then s else
    note (teardownBegin (resetSet (resetTold s g sc) g sc cause seq) g)
      { kind := 0x1D, cls := 0, unit := 13, gal := some g
        d0 := mkWord [(0, if sc = .gallery then 1 else 0), (8, cause)], d1 := BitVec.ofNat 64 seq } := rfl

theorem resetTold_cores (sc : Scope) : (resetTold s g sc).cores = s.cores := by
  unfold resetTold
  split
  · exact foldl_cores _ (fun t p => by
      split
      · exact peerState_cores t p _ _
      · rfl) _ s
  · rfl

theorem galReset_idles (sc : Scope) (cause seq : Nat) : Idles n s (galReset s g sc cause seq) := by
  have hset (t : State) : (resetSet t g sc cause seq).cores = t.cores := rfl
  rw [galReset_eq]
  exact .ite .refl (.trans (.of_cores ((hset _).trans (resetTold_cores s g sc)))
    ((teardownBegin_idles _ g).trans (.of_cores (note_cores _ _))))

theorem startReset_idles (sc : Scope) (cause seq : Nat) : Idles n s (startReset s g sc cause seq) := by
  have hreset := galReset_idles (n := n) s g sc cause seq
  unfold startReset
  generalize galReset s g sc cause seq = t at hreset ⊢
  exact .ite (hreset.trans (teardownFinish_idles t g)) hreset

theorem chipReset_idles (cause seq : Nat) : Idles n s (chipReset s cause seq) := by
  obtain ⟨-, -, -, -, -, hcores, -⟩ := chipReset_chipResets s cause seq
  have hc : coreAt (chipReset s cause seq) n = { cycleBase := s.clk } := by simp [coreAt, hcores]
  constructor <;> intro h <;> rw [hc] at h <;> cases h

theorem escRecord_cores (g : Option Gal) (nest scope seq handling : Nat) : (escRecord s g nest scope seq handling).cores = s.cores :=
  record_cores _ _ _ _

theorem report_idles (e : Err) : Idles n s (report s e) := by
  have hrec (nest cls : Nat) : Idles n s (record s e nest cls).2 := .of_cores (record_cores s e nest cls)
  have hesc (g : Option Gal) (nest cls k scope : Nat) :
      Idles n s (escRecord (record s e nest cls).2 g k scope (record s e nest cls).1 (s.frq[frqOf e.gal]).cause) :=
    .of_cores ((escRecord_cores _ _ _ _ _ _).trans (record_cores s e nest cls))
  have hset (nest cls : Nat) (q : Fin 9) (f : Frq) : Idles n s (setFrq (record s e nest cls).2 q f) := (hrec nest cls).trans (.of_cores rfl)
  unfold report
  dsimp only
  refine .ite (hrec _ _) ?_
  split
  · exact .ite ((hesc _ _ _ _ _).trans (chipReset_idles _ _ _)) (.ite ((hrec _ _).trans (chipReset_idles _ _ _))
      (.ite ((hesc _ _ _ _ _).trans (startReset_idles _ _ _ _ _))
        (.ite ((hset _ _ _ _).trans (startReset_idles _ _ _ _ _)) (hset _ _ _ _))))
  · exact .ite (.ite ((hesc _ _ _ _ _).trans (chipReset_idles _ _ _)) ((hrec _ _).trans (chipReset_idles _ _ _)))
      (.ite ((hesc _ _ _ _ _).trans (chipReset_idles _ _ _)) (hset _ _ _ _))

/-- A core that takes an exception does not run. -/
theorem not_run_takeExc (n : CoreId) (x : Exc) (cls : Nat) (restart : Bool) (epc resume : Word) :
    (coreAt (takeExc s n x cls restart epc resume) n).state ≠ .run := by
  intro h
  have hseal (t : State) : (excSeal t n x).cores = t.cores := by
    unfold excSeal
    split
    · rfl
    · split
      · rfl
      · split <;> rfl
  have hstop := ((Idles.of_cores (hseal _)).trans (report_idles (n := n) _ _)).1 h
  unfold stopAt at hstop
  split at hstop
  case isTrue => rw [coreAt_modCore] at hstop; cases hstop
  case isFalse hl => exact hl (by rw [live, hstop]; rfl)

end idles

/-! ### Errors of the register file and the Vat (R90, R134, R192, R387) -/

theorem fincr_cores (s : State) (o hi lo k : Nat) : (fincr s o hi lo k).cores = s.cores := rfl
theorem setScore_cores (s : State) (c : Nat) (x : Score) : (setScore s c x).cores = s.cores := rfl

theorem issueAdvisory_cores (s : State) (a : Advice) : (issueAdvisory s a).cores = s.cores := by
  have hcr (t : State) (e : FEntry) : (crWrite t 0x1E e).cores = t.cores := by rw [crWrite_rest]
  unfold issueAdvisory
  dsimp only
  rw [fincr_cores, setScore_cores, (sendEvent_sends _ _ _ _ _ _ _).cores, hcr]
  rfl

theorem advise_cores (s : State) (c : Nat) : (advise s c).cores = s.cores := by
  unfold advise
  dsimp only
  split
  · exact issueAdvisory_cores _ _
  · split <;> rfl

theorem appraise_cores (s : State) (c k : Nat) : (appraise s c k).cores = s.cores := by
  have hnote (t : State) (p : Prop) [Decidable p] (e : Err) : (if p then note t e else t).cores = t.cores := by
    split
    · exact note_cores t e
    · rfl
  have hadv (t : State) (p : Prop) [Decidable p] : (if p then advise t c else t).cores = t.cores := by
    split
    · exact advise_cores t c
    · rfl
  unfold appraise
  dsimp only
  rw [hadv, hnote, setScore_cores]

/-- The core goes on as before an error was met. -/
structure MeetKept (s t : State) (n : CoreId) : Prop where
  pc : (coreAt t n).pc = (coreAt s n).pc
  pend : (coreAt t n).launchPend = (coreAt s n).launchPend
  retired : (coreAt t n).retired = (coreAt s n).retired

theorem meetKept_of_cores {s t : State} (h : t.cores = s.cores) (n : CoreId) : MeetKept s t n := by
  constructor <;> rw [coreAt, h, coreAt]

theorem meetKept_appraise {s t : State} {n : CoreId} (h : MeetKept s t n) (c k : Nat) : MeetKept s (appraise t c k) n := by
  have hc : coreAt (appraise t c k) n = coreAt t n := by rw [coreAt, appraise_cores, coreAt]
  constructor <;> rw [hc]
  · exact h.pc
  · exact h.pend
  · exact h.retired

theorem meetKept_modCore (s : State) (n : CoreId) {f : Core → Core} (hpc : ∀ c, (f c).pc = c.pc)
    (hp : ∀ c, (f c).launchPend = c.launchPend) (hr : ∀ c, (f c).retired = c.retired) : MeetKept s (modCore s n f) n := by
  constructor <;> rw [coreAt_modCore]
  · exact hpc _
  · exact hp _
  · exact hr _

theorem meetErr_kept (n : CoreId) (e : RegErr) (rs : List VNum) (row : Option (Fin 128)) (s : State) :
    MeetKept s (meetErr n e rs row s) n := by
  have hs : MeetKept s s n := meetKept_of_cores rfl n
  have hcount (o hi lo : Nat) : MeetKept s (counted (fincr s o hi lo 1)) n :=
    meetKept_of_cores (s := s) (t := counted (fincr s o hi lo 1)) rfl n
  have hseg (r : VNum) (k : Fin 32) : MeetKept s (poisonSeg n r k s) n :=
    meetKept_modCore s n (fun _ => rfl) (fun _ => rfl) (fun _ => rfl)
  have hrow (r : Fin 128) : MeetKept s (modCore s n (fun c => { c with vatPsn := setRow c.vatPsn r true })) n :=
    meetKept_modCore s n (fun _ => rfl) (fun _ => rfl) (fun _ => rfl)
  unfold meetErr
  split
  · split
    · exact hs
    · exact meetKept_appraise (hcount _ _ _) _ _
  · split
    · exact meetKept_appraise (hseg _ _) _ _
    · exact hs
  · exact meetKept_appraise (hcount _ _ _) _ _
  · exact meetKept_appraise (hrow _) _ _
  · exact hs

/-- An effect that completes, traps, faults or holds. -/
def IsPlain (e : Eff) : Prop := (∃ t, e = .done t) ∨ (∃ t x, e = .trap t x) ∨ (∃ x, e = .fault x) ∨ ∃ t, e = .hold t

/-- A function whose every effect is such. -/
def Plain (f : State → Eff) : Prop := ∀ s, IsPlain (f s)

/-- An instruction that issues on the vector unit and reads the registers `rs` and perhaps a Vat row: what it does there
is the same whatever error its read meets. -/
def VecForm (n : CoreId) (mk : Guard → Instr) (rs : List VNum) (row : Option (Fin 128)) : Prop :=
  ∀ g : Guard, ∃ f : State → Eff, Plain f ∧
    (∀ s, exec (mk g) s = .next (issueCore n (mk g) 2 (withErr n g.err rs row f) s)) ∧
    ∀ s, exec (mk { g with err := .none }) s = .next (issueCore n (mk { g with err := .none }) 2 (withErr n .none rs row f) s)

theorem not_run_holdFor (s : State) (n : CoreId) (i : Instr) : (coreAt (holdFor s n i) n).state ≠ .run := by
  rw [holdFor, coreAt_modCore]
  exact fun h => by cases h

/-- An instruction that goes on after it has issued: what it does completes. -/
theorem done_of_runs {n : CoreId} {i : Instr} {f : State → Eff} (hf : Plain f) {rs : List VNum} {row : Option (Fin 128)} {s : State}
    (hp : (coreAt s n).launchPend = false)
    (hret : (coreAt (issueCore n i 2 (withErr n .none rs row f) s) n).retired = (coreAt s n).retired + 1)
    (hrun : (coreAt (issueCore n i 2 (withErr n .none rs row f) s) n).state = .run) : ∃ u, f s = .done u ∧
      issueCore n i 2 (withErr n .none rs row f) s = retireAt n ((coreAt s n).pc + 8) u := by
  unfold issueCore at hret hrun ⊢
  rw [disarm_of_unarmed hp] at hret hrun ⊢
  split at hret
  case isFalse => exact absurd hret (by simp)
  case isTrue hc =>
    rw [if_pos hc] at hrun ⊢
    dsimp only at hrun hret ⊢
    split at hrun
    · exact absurd hrun (not_run_takeExc _ _ _ _ _ _ _)
    · exact absurd hrun (not_run_holdFor _ _ _)
    · split at hrun
      · exact absurd hrun (not_run_takeExc _ _ _ _ _ _ _)
      case isFalse hl =>
        rw [withErr_none] at hrun ⊢
        rcases hf s with ⟨t, h⟩ | ⟨t, x, h⟩ | ⟨x, h⟩ | ⟨t, h⟩
        · rw [h, if_neg hl]
          exact ⟨t, rfl, rfl⟩
        · rw [h] at hrun
          exact absurd hrun (not_run_takeExc _ _ _ _ _ _ _)
        · rw [h] at hrun
          exact absurd hrun (not_run_takeExc _ _ _ _ _ _ _)
        · rw [h] at hrun
          exact absurd hrun (not_run_holdFor _ _ _)

/-- An error met does not stop an instruction that goes on; an uncorrectable one traps once it has completed. -/
theorem VecForm.errors {n : CoreId} {mk : Guard → Instr} {rs : List VNum} {row : Option (Fin 128)} (hf : VecForm n mk rs row) {g : Guard}
    {s t : State} (hp : (coreAt s n).launchPend = false) (hr : Ready (.core n) (mk g) s)
    (ht : exec (mk { g with err := .none }) (meetErr n g.err rs row s) = .next t)
    (hret : (coreAt t n).retired = (coreAt s n).retired + 1) (hrun : (coreAt t n).state = .run) :
    exec (mk g) s = .next (if ueMet g.err rs row then takeExc t n vecUe 2 false (coreAt s n).pc ((coreAt s n).pc + 8) else t) := by
  obtain ⟨f, hplain, hg, h0⟩ := hf g
  have hk := meetErr_kept n g.err rs row s
  rw [h0, Host.Outcome.next.injEq] at ht
  subst ht
  obtain ⟨u, hu, hissue⟩ := done_of_runs hplain (hk.pend.trans hp) (hret.trans (by rw [hk.retired])) hrun
  rw [hk.pc] at hissue
  rw [hissue, hg]
  have heff (r : Eff) (h : withErr n g.err rs row f s = r) : withErr n g.err rs row f (disarm s n) = r := by
    rw [disarm_of_unarmed hp, h]
  by_cases hue : ueMet g.err rs row = true
  · rw [issueCore_trap hr (t := u) (x := vecUe) (heff _ (by rw [withErr, hu]; exact if_pos hue)), if_pos hue]
    rfl
  · rw [issueCore_done hr (t := u) (heff _ (by rw [withErr, hu]; exact if_neg hue)), if_neg hue]
    rfl

/-! ### Each instruction of the vector unit, and ostep -/

theorem plain_done (f : State → State) : Plain (fun s => .done (f s)) := fun s => .inl ⟨f s, rfl⟩

section forms
variable {n : CoreId} {mk : Guard → Instr} {rs : List VNum} {fmt : Fmt} {vd : VNum}

theorem vecForm {row : Option (Fin 128)} {f : Guard → CoreId → State → Eff}
    (h : ∀ g s, exec (mk g) s = .next (issueV (.core n) (mk g) g rs row (f g) s)) (hp : ∀ g, Plain (f g n))
    (hf : ∀ g, f { g with err := .none } n = f g n) : VecForm n mk rs row := fun g =>
  ⟨f g n, hp g, h g, fun s => by rw [h, ← hf g]; rfl⟩

/-- What `fpOp` does at issue. -/
def fpEff (n : CoreId) (g : Guard) (fmt : Fmt) (vd : VNum) (f : CoreId → State → Nat → Nat × Fl) (src : CoreId → State → Nat → Bool)
    (s : State) : State :=
  let w := fmtBits fmt
  let on := guardOn n g s w
  let res := ((List.range (16384 / w)).filter on).map (fun k => (k, f n s k))
  let fls := res.map (fun r => (r.1, r.2.2))
  vecEvents n 1 (allFlags fls) (firstEvent fls) (res.map (fun r => decodeElem fmt r.2.1)) (coreAt s n).pc
    (commitV n vd w on (fun k => (f n s k).1) (src n s) s)

theorem fpForm {f : CoreId → State → Nat → Nat × Fl} {src : CoreId → State → Nat → Bool}
    (h : ∀ g s, exec (mk g) s = .next (fpOp (.core n) (mk g) g rs fmt vd f src s)) : VecForm n mk rs none :=
  vecForm (f := fun g n s => .done (fpEff n g fmt vd f src s)) h (fun _ => plain_done _) fun _ => rfl

theorem bitsForm {f : CoreId → State → Nat → Nat} {src : CoreId → State → Nat → Bool}
    (h : ∀ g s, exec (mk g) s = .next (bitsOp (.core n) (mk g) g rs fmt vd f src s)) : VecForm n mk rs none :=
  vecForm (f := fun g n s => .done (commitV n vd (fmtBits fmt) (guardOn n g s (fmtBits fmt)) (f n s) (src n s) s)) h
    (fun _ => plain_done _) fun _ => rfl

end forms

section plain
variable {a b : Eff}

theorem isPlain_done (t : State) : IsPlain (.done t) := .inl ⟨t, rfl⟩
theorem isPlain_trap (t : State) (x : Exc) : IsPlain (.trap t x) := .inr (.inl ⟨t, x, rfl⟩)
theorem isPlain_fault (x : Exc) : IsPlain (.fault x) := .inr (.inr (.inl ⟨x, rfl⟩))
theorem isPlain_hold (t : State) : IsPlain (.hold t) := .inr (.inr (.inr ⟨t, rfl⟩))

theorem isPlain_ite {c : Prop} [Decidable c] (ha : IsPlain a) (hb : IsPlain b) : IsPlain (if c then a else b) := by
  split
  · exact ha
  · exact hb

theorem isPlain_onGallery {n : CoreId} {s : State} {f : Gal → Eff} (h : ∀ gal, IsPlain (f gal)) : IsPlain (onGallery n s f) := by
  unfold onGallery
  split
  · exact isPlain_done s
  · exact h _

end plain

section one
variable (n : CoreId)

theorem vcmp_form (fmt : Fmt) (cc : VRel) (pd : PReg) (va vb : VNum) :
    VecForm n (fun g => .vcmp (.core n) g fmt cc pd va vb) [va, vb] none :=
  vecForm (fun _ _ => rfl) (fun _ _ => isPlain_ite (isPlain_fault _) (isPlain_done _)) fun _ => rfl

theorem vext_form (fmt : Fmt) (sa : SReg) (va : VNum) (idx : BitVec 12) :
    VecForm n (fun g => .vext (.core n) g fmt sa va idx) [va] none :=
  vecForm (fun _ _ => rfl)
    (fun _ _ => isPlain_ite (isPlain_done _) (isPlain_ite (isPlain_fault _) (isPlain_done _))) fun _ => rfl

theorem vcvt_form (dst src : Fmt) (rm : RmField) (sat mx : Bool) (vd va vc : VNum) :
    VecForm n (fun g => .vcvt (.core n) g dst src rm sat mx vd va vc) [va] none :=
  vecForm (fun _ _ => rfl) (fun _ _ => isPlain_done _) fun _ => rfl

theorem vred_form (fmt : Fmt) (rm : RmField) (fn : RedFn) (vd va : VNum) :
    VecForm n (fun g => .vred (.core n) g fmt rm fn vd va) [va] none :=
  vecForm (fun _ _ => rfl) (fun _ _ => isPlain_ite (isPlain_done _) (isPlain_done _)) fun _ => rfl

theorem vcred_form (fmt : Fmt) (op : CredOp) (vd vc va : VNum) :
    VecForm n (fun g => .vcred (.core n) g fmt op false vd vc va) [va] none :=
  vecForm (fun _ _ => rfl) (fun _ _ => isPlain_done _) fun _ => rfl

theorem vld_form (fmt : Fmt) (vd : VNum) (sa : SReg) (off : BitVec 12) :
    VecForm n (fun g => .vld (.core n) g fmt .none vd sa off) [] none :=
  vecForm (fun _ _ => rfl) (fun _ _ => isPlain_ite (isPlain_fault _) (isPlain_done _)) fun _ => rfl

theorem vst_form (fmt : Fmt) (vd : VNum) (sa : SReg) (off : BitVec 12) :
    VecForm n (fun g => .vst (.core n) g fmt vd sa off) [vd] none :=
  vecForm (fun _ _ => rfl)
    (fun _ _ => isPlain_ite (isPlain_fault _) (isPlain_ite (isPlain_hold _) (isPlain_done _))) fun _ => rfl

theorem vrdvat_form (fmt : Fmt) (vd : VNum) (row : Fin 128) :
    VecForm n (fun g => .vrdvat (.core n) g fmt vd row) [] (some row) :=
  vecForm (fun _ _ => rfl) (fun _ _ => isPlain_ite (isPlain_hold _) (isPlain_done _)) fun _ => rfl

theorem vwrvat_form (fmt : Fmt) (vd : VNum) (row : Fin 128) :
    VecForm n (fun g => .vwrvat (.core n) g fmt vd row) [vd] none :=
  vecForm (fun _ _ => rfl) (fun _ _ => isPlain_ite (isPlain_hold _) (isPlain_done _)) fun _ => rfl

theorem ostep_form (fmt : Fmt) (alg : OptAlg) (sa : SReg) (va : VNum) :
    VecForm n (fun g => .ostep (.core n) g fmt alg sa va) [va] none :=
  vecForm (fun _ _ => rfl) (fun _ _ => isPlain_onGallery fun _ => isPlain_ite (isPlain_fault _) (isPlain_ite (isPlain_hold _)
    (isPlain_ite (isPlain_trap _ _) (isPlain_done _)))) fun _ => rfl

end one

/-! ### The clauses of VectorMemory -/

section memory
variable (n : CoreId) (g : Guard) (fmt : Fmt) (vd : VNum) (sa : SReg) (off : BitVec 12) (s : State)

/-- Where the lines of a vector access lie, and the state that has logged it. -/
theorem vecPlace {ea pa : Nat} {i : Instr}
    (hw : (2 ^ 48 ≤ ea ∧ ea + 2048 ≤ 2 ^ 48 + 0x600000) ∨ (2 ^ 49 ≤ ea ∧ ea + 2048 ≤ 2 ^ 49 + 0x1000000))
    (hpa : pa = if 2 ^ 48 ≤ ea ∧ ea + 2048 ≤ 2 ^ 48 + 0x600000 then caskBase n.val + (ea - 2 ^ 48)
      else reserveBase (n.val / 8) + (ea - 2 ^ 49)) :
    sramAt n ea = pa ∧
    logSram s n i ea = if 2 ^ 48 ≤ ea ∧ ea + 2048 ≤ 2 ^ 48 + 0x600000 then s else logReserve s n i [] := by
  subst hpa
  by_cases hc : 2 ^ 48 ≤ ea ∧ ea + 2048 ≤ 2 ^ 48 + 0x600000
  · rw [if_pos hc, if_pos hc]
    exact ⟨sramAt_cask hc.1 (by omega), logSram_below (by omega) _ _ _⟩
  · rw [if_neg hc, if_neg hc]
    have hr := hw.resolve_left hc
    exact ⟨sramAt_reserve hr.1 (by omega), logSram_reserve hr.1 (by omega) _ _ _⟩

/-- The poison that a vector store leaves on its lines. -/
theorem vecLines_marks {w pa : Nat} (hw : w = 4 ∨ w = 8 ∨ w = 16 ∨ w = 32) : ∀ k < 32,
    (vecLines n g w vd pa s 32 s.mem).poison.contains (pa / 64 + k) =
      if ∃ i < 16384 / w, (512 * k ≤ i * w ∧ i * w < 512 * k + 512) ∧ governs n g w s i = true then
        (if (coreAt s n).vpsn[vd].getLsbD k then true
         else if ∃ i < 16384 / w, (512 * k ≤ i * w ∧ i * w < 512 * k + 512) ∧ governs n g w s i = false then
           s.mem.poison.contains (pa / 64 + k)
         else false)
      else s.mem.poison.contains (pa / 64 + k) := by
  intro k hk
  have hnone : (k < 32 ∧ ¬(segElems w k).all (fun i => !governs n g w s i) = true) ↔
      ∃ i < 16384 / w, (512 * k ≤ i * w ∧ i * w < 512 * k + 512) ∧ governs n g w s i = true := by
    rw [and_iff_right hk, segElems_none hw hk]
  simp only [vecLines_poison, hnone, ← segElems_all hw hk, ite_not]

end memory

section clauses
variable (n : CoreId) (s : State)

/-- The instructions whose reads may meet an error, with what each reads. -/
theorem vecForms (fmt dst src : Fmt) (rm : RmField) (fn : ActFn) (cc : VRel) (rf : RedFn) (op : CredOp) (alg : OptAlg)
    (b1 b2 : Bool) (vd va vb vc : VNum) (pd pn : PReg) (sa : SReg) (off : BitVec 12) (row : Fin 128) :
    let h : Hart := .core n
    ∀ f ∈ ([(fun g => .vadd h g fmt rm vd va vb, [va, vb], none), (fun g => .vsub h g fmt rm vd va vb, [va, vb], none),
       (fun g => .vmul h g fmt rm vd va vb, [va, vb], none), (fun g => .vfma h g fmt rm vd va vb, [va, vb, vd], none),
       (fun g => .vmin h g fmt vd va vb, [va, vb], none), (fun g => .vmax h g fmt vd va vb, [va, vb], none),
       (fun g => .vrcp h g fmt vd va, [va], none), (fun g => .vrsqrt h g fmt vd va, [va], none),
       (fun g => .vsqrt h g fmt rm vd va, [va], none), (fun g => .vact h g fmt rm fn vd va, [va], none),
       (fun g => .vactd h g fmt rm fn b1 vd va vb, [va, vb], none), (fun g => .vmuls h g fmt rm vd va sa, [va], none),
       (fun g => .vcmp h g fmt cc pd va vb, [va, vb], none), (fun g => .vsel h g fmt vd va vb pn, [va, vb], none),
       (fun g => .vcvt h g dst src rm b1 b2 vd va vc, [va], none), (fun g => .vand h g fmt vd va vb, [va, vb], none),
       (fun g => .vor h g fmt vd va vb, [va, vb], none), (fun g => .vxor h g fmt vd va vb, [va, vb], none),
       (fun g => .vshl h g fmt vd va vb, [va, vb], none), (fun g => .vshr h g fmt b1 vd va vb, [va, vb], none),
       (fun g => .viadd h g fmt vd va vb, [va, vb], none), (fun g => .vbcast h g fmt vd sa, [], none),
       (fun g => .vext h g fmt sa va off, [va], none), (fun g => .vperm h g fmt vd va vb, [va, vb], none),
       (fun g => .vred h g fmt rm rf vd va, [va], none), (fun g => .vcred h g fmt op false vd vc va, [va], none),
       (fun g => .vld h g fmt .none vd sa off, [], none), (fun g => .vst h g fmt vd sa off, [vd], none),
       (fun g => .vrdvat h g fmt vd row, [], some row), (fun g => .vwrvat h g fmt vd row, [vd], none),
       (fun g => .vidx h g fmt vd, [], none), (fun g => .ostep h g fmt alg sa va, [va], none)] :
        List ((Guard → Instr) × List VNum × Option (Fin 128))), VecForm n f.1 f.2.1 f.2.2 := by
  simp only [List.forall_mem_cons]
  refine ⟨fpForm fun _ _ => rfl, fpForm fun _ _ => rfl, fpForm fun _ _ => rfl, fpForm fun _ _ => rfl, fpForm fun _ _ => rfl,
    fpForm fun _ _ => rfl, fpForm fun _ _ => rfl, fpForm fun _ _ => rfl, fpForm fun _ _ => rfl, fpForm fun _ _ => rfl,
    fpForm fun _ _ => rfl, fpForm fun _ _ => rfl, vcmp_form n fmt cc pd va vb, bitsForm fun _ _ => rfl,
    vcvt_form n dst src rm b1 b2 vd va vc, bitsForm fun _ _ => rfl, bitsForm fun _ _ => rfl, bitsForm fun _ _ => rfl,
    bitsForm fun _ _ => rfl, bitsForm fun _ _ => rfl, bitsForm fun _ _ => rfl, bitsForm fun _ _ => rfl,
    vext_form n fmt sa va off, bitsForm fun _ _ => rfl, vred_form n fmt rm rf vd va, vcred_form n fmt op vd vc va,
    vld_form n fmt vd sa off, vst_form n fmt vd sa off, vrdvat_form n fmt vd row, vwrvat_form n fmt vd row,
    bitsForm fun _ _ => rfl, ostep_form n fmt alg sa va, fun _ h => absurd h List.not_mem_nil⟩

/-- An error met that raises SRAM_UE. -/
theorem ueMet_iff (e : RegErr) (rs : List VNum) (row : Option (Fin 128)) :
    ueMet e rs row = true ↔ (∃ r k, e = .ue r k ∧ r ∈ rs) ∨ (e = .rowUe ∧ row ≠ none) := by
  cases e <;> simp [ueMet, Option.isSome_iff_ne_none]

/-- What an error of a register read counts, marks and scores. -/
theorem meetErr_reads (rs : List VNum) (va : VNum) :
    meetErr n .none rs none s = s ∧
    (rs ≠ [] → meetErr n .ce rs none s = appraise (counted (fincr s (vecReg n.val 0x60) 31 0 1)) (0x110 + n.val / 8) 1) ∧
    (∀ k, va ∈ rs → meetErr n (.ue va k) rs none s = appraise (poisonSeg n va k s) (0x110 + n.val / 8) 1024) ∧
    (∀ k, va ∉ rs → meetErr n (.ue va k) rs none s = s) :=
  ⟨rfl, fun h => if_neg h, fun _ h => if_pos (List.contains_iff_mem.mpr h), fun _ h => if_neg (mt List.contains_iff_mem.mp h)⟩

end clauses

/-- Settles O18: a vector load or store moves the governed elements of its 2,048 bytes line by line, a Vat row moves
whole, and an error of a read is met before the same effect. -/
theorem vectorMemory : Obligations.VectorMemory := by
  unfold Obligations.VectorMemory
  refine ⟨⟨?_, ?_⟩, ?_⟩
  · intro n g fmt vd sa off s pa he h w on ea pc ld st cask reserve
    refine ⟨fun hbad => ?_, fun hal hw hpa => ?_⟩
    · have hbad' : ¬(ea % 64 = 0 ∧ (cask ∨ reserve)) := fun hc => hbad.elim (fun h => h hc.1) (fun h => h hc.2)
      exact ⟨vld_address he rfl hbad', vst_address he rfl hbad'⟩
    · have hok : vecAddrOk ea 2048 = true := (vecAddrOk_iff ea).mpr ⟨hal, hw⟩
      obtain ⟨hat, hlogl⟩ := vecPlace n s (i := ld) hw hpa
      obtain ⟨_, hlogs⟩ := vecPlace n s (i := st) hw hpa
      have hwid := fmtBits_width fmt
      obtain ⟨v, p, hv, hg⟩ := vld_done (fmt := fmt) (vd := vd) he (rfl : _ = ea) hok
      rw [hat] at hv
      rw [hlogl] at hg
      refine ⟨⟨v, p, hv, hg⟩, fun hq => vst_hold he rfl hok hq, fun hq => ?_⟩
      have hst := vst_done (fmt := fmt) (vd := vd) he (rfl : _ = ea) hok hq
      rw [hat, hlogs] at hst
      exact ⟨vecLines n g w vd pa s 32 s.mem, fun a ha => vecLines_outside ha, fun hd b hb => vecLines_inside hwid hd hb,
        vecLines_marks n g vd s hwid, vecLines_dead 32, vecLines_ways 32, hst⟩
  · intro n g vd row s he h on c rd wr
    refine ⟨fun hq => vat_hold he hq, fun hq => ⟨vrdvat_done he hq, ?_⟩⟩
    obtain ⟨hset, hclear, hkeep⟩ := rowPsn_write (n := n) (g := g) (vd := vd) (row := row) (s := s)
    refine ⟨_, _, fun i hi => ?_, fun r hr => ?_, fun hp => ?_, fun hp => ?_, fun hp hoff => ?_,
      vwrvat_done he hq⟩
    · have hlt (x : VReg) : elemOf 32 x i < 2 ^ 32 := Nat.mod_lt _ (Nat.two_pow_pos 32)
      rw [elemOf_vecOf (.inr (.inr (.inr rfl))) _ hi]
      refine Nat.mod_eq_of_lt ?_
      split <;> exact hlt _
    · rw [getLsbD_setRow, if_neg hr]
    · rw [getLsbD_setRow, if_pos rfl, hset hp]
    · rw [getLsbD_setRow, if_pos rfl, hclear hp]
    · rw [getLsbD_setRow, if_pos rfl, hkeep hp hoff]
  · intro n g fmt dst src rm fn cc rf op alg b1 b2 vd va vb vc pd pn sa off row s h forms clu count
    refine ⟨?_, fun rs => meetErr_reads n s rs va, rfl, rfl⟩
    intro f hf _ hp hr m met t ht hret hrun
    have he := (vecForms n fmt dst src rm fn cc rf op alg b1 b2 vd va vb vc pd pn sa off row f hf).errors hp hr ht hret hrun
    have hmet : ueMet g.err f.2.1 f.2.2 = true ↔ met := ueMet_iff _ _ _
    refine ⟨fun hn => ?_, fun hy => ?_⟩
    · rw [he, if_neg (hmet.not.mpr hn)]
    · rw [he, if_pos (hmet.mpr hy)]
      rfl

end Sys2Proof.Machine
end

section
/-! PROOFS. Acceptance of the collective instructions (O26). -/

namespace Sys2Proof.Machine

/-! ### A collective queue that runs arms no launch (R60, R306 to R324) -/

/-- What follows leaves the cores alone. -/
theorem Idles.after {n : CoreId} {s t u : State} (hc : u.cores = t.cores) (h : Idles n s t) : Idles n s u := h.trans (.of_cores hc)

section idles
variable {n : CoreId} (s : State) (g : Gal) (q : Fin 16) (o : CollOp) (t : Task)

theorem injectNoted_cores (p : Packet) (c : Option CodecNote) : (injectNoted s p c).cores = s.cores := by
  rw [injectNoted]
  split <;> rfl

theorem setCq_cores (x : CQueue) : (setCq s g q x).cores = s.cores := rfl

theorem modOp_cores (num : Nat) (f : CollOp → CollOp) : (modOp s g q num f).cores = s.cores := rfl

theorem sealMark_cores (r : BitVec 8) (sw : Option (BitVec 8)) : (sealMark s g r sw).cores = s.cores := rfl

theorem collFail_cores (st : Nat) : (collFail s g q o st).cores = s.cores :=
  (collEnd_cores _ g q o st).trans (abortOp_cores s g q.val o st)

theorem sendNoted_cores (num : Nat) (ps : List Packet) (c : Option CodecNote) : (sendNoted s g q num ps c).cores = s.cores :=
  foldl_cores _ (fun s _ => (injectNoted_cores _ _ c).trans (modOp_cores s g q num _)) _ s

theorem usePackets_cores (num : Nat) (ps : List (PortId × Packet)) : (usePackets s g q num ps).cores = s.cores :=
  foldl_cores _ (fun s _ => (inject_cores _ _).trans (modOp_cores s g q num _)) _ s

theorem collPoison_cores (num : Nat) (psn : Bool) : (collPoison s g q num psn).cores = s.cores := by
  unfold collPoison
  split
  · exact (sealMark_cores _ g _ _).trans (modOp_cores s g q num _)
  · rfl

theorem codecCount_cores (port : Nat) (e : Enc) : (codecCount s port e).cores = s.cores := by
  unfold codecCount
  split <;> rfl

theorem showStall_cores (i : Fin 4) : (showStall s i).cores = s.cores := by
  unfold showStall
  split <;> rfl

theorem addStall_cores (r : WalkReq) (a : Nat) (write fetch : Bool) (k : Nat) : (addStall s r g a write fetch k).cores = s.cores := by
  unfold addStall
  dsimp only
  split <;> rfl

theorem taskDone_cores (num i : Nat) : (taskDone s g q num i).cores = s.cores := modOp_cores s g q num _

theorem passOn_cores (phase : Nat) (bs : List Byte) (psn : Bool) : (passOn s g q o t phase bs psn).cores = s.cores := by
  unfold passOn
  split <;> rfl

theorem writeChunk_cores (cl : Nat) (d : Tile) (e0 k : Nat) (bs : List Byte) (psn : Bool) :
    (writeChunk s g cl d e0 k bs psn).cores = s.cores := rfl

theorem nanMeet_idles (m : CoreId) (unit cls cause kstep port col row : Nat) (pc : Word) :
    Idles n s (nanMeet s g m unit cls cause kstep port col row pc) := by
  unfold nanMeet
  dsimp only
  exact .ite (.of_cores (sealMark_cores s g _ _))
    (.trans (.of_cores (t := modGal (sealMark s g rsnNan none) g _) rfl) (.modCore _ m (fun _ h => h) fun _ h => h))

theorem collNan_idles (unit step port : Nat) (ch : Chunk) (evs : List (Nat × Nat)) : Idles n s (collNan s g o unit step port ch evs) := by
  unfold collNan
  split
  · exact .refl
  · exact nanMeet_idles s g _ _ _ _ _ _ _ _ _

theorem writePayload_idles (port : Nat) (bs : List Byte) (psn : Bool) : Idles n s (writePayload s g o t port bs psn) := by
  unfold writePayload
  split
  · exact .trans (.of_cores (writeChunk_cores s g _ _ _ _ _ _)) (collNan_idles _ g o _ _ _ _ _)
  · exact .of_cores (writeChunk_cores s g _ _ _ _ _ _)

/-- A slice with one more stalled operation. -/
def sliceStalled (s : State) (g : Gal) (q : Fin 16) (o : CollOp) (k : SliceStall) : State :=
  let t := modOp s g q o.num (fun x => { x with stalled := true })
  { t with slices := t.slices.set (sliceOf q) (t.slices[sliceOf q] ++ [k]) }

theorem sliceStalled_cores (k : SliceStall) : (sliceStalled s g q o k).cores = s.cores := rfl

theorem sliceFault_eq (cls a : Nat) (write : Bool) : ∃ e, sliceFault s g q o cls a write =
    report (showStall (sliceStalled s g q o ⟨g, q, cls, write, a⟩) (sliceOf q)) e := by
  unfold sliceFault
  exact ⟨_, rfl⟩

theorem sliceFault_idles (cls a : Nat) (write : Bool) : Idles n s (sliceFault s g q o cls a write) := by
  obtain ⟨e, he⟩ := sliceFault_eq s g q o cls a write
  rw [he]
  exact .trans (.after (showStall_cores _ _) (.of_cores (sliceStalled_cores s g q o _))) (report_idles _ _)

theorem taskStop_idles (x : Xlate × Nat × Bool) : Idles n s (taskStop s g q o x) := by
  unfold taskStop
  split
  · exact .of_cores (collFail_cores s g q o _)
  · exact .trans (.of_cores (collFail_cores s g q o _)) (report_idles _ _)
  · exact .of_cores (addStall_cores s g _ _ _ _ _)
  · exact sliceFault_idles s g q o _ _ _

/-- The end of a task that has gone on: its poison reported, its packets used. -/
theorem taskEnd_cores (num i : Nat) (psn : Bool) (ps : List (PortId × Packet)) :
    (taskDone (usePackets (collPoison s g q num psn) g q num ps) g q num i).cores = s.cores :=
  (taskDone_cores _ g q num i).trans ((usePackets_cores _ g q num ps).trans (collPoison_cores s g q num psn))

theorem doContrib_idles (i : Nat) : Idles n s (doContrib s g q o i t) := by
  unfold doContrib
  refine .ite .refl ?_
  split
  · exact taskStop_idles s g q o _
  · exact .of_cores ((taskDone_cores _ g q _ i).trans ((sendNoted_cores _ g q _ _ _).trans (collPoison_cores s g q _ _)))

theorem doCombine_idles (i : Nat) : Idles n s (doCombine s g q o i t) := by
  have hcodec (p : Prop) [Decidable p] (port : Nat) (e : Enc) : Idles n s (if p then codecCount s port e else s) :=
    .ite (.of_cores (codecCount_cores s port e)) .refl
  have hwrite (u : State) (p : Prop) [Decidable p] (port : Nat) (bs : List Byte) (psn : Bool) :
      Idles n u (if p then writePayload u g o t port bs psn else u) := .ite (writePayload_idles u g o t port bs psn) .refl
  unfold doCombine
  split
  · exact .refl
  · dsimp only
    split
    · exact taskStop_idles s g q o _
    · refine .after (taskEnd_cores _ g q _ i _ _) (.after (passOn_cores _ g q o t _ _ _) ?_)
      exact .trans (.trans (hcodec _ _ _) (collNan_idles _ g o _ _ _ _ _)) (hwrite _ _ _ _ _)

theorem doTake_idles (i : Nat) : Idles n s (doTake s g q o i t) := by
  unfold doTake
  split
  · exact .refl
  · dsimp only
    split
    · exact taskStop_idles s g q o _
    · exact .after (taskEnd_cores _ g q _ i _ _) (.after (passOn_cores _ g q o t _ _ _) (writePayload_idles s g o t _ _ _))

theorem doPush_idles (i : Nat) : Idles n s (doPush s g q o i t) := by
  unfold doPush
  refine .ite .refl ?_
  split
  · exact taskStop_idles s g q o _
  · exact .of_cores ((taskDone_cores _ g q _ i).trans ((sendNoted_cores _ g q _ _ _).trans (collPoison_cores s g q _ _)))

theorem doCopy_idles (i : Nat) : Idles n s (doCopy s g q o i t) := by
  unfold doCopy
  split
  · exact taskStop_idles s g q o _
  · dsimp only
    exact .after (taskDone_cores _ g q _ i) (.after (collPoison_cores _ g q _ _) (.after (passOn_cores _ g q o t _ _ _)
      (.after (writeChunk_cores _ g _ _ _ _ _ _) (collNan_idles s g o _ _ _ _ _))))

theorem attempt_idles (num : Nat) (it : Nat × Task) : Idles n s (attempt g q num s it) := by
  unfold attempt
  split
  · exact .refl
  · refine .ite .refl ?_
    split
    · exact doContrib_idles s g q _ _ _
    · exact doCombine_idles s g q _ _ _
    · exact doTake_idles s g q _ _ _
    · exact doPush_idles s g q _ _ _
    · exact doCopy_idles s g q _ _ _

theorem flushHeld_cores (num : Nat) : (flushHeld s g q num).cores = s.cores := by
  unfold flushHeld
  split
  · rfl
  · exact (sendNoted_cores _ g q _ _ _).trans (modOp_cores s g q _ _)

theorem runHead_idles : Idles n s (runHead s g q o) := by
  unfold runHead
  dsimp only
  exact .trans (.of_cores (modOp_cores s g q _ _)) (.trans (.foldl _ (fun u it => attempt_idles u g q _ it) _ _)
    (.of_cores (flushHeld_cores _ g q _)))

theorem pump_idles (fuel : Nat) (s : State) : Idles n s (pump fuel s g q) := by
  induction fuel generalizing s with
  | zero => exact .refl
  | succ fuel ih =>
    unfold pump
    split
    · exact .refl
    · exact .ite (runHead_idles s g q _) ((runHead_idles s g q _).trans (ih _))

theorem sendReady_cores : (sendReady s g q o).cores = s.cores := foldl_cores _ (fun s _ => inject_cores s _) _ s

theorem applyReady_cores (num from_ : Nat) (sig : BitVec 32) : (applyReady s g q num from_ sig).cores = s.cores := by
  unfold applyReady
  split
  · rfl
  · split
    · rfl
    · exact collFail_cores s g q _ _

theorem pumpQ_idles : Idles n s (pumpQ s g q) := by
  unfold pumpQ
  exact pump_idles g q 33 s

theorem collAccept_eq : ∃ t, t.cores = s.cores ∧ collAccept s g q o = pumpQ t g q := by
  unfold collAccept
  refine ⟨_, ?_, rfl⟩
  exact (foldl_cores _ (fun u _ => applyReady_cores u g q _ _ _) _ _).trans ((sendReady_cores _ g q _).trans (setCq_cores s g q _))

theorem collAccept_idles : Idles n s (collAccept s g q o) := by
  obtain ⟨t, hc, ht⟩ := collAccept_eq s g q o
  rw [ht]
  exact .trans (.of_cores hc) (pumpQ_idles t g q)

end idles

/-! ### What a collective instruction does at issue (R101 to R103, R308 to R318) -/

section request
variable (n : CoreId) (g : Gal) (r : CollReq) (s : State)

/-- The elements of an operand that the instruction names. -/
def reqCount (x : Option TReg) : Nat := if x.isSome then (tileOf (reqDesc n s x)).count else 0

/-- The register number of an operand. -/
def reqReg (x : Option TReg) : Nat := (x.map (fun y => y.val)).getD 0

/-- The checks that need no counts. -/
def collFails : List (Nat × Nat) :=
  let a := tileOf (reqDesc n s r.ta)
  let b := tileOf (reqDesc n s r.tb)
  let fa := if r.ta.isSome then a.format else b.format
  let fb := if r.tb.isSome then b.format else a.format
  (if r.ta.isSome then collChecks (reqReg r.ta) (reqDesc n s r.ta) else [])
    ++ (if r.tb.isSome then collChecks (reqReg r.tb) (reqDesc n s r.tb) else [])
    ++ (if r.kind = .barrier ∨ collPair (decide (r.kind = .allreduce ∨ r.kind = .reducescatter)) r.fn fa fb = true then []
      else (if r.ta.isSome then [(8, reqReg r.ta)] else []) ++ (if r.tb.isSome then [(8, reqReg r.tb)] else []))
    ++ (if r.kind = .bcast ∧ galRing s g r.fn.axis.val ≤ (getS (.core n) r.sb s).toNat then [(0xB, 0)] else [])
    ++ evenCheck r a b (reqCount n s r.ta) (reqCount n s r.tb)

/-- The address of a count vector, and the counts. -/
def collVec : Nat := (getS (.core n) r.sa s).toNat
def collCounts : Counts :=
  if r.fn.ragged then readCounts s g (clusterOf n) (collVec n r s) (galRing s g r.fn.axis.val)
  else .ok (plainCounts r (tileOf (reqDesc n s r.ta)) (tileOf (reqDesc n s r.tb)) (reqCount n s r.ta) (reqCount n s r.tb)
    (galRing s g r.fn.axis.val))

/-- All checks, once the counts are known. -/
def collAllFails (counts : List Nat) : List (Nat × Nat) :=
  collFails n g r s ++ countChecks r (tileOf (reqDesc n s r.ta)) (tileOf (reqDesc n s r.tb)) (reqCount n s r.ta)
    (reqCount n s r.tb) (ringCoord s g r.fn.axis.val) (galRing s g r.fn.axis.val) counts

/-- Does the read of the counts read a line of the Reserve? -/
def collMet : Bool :=
  r.fn.ragged && inReserve (collVec n r s) (collVec n r s + 4 * galRing s g r.fn.axis.val - 1)
    && decide (0 < galRing s g r.fn.axis.val)

/-- The state once the counts are read. -/
def collRead (i : Instr) (err : SramErr) : State :=
  if collMet n g r s then lineMet (logSram s n i (collVec n r s)) n (collVec n r s) err else s

/-- The operation that joins. -/
def collJoins (counts : List Nat) : CollOp :=
  let a := tileOf (reqDesc n s r.ta)
  let b := tileOf (reqDesc n s r.tb)
  let root := (getS (.core n) r.sb s).toNat
  let nn := if r.kind = .recv then reqCount n s r.tb else reqCount n s r.ta
  let lr := galRing s g r.fn.axis.val
  { kind := r.kind, fn := r.fn, minus := r.minus, root := root, core := n, cluster := clusterOf n, pc := (coreAt s n).pc
    ta := reqDesc n s r.ta, tb := reqDesc n s r.tb, counts := counts, n := nn, lr := lr
    c := ringCoord s g r.fn.axis.val, num := 0, opseq := 0, tag := r.tag
    sig := sigOf r a b nn (if r.kind = .bcast then root else 0) lr counts }

/-- What the instruction does with counts that it could read. -/
def collOk (i : Instr) (q : Fin 16) (err : SramErr) (counts : List Nat) : Eff :=
  let t := collRead n g r s i err
  match descFault s (collAllFails n g r s counts) with
  | some x => .fault x
  | none =>
    if collMet n g r s = true ∧ err = .ue then
      .stop (takeExc t n (excPoison (collVec n r s)) 5 true (coreAt s n).pc (coreAt s n).pc)
    else .done (collAccept (logColl t n i [reqDesc n s r.ta, reqDesc n s r.tb]) g q (collJoins n g r s counts))

/-- What the instruction does at a collective queue with room. -/
def collTry (i : Instr) (q : Fin 16) (err : SramErr) : Eff :=
  match collCounts n g r s with
  | .bad => .fault ((descFault s (collFails n g r s ++ [(0xE, 0)])).getD (excDescriptor 0 0xE))
  | .fault x => .fault ((descFault s (collFails n g r s)).getD x)
  | .stall va =>
    match descFault s (collFails n g r s) with
    | some x => .fault x
    | none => .hold (addStall s (.core n) g va false false 0)
  | .ok counts => collOk n g r s i q err counts

/-- What the instruction does at the queue that its handle names. -/
def collEff (i : Instr) (err : SramErr) : QName → Eff
  | .coll q => if 32 ≤ s.gal[g].cq[q].ops.length then .hold s else collTry n g r s i q err
  | _ => .fault excQueue

/-- A collective instruction issues with this effect. -/
theorem acceptColl_core (i : Instr) (qh : QReg) (err : SramErr) : ∃ f : State → Eff,
    (∀ s, acceptColl (.core n) i qh r err s = issueCore n i 5 f s) ∧
    ∀ s g, coreOwner s n = some g → f s = collEff n g r s i err (queueOf s g (coreAt s n).q[qh]) := by
  refine ⟨_, fun _ => rfl, fun s g ho => ?_⟩
  unfold ctxOnly
  dsimp only
  rw [ho]
  dsimp only
  cases queueOf s g (coreAt s n).q[qh] <;> rfl

/-! Disarming a launch changes none of what the instruction reads. -/

theorem reqDesc_disarm (x : Option TReg) : reqDesc n (disarm s n) x = reqDesc n s x := by
  cases x with
  | none => rfl
  | some y => rw [reqDesc, getT, t_disarm]; rfl

theorem reqCount_disarm (x : Option TReg) : reqCount n (disarm s n) x = reqCount n s x := by rw [reqCount, reqDesc_disarm]; rfl

theorem collFails_disarm : collFails n g r (disarm s n) = collFails n g r s := by
  unfold collFails
  simp only [reqDesc_disarm, reqCount_disarm, getS_disarm]
  rfl

theorem collVec_disarm : collVec n r (disarm s n) = collVec n r s := by rw [collVec, getS_disarm]; rfl

theorem collCounts_disarm : collCounts n g r (disarm s n) = collCounts n g r s := by
  unfold collCounts
  simp only [reqDesc_disarm, reqCount_disarm, collVec_disarm]
  rfl

theorem collAllFails_disarm (counts : List Nat) : collAllFails n g r (disarm s n) counts = collAllFails n g r s counts := by
  unfold collAllFails
  simp only [reqDesc_disarm, reqCount_disarm, collFails_disarm]
  rfl

theorem collMet_disarm : collMet n g r (disarm s n) = collMet n g r s := by
  unfold collMet
  simp only [collVec_disarm]
  rfl

theorem collJoins_disarm (counts : List Nat) : collJoins n g r (disarm s n) counts = collJoins n g r s counts := by
  unfold collJoins
  simp only [reqDesc_disarm, reqCount_disarm, getS_disarm, disarm_pc]
  rfl

end request

/-! ### The outcomes of a collective instruction -/

/-- What an instruction gives that retires over a state in which its launch is not pending. -/
theorem gives_retired {n : CoreId} {i : Instr} {cls : Nat} {f : State → Eff} {s t : State}
    (hi : exec i s = .next (issueCore n i cls f s)) (hf : f (disarm s n) = .done t) (hl : (coreAt t n).launchPend = false) :
    Gives (.core n) i s (retired (.core n) ((coreAt s n).pc + 8) t) := by
  intro hr
  have hl' : (coreAt (dropStalls t (.core n)) n).launchPend = false := hl
  rw [hi, issueCore_done hr hf, retireTo_settle, retired_eq, modCore_congr _ _ _ _ ?_]
  simp [endC, retiredCore, hl']

section outcomes
variable {n : CoreId} {i : Instr} {f : State → Eff} {s : State} (hi : exec i s = .next (issueCore n i 5 f s))

include hi in
/-- An instruction whose checks fail raises DESCRIPTOR with the lowest code and a register that fails it. -/
theorem gives_descriptor {l : List (Nat × Nat)} (hne : l ≠ [])
    (hf : ∀ x, descFault (disarm s n) l = some x → f (disarm s n) = .fault x) : ∃ code reg, (code, reg) ∈ l ∧ (∀ x ∈ l, code ≤ x.1) ∧
      Gives (.core n) i s (takeExc (disarm s n) n { code := 7, einfo := mkWord [(0, reg), (8, code)] } 5 true (coreAt s n).pc (coreAt s n).pc) := by
  obtain ⟨x, hx⟩ := Option.ne_none_iff_exists'.mp (mt descFault_eq_none.mp hne)
  obtain ⟨code, reg, hmem, hlow, rfl⟩ := descFault_eq_some hx
  exact ⟨code, reg, hmem, hlow, gives_fault hi (hf _ hx)⟩

include hi in
theorem gives_holdAt {t : State} (hf : f (disarm s n) = .hold t) : Gives (.core n) i s (holdFor t n i) := fun hr => by
  rw [hi, issueCore_hold hr hf]

end outcomes

section tried
variable {n : CoreId} {g : Gal} {r : CollReq} {s : State} {i : Instr} {q : Fin 16} {err : SramErr} {l : List Nat}

theorem collTry_bad (h : collCounts n g r s = .bad) {x : Exc} (hx : descFault (disarm s n) (collFails n g r s ++ [(0xE, 0)]) = some x) :
    collTry n g r (disarm s n) i q err = .fault x := by
  rw [collTry, collCounts_disarm, h, collFails_disarm, hx]
  rfl

theorem collTry_fault {y : Exc} (h : collCounts n g r s = .fault y) :
    collTry n g r (disarm s n) i q err = .fault ((descFault (disarm s n) (collFails n g r s)).getD y) := by
  rw [collTry, collCounts_disarm, h, collFails_disarm]

theorem collTry_stall {va : Nat} (h : collCounts n g r s = .stall va) (h0 : collFails n g r s = []) :
    collTry n g r (disarm s n) i q err = .hold (addStall (disarm s n) (.core n) g va false false 0) := by
  rw [collTry, collCounts_disarm, h, collFails_disarm, h0]
  rfl

theorem collTry_stall_fails {va : Nat} (h : collCounts n g r s = .stall va) {x : Exc}
    (hx : descFault (disarm s n) (collFails n g r s) = some x) : collTry n g r (disarm s n) i q err = .fault x := by
  rw [collTry, collCounts_disarm, h, collFails_disarm, hx]

theorem collTry_ok (h : collCounts n g r s = .ok l) : collTry n g r (disarm s n) i q err = collOk n g r (disarm s n) i q err l := by
  rw [collTry, collCounts_disarm, h]

theorem collOk_fails {x : Exc} (hx : descFault (disarm s n) (collAllFails n g r s l) = some x) :
    collOk n g r (disarm s n) i q err l = .fault x := by
  rw [collOk, collAllFails_disarm, hx]

theorem collOk_poison (h0 : collAllFails n g r s l = []) (hm : collMet n g r s = true ∧ err = .ue) :
    collOk n g r (disarm s n) i q err l =
      .stop (takeExc (collRead n g r (disarm s n) i err) n (excPoison (collVec n r s)) 5 true (coreAt s n).pc (coreAt s n).pc) := by
  rw [collOk, collAllFails_disarm, h0, collMet_disarm, collVec_disarm, disarm_pc]
  exact if_pos hm

theorem collOk_joins (h0 : collAllFails n g r s l = []) (hm : ¬(collMet n g r s = true ∧ err = .ue)) :
    collOk n g r (disarm s n) i q err l =
      .done (collAccept (logColl (collRead n g r (disarm s n) i err) n i [reqDesc n s r.ta, reqDesc n s r.tb]) g q
        (collJoins n g r s l)) := by
  rw [collOk, collAllFails_disarm, h0, collMet_disarm, reqDesc_disarm, reqDesc_disarm, collJoins_disarm]
  exact if_neg hm

theorem logColl_cores (ds : List (BitVec 256)) : (logColl s n i ds).cores = s.cores := by
  rw [logColl]
  split
  · exact cores_logReserve _ _ _ _
  · rfl

theorem collRead_cores (hm : ¬(collMet n g r s = true ∧ err = .ue)) : (collRead n g r s i err).cores = s.cores := by
  have hcount (t : State) (p : Prop) [Decidable p] (o a b c d k : Nat) :
      (counted (if p then fincr t o a b k else fincr t o c d k)).cores = t.cores := by
    split <;> rfl
  unfold collRead
  split
  case isFalse => rfl
  case isTrue h =>
    unfold lineMet
    cases err with
    | none => exact cores_logSram _ _ _ _
    | ce => exact (appraise_cores _ _ _).trans ((hcount _ _ _ _ _ _ _ _).trans (cores_logSram _ _ _ _))
    | ue => exact absurd ⟨h, rfl⟩ hm

/-- No launch is pending once the operation has joined. -/
theorem collAccept_unarmed (hm : ¬(collMet n g r s = true ∧ err = .ue)) (ds : List (BitVec 256)) (o : CollOp) :
    (coreAt (collAccept (logColl (collRead n g r (disarm s n) i err) n i ds) g q o) n).launchPend = false := by
  have hc : (logColl (collRead n g r (disarm s n) i err) n i ds).cores = (disarm s n).cores :=
    (logColl_cores ds).trans (collRead_cores (by rwa [collMet_disarm]))
  have hidle := (Idles.of_cores (n := n) hc).trans (collAccept_idles _ g q o)
  refine Bool.eq_false_iff.mpr fun h => ?_
  have hd : (coreAt (disarm s n) n).launchPend = false := by rw [coreAt_disarm, disarmC]; split <;> simp_all
  rw [hidle.2 h] at hd
  cases hd

end tried

/-! ### READY, shares and the checks of an operand (R308, R311, R316, R318) -/

theorem bits_galleryField {pid gal epoch gen : Nat} (hgal : gal < 8) (hepoch : epoch < 2 ^ 4) (hgen : gen < 256) :
    bits (mkWord [(48, pid), (45, gal), (44, 0), (40, epoch), (32, gen), (8, 0), (0, 2)]) 47 45 = gal := by
  rw [bits_eq_div, mkWord, BitVec.toNat_ofNat]
  simp only [List.foldl_cons, List.foldl_nil, Nat.shiftLeft_eq]
  omega

/-- A control packet of a Gallery names it. -/
theorem gallery_ctrlPacket (s : State) (g : Gal) (dst opseq q axis kind : Nat) (type1 : Word) :
    (ctrlPacket s g dst opseq q axis kind type1 []).gallery = g := by
  have hw : (ctrlPacket s g dst opseq q axis kind type1 []).w0 = mkWord [(48, bits s.catActive.gal[g] 15 0), (45, g.val), (44, 0),
      (40, bits s.catActive.hdr0 3 0), (32, genLow s g), (8, 0), (0, 2)] := rfl
  have hgal := bits_galleryField (pid := bits s.catActive.gal[g] 15 0) g.isLt (bits_lt s.catActive.hdr0 3 0)
    (show genLow s g < 256 from Nat.mod_lt _ (by decide))
  refine Fin.ext ?_
  change bits (ctrlPacket s g dst opseq q axis kind type1 []).w0 47 45 % 8 = g.val
  rw [hw, hgal, Nat.mod_eq_of_lt g.isLt]

section ready
variable (g : Gal) (q : Fin 16) (o : CollOp)

/-- The READY of an operation to ring member `k`. -/
def readyPacket (s : State) (g : Gal) (q : Fin 16) (o : CollOp) (k : Nat) : Packet :=
  ctrlPacket s g (member s g o.fn.axis.val k) o.opseq.toNat q.val o.fn.axis.val 1 (mkWord [(32, o.sig.toNat), (0, o.n)]) []

theorem sendReady_injectq (s : State) (hv : bit s.catActive.gal[g] 63 = true) :
    (sendReady s g q o).injectq = s.injectq ++ o.senders.map (fun k => (readyPacket s g q o k, none)) := by
  have hone (t : State) (k : Nat) (ht : bit t.catActive.gal[g] 63 = true) :
      inject t (readyPacket t g q o k) = { t with injectq := t.injectq ++ [(readyPacket t g q o k, none)] } := by
    have hg : (readyPacket t g q o k).gallery = g := gallery_ctrlPacket t g _ _ _ _ _ _
    simp only [inject, injectNoted, hg, ht, if_true]
  have hall (l : List Nat) : ∀ js : List (Packet × Option CodecNote),
      (l.foldl (fun s k => inject s (readyPacket s g q o k)) { s with injectq := js }).injectq =
        js ++ l.map (fun k => (readyPacket s g q o k, none)) := by
    induction l with
    | nil => simp
    | cons k l ih =>
      intro js
      have hk : inject { s with injectq := js } (readyPacket { s with injectq := js } g q o k) =
        { s with injectq := js ++ [(readyPacket s g q o k, none)] } := hone { s with injectq := js } k hv
      rw [List.foldl_cons, hk, ih, List.map_cons, List.append_assoc]
      rfl
  exact hall o.senders s.injectq

end ready

/-! A kept READY is matched under the Catalogue in which the operation was accepted. -/

theorem inject_catActive (s : State) (p : Packet) : (inject s p).catActive = s.catActive := by
  rw [inject, injectNoted]
  split <;> rfl

theorem note_catActive (s : State) (e : Err) : (note s e).catActive = s.catActive := by rw [note_rest]

theorem foldl_catActive {α : Type} (f : State → α → State) (hf : ∀ s x, (f s x).catActive = s.catActive) (l : List α) (s : State) :
    (l.foldl f s).catActive = s.catActive := by
  induction l generalizing s with
  | nil => rfl
  | cons x l ih => exact (ih _).trans (hf s x)

/-- An operation whose record is written, and whose stalls have ended. -/
def opRecorded (s : State) (g : Gal) (q : Fin 16) (o : CollOp) (st : Nat) : State :=
  let x := s.gal[g].cq[q]
  setCq s g q { x with
    ops := x.ops.filter (fun p => decide (p.num ≠ o.num))
    count := x.count + 1
    records := x.records.set ((o.num + 31) % 32)
      (mkWord [(40, o.tag.toNat), (16, o.num % 2 ^ 24), (15, b1 o.poisoned), (0, st)]) (Nat.mod_lt _ (by decide)) }
def stallsEnded (s : State) (g : Gal) (q : Fin 16) (o : CollOp) : State :=
  { s with slices := s.slices.map (fun l => l.filter (fun k => decide (¬(k.gal = g ∧ k.q = q ∧ o.stalled = true))))
           walker := { s.walker with stalls := s.walker.stalls.filter (fun k =>
             decide (¬(k.req = .slice (Fin.ofNat 4 q.val) ∧ k.gal = g ∧ k.q = q.val ∧ o.started = true))) } }

theorem stallsEnded_catActive (s : State) (g : Gal) (q : Fin 16) (o : CollOp) : (stallsEnded s g q o).catActive = s.catActive := rfl
theorem opRecorded_catActive (s : State) (g : Gal) (q : Fin 16) (o : CollOp) (st : Nat) : (opRecorded s g q o st).catActive = s.catActive := rfl
theorem fincr_catActive (s : State) (o hi lo k : Nat) : (fincr s o hi lo k).catActive = s.catActive := rfl
theorem spoilDest_catActive (s : State) (g : Gal) (o : CollOp) : (spoilDest s g o).catActive = s.catActive := rfl

theorem collEnd_eq (s : State) (g : Gal) (q : Fin 16) (o : CollOp) (st : Nat) : ∃ e, collEnd s g q o st =
    if st = stDone then fincr (stallsEnded (opRecorded s g q o st) g q o) (colGal g.val 0x10) 31 0 1
    else note (collSeal (fincr (spoilDest (stallsEnded (opRecorded s g q o st) g q o) g o) (colGal g.val 0x10) 63 32 1) g st) e := by
  unfold collEnd
  exact ⟨_, rfl⟩

section matched
variable (g : Gal) (q : Fin 16) (o : CollOp)

theorem sendReady_catActive (s : State) : (sendReady s g q o).catActive = s.catActive :=
  foldl_catActive _ (fun s _ => inject_catActive s _) _ s

theorem collSeal_catActive (s : State) (st : Nat) : (collSeal s g st).catActive = s.catActive := by
  rw [collSeal]
  split
  · rfl
  · split <;> rfl

theorem collEnd_catActive (s : State) (st : Nat) : (collEnd s g q o st).catActive = s.catActive := by
  obtain ⟨e, he⟩ := collEnd_eq s g q o st
  rw [he]
  split
  · rw [fincr_catActive, stallsEnded_catActive, opRecorded_catActive]
  · rw [note_catActive, collSeal_catActive, fincr_catActive, spoilDest_catActive, stallsEnded_catActive, opRecorded_catActive]

theorem applyReady_catActive (s : State) (num from_ : Nat) (sig : BitVec 32) :
    (applyReady s g q num from_ sig).catActive = s.catActive := by
  unfold applyReady
  split
  · rfl
  · split
    · rfl
    · exact (collEnd_catActive g q _ _ _).trans (foldl_catActive _ (fun s _ => inject_catActive s _) _ s)

theorem memberOf_congr {s t : State} (h : t.catActive = s.catActive) (axis src : Nat) : memberOf t g axis src = memberOf s g axis src := by
  rw [memberOf, memberOf, ringLen, ringLen, origin, origin, h]

/-- The kept READYs `l` matched, their senders read in the state `u`. -/
def matchReadys (u : State) (g : Gal) (q : Fin 16) (num axis : Nat) (l : List (Nat × BitVec 16 × BitVec 16 × BitVec 32 × BitVec 32))
    (s : State) : State :=
  l.foldl (fun y r => applyReady y g q num (memberOf u g axis r.2.2.1.toNat) r.2.2.2.1) s

theorem foldl_applyReady (u : State) (num axis : Nat) (l : List (Nat × BitVec 16 × BitVec 16 × BitVec 32 × BitVec 32)) (s : State)
    (h : s.catActive = u.catActive) :
    l.foldl (fun s r => applyReady s g q num (memberOf s g axis r.2.2.1.toNat) r.2.2.2.1) s = matchReadys u g q num axis l s := by
  unfold matchReadys
  induction l generalizing s with
  | nil => rw [List.foldl_nil, List.foldl_nil]
  | cons r l ih =>
    rw [List.foldl_cons, List.foldl_cons, memberOf_congr g h]
    exact ih _ ((applyReady_catActive g q s _ _ _).trans h)

end matched

/-- Equal shares: as many as ranks, all of the elements, each but the last a multiple of the unit. -/
theorem shares_spec {n lr u j : Nat} (hlr : 1 ≤ lr) : (shares n lr u).length = lr ∧ (shares n lr u).sum = n ∧
    (j + 1 < lr → (shares n lr u)[j]? = some (n / lr / u * u)) := by
  have hle : n / lr / u * u * (lr - 1) ≤ n := calc
    n / lr / u * u * (lr - 1) ≤ n / lr * (lr - 1) := Nat.mul_le_mul_right _ (Nat.div_mul_le_self _ _)
    _ ≤ n / lr * lr := Nat.mul_le_mul_left _ (Nat.sub_le _ _)
    _ ≤ n := Nat.div_mul_le_self _ _
  have hcomm : (lr - 1) * (n / lr / u * u) = n / lr / u * u * (lr - 1) := Nat.mul_comm _ _
  refine ⟨?_, ?_, fun hj => ?_⟩ <;> unfold shares
  · simp [Nat.sub_add_cancel hlr]
  · rw [List.sum_append, List.sum_replicate, smul_eq_mul, List.sum_singleton, hcomm, Nat.add_sub_cancel' hle]
  · rw [List.getElem?_append_left (by rw [List.length_replicate]; omega), List.getElem?_replicate_of_lt (by omega)]

theorem collChecks_eq_nil (reg : Nat) (d : BitVec 256) : collChecks reg d = [] ↔
    basicChecks (tileOf d) true inVirtOrReserve = [] ∧ (tileOf d).layout = 0 ∧ (tileOf d).mx = false ∧ (tileOf d).count < 2 ^ 32 ∧
      ((tileOf d).format = .sf16 → (tileOf d).n1 = 1 ∧ (tileOf d).n2 = 1 ∧ (tileOf d).n3 = 1 ∧ 1024 ∣ (tileOf d).n0) := by
  have hif (p : Prop) [Decidable p] (c : Nat) : (if p then [c] else []) = [] ↔ ¬p := by split <;> simp_all
  have hsf (p q : Prop) : ¬(p ∧ ¬q) ↔ (p → q) := by tauto
  rw [collChecks, List.map_eq_nil_iff, List.append_eq_nil_iff, List.append_eq_nil_iff, List.append_eq_nil_iff, hif, hif, hif, not_or,
    hsf, not_le, Bool.not_eq_true, ne_eq, not_not, Nat.dvd_iff_mod_eq_zero]
  tauto

theorem collPair_plain (fn : ColFn) (a b : Fmt) : collPair false fn a b = true ↔ a = b ∧ a ≠ .e8m0 := by simp [collPair]

theorem collPair_codec {fn : ColFn} (h : fn.codec = true) (a b : Fmt) :
    collPair true fn a b = true ↔ fn.op = .sum ∧ a ∈ [Fmt.f32, .sf16] ∧ b ∈ [Fmt.f32, .sf16] := by simp [collPair, h, and_assoc]

theorem collPair_values {fn : ColFn} (h : fn.codec = false) (a b : Fmt) : collPair true fn a b = true ↔
    (a ∈ [Fmt.f32, .bf16, .f16] ∧ b ∈ [Fmt.f32, .bf16, .f16]) ∨ (a = .i32 ∧ b = .i32) := by simp [collPair, h]

/-! ### The clauses of CollectiveAcceptance -/

/-- The clause for a use that joins the log of the Reserve. -/
theorem logColl_eq (s : State) (n : CoreId) (i : Instr) (ws : List (BitVec 256)) : logColl s n i ws =
    if ∃ w ∈ ws.filter (fun w => decide (w ≠ 0)), inReserve (tileOf w).range.1 (tileOf w).range.2 = true then
      logReserve s n i (ws.filter (fun w => decide (w ≠ 0)))
    else s := by
  unfold logColl
  simp only [List.any_eq_true]

section read
variable {n : CoreId} {g : Gal} {r : CollReq} {s : State} {i : Instr} {e err : SramErr}

/-- What the read of the counts leaves, and whether an error stops it: an error counts only where a vector is read. -/
theorem collRead_eq (he : r.fn.ragged = true → e = err) : collRead n g r s i e =
    if collMet n g r s = true then lineMet (logReserve s n i []) n (collVec n r s) err else s := by
  unfold collRead
  split
  case isFalse => rfl
  case isTrue h =>
    have hm := h
    simp only [collMet, Bool.and_eq_true, decide_eq_true_eq] at hm
    obtain ⟨⟨hrag, hres⟩, hpos⟩ := hm
    rw [inReserve, decide_eq_true_eq] at hres
    rw [he hrag, logSram_reserve (by omega) (by omega)]

theorem collMet_ue (he : r.fn.ragged = true → e = err) :
    (collMet n g r s = true ∧ e = .ue) ↔ (collMet n g r s = true ∧ err = .ue) := by
  refine and_congr_right fun h => ?_
  simp only [collMet, Bool.and_eq_true] at h
  rw [he h.1.1]

end read

/-- Settles O26: every collective instruction issues with the effect of `acceptColl`, which joins its queue, holds, or
raises the lowest failing check; a queue that runs arms no launch. -/
theorem collectiveAcceptance : Obligations.CollectiveAcceptance := by
  unfold Obligations.CollectiveAcceptance
  refine ⟨?_, ?_, fun n lr u j hlr _ => shares_spec hlr, fun reg d => collChecks_eq_nil reg d,
    fun fn a b => ⟨collPair_plain fn a b, fun h => collPair_codec h a b, fun h => collPair_values h a b⟩⟩
  · intro n g s qh ta tb sa sb fn axis bidir ragged minus tag err ho h c f d outcome
    have key (i : Instr) (r : CollReq) (e : SramErr) (htag : r.tag = tag) (he : r.fn.ragged = true → e = err)
        (hx : exec i s = .next (acceptColl (.core n) i qh r e s)) : outcome i r := by
      unfold outcome
      intro da db a b na nb ra rb fa fb lr me root red fails at_ vec raise nn met u ds v
      have hda : da = reqDesc n s r.ta := by simp only [da]; cases r.ta <;> rfl
      have hdb : db = reqDesc n s r.tb := by simp only [db]; cases r.tb <;> rfl
      have hra : ra = reqReg r.ta := by simp only [ra]; cases r.ta <;> rfl
      have hrb : rb = reqReg r.tb := by simp only [rb]; cases r.tb <;> rfl
      clear_value da db ra rb
      subst hda hdb hra hrb
      have hfails : fails = collFails n g r s := rfl
      have hvec : vec = collCounts n g r s := rfl
      have hmet : met ↔ collMet n g r s = true := by
        simp only [met, collMet, Bool.and_eq_true, decide_eq_true_eq, and_assoc]
        rfl
      have hu : u = collRead n g r d i e := by
        rw [collRead_eq he, collMet_disarm, collVec_disarm]
        exact if_congr hmet rfl rfl
      have hv : v = logColl (collRead n g r d i e) n i [reqDesc n s r.ta, reqDesc n s r.tb] := by
        rw [logColl_eq, ← hu]
      clear_value fails vec u v
      subst hfails hvec hu hv
      obtain ⟨eff, hissue, heff⟩ := acceptColl_core n r i qh e
      have hi : exec i s = .next (issueCore n i 5 eff s) := by rw [hx, hissue]
      have hd : eff d = collEff n g r d i e (queueOf s g c.q[qh]) := by
        rw [heff d g ho, q_disarm]
        rfl
      refine ⟨fun hq => ?_, fun q hq => ⟨fun hfull => ?_, fun hroom => ?_⟩⟩
      · refine gives_fault hi (x := excQueue) ?_
        rw [hd]
        cases hk : queueOf s g c.q[qh] with
        | coll q => exact absurd hk (hq q)
        | racking q => rfl
        | bad => rfl
      · refine gives_hold hi ?_
        rw [hd, hq]
        exact if_pos hfull
      · have htry : eff d = collTry n g r d i q e := by
          rw [hd, hq]
          exact if_neg (Nat.not_le.mpr hroom)
        refine ⟨fun hc => ?_, fun x hc => ?_, fun va hc => ?_, fun counts hc => ?_⟩
        · exact gives_descriptor hi (by simp) fun x hx => htry.trans (collTry_bad hc hx)
        · split
          case isTrue h0 => exact gives_fault hi (htry.trans (by rw [collTry_fault hc, h0]; rfl))
          case isFalse h0 => exact gives_descriptor hi h0 fun y hy => htry.trans (by rw [collTry_fault hc, hy]; rfl)
        · split
          case isTrue h0 => exact gives_holdAt hi (htry.trans (collTry_stall hc h0))
          case isFalse h0 => exact gives_descriptor hi h0 fun y hy => htry.trans (collTry_stall_fails hc hy)
        · intro all o
          have hok : eff d = collOk n g r d i q e counts := htry.trans (collTry_ok hc)
          have hall : all = collAllFails n g r s counts := rfl
          have hjoin : o = collJoins n g r s counts := by simp only [o, ← htag]; rfl
          have hue : (met ∧ err = .ue) ↔ (collMet n g r s = true ∧ e = .ue) := by rw [hmet, collMet_ue he]
          clear_value all o
          subst hall hjoin
          split
          case isTrue h0 => exact gives_descriptor hi h0 fun y hy => hok.trans (collOk_fails hy)
          case isFalse h0 =>
            rw [not_not] at h0
            split
            case isTrue hm => exact gives_stop hi (hok.trans (collOk_poison h0 (hue.mp hm)))
            case isFalse hm =>
              have hm := mt hue.mpr hm
              exact gives_retired hi (hok.trans (collOk_joins h0 hm)) (collAccept_unarmed hm _ _)
    have hnone {r : CollReq} (hr : r.fn.ragged = false) : r.fn.ragged = true → SramErr.none = err := fun h => by rw [hr] at h; cases h
    exact ⟨key _ _ err rfl (fun _ => rfl) rfl, key _ _ err rfl (fun _ => rfl) rfl, key _ _ err rfl (fun _ => rfl) rfl,
      key _ _ .none rfl (hnone rfl) rfl, key _ _ err rfl (fun _ => rfl) rfl, key _ _ .none rfl (hnone rfl) rfl,
      key _ _ .none rfl (hnone rfl) rfl, key _ _ .none rfl (hnone rfl) rfl⟩
  · intro s g q o x ax o' mine s1 s2 s3
    have hcat : s2.catActive = s1.catActive := sendReady_catActive g q o' s1
    have hmatch := foldl_applyReady g q s1 o'.num ax.val (x.readys.filter (fun r => decide (mine r))) s2 hcat
    refine ⟨?_, fun hv => sendReady_injectq g q o' s1 hv⟩
    change _ = pumpQ (matchReadys s1 g q o'.num ax.val (x.readys.filter (fun r => decide (mine r))) s2) g q
    rw [← hmatch]
    rfl

end Sys2Proof.Machine
end

section
/-! PROOFS. The scalar integer instructions (R76, R77, R80). -/

namespace Sys2Proof.Machine

/-! ### One scalar register written -/

/-- An instruction that writes one scalar register with a value of the state before it. -/
theorem gives_scalarOp {h : Hart} {i : Instr} {sd : SReg} {v : State → Word} {s : State} {w : Word}
    (hi : exec i s = .next (scalarOp h i sd v s)) (hv : v (disarmed h s) = w) : Gives h i s (setS h sd w (fell h s)) := fun hr => by
  rw [hi, scalarOp, issue_setS hr (by rw [hv])]

/-! ### Products (Table 3-2) -/

theorem mulLo_eq (a b : Word) : mulLo a b = BitVec.ofNat 64 (a.toNat * b.toNat) := by
  rw [mulLo, BitVec.ofNat_mul, BitVec.ofNat_toNat, BitVec.ofNat_toNat, BitVec.setWidth_eq, BitVec.setWidth_eq]

/-- The upper half of a 128-bit number. -/
theorem extractLsb'_ofInt (p : Int) : (BitVec.ofInt 128 p).extractLsb' 64 64 = BitVec.ofInt 64 (p / (2 ^ 64 : Nat)) := by
  apply BitVec.eq_of_toNat_eq
  rw [BitVec.extractLsb'_toNat, BitVec.toNat_ofInt, BitVec.toNat_ofInt, Nat.shiftRight_eq_div_pow]
  omega

theorem setWidth_eq_ofInt (b : Word) : b.setWidth 128 = BitVec.ofInt 128 b.toNat := by
  rw [BitVec.ofInt_natCast, BitVec.ofNat_toNat]

theorem mulHss_eq (a b : Word) : mulHss a b = (a.signExtend 128 * b.signExtend 128).extractLsb' 64 64 := by
  rw [BitVec.signExtend, BitVec.signExtend, ← BitVec.ofInt_mul, extractLsb'_ofInt, mulHss]

theorem mulHsu_eq (a b : Word) : mulHsu a b = (a.signExtend 128 * b.zeroExtend 128).extractLsb' 64 64 := by
  rw [BitVec.signExtend, BitVec.zeroExtend_eq_setWidth, setWidth_eq_ofInt, ← BitVec.ofInt_mul, extractLsb'_ofInt, mulHsu]

theorem mulHuu_eq (a b : Word) : mulHuu a b = (a.zeroExtend 128 * b.zeroExtend 128).extractLsb' 64 64 := by
  rw [BitVec.zeroExtend_eq_setWidth, BitVec.zeroExtend_eq_setWidth, setWidth_eq_ofInt, setWidth_eq_ofInt, ← BitVec.ofInt_mul, extractLsb'_ofInt, mulHuu,
    ← Int.natCast_mul, ← Int.natCast_ediv, BitVec.ofInt_natCast]

theorem madd_eq (a b c : Word) : a * b + c = BitVec.ofNat 64 (a.toNat * b.toNat + c.toNat) := by
  rw [BitVec.ofNat_add, ← mulLo_eq, BitVec.ofNat_toNat, BitVec.setWidth_eq, mulLo]

/-! ### Words by their bits (Tables 3-2 and 3-5) -/

theorem word_eq_of_bits {v w : Word} {f : Nat → Bool} (hv : ∀ j < 64, v.getLsbD j = f j) (hw : ∀ j < 64, w.getLsbD j = f j) :
    w = v :=
  BitVec.eq_of_getLsbD_eq fun j hj => (hw j hj).trans (hv j hj).symm

theorem getLsbD_shlW (a : Word) (k : Nat) {j : Nat} (hj : j < 64) : (shlW a k).getLsbD j = (decide (k ≤ j) && a.getLsbD (j - k)) := by
  rw [shlW, BitVec.getLsbD_shiftLeft]
  grind

theorem getLsbD_shrW (a : Word) {k j : Nat} : (shrW a k).getLsbD j = (decide (j + k < 64) && a.getLsbD (j + k)) := by
  rw [shrW, BitVec.getLsbD_ushiftRight, Nat.add_comm k j]
  by_cases h : j + k < 64
  · simp [h]
  · simp [h, BitVec.getLsbD_of_ge a (j + k) (by omega)]

theorem getLsbD_shraW (a : Word) (k : Nat) {j : Nat} (hj : j < 64) : (shraW a k).getLsbD j = a.getLsbD (min (j + k) 63) := by
  rw [shraW, BitVec.getLsbD_sshiftRight, BitVec.msb_eq_getLsbD_last, Nat.add_comm k j]
  by_cases h : j + k < 64
  · rw [if_pos h, Nat.min_eq_left (by omega)]
    simp [hj]
  · rw [if_neg h, Nat.min_eq_right (by omega)]
    simp [hj]

theorem getLsbD_rorW (a : Word) {k : Nat} (hk : k < 64) {j : Nat} (hj : j < 64) : (rorW a k).getLsbD j = a.getLsbD ((j + k) % 64) := by
  rw [rorW, BitVec.getLsbD_rotateRight, Nat.mod_eq_of_lt hk]
  by_cases h : j < 64 - k
  · simp [h, Nat.mod_eq_of_lt (show k + j < 64 by omega), Nat.add_comm]
  · simp [h, hj, show (j + k) % 64 = j - (64 - k) by omega]

theorem getLsbD_imm64 (imm : BitVec 40) {j : Nat} (hj : j < 64) : (imm64 imm).getLsbD j = imm.getLsbD (min j 39) := by
  rw [imm64, BitVec.getLsbD_signExtend, BitVec.msb_eq_getLsbD_last]
  by_cases h : j < 40
  · rw [if_pos h, Nat.min_eq_left (by omega)]
    simp [hj]
  · rw [if_neg h, Nat.min_eq_right (by omega)]
    simp [hj]

theorem getLsbD_lihWord (a : Word) (imm : BitVec 40) {j : Nat} (hj : j < 64) :
    (lihWord a imm).getLsbD j = if j < 24 then a.getLsbD j else imm.getLsbD (j - 24) := by
  have hlow : (BitVec.ofNat 64 0xFFFFFF).getLsbD j = decide (j < 24) := by
    rw [BitVec.getLsbD_ofNat, show 0xFFFFFF = 2 ^ 24 - 1 by decide, Nat.testBit_two_pow_sub_one]
    simp [hj]
  rw [show lihWord a imm = a &&& BitVec.ofNat 64 0xFFFFFF ||| imm.setWidth 64 <<< 24 from rfl, BitVec.getLsbD_or, BitVec.getLsbD_and, hlow, BitVec.getLsbD_shiftLeft, BitVec.getLsbD_setWidth]
  by_cases h : j < 24
  · simp [h]
  · simp [h, hj, show j - 24 < 64 by omega]

/-! ### Relations, the greater and the lesser (Table 3-2) -/

theorem relHolds_iff (r : Rel) (a b : Word) : relHolds r a b = match r with
    | .eq => decide (a = b)
    | .ne => decide (a ≠ b)
    | .lt => decide (a.toInt < b.toInt)
    | .le => decide (a.toInt ≤ b.toInt)
    | .ltu => decide (a.toNat < b.toNat)
    | .leu => decide (a.toNat ≤ b.toNat) := by
  cases r <;> rfl

theorem imm64_toInt (imm : BitVec 40) : (imm64 imm).toInt = imm.toInt :=
  BitVec.toInt_signExtend_of_le (by decide)

theorem ite_lt_eq_ite_le {α β : Type} [LinearOrder β] {p q : β} {c d : α} (h : p = q → c = d) :
    (if p < q then c else d) = if p ≤ q then c else d := by
  rcases lt_trichotomy p q with hlt | heq | hgt
  · rw [if_pos hlt, if_pos hlt.le]
  · rw [h heq, ite_self, ite_self]
  · rw [if_neg hgt.not_gt, if_neg (not_le.mpr hgt)]

theorem minS_eq (a b : Word) : minS a b = if a.toInt ≤ b.toInt then a else b := by
  rw [← ite_lt_eq_ite_le BitVec.eq_of_toInt_eq, minS]
  simp only [BitVec.slt_eq_decide, decide_eq_true_eq]

theorem maxS_eq (a b : Word) : maxS a b = if a.toInt ≤ b.toInt then b else a := by
  rw [← ite_lt_eq_ite_le fun h => (BitVec.eq_of_toInt_eq h).symm, maxS]
  simp only [BitVec.slt_eq_decide, decide_eq_true_eq]

theorem minU_eq (a b : Word) : minU a b = if a.toNat ≤ b.toNat then a else b := by
  rw [← ite_lt_eq_ite_le BitVec.eq_of_toNat_eq, minU]
  simp only [BitVec.ult_eq_decide, decide_eq_true_eq]

theorem maxU_eq (a b : Word) : maxU a b = if a.toNat ≤ b.toNat then b else a := by
  rw [← ite_lt_eq_ite_le fun h => (BitVec.eq_of_toNat_eq h).symm, maxU]
  simp only [BitVec.ult_eq_decide, decide_eq_true_eq]

/-! ### Counts (Table 3-2) -/

theorem leadZeros_eq {n v k : Nat} (hk : k ≤ n) (hz : ∀ j < k, v.testBit (n - 1 - j) = false)
    (h1 : k < n → v.testBit (n - 1 - k) = true) : leadZeros n v = k := by
  induction n generalizing k with
  | zero => rw [leadZeros]; omega
  | succ n ih =>
    rw [leadZeros]
    cases k with
    | zero => exact if_pos (h1 (by omega))
    | succ k =>
      rw [if_neg (by simpa using hz 0 (by omega)), ih (k := k) (by omega) (fun j hj => ?_) (fun h => ?_)]
      · rw [← hz (j + 1) (by omega)]
        congr 1
        omega
      · rw [← h1 (by omega)]
        congr 1
        omega

theorem trailZeros_eq {n v k : Nat} (hk : k ≤ n) (hz : ∀ j < k, v.testBit j = false) (h1 : k < n → v.testBit k = true) :
    trailZeros n v = k := by
  induction n generalizing v k with
  | zero => rw [trailZeros]; omega
  | succ n ih =>
    rw [trailZeros]
    cases k with
    | zero => exact if_pos (by simpa [Nat.testBit_zero] using h1 (by omega))
    | succ k =>
      rw [if_neg (by simpa [Nat.testBit_zero] using hz 0 (by omega)), ih (k := k) (by omega) (fun j hj => ?_) (fun h => ?_)]
      · rw [← Nat.testBit_succ]; exact hz (j + 1) (by omega)
      · rw [← Nat.testBit_succ]; exact h1 (by omega)

theorem popCount_eq (n v : Nat) : popCount n v = ((List.range n).filter v.testBit).length := by
  induction n generalizing v with
  | zero => rfl
  | succ n ih =>
    rw [popCount, ih, List.range_succ_eq_map, List.filter_cons, List.filter_map, Nat.testBit_zero]
    have hs : v.testBit ∘ Nat.succ = (v / 2).testBit := funext fun j => Nat.testBit_succ v j
    rw [hs]
    rcases Nat.mod_two_eq_zero_or_one v with h | h <;> simp [h, Nat.add_comm]

/-- Settles O3, form by form: each writes one register, and the value is the one that Table 3-2 or 3-5 gives. -/
theorem scalarIntegers : Obligations.ScalarIntegers := by
  refine ⟨fun h sd sa sb sc imm s => ?_, fun h sd sa sb imm cnt v s => ?_, fun h sd sa sb sc imm s => ?_⟩
  · intro a b c wr
    refine ⟨gives_scalarOp rfl ?_, gives_scalarOp rfl ?_, gives_scalarOp rfl ?_, gives_scalarOp rfl ?_, gives_scalarOp rfl ?_,
      gives_scalarOp rfl ?_, gives_scalarOp rfl ?_, gives_scalarOp rfl ?_⟩ <;> simp only [getS_disarmed]
    · rfl
    · rfl
    · exact mulLo_eq _ _
    · exact mulHss_eq _ _
    · exact mulHuu_eq _ _
    · exact mulHsu_eq _ _
    · exact madd_eq _ _ _
    · rfl
  · intro a b k m t
    have hk : k < 64 := Nat.mod_lt _ (by decide)
    have bits {i : Instr} {x : State → Word} {f : Nat → Bool} (hi : exec i s = .next (scalarOp h i sd x s))
        (hx : ∀ j < 64, (x (disarmed h s)).getLsbD j = f j) : (∀ j < 64, v.getLsbD j = f j) → Gives h i s t :=
      fun hv => gives_scalarOp hi (word_eq_of_bits hv hx)
    refine ⟨bits rfl fun j hj => ?_, bits rfl fun j hj => ?_, bits rfl fun j hj => ?_, bits rfl fun j hj => ?_, bits rfl fun j hj => ?_,
      bits rfl fun j hj => ?_, bits rfl fun j hj => ?_, bits rfl fun j hj => ?_, bits rfl fun j hj => ?_, bits rfl fun j hj => ?_,
      bits rfl fun j hj => ?_, bits rfl fun j hj => ?_, bits rfl fun j hj => ?_, bits rfl fun j hj => ?_, bits rfl fun j hj => ?_⟩ <;>
      simp only [getS_disarmed]
    · exact BitVec.getLsbD_and
    · exact BitVec.getLsbD_or
    · exact BitVec.getLsbD_xor
    · simp [hj, a, b]
    · exact getLsbD_shlW _ _ hj
    · exact getLsbD_shrW _
    · exact getLsbD_shraW _ _ hj
    · exact getLsbD_rorW _ hk hj
    · rw [BitVec.getLsbD_and, getLsbD_imm64 imm hj]
    · rw [BitVec.getLsbD_or, getLsbD_imm64 imm hj]
    · rw [BitVec.getLsbD_xor, getLsbD_imm64 imm hj]
    · exact getLsbD_shlW _ _ hj
    · exact getLsbD_shrW _
    · exact getLsbD_shraW _ _ hj
    · exact getLsbD_lihWord _ imm hj
  · intro a b i wr is
    have hcset (r : Rel) (p : Bool) (hp : relHolds r a b = p) : Gives h (.cset h r sd sa sb) s (is p) :=
      gives_scalarOp rfl (by simp only [getS_disarmed]; exact congrArg boolWord hp)
    have hcseti (r : Rel) (p : Bool) (hp : relHolds r a i = p) : Gives h (.cseti h r sd sa imm) s (is p) :=
      gives_scalarOp rfl (by simp only [getS_disarmed]; exact congrArg boolWord hp)
    have hi : i.toInt = imm.toInt := imm64_toInt imm
    refine ⟨⟨hcset _ _ rfl, hcset _ _ rfl, hcset _ _ rfl, hcset _ _ rfl, hcset _ _ rfl, hcset _ _ rfl⟩,
      ⟨hcseti _ _ rfl, hcseti _ _ rfl, hcseti _ _ ?_, hcseti _ _ ?_, hcseti _ _ rfl, hcseti _ _ rfl⟩,
      ⟨gives_scalarOp rfl ?_, gives_scalarOp rfl ?_, gives_scalarOp rfl ?_, gives_scalarOp rfl ?_, gives_scalarOp rfl ?_⟩,
      fun n hn hz h1 => gives_scalarOp rfl ?_, fun n hn hz h1 => gives_scalarOp rfl ?_, gives_scalarOp rfl ?_⟩
    · rw [← hi]; rfl
    · rw [← hi]; rfl
    all_goals simp only [getS_disarmed]
    · exact minS_eq _ _
    · exact maxS_eq _ _
    · exact minU_eq _ _
    · exact maxU_eq _ _
    · exact ite_not _ _ _
    · rw [leadZeros_eq hn hz h1]
    · rw [trailZeros_eq hn hz h1]
    · rw [popCount_eq]; rfl

/-! ### Divisions (R77) -/

/-- A context notes a division by zero. -/
def divideMark (h : Hart) (b : Word) (t : State) : State :=
  match h with
  | .core n => if b = 0 then modCore t n (fun c => { c with dz := true }) else t
  | .mgmt _ => t

/-- A division writes one register and notes a divisor of zero. -/
theorem gives_divideOp {h : Hart} {i : Instr} {sd sb : SReg} {v : State → Word} {s : State} {w : Word}
    (hi : exec i s = .next (divideOp h i sd sb v s)) (hv : v (disarmed h s) = w) :
    Gives h i s (divideMark h (getS h sb s) (setS h sd w (fell h s))) := by
  cases h with
  | mgmt k => exact fun hr => by rw [hi, divideOp, issue_setS hr (by rw [hv])]; rfl
  | core n =>
    have hset : setS (.core n) sd w (fell (.core n) s) = retireAt n ((coreAt s n).pc + 8) (setS (.core n) sd w (disarm s n)) :=
      (retire_setS s n _ sd w).symm
    have hi : exec i s = .next (issueCore n i 0 (fun s =>
        .done (divideMark (.core n) (getS (.core n) sb s) (setS (.core n) sd (v s) s))) s) := hi
    have hmark (b : Word) (t : State) : divideMark (.core n) b (retireAt n ((coreAt s n).pc + 8) t) =
        retireAt n ((coreAt s n).pc + 8) (divideMark (.core n) b t) := by
      by_cases hb : b = 0
      · rw [divideMark, divideMark, if_pos hb, if_pos hb]
        refine (retireAt_modCore n _ t ?_).symm
        exact fun _ => rfl
      · rw [divideMark, divideMark, if_neg hb, if_neg hb]
    rw [hset, hmark]
    exact gives_retireAt hi (by rw [show v (disarm s n) = w from hv, getS_disarm])

theorem quoS_zero (a : Word) : quoS a 0 = BitVec.ofInt 64 (if a.toInt < 0 then -(2 ^ 63) else 2 ^ 63 - 1) := by
  rw [quoS, if_pos rfl, BitVec.slt_eq_decide, show (0 : Word).toInt = 0 from rfl]
  by_cases h : a.toInt < 0
  · simp only [h, decide_true, if_true]
    rfl
  · simp only [h, decide_false, if_false]
    rfl

theorem ne_zero_of_toInt {b : Word} (h : b.toInt = -1) : b ≠ 0 := by
  rintro rfl
  exact absurd h (by decide)

/-- Settles O4: a division gives the quotient or the remainder of R77, and only a divisor of zero leaves a mark. -/
theorem division : Obligations.Division := by
  intro h sd sa sb s a b dz wr
  have div {i : Instr} {v : State → Word} {w : Word} (hi : exec i s = .next (divideOp h i sd sb v s)) (hv : v (disarmed h s) = w) :
      Gives h i s (wr w) := gives_divideOp hi hv
  refine ⟨fun hb => ⟨div rfl ?_, div rfl ?_, div rfl ?_, div rfl ?_⟩, fun ha hb => ⟨div rfl ?_, div rfl ?_⟩,
    fun hb hn => ⟨div rfl ?_, div rfl ?_⟩, fun hb => ⟨div rfl ?_, div rfl ?_⟩⟩ <;> simp only [getS_disarmed]
  · rw [show getS h sb s = 0 from hb]
    exact quoS_zero a
  · exact if_pos hb
  · exact if_pos hb
  · exact if_pos hb
  · rw [quoS, if_neg (ne_zero_of_toInt hb), if_pos ⟨ha, hb⟩]
    rfl
  · rw [rmdS, if_neg (ne_zero_of_toInt hb), show (getS h sa s).toInt = -(2 ^ 63) from ha, show (getS h sb s).toInt = -1 from hb]
    rfl
  · rw [quoS, if_neg hb]
    exact if_neg hn
  · rw [rmdS, if_neg hb]
  · rw [quoU, if_neg hb]
  · rw [rmdU, if_neg hb]

end Sys2Proof.Machine
end

section
/-! PROOFS. Exact values and one rounding, and the scalar floating-point instructions (R78, R152, R153, R155). -/

namespace Sys2Proof.Machine

/-! ### Finite values as rational numbers -/

theorem finRat_neg (a : Bool) (m : Nat) (e : Int) : finRat (!a) m e = -finRat a m e := by
  cases a <;> simp [finRat]

/-- The sign and the size of a finite value. -/
theorem finRat_sign (a : Bool) (m : Nat) (e : Int) : finRat a m e = (if a then -1 else 1) * finRat false m e := by
  cases a <;> simp [finRat]

theorem finRat_nonneg (m : Nat) (e : Int) : 0 ≤ finRat false m e := by
  rw [finRat, if_neg Bool.false_ne_true]
  positivity

theorem finRat_eq_zero {a : Bool} {m : Nat} {e : Int} : finRat a m e = 0 ↔ m = 0 := by
  have h2 : (2 : ℚ) ^ e ≠ 0 := zpow_ne_zero e two_ne_zero
  cases a <;> simp [finRat, h2]

theorem scaleTo_rat (m : Nat) {e q : Int} (h : q ≤ e) : (scaleTo m e q : ℚ) * 2 ^ q = m * 2 ^ e := by
  have hpow : (2 : ℚ) ^ e = 2 ^ (e - q).toNat * 2 ^ q := by
    rw [← zpow_natCast, Int.toNat_of_nonneg (sub_nonneg.mpr h), ← zpow_add₀ two_ne_zero, sub_add_cancel]
  rw [scaleTo, Nat.cast_mul, Nat.cast_pow, Nat.cast_ofNat, hpow, mul_assoc]

/-- A finite value on the grid 2^q. -/
theorem gridInt_rat (a : Bool) (m : Nat) {e q : Int} (h : q ≤ e) : (gridInt a m e q : ℚ) * 2 ^ q = finRat a m e := by
  cases a <;> simp [gridInt, finRat, scaleTo_rat m h]

theorem finRat_natAbs (v q : Int) : finRat (decide (v < 0)) v.natAbs q = v * 2 ^ q := by
  by_cases h : v < 0
  · rw [decide_eq_true h, finRat, if_pos rfl, ← Int.cast_natCast, Int.ofNat_natAbs_of_nonpos h.le]
    simp
  · rw [decide_eq_false h, finRat, if_neg Bool.false_ne_true, ← Int.cast_natCast, Int.natAbs_of_nonneg (not_lt.mp h)]
    simp

/-! ### Sums and products (Table 5-1) -/

theorem addVal_fin (rm : Rm) (a b : Bool) (m n : Nat) (e k : Int) : ∃ (c : Bool) (p : Nat) (q : Int),
    addVal rm (.fin a m e) (.fin b n k) = .fin c p q ∧ finRat c p q = finRat a m e + finRat b n k ∧
    (p = 0 → c = if m = 0 ∧ n = 0 then zeroSign rm a b else decide (rm = .rd)) := by
  have hsum : ((gridInt a m e (min e k) + gridInt b n k (min e k) : Int) : ℚ) * 2 ^ min e k = finRat a m e + finRat b n k := by
    rw [Int.cast_add, add_mul, gridInt_rat a m (min_le_left e k), gridInt_rat b n (min_le_right e k)]
  rw [addVal]
  by_cases hv : gridInt a m e (min e k) + gridInt b n k (min e k) = 0
  · rw [if_pos hv]
    rw [hv, Int.cast_zero, zero_mul] at hsum
    exact ⟨_, 0, 0, rfl, (finRat_eq_zero.mpr rfl).trans hsum, fun _ => rfl⟩
  · rw [if_neg hv]
    exact ⟨_, _, _, rfl, (finRat_natAbs _ _).trans hsum, fun h => absurd (Int.natAbs_eq_zero.mp h) hv⟩

theorem mulVal_fin (a b : Bool) (m n : Nat) (e k : Int) : finRat (a != b) (m * n) (e + k) = finRat a m e * finRat b n k := by
  have hpow : (2 : ℚ) ^ (e + k) = 2 ^ e * 2 ^ k := zpow_add₀ two_ne_zero e k
  cases a <;> cases b <;> simp only [finRat, hpow, bne_self_eq_false, Bool.bne_true, Bool.bne_false, Bool.not_false,
    if_true, Bool.false_eq_true, if_false, Nat.cast_mul] <;> ring

theorem addVal_nan_iff (rm : Rm) (x y : Val) : addVal rm x y = .nan ↔ x = .nan ∨ y = .nan ∨ ∃ a : Bool, x = .inf a ∧ y = .inf (!a) := by
  cases x with
  | nan => simp [addVal]
  | inf a =>
    cases y with
    | nan => simp [addVal]
    | inf b => cases a <;> cases b <;> simp [addVal]
    | fin b n k => simp [addVal]
  | fin a m e =>
    cases y with
    | nan => simp [addVal]
    | inf b => simp [addVal]
    | fin b n k =>
      obtain ⟨c, p, q, hadd, -⟩ := addVal_fin rm a b m n e k
      simp [hadd]

theorem mulVal_nan_iff (x y : Val) : mulVal x y = .nan ↔ x = .nan ∨ y = .nan ∨
    ∃ (a b : Bool) (e : Int), (x = .inf a ∧ y = .fin b 0 e) ∨ (x = .fin b 0 e ∧ y = .inf a) := by
  cases x with
  | nan => simp [mulVal]
  | inf a => cases y <;> simp [mulVal]
  | fin a m e => cases y <;> simp [mulVal]

/-- Settles O5, by the exact sum on the finer of the two grids and the exact product. -/
theorem exactSumsAndProducts : Obligations.ExactSumsAndProducts := by
  refine ⟨addVal_fin, fun a b m n e k => ⟨_, _, rfl, mulVal_fin a b m n e k⟩, addVal_nan_iff, fun rm a b m e => ⟨rfl, rfl, if_pos rfl⟩,
    mulVal_nan_iff, fun a b m e hm => ⟨if_neg hm, ?_, rfl⟩⟩
  rw [mulVal, if_neg hm]
  cases a <;> cases b <;> rfl

/-! ### Order -/

theorem ltVal_fin (a b : Bool) (m n : Nat) (e k : Int) : ltVal (.fin a m e) (.fin b n k) = true ↔ finRat a m e < finRat b n k := by
  have h2 : (0 : ℚ) < 2 ^ min e k := zpow_pos two_pos _
  rw [ltVal, decide_eq_true_eq, ← gridInt_rat a m (min_le_left e k), ← gridInt_rat b n (min_le_right e k), mul_lt_mul_iff_left₀ h2, Int.cast_lt]

theorem eqVal_fin (a b : Bool) (m n : Nat) (e k : Int) : eqVal (.fin a m e) (.fin b n k) = true ↔ finRat a m e = finRat b n k := by
  have h : finRat a m e = finRat b n k ↔ ¬ finRat a m e < finRat b n k ∧ ¬ finRat b n k < finRat a m e := by
    rw [not_lt, not_lt, le_antisymm_iff, and_comm]
  rw [h, ← ltVal_fin, ← ltVal_fin]
  simp [eqVal, isNanV]

theorem rankLt_fin (a b : Bool) (m n : Nat) (e k : Int) : rankLt (.fin a m e) (.fin b n k) = true ↔
    finRat a m e < finRat b n k ∨ (m = 0 ∧ n = 0 ∧ a = true ∧ b = false) := by
  rw [← ltVal_fin, rankLt, isZero, isZero]
  simp [and_assoc]

/-! ### Rounding to a grid (R152) -/

/-- Does a value of sign `neg`, `n + f` steps of the grid from zero with 0 ≤ f < 1, round away from zero? -/
def roundsUp (rm : Rm) (neg : Bool) (n : Nat) (f : ℚ) : Bool :=
  match rm with
  | .rn => decide (1 / 2 < f ∨ (f = 1 / 2 ∧ n % 2 = 1))
  | .rz => false
  | .ru => decide (0 < f) && !neg
  | .rd => decide (0 < f) && neg

/-- The steps of the grid below a value, what remains of it, and where it is rounded to. -/
theorem roundGrid_eq (rm : Rm) (neg : Bool) (m : Nat) (e q : Int) : ∃ (n : Nat) (f : ℚ), 0 ≤ f ∧ f < 1 ∧
    finRat false m e = (n + f) * 2 ^ q ∧ roundGrid rm neg m e q = (if roundsUp rm neg n f then n + 1 else n, decide (0 < f)) := by
  rw [roundGrid]
  by_cases h : q ≤ e
  · refine ⟨scaleTo m e q, 0, le_rfl, one_pos, ?_, ?_⟩
    · rw [add_zero, scaleTo_rat m h]
      simp [finRat]
    · rw [if_pos h]
      cases rm <;> simp [roundsUp, scaleTo]
  · rw [if_neg h]
    generalize hd : 2 ^ (q - e).toNat = d
    have hd0 : (0 : ℚ) < d := by rw [← hd]; positivity
    have hpow : (2 : ℚ) ^ q = d * 2 ^ e := by
      rw [← hd, Nat.cast_pow, Nat.cast_ofNat, ← zpow_natCast, Int.toNat_of_nonneg (by omega), ← zpow_add₀ two_ne_zero, sub_add_cancel]
    have hr : (m % d : Nat) < (d : ℚ) := Nat.cast_lt.mpr (Nat.mod_lt _ (Nat.cast_pos.mp hd0))
    refine ⟨m / d, (m % d : Nat) / d, by positivity, (div_lt_one hd0).mpr hr, ?_, ?_⟩
    · have hm : (m : ℚ) = d * (m / d : Nat) + (m % d : Nat) := by exact_mod_cast (Nat.div_add_mod m d).symm
      rw [hpow, finRat, if_neg Bool.false_ne_true, one_mul, hm]
      field_simp
    · have hpos : (0 : ℚ) < (m % d : Nat) / d ↔ 0 < m % d := by rw [div_pos_iff_of_pos_right hd0, Nat.cast_pos]
      have hhalf : (1 : ℚ) / 2 < (m % d : Nat) / d ↔ d < 2 * (m % d) := by
        rw [div_lt_div_iff₀ two_pos hd0, one_mul, mul_comm]
        exact_mod_cast Iff.rfl
      have htie : ((m % d : Nat) / d : ℚ) = 1 / 2 ↔ 2 * (m % d) = d := by
        rw [div_eq_div_iff hd0.ne' two_ne_zero, one_mul, mul_comm]
        exact_mod_cast Iff.rfl
      cases rm with
      | rz => rw [roundsUp, decide_eq_decide.mpr hpos]
      | _ => simp only [roundsUp, hpos, hhalf, htie]

/-! ### Integers (R155) -/

/-- Integer `i` is what value `v` rounds to. -/
def RoundsTo (rm : Rm) (v : ℚ) (i : Int) : Prop :=
  match rm with
  | .rn => |(i : ℚ) - v| ≤ 1 / 2 ∧ (|(i : ℚ) - v| = 1 / 2 → i % 2 = 0)
  | .rz => |(i : ℚ)| ≤ |v| ∧ |v| < |(i : ℚ)| + 1 ∧ 0 ≤ (i : ℚ) * v
  | .ru => v ≤ i ∧ (i : ℚ) < v + 1
  | .rd => (i : ℚ) ≤ v ∧ v < i + 1

/-- No integer above one to which a value rounds to nearest is another. -/
theorem roundsTo_rn_not_lt {v : ℚ} {i j : Int} (hi : RoundsTo .rn v i) (hj : RoundsTo .rn v j) : ¬ i < j := by
  intro hlt
  obtain ⟨hi0, hi1⟩ := hi
  obtain ⟨hj0, hj1⟩ := hj
  have hle : (i : ℚ) + 1 ≤ j := by exact_mod_cast hlt
  have hiv := (abs_le.mp hi0).1
  have hjv := (abs_le.mp hj0).2
  have hv : v = i + 1 / 2 := by linarith
  have hji : j = i + 1 := by
    have : (j : ℚ) = i + 1 := by linarith
    exact_mod_cast this
  have hieven := hi1 (by rw [hv, abs_sub_comm, add_sub_cancel_left]; norm_num)
  have hjeven := hj1 (by rw [hv, hji]; push_cast; rw [show (i : ℚ) + 1 - (i + 1 / 2) = 1 / 2 by ring]; norm_num)
  omega

theorem roundsTo_unique {rm : Rm} {v : ℚ} {i j : Int} (hi : RoundsTo rm v i) (hj : RoundsTo rm v j) : i = j := by
  cases rm with
  | rn => exact le_antisymm (not_lt.mp (roundsTo_rn_not_lt hj hi)) (not_lt.mp (roundsTo_rn_not_lt hi hj))
  | rz =>
    obtain ⟨hi0, hi1, hi2⟩ := hi
    obtain ⟨hj0, hj1, hj2⟩ := hj
    have h0 : |(i : ℚ)| < |(j : ℚ)| + 1 := hi0.trans_lt hj1
    have h1 : |(j : ℚ)| < |(i : ℚ)| + 1 := hj0.trans_lt hi1
    norm_cast at h0 h1
    rcases abs_eq_abs.mp (show |i| = |j| by omega) with h | h
    · exact h
    · rw [h, Int.cast_neg, neg_mul] at hi2
      rcases mul_eq_zero.mp (show (j : ℚ) * v = 0 by linarith) with hz | hz
      · have hz : j = 0 := by exact_mod_cast hz
        omega
      · rw [hz, abs_zero, abs_nonpos_iff] at hj0
        have hj0 : j = 0 := by exact_mod_cast hj0
        omega
  | ru =>
    obtain ⟨hi0, hi1⟩ := hi
    obtain ⟨hj0, hj1⟩ := hj
    have h0 : (i : ℚ) < j + 1 := by linarith
    have h1 : (j : ℚ) < i + 1 := by linarith
    norm_cast at h0 h1
    omega
  | rd =>
    obtain ⟨hi0, hi1⟩ := hi
    obtain ⟨hj0, hj1⟩ := hj
    have h0 : (i : ℚ) < j + 1 := by linarith
    have h1 : (j : ℚ) < i + 1 := by linarith
    norm_cast at h0 h1
    omega

/-- The rounding mode seen from the other side of zero. -/
def Rm.mirror : Rm → Rm
  | .ru => .rd
  | .rd => .ru
  | rm => rm

theorem roundGrid_neg (rm : Rm) (m : Nat) (e q : Int) : roundGrid rm true m e q = roundGrid rm.mirror false m e q := by
  cases rm <;> simp [roundGrid, Rm.mirror]

theorem RoundsTo.neg {rm : Rm} {v : ℚ} {i : Int} (h : RoundsTo rm.mirror v i) : RoundsTo rm (-v) (-i) := by
  cases rm with
  | rn =>
    obtain ⟨hnear, heven⟩ := h
    rw [RoundsTo, Int.cast_neg, neg_sub_neg, abs_sub_comm]
    exact ⟨hnear, fun h => by have := heven h; omega⟩
  | rz =>
    obtain ⟨h0, h1, h2⟩ := h
    rw [RoundsTo, Int.cast_neg, abs_neg, abs_neg, neg_mul_neg]
    exact ⟨h0, h1, h2⟩
  | ru =>
    obtain ⟨h0, h1⟩ := h
    rw [RoundsTo, Int.cast_neg]
    exact ⟨neg_le_neg h0, by linarith⟩
  | rd =>
    obtain ⟨h0, h1⟩ := h
    rw [RoundsTo, Int.cast_neg]
    exact ⟨neg_le_neg h0, by linarith⟩

/-- The nearest of the two neighbours of `n + f`, the even one of two as near. -/
theorem roundsUp_nearest (n : Nat) {f : ℚ} (h0 : 0 ≤ f) (h1 : f < 1) :
    RoundsTo .rn (n + f) (if roundsUp .rn false n f then n + 1 else n : Nat) := by
  by_cases hup : 1 / 2 < f ∨ (f = 1 / 2 ∧ n % 2 = 1)
  · have hu : roundsUp .rn false n f = true := decide_eq_true hup
    have habs : |((n + 1 : Nat) : ℚ) - (n + f)| = 1 - f := by
      rw [Nat.cast_succ, add_sub_add_left_eq_sub, abs_of_pos (sub_pos.mpr h1)]
    rw [if_pos hu, RoundsTo, Int.cast_natCast, habs]
    rcases hup with hlt | ⟨heq, hodd⟩
    · exact ⟨by linarith, fun h => absurd hlt (by linarith)⟩
    · exact ⟨by linarith, fun _ => by omega⟩
  · have hu : ¬ roundsUp .rn false n f = true := fun h => hup (of_decide_eq_true h)
    have habs : |(n : ℚ) - (n + f)| = f := by rw [sub_add_cancel_left, abs_neg, abs_of_nonneg h0]
    rw [if_neg hu, RoundsTo, Int.cast_natCast, habs]
    obtain ⟨hle, htie⟩ := not_or.mp hup
    exact ⟨not_lt.mp hle, fun h => by have hn : ¬ n % 2 = 1 := fun ho => htie ⟨h, ho⟩; omega⟩

/-- A positive value rounded on the grid of the integers. -/
theorem roundsTo_roundsUp (rm : Rm) (n : Nat) {f : ℚ} (h0 : 0 ≤ f) (h1 : f < 1) :
    RoundsTo rm (n + f) (if roundsUp rm false n f then n + 1 else n : Nat) := by
  have hn : (0 : ℚ) ≤ n := n.cast_nonneg
  cases rm with
  | rn => exact roundsUp_nearest n h0 h1
  | rz =>
    rw [roundsUp, if_neg Bool.false_ne_true, RoundsTo, Int.cast_natCast, abs_of_nonneg hn, abs_of_nonneg (add_nonneg hn h0)]
    exact ⟨by linarith, by linarith, by positivity⟩
  | ru =>
    rw [RoundsTo, Int.cast_natCast]
    rcases h0.eq_or_lt with rfl | hf
    · simp [roundsUp]
    · rw [roundsUp, decide_eq_true hf]
      simp
      constructor <;> linarith
  | rd =>
    rw [roundsUp, Bool.and_false, if_neg Bool.false_ne_true, RoundsTo, Int.cast_natCast]
    exact ⟨by linarith, by linarith⟩

/-- A value that is no integer rounds to another value. -/
theorem roundsUp_exact (rm : Rm) (n : Nat) {f : ℚ} (h0 : 0 ≤ f) (h1 : f < 1) :
    0 < f ↔ (((if roundsUp rm false n f then n + 1 else n : Nat) : Int) : ℚ) ≠ n + f := by
  rw [Int.cast_natCast]
  constructor
  · intro hf h
    split at h
    · rw [Nat.cast_succ] at h
      linarith
    · linarith
  · intro h
    refine h0.lt_of_ne fun h0 => h ?_
    have hu : ¬ roundsUp rm false n f = true := by subst h0; cases rm <;> simp [roundsUp]
    rw [if_neg hu, ← h0, add_zero]

/-- The integer with a sign. -/
def signed (neg : Bool) (c : Nat) : Int := if neg then -(c : Int) else c

/-- Rounding on the grid of the integers. -/
theorem roundsTo_roundGrid (rm : Rm) (neg : Bool) (m : Nat) (e : Int) :
    RoundsTo rm (finRat neg m e) (signed neg (roundGrid rm neg m e 0).1) ∧
    (roundGrid rm neg m e 0).2 = decide ((signed neg (roundGrid rm neg m e 0).1 : ℚ) ≠ finRat neg m e) := by
  have hpos (rm : Rm) : RoundsTo rm (finRat false m e) (roundGrid rm false m e 0).1 ∧
      ((roundGrid rm false m e 0).2 = true ↔ (((roundGrid rm false m e 0).1 : Int) : ℚ) ≠ finRat false m e) := by
    obtain ⟨n, f, h0, h1, hval, hgrid⟩ := roundGrid_eq rm false m e 0
    rw [zpow_zero, mul_one] at hval
    rw [hgrid, hval, decide_eq_true_eq]
    exact ⟨roundsTo_roundsUp rm n h0 h1, roundsUp_exact rm n h0 h1⟩
  rw [Bool.eq_iff_iff, decide_eq_true_eq]
  cases neg with
  | false => exact hpos rm
  | true =>
    obtain ⟨hround, hexact⟩ := hpos rm.mirror
    rw [roundGrid_neg, show finRat true m e = -finRat false m e from finRat_neg false m e, signed, if_pos rfl]
    refine ⟨hround.neg, hexact.trans ?_⟩
    rw [Int.cast_neg, Ne, Ne, neg_inj]

/-- The value rounded to an integer and held to the limits. -/
theorem roundInt_fin {n : Nat} {rm : Rm} {neg : Bool} {m : Nat} {e : Int} {i : Int} (h : RoundsTo rm (finRat neg m e) i) :
    let lo : Int := -((2 ^ (n - 1) : Nat) : Int)
    let hi : Int := ((2 ^ (n - 1) : Nat) : Int) - 1
    roundInt n rm (.fin neg m e) = if i < lo then (lo, { nv := true }) else if hi < i then (hi, { nv := true })
      else (i, { nx := decide ((i : ℚ) ≠ finRat neg m e) }) := by
  obtain ⟨hround, hexact⟩ := roundsTo_roundGrid rm neg m e
  rw [roundsTo_unique h hround, ← hexact]
  rfl

/-! ### The scalar floating-point instructions (R78, Table 3-3) -/

theorem retireAt_scalarFlags (n : CoreId) (dst : Word) (f : Fl) (pc : Word) (t : State) :
    retireAt n dst (scalarFlags (.core n) f pc t) = scalarFlags (.core n) f pc (retireAt n dst t) := by
  unfold scalarFlags
  dsimp only
  cases f.cause with
  | none => exact retireAt_setFlags n dst f t
  | some c => exact (retireAt_nanEvent n dst 0 0 c 0 0 0 pc _).trans (congrArg (nanEvent · n 0 0 c 0 0 0 pc) (retireAt_setFlags n dst f t))

theorem scalarRm_disarmed (h : Hart) (s : State) : scalarRm h (disarmed h s) = scalarRm h s := by
  cases h with
  | core n => exact congrArg ctlRm (fpctl_disarm s n)
  | mgmt k => rfl

theorem getF_disarmed (h : Hart) (r : SReg) (s : State) : getF h r (disarmed h s) = getF h r s := by
  rw [getF, getF, getS_disarmed]

/-- A scalar floating-point instruction writes one register and leaves its flags and its event. -/
theorem gives_scalarFp {h : Hart} {i : Instr} {sd : SReg} {f : Rm → State → Word × Fl} {s : State} {w : Word} {fl : Fl}
    (hi : exec i s = .next (scalarFp h i sd f s)) (hf : f (scalarRm h s) (disarmed h s) = (w, fl)) :
    Gives h i s (scalarFlags h fl (getPc h s) (setS h sd w (fell h s))) := by
  rw [← scalarRm_disarmed] at hf
  cases h with
  | mgmt k => exact fun hr => by rw [hi, scalarFp, issue_setS hr (by rw [hf]; rfl)]; rfl
  | core n =>
    have hset : setS (.core n) sd w (fell (.core n) s) = retireAt n ((coreAt s n).pc + 8) (setS (.core n) sd w (disarm s n)) :=
      (retire_setS s n _ sd w).symm
    have hf : f (scalarRm (.core n) (disarm s n)) (disarm s n) = (w, fl) := hf
    have hi : exec i s = .next (issueCore n i 0 (fun s => .done (scalarFlags (.core n) (f (scalarRm (.core n) s) s).2 (getPc (.core n) s)
        (setS (.core n) sd (f (scalarRm (.core n) s) s).1 s))) s) := hi
    rw [hset, ← retireAt_scalarFlags]
    exact gives_retireAt hi (by rw [hf, getPc, disarm_pc]; rfl)

theorem opFlags_eq (ins : List Val) (v : Val) : opFlags ins v =
    if Val.nan ∈ ins then { nv := true, cause := some 1 } else if v = .nan then { nv := true, cause := some 2 } else {} := by
  have hany : ins.any isNanV = true ↔ Val.nan ∈ ins := by simp [List.any_eq_true, isNanV_iff]
  simp only [opFlags, hany, isNanV_iff]
  rfl

theorem minVal_eq (x y : Val) : minVal x y = if x = .nan ∨ y = .nan then .nan else if rankLt y x then y else x := by
  simp only [minVal, Bool.or_eq_true, isNanV_iff]

theorem maxVal_eq (x y : Val) : maxVal x y = if x = .nan ∨ y = .nan then .nan else if rankLt x y then y else x := by
  simp only [maxVal, Bool.or_eq_true, isNanV_iff]

theorem boolWord_eq {p : Prop} [Decidable p] {b : Bool} (h : b = true ↔ p) : boolWord b = if p then 1 else 0 := by
  simp only [boolWord, h]

theorem eqVal_nan (x : Val) : eqVal .nan x = false ∧ eqVal x .nan = false := by
  cases x <;> simp [eqVal, isNanV]

theorem ltVal_nan (x : Val) : ltVal .nan x = false ∧ ltVal x .nan = false := by
  cases x <;> simp [ltVal]

/-- Settles O7: each form rounds its exact result once, the order is that of the rational numbers, and a conversion gives the
integer that the value rounds to. -/
theorem scalarFloatingPoint : Obligations.ScalarFloatingPoint := by
  refine ⟨fun h sd sa sb sc s => ?_, fun a b m n e k => ⟨ltVal_fin a b m n e k, eqVal_fin a b m n e k, rankLt_fin a b m n e k, rfl, rfl⟩,
    fun x => ⟨(ltVal_nan x).1, (ltVal_nan x).2, (eqVal_nan x).1, (eqVal_nan x).2⟩, fun n rm neg m e i _ => ?_,
    fun n rm => ⟨rfl, rfl, rfl⟩⟩
  · intro x y z rm inv out fp is i
    have hrm : scalarRm h s = rm := by cases h <;> rfl
    have hinv (ins : List Val) (v : Val) : opFlags ins v = inv ins v := opFlags_eq ins v
    have result {j : Instr} {f : Rm → State → Word × Fl} {ins : List Val} {v : Val} (hj : exec j s = .next (scalarFp h j sd f s))
        (hf : f rm (disarmed h s) = fpResult rm ins v) : Gives h j s (fp ins v) :=
      gives_scalarFp hj (by rw [hrm, hf, fpResult, hinv])
    have relation {c : FRel} {p : Prop} [Decidable p] (hp : frelHolds c x y = true ↔ p) : Gives h (.fcmp h c sd sa sb) s (is p) :=
      gives_scalarFp rfl (by
        simp only [getF_disarmed]
        exact congrArg₂ Prod.mk (boolWord_eq hp) (hinv _ _))
    refine ⟨result rfl ?_, result rfl ?_, result rfl ?_, result rfl ?_, result rfl ?_, result rfl ?_, relation Iff.rfl, relation Iff.rfl,
      relation (by rw [frelHolds, Bool.or_eq_true]), relation (by rw [frelHolds, Bool.or_eq_true, isNanV_iff, isNanV_iff]),
      gives_scalarFp rfl ?_, result rfl ?_⟩ <;> simp only [getF_disarmed, getS_disarmed]
    · rfl
    · rfl
    · rfl
    · rfl
    · rw [minVal_eq]; rfl
    · rw [maxVal_eq]; rfl
    · rw [hrm]; rfl
    · rfl
  · intro v lo hi hround
    exact roundInt_fin (by cases rm <;> exact hround)

end Sys2Proof.Machine
end

section
/-! PROOFS. A save of a Gallery's context into a channel that failed training (R66, R241). -/

namespace Sys2Proof.Machine

/-- The save into a failed channel, on a core of Gallery 0. -/
def deadOwnedSave : State := { deadSave with dev := [(0x0F000010, 1)] }

theorem deadOwnedSave_core : coreAt deadOwnedSave 0 = { cycleBase := 0, state := .saving } := deadSave_core

theorem deadOwnedSave_owner : coreOwner deadOwnedSave 0 = some 0 ∧ tornDown deadOwnedSave 0 = false := by decide

/-- Refutes O55: its clause on CONTEXT_SAVE_COMPLETE lets the image lie in a channel that failed training. The writes are
discarded there (R241), so the image's format does not read 1. -/
theorem not_coreEventsComplete : ¬ Obligations.CoreEventsComplete := by
  intro h
  obtain ⟨-, -, -, -, -, -, -, hctx, -⟩ := h
  obtain ⟨howner, htorn⟩ := deadOwnedSave_owner
  obtain ⟨-, hsave, -⟩ := hctx 0 0 deadOwnedSave howner htorn
  have hs : (coreAt deadOwnedSave 0).state = .saving := by rw [deadOwnedSave_core]
  obtain ⟨t, hexec, -, hformat⟩ := hsave hs (by rw [deadOwnedSave_core]; decide) (by rw [deadOwnedSave_core]; decide)
  have ha : (coreAt deadOwnedSave 0).ctxpa.toNat = 0 := by rw [deadOwnedSave_core]; rfl
  have hmem : t.mem = storeParts 0 (imageParts deadOwnedSave 0 0) deadSave.mem := by
    rw [mem_of_save hs hexec, ha]
    rfl
  have hbyte {i : Nat} (hi : deadSave.mem.deadAt i = true) : t.mem.byte i = 0 := by
    rw [hmem, storeParts_byte_dead hi]
    rfl
  obtain ⟨h0, h1⟩ := deadSave_dead
  rw [ha, mem64_eq_zero_of_bytes (hbyte h0) (hbyte h1)] at hformat
  exact absurd hformat (by decide)

end Sys2Proof.Machine
end

section
/-! PROOFS. Retiring an instruction and what it does beside it: records, messages to hosts and packets are the same before
and after, as none of them reads or changes the core or what waits on a migration for it. -/

namespace Sys2Proof.Machine

section retireAt
variable (n : CoreId) (dst : Word)

/-! ### Scalar registers, registers of the device, Galleries -/

theorem retireAt_setS (r : SReg) (v : Word) (t : State) : retireAt n dst (setS (.core n) r v t) = setS (.core n) r v (retireAt n dst t) := by
  unfold setS
  split
  · rfl
  · exact retireAt_modCore n dst t fun _ => rfl

theorem retireAt_fincr (o hi lo k : Nat) (t : State) : retireAt n dst (fincr t o hi lo k) = fincr (retireAt n dst t) o hi lo k := rfl

theorem retireAt_modGal (g : Gal) (f : Gallery → Gallery) (t : State) : retireAt n dst (modGal t g f) = modGal (retireAt n dst t) g f := rfl

theorem retireAt_modSeal (g : Gal) (f : Seal → Seal) (t : State) : retireAt n dst (modSeal t g f) = modSeal (retireAt n dst t) g f := rfl

theorem retireAt_sealMark (g : Gal) (r : BitVec 8) (sw : Option (BitVec 8)) (t : State) :
    retireAt n dst (sealMark t g r sw) = sealMark (retireAt n dst t) g r sw := rfl

theorem retireAt_ite {p : Prop} [Decidable p] (t u : State) :
    retireAt n dst (if p then t else u) = if p then retireAt n dst t else retireAt n dst u := apply_ite _ _ _ _

theorem retireAt_foldl {α : Type} {f : State → α → State} (hf : ∀ t x, retireAt n dst (f t x) = f (retireAt n dst t) x) (l : List α)
    (t : State) : retireAt n dst (l.foldl f t) = l.foldl f (retireAt n dst t) := by
  induction l generalizing t with
  | nil => rfl
  | cons x l ih => rw [List.foldl_cons, List.foldl_cons, ih, hf]

/-! ### Records (R382, R384, R406) -/

theorem retireAt_crWrite (kind : Nat) (e : FEntry) (t : State) : retireAt n dst (crWrite t kind e) = crWrite (retireAt n dst t) kind e := by
  have hcr : crWord6 (retireAt n dst t) = crWord6 t := rfl
  have hc : (retireAt n dst t).cr = t.cr := rfl
  unfold crWrite
  dsimp only
  rw [retireAt_ite, retireAt_ite, hcr, hc]
  rfl

theorem retireAt_frqPush (q : Fin 9) (e : FEntry) (cls : Nat) (g : Option Gal) (t : State) :
    retireAt n dst (frqPush t q e cls g) = frqPush (retireAt n dst t) q e cls g := by
  unfold frqPush
  dsimp only
  rw [retireAt_ite, retireAt_crWrite]
  rfl

theorem retireAt_record (e : Err) (nest cls : Nat) (t : State) :
    (record (retireAt n dst t) e nest cls).1 = (record t e nest cls).1 ∧
    retireAt n dst (record t e nest cls).2 = (record (retireAt n dst t) e nest cls).2 := by
  refine ⟨rfl, ?_⟩
  unfold record
  dsimp only
  rw [retireAt_ite, retireAt_crWrite, retireAt_ite, retireAt_frqPush]
  rfl

theorem retireAt_note (e : Err) (t : State) : retireAt n dst (note t e) = note (retireAt n dst t) e :=
  (retireAt_record n dst e 0 e.cls t).2

/-! ### Messages to hosts and packets (R286, R352, R356 to R366) -/

theorem retireAt_ethSend (o : Out) (t : State) : retireAt n dst (ethSend t o) = ethSend (retireAt n dst t) o := by
  unfold ethSend ethFlush
  rw [retireAt_ite, retireAt_foldl n dst fun _ _ => rfl]
  rfl

theorem retireAt_shtEmit (e : Ep) (m : ShtMsg) (t : State) : retireAt n dst (shtEmit t e m) = shtEmit (retireAt n dst t) e m := by
  have hx : endpoint (retireAt n dst t) e = endpoint t e := rfl
  unfold shtEmit
  dsimp only
  rw [hx]
  split
  · rfl
  · exact retireAt_ethSend n dst _ t

theorem retireAt_setEp (e : Ep) (x : Endpoint) (t : State) : retireAt n dst (setEp t e x) = setEp (retireAt n dst t) e x := rfl

theorem retireAt_shtFlush (e : Ep) (t : State) : retireAt n dst (shtFlush t e) = shtFlush (retireAt n dst t) e := by
  have hx : endpoint (retireAt n dst t) e = endpoint t e := rfl
  unfold shtFlush
  dsimp only
  rw [retireAt_foldl n dst fun t m => retireAt_shtEmit n dst e m t, retireAt_setEp, hx]

theorem retireAt_shtSend (e : Ep) (kind : Nat) (body : List Byte) (t : State) :
    retireAt n dst (shtSend t e kind body) = shtSend (retireAt n dst t) e kind body := by
  have hx : endpoint (retireAt n dst t) e = endpoint t e := rfl
  unfold shtSend
  dsimp only
  rw [hx]
  split
  · rfl
  · rw [retireAt_shtFlush, retireAt_setEp]

theorem retireAt_galEvent (g : Gal) (kind core : Nat) (words : List Word) (t : State) :
    retireAt n dst (galEvent t g kind core words) = galEvent (retireAt n dst t) g kind core words := by
  unfold galEvent sendEvent
  rw [retireAt_ite, retireAt_shtSend]
  rfl

theorem retireAt_noteFault (e : Err) (t : State) : retireAt n dst (noteFault t e) = noteFault (retireAt n dst t) e := by
  unfold noteFault
  dsimp only
  rw [(retireAt_record n dst e 0 e.cls t).1, ← (retireAt_record n dst e 0 e.cls t).2]
  split
  · rfl
  · exact retireAt_galEvent n dst _ _ _ _ _

theorem retireAt_inject (p : Packet) (t : State) : retireAt n dst (inject t p) = inject (retireAt n dst t) p := by
  unfold inject injectNoted
  rw [retireAt_ite]
  rfl

end retireAt

end Sys2Proof.Machine
end

section
/-! PROOFS. The instructions of the Step Seal (R107 to R111). -/

namespace Sys2Proof.Machine

/-! ### A mirror pass begins beside a retirement (R329) -/

section retireAt
variable (n : CoreId) (dst : Word)

theorem frameEntry_retireAt (t : State) (i : Nat) : frameEntry (retireAt n dst t) i = frameEntry t i := rfl

theorem walkChain_retireAt (g v fuel i : Nat) (t : State) : walkChain (retireAt n dst t) g v fuel i = walkChain t g v fuel i := by
  induction fuel generalizing i with
  | zero => rfl
  | succ fuel ih => simp only [walkChain, frameEntry_retireAt, ih]

theorem chainReads_retireAt (g v fuel i : Nat) (t : State) : chainReads (retireAt n dst t) g v fuel i = chainReads t g v fuel i := by
  induction fuel generalizing i with
  | zero => rfl
  | succ fuel ih => simp only [chainReads, frameEntry_retireAt, ih]

theorem translate_retireAt (g : Gal) (a : Nat) (w : Bool) (t : State) : translate (retireAt n dst t) g a w = translate t g a w := by
  have hanchor (i : Nat) : anchor (retireAt n dst t) i = anchor t i := rfl
  have hframe (v : Nat) : walkFrame (retireAt n dst t) g.val v = walkFrame t g.val v := by
    simp only [walkFrame, hanchor, walkChain_retireAt]
  have hreads (v : Nat) : walkReads (retireAt n dst t) g.val v = walkReads t g.val v := by
    funext l
    simp only [walkReads, hanchor, chainReads_retireAt]
  have hlost (r : Nat → Bool) : structLost (retireAt n dst t) r = structLost t r := rfl
  simp only [translate, hframe, hreads, hlost, frameEntry_retireAt]
  rfl

theorem virtRead_retireAt (g : Gal) (a k : Nat) (t : State) : virtRead (retireAt n dst t) g a k = virtRead t g a k := by
  rw [virtRead, virtRead, translate_retireAt]
  rfl

/-- What waits on a migration for another than core `n` waits on. -/
theorem retireAt_addStall {r : WalkReq} (hr : r ≠ .core n) (g : Gal) (a : Nat) (write fetch : Bool) (q : Nat) (t : State) :
    retireAt n dst (addStall t r g a write fetch q) = addStall (retireAt n dst t) r g a write fetch q := by
  have hstalls : (retireAt n dst t).walker.stalls = t.walker.stalls.filter (fun x => decide (x.req ≠ .core n)) := rfl
  have hany (l : List Stall) : (l.filter (fun x => decide (x.req ≠ .core n))).any
      (fun x => decide (x.req = r ∧ x.gal = g ∧ x.addr = BitVec.ofNat 48 a ∧ x.q = q)) =
      l.any (fun x => decide (x.req = r ∧ x.gal = g ∧ x.addr = BitVec.ofNat 48 a ∧ x.q = q)) := by
    rw [List.any_filter]
    refine congrArg (l.any ·) (funext fun x => ?_)
    by_cases hx : x.req = r
    · simp [hx, hr]
    · simp [hx]
  have hkeep (x : Stall) (hx : x.req = r) (l : List Stall) : (l ++ [x]).filter (fun x => decide (x.req ≠ .core n)) =
      l.filter (fun x => decide (x.req ≠ .core n)) ++ [x] := by
    rw [List.filter_append, List.filter_cons_of_pos (by simp [hx, hr]), List.filter_nil]
  unfold addStall
  dsimp only
  rw [retireAt_ite, hstalls, hany]
  refine if_congr Iff.rfl rfl ?_
  rw [retireAt_eq, retireAt_eq]
  unfold dropStalls
  dsimp only
  rw [hkeep _ rfl]
  rfl

/-- What `sealDecide` leaves of the seal and of its status register, before it reports. -/
def sealDecided (s : State) (g : Gal) (y : Seal) : State :=
  let st := colGal g.val 0x20
  fset (fset (fset (modSeal s g fun _ => y) st 63 32 s.gal[g].stepSeal.step.toNat) st 15 8 y.reason.toNat) st 27 20 (y.sw.getD 0).toNat

/-- What `sealDecide` reports: a dirty close, and a clean one of a torn seal. -/
def sealReports (s : State) (g : Gal) (clean : Bool) (y : Seal) (step : BitVec 32) (torn : Bool) : State :=
  let s := if clean then s else galEvent s g 0x03 0 [sealWord y, rget s (colGal g.val 0x28)]
  if clean && torn then
    noteFault s { kind := 0x17, cls := 2, unit := 4, gal := some g, d0 := BitVec.ofNat 64 step.toNat, d1 := rget s (colGal g.val 0x20) }
  else s

/-- The seal of a decided close. -/
def sealOutcome (x : Seal) (clean : Bool) (r : BitVec 8) (teff : Option Nat) : Seal :=
  { x with
    st := if clean then .clean else .dirty, reason := r, parts := [], advanced := false
    lastDecided := some x.step, decided := x.decided ++ [x.step]
    cur := [], sent := [], gathered := false, cleanWait := false
    losses := match teff with
      | some t => x.losses.filter (fun l => decide (t < l.1 + 100000))
      | none => [] }

theorem sealDecide_eq (s : State) (g : Gal) (clean : Bool) (r : BitVec 8) (teff : Option Nat) : sealDecide s g clean r teff =
    let x := s.gal[g].stepSeal
    let y := sealOutcome x clean r teff
    let t := sealReports (sealDecided s g y) g clean y x.step x.torn
    if x.idleAfter then modSeal t g sealReset else modSeal t g (fun z => { z with torn := false }) := rfl

theorem rget_retireAt (t : State) (o : Nat) : rget (retireAt n dst t) o = rget t o := rfl

theorem gal_retireAt (t : State) : (retireAt n dst t).gal = t.gal := rfl

theorem retireAt_sealReports (g : Gal) (clean : Bool) (y : Seal) (step : BitVec 32) (torn : Bool) (t : State) :
    retireAt n dst (sealReports t g clean y step torn) = sealReports (retireAt n dst t) g clean y step torn := by
  unfold sealReports
  dsimp only
  rw [rget_retireAt, ← retireAt_galEvent, ← retireAt_ite, retireAt_ite, retireAt_noteFault, rget_retireAt]

theorem retireAt_sealDecide (g : Gal) (clean : Bool) (r : BitVec 8) (teff : Option Nat) (t : State) :
    retireAt n dst (sealDecide t g clean r teff) = sealDecide (retireAt n dst t) g clean r teff := by
  have hdecided (y : Seal) : sealDecided (retireAt n dst t) g y = retireAt n dst (sealDecided t g y) := by
    rw [sealDecided, sealDecided, retireAt_fset, retireAt_fset, retireAt_fset, retireAt_modSeal, gal_retireAt]
  rw [sealDecide_eq, sealDecide_eq]
  dsimp only
  rw [retireAt_ite, retireAt_modSeal, retireAt_modSeal, retireAt_sealReports, gal_retireAt, hdecided]

theorem retireAt_cleanAfterPass (g : Gal) (t : State) : retireAt n dst (cleanAfterPass t g) = cleanAfterPass (retireAt n dst t) g := by
  unfold cleanAfterPass
  rw [retireAt_ite, retireAt_sealDecide, gal_retireAt, rget_retireAt]

theorem retireAt_modTx (g : Gal) (f : MirrorTx → MirrorTx) (t : State) :
    retireAt n dst (modTx t g false f) = modTx (retireAt n dst t) g false f := rfl

theorem txOf_retireAt (g : Gal) (spare : Bool) (t : State) : txOf (retireAt n dst t) g spare = txOf t g spare := rfl

theorem retireAt_fbit (o k : Nat) (t : State) : retireAt n dst (fbit t o k) = fbit (retireAt n dst t) o k := rfl

theorem retireAt_mirrorFail (g : Gal) (t : State) : retireAt n dst (mirrorFail t g false) = mirrorFail (retireAt n dst t) g false := by
  unfold mirrorFail
  dsimp only
  rw [if_neg Bool.false_ne_true, if_neg Bool.false_ne_true, retireAt_cleanAfterPass, retireAt_fbit, retireAt_note, retireAt_modTx]

theorem retireAt_mirrorDone (g : Gal) (t : State) : retireAt n dst (mirrorDone t g false) = mirrorDone (retireAt n dst t) g false := by
  unfold mirrorDone
  dsimp only
  rw [if_neg Bool.false_ne_true, if_neg Bool.false_ne_true, retireAt_cleanAfterPass, retireAt_fset, retireAt_modTx, txOf_retireAt]

theorem retireAt_mirrorStall (g : Gal) (va q : Nat) (write : Bool) (t : State) :
    retireAt n dst (mirrorStall t g va q write) = mirrorStall (retireAt n dst t) g va q write :=
  retireAt_addStall n dst (by simp) g va write false q t

theorem retireAt_mirrorPump (g : Gal) (t : State) : retireAt n dst (mirrorPump t g false) = mirrorPump (retireAt n dst t) g false := by
  have hsrc : mirrorSrc (retireAt n dst t) g = mirrorSrc t g := rfl
  have hdst : wPlus (retireAt n dst t) g = wPlus t g := rfl
  have hpkt (kind dst' type0 : Nat) (w : Word) (bs : List Byte) (psn : Nat) :
    mkPacket (retireAt n dst t) g kind dst' type0 w bs psn = mkPacket t g kind dst' type0 w bs psn := rfl
  unfold mirrorPump
  dsimp only
  simp only [if_neg Bool.false_ne_true, txOf_retireAt, hsrc, hdst, hpkt, virtRead_retireAt, translate_retireAt, retireAt_ite,
    retireAt_mirrorDone, retireAt_inject, retireAt_modTx]
  refine if_congr Iff.rfl rfl (if_congr Iff.rfl ?_ rfl)
  split
  · rw [retireAt_ite, retireAt_mirrorStall, retireAt_mirrorFail]
  · rw [retireAt_inject, retireAt_modTx]

theorem retireAt_mirrorStart (g : Gal) (step : Nat) (t : State) :
    retireAt n dst (mirrorStart t g step) = mirrorStart (retireAt n dst t) g step := by
  unfold mirrorStart
  dsimp only
  rw [retireAt_ite, retireAt_mirrorPump]
  rfl

end retireAt

/-! ### What the five instructions do at issue, in a Gallery -/

def sopenEff (n : CoreId) (sd sa : SReg) (s : State) (g : Gal) : Eff :=
  let x := s.gal[g].stepSeal
  let step := (getS (.core n) sa s).setWidth 32
  match x.st with
  | .idle | .clean | .dirty => .done (setS (.core n) sd 0 (modSeal s g (fun x => sealOpen x step n)))
  | .open =>
    if x.step = step then
      .done (setS (.core n) sd 0 (modSeal s g (fun x =>
        { x with parts := if x.parts.contains n then x.parts else x.parts ++ [n]
                 gone := x.gone.filter (fun e => decide (e.1 ≠ n)) })))
    else .done (setS (.core n) sd 1 (sealMark s g rsnMismatch none))
  | .closing => .done (setS (.core n) sd 1 (sealMark s g rsnMismatch none))

def scloseEff (n : CoreId) (sd : SReg) (s : State) (g : Gal) : Eff :=
  let x := s.gal[g].stepSeal
  let me := (n, (coreAt s n).pc)
  let finish (t : State) : Eff := .done (setS (.core n) sd (sealWord t.gal[g].stepSeal) t)
  if x.st = .open ∧ x.parts.contains n = true then
    let t := leaveSeal (modSeal s g (fun y => { y with gone := y.gone ++ [me] })) g n
    if t.gal[g].stepSeal.st = .open ∨ t.gal[g].stepSeal.st = .closing then .hold t else finish t
  else if x.st = .closing ∨ (x.st = .open ∧ x.gone.contains me = true) then .hold s
  else finish s

def sadvEff (n : CoreId) (sd : SReg) (s : State) (g : Gal) : Eff :=
  let x := s.gal[g].stepSeal
  let r := glyReg g.val 0x68
  if x.st ≠ .clean then .done (setS (.core n) sd 0 s)
  else if x.advanced then .done (setS (.core n) sd (BitVec.ofNat 64 (fget s r 31 0)) s)
  else
    let v := (fget s r 31 0 + 1) % 2 ^ 32
    let t := modSeal (fset s r 31 0 v) g (fun x => { x with advanced := true })
    .done (setS (.core n) sd (BitVec.ofNat 64 v) (mirrorStart t g v))

section exec
variable (n : CoreId) (sd sa : SReg) (s : State)

theorem exec_sopen : exec (.sopen (.core n) sd sa) s =
    .next (issueCore n (.sopen (.core n) sd sa) 6 (fun s => onGallery n s (sopenEff n sd sa s)) s) := rfl

theorem exec_sclose : exec (.sclose (.core n) sd) s =
    .next (issueCore n (.sclose (.core n) sd) 6 (fun s => onGallery n s (scloseEff n sd s)) s) := rfl

theorem exec_sstat : exec (.sstat (.core n) sd) s = .next (issueCore n (.sstat (.core n) sd) 6
    (fun s => onGallery n s fun g => .done (setS (.core n) sd (sealWord s.gal[g].stepSeal) s)) s) := rfl

theorem exec_sadv : exec (.sadv (.core n) sd) s =
    .next (issueCore n (.sadv (.core n) sd) 6 (fun s => onGallery n s (sadvEff n sd s)) s) := rfl

theorem exec_smark : exec (.smark (.core n) sa) s = .next (issueCore n (.smark (.core n) sa) 6
    (fun s => onGallery n s fun g => .done (sealMark s g rsnSmark (some ((getS (.core n) sa s).setWidth 8)))) s) := rfl

end exec

section onGallery
variable {n : CoreId} {g : Gal} {i : Instr} {e : State → Gal → Eff} {s : State} (hg : coreOwner s n = some g)
include hg

theorem onGallery_disarm (f : Gal → Eff) : onGallery n (disarm s n) f = f g := by rw [onGallery, coreOwner_disarm, hg]

variable (hi : exec i s = .next (issueCore n i 6 (fun s => onGallery n s (e s)) s))
include hi

/-- An instruction of a Gallery's core that changes the device by `f` and then writes `v` to `sd`. -/
theorem gives_onGallery {sd : SReg} {v : Word} {f : State → State}
    (hf : ∀ dst t, retireAt n dst (f t) = f (retireAt n dst t)) (he : e (disarm s n) g = .done (setS (.core n) sd v (f (disarm s n)))) :
    Gives (.core n) i s (setS (.core n) sd v (f (fell (.core n) s))) := by
  have h := gives_retireAt hi ((onGallery_disarm hg _).trans he)
  rwa [retireAt_setS, hf, retireAt_disarm] at h

theorem gives_onGallery_hold {t : State} (he : e (disarm s n) g = .hold t) : Gives (.core n) i s (holdFor t n i) := fun hr => by
  rw [hi, issueCore_hold hr ((onGallery_disarm hg _).trans he)]

end onGallery

/-! ### sopen (R108) -/

section sopen
variable {n : CoreId} {g : Gal} {s : State} (hg : coreOwner s n = some g) (sd sa : SReg)
include hg

theorem gives_sopen_opens (h : s.gal[g].stepSeal.st = .idle ∨ s.gal[g].stepSeal.st = .clean ∨ s.gal[g].stepSeal.st = .dirty) :
    Gives (.core n) (.sopen (.core n) sd sa) s (setS (.core n) sd 0 (modSeal (fell (.core n) s) g
      (fun _ => sealOpen s.gal[g].stepSeal ((getS (.core n) sa s).setWidth 32) n))) := by
  have he : sopenEff n sd sa (disarm s n) g =
      .done (setS (.core n) sd 0 (modSeal (disarm s n) g fun x => sealOpen x ((getS (.core n) sa s).setWidth 32) n)) := by
    unfold sopenEff
    rw [gal_disarm, getS_disarm]
    dsimp only
    rcases h with h | h | h <;> rw [h]
  exact gives_onGallery hg (exec_sopen n sd sa s) (f := fun t => modSeal t g _) (fun _ _ => rfl) he

theorem gives_sopen_joins (h : s.gal[g].stepSeal.st = .open) (hstep : s.gal[g].stepSeal.step = (getS (.core n) sa s).setWidth 32) :
    Gives (.core n) (.sopen (.core n) sd sa) s (setS (.core n) sd 0 (modSeal (fell (.core n) s) g fun x =>
      { x with parts := if x.parts.contains n then x.parts else x.parts ++ [n]
               gone := x.gone.filter (fun e => decide (e.1 ≠ n)) })) := by
  refine gives_onGallery hg (exec_sopen n sd sa s) (f := fun t => modSeal t g _) (fun _ _ => rfl) ?_
  unfold sopenEff
  rw [gal_disarm, getS_disarm]
  dsimp only
  rw [h]
  exact if_pos hstep

theorem gives_sopen_refuses (h : (s.gal[g].stepSeal.st = .open ∧ s.gal[g].stepSeal.step ≠ (getS (.core n) sa s).setWidth 32) ∨
      s.gal[g].stepSeal.st = .closing) :
    Gives (.core n) (.sopen (.core n) sd sa) s (setS (.core n) sd 1 (sealMark (fell (.core n) s) g rsnMismatch none)) := by
  refine gives_onGallery hg (exec_sopen n sd sa s) (f := fun t => sealMark t g _ _) (fun _ _ => rfl) ?_
  unfold sopenEff
  rw [gal_disarm, getS_disarm]
  dsimp only
  rcases h with ⟨h, hstep⟩ | h <;> rw [h]
  exact if_neg hstep

end sopen

/-! ### sclose (R109, R111) -/

theorem modSeal_modSeal (s : State) (g : Gal) (f k : Seal → Seal) : modSeal (modSeal s g f) g k = modSeal s g (fun x => k (f x)) := by
  rw [modSeal, modSeal, modGal_modGal]; rfl

theorem launchPend_disarm (s : State) (n : CoreId) : (coreAt (disarm s n) n).launchPend = false := by
  rw [disarm_eq, coreAt_modCore, disarmC]
  split
  · rfl
  · exact Bool.eq_false_of_not_eq_true ‹_›

theorem retireAt_retired {n : CoreId} {t : State} (hl : (coreAt t n).launchPend = false) (dst : Word) :
    retireAt n dst t = retired (.core n) dst t := by
  have hl' : (coreAt (dropStalls t (.core n)) n).launchPend = false := hl
  rw [retireAt_eq, retired_eq, modCore_congr _ _ _ _ ?_]
  simp [endC, retiredCore, hl']

section sclose
variable {n : CoreId} {g : Gal} {s : State} (hg : coreOwner s n = some g) (sd : SReg)
include hg

theorem gives_sclose_waits (hpart : ¬ (s.gal[g].stepSeal.st = .open ∧ n ∈ s.gal[g].stepSeal.parts))
    (hwait : s.gal[g].stepSeal.st = .closing ∨ (s.gal[g].stepSeal.st = .open ∧ (n, (coreAt s n).pc) ∈ s.gal[g].stepSeal.gone)) :
    Gives (.core n) (.sclose (.core n) sd) s (holdFor (disarm s n) n (.sclose (.core n) sd)) := by
  refine gives_onGallery_hold hg (exec_sclose n sd s) ?_
  rw [scloseEff, gal_disarm, disarm_pc]
  dsimp only
  rw [if_neg (by rwa [List.contains_iff_mem]), if_pos (by rwa [List.contains_iff_mem])]

theorem gives_sclose_answers (hpart : ¬ (s.gal[g].stepSeal.st = .open ∧ n ∈ s.gal[g].stepSeal.parts))
    (hwait : ¬ (s.gal[g].stepSeal.st = .closing ∨ (s.gal[g].stepSeal.st = .open ∧ (n, (coreAt s n).pc) ∈ s.gal[g].stepSeal.gone))) :
    Gives (.core n) (.sclose (.core n) sd) s (setS (.core n) sd (sealWord s.gal[g].stepSeal) (fell (.core n) s)) := by
  refine gives_onGallery hg (exec_sclose n sd s) (f := id) (fun _ _ => rfl) ?_
  rw [scloseEff, gal_disarm, disarm_pc]
  dsimp only
  rw [if_neg (by rwa [List.contains_iff_mem]), if_neg (by rwa [List.contains_iff_mem]), gal_disarm]
  rfl

omit hg in
/-- The participant leaves, and the last one sends the contribution (R325). -/
theorem leaveSeal_eq (t : State) (me : CoreId × Word) : leaveSeal (modSeal t g (fun y => { y with gone := y.gone ++ [me] })) g n =
    let x := t.gal[g].stepSeal
    let t1 := modSeal t g (fun y => { y with gone := x.gone ++ [me], parts := x.parts.filter (fun c => decide (c ≠ n)) })
    if (∀ c ∈ x.parts, c = n) then sealContribute t1 g else t1 := by
  have hparts : (modSeal (modSeal t g (fun y => { y with gone := y.gone ++ [me] })) g
      (fun x => { x with parts := x.parts.filter (fun c => decide (c ≠ n)) })).gal[g].stepSeal.parts =
      t.gal[g].stepSeal.parts.filter (fun c => decide (c ≠ n)) := by
    simp [modSeal]
  have hnil : t.gal[g].stepSeal.parts.filter (fun c => decide (c ≠ n)) = [] ↔ ∀ c ∈ t.gal[g].stepSeal.parts, c = n := by
    simp [List.filter_eq_nil_iff]
  unfold leaveSeal
  dsimp only
  rw [hparts]
  simp only [hnil, modSeal_modSeal]
  rfl

/-- The device as a participant's sclose leaves it. -/
def sealLeft (n : CoreId) (g : Gal) (t : State) (me : CoreId × Word) : State :=
  let x := t.gal[g].stepSeal
  let t1 := modSeal t g (fun y => { y with gone := x.gone ++ [me], parts := x.parts.filter (fun c => decide (c ≠ n)) })
  if (∀ c ∈ x.parts, c = n) then sealContribute t1 g else t1

omit hg in
theorem sealLeft_cores (t : State) (me : CoreId × Word) : (sealLeft n g t me).cores = t.cores := by
  unfold sealLeft
  dsimp only
  split
  · exact sealAdvance_cores g 6 _
  · rfl

omit hg in
theorem scloseEff_part (hpart : s.gal[g].stepSeal.st = .open ∧ n ∈ s.gal[g].stepSeal.parts) : scloseEff n sd (disarm s n) g =
    let t := sealLeft n g (disarm s n) (n, (coreAt s n).pc)
    if t.gal[g].stepSeal.st = .open ∨ t.gal[g].stepSeal.st = .closing then .hold t
    else .done (setS (.core n) sd (sealWord t.gal[g].stepSeal) t) := by
  unfold scloseEff
  dsimp only
  rw [leaveSeal_eq, disarm_pc, gal_disarm, if_pos (by rwa [List.contains_iff_mem])]
  rfl

theorem gives_sclose_leaves (hpart : s.gal[g].stepSeal.st = .open ∧ n ∈ s.gal[g].stepSeal.parts) {t : State}
    (ht : sealLeft n g (disarm s n) (n, (coreAt s n).pc) = t)
    (hst : t.gal[g].stepSeal.st = .open ∨ t.gal[g].stepSeal.st = .closing) :
    Gives (.core n) (.sclose (.core n) sd) s (holdFor t n (.sclose (.core n) sd)) := by
  refine gives_onGallery_hold hg (exec_sclose n sd s) ?_
  rw [scloseEff_part sd hpart, ht]
  exact if_pos hst

theorem gives_sclose_decided (hpart : s.gal[g].stepSeal.st = .open ∧ n ∈ s.gal[g].stepSeal.parts) {t : State}
    (ht : sealLeft n g (disarm s n) (n, (coreAt s n).pc) = t)
    (hst : ¬ (t.gal[g].stepSeal.st = .open ∨ t.gal[g].stepSeal.st = .closing)) :
    Gives (.core n) (.sclose (.core n) sd) s
      (setS (.core n) sd (sealWord t.gal[g].stepSeal) (retired (.core n) ((coreAt s n).pc + 8) t)) := by
  have he : scloseEff n sd (disarm s n) g = .done (setS (.core n) sd (sealWord t.gal[g].stepSeal) t) := by
    rw [scloseEff_part sd hpart, ht]
    exact if_neg hst
  have hl : (coreAt t n).launchPend = false := by
    rw [coreAt, ← ht, sealLeft_cores]
    exact launchPend_disarm s n
  have h := gives_retireAt (exec_sclose n sd s) ((onGallery_disarm hg _).trans he)
  rwa [retireAt_setS, retireAt_retired hl] at h

end sclose

/-! ### sadv and smark (R110, R107) -/

section sadv
variable {n : CoreId} {g : Gal} {s : State} (hg : coreOwner s n = some g) (sd : SReg)
include hg

theorem gives_sadv_unclean (h : s.gal[g].stepSeal.st ≠ .clean) :
    Gives (.core n) (.sadv (.core n) sd) s (setS (.core n) sd 0 (fell (.core n) s)) := by
  refine gives_onGallery hg (exec_sadv n sd s) (f := id) (fun _ _ => rfl) ?_
  rw [sadvEff, gal_disarm]
  exact if_pos h

theorem gives_sadv_again (h : s.gal[g].stepSeal.st = .clean) (ha : s.gal[g].stepSeal.advanced = true) :
    Gives (.core n) (.sadv (.core n) sd) s
      (setS (.core n) sd (BitVec.ofNat 64 (fget s (glyReg g.val 0x68) 31 0)) (fell (.core n) s)) := by
  refine gives_onGallery hg (exec_sadv n sd s) (f := id) (fun _ _ => rfl) ?_
  rw [sadvEff, gal_disarm]
  dsimp only
  rw [if_neg (not_not_intro h), if_pos ha]
  rfl

theorem gives_sadv_first (h : s.gal[g].stepSeal.st = .clean) (ha : s.gal[g].stepSeal.advanced = false) :
    let r := glyReg g.val 0x68
    let v := (fget s r 31 0 + 1) % 2 ^ 32
    Gives (.core n) (.sadv (.core n) sd) s (setS (.core n) sd (BitVec.ofNat 64 v)
      (mirrorStart (modSeal (fset (fell (.core n) s) r 31 0 v) g (fun y => { y with advanced := true })) g v)) := by
  intro r v
  refine gives_onGallery hg (exec_sadv n sd s)
    (f := fun t => mirrorStart (modSeal (fset t r 31 0 v) g (fun y => { y with advanced := true })) g v) (fun dst t => ?_) ?_
  · rw [retireAt_mirrorStart, retireAt_modSeal, retireAt_fset]
  · rw [sadvEff, gal_disarm]
    dsimp only
    rw [if_neg (not_not_intro h), if_neg (by rw [ha]; exact Bool.false_ne_true)]
    rfl

theorem gives_sstat : Gives (.core n) (.sstat (.core n) sd) s (setS (.core n) sd (sealWord s.gal[g].stepSeal) (fell (.core n) s)) :=
  gives_onGallery hg (exec_sstat n sd s) (f := id) (fun _ _ => rfl) rfl

theorem gives_smark (sa : SReg) : Gives (.core n) (.smark (.core n) sa) s
    (sealMark (fell (.core n) s) g rsnSmark (some ((getS (.core n) sa s).setWidth 8))) := by
  have h := gives_retireAt (exec_smark n sa s) (onGallery_disarm hg _)
  rwa [retireAt_sealMark, retireAt_disarm, getS_disarm] at h

end sadv

/-- A mark of the open step, and of the next one (R108). -/
theorem sealMark_eq (s : State) (g : Gal) (r : BitVec 8) (sw : Option (BitVec 8)) : sealMark s g r sw =
    if s.gal[g].stepSeal.st = .open then
      modSeal s g (fun y => { y with reason := s.gal[g].stepSeal.reason ||| r, sw := s.gal[g].stepSeal.sw <|> sw })
    else modSeal s g (fun y =>
      { y with pendReason := s.gal[g].stepSeal.pendReason ||| r, pendSw := s.gal[g].stepSeal.pendSw <|> sw }) := by
  unfold sealMark modSeal modGal
  dsimp only
  split <;> rfl

/-- The result word as Table 3-14 writes it. -/
theorem sealWord_eq (y : Seal) : sealWord y =
    mkWord [(48, (y.sw.getD 0).toNat), (16, y.step.toNat), (8, y.reason.toNat), (3, if y.advanced then 1 else 0),
      (0, match y.st with | .idle => 0 | .open => 1 | .closing => 2 | .clean => 3 | .dirty => 4)] := by
  rw [sealWord]
  cases y.st <;> rfl

theorem fell_gal (n : CoreId) (s : State) : (fell (.core n) s).gal = s.gal := rfl

/-- Settles O30: each instruction changes the device beside its retirement, which changes only its core and what waits for it. -/
theorem stepSealInstructions : Obligations.StepSealInstructions := by
  unfold Obligations.StepSealInstructions
  intro n g sd sa s hg
  refine ⟨fun h => ⟨sealOpen s.gal[g].stepSeal ((getS (.core n) sa s).setWidth 32) n, rfl, rfl, rfl, rfl, rfl, rfl, rfl, rfl, rfl, rfl,
    ?_, rfl, rfl, gives_sopen_opens hg sd sa h⟩, fun h hstep => ?_, gives_sopen_refuses hg sd sa, fun h =>
    ⟨gives_sclose_waits hg sd h, fun hw => ?_⟩, fun ho hp => ⟨gives_sclose_leaves hg sd ⟨ho, hp⟩ rfl, fun h h' => ?_⟩,
    ?_, gives_sadv_unclean hg sd, gives_sadv_again hg sd, gives_sadv_first hg sd, fun h => ?_, fun h => ?_⟩
  · simp [sealOpen]
  · have h := gives_sopen_joins hg sd sa h hstep
    simp only [List.contains_iff_mem] at h
    exact h
  · have h := gives_sclose_answers hg sd h hw
    rw [sealWord_eq] at h
    exact h
  · have h := gives_sclose_decided hg sd ⟨ho, hp⟩ rfl (not_or.mpr ⟨h, h'⟩)
    rw [sealWord_eq] at h
    exact h
  · have h := gives_sstat hg sd
    rw [sealWord_eq] at h
    exact h
  · have hmark := gives_smark hg sa
    rw [sealMark_eq, fell_gal, if_pos h] at hmark
    refine Eq.mp (congrArg _ (congrArg _ (funext fun y => ?_))) hmark
    cases s.gal[g].stepSeal.sw <;> rfl
  · have hmark := gives_smark hg sa
    rw [sealMark_eq, fell_gal, if_neg h] at hmark
    refine Eq.mp (congrArg _ (congrArg _ (funext fun y => ?_))) hmark
    cases s.gal[g].stepSeal.pendSw <;> rfl

end Sys2Proof.Machine
end

section
/-! PROOFS. The optimizer update (R112, R185 to R190). -/

namespace Sys2Proof.Machine

/-! ### A rounding that does not overflow gives a finite value (R155, R187) -/

/-- A value without its sign, below the exponent of the infinities, decodes to a finite value. -/
theorem fpDecode_finite {f : FpSpec} (hf : f = spec32 ∨ f = specOf .bf16) (neg : Bool) {x : Nat} (hx : x < 255 * 2 ^ f.mb) :
    ∃ u k e, fpDecode f (signBit f neg + x) = .fin u k e := by
  have hexp : ¬ ((signBit f neg + x) / 2 ^ f.mb % 2 ^ f.eb = 2 ^ f.eb - 1) := by
    rcases hf with rfl | rfl <;> cases neg <;>
      simp only [signBit, spec32, specOf, if_true, if_false, Bool.false_eq_true] at hx ⊢ <;> omega
  have hkind : f.kind ≠ 1 := by rcases hf with rfl | rfl <;> decide
  unfold fpDecode
  dsimp only
  rw [if_neg (fun h => hexp h.2), if_neg (fun h => hkind h.1)]
  split
  · exact ⟨_, _, _, rfl⟩
  · exact ⟨_, _, _, rfl⟩

/-- The rounded count of a grid that keeps `mb` + 1 bits. -/
theorem roundGrid_le (rm : Rm) (neg : Bool) {m mb : Nat} {e q : Int} (hq : e + log2 m - mb ≤ q) :
    (roundGrid rm neg m e q).1 ≤ 2 ^ (mb + 1) := by
  have hlog : m < 2 ^ (log2 m + 1) := Nat.lt_log2_self
  unfold roundGrid
  split
  case isTrue h =>
    calc m * 2 ^ (e - q).toNat ≤ 2 ^ (log2 m + 1) * 2 ^ (e - q).toNat := Nat.mul_le_mul_right _ hlog.le
      _ = 2 ^ (log2 m + 1 + (e - q).toNat) := (Nat.pow_add ..).symm
      _ ≤ 2 ^ (mb + 1) := Nat.pow_le_pow_right (by decide) (by omega)
  case isFalse h =>
    have hdiv : m / 2 ^ (q - e).toNat < 2 ^ (mb + 1) := by
      rw [Nat.div_lt_iff_lt_mul (Nat.two_pow_pos _), ← Nat.pow_add]
      exact hlog.trans_le (Nat.pow_le_pow_right (by decide) (by omega))
    have hstep (up : Bool) (n : Nat) : (if up then n + 1 else n) ≤ n + 1 := by cases up <;> simp
    exact (hstep _ _).trans hdiv

/-- A count that does not exceed another of `mb` + 1 bits lies on no coarser grid. -/
theorem grid_le_of_not_dyGt {a b mb : Nat} {i j : Int} (h : dyGt a i b j = false) (hb : b < 2 ^ (mb + 1)) (ha : 2 ^ mb ≤ a) : i ≤ j := by
  by_contra hij
  rw [dyGt, decide_eq_false_iff_not] at h
  refine h ?_
  rw [min_eq_right (by omega), scaleTo, scaleTo, Int.sub_self, Int.toNat_zero, Nat.pow_zero, Nat.mul_one]
  obtain ⟨k, hk⟩ := Nat.exists_eq_add_of_le' (show 1 ≤ (i - j).toNat by omega)
  calc b < 2 ^ mb * 2 := hb
    _ ≤ a * 2 := Nat.mul_le_mul_right 2 ha
    _ ≤ a * 2 ^ (i - j).toNat := Nat.mul_le_mul_left a (by rw [hk, Nat.pow_succ]; exact Nat.le_mul_of_pos_left 2 (Nat.two_pow_pos k))

theorem roundFin_code {f : FpSpec} (hf : f = spec32 ∨ f = specOf .bf16) {neg : Bool} {m : Nat} {e : Int}
    (hof : (roundFin f .rn false neg m e).2.of = false) :
    ∃ x, x < 255 * 2 ^ f.mb ∧ (roundFin f .rn false neg m e).1 = signBit f neg + x := by
  obtain ⟨hk, hb, hmb⟩ : f.kind = 0 ∧ f.bias = 127 ∧ f.eb = 8 := by rcases hf with rfl | rfl <;> decide
  have hmax : maxFin f = (2 ^ (f.mb + 1) - 1, 127 - (f.mb : Int)) := by
    rw [maxFin, hk, hb, hmb]
    rfl
  have hpos := Nat.two_pow_pos f.mb
  revert hof
  unfold roundFin
  dsimp only
  rw [hmax]
  generalize hq : max (e + ↑(log2 m) - ↑f.mb) (1 - ↑f.bias - ↑f.mb) = q
  have hr : (roundGrid .rn neg m e q).1 ≤ 2 ^ (f.mb + 1) := roundGrid_le .rn neg (by omega)
  generalize (roundGrid .rn neg m e q).1 = r at hr ⊢
  by_cases hover : dyGt r q (2 ^ (f.mb + 1) - 1) (127 - f.mb) = true
  · rw [if_pos hover]
    simp [hk, ovfFinite]
  · rw [if_neg hover]
    intro _
    have hover : dyGt r q (2 ^ (f.mb + 1) - 1) (127 - f.mb) = false := Bool.eq_false_iff.mpr hover
    by_cases hsmall : r < 2 ^ f.mb
    · exact ⟨r, by omega, by rw [if_pos hsmall]⟩
    · have hqle := grid_le_of_not_dyGt hover (by omega) (Nat.not_lt.mp hsmall)
      rw [if_neg hsmall]
      have hfield {E c : Nat} (hE : E ≤ 254) (hc : c < 2 ^ f.mb) : E * 2 ^ f.mb + c < 255 * 2 ^ f.mb := by
        have := Nat.mul_le_mul_right (2 ^ f.mb) hE
        omega
      by_cases htop : r = 2 ^ (f.mb + 1)
      · have hne : q ≠ 127 - f.mb := by
          rintro rfl
          rw [dyGt, htop, decide_eq_false_iff_not, min_self, scaleTo, scaleTo, Int.sub_self] at hover
          exact hover (by simp)
        rw [if_pos htop]
        exact ⟨_, hfield (by dsimp only; omega) (by simp), rfl⟩
      · rw [if_neg htop]
        exact ⟨_, hfield (by dsimp only; omega) (by dsimp only; omega), rfl⟩

/-- An overflow under RN gives the infinity. -/
theorem roundFin_overflow {f : FpSpec} (hf : f = spec32 ∨ f = specOf .bf16) {neg : Bool} {m : Nat} {e : Int}
    (hof : (roundFin f .rn false neg m e).2.of = true) : (roundFin f .rn false neg m e).1 = infCode f neg := by
  have hk : f.kind = 0 := by rcases hf with rfl | rfl <;> rfl
  revert hof
  unfold roundFin
  dsimp only
  split
  · simp [hk, ovfFinite]
  · split
    · simp
    · simp

/-- A finite value. -/
def IsFin (x : Val) : Prop := ∃ u k e, x = .fin u k e

theorem IsFin.isNanV {x : Val} (h : IsFin x) : isNanV x = false := by obtain ⟨u, k, e, rfl⟩ := h; rfl
theorem IsFin.isInfV {x : Val} (h : IsFin x) : isInfV x = false := by obtain ⟨u, k, e, rfl⟩ := h; rfl

theorem isFin_rounded {f : FpSpec} (hf : f = spec32 ∨ f = specOf .bf16) {x : Val} (hx : IsFin x)
    (hof : (roundFp f .rn false x).2.of = false) : IsFin (fpDecode f (roundFp f .rn false x).1) := by
  obtain ⟨neg, m, e, rfl⟩ := hx
  rw [roundFp] at hof ⊢
  split
  · exact fpDecode_finite hf neg (x := 0) (Nat.mul_pos (by decide) (Nat.two_pow_pos _))
  · rw [if_neg ‹_›] at hof
    obtain ⟨x, hx, hcode⟩ := roundFin_code hf hof
    rw [hcode]
    exact fpDecode_finite hf neg hx

/-- Only a finite value that does not overflow rounds to a finite one. -/
theorem not_overflow_of_isFin {x : Val} (h : IsFin (fpDecode spec32 (roundFp spec32 .rn false x).1)) :
    IsFin x ∧ (roundFp spec32 .rn false x).2.of = false := by
  have hinf (neg : Bool) : ¬ IsFin (fpDecode spec32 (infCode spec32 neg)) := by
    have he : fpDecode spec32 (infCode spec32 neg) = .inf neg := by cases neg <;> decide
    rintro ⟨u, k, e, hfin⟩
    exact nomatch he.symm.trans hfin
  have hnan : ¬ IsFin (fpDecode spec32 (nanCode spec32)) := by
    have he : fpDecode spec32 (nanCode spec32) = .nan := by decide
    rintro ⟨u, k, e, hfin⟩
    exact nomatch he.symm.trans hfin
  match x with
  | .nan => exact absurd h hnan
  | .inf neg => exact absurd h (hinf neg)
  | .fin neg m e =>
    refine ⟨⟨neg, m, e, rfl⟩, Bool.eq_false_iff.mpr fun hof => ?_⟩
    rw [roundFp] at h hof
    by_cases hm : m = 0
    · rw [if_pos hm] at hof
      exact Bool.false_ne_true hof
    · rw [if_neg hm] at h hof
      rw [roundFin_overflow (.inl rfl) hof] at h
      exact hinf neg h

/-! ### The update of one element (R186, R187) -/

/-- A value rounded once to FP32. -/
def rounded (x : Val) : Val := fpDecode spec32 (roundFp spec32 .rn false x).1

theorem optRound_of_finite {f : FpSpec} {x : Val × Fl} (hx : IsFin x.1) (hof : (roundFp f .rn false x.1).2.of = false) :
    optRound f x = (fpDecode f (roundFp f .rn false x.1).1, (roundFp f .rn false x.1).1, x.2.or (roundFp f .rn false x.1).2) := by
  unfold optRound
  dsimp only
  rw [hx.isNanV, hx.isInfV, hof]
  rfl

/-- A rounding that gives a finite value is the plain rounding. -/
theorem rnd_eq {x y : Val} (fl : Fl) (hxy : x = y) (h : IsFin (rounded y)) : (rnd x fl).1 = rounded y := by
  subst hxy
  obtain ⟨hx, hof⟩ := not_overflow_of_isFin h
  rw [rnd, optRound_of_finite hx hof]
  rfl

/-- How `optElem` ends: the weight, and whether the element is bad. -/
def optLast (fmt : Fmt) (hp : Hyper) (ins : List Val) (w m1 v1 : Val) (u : Val × Fl) (fl : Fl) : OptRes :=
  let w1 := optRound (specOf fmt) (subV w (mulVal hp.lr u.1), u.2)
  let bad := ins.any isNanV || ins.any isInfV || isNanV m1 || isNanV v1 || isNanV w1.1 || isNanV u.1
  let fl := (fl.or w1.2.2)
  { m := opt32 m1, v := opt32 v1, w := plusZero fmt w1.2.1, bad := bad
    fl := if ins.any isNanV then flNan else if ins.any isInfV then flInvalid
      else if bad then { fl with nv := true, cause := some 2 } else { fl with cause := none } }

/-- The inputs of an update. -/
def optIns (alg : OptAlg) (gin m v w : Val) : List Val := if alg = .adamw then [gin, m, v, w] else [gin, m, w]

theorem optElem_last (alg : OptAlg) (fmt : Fmt) (hp : Hyper) (gin m v w : Val) :
    ∃ m1 v1 u fl, optElem alg fmt hp gin m v w = optLast fmt hp (optIns alg gin m v w) w m1 v1 u fl := by
  cases alg
  · exact ⟨_, _, _, _, rfl⟩
  · exact ⟨_, _, _, _, rfl⟩
  · exact ⟨_, _, _, _, rfl⟩

/-- An element updated without a NaN: its moments and its weight, each rounded once. -/
def OptRes.Good (o : OptRes) (fmt : Fmt) (m1 v1 w1 : Val) : Prop :=
  o.bad = false ∧ o.fl.cause = none ∧ o.m = plusZero .f32 (round32 .rn m1) ∧ o.v = plusZero .f32 (round32 .rn v1) ∧
    o.w = plusZero fmt (roundFp (specOf fmt) .rn false w1).1

section optLast
variable {fmt : Fmt} {hp : Hyper} {ins : List Val} {w m1 v1 : Val} {u : Val × Fl} {fl : Fl}

theorem any_isNanV_iff {l : List Val} : l.any isNanV = true ↔ Val.nan ∈ l := by
  rw [List.any_eq_true]
  simp only [isNanV_iff, exists_eq_right]

theorem any_isInfV_iff {l : List Val} : l.any isInfV = true ↔ ∃ b, Val.inf b ∈ l := by
  rw [List.any_eq_true]
  simp only [isInfV_iff]
  exact ⟨fun ⟨_, hx, b, he⟩ => ⟨b, he ▸ hx⟩, fun ⟨b, hb⟩ => ⟨_, hb, b, rfl⟩⟩

theorem optLast_nan (h : Val.nan ∈ ins) :
    (optLast fmt hp ins w m1 v1 u fl).bad = true ∧ (optLast fmt hp ins w m1 v1 u fl).fl = flNan := by
  simp only [optLast, any_isNanV_iff.mpr h, if_true, Bool.true_or, and_self]

theorem optLast_inf (h : Val.nan ∉ ins) (hi : ∃ b, Val.inf b ∈ ins) :
    (optLast fmt hp ins w m1 v1 u fl).bad = true ∧ (optLast fmt hp ins w m1 v1 u fl).fl = flInvalid := by
  have hn : ins.any isNanV = false := Bool.eq_false_iff.mpr (mt any_isNanV_iff.mp h)
  simp only [optLast, hn, any_isInfV_iff.mpr hi, if_true, Bool.true_or, Bool.or_true, and_self, Bool.false_eq_true, if_false]

/-- A bad element has a cause, a good one has none. -/
theorem optLast_bad_iff : (optLast fmt hp ins w m1 v1 u fl).bad = true ↔ (optLast fmt hp ins w m1 v1 u fl).fl.cause ≠ none := by
  by_cases hn : Val.nan ∈ ins
  · rw [(optLast_nan hn).1, (optLast_nan hn).2]
    decide
  · by_cases hi : ∃ b, Val.inf b ∈ ins
    · rw [(optLast_inf hn hi).1, (optLast_inf hn hi).2]
      decide
    · have hn : ins.any isNanV = false := Bool.eq_false_iff.mpr (mt any_isNanV_iff.mp hn)
      have hi : ins.any isInfV = false := Bool.eq_false_iff.mpr (mt any_isInfV_iff.mp hi)
      unfold optLast
      dsimp only
      rw [hn, hi, if_neg Bool.false_ne_true, if_neg Bool.false_ne_true]
      split
      case isTrue h => exact ⟨fun _ => Option.some_ne_none _, fun _ => h⟩
      case isFalse h => exact ⟨fun hb => absurd hb h, fun hc => absurd rfl hc⟩

/-- What a good element holds. -/
theorem optLast_good (hfmt : fmt = .f32 ∨ fmt = .bf16) (hins : ∀ x ∈ ins, IsFin x) {m' v' u' : Val} (em : m1 = m') (hm : IsFin m')
    (ev : v1 = v') (hv : IsFin v') (eu : u.1 = u') (hu : IsFin u') (hw : IsFin (subV w (mulVal hp.lr u')))
    (hof : (roundFp (specOf fmt) .rn false (subV w (mulVal hp.lr u'))).2.of = false) :
    (optLast fmt hp ins w m1 v1 u fl).Good fmt m' v' (subV w (mulVal hp.lr u')) := by
  subst em ev eu
  have hspec : specOf fmt = spec32 ∨ specOf fmt = specOf .bf16 := by rcases hfmt with rfl | rfl <;> simp [specOf]
  have hn : ins.any isNanV = false := List.any_eq_false.mpr fun x hx => Bool.eq_false_iff.mp (hins x hx).isNanV
  have hi : ins.any isInfV = false := List.any_eq_false.mpr fun x hx => Bool.eq_false_iff.mp (hins x hx).isInfV
  have hround := optRound_of_finite (x := (subV w (mulVal hp.lr u.1), u.2)) hw hof
  have hbad : (optLast fmt hp ins w m1 v1 u fl).bad = false := by
    simp only [optLast, hround, hn, hi, hm.isNanV, hv.isNanV, hu.isNanV,
      (isFin_rounded hspec hw hof).isNanV, Bool.or_self]
  refine ⟨hbad, not_not.mp (mt optLast_bad_iff.mpr (Bool.eq_false_iff.mp hbad)), rfl, rfl, ?_⟩
  simp only [optLast, hround]

end optLast

theorem isFin_zeroVal : IsFin zeroVal := ⟨_, _, _, rfl⟩

section algorithms
variable {fmt : Fmt} {hp : Hyper} {m v w : Val} (hfmt : fmt = .f32 ∨ fmt = .bf16) (hm : IsFin m) (hv : IsFin v) (hw : IsFin w)
  (a : Bool) (k : Nat) (e : Int)

include hm hv hw in
theorem optIns_fin (alg : OptAlg) : ∀ x ∈ optIns alg (.fin a k e) m v w, IsFin x := by
  unfold optIns
  split <;> simp only [List.forall_mem_cons]
  · exact ⟨⟨_, _, _, rfl⟩, hm, hv, hw, by simp⟩
  · exact ⟨⟨_, _, _, rfl⟩, hm, hw, by simp⟩

include hfmt hm hv hw

theorem optElem_adamw :
    let r := rounded
    let g := r (.fin a k (e - hp.gscale))
    let d := r (subV m g)
    let m1 := r (addV g (mulVal hp.beta1 d))
    let q := r (mulVal g g)
    let e' := r (subV v q)
    let v1 := r (addV q (mulVal hp.beta2 e'))
    let mh := r (mulVal m1 hp.bc1)
    let vh := r (mulVal v1 hp.bc2)
    let sq := r (sqrtVal vh)
    let den := r (addV sq hp.eps)
    let rt := r (divVal mh den)
    let up := r (addV rt (mulVal hp.wd w))
    let w1 := subV w (mulVal hp.lr up)
    (∀ x ∈ [g, d, m1, q, e', v1, mh, vh, sq, den, rt, up], IsFin x) → IsFin w1 ∧ (roundFp (specOf fmt) .rn false w1).2.of = false →
      (optElem .adamw fmt hp (.fin a k e) m v w).Good fmt m1 v1 w1 := by
  intro r g d m1 q e' v1 mh vh sq den rt up w1 hfin ⟨hw1, hof⟩
  simp only [List.forall_mem_cons] at hfin
  obtain ⟨hg, hd, hm1, hq, he', hv1, hmh, hvh, hsq, hden, hrt, hup, -⟩ := hfin
  let g' := rnd (.fin a k (e - hp.gscale)) {}
  let d' := rnd (subV m g'.1) g'.2
  let m' := rnd (addV g'.1 (mulVal hp.beta1 d'.1)) d'.2
  let q' := rnd (mulVal g'.1 g'.1) m'.2
  let s' := rnd (subV v q'.1) q'.2
  let v' := rnd (addV q'.1 (mulVal hp.beta2 s'.1)) s'.2
  let mh' := rnd (mulVal m'.1 hp.bc1) v'.2
  let vh' := rnd (mulVal v'.1 hp.bc2) mh'.2
  let sq' := rnd (sqrtVal vh'.1) vh'.2
  let den' := rnd (addV sq'.1 hp.eps) sq'.2
  let rt' := rnd (divVal mh'.1 den'.1) den'.2
  have eg : g'.1 = g := rnd_eq _ rfl hg
  have ed : d'.1 = d := rnd_eq _ (by rw [eg]) hd
  have em : m'.1 = m1 := rnd_eq _ (by rw [eg, ed]) hm1
  have eq : q'.1 = q := rnd_eq _ (by rw [eg]) hq
  have es : s'.1 = e' := rnd_eq _ (by rw [eq]) he'
  have ev : v'.1 = v1 := rnd_eq _ (by rw [eq, es]) hv1
  have emh : mh'.1 = mh := rnd_eq _ (by rw [em]) hmh
  have evh : vh'.1 = vh := rnd_eq _ (by rw [ev]) hvh
  have esq : sq'.1 = sq := rnd_eq _ (by rw [evh]) hsq
  have eden : den'.1 = den := rnd_eq _ (by rw [esq]) hden
  have ert : rt'.1 = rt := rnd_eq _ (by rw [emh, eden]) hrt
  have eup : (rnd (addV rt'.1 (mulVal hp.wd w)) rt'.2).1 = up := rnd_eq _ (by rw [ert]) hup
  exact optLast_good hfmt (optIns_fin hm hv hw a k e .adamw) em hm1 ev hv1 eup hup hw1 hof

theorem optElem_sgd :
    let g := rounded (.fin a k (e - hp.gscale))
    let m1 := rounded (addV (mulVal hp.beta1 m) g)
    let up := rounded (addV m1 (mulVal hp.wd w))
    let w1 := subV w (mulVal hp.lr up)
    (∀ x ∈ [g, m1, up], IsFin x) → IsFin w1 ∧ (roundFp (specOf fmt) .rn false w1).2.of = false →
      (optElem .sgd fmt hp (.fin a k e) m v w).Good fmt m1 zeroVal w1 := by
  intro g m1 up w1 hfin ⟨hw1, hof⟩
  simp only [List.forall_mem_cons] at hfin
  obtain ⟨hg, hm1, hup, -⟩ := hfin
  let g' := rnd (.fin a k (e - hp.gscale)) {}
  let m' := rnd (addV (mulVal hp.beta1 m) g'.1) g'.2
  have eg : g'.1 = g := rnd_eq _ rfl hg
  have em : m'.1 = m1 := rnd_eq _ (by rw [eg]) hm1
  have eup : (rnd (addV m'.1 (mulVal hp.wd w)) m'.2).1 = up := rnd_eq _ (by rw [em]) hup
  exact optLast_good hfmt (optIns_fin hm hv hw a k e .sgd) em hm1 rfl isFin_zeroVal eup hup hw1 hof

theorem optElem_lion :
    let g := rounded (.fin a k (e - hp.gscale))
    let d := rounded (subV m g)
    let c := rounded (addV g (mulVal hp.beta1 d))
    let sg := if isZero c then zeroVal else if isPos c then oneVal else negVal oneVal
    let up := rounded (addV sg (mulVal hp.wd w))
    let m1 := rounded (addV g (mulVal hp.beta2 d))
    let w1 := subV w (mulVal hp.lr up)
    (∀ x ∈ [g, d, c, up, m1], IsFin x) → IsFin w1 ∧ (roundFp (specOf fmt) .rn false w1).2.of = false →
      (optElem .lion fmt hp (.fin a k e) m v w).Good fmt m1 zeroVal w1 := by
  intro g d c sg up m1 w1 hfin ⟨hw1, hof⟩
  simp only [List.forall_mem_cons] at hfin
  obtain ⟨hg, hd, hc, hup, hm1, -⟩ := hfin
  let g' := rnd (.fin a k (e - hp.gscale)) {}
  let d' := rnd (subV m g'.1) g'.2
  let c' := rnd (addV g'.1 (mulVal hp.beta1 d'.1)) d'.2
  let sg' : Val := if isNanV c'.1 then .nan else if isZero c'.1 then zeroVal else if isPos c'.1 then oneVal else negVal oneVal
  have eg : g'.1 = g := rnd_eq _ rfl hg
  have ed : d'.1 = d := rnd_eq _ (by rw [eg]) hd
  have ec : c'.1 = c := rnd_eq _ (by rw [eg, ed]) hc
  have esg : sg' = sg := by
    show (if isNanV c'.1 then Val.nan else _) = _
    rw [ec, hc.isNanV]
    rfl
  have eup : (rnd (addV sg' (mulVal hp.wd w)) c'.2).1 = up := rnd_eq _ (by rw [esg]) hup
  let u' := rnd (addV sg' (mulVal hp.wd w)) c'.2
  have em : (rnd (addV g'.1 (mulVal hp.beta2 d'.1)) u'.2).1 = m1 := rnd_eq _ (by rw [eg, ed]) hm1
  exact optLast_good hfmt (optIns_fin hm hv hw a k e .lion) em hm1 rfl isFin_zeroVal eup hup hw1 hof

end algorithms

/-! ### What ostep writes to memory (R112, R188) -/

section area
variable {on : Nat → Bool} {eb pa : Nat} {f : Nat → Nat} {m : Memory}

/-- The bytes of one area after the update. -/
def areaBytes (on : Nat → Bool) (eb pa : Nat) (f : Nat → Nat) (m : Memory) : List Byte :=
  (List.range (512 * eb)).map (fun j =>
    if on (j / eb) then BitVec.ofNat 8 (f (j / eb) / 2 ^ (8 * (j % eb))) else m.byte (pa + j))

/-- Line `k` of an area, written: one that is governed whole is cleared of poison. -/
def areaLine (on : Nat → Bool) (eb pa : Nat) (m : Memory) (k : Nat) : Memory :=
  m.linePoison pa (if (List.range (64 / eb)).all (fun i => on (k * (64 / eb) + i)) then 512 * eb else 0) false (pa / 64 + k)

theorem putArea_eq : putArea on eb pa f m =
    (List.range (512 * eb / 64)).foldl (areaLine on eb pa) (m.write pa (areaBytes on eb pa f m)) := rfl

theorem areaLines_rest (ks : List Nat) (m : Memory) :
    ks.foldl (areaLine on eb pa) m = { m with poison := (ks.foldl (areaLine on eb pa) m).poison } := by
  induction ks generalizing m with
  | nil => rfl
  | cons k ks ih => rw [List.foldl_cons, ih, areaLine, m.linePoison_rest]

theorem putArea_byte (ha : m.Alive pa (512 * eb)) (x : Nat) : (putArea on eb pa f m).byte x =
    if pa ≤ x ∧ x < pa + 512 * eb ∧ on ((x - pa) / eb) = true then
      BitVec.ofNat 8 (f ((x - pa) / eb) / 2 ^ (8 * ((x - pa) % eb)))
    else m.byte x := by
  have hlen : (areaBytes on eb pa f m).length = 512 * eb := by simp [areaBytes]
  have hbyte : (putArea on eb pa f m).byte x = (m.write pa (areaBytes on eb pa f m)).byte x := by
    rw [putArea_eq, areaLines_rest]
    rfl
  rw [hbyte]
  by_cases hx : pa ≤ x ∧ x < pa + 512 * eb
  · rw [Memory.byte_write_inside (by rwa [hlen]) hx.1 (by rw [hlen]; exact hx.2)]
    have hj : x - pa < 512 * eb := by omega
    simp only [areaBytes, List.getD_eq_getElem?_getD, List.getElem?_map, List.getElem?_range hj, Option.map_some, Option.getD_some,
      Nat.add_sub_cancel' hx.1, hx, true_and]
  · rw [Memory.byte_write_outside _ _ _ _ (by rwa [hlen]), if_neg (fun h => hx ⟨h.1, h.2.1⟩)]

theorem putArea_dead : (putArea on eb pa f m).dead = m.dead ∧ (putArea on eb pa f m).ways = m.ways := by
  rw [putArea_eq, areaLines_rest, Memory.write_rest]
  exact ⟨rfl, rfl⟩

/-- No governed element of an area lies in a poisoned line. -/
def AreaClean (on : Nat → Bool) (eb pa : Nat) (m : Memory) : Prop := ∀ k < 512, on k = true → m.isPoisoned ((pa + eb * k) / 64) = false

theorem putArea_poison (hpa : pa % 64 = 0) (heb : eb = 2 ∨ eb = 4) (hc : AreaClean on eb pa m) (l : Nat) :
    (putArea on eb pa f m).isPoisoned l = m.isPoisoned l := by
  have hline (k : Nat) (hk : k < 512 * eb / 64) (hall : (List.range (64 / eb)).all (fun i => on (k * (64 / eb) + i)) = true) :
      pa / 64 + k ∉ m.poison := by
    have hk' : k * (64 / eb) < 512 := by rcases heb with rfl | rfl <;> omega
    have hon := List.all_eq_true.mp hall 0 (List.mem_range.mpr (by rcases heb with rfl | rfl <;> decide))
    have h := hc _ hk' hon
    have haddr : (pa + eb * (k * (64 / eb))) / 64 = pa / 64 + k := by rcases heb with rfl | rfl <;> omega
    rw [haddr, Memory.isPoisoned, Bool.or_eq_false_iff, ← Bool.not_eq_true, List.contains_iff_mem] at h
    exact h.1
  have hfold (ks : List Nat) (hks : ∀ k ∈ ks, k < 512 * eb / 64) (m' : Memory) (hm' : ∀ x, x ∈ m'.poison ↔ x ∈ m.poison) (x : Nat) :
      x ∈ (ks.foldl (areaLine on eb pa) m').poison ↔ x ∈ m.poison := by
    induction ks generalizing m' with
    | nil => exact hm' x
    | cons k ks ih =>
      refine ih (fun k hk => hks k (List.mem_cons_of_mem _ hk)) _ fun y => ?_
      rw [areaLine, Memory.mem_linePoison, hm']
      by_cases hy : y = pa / 64 + k
      · subst hy
        by_cases hall : (List.range (64 / eb)).all (fun i => on (k * (64 / eb) + i)) = true
        · simp [hline k (hks k List.mem_cons_self) hall]
        · rw [if_pos rfl, if_neg hall]
          simp only [Bool.false_eq_true, false_or]
          exact and_iff_right (by omega)
      · rw [if_neg hy]
  have hmem : l ∈ (putArea on eb pa f m).poison ↔ l ∈ m.poison := by
    rw [putArea_eq]
    exact hfold _ (fun _ => List.mem_range.mp) _ (fun x => by rw [Memory.write_rest]) l
  rw [Memory.isPoisoned, Memory.isPoisoned, Memory.deadAt_congr putArea_dead.1 putArea_dead.2, Bool.eq_iff_iff, Bool.or_eq_true,
    Bool.or_eq_true, List.contains_iff_mem, List.contains_iff_mem, hmem]

theorem areaPoison_iff : areaPoison on eb pa m = true ↔ ∃ k < 512, on k = true ∧ m.isPoisoned ((pa + eb * k) / 64) = true := by
  simp [areaPoison, List.any_eq_true]

end area

/-- The memory after an update that is written: the moments of `alg` and the weights of `eb` bytes. -/
def ostepMem (on : Nat → Bool) (alg : OptAlg) (eb pa : Nat) (res : Nat → OptRes) (m : Memory) : Memory :=
  let m := putArea on 4 pa (fun k => (res k).m) m
  let m := if alg = .adamw then putArea on 4 (pa + 0x800) (fun k => (res k).v) m else m
  putArea on eb (pa + 0x1000) (fun k => (res k).w) m

section record
variable {on : Nat → Bool} {alg : OptAlg} {eb pa : Nat} {res : Nat → OptRes} {m : Memory} (heb : eb = 2 ∨ eb = 4)

/-- The second moments of AdamW, no other. -/
theorem putSecond_byte (ha : m.Alive pa (512 * 4)) (f : Nat → Nat) (x : Nat) :
    (if alg = .adamw then putArea on 4 pa f m else m).byte x =
    if pa ≤ x ∧ x < pa + 2048 ∧ alg = .adamw ∧ on ((x - pa) / 4) = true then BitVec.ofNat 8 (f ((x - pa) / 4) / 2 ^ (8 * ((x - pa) % 4)))
    else m.byte x := by
  split
  case isTrue h =>
    rw [putArea_byte ha]
    simp only [h, true_and]
  case isFalse h => rw [if_neg (fun hx => h hx.2.2.1)]

include heb

omit heb in
theorem ostepMem_byte (hpa : 2 ^ 41 ≤ pa) (x : Nat) : (ostepMem on alg eb pa res m).byte x =
    if pa ≤ x ∧ x < pa + 2048 ∧ on ((x - pa) / 4) = true then
      BitVec.ofNat 8 ((res ((x - pa) / 4)).m / 2 ^ (8 * ((x - pa) % 4)))
    else if pa + 0x800 ≤ x ∧ x < pa + 0x1000 ∧ alg = .adamw ∧ on ((x - pa - 0x800) / 4) = true then
      BitVec.ofNat 8 ((res ((x - pa - 0x800) / 4)).v / 2 ^ (8 * ((x - pa - 0x800) % 4)))
    else if pa + 0x1000 ≤ x ∧ x < pa + (0x1000 + 512 * eb) ∧ on ((x - pa - 0x1000) / eb) = true then
      BitVec.ofNat 8 ((res ((x - pa - 0x1000) / eb)).w / 2 ^ (8 * ((x - pa - 0x1000) % eb)))
    else m.byte x := by
  have halive (m : Memory) (a n : Nat) (h : pa ≤ a) : m.Alive a n := Memory.alive_above n (.inr (hpa.trans h))
  unfold ostepMem
  dsimp only
  rw [putArea_byte (halive _ _ _ (Nat.le_add_right ..)), putSecond_byte (halive _ _ _ (Nat.le_add_right ..)),
    putArea_byte (halive _ _ _ le_rfl)]
  simp only [Nat.sub_sub]
  by_cases h1 : x < pa + 2048
  · rw [if_neg (fun h => by omega), if_neg (fun h => by omega), if_neg (c := pa + 0x800 ≤ x ∧ _) (fun h => by omega),
      if_neg (c := pa + 0x1000 ≤ x ∧ _) (fun h => by omega)]
  · by_cases h2 : x < pa + 0x1000
    · rw [if_neg (fun h => by omega), if_neg (c := pa ≤ x ∧ x < pa + 512 * 4 ∧ _) (fun h => by omega),
        if_neg (c := pa ≤ x ∧ x < pa + 2048 ∧ _) (fun h => by omega), if_neg (c := pa + 0x1000 ≤ x ∧ _) (fun h => by omega)]
    · rw [if_neg (c := pa + 0x800 ≤ x ∧ x < pa + 0x800 + 2048 ∧ _) (fun h => by omega),
        if_neg (c := pa ≤ x ∧ x < pa + 512 * 4 ∧ _) (fun h => by omega), if_neg (c := pa ≤ x ∧ x < pa + 2048 ∧ _) (fun h => by omega),
        if_neg (c := pa + 0x800 ≤ x ∧ x < pa + 0x1000 ∧ _) (fun h => by omega)]
      refine if_congr ?_ rfl rfl
      rw [Nat.add_assoc]

theorem ostepMem_poison (hpa : pa % 64 = 0) (hm : AreaClean on 4 pa m) (hv : alg = .adamw → AreaClean on 4 (pa + 0x800) m)
    (hw : AreaClean on eb (pa + 0x1000) m) (l : Nat) : (ostepMem on alg eb pa res m).isPoisoned l = m.isPoisoned l := by
  unfold ostepMem
  dsimp only
  generalize hm1 : putArea on 4 pa (fun k => (res k).m) m = m1
  have h1 (l : Nat) : m1.isPoisoned l = m.isPoisoned l := hm1 ▸ putArea_poison hpa (.inr rfl) hm l
  generalize hm2 : (if alg = .adamw then putArea on 4 (pa + 0x800) (fun k => (res k).v) m1 else m1) = m2
  have h2 (l : Nat) : m2.isPoisoned l = m.isPoisoned l := by
    rw [← hm2]
    split
    case isTrue h => rw [putArea_poison (by omega) (.inr rfl) fun k hk hon => (h1 _).trans (hv h k hk hon), h1]
    case isFalse => exact h1 l
  rw [putArea_poison (by omega) heb fun k hk hon => (h2 _).trans (hw k hk hon), h2]

end record

/-! ### ostep at issue (R112, R188) -/

/-- A vector instruction that completes and traps. -/
theorem gives_issueV_trap {n : CoreId} {i : Instr} {g : Guard} {rs : List VNum} {row : Option (Fin 128)} {f : CoreId → State → Eff}
    {s t : State} {x : Exc} (hi : exec i s = .next (issueV (.core n) i g rs row f s)) (he : g.err = .none)
    (hf : f n (disarm s n) = .trap t x) : Gives (.core n) i s
      (takeExc (retireAt n ((coreAt s n).pc + 8) t) n x 2 false (coreAt s n).pc ((coreAt s n).pc + 8)) := fun hr => by
  rw [issueV_core hi he, issueCore_trap hr (t := t) (x := x) (by rw [withErr_none, hf])]
  rfl

/-- What ostep counts, and writes where it does: written, or suppressed under a CLEAN seal or another. -/
def ostepCounts (n : CoreId) (gal : Gal) (step : BitVec 32) (written clean : Bool) (m : Memory) (t : State) : State :=
  if written then fincr { t with mem := m } (vecReg n.val 0x08) 31 0 1
  else
    let t := fincr t (vecReg n.val 0x10) 31 0 1
    if clean then
      let t := fbit t (vecReg n.val 0) 15
      noteFault t { kind := 0x17, cls := 2, unit := 1, gal := some gal, core := some n
                    d0 := step.setWidth 64, d1 := vecStatus t n }
    else t

theorem vecStatus_retireAt (n : CoreId) (dst : Word) (t : State) : vecStatus (retireAt n dst t) n = vecStatus t n := by
  have hv : (coreAt (retireAt n dst t) n).vpsn = (coreAt t n).vpsn := by rw [retireAt_eq, coreAt_modCore]; rfl
  rw [vecStatus, vecStatus, hv]
  rfl

theorem retireAt_ostepCounts (n : CoreId) (dst : Word) (gal : Gal) (step : BitVec 32) (written clean : Bool) (m : Memory)
    (t : State) : retireAt n dst (ostepCounts n gal step written clean m t) = ostepCounts n gal step written clean m (retireAt n dst t) := by
  unfold ostepCounts
  dsimp only
  rw [retireAt_ite, retireAt_ite, retireAt_noteFault, retireAt_fbit, ← retireAt_fincr, ← retireAt_fbit, vecStatus_retireAt]
  rfl

/-- The update of element `k` of a segment whose record lies at `pa`. -/
def ostepRes (n : CoreId) (fmt : Fmt) (alg : OptAlg) (va : VNum) (eb pa : Nat) (s : State) (k : Nat) : OptRes :=
  optElem alg fmt (hyperOf s n) (decodeElem .f32 (elemOf 32 (coreAt s n).v[va] k)) (val32 (recElem s.mem pa 4 k))
    (val32 (recElem s.mem (pa + 0x800) 4 k)) (decodeElem fmt (recElem s.mem (pa + 0x1000) eb k))

/-- Does a governed element of the record lie in a poisoned line? -/
def recordPoison (on : Nat → Bool) (alg : OptAlg) (eb pa : Nat) (m : Memory) : Bool :=
  areaPoison on 4 pa m || (decide (alg = .adamw) && areaPoison on 4 (pa + 0x800) m) || areaPoison on eb (pa + 0x1000) m

/-- The results of a segment, its poison, and whether an element is bad, as the model finds them. -/
def ostepFls (n : CoreId) (g : Guard) (res : Nat → OptRes) (s : State) : List (Nat × Fl) :=
  (governed 512 (governs n g 32 s)).map (fun k => (k, (res k).fl))

def ostepPoison (n : CoreId) (g : Guard) (alg : OptAlg) (va : VNum) (eb pa : Nat) (s : State) : Bool :=
  (governed 512 (governs n g 32 s)).any (inPoison n va 32 s) || recordPoison (governs n g 32 s) alg eb pa s.mem

def ostepBad (n : CoreId) (g : Guard) (res : Nat → OptRes) (s : State) : Bool :=
  (governed 512 (governs n g 32 s)).any (fun k => (res k).bad)

/-- What ostep leaves of a state `t` of the device beside its record: counts, flags and events. -/
def ostepLeft (n : CoreId) (g : Guard) (fmt : Fmt) (alg : OptAlg) (va : VNum) (gal : Gal) (eb pa : Nat) (s t : State) : State :=
  let on := governs n g 32 s
  let res := ostepRes n fmt alg va eb pa s
  let clean := decide (s.gal[gal].stepSeal.st = .clean)
  let written := clean && !ostepPoison n g alg va eb pa s && !ostepBad n g res s
  vecEvents n 1 (allFlags (ostepFls n g res s)) (firstEvent (ostepFls n g res s)) [] (coreAt s n).pc
    (ostepCounts n gal s.gal[gal].stepSeal.step written clean (ostepMem on alg eb pa res s.mem) t)

section left
variable {n : CoreId} {g : Guard} {fmt : Fmt} {alg : OptAlg} {va : VNum} {gal : Gal} {s : State} {eb : Nat}

theorem retireAt_ostepLeft (a pa : Nat) (i : Instr) : retireAt n ((coreAt s n).pc + 8)
      (ostepLeft n g fmt alg va gal eb pa s (disarm (logSram s n i a) n)) =
    ostepLeft n g fmt alg va gal eb pa s (fell (.core n) (logSram s n i a)) := by
  have hr := retireAt_disarm n (logSram s n i a)
  rw [coreAt_logSram] at hr
  rw [ostepLeft, retireAt_vecEvents, retireAt_ostepCounts, hr]
  rfl

/-- The flags and the NaN event of the update. -/
theorem floatDone_ostepLeft (pa : Nat) (t : State) :
    let res := ostepRes n fmt alg va eb pa s
    let clean := decide (s.gal[gal].stepSeal.st = .clean)
    FloatDone n 1 512 .f32 (governs n g 32 s) (fun k => (0, (res k).fl)) False (coreAt s n).pc
      (ostepCounts n gal s.gal[gal].stepSeal.step (clean && !ostepPoison n g alg va eb pa s && !ostepBad n g res s) clean
        (ostepMem (governs n g 32 s) alg eb pa res s.mem) t)
      (ostepLeft n g fmt alg va gal eb pa s t) := by
  have hzero : decodeElem .f32 0 = .fin false 0 (-149) := by decide
  intro res clean
  rw [ostepLeft]
  refine floatDone_vecEvents (fmt := .f32) (count := 512) (on := governs n g 32 s) (r := fun k => (0, (res k).fl)) (more := False)
    (vs := []) ?_ ?_ _
  · simp only [hzero]
    simp
  · simp only [hzero]
    simp

end left

section issue
variable {n : CoreId} {g : Guard} {fmt : Fmt} {alg : OptAlg} {sa : SReg} {va : VNum} {gal : Gal} {s : State}
  (hg : coreOwner s n = some gal) (he : g.err = .none) {a eb : Nat} (ha : (getS (.core n) sa s).toNat = a)
  (heb : (if fmt = .f32 then 4 else 2) = eb)

include hg he ha heb

theorem ostep_address (h : vecAddrOk a (0x1000 + 512 * eb) = false) : Gives (.core n) (.ostep (.core n) g fmt alg sa va) s
    (takeExc (disarm s n) n (excAddress a) 2 true (coreAt s n).pc (coreAt s n).pc) := by
  refine gives_issueV_fault (i := .ostep (.core n) g fmt alg sa va) rfl he ?_
  rw [onGallery_disarm hg]
  dsimp only
  rw [getS_disarm, ha, heb, h]
  rfl

theorem ostep_hold (h : vecAddrOk a (0x1000 + 512 * eb) = true) (hq : queueReads (coreAt s n) a (0x1000 + 512 * eb) = true)
    (hclean : s.gal[gal].stepSeal.st = .clean) : Gives (.core n) (.ostep (.core n) g fmt alg sa va) s
      (holdFor (disarm s n) n (.ostep (.core n) g fmt alg sa va)) := by
  refine gives_issueV_hold (i := .ostep (.core n) g fmt alg sa va) rfl he ?_
  rw [onGallery_disarm hg]
  dsimp only
  rw [getS_disarm, ha, heb, h, queueReads_disarm, hq, gal_disarm, hclean]
  rfl

omit he in
theorem ostep_eff (h : vecAddrOk a (0x1000 + 512 * eb) = true)
    (hq : ¬ (queueReads (coreAt s n) a (0x1000 + 512 * eb) = true ∧ s.gal[gal].stepSeal.st = .clean)) :
    let i : Instr := .ostep (.core n) g fmt alg sa va
    let pa := sramAt n a
    let t := ostepLeft n g fmt alg va gal eb pa s (disarm (logSram s n i a) n)
    ∃ f, exec i s = .next (issueV (.core n) i g [va] none f s) ∧ f n (disarm s n) =
      if ostepPoison n g alg va eb pa s then
        .trap t { excPoison (if recordPoison (governs n g 32 s) alg eb pa s.mem then a else 0) with src := 1 }
      else .done t := by
  intro i pa t
  refine ⟨_, rfl, ?_⟩
  rw [onGallery_disarm hg]
  dsimp only
  have hhold : (queueReads (coreAt s n) a (0x1000 + 512 * eb) && decide (s.gal[gal].stepSeal.st = .clean)) = false := by
    rw [← Bool.not_eq_true, Bool.and_eq_true, decide_eq_true_eq]
    exact hq
  have hclean : (disarm s n).gal[gal].stepSeal.st = s.gal[gal].stepSeal.st := rfl
  rw [getS_disarm, ha, heb, h, queueReads_disarm, hclean, hhold, guardOn_disarm, logSram_disarm, disarm_pc, Bool.not_true, if_neg Bool.false_ne_true,
    if_neg Bool.false_ne_true]
  simp only [elemPsn_disarm, elemVal_disarm, mem_disarm, mem_logSram]
  rfl

theorem gives_ostep (h : vecAddrOk a (0x1000 + 512 * eb) = true)
    (hq : ¬ (queueReads (coreAt s n) a (0x1000 + 512 * eb) = true ∧ s.gal[gal].stepSeal.st = .clean)) :
    let i : Instr := .ostep (.core n) g fmt alg sa va
    let t := ostepLeft n g fmt alg va gal eb (sramAt n a) s (fell (.core n) (logSram s n i a))
    (ostepPoison n g alg va eb (sramAt n a) s = false → Gives (.core n) i s t) ∧
    (ostepPoison n g alg va eb (sramAt n a) s = true → Gives (.core n) i s (takeExc t n
      { excPoison (if recordPoison (governs n g 32 s) alg eb (sramAt n a) s.mem then a else 0) with src := 1 } 2 false
      (coreAt s n).pc ((coreAt s n).pc + 8))) := by
  intro i t
  obtain ⟨f, hi, hf⟩ := ostep_eff (g := g) (alg := alg) (va := va) hg ha heb h hq
  have ht : retireAt n ((coreAt s n).pc + 8) (ostepLeft n g fmt alg va gal eb (sramAt n a) s (disarm (logSram s n i a) n)) = t :=
    retireAt_ostepLeft a (sramAt n a) i
  refine ⟨fun hp => ?_, fun hp => ?_⟩
  · rw [← ht]
    exact gives_issueV hi he (hf.trans (if_neg (by rw [hp]; exact Bool.false_ne_true)))
  · rw [← ht]
    exact gives_issueV_trap hi he (hf.trans (if_pos hp))

end issue

theorem recordPoison_iff {on : Nat → Bool} {alg : OptAlg} {eb pa : Nat} {m : Memory} : recordPoison on alg eb pa m = true ↔
    ∃ k < 512, on k = true ∧ (m.isPoisoned ((pa + 4 * k) / 64) = true ∨
      (alg = .adamw ∧ m.isPoisoned ((pa + 0x800 + 4 * k) / 64) = true) ∨ m.isPoisoned ((pa + 0x1000 + eb * k) / 64) = true) := by
  rw [recordPoison, Bool.or_eq_true, Bool.or_eq_true, Bool.and_eq_true, decide_eq_true_eq, areaPoison_iff, areaPoison_iff, areaPoison_iff]
  constructor
  · rintro ((⟨k, hk, hon, h⟩ | ⟨ha, k, hk, hon, h⟩) | ⟨k, hk, hon, h⟩)
    · exact ⟨k, hk, hon, .inl h⟩
    · exact ⟨k, hk, hon, .inr (.inl ⟨ha, h⟩)⟩
    · exact ⟨k, hk, hon, .inr (.inr h)⟩
  · rintro ⟨k, hk, hon, h | ⟨ha, h⟩ | h⟩
    · exact .inl (.inl ⟨k, hk, hon, h⟩)
    · exact .inl (.inr ⟨ha, k, hk, hon, h⟩)
    · exact .inr ⟨k, hk, hon, h⟩

theorem ostepPoison_iff {n : CoreId} {g : Guard} {alg : OptAlg} {va : VNum} {eb pa : Nat} {s : State} :
    ostepPoison n g alg va eb pa s = true ↔ recordPoison (governs n g 32 s) alg eb pa s.mem = true ∨
      ∃ k < 512, governs n g 32 s k = true ∧ inPoison n va 32 s k = true := by
  rw [ostepPoison, Bool.or_eq_true, or_comm, List.any_eq_true]
  simp only [mem_governed, and_assoc]

theorem ostepBad_iff {n : CoreId} {g : Guard} {res : Nat → OptRes} {s : State} :
    ostepBad n g res s = false ↔ ∀ k < 512, governs n g 32 s k = true → (res k).bad = false := by
  rw [ostepBad, List.any_eq_false]
  simp only [mem_governed, and_imp, Bool.not_eq_true]

theorem vecAddrOk_window {a k : Nat} (hk : 0 < k) : vecAddrOk a k = true ↔
    a % 64 = 0 ∧ ((2 ^ 48 ≤ a ∧ a + k ≤ 2 ^ 48 + 0x600000) ∨ (2 ^ 49 ≤ a ∧ a + k ≤ 2 ^ 49 + 0x1000000)) := by
  rw [vecAddrOk, decide_eq_true_eq]
  refine and_congr_right fun _ => ?_
  unfold winOf
  constructor
  · intro h
    split at h
    · rcases h with h | h <;> cases h
    · split at h
      · omega
      · split at h
        · omega
        · split at h <;> rcases h with h | h <;> cases h
  · rintro (h | h)
    · rw [if_neg (by omega), if_pos (by omega)]
      exact .inl rfl
    · rw [if_neg (by omega), if_neg (by omega), if_pos (by omega)]
      exact .inr rfl

/-- A record in the Cask or the Reserve lies on lines of its own, above the Cellar. -/
theorem sramAt_record {n : CoreId} {a k : Nat} (hk : 0 < k) (h : vecAddrOk a k = true) :
    sramAt n a % 64 = 0 ∧ 2 ^ 41 ≤ sramAt n a := by
  obtain ⟨hal, hw⟩ := (vecAddrOk_window hk).mp h
  rcases hw with ⟨h0, h1⟩ | ⟨h0, h1⟩
  · rw [sramAt_cask h0 (by omega), caskBase]
    omega
  · rw [sramAt_reserve h0 (by omega), reserveBase]
    omega

theorem logSram_record {n : CoreId} {a k : Nat} (hk : 0 < k) (h : vecAddrOk a k = true) (s : State) (i : Instr) :
    logSram s n i a = if 2 ^ 49 ≤ a then logReserve s n i [] else s := by
  obtain ⟨-, hw⟩ := (vecAddrOk_window hk).mp h
  split
  · exact logSram_reserve ‹_› (by omega) s n i
  · exact logSram_below (by omega) s n i

/-- Is the update of a segment written? -/
def OstepWrites (n : CoreId) (g : Guard) (fmt : Fmt) (alg : OptAlg) (va : VNum) (gal : Gal) (eb pa : Nat) (s : State) : Prop :=
  s.gal[gal].stepSeal.st = .clean ∧ ostepPoison n g alg va eb pa s = false ∧
    ∀ k < 512, governs n g 32 s k = true → (ostepRes n fmt alg va eb pa s k).bad = false

/-- The memory and the state that an update leaves, before its flags and events. -/
theorem ostep_effects {n : CoreId} {g : Guard} {fmt : Fmt} {alg : OptAlg} {va : VNum} {gal : Gal} {s : State} {eb pa : Nat}
    (heb : eb = 2 ∨ eb = 4) (hpa : pa % 64 = 0) (s0 : State) :
    let on := governs n g 32 s
    let res := ostepRes n fmt alg va eb pa s
    let writes := OstepWrites n g fmt alg va gal eb pa s
    ∃ (m : Memory) (t0 : State), (¬ writes → m = s.mem) ∧ (∀ l, m.isPoisoned l = s.mem.isPoisoned l) ∧
      (writes → m = ostepMem on alg eb pa res s.mem) ∧
      (s0.mem = s.mem →
        let s1 := { s0 with mem := m }
        (writes → t0 = fincr s1 (vecReg n.val 0x08) 31 0 1) ∧
        (¬ writes → s.gal[gal].stepSeal.st ≠ .clean → t0 = fincr s1 (vecReg n.val 0x10) 31 0 1) ∧
        (¬ writes → s.gal[gal].stepSeal.st = .clean →
          let s2 := fbit (fincr s1 (vecReg n.val 0x10) 31 0 1) (vecReg n.val 0) 15
          t0 = noteFault s2 { kind := 0x17, cls := 2, unit := 1, gal := some gal, core := some n
                              d0 := (s.gal[gal].stepSeal.step).setWidth 64, d1 := vecStatus s2 n })) ∧
      FloatDone n 1 512 .f32 on (fun k => (0, (res k).fl)) False (coreAt s n).pc t0 (ostepLeft n g fmt alg va gal eb pa s s0) := by
  intro on res writes
  have hd := floatDone_ostepLeft (n := n) (g := g) (fmt := fmt) (alg := alg) (va := va) (gal := gal) (s := s) (eb := eb) pa s0
  dsimp only at hd
  by_cases hw : writes
  · obtain ⟨hclean, hpsn, hbad⟩ := hw
    have hrec : ∀ k < 512, on k = true → (s.mem.isPoisoned ((pa + 4 * k) / 64) = false ∧
        (alg = .adamw → s.mem.isPoisoned ((pa + 0x800 + 4 * k) / 64) = false) ∧ s.mem.isPoisoned ((pa + 0x1000 + eb * k) / 64) = false) := by
      intro k hk hon
      have h := mt ostepPoison_iff.mpr (Bool.eq_false_iff.mp hpsn)
      have h := mt recordPoison_iff.mpr fun hr => h (.inl hr)
      simp only [← Bool.not_eq_true]
      exact ⟨fun hm => h ⟨k, hk, hon, .inl hm⟩, fun ha hv => h ⟨k, hk, hon, .inr (.inl ⟨ha, hv⟩)⟩,
        fun hw => h ⟨k, hk, hon, .inr (.inr hw)⟩⟩
    rw [ostepCounts, if_pos (by rw [hclean, hpsn, ostepBad_iff.mpr hbad]; rfl)] at hd
    refine ⟨ostepMem on alg eb pa res s.mem, _, fun h => absurd ⟨hclean, hpsn, hbad⟩ h,
      ostepMem_poison heb hpa (fun k hk hon => (hrec k hk hon).1) (fun ha k hk hon => (hrec k hk hon).2.1 ha)
        (fun k hk hon => (hrec k hk hon).2.2), fun _ => rfl, fun _ => ⟨fun _ => rfl, fun h => absurd ⟨hclean, hpsn, hbad⟩ h,
        fun h => absurd ⟨hclean, hpsn, hbad⟩ h⟩, hd⟩
  · have hnot : ¬ (decide (s.gal[gal].stepSeal.st = .clean) && !ostepPoison n g alg va eb pa s && !ostepBad n g res s) = true := by
      rw [Bool.and_eq_true, Bool.and_eq_true, decide_eq_true_eq, Bool.not_eq_true', Bool.not_eq_true', ostepBad_iff, and_assoc]
      exact hw
    rw [ostepCounts, if_neg hnot] at hd
    refine ⟨s.mem, _, fun _ => rfl, fun _ => rfl, fun h => absurd h hw, fun hm => ?_, hd⟩
    have hs0 : { s0 with mem := s.mem } = s0 := by rw [← hm]
    rw [hs0]
    exact ⟨fun h => absurd h hw, fun _ hc => if_neg (by rw [decide_eq_true_eq]; exact hc),
      fun _ hc => if_pos (by rw [decide_eq_true_eq]; exact hc)⟩

/-- Settles O23: the roundings of an element that stay finite are the model's, and the record is written area by area. -/
theorem optimizerUpdate : Obligations.OptimizerUpdate := by
  unfold Obligations.OptimizerUpdate
  refine ⟨fun fmt hp gin m v w hfmt => ⟨?_, fun alg => ?_⟩, ?_⟩
  · rintro ⟨-, hm, hv, hw⟩ u k e rfl
    exact ⟨optElem_adamw hfmt hm hv hw u k e, optElem_sgd hfmt hm hv hw u k e, optElem_lion hfmt hm hv hw u k e⟩
  · obtain ⟨m1, v1, u, fl, ho⟩ := optElem_last alg fmt hp gin m v w
    rw [ho]
    refine ⟨fun hn => ?_, fun hn hi => ?_, optLast_bad_iff⟩
    · have hn : Val.nan ∈ optIns alg gin m v w := hn
      obtain ⟨hbad, hfl⟩ := optLast_nan (fmt := fmt) (hp := hp) (w := w) (m1 := m1) (v1 := v1) (u := u) (fl := fl) hn
      exact ⟨hbad, by rw [hfl]; rfl, by rw [hfl]; rfl⟩
    · have hn : Val.nan ∉ optIns alg gin m v w := hn
      obtain ⟨hbad, hfl⟩ := optLast_inf (fmt := fmt) (hp := hp) (w := w) (m1 := m1) (v1 := v1) (u := u) (fl := fl) hn hi
      exact ⟨hbad, by rw [hfl]; rfl, by rw [hfl]; rfl⟩
  · intro n g fmt alg sa va gal s hg he h i a eb size inSram clean held pc pa on at_ res lineBad recPsn psn writes
    have heb : eb = 2 ∨ eb = 4 := by
      show (if fmt = .f32 then 4 else 2) = 2 ∨ (if fmt = .f32 then 4 else 2) = 4
      split <;> simp
    have hsize : 0 < size := Nat.add_pos_left (by decide) _
    have hwindow : vecAddrOk a size = true ↔ inSram := vecAddrOk_window hsize
    have haddr : BitVec.ofNat 64 a = getS h sa s := by rw [BitVec.ofNat_toNat, BitVec.setWidth_eq]
    refine ⟨fun hn => ?_, fun hin hheld => ?_, fun hin hheld => ?_⟩
    · have hf := ostep_address (alg := alg) (va := va) hg he rfl rfl (Bool.eq_false_iff.mpr (mt hwindow.mp hn))
      rw [excAddress, haddr] at hf
      exact hf
    · exact ostep_hold hg he rfl rfl (hwindow.mpr hin) hheld.1 hheld.2
    · have hok := hwindow.mpr hin
      obtain ⟨hal, habove⟩ := sramAt_record (n := n) hsize hok
      have hrec : recordPoison on alg eb pa s.mem = true ↔ recPsn := recordPoison_iff
      have hpsn : ostepPoison n g alg va eb pa s = true ↔ psn := by rw [ostepPoison_iff, hrec]
      have hwrites : OstepWrites n g fmt alg va gal eb pa s ↔ writes := by
        rw [OstepWrites, ← Bool.not_eq_true, hpsn]
        rfl
      have hlog : logSram s n i a = if 2 ^ 49 ≤ a then logReserve s n i [] else s := logSram_record hsize hok s i
      obtain ⟨hdone, htrap⟩ := gives_ostep (alg := alg) (va := va) hg he rfl rfl hok hheld
      obtain ⟨m, t0, hm, hl, hb, ht, hf⟩ := ostep_effects (n := n) (g := g) (fmt := fmt) (alg := alg) (va := va) (gal := gal) (s := s)
        heb hal (fell h (logSram s n i a))
      rw [hwrites] at hm hb ht
      refine ⟨m, t0, _, hm, hl, fun hw x => ?_, ?_, hf, fun hp => hdone ?_, fun hr => ?_, fun hp hr => ?_⟩
      · rw [hb hw, ostepMem_byte habove]
        rfl
      · rw [← hlog]
        exact ht (by rw [fell_logSram]; exact mem_logSram s n i a)
      · exact Bool.eq_false_iff.mpr (mt hpsn.mp hp)
      · have h := htrap (hpsn.mpr (.inl hr))
        rw [if_pos (hrec.mpr hr), excPoison, haddr] at h
        exact h
      · have h := htrap (hpsn.mpr hp)
        rw [if_neg (mt hrec.mp hr), excPoison_vector] at h
        exact h

end Sys2Proof.Machine
end

section
/-! PROOFS. Conversion and microscaling blocks (R86, R154 to R163). -/

namespace Sys2Proof.Machine

/-! ### Exponents of values (R161, Table 5-4) -/

/-- A finite value whose exponent is `a` lies in [2^a, 2^(a+1)). -/
theorem log2_eq_iff {m : Nat} (hm : m ≠ 0) (e X : Int) :
    e + log2 m = X ↔ (2 : ℚ) ^ X ≤ (m : ℚ) * 2 ^ e ∧ (m : ℚ) * 2 ^ e < 2 ^ (X + 1) := by
  have h1 : (2 : ℚ) ^ (log2 m : Int) ≤ m := by
    rw [zpow_natCast]
    exact_mod_cast Nat.log2_self_le hm
  have h2 : (m : ℚ) < 2 ^ ((log2 m : Int) + 1) := by
    rw [← Nat.cast_succ, zpow_natCast]
    exact_mod_cast Nat.lt_log2_self (n := m)
  have hpos : (0 : ℚ) < 2 ^ e := zpow_pos (by norm_num) e
  have hlow : (2 : ℚ) ^ (e + log2 m) ≤ m * 2 ^ e := by
    rw [add_comm, zpow_add₀ (by norm_num)]
    exact mul_le_mul_of_nonneg_right h1 hpos.le
  have hhigh : (m : ℚ) * 2 ^ e < 2 ^ (e + log2 m + 1) := by
    rw [show e + log2 m + 1 = (log2 m + 1 : Int) + e by ring, zpow_add₀ (by norm_num)]
    exact mul_lt_mul_of_pos_right h2 hpos
  constructor
  · rintro rfl
    exact ⟨hlow, hhigh⟩
  · rintro ⟨h3, h4⟩
    have := (zpow_lt_zpow_iff_right₀ (by norm_num : (1 : ℚ) < 2)).mp (hlow.trans_lt h4)
    have := (zpow_lt_zpow_iff_right₀ (by norm_num : (1 : ℚ) < 2)).mp (h3.trans_lt hhigh)
    omega

theorem maxExp_none {vs : List Val} : maxExp vs = none ↔ ∀ v ∈ vs, expOf v = none := by
  induction vs with
  | nil => simp [maxExp]
  | cons v r ih =>
    rw [maxExp, List.forall_mem_cons, ← ih]
    cases expOf v <;> cases maxExp r <;> simp

theorem maxExp_mem {vs : List Val} {a : Int} (h : maxExp vs = some a) : ∃ v ∈ vs, expOf v = some a := by
  induction vs generalizing a with
  | nil => exact nomatch h
  | cons v r ih =>
    rw [maxExp] at h
    have htail (ha : maxExp r = some a) : ∃ w ∈ v :: r, expOf w = some a :=
      (ih ha).imp fun _ hw => ⟨List.mem_cons_of_mem v hw.1, hw.2⟩
    cases hv : expOf v with
    | none => exact htail (by rw [← h, hv])
    | some x =>
      cases hr : maxExp r with
      | none =>
        rw [hv, hr] at h
        exact ⟨v, List.mem_cons_self, hv.trans h⟩
      | some y =>
        rw [hv, hr] at h
        rcases max_choice x y with hm | hm
        · exact ⟨v, List.mem_cons_self, by rw [hv, ← h]; exact congrArg some hm.symm⟩
        · exact htail (by rw [hr, ← h]; exact congrArg some hm.symm)

theorem maxExp_le {vs : List Val} {v : Val} {b : Int} (hv : v ∈ vs) (hb : expOf v = some b) : ∃ a, maxExp vs = some a ∧ b ≤ a := by
  induction vs with
  | nil => exact absurd hv List.not_mem_nil
  | cons w r ih =>
    rw [maxExp]
    rcases List.mem_cons.mp hv with rfl | hv
    · rw [hb]
      cases maxExp r with
      | none => exact ⟨b, rfl, le_rfl⟩
      | some y => exact ⟨_, rfl, le_max_left b y⟩
    · obtain ⟨a, ha, hle⟩ := ih hv
      rw [ha]
      cases expOf w with
      | none => exact ⟨a, rfl, hle⟩
      | some x => exact ⟨_, rfl, hle.trans (le_max_right x a)⟩

/-- The greatest exponent is one that a value has and none exceeds. -/
theorem maxExp_eq {vs : List Val} {X : Int} (h : ∃ v ∈ vs, expOf v = some X) (hle : ∀ v ∈ vs, ∀ b, expOf v = some b → b ≤ X) :
    maxExp vs = some X := by
  obtain ⟨v, hv, hX⟩ := h
  obtain ⟨a, ha, hXa⟩ := maxExp_le hv hX
  obtain ⟨w, hw, hwa⟩ := maxExp_mem ha
  rw [ha, le_antisymm (hle w hw a hwa) hXa]

/-! ### A block of microscaling elements (R161 to R163) -/

section block
variable (d src : Fmt) (rm : Rm) {vs : List Val}

theorem length_mxBlock (vs : List Val) : (mxBlock d src rm vs).codes.length = vs.length := by
  unfold mxBlock
  split
  · exact List.length_map _
  · split
    · exact List.length_map _
    · split <;> exact List.length_map _

/-- A block with a NaN or an infinity. -/
theorem mxBlock_special (h : Val.nan ∈ vs ∨ ∃ a, Val.inf a ∈ vs) :
    (mxBlock d src rm vs).scale = 0xFF ∧ ∀ c ∈ (mxBlock d src rm vs).codes, c.1 = 0 := by
  unfold mxBlock
  split
  · exact ⟨rfl, List.forall_mem_map.mpr fun _ _ => rfl⟩
  case isFalse hn =>
    have hi : vs.any isInfV = true := by
      rcases h with h | ⟨a, h⟩
      · exact absurd (List.any_eq_true.mpr ⟨_, h, rfl⟩) hn
      · exact List.any_eq_true.mpr ⟨_, h, rfl⟩
    rw [if_pos hi]
    exact ⟨rfl, List.forall_mem_map.mpr fun _ _ => rfl⟩

theorem mxBlock_finite (h : ∀ v ∈ vs, ∃ a m e, v = .fin a m e) : mxBlock d src rm vs =
    match maxExp vs with
    | none => ⟨0, vs.map (fun _ => (0, {}, false))⟩
    | some a =>
      let x := max (a - emaxOf d) (-127)
      ⟨(x + 127).toNat, vs.map (fun v =>
        let r := roundFp (specOf d) rm true (unscale x v)
        let c := plusZero d r.1
        (c, r.2, !isZero v && decide (c = 0)))⟩ := by
  have hn : vs.any isNanV = false := List.any_eq_false.mpr fun v hv => by
    obtain ⟨a, m, e, rfl⟩ := h v hv
    exact Bool.false_ne_true
  have hi : vs.any isInfV = false := List.any_eq_false.mpr fun v hv => by
    obtain ⟨a, m, e, rfl⟩ := h v hv
    exact Bool.false_ne_true
  rw [mxBlock, if_neg (by rw [hn]; exact Bool.false_ne_true), if_neg (by rw [hi]; exact Bool.false_ne_true)] <;> rfl

/-- A block of zeros. -/
theorem mxBlock_zero (h : ∀ v ∈ vs, ∃ a e, v = .fin a 0 e) :
    (mxBlock d src rm vs).scale = 0 ∧ ∀ c ∈ (mxBlock d src rm vs).codes, c = (0, {}, false) := by
  have hfin : ∀ v ∈ vs, ∃ a m e, v = .fin a m e := fun v hv => by
    obtain ⟨a, e, rfl⟩ := h v hv
    exact ⟨a, 0, e, rfl⟩
  have hnone : maxExp vs = none := maxExp_none.mpr fun v hv => by
    obtain ⟨a, e, rfl⟩ := h v hv
    rfl
  rw [mxBlock_finite d src rm hfin, hnone]
  exact ⟨rfl, List.forall_mem_map.mpr fun _ _ => rfl⟩

/-- A block whose greatest magnitude lies in [2^X, 2^(X+1)). -/
theorem mxBlock_scaled {X : Int} (hle : ∀ v ∈ vs, ∃ a m e, v = .fin a m e ∧ (m = 0 ∨ finRat false m e < 2 ^ (X + 1)))
    (hex : ∃ v ∈ vs, ∃ a m e, v = .fin a m e ∧ (2 : ℚ) ^ X ≤ finRat false m e) :
    let S := max (X - emaxOf d) (-127)
    ((mxBlock d src rm vs).scale : Int) = S + 127 ∧ ∀ k, ∀ hk : k < vs.length, ∀ a m e, vs[k] = .fin a m e →
      ((mxBlock d src rm vs).codes.getD k (0, {}, false)).1 = plusZero d (roundFp (specOf d) rm true (.fin a m (e - S))).1 := by
  intro S
  have hrat (m : Nat) (e : Int) : finRat false m e = m * 2 ^ e := by simp [finRat]
  have hfin : ∀ v ∈ vs, ∃ a m e, v = .fin a m e := fun v hv => by
    obtain ⟨a, m, e, rfl, -⟩ := hle v hv
    exact ⟨a, m, e, rfl⟩
  have hmax : maxExp vs = some X := by
    refine maxExp_eq ?_ fun v hv b hb => ?_
    · obtain ⟨v, hv, a, m, e, rfl, hX⟩ := hex
      have hm : m ≠ 0 := by
        rintro rfl
        rw [hrat, Nat.cast_zero, zero_mul] at hX
        exact absurd hX (not_le.mpr (zpow_pos (by norm_num) X))
      obtain ⟨a', m', e', he, hlt⟩ := hle _ hv
      cases he
      rw [hrat] at hX hlt
      refine ⟨_, hv, ?_⟩
      rw [expOf, if_neg hm, (log2_eq_iff hm e X).mpr ⟨hX, hlt.resolve_left hm⟩]
    · obtain ⟨a, m, e, rfl, hlt⟩ := hle v hv
      rw [expOf] at hb
      split at hb
      · exact nomatch hb
      · next hm =>
        cases hb
        have hlow := ((log2_eq_iff hm e _).mp rfl).1
        rw [hrat] at hlt
        have := (zpow_lt_zpow_iff_right₀ (by norm_num : (1 : ℚ) < 2)).mp (hlow.trans_lt (hlt.resolve_left hm))
        omega
  rw [mxBlock_finite d src rm hfin, hmax]
  refine ⟨by dsimp only; omega, fun k hk a m e hv => ?_⟩
  simp only [List.getD_eq_getElem?_getD, List.getElem?_map, List.getElem?_eq_getElem hk, Option.map_some, Option.getD_some, hv]
  rfl

/-- The scale of a block whose exponents lie below 2^8. -/
theorem mxBlock_scale_lt (h : ∀ v ∈ vs, ∀ a, expOf v = some a → a ≤ 128) : (mxBlock d src rm vs).scale < 256 := by
  have hemax : 2 ≤ emaxOf d := by cases d <;> decide
  unfold mxBlock
  split
  · exact Nat.lt_succ_self 0xFF
  · split
    · exact Nat.lt_succ_self 0xFF
    · split
      · exact Nat.zero_lt_succ 0xFF
      · next a ha =>
        obtain ⟨v, hv, hva⟩ := maxExp_mem ha
        have := h v hv a hva
        dsimp only
        omega

end block

/-! ### The exponents of element values (Table 5-1) -/

theorem expOf_fin_le {neg : Bool} {m k : Nat} {e b : Int} (hm : m < 2 ^ (k + 1)) (hb : e + k ≤ b) {a : Int}
    (h : expOf (.fin neg m e) = some a) : a ≤ b := by
  rw [expOf] at h
  split at h
  · exact nomatch h
  · next h0 =>
    cases h
    have : log2 m < k + 1 := (Nat.log2_lt h0).mpr hm
    omega

theorem expOf_fpDecode_le {f : FpSpec} (hf : 2 ^ f.eb ≤ f.bias + 129) {code : Nat} {a : Int} (h : expOf (fpDecode f code) = some a) :
    a ≤ 128 := by
  have hmant : code % 2 ^ f.mb < 2 ^ f.mb := Nat.mod_lt _ (Nat.two_pow_pos _)
  have hexp : code / 2 ^ f.mb % 2 ^ f.eb < 2 ^ f.eb := Nat.mod_lt _ (Nat.two_pow_pos _)
  unfold fpDecode at h
  dsimp only at h
  split at h
  · split at h <;> exact nomatch h
  · split at h
    · exact nomatch h
    · split at h
      · exact expOf_fin_le (k := f.mb) (by omega) (by omega) h
      · exact expOf_fin_le (k := f.mb) (by omega) (by omega) h

theorem expOf_decodeElem_le {f : Fmt} {code : Nat} (hc : code < 2 ^ fmtBits f) {a : Int} (h : expOf (decodeElem f code) = some a) :
    a ≤ 128 := by
  have hint {n : Nat} (hn : n = 8 ∨ n = 32) (h : expOf (.fin (decide (signedOf n code < 0)) (signedOf n code).natAbs 0) = some a) :
      a ≤ 128 := by
    refine expOf_fin_le (k := 32) ?_ (by decide) h
    unfold signedOf
    rcases hn with rfl | rfl <;> dsimp only <;> split <;> omega
  cases f
  case i8 => exact hint (.inl rfl) h
  case i32 => exact hint (.inr rfl) h
  case e8m0 =>
    rw [decodeElem] at h
    split at h
    · exact nomatch h
    · exact expOf_fin_le (k := 0) (by decide) (by omega) h
  case e2m3 => exact expOf_fpDecode_le (f := specOf .e2m3) (code := code % 64) (by decide) h
  case e3m2 => exact expOf_fpDecode_le (f := specOf .e3m2) (code := code % 64) (by decide) h
  case e4m3 => exact expOf_fpDecode_le (f := specOf .e4m3) (code := code) (by decide) h
  case e2m1 => exact expOf_fpDecode_le (f := specOf .e2m1) (code := code) (by decide) h
  all_goals exact expOf_fpDecode_le (code := code) (by decide) h

/-! ### A whole register written (R86) -/

/-- The poison of a register written whole. -/
def wholePsn (w : Nat) (q : Nat → Bool) : BitVec 32 := psnAfter w 0 (fun _ => true) q

theorem psnAfter_all (w : Nat) (old : BitVec 32) (q : Nat → Bool) : psnAfter w old (fun _ => true) q = wholePsn w q := by
  have hall (k : Nat) : (segElems w k).all (fun _ => true) = true := List.all_eq_true.mpr fun _ _ => rfl
  refine BitVec.eq_of_getLsbD_eq fun k hk => ?_
  rw [wholePsn, getLsbD_psnAfter w _ _ _ hk, getLsbD_psnAfter w _ _ _ hk, hall]
  rfl

theorem commitV_all (n : CoreId) (r : VNum) (w : Nat) (f : Nat → Nat) (q : Nat → Bool) (t : State) :
    commitV n r w (fun _ => true) f q t = setV n r (vecOf w f) (wholePsn w q) t := by
  rw [commitV, psnAfter_all]
  rfl

theorem laneWrite_all {w : Nat} (hw : w = 4 ∨ w = 8 ∨ w = 16 ∨ w = 32) (old : VReg) (oldPsn : BitVec 32) {f f' : Nat → Nat} {q q' : Nat → Bool}
    (hf : ∀ i, f i % 2 ^ w = f' i % 2 ^ w) (hq : ∀ i, q i = q' i) :
    LaneWrite old oldPsn w (fun _ => true) f' q' (vecOf w f) (wholePsn w q) := by
  have h := laneWrite_commit hw (old := old) (oldPsn := oldPsn) (on := fun _ => true) (src := q) hf
  rw [psnAfter_all] at h
  rw [← funext hq]
  exact h

/-! ### The results of a vcvt -/

theorem governed_all (N : Nat) : governed N (fun _ => true) = List.range N := List.filter_true _

/-- Runs of 32 one after another. -/
theorem flatMap_blocks {α : Type} (dflt : α) {L : Nat → List α} (hL : ∀ b, (L b).length = 32) (M : Nat) :
    (List.range M).flatMap L = (List.range (32 * M)).map (fun i => (L (i / 32)).getD (i % 32) dflt) := by
  induction M with
  | zero => rfl
  | succ M ih =>
    have hrun : (List.range 32).map (fun j => (L M).getD j dflt) = L M := by
      refine List.ext_getElem (by simp [hL]) fun j hj hj' => ?_
      simp [List.getD_eq_getElem?_getD, List.getElem?_eq_getElem hj']
    rw [List.range_succ, List.flatMap_append, ih, Nat.mul_succ, List.range_add, List.map_append, List.map_map, List.flatMap_singleton]
    congr 1
    rw [← hrun]
    refine List.map_congr_left fun j hj => ?_
    have hj := List.mem_range.mp hj
    rw [Function.comp_apply, show (32 * M + j) / 32 = M by omega, show (32 * M + j) % 32 = j by omega]

section results
variable (d src : Fmt) (rm : Rm) (sat : Bool) (x : Nat → Val)

/-- Element `i` converted alone, and element `i` of its microscaling block. -/
def cvtOne (i : Nat) : Nat × Fl := let r := convVal d rm sat src (x i); (plusZero d r.1, r.2)
def cvtBlock (b : Nat) : Block := mxBlock d src rm (blockVals x b)
def cvtMx (i : Nat) : Nat × Fl := let c := (cvtBlock d src rm x (i / 32)).codes.getD (i % 32) (0, {}, false); (c.1, c.2.1)

theorem cvtElems_one : cvtElems d src rm sat false x = ⟨(List.range (cvtCount d src)).map (cvtOne d src rm sat x), [], 0⟩ := rfl

theorem length_cvtBlock (b : Nat) : (cvtBlock d src rm x b).codes.length = 32 := by
  rw [cvtBlock, length_mxBlock, blockVals, List.length_map, List.length_range]

theorem cvtElems_mx : cvtElems d src rm sat true x =
    ⟨(List.range (cvtCount d src)).map (cvtMx d src rm x),
      (List.range (cvtCount d src / 32)).map (fun b => (cvtBlock d src rm x b).scale),
      ((List.range (cvtCount d src / 32)).map (fun b => ((cvtBlock d src rm x b).codes.filter (fun c => c.2.2)).length)).sum⟩ := by
  have hcount : 32 * (cvtCount d src / 32) = cvtCount d src := by
    unfold cvtCount
    split <;> rfl
  have hcodes : ((List.range (cvtCount d src / 32)).map (cvtBlock d src rm x)).flatMap (fun b => b.codes.map fun c => (c.1, c.2.1)) =
      (List.range (cvtCount d src)).map (cvtMx d src rm x) := by
    rw [List.flatMap_map, flatMap_blocks (0, {}) (fun b => by rw [List.length_map, length_cvtBlock]), hcount]
    refine List.map_congr_left fun i _ => ?_
    simp only [cvtMx, List.getD_eq_getElem?_getD, List.getElem?_map]
    cases (cvtBlock d src rm x (i / 32)).codes[i % 32]? <;> rfl
  have hflush : (((List.range (cvtCount d src / 32)).map (cvtBlock d src rm x)).flatMap Block.codes).countP (fun c => c.2.2) =
      ((List.range (cvtCount d src / 32)).map (fun b => ((cvtBlock d src rm x b).codes.filter (fun c => c.2.2)).length)).sum := by
    rw [List.flatMap_map, List.countP_flatMap]
    refine congrArg List.sum (List.map_congr_left fun b _ => ?_)
    rw [Function.comp_apply, List.countP_eq_length_filter]
  have hscales : ((List.range (cvtCount d src / 32)).map (cvtBlock d src rm x)).map Block.scale =
      (List.range (cvtCount d src / 32)).map (fun b => (cvtBlock d src rm x b).scale) := List.map_map
  rw [← hcodes, ← hflush, ← hscales]
  rfl

end results

/-- Elements below `N` of a list that holds `f 0`, `f 1`, …, and the default above. -/
theorem getD_map_range {α : Type} (N : Nat) (f : Nat → α) (i : Nat) (dflt : α) :
    ((List.range N).map f).getD i dflt = if i < N then f i else dflt := by
  rw [List.getD_eq_getElem?_getD, List.getElem?_map]
  split
  · rw [List.getElem?_range ‹_›]
    rfl
  · rw [List.getElem?_eq_none (by simpa using Nat.not_lt.mp ‹_›)]
    rfl

/-! ### vcvt at issue (R86) -/

section vcvt
variable (n : CoreId) (d src : Fmt) (rm : RmField) (sat mx : Bool) (vd va vc : VNum) (s : State)

/-- The elements that vcvt converts. -/
def cvtSource (i : Nat) : Val := decodeElem src (elemOf (fmtBits src) (coreAt s n).v[va] i)

/-- Does a poisoned segment reach destination element `i`? -/
def cvtSourcePsn (i : Nat) : Bool :=
  decide (i < cvtCount d src) && (if mx then (List.range 32).any (fun j => inPoison n va (fmtBits src) s (i / 32 * 32 + j))
    else inPoison n va (fmtBits src) s i)

def cvtScalePsn (m i : Nat) : Bool := (List.range (cvtCount d src)).any (fun i => inPoison n va (fmtBits src) s i) && decide (i < m)

/-- The registers of the codes and of the scales of a result. -/
def cvtCodes (r : Cvt) : VReg := vecOf (fmtBits d) (fun i => (r.codes.getD i (0, {})).1)
def cvtScales (r : Cvt) : VReg := vecOf 8 (fun i => r.scales.getD i 0)

/-- The registers that vcvt writes: vd with the codes, vc with the scales, the codes last where `codesLast`. -/
def cvtPut (r : Cvt) (codesLast : Bool) (t : State) : State :=
  let putD := setV n vd (cvtCodes d r) (wholePsn (fmtBits d) (cvtSourcePsn n d src mx va s))
  let putC := setV n vc (cvtScales r) (wholePsn 8 (cvtScalePsn n d src va s r.scales.length))
  if !mx then putD t else if codesLast then putD (putC t) else putC (putD t)

/-- What vcvt leaves of a state `t`: the registers, the flush count, flags and events. -/
def cvtLeft (r : Cvt) (codesLast : Bool) (t : State) : State :=
  let fls := (List.range (cvtCount d src)).map (fun i => (i, (r.codes.getD i (0, {})).2))
  vecEvents n 1 (allFlags fls) (firstEvent fls) (r.codes.map (fun c => decodeElem d c.1) ++ r.scales.map (decodeElem .e8m0))
    (coreAt s n).pc (fincr (cvtPut n d src mx vd va vc s r codesLast t) (engReg n.val 0x10) 31 0 r.flushed)

theorem retireAt_cvtLeft (r : Cvt) (codesLast : Bool) (dst : Word) (t : State) :
    retireAt n dst (cvtLeft n d src mx vd va vc s r codesLast t) = cvtLeft n d src mx vd va vc s r codesLast (retireAt n dst t) := by
  rw [cvtLeft, retireAt_vecEvents, retireAt_fincr]
  unfold cvtPut
  dsimp only
  simp only [retireAt_ite, retireAt_setV]
  rfl

theorem gives_vcvt (g : Guard) (he : g.err = .none) : ∃ codesLast : Bool, (vd ≠ vc → codesLast = false) ∧
    Gives (.core n) (.vcvt (.core n) g d src rm sat mx vd va vc) s (cvtLeft n d src mx vd va vc s
      (cvtElems d src (fieldRm rm n s) sat mx (cvtSource n src va s)) codesLast (fell (.core n) s)) := by
  let i : Instr := .vcvt (.core n) g d src rm sat mx vd va vc
  refine ⟨decide (vd = vc ∧ Config.sameDest (encodeSeisk i) (coreAt s n).v[va] = true),
    fun h => decide_eq_false fun hc => h hc.1, ?_⟩
  rw [← retireAt_disarm, ← retireAt_cvtLeft]
  refine gives_issueV (i := i) rfl he ?_
  have hsrc : (fun i => elemVal n src va (disarm s n) i) = cvtSource n src va s := funext fun i => elemVal_disarm s n src va i
  have hpsn : cvtPsn n src mx va (disarm s n) (cvtCount d src) = cvtSourcePsn n d src mx va s := funext fun i => by
    simp only [cvtPsn, elemPsn_disarm]
    rfl
  dsimp only
  simp only [commitV_all, fieldRm_disarm, hsrc, hpsn, elemPsn_disarm, getV_disarm, disarm_pc, cvtLeft, cvtPut, decide_eq_true_eq]
  rfl

/-- The flags and events of a vcvt whose codes are `one` and whose scales are `sc`. -/
theorem floatDone_cvtLeft {r : Cvt} (codesLast : Bool) {one : Nat → Nat × Fl} {M : Nat} {sc : Nat → Nat} {more : Prop}
    (hcodes : r.codes = (List.range (cvtCount d src)).map one) (hscales : r.scales = (List.range M).map sc)
    (hmore : more ↔ ∃ b < M, sc b % 256 = 255) (t : State) :
    FloatDone n 1 (cvtCount d src) d (fun _ => true) one more (coreAt s n).pc
      (fincr (cvtPut n d src mx vd va vc s r codesLast t) (engReg n.val 0x10) 31 0 r.flushed)
      (cvtLeft n d src mx vd va vc s r codesLast t) := by
  have hcode (p : Val → Bool) : (r.codes.map (fun c => decodeElem d c.1)).any p = true ↔
      ∃ i < cvtCount d src, p (decodeElem d (one i).1) = true := by
    rw [hcodes, List.map_map, List.any_map, List.any_eq_true]
    simp only [List.mem_range, Function.comp_apply]
  have hscale (p : Val → Bool) : (r.scales.map (decodeElem .e8m0)).any p = true ↔ ∃ b < M, p (decodeElem .e8m0 (sc b)) = true := by
    rw [hscales, List.map_map, List.any_map, List.any_eq_true]
    simp only [List.mem_range, Function.comp_apply]
  have hnanScale (c : Nat) : isNanV (decodeElem .e8m0 c) = true ↔ c % 256 = 255 := by
    rw [decodeElem]
    split <;> simp [isNanV, *]
  have hinfScale (c : Nat) : ¬ isInfV (decodeElem .e8m0 c) = true := by
    rw [decodeElem]
    split <;> exact Bool.false_ne_true
  have hfls : (governed (cvtCount d src) (fun _ => true)).map (fun i => (i, (one i).2)) =
      (List.range (cvtCount d src)).map (fun i => (i, (r.codes.getD i (0, {})).2)) := by
    rw [governed_all]
    refine List.map_congr_left fun i hi => ?_
    rw [hcodes]
    simp [List.getD_eq_getElem?_getD, List.mem_range.mp hi]
  rw [cvtLeft, ← hfls]
  refine floatDone_vecEvents ?_ ?_ _
  · rw [List.any_append, Bool.or_eq_true, hcode, hscale, or_comm, hmore]
    simp only [hnanScale, isNanV_iff, true_and]
  · rw [List.any_append, Bool.or_eq_true, hcode, hscale]
    simp only [hinfScale, isInfV_iff, true_and, Bool.false_eq_true, and_false, exists_false, or_false]

/-- Flags and events leave the vector registers. -/
theorem v_vecEvents (unit : Nat) (fl : Fl) (ev : Option (Nat × Nat)) (vs : List Val) (pc : Word) (t : State) :
    (coreAt (vecEvents n unit fl ev vs pc t) n).v = (coreAt t n).v := by
  have hset (p : Prop) [Decidable p] (u : State) (b : Nat) : (if p then fbit u (vecReg n.val 0) b else u).cores = u.cores := by
    split <;> rfl
  have hnote : (coreAt (noteOut n vs (setFlags n fl t)) n).v = (coreAt t n).v := by
    have hcores : (noteOut n vs (setFlags n fl t)).cores = (setFlags n fl t).cores := (hset _ _ _).trans (hset _ _ _)
    have hflags := congrArg Core.v (coreAt_modCore t n (fun c => { c with fpctl := c.fpctl ||| flWord fl }))
    rw [coreAt, hcores]
    exact hflags
  have hnan (u : State) (c i : Nat) : (coreAt (nanEvent u n unit 2 c 0 i 0 pc) n).v = (coreAt u n).v := by
    rw [nanEvent]
    split
    · rfl
    · next g _ =>
      by_cases hf : u.gal[g].fired = true
      · rw [nanMeet_fired hf]
        rfl
      · rw [nanMeet_waits (Bool.eq_false_iff.mpr hf), nanQueued_core]
        rfl
  cases ev with
  | none => exact hnote
  | some e => exact (hnan _ _ _).trans hnote

theorem v_cvtLeft_same (r : Cvt) (codesLast : Bool) (t : State) :
    (coreAt (cvtLeft n d src mx vd va vd s r codesLast t) n).v[vd] = cvtCodes d r ∨
    (coreAt (cvtLeft n d src mx vd va vd s r codesLast t) n).v[vd] = cvtScales r := by
  have hset (v : VReg) (p : BitVec 32) (u : State) : (coreAt (setV n vd v p u) n).v[vd] = v := by
    rw [setV, coreAt_modCore]
    exact Vector.getElem_set_self vd.isLt
  have hinc (u : State) (k : Nat) : (coreAt (fincr u (engReg n.val 0x10) 31 0 k) n).v = (coreAt u n).v := rfl
  rw [cvtLeft, v_vecEvents, hinc, cvtPut]
  split
  · exact .inl (hset _ _ _)
  · split
    · exact .inl (hset _ _ _)
    · exact .inr (hset _ _ _)

end vcvt

section lanes
variable {d : Fmt} {r : Cvt} (old : VReg) (oldPsn : BitVec 32) (q : Nat → Bool)

theorem laneWrite_codes {N : Nat} {one : Nat → Nat × Fl} (h : r.codes = (List.range N).map one) :
    LaneWrite old oldPsn (fmtBits d) (fun _ => true) (fun k => if k < N then (one k).1 else 0) q (cvtCodes d r) (wholePsn (fmtBits d) q) := by
  refine laneWrite_all (fmtBits_width d) old oldPsn (fun k => ?_) fun _ => rfl
  rw [h, getD_map_range, apply_ite Prod.fst]

theorem laneWrite_scales {M : Nat} {sc : Nat → Nat} (h : r.scales = (List.range M).map sc) :
    LaneWrite old oldPsn 8 (fun _ => true) (fun k => if k < M then sc k else 0) q (cvtScales r) (wholePsn 8 q) := by
  refine laneWrite_all (.inr (.inl rfl)) old oldPsn (fun k => ?_) fun _ => rfl
  rw [h, getD_map_range]

end lanes

/-- The scale of a block of elements of a register. -/
theorem cvtBlock_scale_lt (d src : Fmt) (rm : Rm) (n : CoreId) (va : VNum) (s : State) (b : Nat) :
    (cvtBlock d src rm (cvtSource n src va s) b).scale < 256 := by
  refine mxBlock_scale_lt d src rm fun v hv a ha => ?_
  obtain ⟨j, -, rfl⟩ := List.mem_map.mp hv
  exact expOf_decodeElem_le (Nat.mod_lt _ (Nat.two_pow_pos _)) ha

/-- Settles O16: a vcvt writes its registers whole, from the codes and scales of its elements and blocks. -/
theorem vectorConvert : Obligations.VectorConvert := by
  unfold Obligations.VectorConvert
  refine ⟨fun n d src rm sat mx vd va vc s => ?_, fun d src rm vs => ⟨length_mxBlock d src rm vs, mxBlock_special d src rm,
    mxBlock_zero d src rm, fun X => mxBlock_scaled d src rm⟩, rfl, rfl, rfl, rfl, rfl⟩
  intro h N mode x one blk pe all i wr
  obtain ⟨codesLast, hlast, hg⟩ := gives_vcvt n d src rm sat mx vd va vc s { p := 0, neg := false } rfl
  generalize hr : cvtElems d src (fieldRm rm n s) sat mx (cvtSource n src va s) = r at hg
  have hscalePsn (m : Nat) : cvtScalePsn n d src va s m = fun k => decide (k < m) && (List.range N).any pe :=
    funext fun k => Bool.and_comm _ _
  cases mx with
  | false =>
    refine ⟨fun _ => ?_, fun hmx => absurd hmx Bool.false_ne_true, fun hmx => absurd hmx Bool.false_ne_true⟩
    rw [cvtElems_one] at hr
    have hcodes : r.codes = (List.range N).map one := hr ▸ rfl
    have hscales : r.scales = (List.range 0).map (fun _ => 0) := hr ▸ rfl
    have hflushed : r.flushed = 0 := hr ▸ rfl
    have hd := floatDone_cvtLeft n d src false vd va vc s codesLast hcodes hscales (more := False) (by simp) (fell h s)
    rw [hflushed] at hd
    exact ⟨cvtCodes d r, wholePsn (fmtBits d) (cvtSourcePsn n d src false va s), _, laneWrite_codes _ _ _ hcodes, hd, hg⟩
  | true =>
    rw [cvtElems_mx] at hr
    have hcodes : r.codes = (List.range N).map (cvtMx d src mode x) := hr ▸ rfl
    have hscales : r.scales = (List.range (N / 32)).map (fun b => (blk b).scale) := hr ▸ rfl
    have hmore : (∃ b < N / 32, (blk b).scale = 0xFF) ↔ ∃ b < N / 32, (blk b).scale % 256 = 255 :=
      exists_congr fun b => and_congr_right fun _ => by
        have hlt : (blk b).scale < 256 := cvtBlock_scale_lt d src mode n va s b
        rw [Nat.mod_eq_of_lt hlt]
    have hd := floatDone_cvtLeft n d src true vd va vc s codesLast hcodes hscales hmore (fell h s)
    have hwd := laneWrite_codes (d := d) (coreAt s n).v[vd] (coreAt s n).vpsn[vd] (cvtSourcePsn n d src true va s) hcodes
    have hwc := laneWrite_scales (coreAt s n).v[vc] (coreAt s n).vpsn[vc] (cvtScalePsn n d src va s (N / 32)) hscales
    refine ⟨fun hmx => absurd hmx.symm Bool.false_ne_true, fun _ hne => ?_, fun _ heq => ?_⟩
    · have hlen : r.scales.length = N / 32 := by rw [hscales, List.length_map, List.length_range]
      have hflushed : r.flushed = ((List.range (N / 32)).map (fun b => ((blk b).codes.filter (fun c => c.2.2)).length)).sum := hr ▸ rfl
      rw [hlast hne] at hd hg
      rw [cvtPut, hlen, hflushed, hscalePsn] at hd
      rw [hscalePsn] at hwc
      exact ⟨cvtCodes d r, _, cvtScales r, _, _, hwd, hwc, hd, hg⟩
    · subst heq
      rw [hscalePsn] at hwc
      exact ⟨cvtCodes d r, _, cvtScales r, _, _, hwd, hwc, v_cvtLeft_same n d src true vd va s r codesLast _, hg⟩

end Sys2Proof.Machine
end

section
/-! PROOFS. A core that takes an exception is not live, whatever its fault brings about (R61 to R63, R383 to R396). -/

namespace Sys2Proof.Machine

/-- Core `n` is live in `t` only where it is live in `s`. -/
def NoWake (n : CoreId) (s t : State) : Prop := live (coreAt t n) = true → live (coreAt s n) = true

namespace NoWake
variable {n : CoreId} {s t u : State}

theorem refl : NoWake n s s := id

theorem of_cores (h : t.cores = s.cores) : NoWake n s t := by
  unfold NoWake coreAt
  rw [h]
  exact id

theorem trans (h : NoWake n s t) (k : NoWake n t u) : NoWake n s u := h ∘ k

theorem foldl {α : Type} (f : State → α → State) (hf : ∀ s x, NoWake n s (f s x)) (l : List α) (s : State) : NoWake n s (l.foldl f s) := by
  induction l generalizing s with
  | nil => exact refl
  | cons x l ih => exact (hf s x).trans (ih _)

theorem modCore (s : State) (m : CoreId) {f : Core → Core} (hf : ∀ c, live (f c) = true → live c = true) : NoWake n s (modCore s m f) := by
  unfold NoWake
  by_cases h : n = m
  · subst h
    rw [coreAt_modCore]
    exact hf _
  · rw [coreAt_modCore_of_ne _ _ h]
    exact id

theorem ite {p : Prop} [Decidable p] (h : NoWake n s t) (k : NoWake n s u) : NoWake n s (if p then t else u) := by
  split
  · exact h
  · exact k

end NoWake

section wake
variable {n : CoreId} (s : State) (g : Gal)

theorem setRq_noWake (m : CoreId) (q : Fin 2) (x : RQueue) : NoWake n s (setRq s m q x) := .modCore s m fun _ h => h

theorem writeRecord_noWake (m : CoreId) (q : Fin 2) (status : Nat) : NoWake n s (writeRecord s m q status) := by
  unfold writeRecord
  dsimp only
  refine .trans (.of_cores ?_) (.trans (setRq_noWake _ m q _) (.of_cores rfl))
  change State.cores (match startedDesc s m q with
    | some r => _
    | none => s) = s.cores
  split
  · split
    · exact chkIncomplete_cores s m q _
    · rfl
  · rfl

theorem stopActive_noWake (m : CoreId) (q : Fin 2) : NoWake n s (stopActive s m q) := by
  have hset (mem : Memory) (x : RQueue) : NoWake n s (setRq { s with mem := mem, free := s.free + 1 } m q x) :=
    .trans (.of_cores rfl) (setRq_noWake _ m q x)
  have hfset {t : State} (h : NoWake n s t) (o hi lo v : Nat) : NoWake n s (fset t o hi lo v) := h.trans (.of_cores rfl)
  have hfincr {t : State} (h : NoWake n s t) (o hi lo k : Nat) : NoWake n s (fincr t o hi lo k) := hfset h o hi lo _
  unfold stopActive
  dsimp only
  split
  · exact .refl
  · exact .ite .refl (hfincr (hfincr (.ite (hfset (hset _ _) _ _ _ _) (hset _ _)) _ _ _ _) _ _ _ _)

theorem killRecords_noWake (fuel : Nat) (s : State) (m : CoreId) (q : Fin 2) : NoWake n s (killRecords fuel s m q) := by
  induction fuel generalizing s with
  | zero => exact .refl
  | succ fuel ih => exact .ite ((writeRecord_noWake s m q 2).trans (ih _)) .refl

theorem killPair_noWake (m : CoreId) : NoWake n s (killPair s m) :=
  have hkill (t : State) (q : Fin 2) : NoWake n t (killRacking 257 t m q) := (stopActive_noWake t m q).trans (killRecords_noWake _ _ m q)
  (hkill s 0).trans (hkill _ 1)

theorem emptyCore_noWake (m : CoreId) : NoWake n s (emptyCore s m) :=
  .modCore s m fun _ h => nomatch h

theorem stopCore_noWake (m : CoreId) : NoWake n s (stopCore s m) := by
  refine .modCore s m fun c h => ?_
  by_cases hc : c.state = .run ∨ c.state = .wait
  · exact decide_eq_true hc
  · rw [live] at h ⊢
    simpa only [if_neg hc] using h

theorem clearCore_noWake (m : CoreId) : NoWake n s (clearCore s m) := by
  unfold NoWake
  rw [clearCore_coreAt]
  split
  · exact fun h => nomatch h
  · exact id

theorem clearClusters_noWake : NoWake n s (clearClusters s g) := by
  rw [clearClusters_eq]
  exact (NoWake.foldl clearCore clearCore_noWake _ s).trans (.of_cores (foldl_cores _ (fun t c => clusterCleared_cores t g c) _ _))

theorem teardownEnd_noWake : NoWake n s (teardownEnd s g) := by
  have hcores : NoWake n s (coresEmptied s g) := .foldl _ (fun t m => (killPair_noWake t m).trans (emptyCore_noWake _ m)) _ s
  have hraised : (generationRaised (coresEmptied s g) g).cores = (coresEmptied s g).cores := rfl
  rw [teardownEnd_eq]
  exact hcores.trans (.of_cores ((sealTorn_cores _ g).trans ((abortStreams_cores _ g).trans hraised)))

theorem teardownBegin_noWake : NoWake n s (teardownBegin s g) := by
  have hdrain (t : State) : (draining t g).cores = t.cores := rfl
  rw [teardownBegin_eq]
  exact .ite .refl ((NoWake.foldl stopCore stopCore_noWake _ s).trans
    (.of_cores ((replayDropped_cores _ g).trans ((hdrain _).trans (killQueues_cores _ g _)))))

theorem teardownFinish_noWake : NoWake n s (teardownFinish s g) := by
  have hclear (t : State) : NoWake n t (resetClear t g) := by
    unfold resetClear
    generalize hc : clearClusters t g = u
    exact (hc ▸ clearClusters_noWake t g).trans (.of_cores (resetFields_cores u g))
  have hend := teardownEnd_noWake (n := n) s g
  unfold teardownFinish
  generalize teardownEnd s g = t at hend ⊢
  exact .ite (hend.trans (hclear t)) hend

theorem startReset_noWake (sc : Scope) (cause seq : Nat) : NoWake n s (startReset s g sc cause seq) := by
  have hset (t : State) : (resetSet t g sc cause seq).cores = t.cores := rfl
  have hreset : NoWake n s (galReset s g sc cause seq) := by
    rw [galReset_eq]
    exact .ite .refl (.trans (.of_cores ((hset _).trans (resetTold_cores s g sc)))
      ((teardownBegin_noWake _ g).trans (.of_cores (note_cores _ _))))
  unfold startReset
  generalize galReset s g sc cause seq = t at hreset ⊢
  exact .ite (hreset.trans (teardownFinish_noWake t g)) hreset

theorem chipReset_noWake (cause seq : Nat) : NoWake n s (chipReset s cause seq) := by
  obtain ⟨-, -, -, -, -, hcores, -⟩ := chipReset_chipResets s cause seq
  have hc : coreAt (chipReset s cause seq) n = { cycleBase := s.clk } := by simp [coreAt, hcores]
  unfold NoWake
  rw [hc]
  exact fun h => nomatch h

theorem report_noWake (e : Err) : NoWake n s (report s e) := by
  have hrec (nest cls : Nat) : NoWake n s (record s e nest cls).2 := .of_cores (record_cores s e nest cls)
  have hesc (g : Option Gal) (nest cls k scope : Nat) :
      NoWake n s (escRecord (record s e nest cls).2 g k scope (record s e nest cls).1 (s.frq[frqOf e.gal]).cause) :=
    .of_cores ((escRecord_cores _ _ _ _ _ _).trans (record_cores s e nest cls))
  have hset (nest cls : Nat) (q : Fin 9) (f : Frq) : NoWake n s (setFrq (record s e nest cls).2 q f) := (hrec nest cls).trans (.of_cores rfl)
  unfold report
  dsimp only
  refine .ite (hrec _ _) ?_
  split
  · exact .ite ((hesc _ _ _ _ _).trans (chipReset_noWake _ _ _)) (.ite ((hrec _ _).trans (chipReset_noWake _ _ _))
      (.ite ((hesc _ _ _ _ _).trans (startReset_noWake _ _ _ _ _))
        (.ite ((hset _ _ _ _).trans (startReset_noWake _ _ _ _ _)) (hset _ _ _ _))))
  · exact .ite (.ite ((hesc _ _ _ _ _).trans (chipReset_noWake _ _ _)) ((hrec _ _).trans (chipReset_noWake _ _ _)))
      (.ite ((hesc _ _ _ _ _).trans (chipReset_noWake _ _ _)) (hset _ _ _ _))

/-- A core that takes an exception is not live. -/
theorem not_live_takeExc (x : Exc) (cls : Nat) (restart : Bool) (epc resume : Word) :
    live (coreAt (takeExc s n x cls restart epc resume) n) = false := by
  refine Bool.eq_false_iff.mpr fun h => ?_
  have hseal (t : State) : (excSeal t n x).cores = t.cores := by
    unfold excSeal
    split
    · rfl
    · split
      · rfl
      · split <;> rfl
  have hstop := ((NoWake.of_cores (hseal _)).trans (report_noWake (n := n) _ _)) h
  unfold stopAt at hstop
  split at hstop
  case isTrue =>
    rw [coreAt_modCore] at hstop
    exact nomatch hstop
  case isFalse hl => exact hl hstop

/-- The engine of such a core does not run (R134). -/
theorem not_engineRuns_takeExc (x : Exc) (cls : Nat) (restart : Bool) (epc resume : Word) :
    engineRuns (takeExc s n x cls restart epc resume) n = false := by
  rw [engineRuns, not_live_takeExc, Bool.and_false, Bool.false_and]

end wake

end Sys2Proof.Machine
end

section
/-! PROOFS. One slab of the matrix engine (R120, R126 to R134). -/

namespace Sys2Proof.Machine

/-! ### What an error's account leaves of the engine (R402 to R405) -/

/-- The cores, memory and the engine registers are as before. -/
structure EngineKeeps (s t : State) : Prop where
  cores : t.cores = s.cores
  mem : t.mem = s.mem
  regs : ∀ o, o / 0x1000000 = 2 → rget t o = rget s o
  rise : keysRise s.dev → keysRise t.dev

namespace EngineKeeps
variable {s t u : State}

theorem refl (s : State) : EngineKeeps s s := ⟨rfl, rfl, fun _ _ => rfl, id⟩

theorem trans (h : EngineKeeps s t) (k : EngineKeeps t u) : EngineKeeps s u :=
  ⟨k.cores.trans h.cores, k.mem.trans h.mem, fun o ho => (k.regs o ho).trans (h.regs o ho), fun hr => k.rise (h.rise hr)⟩

theorem of_dev (hc : t.cores = s.cores) (hm : t.mem = s.mem) (hd : t.dev = s.dev) : EngineKeeps s t :=
  ⟨hc, hm, fun o _ => rget_congr hd o, fun hr => hd ▸ hr⟩

theorem of_sends (h : Sends s t) : EngineKeeps s t := by
  refine ⟨h.cores, h.mem, fun o ho => h.regs o ?_, h.rise⟩
  unfold CountsSends
  omega

theorem ite {p : Prop} [Decidable p] (h : EngineKeeps s t) (k : EngineKeeps s u) : EngineKeeps s (if p then t else u) := by
  split
  · exact h
  · exact k

theorem fset (s : State) {o : Nat} (ho : o / 0x1000000 ≠ 2) (hi lo v : Nat) : EngineKeeps s (fset s o hi lo v) :=
  ⟨rfl, rfl, fun p hp => rget_fset_ne s p o hi lo v (by rintro rfl; exact ho hp), fset_rise o hi lo v⟩

end EngineKeeps

theorem note_keeps (s : State) (e : Err) : EngineKeeps s (note s e) := by
  rw [note_rest]
  exact .of_dev rfl rfl rfl

theorem issueAdvisory_keeps (s : State) (a : Advice) : EngineKeeps s (issueAdvisory s a) := by
  have hcr (t : State) (e : FEntry) : EngineKeeps t (crWrite t 0x1E e) := by
    rw [crWrite_rest]
    exact .of_dev rfl rfl rfl
  have hseq : EngineKeeps s (takeSeq s).2 := .of_dev rfl rfl rfl
  have hset {t : State} (h : EngineKeeps s t) (c : Nat) (x : Score) : EngineKeeps s (setScore t c x) := h.trans (.of_dev rfl rfl rfl)
  have hsend {t : State} (h : EngineKeeps s t) (e : Ep) (k g c p : Nat) (ws : List Word) : EngineKeeps s (sendEvent t e k g c p ws) :=
    h.trans (.of_sends (sendEvent_sends t e k g c p ws))
  unfold issueAdvisory
  dsimp only
  exact .trans (hset (hsend (hseq.trans (hcr _ _)) _ _ _ _ _ _) _ _) (.fset _ (by decide) _ _ _)

theorem advise_keeps (s : State) (c : Nat) : EngineKeeps s (advise s c) := by
  unfold advise
  dsimp only
  have htimes (l : List (Nat × Nat)) : EngineKeeps s { s with advTimes := l } := .of_dev rfl rfl rfl
  exact .ite ((htimes _).trans (issueAdvisory_keeps _ _)) (.ite (.of_dev rfl rfl rfl) (.of_dev rfl rfl rfl))

theorem appraise_keeps (s : State) (c k : Nat) : EngineKeeps s (appraise s c k) := by
  have hscore (x : Score) : EngineKeeps s (setScore s c x) := .of_dev rfl rfl rfl
  have hnote {t : State} (h : EngineKeeps s t) (p : Prop) [Decidable p] (e : Err) : EngineKeeps s (if p then note t e else t) :=
    .ite (h.trans (note_keeps t e)) h
  unfold appraise
  dsimp only
  exact .ite ((hnote (hscore _) _ _).trans (advise_keeps _ _)) (hnote (hscore _) _ _)

/-! ### Rows and elements of the Vat -/

/-- The rows of a list marked. -/
theorem getLsbD_setRows (l : List (Fin 128)) (b : Bool) (p : BitVec 128) (r : Fin 128) :
    (l.foldl (fun p r => setRow p r b) p).getLsbD r.val = if r ∈ l then b else p.getLsbD r.val := by
  induction l generalizing p with
  | nil => rfl
  | cons q l ih =>
    rw [List.foldl_cons, ih, getLsbD_setRow]
    by_cases hl : r ∈ l
    · rw [if_pos hl, if_pos (List.mem_cons_of_mem q hl)]
    · rw [if_neg hl]
      exact if_congr (by simp [hl]) rfl rfl

theorem testBit_elemOf (w : Nat) (v : VReg) (i j : Nat) : (elemOf w v i).testBit j = (decide (j < w) && v.getLsbD (w * i + j)) := by
  rw [elemOf, Nat.testBit_mod_two_pow, Nat.testBit_div_two_pow, Nat.add_comm]
  rfl

/-- A row with one element replaced; an element above the row has no effect. -/
theorem elemOf_setElem32 (v : VReg) (i c : Nat) {k : Nat} (hk : k < 512) :
    elemOf 32 (setElem32 v i c) k = if k = i then c % 2 ^ 32 else elemOf 32 v k := by
  refine Nat.eq_of_testBit_eq fun j => ?_
  rw [testBit_elemOf]
  by_cases hj : j < 32
  · have hbit : (setElem32 v i c).getLsbD (32 * k + j) = if k = i then c.testBit j else v.getLsbD (32 * k + j) := by
      have hlt : 32 * k + j < 16384 := by omega
      simp only [setElem32, BitVec.getLsbD_or, BitVec.getLsbD_and, BitVec.getLsbD_not, BitVec.getLsbD_ofNat, Nat.testBit_shiftLeft,
        Nat.testBit_two_pow_sub_one, Nat.testBit_mod_two_pow, hlt, decide_true, Bool.true_and]
      by_cases hi : k = i
      · subst hi
        simp [hj]
      · rw [if_neg hi]
        by_cases hle : 32 * i ≤ 32 * k + j
        · simp [hle, show ¬ 32 * k + j - 32 * i < 32 by omega]
        · simp [hle]
    rw [hbit, decide_eq_true hj, Bool.true_and, apply_ite (Nat.testBit · j), Nat.testBit_mod_two_pow, decide_eq_true hj, Bool.true_and,
      testBit_elemOf, decide_eq_true hj, Bool.true_and]
  · rw [decide_eq_false hj, Bool.false_and, apply_ite (Nat.testBit · j), Nat.testBit_mod_two_pow, decide_eq_false hj, Bool.false_and,
      testBit_elemOf, decide_eq_false hj, Bool.false_and, ite_self]

/-- The Vat with the results of a slab written. -/
def slabVat (res : List (Fin 128 × Nat × Term)) (vat : Vector VReg 128) : Vector VReg 128 :=
  res.foldl (fun v x => v.set x.1 (setElem32 v[x.1] x.2.1 x.2.2.code)) vat

theorem elemOf_slabVat {res : List (Fin 128 × Nat × Term)} {f : Fin 128 → Nat → Term} (hf : ∀ x ∈ res, x.2.2 = f x.1 x.2.1)
    (vat : Vector VReg 128) (r : Fin 128) {k : Nat} (hk : k < 512) : elemOf 32 (slabVat res vat)[r] k =
      if ∃ x ∈ res, x.1 = r ∧ x.2.1 = k then (f r k).code % 2 ^ 32 else elemOf 32 vat[r] k := by
  induction res generalizing vat with
  | nil => simp [slabVat]
  | cons x res ih =>
    have hstep : elemOf 32 (vat.set x.1 (setElem32 vat[x.1] x.2.1 x.2.2.code))[r] k =
        if x.1 = r ∧ x.2.1 = k then (f r k).code % 2 ^ 32 else elemOf 32 vat[r] k := by
      by_cases hr : x.1 = r
      · subst hr
        have hget : (vat.set x.1 (setElem32 vat[x.1] x.2.1 x.2.2.code))[x.1] = setElem32 vat[x.1] x.2.1 x.2.2.code :=
          Vector.getElem_set_self x.1.isLt
        rw [hget, elemOf_setElem32 _ _ _ hk]
        by_cases hk' : k = x.2.1
        · subst hk'
          rw [if_pos rfl, if_pos ⟨rfl, rfl⟩, hf x List.mem_cons_self]
        · rw [if_neg hk', if_neg (fun h => hk' h.2.symm)]
      · have hget : (vat.set x.1 (setElem32 vat[x.1] x.2.1 x.2.2.code))[r] = vat[r] :=
          Vector.getElem_set_ne x.1.isLt r.isLt (fun h => hr (Fin.ext h))
        rw [hget, if_neg (fun h => hr h.1)]
    have htail := ih (fun y hy => hf y (List.mem_cons_of_mem x hy)) (vat.set x.1 (setElem32 vat[x.1] x.2.1 x.2.2.code))
    refine htail.trans ?_
    rw [hstep]
    by_cases hm : ∃ y ∈ res, y.1 = r ∧ y.2.1 = k
    · obtain ⟨y, hy, hkey⟩ := hm
      rw [if_pos ⟨y, hy, hkey⟩, if_pos ⟨y, List.mem_cons_of_mem x hy, hkey⟩]
    · rw [if_neg hm]
      exact if_congr (by simp [hm]) rfl rfl

/-! ### The positions that a slab writes (R120) -/

section positions
variable (e : MEntry)

theorem writtenRows_eq : e.writtenRows.map Fin.val = (List.range 128).filter (fun r => decide (r < e.rows ∧ (!e.drop.toNat.testBit r) = true)) := by
  rw [MEntry.writtenRows, List.map_filterMap, ← List.filterMap_eq_filter]
  refine List.filterMap_congr fun r hr => ?_
  have hval : (f7 r).val = r := Nat.mod_eq_of_lt (List.mem_range.mp hr)
  simp [Option.guard, apply_ite (Option.map Fin.val), hval]

theorem mem_writtenRows {r : Fin 128} : r ∈ e.writtenRows ↔ r.val < e.rows ∧ e.drop.getLsbD r.val = false := by
  rw [← List.mem_map_of_injective Fin.val_injective, writtenRows_eq, List.mem_filter, List.mem_range, and_iff_right r.isLt,
    decide_eq_true_eq, Bool.not_eq_true']
  rfl

theorem writtenRows_rise : e.writtenRows.Pairwise (· < ·) := by
  have h : (e.writtenRows.map Fin.val).Pairwise (· < ·) := by
    rw [writtenRows_eq]
    exact List.pairwise_lt_range.filter _
  exact h.of_map Fin.val fun _ _ hab => hab

theorem slabCols_rise : e.slabCols.Pairwise (· < ·) := by
  refine List.Pairwise.filter _ (List.pairwise_map.mpr (List.pairwise_lt_range.imp fun h => ?_))
  exact Nat.add_lt_add_left h _

end positions

end Sys2Proof.Machine
end

section
/-! PROOFS. What a slab sums and writes (R120, R126). -/

namespace Sys2Proof.Machine

section sums
variable (n : CoreId) (e : MEntry) (s : State)



/-- The sum of one position of the slab. -/
def slabTerm (c : Core) (r : Fin 128) (k : Nat) : Term :=
  positionSum e c.stb[e.curBuf][r] r.val (columnOf s n e k) (if e.kblk = 0 ∧ e.acc = false then 0 else elemOf 32 c.vat[r] k)

/-- Is the position one that the slab writes? -/
def MEntry.Writes (r : Fin 128) (k : Nat) : Prop := (r.val < e.rows ∧ e.drop.getLsbD r.val = false) ∧ k ∈ e.slabCols

theorem slabResults_eq : slabResults s n e = e.writtenRows.flatMap fun r => e.slabCols.map fun k => (r, k, slabTerm n e s (coreAt s n) r k) := by
  unfold slabResults
  refine List.flatMap_congr fun r _ => ?_
  rw [List.map_map]
  refine List.map_congr_left fun k _ => ?_
  simp [slabTerm]

theorem mem_slabResults {x : Fin 128 × Nat × Term} : x ∈ slabResults s n e ↔ e.Writes x.1 x.2.1 ∧ x.2.2 = slabTerm n e s (coreAt s n) x.1 x.2.1 := by
  obtain ⟨r, k, y⟩ := x
  simp only [slabResults_eq, List.mem_flatMap, List.mem_map, mem_writtenRows, MEntry.Writes, Prod.mk.injEq]
  constructor
  · rintro ⟨_, hr, _, hk, rfl, rfl, rfl⟩
    exact ⟨⟨hr, hk⟩, rfl⟩
  · rintro ⟨⟨hr, hk⟩, rfl⟩
    exact ⟨r, hr, k, hk, rfl, rfl, rfl⟩

/-- The results stand in order of row and column. -/
theorem slabResults_rise : (slabResults s n e).Pairwise fun x y => x.1.val < y.1.val ∨ (x.1 = y.1 ∧ x.2.1 < y.2.1) := by
  rw [slabResults_eq, List.pairwise_flatMap]
  refine ⟨fun r _ => List.pairwise_map.mpr ((slabCols_rise e).imp fun h => .inr ⟨rfl, h⟩), (writtenRows_rise e).imp fun {a b} hab => ?_⟩
  simp only [List.mem_map]
  rintro _ ⟨j, -, rfl⟩ _ ⟨k, -, rfl⟩
  exact .inl hab

theorem any_slabResults (p : Term → Bool) : (slabResults s n e).any (fun x => p x.2.2) = true ↔
    ∃ r k, e.Writes r k ∧ p (slabTerm n e s (coreAt s n) r k) = true := by
  simp only [List.any_eq_true, mem_slabResults]
  constructor
  · rintro ⟨x, ⟨hw, hx⟩, hp⟩
    exact ⟨x.1, x.2.1, hw, hx ▸ hp⟩
  · rintro ⟨r, k, hw, hp⟩
    exact ⟨(r, k, _), ⟨hw, rfl⟩, hp⟩

/-- In an ordered list the first entry that meets a condition is the one before which none meets it. -/
theorem find?_eq_some_of_pairwise {α : Type} {R : α → α → Prop} {l : List α} (h : l.Pairwise R) (p : α → Bool) {x : α} (hx : x ∈ l) (hp : p x = true)
    (hlow : ∀ y ∈ l, R y x → p y = false) : l.find? p = some x := by
  obtain ⟨a, b, rfl⟩ := List.append_of_mem hx
  refine List.find?_eq_some_iff_append.mpr ⟨hp, a, b, rfl, fun y hy => ?_⟩
  rw [hlow y (List.mem_append_left _ hy) ((List.pairwise_append.mp h).2.2 y hy x List.mem_cons_self)]
  rfl

end sums
end Sys2Proof.Machine
end

section
/-! PROOFS. The steps of a slab, and what each leaves unchanged (R120, R131 to R134). -/

namespace Sys2Proof.Machine

/-! ### The steps of a slab -/

section steps
variable (n : CoreId) (e : MEntry) (errs : EngErrors) (s : State)

/-- The errors that a slab meets, counted and reported. -/
def slabErrs (s : State) : State :=
  let s := countedN (fincr (fincr s (engReg n.val 0x18) 15 0 errs.stbCe) (engReg n.val 0x18) 31 16 errs.vatCe) (errs.stbCe + errs.vatCe)
  appraise s (0x110 + clusterOf n) (errs.stbCe + errs.vatCe + 1024 * (errs.stbUe.length + errs.vatUe.length))

/-- The rows of the errors poisoned. -/
def Core.slabMarked (c : Core) : Core :=
  { c with stbPsn := c.stbPsn.set e.curBuf (errs.stbUe.foldl (fun p r => setRow p r true) c.stbPsn[e.curBuf])
           vatPsn := errs.vatUe.foldl (fun p r => setRow p r true) c.vatPsn, dummyRun := 0 }

/-- The state in which a slab of `e` sums: its run begun, its block in place, the errors met counted and marked. -/
def slabStart : State := modCore (slabErrs n errs (beginRun n e (ensureBlock n e s))) n (Core.slabMarked e errs)

/-- Does a weight of the slab stand in a poisoned line? -/
def slabWeights : Bool :=
  e.slabCols.any (fun k => (List.range (min 128 (tileK e.trans (tileOf e.tw) - 128 * e.kblk))).any (fun j => slabPoison s n e j k))

/-- The rows that the slab poisons. -/
def slabPsnRows : List (Fin 128) :=
  if e.slabCols = [] then [] else slabRows e (coreAt s n).stbPsn[e.curBuf] (coreAt s n).vatPsn (slabWeights n e s)

/-- The Vat and its poison after the slab. -/
def slabWrite : State :=
  modCore s n (fun c => { c with vat := slabVat (slabResults s n e) c.vat, vatPsn := (slabPsnRows n e s).foldl (fun p r => setRow p r true) c.vatPsn })

/-- The flags of the slab's results raised in ENG_STATUS. -/
def slabFlags (res : List (Fin 128 × Nat × Term)) (s : State) : State :=
  let st := engReg n.val 0
  let fp := decide (e.sfmt ≠ .i8)
  let s := if fp && res.any (fun x => isNanV (val32 x.2.2.code)) then fbit s st 6 else s
  let s := if fp && res.any (fun x => isInfV (val32 x.2.2.code)) then fbit s st 5 else s
  if res.any (fun x => x.2.2.wrap) then fbit s st 4 else s

/-- The queue's head moved on by the slab. -/
def slabAdvance (s : State) : State := setHead n (advanceSlab n e s).1 (advanceSlab n e s).2

/-- The state after a slab, no event yet reported. -/
def slabDone : State := slabAdvance n e (slabFlags n e (slabResults (slabStart n e errs s) n e) (slabWrite n e (slabStart n e errs s)))

/-- The lowest NaN event of the results reported. -/
def slabNan (res : List (Fin 128 × Nat × Term)) (s : State) : State :=
  match res.find? (fun x => x.2.2.cause.isSome) with
    | some x => nanEvent s n 2 3 (x.2.2.cause.getD 1) e.kblk x.2.1 x.1.val e.pc
    | none => s

theorem runSlab_eq : runSlab n e errs s =
    let t := slabNan n e (slabResults (slabStart n e errs s) n e) (slabDone n e errs s)
    if errs.stbUe = [] ∧ errs.vatUe = [] then t else engineUe n e.pc t := rfl


/-! ### What the steps leave unchanged -/

/-- Memory and the other cores are as before, and the registers stand in order where they did. -/
structure CoreOnly (n : CoreId) (s t : State) : Prop where
  mem : t.mem = s.mem
  others : ∀ m, m ≠ n → coreAt t m = coreAt s m
  rise : keysRise s.dev → keysRise t.dev

namespace CoreOnly
variable {n} {s t u : State}

theorem refl (s : State) : CoreOnly n s s := ⟨rfl, fun _ _ => rfl, id⟩

theorem trans (h : CoreOnly n s t) (k : CoreOnly n t u) : CoreOnly n s u :=
  ⟨k.mem.trans h.mem, fun m hm => (k.others m hm).trans (h.others m hm), fun hr => k.rise (h.rise hr)⟩

theorem ite {p : Prop} [Decidable p] (h : CoreOnly n s t) (k : CoreOnly n s u) : CoreOnly n s (if p then t else u) := by
  split
  · exact h
  · exact k

theorem of_keeps (h : EngineKeeps s t) : CoreOnly n s t := ⟨h.mem, fun _ _ => by rw [coreAt, h.cores, coreAt], h.rise⟩

theorem modCore (f : Core → Core) : CoreOnly n s (modCore s n f) := ⟨rfl, fun _ hm => coreAt_modCore_of_ne s f hm, id⟩

theorem rset (o : Nat) (w : Word) : CoreOnly n s (rset s o w) := ⟨rfl, fun _ _ => rfl, rset_rise o w⟩

theorem fset (o hi lo v : Nat) : CoreOnly n s (fset s o hi lo v) := rset o _

end CoreOnly

theorem loadBlock_only (b : Fin 2) (d dsc : BitVec 256) (c0 cols : Nat) : CoreOnly n s (loadBlock n b d dsc c0 cols s) := by
  unfold loadBlock
  exact .modCore _

theorem ensureBlock_only : CoreOnly n s (ensureBlock n e s) := .ite (loadBlock_only ..) (.refl s)

theorem beginRun_only : CoreOnly n s (beginRun n e s) := .ite ((CoreOnly.rset _ 0).trans (.modCore _)) (.refl s)

theorem slabErrs_only : CoreOnly n s (slabErrs n errs s) := by
  have hcount (o p k : Nat) : CoreOnly n s (countedN (fincr (fincr s o 15 0 errs.stbCe) p 31 16 errs.vatCe) k) :=
    ((CoreOnly.fset _ _ _ _).trans (.fset _ _ _ _)).trans ⟨rfl, fun _ _ => rfl, id⟩
  exact (hcount _ _ _).trans (.of_keeps (appraise_keeps _ _ _))

theorem slabStart_only : CoreOnly n s (slabStart n e errs s) :=
  (((ensureBlock_only n e s).trans (beginRun_only n e _)).trans (slabErrs_only n errs _)).trans (.modCore _)

theorem slabWrite_only : CoreOnly n s (slabWrite n e s) := .modCore _

theorem slabFlags_only (res : List (Fin 128 × Nat × Term)) : CoreOnly n s (slabFlags n e res s) := by
  have hbit {t : State} (h : CoreOnly n s t) (p : Prop) [Decidable p] (i : Nat) : CoreOnly n s (if p then fbit t (engReg n.val 0) i else t) :=
    .ite (h.trans (.fset _ _ _ _)) h
  exact hbit (hbit (hbit (.refl s) _ _) _ _) _ _

theorem slabAdvance_only : CoreOnly n s (slabAdvance n e s) := by
  have hadv : CoreOnly n s (advanceSlab n e s).2 := by
    unfold advanceSlab
    dsimp only
    rw [apply_ite Prod.snd]
    have hlen (v : Nat) : CoreOnly n s (fset s (engReg n.val 8) 31 0 v) := .fset _ _ _ _
    have hlong (v : Nat) (p : Prop) [Decidable p] :
        CoreOnly n s (if p then fbit (fset s (engReg n.val 8) 31 0 v) (engReg n.val 0) 3 else fset s (engReg n.val 8) 31 0 v) :=
      .ite ((hlen v).trans (.fset _ _ _ _)) (hlen v)
    exact .ite (.refl s) (.ite ((hlong _ _).trans (loadBlock_only ..)) (hlong _ _))
  unfold slabAdvance setHead
  exact hadv.trans (.modCore _)

theorem slabDone_only : CoreOnly n s (slabDone n e errs s) :=
  (((slabStart_only n e errs s).trans (slabWrite_only n e _)).trans (slabFlags_only n e _ _)).trans (slabAdvance_only n e _)

/-! ### The core at each step -/

/-- The core after the run has begun. -/
def MEntry.begin (e : MEntry) (c : Core) : Core :=
  if e.kblk = 0 ∧ e.slab = 0 ∧ !e.acc then { c with vatPsn := e.writtenRows.foldl (fun p r => setRow p r false) c.vatPsn } else c

theorem coreAt_beginRun : coreAt (beginRun n e s) n = e.begin (coreAt s n) := by
  unfold beginRun MEntry.begin
  split
  · exact coreAt_modCore _ n _
  · rfl

theorem coreAt_slabErrs (m : CoreId) : coreAt (slabErrs n errs s) m = coreAt s m :=
  congrArg (·[m]) (appraise_keeps (countedN (fincr (fincr s (engReg n.val 0x18) 15 0 errs.stbCe) (engReg n.val 0x18) 31 16 errs.vatCe)
    (errs.stbCe + errs.vatCe)) _ _).cores

theorem coreAt_slabStart : coreAt (slabStart n e errs s) n = Core.slabMarked e errs (e.begin (coreAt (ensureBlock n e s) n)) := by
  rw [slabStart, coreAt_modCore, coreAt_slabErrs, coreAt_beginRun]

theorem slabFlags_cores (res : List (Fin 128 × Nat × Term)) : (slabFlags n e res s).cores = s.cores := by
  have hbit {t : State} (h : t.cores = s.cores) (p : Prop) [Decidable p] (i : Nat) : (if p then fbit t (engReg n.val 0) i else t).cores = s.cores := by
    split
    · exact h
    · exact h
  exact hbit (hbit (hbit rfl _ _) _ _) _ _

end steps
end Sys2Proof.Machine
end

section
/-! PROOFS. The progress, the registers and the context of a slab's core (R131 to R134). -/

namespace Sys2Proof.Machine

section registers
variable (n : CoreId) (e : MEntry) (errs : EngErrors) {s : State}

theorem engReg_ne (m : Nat) {a b : Nat} (h : a ≠ b) : engReg m a ≠ engReg m b := by
  unfold engReg
  omega

theorem engReg_block {o : Nat} (h : o < 0x1000) : engReg n.val o / 0x1000000 = 2 := by
  have hn := n.isLt
  unfold engReg
  omega

theorem fget_fset_same (hr : keysRise s.dev) (o v : Nat) {hi lo : Nat} (hl : lo ≤ hi) (hh : hi < 64) :
    fget (fset s o hi lo v) o hi lo = v % 2 ^ (hi + 1 - lo) := by
  rw [fget, rget_fset _ _ _ _ _ hr, bits_setBits _ _ _ _ hl hh]

theorem fget_fset_apart (hr : keysRise s.dev) (o v : Nat) {hi lo hi' lo' : Nat} (hl : lo ≤ hi) (hh : hi < 64) (hd : hi' < lo ∨ hi < lo') :
    fget (fset s o hi lo v) o hi' lo' = fget s o hi' lo' := by
  rw [fget, rget_fset _ _ _ _ _ hr, bits_setBits_of_disjoint _ _ _ _ _ _ hl hh hd, fget]

theorem rget_ensureBlock (o : Nat) : rget (ensureBlock n e s) o = rget s o := by
  unfold ensureBlock
  split
  · rfl
  · rfl

theorem rget_beginRun {o : Nat} (ho : o ≠ engReg n.val 8) : rget (beginRun n e s) o = rget s o := by
  unfold beginRun
  split
  · exact rget_rset_ne s o _ 0 ho
  · rfl

/-- A run that starts from +0 begins with length 0 (R128). -/
theorem runlen_beginRun (hr : keysRise s.dev) : fget (beginRun n e s) (engReg n.val 8) 31 0 =
    if e.kblk = 0 ∧ e.slab = 0 ∧ (!e.acc) = true then 0 else fget s (engReg n.val 8) 31 0 := by
  unfold beginRun
  split
  · exact congrArg (bits · 31 0) (rget_rset s _ 0 hr)
  · rfl

theorem rget_slabErrs {o : Nat} (ho : o < 0x1000) (h18 : o ≠ 0x18) : rget (slabErrs n errs s) (engReg n.val o) = rget s (engReg n.val o) := by
  refine ((appraise_keeps _ _ _).regs _ (engReg_block n ho)).trans ?_
  exact (rget_fset_ne _ _ _ _ _ _ (engReg_ne _ h18)).trans (rget_fset_ne _ _ _ _ _ _ (engReg_ne _ h18))

/-- The counts of corrected errors (R134). -/
theorem counts_slabErrs (hr : keysRise s.dev) :
    fget (slabErrs n errs s) (engReg n.val 0x18) 15 0 = min (fget s (engReg n.val 0x18) 15 0 + errs.stbCe) 65535 ∧
    fget (slabErrs n errs s) (engReg n.val 0x18) 31 16 = min (fget s (engReg n.val 0x18) 31 16 + errs.vatCe) 65535 := by
  have hkeep (hi lo : Nat) : fget (slabErrs n errs s) (engReg n.val 0x18) hi lo =
      fget (fincr (fincr s (engReg n.val 0x18) 15 0 errs.stbCe) (engReg n.val 0x18) 31 16 errs.vatCe) (engReg n.val 0x18) hi lo :=
    congrArg (bits · hi lo) ((appraise_keeps _ _ _).regs _ (engReg_block n (by decide)))
  have hr' : keysRise (fincr s (engReg n.val 0x18) 15 0 errs.stbCe).dev := fset_rise _ _ _ _ hr
  have hcap (k : Nat) : min k (2 ^ 16 - 1) % 2 ^ 16 = min k 65535 := Nat.mod_eq_of_lt (by omega)
  constructor
  · rw [hkeep, fincr, fget_fset_apart hr' _ _ (by decide) (by decide) (by decide), fincr, fget_fset_same hr _ _ (by decide) (by decide)]
    exact hcap _
  · rw [hkeep, fincr, fget_fset_same hr' _ _ (by decide) (by decide), fincr, fget_fset_apart hr _ _ (by decide) (by decide) (by decide)]
    exact hcap _

theorem rget_slabStart {o : Nat} (ho : o < 0x1000) (h8 : o ≠ 8) (h18 : o ≠ 0x18) :
    rget (slabStart n e errs s) (engReg n.val o) = rget s (engReg n.val o) :=
  (rget_slabErrs n errs ho h18).trans ((rget_beginRun n e (engReg_ne _ h8)).trans (rget_ensureBlock n e _))

theorem runlen_slabStart (hr : keysRise s.dev) : fget (slabStart n e errs s) (engReg n.val 8) 31 0 =
    if e.kblk = 0 ∧ e.slab = 0 ∧ (!e.acc) = true then 0 else fget s (engReg n.val 8) 31 0 := by
  have hsame : fget (ensureBlock n e s) (engReg n.val 8) 31 0 = fget s (engReg n.val 8) 31 0 := congrArg (bits · 31 0) (rget_ensureBlock n e _)
  have hbegin := runlen_beginRun n e ((ensureBlock_only n e s).rise hr)
  rw [hsame] at hbegin
  exact (congrArg (bits · 31 0) (rget_slabErrs n errs (by decide) (by decide))).trans hbegin

theorem counts_slabStart (hr : keysRise s.dev) :
    fget (slabStart n e errs s) (engReg n.val 0x18) 15 0 = min (fget s (engReg n.val 0x18) 15 0 + errs.stbCe) 65535 ∧
    fget (slabStart n e errs s) (engReg n.val 0x18) 31 16 = min (fget s (engReg n.val 0x18) 31 16 + errs.vatCe) 65535 := by
  have hsame (hi lo : Nat) : fget (beginRun n e (ensureBlock n e s)) (engReg n.val 0x18) hi lo = fget s (engReg n.val 0x18) hi lo :=
    congrArg (bits · hi lo) ((rget_beginRun n e (engReg_ne _ (by decide))).trans (rget_ensureBlock n e _))
  have h := counts_slabErrs n errs (((ensureBlock_only n e s).trans (beginRun_only n e _)).rise hr)
  rw [hsame, hsame] at h
  exact h

/-! ### The flags of the results (R131) -/

theorem rget_slabFlags (res : List (Fin 128 × Nat × Term)) {o : Nat} (ho : o ≠ engReg n.val 0) : rget (slabFlags n e res s) o = rget s o := by
  have hbit {t : State} (h : rget t o = rget s o) (p : Prop) [Decidable p] (i : Nat) :
      rget (if p then fbit t (engReg n.val 0) i else t) o = rget s o := by
    split
    · exact (rget_fset_ne t o _ i i 1 ho).trans h
    · exact h
  exact hbit (hbit (hbit rfl _ _) _ _) _ _

theorem bit_fbit_ite (hr : keysRise s.dev) (c j : Nat) {k : Nat} (hk : k < 64) (p : Bool) :
    bit (rget (if p = true then fbit s c k else s) c) j = (bit (rget s c) j || (decide (j = k) && p)) := by
  cases p
  · simp
  · rw [if_pos rfl, bit_fbit hr c j hk]
    by_cases h : j = k
    · simp [h]
    · simp [h]

theorem fbit_ite_rise (hr : keysRise s.dev) (c k : Nat) (p : Bool) : keysRise (if p = true then fbit s c k else s).dev := by
  cases p
  · exact hr
  · exact fset_rise c k k 1 hr

theorem bit_slabFlags (hr : keysRise s.dev) (res : List (Fin 128 × Nat × Term)) (j : Nat) :
    bit (rget (slabFlags n e res s) (engReg n.val 0)) j = (bit (rget s (engReg n.val 0)) j ||
      (decide (j = 6) && (decide (e.sfmt ≠ .i8) && res.any fun x => isNanV (val32 x.2.2.code))) ||
      (decide (j = 5) && (decide (e.sfmt ≠ .i8) && res.any fun x => isInfV (val32 x.2.2.code))) ||
      (decide (j = 4) && res.any fun x => x.2.2.wrap)) := by
  have h6 := fbit_ite_rise hr (engReg n.val 0) 6 (decide (e.sfmt ≠ .i8) && res.any fun x => isNanV (val32 x.2.2.code))
  have h5 := fbit_ite_rise h6 (engReg n.val 0) 5 (decide (e.sfmt ≠ .i8) && res.any fun x => isInfV (val32 x.2.2.code))
  unfold slabFlags
  dsimp only
  rw [bit_fbit_ite h5 _ _ (by decide), bit_fbit_ite h6 _ _ (by decide), bit_fbit_ite hr _ _ (by decide)]


/-! ### The progress (R121, R128) -/

/-- Does the instruction go on with another k-block? -/
def MEntry.more (e : MEntry) : Bool := decide (e.kblk + 1 < e.kblks)

/-- The run length after the last slab of a k-block, with LONGSUM where it passes 16,384. -/
def runCounted (s : State) : State :=
  let len := min (fget s (engReg n.val 8) 31 0 + 128) (2 ^ 32 - 1)
  let s := fset s (engReg n.val 8) 31 0 len
  if 16384 < len then fbit s (engReg n.val 0) 3 else s

/-- The block of the next k-block, of which one comes where the instruction is an mgemm. -/
def nextBlock (s : State) : State :=
  if e.more && e.isGemm then loadBlock n (f1 (e.buf.val + e.kblk + 1)) e.ts e.tsScale (128 * (e.kblk + 1)) 128 s else s

theorem kblk_progressWord (k : Nat) (l : Bool) : bits (progressWord k l 0) 47 32 = k % 65536 := by
  have hword : (progressWord k l 0).toNat = (k * 4294967296 + b1 l * 65536) % 18446744073709551616 := by
    rw [progressWord, mkWord, BitVec.toNat_ofNat]
    simp only [List.foldl_cons, List.foldl_nil, Nat.shiftLeft_eq, Nat.zero_add, Nat.zero_mul, Nat.add_zero]
  have hload : b1 l ≤ 1 := by cases l <;> decide
  rw [bits, Nat.shiftRight_eq_div_pow, hword]
  change (k * 4294967296 + b1 l * 65536) % 18446744073709551616 / 4294967296 % 65536 = k % 65536
  omega

theorem f1_congr {a b : Nat} (h : a % 2 = b % 2) : f1 a = f1 b := Fin.ext h

theorem advanceSlab_of_lt (h : e.slab + 1 < slabsOf e.cls) : advanceSlab n e s = ({ e with progress := progressWord e.kblk true (e.slab + 1) }, s) := if_pos h

theorem curBuf_gemm {e : MEntry} (h : e.isGemm = true) : e.curBuf = f1 (e.buf.val + e.kblk) := if_pos h

theorem curBuf_progress (w : Word) (hgemm : e.isGemm = true) : MEntry.curBuf { e with progress := w } = f1 (e.buf.val + bits w 47 32) :=
  curBuf_gemm (e := { e with progress := w }) hgemm

/-- The buffer of an mgemm's next k-block. -/
theorem curBuf_advanced (hgemm : e.isGemm = true) (l : Bool) :
    MEntry.curBuf { e with progress := progressWord (e.kblk + 1) l 0 } = f1 (e.buf.val + e.kblk + 1) := by
  refine (curBuf_progress e _ hgemm).trans (f1_congr ?_)
  rw [kblk_progressWord]
  omega

theorem advanceSlab_last (h : ¬ e.slab + 1 < slabsOf e.cls) :
    advanceSlab n e s = ({ e with progress := progressWord (e.kblk + 1) e.more 0 }, nextBlock n e (runCounted n s)) := by
  have hstep : advanceSlab n e s = ({ e with progress := progressWord (e.kblk + 1) e.more 0 }, if e.more && e.isGemm then
      loadBlock n (MEntry.curBuf { e with progress := progressWord (e.kblk + 1) e.more 0 }) e.ts e.tsScale (128 * (e.kblk + 1)) 128 (runCounted n s)
      else runCounted n s) := by
    rw [advanceSlab, if_neg h]
    rfl
  rw [hstep, nextBlock]
  by_cases hgemm : e.isGemm = true
  · rw [curBuf_advanced e hgemm]
  · rw [Bool.not_eq_true _ |>.mp hgemm, Bool.and_false]
    rfl

theorem rget_nextBlock (o : Nat) : rget (nextBlock n e s) o = rget s o := by
  unfold nextBlock
  split
  · rfl
  · rfl

theorem rget_runCounted {o : Nat} (h0 : o ≠ 0) (h8 : o ≠ 8) : rget (runCounted n s) (engReg n.val o) = rget s (engReg n.val o) := by
  have hlen (v : Nat) : rget (fset s (engReg n.val 8) 31 0 v) (engReg n.val o) = rget s (engReg n.val o) := rget_fset_ne _ _ _ _ _ _ (engReg_ne _ h8)
  unfold runCounted
  dsimp only
  split
  · exact (rget_fset_ne _ _ _ _ _ _ (engReg_ne _ h0)).trans (hlen _)
  · exact hlen _

theorem runlen_runCounted (hr : keysRise s.dev) :
    fget (runCounted n s) (engReg n.val 8) 31 0 = min (fget s (engReg n.val 8) 31 0 + 128) (2 ^ 32 - 1) := by
  have hlen : fget (fset s (engReg n.val 8) 31 0 (min (fget s (engReg n.val 8) 31 0 + 128) (2 ^ 32 - 1))) (engReg n.val 8) 31 0 =
      min (fget s (engReg n.val 8) 31 0 + 128) (2 ^ 32 - 1) :=
    (fget_fset_same hr _ _ (by decide) (by decide)).trans (Nat.mod_eq_of_lt (by omega))
  unfold runCounted
  dsimp only
  split
  · exact (congrArg (bits · 31 0) (rget_fset_ne _ _ _ _ _ _ (engReg_ne _ (by decide)))).trans hlen
  · exact hlen

theorem bit_runCounted (hr : keysRise s.dev) (j : Nat) : bit (rget (runCounted n s) (engReg n.val 0)) j =
    (bit (rget s (engReg n.val 0)) j || (decide (j = 3) && decide (16384 < min (fget s (engReg n.val 8) 31 0 + 128) (2 ^ 32 - 1)))) := by
  have hsame (v : Nat) : rget (fset s (engReg n.val 8) 31 0 v) (engReg n.val 0) = rget s (engReg n.val 0) :=
    rget_fset_ne _ _ _ _ _ _ (engReg_ne _ (by decide))
  have h := bit_fbit_ite (fset_rise (engReg n.val 8) 31 0 (min (fget s (engReg n.val 8) 31 0 + 128) (2 ^ 32 - 1)) hr) (engReg n.val 0) j
    (k := 3) (by decide) (decide (16384 < min (fget s (engReg n.val 8) 31 0 + 128) (2 ^ 32 - 1)))
  rw [hsame] at h
  simpa only [runCounted, decide_eq_true_eq] using h

end registers
end Sys2Proof.Machine
end

section
/-! PROOFS. The core after a slab (R120, R131 to R133). -/

namespace Sys2Proof.Machine

/-! ### The loads of stationary blocks -/

section blocks
variable (n : CoreId) (e : MEntry) (errs : EngErrors) (s : State)

/-- The rows of a loaded block, and those that a poisoned line reaches. -/
def blockSlots (m : Memory) (n : CoreId) (d dsc : BitVec 256) (c0 cols : Nat) : Vector (BitVec 4096) 128 :=
  Vector.ofFn (fun r : Fin 128 => if r.val < (tileOf d).n1 then slotOf m n (tileOf d) (tileOf dsc) r.val c0 cols else 0)
def blockPsn (m : Memory) (n : CoreId) (d dsc : BitVec 256) (c0 cols : Nat) : BitVec 128 :=
  BitVec.ofNat 128 (packElems 1 ((List.range 128).map (fun r =>
    b1 (decide (r < (tileOf d).n1) && slotPoison m n (tileOf d) (tileOf dsc) r c0 cols))))

theorem coreAt_loadBlock (b : Fin 2) (d dsc : BitVec 256) (c0 cols : Nat) : coreAt (loadBlock n b d dsc c0 cols s) n =
    { coreAt s n with stb := (coreAt s n).stb.set b (blockSlots s.mem n d dsc c0 cols)
                      stbPsn := (coreAt s n).stbPsn.set b (blockPsn s.mem n d dsc c0 cols) } :=
  coreAt_modCore s n _

/-- The core is as before but for its queue and its stationary buffers. -/
def LoadsOnly (c d : Core) : Prop := { d with mq := c.mq, stb := c.stb, stbPsn := c.stbPsn } = c

theorem LoadsOnly.trans {c d f : Core} (h : LoadsOnly c d) (k : LoadsOnly d f) : LoadsOnly c f := by
  have hk := congrArg (fun x : Core => { x with mq := c.mq, stb := c.stb, stbPsn := c.stbPsn }) k
  exact hk.trans h

theorem loadBlock_loads (b : Fin 2) (d dsc : BitVec 256) (c0 cols : Nat) : LoadsOnly (coreAt s n) (coreAt (loadBlock n b d dsc c0 cols s) n) := by
  rw [coreAt_loadBlock]
  rfl

theorem nextBlock_loads : LoadsOnly (coreAt s n) (coreAt (nextBlock n e s) n) := by
  unfold nextBlock
  split
  · exact loadBlock_loads n s _ _ _ _ _
  · rfl

theorem runCounted_cores : (runCounted n s).cores = s.cores := by
  unfold runCounted
  dsimp only
  split
  · rfl
  · rfl

theorem coreAt_runCounted (m : CoreId) : coreAt (runCounted n s) m = coreAt s m := congrArg (·[m]) (runCounted_cores n s)

theorem advanceSlab_loads : LoadsOnly (coreAt s n) (coreAt (advanceSlab n e s).2 n) := by
  by_cases h : e.slab + 1 < slabsOf e.cls
  · rw [advanceSlab_of_lt n e h]
    rfl
  · rw [advanceSlab_last n e h]
    have hnext := nextBlock_loads n e (runCounted n s)
    rwa [coreAt_runCounted] at hnext

theorem coreAt_setHead : coreAt (setHead n e s) n = { coreAt s n with mq := e :: (coreAt s n).mq.drop 1 } := coreAt_modCore s n _

theorem slabAdvance_loads : LoadsOnly (coreAt s n) (coreAt (slabAdvance n e s) n) := by
  refine (advanceSlab_loads n e s).trans ?_
  rw [slabAdvance, coreAt_setHead]
  rfl

theorem mq_advanceSlab : (coreAt (advanceSlab n e s).2 n).mq = (coreAt s n).mq := by
  by_cases h : e.slab + 1 < slabsOf e.cls
  · rw [advanceSlab_of_lt n e h]
  · rw [advanceSlab_last n e h]
    refine Eq.trans ?_ (congrArg Core.mq (coreAt_runCounted n s n))
    change (coreAt (nextBlock n e (runCounted n s)) n).mq = _
    unfold nextBlock
    split
    · rw [coreAt_loadBlock]
    · rfl

/-- The next block comes into the buffer that the present one does not use. -/
theorem stbPsn_slabAdvance : (coreAt (slabAdvance n e s) n).stbPsn[e.curBuf] = (coreAt s n).stbPsn[e.curBuf] := by
  rw [slabAdvance, coreAt_setHead]
  by_cases h : e.slab + 1 < slabsOf e.cls
  · rw [advanceSlab_of_lt n e h]
  · rw [advanceSlab_last n e h, ← coreAt_runCounted n s n]
    change (coreAt (nextBlock n e (runCounted n s)) n).stbPsn[e.curBuf] = _
    unfold nextBlock
    split
    case isTrue hnext =>
      obtain ⟨-, hgemm⟩ := (Bool.and_eq_true _ _).mp hnext
      refine (congrArg (fun c : Core => c.stbPsn[e.curBuf]) (coreAt_loadBlock n (runCounted n s) _ _ _ _ _)).trans (Vector.getElem_set_ne (f1 _).isLt e.curBuf.isLt ?_)
      rw [curBuf_gemm hgemm]
      change (e.buf.val + e.kblk + 1) % 2 ≠ (e.buf.val + e.kblk) % 2
      omega
    case isFalse => rfl

theorem slabFlags_coreAt (res : List (Fin 128 × Nat × Term)) (m : CoreId) : coreAt (slabFlags n e res s) m = coreAt s m :=
  congrArg (·[m]) (slabFlags_cores n e s res)

/-- The core when the slab's results stand in the Vat. -/
theorem coreAt_slabWrite : coreAt (slabWrite n e s) n = { coreAt s n with
    vat := slabVat (slabResults s n e) (coreAt s n).vat, vatPsn := (slabPsnRows n e s).foldl (fun p r => setRow p r true) (coreAt s n).vatPsn } :=
  coreAt_modCore s n _

theorem slabDone_loads : LoadsOnly (coreAt (slabWrite n e (slabStart n e errs s)) n) (coreAt (slabDone n e errs s) n) := by
  have h := slabAdvance_loads n e (slabFlags n e (slabResults (slabStart n e errs s) n e) (slabWrite n e (slabStart n e errs s)))
  rwa [slabFlags_coreAt] at h

end blocks

/-! ### The core after a slab -/

section done
variable (n : CoreId) (e : MEntry) (errs : EngErrors) (s : State)

theorem columnOf_congr {s t : State} (h : t.mem = s.mem) (k : Nat) : columnOf t n e k = columnOf s n e k := by
  unfold columnOf weightAt
  rw [h]

theorem slabPoison_congr {s t : State} (h : t.mem = s.mem) (j k : Nat) : slabPoison t n e j k = slabPoison s n e j k := by
  unfold slabPoison
  rw [h]

theorem begin_stb (c : Core) : (e.begin c).stb = c.stb := by
  unfold MEntry.begin
  split
  · rfl
  · rfl

theorem begin_vat (c : Core) : (e.begin c).vat = c.vat := by
  unfold MEntry.begin
  split
  · rfl
  · rfl

theorem begin_stbPsn (c : Core) : (e.begin c).stbPsn = c.stbPsn := by
  unfold MEntry.begin
  split
  · rfl
  · rfl

theorem begin_loads (c : Core) : { e.begin c with vatPsn := c.vatPsn } = c := by
  unfold MEntry.begin
  split
  · rfl
  · rfl

/-- Errors met and the beginning of the run change no value that the slab sums. -/
theorem slabTerm_slabStart (r : Fin 128) (k : Nat) : slabTerm n e (slabStart n e errs s) (coreAt (slabStart n e errs s) n) r k =
    slabTerm n e s (coreAt (ensureBlock n e s) n) r k := by
  have hstb : (coreAt (slabStart n e errs s) n).stb = (coreAt (ensureBlock n e s) n).stb := by
    rw [coreAt_slabStart]
    exact begin_stb e _
  have hvat : (coreAt (slabStart n e errs s) n).vat = (coreAt (ensureBlock n e s) n).vat := by
    rw [coreAt_slabStart]
    exact begin_vat e _
  unfold slabTerm
  rw [columnOf_congr n e (slabStart_only n e errs s).mem, hstb, hvat]

theorem mem_slabStartResults {x : Fin 128 × Nat × Term} : x ∈ slabResults (slabStart n e errs s) n e ↔
    e.Writes x.1 x.2.1 ∧ x.2.2 = slabTerm n e s (coreAt (ensureBlock n e s) n) x.1 x.2.1 := by
  rw [mem_slabResults, slabTerm_slabStart]

theorem vat_slabDone (r : Fin 128) {k : Nat} (hk : k < 512) {_ : Decidable (e.Writes r k)} : elemOf 32 (coreAt (slabDone n e errs s) n).vat[r] k =
    if e.Writes r k then (slabTerm n e s (coreAt (ensureBlock n e s) n) r k).code % 2 ^ 32
    else elemOf 32 (coreAt (ensureBlock n e s) n).vat[r] k := by
  have hvat : (coreAt (slabDone n e errs s) n).vat = slabVat (slabResults (slabStart n e errs s) n e) (coreAt (ensureBlock n e s) n).vat := by
    have h := congrArg Core.vat (slabDone_loads n e errs s)
    rw [coreAt_slabWrite, coreAt_slabStart] at h
    refine h.trans (congrArg (slabVat _) (begin_vat e _))
  have hres : ∀ x ∈ slabResults (slabStart n e errs s) n e, x.2.2 = slabTerm n e s (coreAt (ensureBlock n e s) n) x.1 x.2.1 :=
    fun x hx => ((mem_slabStartResults n e errs s).mp hx).2
  rw [hvat, elemOf_slabVat hres _ r hk]
  refine if_congr ?_ rfl rfl
  constructor
  · rintro ⟨x, hx, rfl, rfl⟩
    exact ((mem_slabStartResults n e errs s).mp hx).1
  · exact fun h => ⟨(r, k, slabTerm n e s (coreAt (ensureBlock n e s) n) r k), (mem_slabStartResults n e errs s).mpr ⟨h, rfl⟩, rfl, rfl⟩


/-- The rows of the block and those of an error that the slab met. -/
theorem stbPsn_slabStart (r : Fin 128) : (coreAt (slabStart n e errs s) n).stbPsn[e.curBuf].getLsbD r.val = true ↔
    (coreAt (ensureBlock n e s) n).stbPsn[e.curBuf].getLsbD r.val = true ∨ r ∈ errs.stbUe := by
  have h : (coreAt (slabStart n e errs s) n).stbPsn[e.curBuf] =
      errs.stbUe.foldl (fun p r => setRow p r true) (coreAt (ensureBlock n e s) n).stbPsn[e.curBuf] := by
    refine (congrArg (fun c : Core => c.stbPsn[e.curBuf]) (coreAt_slabStart n e errs s)).trans ?_
    refine (Vector.getElem_set_self e.curBuf.isLt).trans ?_
    rw [begin_stbPsn]
  rw [h, getLsbD_setRows]
  by_cases hr : r ∈ errs.stbUe
  · simp [hr]
  · simp [hr]

theorem stbPsn_slabDone (r : Fin 128) : (coreAt (slabDone n e errs s) n).stbPsn[e.curBuf].getLsbD r.val = true ↔
    (coreAt (ensureBlock n e s) n).stbPsn[e.curBuf].getLsbD r.val = true ∨ r ∈ errs.stbUe := by
  rw [← stbPsn_slabStart n e errs s]
  have h := stbPsn_slabAdvance n e (slabFlags n e (slabResults (slabStart n e errs s) n e) (slabWrite n e (slabStart n e errs s)))
  rw [slabFlags_coreAt, coreAt_slabWrite] at h
  exact iff_of_eq (congrArg (fun p : BitVec 128 => p.getLsbD r.val = true) h)

/-- The poison of the Vat when the slab sums: cleared by an instruction that starts from +0, then marked where an error was met. -/
theorem vatPsn_slabStart (r : Fin 128) : (coreAt (slabStart n e errs s) n).vatPsn.getLsbD r.val = true ↔
    ((coreAt (ensureBlock n e s) n).vatPsn.getLsbD r.val = true ∧
      ¬ ((e.kblk = 0 ∧ e.acc = false) ∧ e.slab = 0 ∧ r.val < e.rows ∧ e.drop.getLsbD r.val = false)) ∨ r ∈ errs.vatUe := by
  have hbegin (c : Core) : (e.begin c).vatPsn.getLsbD r.val = true ↔ c.vatPsn.getLsbD r.val = true ∧
      ¬ ((e.kblk = 0 ∧ e.acc = false) ∧ e.slab = 0 ∧ r.val < e.rows ∧ e.drop.getLsbD r.val = false) := by
    rw [← mem_writtenRows e]
    unfold MEntry.begin
    split
    case isTrue h =>
      obtain ⟨hk, hs, ha⟩ := h
      rw [Bool.not_eq_true'] at ha
      rw [getLsbD_setRows]
      by_cases hr : r ∈ e.writtenRows
      · simp [hr, hk, hs, ha]
      · simp [hr]
    case isFalse h =>
      refine (and_iff_left ?_).symm
      rintro ⟨⟨hk, ha⟩, hs, -⟩
      exact h ⟨hk, hs, by rw [ha]; rfl⟩
  rw [coreAt_slabStart]
  refine Iff.trans ?_ (or_congr_left (hbegin _))
  change (errs.vatUe.foldl (fun p r => setRow p r true) (e.begin (coreAt (ensureBlock n e s) n)).vatPsn).getLsbD r.val = true ↔ _
  rw [getLsbD_setRows]
  by_cases hr : r ∈ errs.vatUe
  · simp [hr]
  · simp [hr]

theorem slabWeights_iff : slabWeights n e s = true ↔
    ∃ k ∈ e.slabCols, ∃ j < 128, 128 * e.kblk + j < tileK e.trans (tileOf e.tw) ∧ slabPoison s n e j k = true := by
  have hj (j : Nat) : j < min 128 (tileK e.trans (tileOf e.tw) - 128 * e.kblk) ↔ j < 128 ∧ 128 * e.kblk + j < tileK e.trans (tileOf e.tw) := by
    omega
  simp only [slabWeights, List.any_eq_true, List.mem_range, hj, and_assoc]

theorem mem_slabPsnRows (r : Fin 128) : r ∈ slabPsnRows n e s ↔ e.slabCols ≠ [] ∧ (r.val < e.rows ∧ e.drop.getLsbD r.val = false) ∧
    (slabWeights n e s = true ∨ (coreAt s n).stbPsn[e.curBuf].getLsbD r.val = true ∨
      (¬ (e.kblk = 0 ∧ e.acc = false) ∧ (coreAt s n).vatPsn.getLsbD r.val = true)) := by
  have hfirst : (e.acc || decide (0 < e.kblk)) = true ↔ ¬ (e.kblk = 0 ∧ e.acc = false) := by
    rw [Bool.or_eq_true, decide_eq_true_eq, Nat.pos_iff_ne_zero, not_and_or, Bool.not_eq_false, or_comm]
  have hbit (p : BitVec 128) : p.toNat.testBit r.val = p.getLsbD r.val := rfl
  unfold slabPsnRows slabRows
  by_cases hc : e.slabCols = []
  · simp [hc]
  · rw [if_neg hc, List.mem_filter, mem_writtenRows, Bool.or_eq_true, Bool.or_eq_true, Bool.and_eq_true, hfirst, or_assoc, hbit, hbit,
      and_iff_right (a := e.slabCols ≠ []) hc]

theorem vatPsn_slabDone (r : Fin 128) : (coreAt (slabDone n e errs s) n).vatPsn.getLsbD r.val = true ↔
    ((coreAt (ensureBlock n e s) n).vatPsn.getLsbD r.val = true ∧
      ¬ ((e.kblk = 0 ∧ e.acc = false) ∧ e.slab = 0 ∧ r.val < e.rows ∧ e.drop.getLsbD r.val = false)) ∨ r ∈ errs.vatUe ∨
    ((r.val < e.rows ∧ e.drop.getLsbD r.val = false) ∧ e.slabCols ≠ [] ∧
      (slabWeights n e s = true ∨ (coreAt (ensureBlock n e s) n).stbPsn[e.curBuf].getLsbD r.val = true ∨ r ∈ errs.stbUe)) := by
  have hdone : (coreAt (slabDone n e errs s) n).vatPsn =
      (slabPsnRows n e (slabStart n e errs s)).foldl (fun p r => setRow p r true) (coreAt (slabStart n e errs s) n).vatPsn := by
    have h := congrArg Core.vatPsn (slabDone_loads n e errs s)
    rw [coreAt_slabWrite] at h
    exact h
  have hweights : slabWeights n e (slabStart n e errs s) = slabWeights n e s := by
    simp only [slabWeights, slabPoison_congr n e (slabStart_only n e errs s).mem]
  have hmark : r ∈ slabPsnRows n e (slabStart n e errs s) ∨ (coreAt (slabStart n e errs s) n).vatPsn.getLsbD r.val = true ↔
      (coreAt (slabStart n e errs s) n).vatPsn.getLsbD r.val = true ∨ ((r.val < e.rows ∧ e.drop.getLsbD r.val = false) ∧ e.slabCols ≠ [] ∧
        (slabWeights n e s = true ∨ (coreAt (slabStart n e errs s) n).stbPsn[e.curBuf].getLsbD r.val = true)) := by
    rw [mem_slabPsnRows, hweights]
    tauto
  rw [hdone, getLsbD_setRows, ← or_assoc, ← vatPsn_slabStart, ← stbPsn_slabStart, ← hmark]
  by_cases hr : r ∈ slabPsnRows n e (slabStart n e errs s)
  · simp [hr]
  · simp [hr]

/-- The core is as before but for what the engine holds. -/
def SameContext (c d : Core) : Prop :=
  { d with mq := c.mq, stb := c.stb, stbPsn := c.stbPsn, vat := c.vat, vatPsn := c.vatPsn, dummyRun := c.dummyRun } = c

theorem SameContext.fields {c d : Core} (h : SameContext c d) : d.s = c.s ∧ d.v = c.v ∧ d.p = c.p ∧ d.t = c.t ∧ d.pc = c.pc ∧
    d.retired = c.retired ∧ d.rq = c.rq ∧ d.stbRec = c.stbRec ∧ d.fpctl = c.fpctl := by
  unfold SameContext at h
  rw [← h]
  exact ⟨rfl, rfl, rfl, rfl, rfl, rfl, rfl, rfl, rfl⟩

theorem context_slabDone : SameContext (coreAt (ensureBlock n e s) n) (coreAt (slabDone n e errs s) n) := by
  unfold SameContext
  generalize hc : coreAt (ensureBlock n e s) n = c
  have hdone := congrArg (fun x : Core => { x with
    mq := c.mq, stb := c.stb, stbPsn := c.stbPsn, vat := c.vat, vatPsn := c.vatPsn, dummyRun := c.dummyRun }) (slabDone_loads n e errs s)
  have hbegin := congrArg (fun x : Core => { x with
    mq := c.mq, stb := c.stb, stbPsn := c.stbPsn, vat := c.vat, vatPsn := c.vatPsn, dummyRun := c.dummyRun }) (begin_loads e c)
  rw [coreAt_slabWrite, coreAt_slabStart, hc] at hdone
  exact hdone.trans hbegin

end done
end Sys2Proof.Machine
end

section
/-! PROOFS. The progress, the registers and the reports of a slab (R121, R128, R131, R134, R153). -/

namespace Sys2Proof.Machine

section progress
variable (n : CoreId) (e : MEntry) (errs : EngErrors) (s : State)

theorem mq_ensureBlock : (coreAt (ensureBlock n e s) n).mq = (coreAt s n).mq := by
  unfold ensureBlock
  split
  · rw [coreAt_loadBlock]
  · rfl

theorem mq_begin (c : Core) : (e.begin c).mq = c.mq := by
  unfold MEntry.begin
  split
  · rfl
  · rfl

theorem mq_slabDone : (coreAt (slabDone n e errs s) n).mq =
    (advanceSlab n e (slabFlags n e (slabResults (slabStart n e errs s) n e) (slabWrite n e (slabStart n e errs s)))).1 :: (coreAt s n).mq.drop 1 := by
  rw [slabDone, slabAdvance, coreAt_setHead]
  refine congrArg (_ :: List.drop 1 ·) ?_
  rw [mq_advanceSlab, slabFlags_coreAt, coreAt_slabWrite, coreAt_slabStart]
  exact (mq_begin e _).trans (mq_ensureBlock n e s)

/-- The block that a last slab brings depends on memory alone. -/
theorem stb_nextBlock {s t : State} (hmem : t.mem = s.mem) (hstb : (coreAt t n).stb = (coreAt s n).stb) :
    (coreAt (nextBlock n e t) n).stb = (coreAt (nextBlock n e s) n).stb := by
  unfold nextBlock
  split
  · rw [coreAt_loadBlock, coreAt_loadBlock, hmem]
    dsimp only
    rw [hstb]
  · exact hstb

theorem stb_slabWrite : (coreAt (slabWrite n e (slabStart n e errs s)) n).stb = (coreAt (ensureBlock n e s) n).stb := by
  rw [coreAt_slabWrite, coreAt_slabStart]
  exact begin_stb e _

theorem stb_slabDone : (coreAt (slabDone n e errs s) n).stb =
    (coreAt (if e.slab + 1 < slabsOf e.cls then ensureBlock n e s else nextBlock n e (ensureBlock n e s)) n).stb := by
  rw [slabDone, slabAdvance, coreAt_setHead]
  change (coreAt (advanceSlab n e _).2 n).stb = _
  by_cases h : e.slab + 1 < slabsOf e.cls
  · rw [advanceSlab_of_lt n e h, if_pos h, slabFlags_coreAt]
    exact stb_slabWrite n e errs s
  · rw [advanceSlab_last n e h, if_neg h]
    have hmem (t : State) : (runCounted n t).mem = t.mem := by
      unfold runCounted
      dsimp only
      split
      · rfl
      · rfl
    refine stb_nextBlock n e ?_ ?_
    · exact (hmem _).trans ((slabFlags_only n e _ _).mem.trans ((slabStart_only n e errs s).mem.trans (ensureBlock_only n e s).mem.symm))
    · rw [coreAt_runCounted, slabFlags_coreAt]
      exact stb_slabWrite n e errs s

/-! ### The registers after a slab -/

theorem rget_slabAdvance_of_lt (h : e.slab + 1 < slabsOf e.cls) (o : Nat) : rget (slabAdvance n e s) o = rget s o := by
  rw [slabAdvance, advanceSlab_of_lt n e h]
  rfl

theorem rget_slabAdvance_last (h : ¬ e.slab + 1 < slabsOf e.cls) (o : Nat) : rget (slabAdvance n e s) o = rget (runCounted n s) o := by
  rw [slabAdvance, advanceSlab_last n e h]
  exact rget_nextBlock n e o

/-- The state whose registers the progress may change. -/
theorem rget_flagged {o : Nat} (h : o ≠ engReg n.val 0) :
    rget (slabFlags n e (slabResults (slabStart n e errs s) n e) (slabWrite n e (slabStart n e errs s))) o = rget (slabStart n e errs s) o :=
  rget_slabFlags n e _ h

variable {s}

theorem runlen_slabDone (hr : keysRise s.dev) : fget (slabDone n e errs s) (engReg n.val 8) 31 0 =
    let len := if e.kblk = 0 ∧ e.slab = 0 ∧ (!e.acc) = true then 0 else fget s (engReg n.val 8) 31 0
    if e.slab + 1 < slabsOf e.cls then len else min (len + 128) (2 ^ 32 - 1) := by
  have hrise : keysRise (slabFlags n e (slabResults (slabStart n e errs s) n e) (slabWrite n e (slabStart n e errs s))).dev :=
    (slabFlags_only n e _ _).rise ((slabStart_only n e errs s).rise hr)
  have hlen := congrArg (bits · 31 0) (rget_flagged n e errs s (engReg_ne n.val (show (8 : Nat) ≠ 0 by decide)))
  have hflag := Eq.trans hlen (runlen_slabStart n e errs hr)
  dsimp only
  rw [← hflag]
  by_cases h : e.slab + 1 < slabsOf e.cls
  · rw [if_pos h]
    exact congrArg (bits · 31 0) (rget_slabAdvance_of_lt n e _ h _)
  · rw [if_neg h]
    exact Eq.trans (congrArg (bits · 31 0) (rget_slabAdvance_last n e _ h _)) (runlen_runCounted n hrise)

theorem counts_slabDone (hr : keysRise s.dev) :
    fget (slabDone n e errs s) (engReg n.val 0x18) 15 0 = min (fget s (engReg n.val 0x18) 15 0 + errs.stbCe) 65535 ∧
    fget (slabDone n e errs s) (engReg n.val 0x18) 31 16 = min (fget s (engReg n.val 0x18) 31 16 + errs.vatCe) 65535 := by
  have hflag := rget_flagged n e errs s (engReg_ne n.val (show (0x18 : Nat) ≠ 0 by decide))
  have hsame (hi lo : Nat) : fget (slabDone n e errs s) (engReg n.val 0x18) hi lo = fget (slabStart n e errs s) (engReg n.val 0x18) hi lo := by
    rw [fget, fget, ← hflag]
    by_cases h : e.slab + 1 < slabsOf e.cls
    · exact congrArg (bits · hi lo) (rget_slabAdvance_of_lt n e _ h _)
    · exact congrArg (bits · hi lo) ((rget_slabAdvance_last n e _ h _).trans (rget_runCounted n (by decide) (by decide)))
  rw [hsame, hsame]
  exact counts_slabStart n e errs hr

theorem bit_slabAdvance (hr : keysRise s.dev) (j : Nat) : bit (rget (slabAdvance n e s) (engReg n.val 0)) j =
    (bit (rget s (engReg n.val 0)) j || (decide (j = 3) && decide (¬ e.slab + 1 < slabsOf e.cls ∧ 16384 < min (fget s (engReg n.val 8) 31 0 + 128) (2 ^ 32 - 1)))) := by
  by_cases h : e.slab + 1 < slabsOf e.cls
  · rw [rget_slabAdvance_of_lt n e s h]
    simp [h]
  · rw [rget_slabAdvance_last n e s h, bit_runCounted n hr]
    simp only [h, not_false_eq_true, true_and]

theorem bit_slabDone (hr : keysRise s.dev) (j : Nat) : bit (rget (slabDone n e errs s) (engReg n.val 0)) j =
    (bit (rget s (engReg n.val 0)) j ||
      (decide (j = 6) && (decide (e.sfmt ≠ .i8) && (slabResults (slabStart n e errs s) n e).any fun x => isNanV (val32 x.2.2.code))) ||
      (decide (j = 5) && (decide (e.sfmt ≠ .i8) && (slabResults (slabStart n e errs s) n e).any fun x => isInfV (val32 x.2.2.code))) ||
      (decide (j = 4) && (slabResults (slabStart n e errs s) n e).any fun x => x.2.2.wrap) ||
      (decide (j = 3) && decide (¬ e.slab + 1 < slabsOf e.cls ∧
        16384 < min ((if e.kblk = 0 ∧ e.slab = 0 ∧ (!e.acc) = true then 0 else fget s (engReg n.val 8) 31 0) + 128) (2 ^ 32 - 1)))) := by
  have hrise : keysRise (slabWrite n e (slabStart n e errs s)).dev := (slabStart_only n e errs s).rise hr
  have hlen : fget (slabFlags n e (slabResults (slabStart n e errs s) n e) (slabWrite n e (slabStart n e errs s))) (engReg n.val 8) 31 0 =
      if e.kblk = 0 ∧ e.slab = 0 ∧ (!e.acc) = true then 0 else fget s (engReg n.val 8) 31 0 :=
    Eq.trans (congrArg (bits · 31 0) (rget_flagged n e errs s (engReg_ne n.val (show (8 : Nat) ≠ 0 by decide)))) (runlen_slabStart n e errs hr)
  have hstart : rget (slabWrite n e (slabStart n e errs s)) (engReg n.val 0) = rget s (engReg n.val 0) :=
    rget_slabStart n e errs (by decide) (by decide) (by decide)
  rw [slabDone, bit_slabAdvance n e ((slabFlags_only n e _ _).rise hrise), bit_slabFlags n e hrise, hlen, hstart]

end progress
end Sys2Proof.Machine
end

section
/-! PROOFS. The engine's loads, completions and activity (R95, R121, R135, R136). -/

namespace Sys2Proof.Machine

section loads
variable (n : CoreId)

/-- Only core `n` may differ, in its queue, its stationary buffers and their poison. -/
structure Loads (s t : State) : Prop where
  rest : t = modCore s n (fun _ => coreAt t n)
  core : LoadsOnly (coreAt s n) (coreAt t n)

variable {n}

theorem modCore_const_self (s : State) : modCore s n (fun _ => coreAt s n) = s := by
  simp [modCore, setCore, coreAt]

theorem Loads.refl (s : State) : Loads n s s := ⟨(modCore_const_self s).symm, rfl⟩

theorem Loads.trans {s t u : State} (h : Loads n s t) (k : Loads n t u) : Loads n s u := by
  refine ⟨k.rest.trans ?_, h.core.trans k.core⟩
  conv_lhs => rw [h.rest]
  rw [modCore_modCore]

theorem Loads.modCore (s : State) {f : Core → Core} (hf : LoadsOnly (coreAt s n) (f (coreAt s n))) : Loads n s (modCore s n f) := by
  refine ⟨?_, ?_⟩
  · rw [coreAt_modCore]
    rfl
  · rwa [coreAt_modCore]

theorem loadBlock_only_loads (b : Fin 2) (d dsc : BitVec 256) (c0 cols : Nat) (s : State) : Loads n s (loadBlock n b d dsc c0 cols s) := by
  unfold loadBlock
  exact .modCore s rfl

/-- An entry but for its progress. -/
def MEntry.bare (e : MEntry) : MEntry := { e with progress := 0 }

/-- A pass over an entry leaves its instruction and loads blocks at most. -/
theorem loadEntry_loads (older : List MEntry) (e : MEntry) (s : State) :
    (loadEntry n older e s).1.bare = e.bare ∧ Loads n s (loadEntry n older e s).2 := by
  have hstay : ((e, s) : MEntry × State).1.bare = e.bare ∧ Loads n s ((e, s) : MEntry × State).2 := ⟨rfl, .refl s⟩
  have hmark : ((e.withLoad, s) : MEntry × State).1.bare = e.bare ∧ Loads n s ((e.withLoad, s) : MEntry × State).2 := ⟨rfl, .refl s⟩
  have hload (e' : MEntry) (he : e'.bare = e.bare) (b : Fin 2) (c0 cols : Nat) :
      ((e', loadBlock n b e.ts e.tsScale c0 cols s) : MEntry × State).1.bare = e.bare ∧
      Loads n s ((e', loadBlock n b e.ts e.tsScale c0 cols s) : MEntry × State).2 := ⟨he, loadBlock_only_loads ..⟩
  unfold loadEntry
  dsimp only
  split
  · split
    · exact hload _ rfl _ _ _
    · exact hstay
  · split
    · exact hstay
    · split
      · split
        · split
          · exact hload _ rfl _ _ _
          · exact hstay
        · split
          · exact hload _ rfl _ _ _
          · exact hstay
      · split
        · exact hmark
        · exact hstay

theorem loadAll_loads (older q : List MEntry) (s : State) :
    (loadAll n older q s).1.map MEntry.bare = (older ++ q).map MEntry.bare ∧ Loads n s (loadAll n older q s).2 := by
  induction q generalizing older s with
  | nil => exact ⟨by rw [List.append_nil]; rfl, .refl s⟩
  | cons e q ih =>
    obtain ⟨hbare, hloads⟩ := loadEntry_loads (n := n) older e s
    obtain ⟨hmap, hrest⟩ := ih (older ++ [(loadEntry n older e s).1]) (loadEntry n older e s).2
    refine ⟨hmap.trans ?_, hloads.trans hrest⟩
    simp [hbare]

theorem engineLoads_loads (s : State) : Loads n s (engineLoads n s) := by
  unfold engineLoads
  exact (loadAll_loads [] (coreAt s n).mq s).2.trans (.modCore _ rfl)

theorem mq_engineLoads (s : State) : (coreAt (engineLoads n s) n).mq.map MEntry.bare = (coreAt s n).mq.map MEntry.bare := by
  rw [engineLoads, coreAt_modCore]
  exact (loadAll_loads [] (coreAt s n).mq s).1

/-- The queue replaced. -/
def withQueue (n : CoreId) (q : List MEntry) (s : State) : State := modCore s n fun c => { c with mq := q }

theorem withQueue_self {s : State} {q : List MEntry} (h : (coreAt s n).mq = q) : withQueue n q s = s := by
  subst h
  exact modCore_const_self s

theorem engineLoads_single {s : State} {e : MEntry} (h : (coreAt s n).mq = [e]) :
    engineLoads n s = withQueue n [(loadEntry n [] e s).1] (loadEntry n [] e s).2 := by
  rw [engineLoads, h]
  rfl

theorem engineLoads_pair {s : State} {e f : MEntry} (h : (coreAt s n).mq = [e, f]) :
    engineLoads n s = withQueue n [(loadEntry n [] e s).1, (loadEntry n [(loadEntry n [] e s).1] f (loadEntry n [] e s).2).1]
      (loadEntry n [(loadEntry n [] e s).1] f (loadEntry n [] e s).2).2 := by
  rw [engineLoads, h]
  rfl

theorem mq_loadBlock (b : Fin 2) (d dsc : BitVec 256) (c0 cols : Nat) (s : State) : (coreAt (loadBlock n b d dsc c0 cols s) n).mq = (coreAt s n).mq := by
  rw [coreAt_loadBlock]

/-! ### The pass over one entry, by its instruction -/

variable (older : List MEntry) {e : MEntry} (s : State)

theorem loadEntry_mload (ho : e.opc = 0xA0) (hl : e.loaded = false) (hfree : older.any (MEntry.keeps e.buf) = false) :
    loadEntry n older e s = (e.withLoad, loadBlock n e.buf e.ts e.tsScale 0 (tileOf e.ts).n0 s) := by
  simp [loadEntry, ho, hl, hfree]

theorem loadEntry_mgemm (hg : e.isGemm = true) (hf : e.finished = false) (hl : e.loaded = false)
    (hfree : older.any (MEntry.keeps e.curBuf) = false) :
    loadEntry n older e s = (e.withLoad, loadBlock n e.curBuf e.ts e.tsScale (128 * e.kblk) 128 s) := by
  have ho : e.opc ≠ 0xA0 := by
    rw [of_decide_eq_true hg]
    decide
  simp [loadEntry, ho, hf, hg, hl, hfree]

theorem loadEntry_mgemm_ahead (hg : e.isGemm = true) (hf : e.finished = false) (hl : e.loaded = true) (hs : e.slab = 1) (hk : e.kblk + 1 < e.kblks) :
    loadEntry n older e s = (e, loadBlock n (f1 (e.curBuf.val + 1)) e.ts e.tsScale (128 * (e.kblk + 1)) 128 s) := by
  have ho : e.opc ≠ 0xA0 := by
    rw [of_decide_eq_true hg]
    decide
  simp [loadEntry, ho, hf, hg, hl, hs, hk]

theorem loadEntry_mmul (ho : e.opc = 0xA1) (hl : e.loaded = true) : loadEntry n older e s = (e, s) := by
  have hg : e.isGemm = false := decide_eq_false (by rw [ho]; decide)
  simp [loadEntry, ho, hg, hl]

theorem keeps_mmul {b : Fin 2} (ho : e.opc = 0xA1) (hb : b ≠ e.buf) : e.keeps b = false := by
  simp [MEntry.keeps, MEntry.isGemm, ho, hb.symm]

end loads

section activity
variable (n : CoreId) (s : State)

/-- The step toward the ceiling or toward 0 (R135). -/
def rampNext (s : State) (n : CoreId) (a : Nat) : Nat :=
  if hasWork s n then (if a < ceilInForce s n then a + 1 else if ceilInForce s n < a then a - 1 else a) else a - 1

/-- The core after four cycles of activity. -/
def rampCore (s : State) (n : CoreId) : Core :=
  { coreAt s n with actStep := rampNext s n (coreAt s n).actStep, actSlabs := ((coreAt s n).actSlabs + 4 * (coreAt s n).actStep) % 8 }

def rampState (s : State) (n : CoreId) : State :=
  if engineRuns s n = true then engineLoads n (modCore s n fun _ => rampCore s n) else modCore s n fun _ => rampCore s n

theorem exec_engineRampStep : exec (.engineRampStep n) s = .next (rampState s n) := rfl

theorem actStep_rampState : (coreAt (rampState s n) n).actStep = rampNext s n (coreAt s n).actStep := by
  have hcore : (coreAt (modCore s n fun _ => rampCore s n) n).actStep = rampNext s n (coreAt s n).actStep := by
    rw [coreAt_modCore]
    rfl
  unfold rampState
  split
  · exact (congrArg Core.actStep (engineLoads_loads (n := n) (modCore s n fun _ => rampCore s n)).core).trans hcore
  · exact hcore

/-- The run of dummy slabs at its limit (R122). -/
def dummyEnd (s : State) (n : CoreId) : State :=
  if engineRuns s n && (coreAt s n).mq.any (fun e => !e.finished) then modCore s n fun x => { x with dummyRun := 32, actStep := x.actStep - 1 } else s

theorem exec_dummySlabRunLimit : exec (.dummySlabRunLimit n) s = .next (dummyEnd s n) := rfl

theorem dummyEnd_rest : dummyEnd s n = modCore s n fun c => { c with dummyRun := (coreAt (dummyEnd s n) n).dummyRun, actStep := (coreAt (dummyEnd s n) n).actStep } := by
  unfold dummyEnd
  split
  · rw [coreAt_modCore]
    rfl
  · exact (modCore_const_self s).symm

end activity
end Sys2Proof.Machine
end

section
/-! PROOFS. The events of the matrix engine. -/

namespace Sys2Proof.Machine

section events
variable {n : CoreId} {e : MEntry} {rest : List MEntry} (errs : EngErrors) {s : State}

/-! ### The NaN event of a slab (R153) -/

/-- The event of the results of a slab. -/
def slabEvent (n : CoreId) (e : MEntry) (errs : EngErrors) (s : State) : State :=
  slabNan n e (slabResults (slabStart n e errs s) n e) (slabDone n e errs s)

theorem slabEvent_none (h : ∀ r k, e.Writes r k → (slabTerm n e s (coreAt (ensureBlock n e s) n) r k).cause = none) :
    slabEvent n e errs s = slabDone n e errs s := by
  have hnone : (slabResults (slabStart n e errs s) n e).find? (fun x => x.2.2.cause.isSome) = none := by
    refine List.find?_eq_none.mpr fun x hx => ?_
    obtain ⟨hw, hx⟩ := (mem_slabStartResults n e errs s).mp hx
    simp [hx, h _ _ hw]
  unfold slabEvent slabNan
  rw [hnone]

/-- The lowest position with a NaN cause is reported. -/
theorem slabEvent_some {r : Fin 128} {k cause : Nat} (hw : e.Writes r k)
    (hc : (slabTerm n e s (coreAt (ensureBlock n e s) n) r k).cause = some cause)
    (hlow : ∀ r' k', e.Writes r' k' → r'.val < r.val ∨ (r' = r ∧ k' < k) → (slabTerm n e s (coreAt (ensureBlock n e s) n) r' k').cause = none) :
    slabEvent n e errs s = nanEvent (slabDone n e errs s) n 2 3 cause e.kblk k r.val e.pc := by
  have hfind : (slabResults (slabStart n e errs s) n e).find? (fun x => x.2.2.cause.isSome) =
      some (r, k, slabTerm n e s (coreAt (ensureBlock n e s) n) r k) := by
    refine find?_eq_some_of_pairwise (slabResults_rise n e _) _ ((mem_slabStartResults n e errs s).mpr ⟨hw, rfl⟩) (by simp [hc]) fun y hy hlt => ?_
    obtain ⟨hwy, hy⟩ := (mem_slabStartResults n e errs s).mp hy
    simp [hy, hlow _ _ hwy hlt]
  unfold slabEvent slabNan
  rw [hfind]
  simp only [hc, Option.getD_some]

/-! ### The flags of a slab (R128, R131) -/

theorem any_slabStartResults (p : Term → Bool) : (slabResults (slabStart n e errs s) n e).any (fun x => p x.2.2) = true ↔
    ∃ r k, e.Writes r k ∧ p (slabTerm n e s (coreAt (ensureBlock n e s) n) r k) = true := by
  simp only [any_slabResults, slabTerm_slabStart]

/-- LONGSUM. -/
theorem longsum_slabDone (hr : keysRise s.dev) : bit (rget (slabDone n e errs s) (engReg n.val 0)) 3 = true ↔
    bit (rget s (engReg n.val 0)) 3 = true ∨ (¬ e.slab + 1 < slabsOf e.cls ∧
      16384 < min ((if e.kblk = 0 ∧ e.slab = 0 ∧ (!e.acc) = true then 0 else fget s (engReg n.val 8) 31 0) + 128) (2 ^ 32 - 1)) := by
  rw [bit_slabDone n e errs hr]
  simp only [Bool.or_eq_true, Bool.and_eq_true, decide_eq_true_eq, Nat.reduceEqDiff, false_and, or_false, true_and]

/-- IWRAP. -/
theorem iwrap_slabDone (hr : keysRise s.dev) : bit (rget (slabDone n e errs s) (engReg n.val 0)) 4 = true ↔
    bit (rget s (engReg n.val 0)) 4 = true ∨ ∃ r k, e.Writes r k ∧ (slabTerm n e s (coreAt (ensureBlock n e s) n) r k).wrap = true := by
  rw [bit_slabDone n e errs hr, ← any_slabStartResults errs (fun x => x.wrap)]
  simp only [Bool.or_eq_true, Bool.and_eq_true, decide_eq_true_eq, Nat.reduceEqDiff, false_and, or_false, true_and]

/-- INFOUT. -/
theorem infout_slabDone (hr : keysRise s.dev) : bit (rget (slabDone n e errs s) (engReg n.val 0)) 5 = true ↔
    bit (rget s (engReg n.val 0)) 5 = true ∨
      (e.sfmt ≠ .i8 ∧ ∃ r k b, e.Writes r k ∧ val32 (slabTerm n e s (coreAt (ensureBlock n e s) n) r k).code = .inf b) := by
  have hany := any_slabStartResults (n := n) (e := e) (s := s) errs (fun x => isInfV (val32 x.code))
  simp only [isInfV_iff, ← exists_and_left] at hany
  rw [bit_slabDone n e errs hr, ← hany]
  simp only [Bool.or_eq_true, Bool.and_eq_true, decide_eq_true_eq, Nat.reduceEqDiff, false_and, or_false, true_and]

/-- NANOUT. -/
theorem nanout_slabDone (hr : keysRise s.dev) : bit (rget (slabDone n e errs s) (engReg n.val 0)) 6 = true ↔
    bit (rget s (engReg n.val 0)) 6 = true ∨
      (e.sfmt ≠ .i8 ∧ ∃ r k, e.Writes r k ∧ val32 (slabTerm n e s (coreAt (ensureBlock n e s) n) r k).code = .nan) := by
  have hany := any_slabStartResults (n := n) (e := e) (s := s) errs (fun x => isNanV (val32 x.code))
  simp only [isNanV_iff] at hany
  rw [bit_slabDone n e errs hr, ← hany]
  simp only [Bool.or_eq_true, Bool.and_eq_true, decide_eq_true_eq, Nat.reduceEqDiff, false_and, or_false, true_and]

/-! ### SLAB_COMPLETE -/

theorem slabComplete_nothing (h : engineRuns s n = false ∨ (coreAt s n).mq = [] ∨ ∃ e r, (coreAt s n).mq = e :: r ∧ e.finished = true) :
    exec (.slabComplete n errs) s = .next s := by
  change execSlabComplete n errs s = _
  unfold execSlabComplete
  obtain hruns | hempty | ⟨e, r, hmq, hfin⟩ := h
  · rw [hruns]
    rfl
  · rw [hempty]
    simp only [ite_self]
  · rw [hmq]
    simp only [hfin, if_true, ite_self]

theorem exec_slabComplete (hruns : engineRuns s n = true) (hmq : (coreAt s n).mq = e :: rest) (hfin : e.finished = false) :
    exec (.slabComplete n errs) s = .next (if errs.stbUe = [] ∧ errs.vatUe = [] then
        (if engineRuns (slabEvent n e errs s) n = true then engineLoads n (slabEvent n e errs s) else slabEvent n e errs s)
      else takeExc (slabEvent n e errs s) n { code := 0xB, src := 2 } 3 false e.pc (coreAt (slabEvent n e errs s) n).pc) := by
  have hexec : exec (.slabComplete n errs) s =
      .next (if engineRuns (runSlab n e errs s) n = true then engineLoads n (runSlab n e errs s) else runSlab n e errs s) := by
    change execSlabComplete n errs s = _
    unfold execSlabComplete
    rw [hmq, if_pos hruns]
    simp only [hfin, Bool.false_eq_true, if_false]
  have hslab : runSlab n e errs s = if errs.stbUe = [] ∧ errs.vatUe = [] then slabEvent n e errs s else engineUe n e.pc (slabEvent n e errs s) :=
    runSlab_eq n e errs s
  rw [hexec, hslab]
  by_cases herr : errs.stbUe = [] ∧ errs.vatUe = []
  · rw [if_pos herr, if_pos herr]
  · rw [if_neg herr, if_neg herr, engineUe, if_neg (by rw [not_engineRuns_takeExc]; exact Bool.false_ne_true)]

/-! ### MATRIX_INSTR_COMPLETE -/

theorem matrixInstrComplete_waits (hruns : engineRuns s n = true) (hmq : (coreAt s n).mq = e :: rest) (hfin : e.finished = false) :
    exec (.matrixInstrComplete n) s = .next s := by
  change execMatrixInstrComplete n s = _
  unfold execMatrixInstrComplete
  rw [hmq, if_pos hruns]
  simp only [hfin, Bool.false_eq_true, if_false]

theorem exec_matrixInstrComplete (hruns : engineRuns s n = true) (hmq : (coreAt s n).mq = e :: rest) (hfin : e.finished = true) :
    exec (.matrixInstrComplete n) s = .next (engineLoads n (modCore (finishEntry n e s) n fun x => { x with mq := x.mq.drop 1 })) := by
  change execMatrixInstrComplete n s = _
  unfold execMatrixInstrComplete
  rw [hmq, if_pos hruns]
  simp only [hfin, if_true]

/-- The oldest entry's place is freed. -/
theorem drop_head {t : State} (h : (coreAt t n).mq = e :: rest) : (modCore t n fun x => { x with mq := x.mq.drop 1 }) = withQueue n rest t := by
  unfold withQueue modCore
  dsimp only
  rw [h]
  rfl

variable (s)

theorem finishEntry_mload (h : e.opc = 0xA0) :
    finishEntry n e s = if e.loaded = true then s else loadBlock n e.buf e.ts e.tsScale 0 (tileOf e.ts).n0 s := by
  unfold finishEntry
  by_cases hl : e.loaded = true
  · simp [h, hl]
  · simp [h, hl]

theorem finishEntry_mzero (h : e.opc = 0xA3) :
    finishEntry n e s = modCore (rset s (engReg n.val 8) 0) n fun c => { c with vat := Vector.replicate 128 0, vatPsn := 0 } := by
  unfold finishEntry
  rw [if_neg (by rw [h]; rintro ⟨ho, -⟩; exact absurd ho (by decide)), if_pos h]

theorem finishEntry_other (h0 : e.opc ≠ 0xA0) (h3 : e.opc ≠ 0xA3) : finishEntry n e s = s := by
  unfold finishEntry
  rw [if_neg (fun h => h0 h.1), if_neg h3]

end events
end Sys2Proof.Machine
end

section
/-! PROOFS. O22: the events of the matrix engine. -/

namespace Sys2Proof.Machine

/-- Settles O22: the slab's state `slabDone` field by field, and the loads as passes over the queue. -/
theorem matrixEngine : Obligations.MatrixEngine := by
  unfold Obligations.MatrixEngine
  refine ⟨fun n errs s => slabComplete_nothing errs, fun n errs s e rest hruns hmq hfin hrising => ?_,
    fun n s e rest hruns hmq => ⟨matrixInstrComplete_waits hruns hmq, fun hfin => ?_⟩, fun n x => ?_, fun n s => ?_⟩
  · have hr : keysRise s.dev := (rising_map_iff _).mp hrising
    intro first c0 b cols sum rows wrote fp last len len' weight flag
    have hlast : e.slab < slabsOf e.cls → (last ↔ ¬ e.slab + 1 < slabsOf e.cls) := fun h => by
      change e.slab + 1 = slabsOf e.cls ↔ _
      omega
    have hlen : len = if e.kblk = 0 ∧ e.slab = 0 ∧ (!e.acc) = true then 0 else fget s (engReg n.val 8) 31 0 :=
      if_congr (by change (e.kblk = 0 ∧ e.acc = false) ∧ e.slab = 0 ↔ _; rw [Bool.not_eq_true']; tauto) rfl rfl
    refine ⟨slabDone n e errs s, ?_, ?_, ?_, ?_, iwrap_slabDone errs hr, infout_slabDone errs hr,
      nanout_slabDone errs hr, stbPsn_slabDone n e errs s, ?_, ?_, (counts_slabDone n e errs hr).1, (counts_slabDone n e errs hr).2, ?_⟩
    · exact fun r k hk => vat_slabDone n e errs s r hk
    · intro hslab
      rw [mq_slabDone, hmq]
      by_cases h : e.slab + 1 < slabsOf e.cls
      · rw [advanceSlab_of_lt n e h, if_neg (fun hl => (hlast hslab).mp hl h)]
        rfl
      · rw [advanceSlab_last n e h, if_pos ((hlast hslab).mpr h)]
        rfl
    · intro hslab
      rw [runlen_slabDone n e errs hr, ← hlen]
      by_cases h : e.slab + 1 < slabsOf e.cls
      · exact (if_pos h).trans (if_neg (fun hl => (hlast hslab).mp hl h)).symm
      · exact (if_neg h).trans (if_pos ((hlast hslab).mpr h)).symm
    · intro hslab
      refine (longsum_slabDone errs hr).trans (or_congr_right ?_)
      rw [← hlen, ← hlast hslab]
      refine and_congr_right fun hl => ?_
      change _ ↔ 16384 < if last then min (len + 128) (2 ^ 32 - 1) else len
      rw [if_pos hl]
    · intro r
      refine (vatPsn_slabDone n e errs s r).trans ?_
      rw [slabWeights_iff]
    · intro hslab next z
      refine (stb_slabDone n e errs s).trans ?_
      have hz : (if e.slab + 1 < slabsOf e.cls then ensureBlock n e s else nextBlock n e (ensureBlock n e s)) = z := by
        by_cases h : e.slab + 1 < slabsOf e.cls
        · exact (if_pos h).trans (if_neg (fun hn => (hlast hslab).mp hn.1 h)).symm
        · refine (if_neg h).trans (if_congr ?_ rfl rfl)
          rw [Bool.and_eq_true, MEntry.more, decide_eq_true_eq]
          exact ⟨fun hn => ⟨(hlast hslab).mpr h, hn.2, hn.1⟩, fun hn => ⟨hn.2.2, hn.2.1⟩⟩
      rw [hz]
    · obtain ⟨hs, hv, hp, ht, hpc, hret, hrq, hrec, hfp⟩ := (context_slabDone n e errs s).fields
      have honly := slabDone_only n e errs s
      exact ⟨hs, hv, hp, ht, hpc, hret, hrq, hrec, hfp, honly.mem, honly.others, slabEvent n e errs s, slabEvent_none errs,
        fun r k cause hw hc hlow => slabEvent_some errs hw hc hlow, exec_slabComplete errs hruns hmq hfin⟩
  · have hexec := exec_matrixInstrComplete hruns hmq hfin
    refine ⟨fun ho => ?_, fun ho => ?_, fun h0 h3 => ?_⟩
    · have hmq' : (coreAt (if e.loaded = true then s else loadBlock n e.buf e.ts e.tsScale 0 (tileOf e.ts).n0 s) n).mq = e :: rest := by
        split
        · exact hmq
        · exact (mq_loadBlock _ _ _ _ _ s).trans hmq
      rw [hexec, finishEntry_mload s ho, drop_head hmq']
      rfl
    · rw [hexec, finishEntry_mzero s ho, drop_head (rest := rest) (by rw [coreAt_modCore]; exact hmq)]
      rfl
    · rw [hexec, finishEntry_other s h0 h3, drop_head hmq]
      rfl
  · refine ⟨(engineLoads_loads x).rest, (engineLoads_loads x).core, mq_engineLoads x, fun e hq ho hl => ?_,
      fun e hq hg hf => ⟨fun hl => ?_, fun hl hs hk => ?_⟩, fun e f hq he hel hf hfl hb => ?_⟩
    · rw [engineLoads_single hq, loadEntry_mload [] x ho hl rfl]
      rfl
    · rw [engineLoads_single hq, loadEntry_mgemm [] x hg hf hl rfl]
      rfl
    · rw [engineLoads_single hq, loadEntry_mgemm_ahead [] x hg hf hl hs hk]
      exact withQueue_self ((mq_loadBlock _ _ _ _ _ x).trans hq)
    · have hfree : [e].any (MEntry.keeps f.buf) = false := by
        rw [List.any_cons, keeps_mmul he hb]
        rfl
      rw [engineLoads_pair hq, loadEntry_mmul [] x he hel, loadEntry_mload [e] x hf hfl hfree]
      rfl
  · have hramp := actStep_rampState n s
    refine ⟨rampState s n, dummyEnd s n, exec_engineRampStep n s, exec_dummySlabRunLimit n s, ⟨rampCore s n, rfl, rfl, rfl⟩, dummyEnd_rest n s,
      fun hw hlt => ?_, fun hw hle => ?_, fun hw => ?_, fun hruns ⟨e, he, hfin⟩ => ?_⟩
    · rw [hramp, rampNext, if_pos hw, if_pos hlt]
    · rw [hramp, rampNext, if_pos hw, if_neg hle.not_gt]
      split
      · omega
      · omega
    · rw [hramp, rampNext, hw]
      rfl
    · have hany : (coreAt s n).mq.any (fun e => !e.finished) = true := List.any_eq_true.mpr ⟨e, he, by rw [hfin]; rfl⟩
      rw [dummyEnd, hruns, hany, Bool.true_and, if_pos rfl, coreAt_modCore]
      exact ⟨rfl, rfl⟩

end Sys2Proof.Machine
end
